-- ==== Sys2Proof/Word.lean ====
section
/-! DEFINITION. The word, byte and address types, and the plainest arithmetic on them. -/

namespace Sys2Proof

/-- A 64-bit word: the contents of an `s` register, a system register or the pc (R17, R24). -/
abbrev Word := BitVec 64

/-- One byte of the local store or of global memory (R4). -/
abbrev Byte := BitVec 8

/-- A local address as a cell's key. -/
abbrev Addr := Nat

/-- A core identifier as the 24 bits of R26. -/
abbrev Cid := Nat

end Sys2Proof
end

