-- ==== Sys2Proof/Config.lean ====
section
/-! DEFINITION. The free values: what the spec leaves open while the machine goes on. Each is a constant
without a body, applied to the model's step counter or to the values it depends on, so no proof can use a value
of it. The assumption log names each. -/

namespace Sys2Proof

/-- Core cycles that pass in a step (log entry 3). -/
opaque Config.elapsed : Nat → Nat

/-- Hub cycles that pass in a step (log entry 3). -/
opaque Config.elapsedHub : Nat → Nat

/-- Which version of a block a fetch returns between a store and the next `isync`, by step and block (R15, log
entry 4). -/
opaque Config.staleChoice : Nat → Nat → Nat

/-- How many accesses of a vector or tile instruction a step performs (R140, log entry 63). -/
opaque Config.pieces : Nat → Nat

/-- Whether a chunk access is served from the slice's cache (R322, log entry 5). -/
opaque Config.cacheHit : Nat → Bool

/-- The words of an answer of the security engine to a request, by request code, arguments and step
(R409, log entry 6). -/
opaque Config.spdmAnswer : Nat → Nat → Nat → List Word

/-- The bytes of a save area that are the context-save engine's own, by step and offset (R391, log entry 25). -/
opaque Config.saveByte : Nat → Nat → Byte

/-- The words of the device attestation key's signature over a hash (R409, log entry 6). -/
opaque Config.deviceSig : BitVec 256 → Nat → List Word

/-- The bytes of the mailbox as the host reads them, by step and offset (R402, log entry 70). -/
opaque Config.mailbox : Nat → Nat → Byte

/-- The key and the salt of a port's key load: the port, the number of the load, and whether it is for sending
(R412, log entry 71). -/
opaque Config.linkKey : Nat → Nat → Bool → BitVec 256
opaque Config.linkSalt : Nat → Nat → Bool → BitVec 32

/-- A byte of the payload or the tag of a flit as AES-GCM makes it under a key, an IV and a header; one IV protects one
flit (R412, log entry 71). -/
opaque Config.sealedByte : BitVec 256 → BitVec 96 → Word → Nat → Byte

/-- The kind of a flit, by the port's protocol revision and whether it carries data (R411, log entry 71). -/
opaque Config.flitType : Nat → Bool → BitVec 8

/-- Whether a step reads a place of an SRAM array that an error marks (R389, log entry 72). -/
opaque Config.sramRead : Nat → Bool

/-- The failure code of a bring-up step that passes its time limit (R404, R406, log entry 7). -/
opaque Config.limitCode : Nat → BitVec 8

end Sys2Proof
end

