-- ==== Sys2Proof/Syntax/Groups.lean ====
section
/-! DEFINITION. Register names, shared codes and operand groups: the parts an instruction is made of.
Operands carry the register files of R35 in their
types; the remaining limits of the rows are in WellFormed. -/

namespace Sys2Proof

/-! ## Register names (R17, R35) -/

abbrev SReg := Fin 64
abbrev FReg := Fin 32
abbrev VReg := Fin 48
abbrev QReg := Fin 8
abbrev TReg := Fin 8
abbrev ZReg := Fin 4
/-- A tensor shape slot (R145). -/
abbrev Slot := Fin 4
/-- A copy channel (R344). -/
abbrev Chan := Fin 4

/-! ## Shared codes (R50 to R54) -/

/-- Element types, in the order of their codes (R50). -/
inductive EType where
  | i4 | i8 | i16 | i32 | i64 | e2m1 | e2m3 | e3m2 | e4m3 | e5m2 | ds8 | bf16 | fp16 | fp32 | fp64
deriving DecidableEq, Repr

/-- RM codes (R51); `dyn` is 111. -/
inductive RMode where
  | rne | rtz | rdn | rup | rmm | dyn
deriving DecidableEq, Repr

/-- WT codes (R53). -/
inductive WaitSel where
  | none | st | cp | all
deriving DecidableEq, Repr

/-- Access sizes 1, 2, 4 and 8 bytes (R52, codes 0 to 3). -/
inductive Size where
  | b1 | b2 | b4 | b8
deriving DecidableEq, Repr

/-- Accumulator types (R45). -/
inductive TZ where
  | fp32 | fp64 | int32
deriving DecidableEq, Repr

/-- Epilogue codes (R54). -/
inductive Epi where
  | cvt | relu | bias | biasRelu
deriving DecidableEq, Repr

/-- The operations of a local or remote atomic (R117). -/
inductive AmoKind where
  | add | and | or | xor | min | max | minu | maxu | swp | cas
deriving DecidableEq, Repr

/-- Fence scopes (R64). -/
inductive FenceScope where
  | core | cluster | die | package | fabric
deriving DecidableEq, Repr

/-- Barrier scopes (R64). -/
inductive BarScope where
  | gang | cluster | package | fabric
deriving DecidableEq, Repr

/-- The system registers of R24, by name. -/
inductive SysReg where
  | status | epc | cause | tval | tvec | kscratch | ienable | ipend | ubase | ulimit
  | fpctl | fpflags
  | cid | stage | clause | gangpos | gangshape | ctx | seqpos
  | cycle | instret
  | cntld | cntst | cntcp | cnttl | stcl | stpk | stfb
  | afault | afpc | afaddr
  | xdone (ch : Chan) | xnext (ch : Chan) | mbox
  | rngkey | rngstep
  | tshp (t : TReg)
  | fit | gbase | glen | genno | gstat
  | wlbound | wlshift | wlstat | wlxint | wlstall
  | sndstat | ibctl | ibcount | trctl
deriving DecidableEq, Repr

/-! ## Operand groups, one for each shape of the format tables (R37 to R48) -/

structure AluOp where
  d : SReg
  a : SReg
  b : SReg
  w : Bool
deriving DecidableEq, Repr

structure CmpOp where
  d : SReg
  a : SReg
  b : SReg
deriving DecidableEq, Repr

structure SelOp where
  d : SReg
  a : SReg
  b : SReg
  c : SReg
deriving DecidableEq, Repr

structure MaddOp where
  d : SReg
  a : SReg
  b : SReg
  c : SReg
  w : Bool
deriving DecidableEq, Repr

structure Imm30Op where
  d : SReg
  a : SReg
  imm : BitVec 30
deriving DecidableEq, Repr

structure Imm62Op where
  d : SReg
  a : SReg
  imm : BitVec 62
deriving DecidableEq, Repr

structure ShiftOp where
  d : SReg
  a : SReg
  n : Fin 64
deriving DecidableEq, Repr

structure UnOp where
  d : SReg
  a : SReg
deriving DecidableEq, Repr

/-- `sext`, `zext`: the width is 1 to 64. -/
structure WidthOp where
  d : SReg
  a : SReg
  width : Nat
deriving DecidableEq, Repr

/-- `bext`, `bins`: position and width. -/
structure FieldOp where
  d : SReg
  a : SReg
  pos : Fin 64
  width : Nat
deriving DecidableEq, Repr

structure LeaOp where
  d : SReg
  a : SReg
  b : SReg
  sh : Fin 64
  imm : BitVec 23
deriving DecidableEq, Repr

/-- The address part of the M format (R40, R41) with its wait field. -/
structure MemArg where
  a : SReg
  b : SReg
  x : Bool
  off : BitVec 22
  wt : WaitSel
deriving DecidableEq, Repr

structure LdOp where
  d : SReg
  size : Size
  u : Bool
  m : MemArg
deriving DecidableEq, Repr

structure StOp where
  d : SReg
  size : Size
  m : MemArg
deriving DecidableEq, Repr

structure FMemOp where
  d : FReg
  m : MemArg
deriving DecidableEq, Repr

/-- A local atomic (R117): the base register, the offset, the wait field and the size. -/
structure LamoOp where
  d : SReg
  a : SReg
  b : SReg
  size : Size
  off : BitVec 22
  wt : WaitSel
deriving DecidableEq, Repr

structure BrOp where
  a : SReg
  b : SReg
  off : BitVec 30
deriving DecidableEq, Repr

structure JalrOp where
  d : SReg
  a : SReg
  imm : BitVec 30
deriving DecidableEq, Repr

structure FOp2 where
  d : FReg
  a : FReg
  w : Bool
  rm : RMode
deriving DecidableEq, Repr

structure FOp3 where
  d : FReg
  a : FReg
  b : FReg
  w : Bool
  rm : RMode
deriving DecidableEq, Repr

structure FOp4 where
  d : FReg
  a : FReg
  b : FReg
  c : FReg
  w : Bool
  rm : RMode
deriving DecidableEq, Repr

structure FBit3 where
  d : FReg
  a : FReg
  b : FReg
deriving DecidableEq, Repr

structure FCmpOp where
  d : SReg
  a : FReg
  b : FReg
deriving DecidableEq, Repr

structure FToInt where
  d : SReg
  a : FReg
  rm : RMode
deriving DecidableEq, Repr

structure IntToF where
  d : FReg
  a : SReg
  w : Bool
  rm : RMode
deriving DecidableEq, Repr

structure FNarrow where
  d : FReg
  a : FReg
  rm : RMode
deriving DecidableEq, Repr

/-- The control fields of the V format outside OPC 0x20 to 0x22 (R44). -/
structure VCtl where
  et : EType
  q : QReg
  hld : BitVec 3
  rm : RMode
  sat : Bool
  sr : Bool
deriving DecidableEq, Repr

/-- The control fields of the V format in OPC 0x20 to 0x22 (R44). -/
structure VMemCtl where
  et : EType
  q : QReg
  hld : BitVec 3
  wt : WaitSel
deriving DecidableEq, Repr

/-- `vld`, `vst` through a slot. -/
structure VSlotOp where
  d : VReg
  slot : Slot
  k : VMemCtl
deriving DecidableEq, Repr

/-- `vld.b`, `vst.b`: base and stride. -/
structure VBaseOp where
  d : VReg
  a : SReg
  b : SReg
  k : VMemCtl
deriving DecidableEq, Repr

structure VOneOp where
  d : VReg
  a : SReg
  k : VMemCtl
deriving DecidableEq, Repr

/-- `vgather`, `vscatter`. -/
structure VIdxOp where
  d : VReg
  a : SReg
  b : VReg
  k : VMemCtl
deriving DecidableEq, Repr

structure VV where
  d : VReg
  a : VReg
  k : VCtl
deriving DecidableEq, Repr

structure VVV where
  d : VReg
  a : VReg
  b : VReg
  k : VCtl
deriving DecidableEq, Repr

structure VVVV where
  d : VReg
  a : VReg
  b : VReg
  c : VReg
  k : VCtl
deriving DecidableEq, Repr

structure VFromS where
  d : VReg
  a : SReg
  k : VCtl
deriving DecidableEq, Repr

structure VFromF where
  d : VReg
  a : FReg
  k : VCtl
deriving DecidableEq, Repr

structure SFromV where
  d : SReg
  a : VReg
  e : Fin 128
  k : VCtl
deriving DecidableEq, Repr

structure FFromV where
  d : FReg
  a : VReg
  e : Fin 64
  k : VCtl
deriving DecidableEq, Repr

structure VVS where
  d : VReg
  a : VReg
  b : SReg
  k : VCtl
deriving DecidableEq, Repr

structure VVn where
  d : VReg
  a : VReg
  n : Fin 64
  k : VCtl
deriving DecidableEq, Repr

structure QVV where
  d : QReg
  a : VReg
  b : VReg
  k : VCtl
deriving DecidableEq, Repr

structure QQQ where
  d : QReg
  a : QReg
  b : QReg
  k : VCtl
deriving DecidableEq, Repr

structure QQ where
  d : QReg
  a : QReg
  k : VCtl
deriving DecidableEq, Repr

structure QSS where
  d : QReg
  a : SReg
  b : SReg
  k : VCtl
deriving DecidableEq, Repr

structure SQn where
  d : SReg
  a : QReg
  half : Fin 2
  k : VCtl
deriving DecidableEq, Repr

structure SQ where
  d : SReg
  a : QReg
  k : VCtl
deriving DecidableEq, Repr

structure VCvt where
  dt : EType
  d : VReg
  a : VReg
  k : VCtl
deriving DecidableEq, Repr

/-- The destination of a reduction: an `s` register for integer types, an `f` register otherwise (R165). -/
inductive ScalarDst where
  | s (r : SReg)
  | f (r : FReg)
deriving DecidableEq, Repr

structure VRed where
  d : ScalarDst
  a : VReg
  k : VCtl
deriving DecidableEq, Repr

structure VDot where
  d : ScalarDst
  a : VReg
  b : VReg
  k : VCtl
deriving DecidableEq, Repr

structure VSclSet where
  d : VReg
  a : SReg
  slot : Slot
  k : VCtl
deriving DecidableEq, Repr

structure VSclGet where
  d : SReg
  a : VReg
  slot : Slot
  k : VCtl
deriving DecidableEq, Repr

/-- `vrng`, `vrngu`: slot 0 to 3, or 4 for lane mode. -/
structure VRngOp where
  d : VReg
  n : Fin 5
  k : VCtl
deriving DecidableEq, Repr

structure VDropOp where
  d : VReg
  a : VReg
  b : SReg
  n : Fin 5
  k : VCtl
deriving DecidableEq, Repr

/-- `vloop`: body length, count register, count immediate. -/
structure VLoopOp where
  k : Nat
  a : SReg
  imm : BitVec 30
deriving DecidableEq, Repr

structure TMem where
  d : TReg
  a : SReg
deriving DecidableEq, Repr

structure TTr where
  d : TReg
  a : TReg
deriving DecidableEq, Repr

structure ZSt where
  d : ZReg
  a : SReg
  tz : TZ
deriving DecidableEq, Repr

structure TProd where
  d : ZReg
  a : TReg
  b : TReg
  ta : EType
  tb : EType
  tz : TZ
deriving DecidableEq, Repr

structure TSacc where
  d : ZReg
  a : ZReg
  b : VReg
  c : VReg
  tz : TZ
deriving DecidableEq, Repr

structure TEpi where
  d : ZReg
  a : SReg
  b : VReg
  ta : EType
  tz : TZ
  epi : Epi
  rm : RMode
  sat : Bool
deriving DecidableEq, Repr

/-- The tile instructions of OPC 0x40 to 0x44, as `tfol` carries one (R63, R197). -/
inductive TileOp where
  | tld (o : TMem)
  | tst (o : TMem)
  | tzero (d : TReg)
  | ttr (o : TTr)
  | zzero (d : ZReg) (tz : TZ)
  | zst (o : ZSt)
  | tmma (o : TProd)
  | tmmo (o : TProd)
  | tsacc (o : TSacc)
  | tepi (o : TEpi)
  | tmrot (o : TProd)
deriving DecidableEq, Repr

/-- `amsg`, `amsgl`. -/
structure MsgOp where
  d : SReg
  a : SReg
  b : SReg
  wt : WaitSel
  o : Bool
deriving DecidableEq, Repr

/-- `amsgp`: payload address, length and transform code as well. -/
structure MsgPayOp where
  d : SReg
  a : SReg
  b : SReg
  c : SReg
  len : Nat
  code : Fin 4
  wt : WaitSel
  o : Bool
deriving DecidableEq, Repr

structure RstOp where
  d : SReg
  size : Size
  m : MemArg
  o : Bool
deriving DecidableEq, Repr

structure RstvOp where
  d : VReg
  m : MemArg
  o : Bool
deriving DecidableEq, Repr

structure RldOp where
  d : SReg
  size : Size
  u : Bool
  m : MemArg
  o : Bool
deriving DecidableEq, Repr

structure RamoOp where
  kind : AmoKind
  nr : Bool
  d : SReg
  a : SReg
  b : SReg
  size : Size
  off : BitVec 22
  wt : WaitSel
  o : Bool
deriving DecidableEq, Repr

structure WaitOp where
  ld : Fin 64
  st : Fin 64
  cp : Fin 64
  tl : Fin 64
deriving DecidableEq, Repr

structure CpushOp where
  d : SReg
  a : SReg
  ch : Chan
  wt : WaitSel
deriving DecidableEq, Repr

structure WlpushOp where
  a : SReg
  b : SReg
  c : SReg
  wt : WaitSel
deriving DecidableEq, Repr

structure SstOp where
  d : SReg
  a : SReg
  b : SReg
  size : Size
  wt : WaitSel
deriving DecidableEq, Repr

structure SstvOp where
  d : VReg
  a : SReg
  b : SReg
  wt : WaitSel
deriving DecidableEq, Repr

structure SstlOp where
  d : SReg
  a : SReg
  b : SReg
  len : Nat
  wt : WaitSel
deriving DecidableEq, Repr

end Sys2Proof
end

