-- ==== Sys2Proof/Machine/Num.lean ====
section
/-! DEFINITION. Number formats, rounding, flags and conversions (file 03, R78 to R99, R121 to R128).
A finite value is held exactly, as a sign and a natural number times a power of two. A quotient or a
root that no such number equals is held truncated at more bits than any rounding looks at, with one
more 1 bit below, so that every rounding of it is the rounding of the exact value. -/

namespace Sys2Proof

/-! ## Flags (R91) -/

/-- The five flags in the bit positions of `FPFLAGS`: NV 4, DZ 3, OF 2, UF 1, NX 0. -/
abbrev Flags := BitVec 5

def flagNV : Flags := 16
def flagDZ : Flags := 8
def flagOF : Flags := 4
def flagUF : Flags := 2
def flagNX : Flags := 1

def flagIf (b : Bool) (f : Flags) : Flags := if b then f else 0

/-! ## Exact values -/

/-- A datum as arithmetic sees it: `fin neg m e` is (−1)^neg · m · 2^e. -/
inductive FVal where
  | nan (sig : Bool)
  | inf (neg : Bool)
  | fin (neg : Bool) (m : Nat) (e : Int)
deriving DecidableEq, Repr

/-- The rounding of one result: the five modes of R89, or the stochastic rounding of R98 with the
element's random field `u` of `k` bits. -/
inductive Rnd where
  | rne | rtz | rdn | rup | rmm
  | sr (u : Nat) (k : Nat)
deriving DecidableEq, Repr

def FVal.zero : FVal := .fin false 0 0

def FVal.isNaN : FVal → Bool
  | .nan _ => true
  | _ => false

def FVal.isSNaN : FVal → Bool
  | .nan s => s
  | _ => false

def FVal.isInf : FVal → Bool
  | .inf _ => true
  | _ => false

def FVal.isZero : FVal → Bool
  | .fin _ m _ => m == 0
  | _ => false

/-- The sign bit; a NaN as arithmetic sees it has none. -/
def FVal.sign : FVal → Bool
  | .nan _ => false
  | .inf n => n
  | .fin n _ _ => n

def FVal.neg : FVal → FVal
  | .nan s => .nan s
  | .inf n => .inf (!n)
  | .fin n m e => .fin (!n) m e

def FVal.ofInt (z : Int) : FVal := .fin (decide (z < 0)) z.natAbs 0

/-- m · 2^k for k ≥ 0; 2^0 for a negative k. -/
def shlI (m : Nat) (k : Int) : Nat := m * 2 ^ k.toNat

/-- `m1 · 2^e1` and `m2 · 2^e2` at the smaller of the two exponents. -/
def alignMags (m1 : Nat) (e1 : Int) (m2 : Nat) (e2 : Int) : Nat × Nat × Int :=
  let e := min e1 e2
  (shlI m1 (e1 - e), shlI m2 (e2 - e), e)

/-- Comparison of two values neither of which is a NaN; −0 and +0 compare equal. -/
def FVal.cmp : FVal → FVal → Ordering
  | .inf false, .inf false => .eq
  | .inf true, .inf true => .eq
  | .inf false, _ => .gt
  | .inf true, _ => .lt
  | _, .inf false => .lt
  | _, .inf true => .gt
  | .fin n1 m1 e1, .fin n2 m2 e2 =>
    let (a, b, _) := alignMags m1 e1 m2 e2
    let x : Int := if n1 then -(a : Int) else a
    let y : Int := if n2 then -(b : Int) else b
    compare x y
  | _, _ => .eq

/-! ## Formats (R78, R79) -/

/-- How a format spends its largest exponent. -/
inductive FKind where
  | ieee | e4m3 | finite
deriving DecidableEq, Repr

/-- A floating-point format: exponent bits, mantissa bits, bias and kind. -/
structure FFmt where
  e : Nat
  m : Nat
  bias : Int
  kind : FKind
deriving DecidableEq, Repr

/-- The formats of R78; the other types have none. -/
def EType.fmt? : EType → Option FFmt
  | .fp64 => some ⟨11, 52, 1023, .ieee⟩
  | .fp32 => some ⟨8, 23, 127, .ieee⟩
  | .fp16 => some ⟨5, 10, 15, .ieee⟩
  | .bf16 => some ⟨8, 7, 127, .ieee⟩
  | .e5m2 => some ⟨5, 2, 15, .ieee⟩
  | .e4m3 => some ⟨4, 3, 7, .e4m3⟩
  | .e3m2 => some ⟨3, 2, 3, .finite⟩
  | .e2m3 => some ⟨2, 3, 1, .finite⟩
  | .e2m1 => some ⟨2, 1, 1, .finite⟩
  | _ => none

def fp64Fmt : FFmt := ⟨11, 52, 1023, .ieee⟩
def fp32Fmt : FFmt := ⟨8, 23, 127, .ieee⟩

/-- The width of an element in a vector register or in memory (R19, R78, R83, R84). -/
def EType.width : EType → Nat
  | .i4 => 4 | .i8 => 8 | .i16 => 16 | .i32 => 32 | .i64 => 64
  | .e2m1 => 4 | .e2m3 => 6 | .e3m2 => 6 | .e4m3 => 8 | .e5m2 => 8 | .ds8 => 8
  | .bf16 => 16 | .fp16 => 16 | .fp32 => 32 | .fp64 => 64

/-- The element count of a vector register (R19). -/
def EType.count : EType → Nat
  | .i4 => 128 | .i8 => 64 | .i16 => 32 | .i32 => 16 | .i64 => 8
  | .e2m1 => 128 | .e2m3 => 64 | .e3m2 => 64 | .e4m3 => 64 | .e5m2 => 64 | .ds8 => 64
  | .bf16 => 32 | .fp16 => 32 | .fp32 => 16 | .fp64 => 8

def EType.isInt : EType → Bool
  | .i4 | .i8 | .i16 | .i32 | .i64 => true
  | _ => false

/-- The code of a type (R50). -/
def EType.code : EType → Nat
  | .i4 => 0 | .i8 => 1 | .i16 => 2 | .i32 => 3 | .i64 => 4
  | .e2m1 => 5 | .e2m3 => 6 | .e3m2 => 7 | .e4m3 => 8 | .e5m2 => 9 | .ds8 => 10
  | .bf16 => 11 | .fp16 => 12 | .fp32 => 13 | .fp64 => 14

/-- 1 − bias: the exponent of the smallest normal. -/
def FFmt.emin (f : FFmt) : Int := 1 - f.bias

/-- The largest finite magnitude as a mantissa and an exponent (R78). -/
def FFmt.maxFin (f : FFmt) : Nat × Int :=
  match f.kind with
  | .ieee => (2 ^ (f.m + 1) - 1, (2 ^ f.e - 2 : Nat) - f.bias - f.m)
  | .e4m3 => (2 ^ (f.m + 1) - 2, (2 ^ f.e - 1 : Nat) - f.bias - f.m)
  | .finite => (2 ^ (f.m + 1) - 1, (2 ^ f.e - 1 : Nat) - f.bias - f.m)

/-- The value of a floating-point encoding (R78, R79). -/
def FFmt.decode (f : FFmt) (bits : Nat) : FVal :=
  let s := bits / 2 ^ (f.e + f.m) % 2 == 1
  let ex := bits / 2 ^ f.m % 2 ^ f.e
  let mt := bits % 2 ^ f.m
  let top := ex == 2 ^ f.e - 1
  if f.kind == .ieee && top then
    if mt == 0 then .inf s else .nan (decide (mt < 2 ^ (f.m - 1)))
  else if f.kind == .e4m3 && top && mt == 2 ^ f.m - 1 then .nan false
  else if ex == 0 then .fin s mt (f.emin - f.m)
  else .fin s (2 ^ f.m + mt) ((ex : Int) - f.bias - f.m)

/-- The canonical NaN (R79); the formats without one hold +0 there (R94). -/
def FFmt.canonNaN (f : FFmt) : Nat :=
  match f.kind with
  | .ieee => (2 ^ f.e - 1) * 2 ^ f.m + 2 ^ (f.m - 1)
  | .e4m3 => 2 ^ (f.e + f.m) - 1
  | .finite => 0

/-- Compare `m · 2^e` with `m' · 2^e'`. -/
def magLt (m : Nat) (e : Int) (m' : Nat) (e' : Int) : Bool :=
  let (a, b, _) := alignMags m e m' e'
  decide (a < b)

/-- m · 2^(e − g) rounded down to a natural number. -/
def magFloor (m : Nat) (e g : Int) : Nat :=
  if g ≤ e then shlI m (e - g) else m / 2 ^ (g - e).toNat

/-- The encoding of a value that the format holds exactly (R78). -/
def FFmt.encode (f : FFmt) : FVal → Nat
  | .nan _ => f.canonNaN
  | .inf n => (if n then 2 ^ (f.e + f.m) else 0) + (2 ^ f.e - 1) * 2 ^ f.m
  | .fin n m e =>
    (if n then 2 ^ (f.e + f.m) else 0) +
      (if m == 0 then 0
       else
        let l : Int := (Nat.log2 m : Int) + e
        if l < f.emin then magFloor m e (f.emin - f.m)
        else (l + f.bias).toNat * 2 ^ f.m + (magFloor m e (l - f.m) - 2 ^ f.m))

/-! ## Rounding (R89, R90, R98, R99) -/

/-- m · 2^e rounded to a multiple of 2^g: the multiple, and whether it differs from the value. -/
def roundMag (r : Rnd) (neg : Bool) (m : Nat) (e g : Int) : Nat × Bool :=
  if g ≤ e then (shlI m (e - g), false)
  else
    let sh := (g - e).toNat
    let n := m / 2 ^ sh
    let rem := m % 2 ^ sh
    if rem == 0 then (n, false)
    else
      let half := 2 ^ (sh - 1)
      let up := match r with
        | .rne => decide (half < rem) || (rem == half && n % 2 == 1)
        | .rtz => false
        | .rdn => neg
        | .rup => !neg
        | .rmm => decide (half ≤ rem)
        | .sr u k => decide (u * 2 ^ sh < rem * 2 ^ k)
      (if up then n + 1 else n, true)

/-- Stochastic rounding or not. -/
def Rnd.isSR : Rnd → Bool
  | .sr _ _ => true
  | _ => false

/-- The delivered value of an overflow of a class A target without SAT (R94, R99). -/
def overflowA (f : FFmt) (r : Rnd) (neg : Bool) : FVal :=
  let mx : FVal := .fin neg f.maxFin.1 f.maxFin.2
  match r with
  | .rne | .rmm => .inf neg
  | .rtz => mx
  | .rdn => if neg then .inf true else mx
  | .rup => if neg then mx else .inf false
  | .sr _ _ => mx

/-- An overflowed finite value (R94 row "finite, overflows"; R99 for SR). -/
def overflowF (f : FFmt) (r : Rnd) (sat neg : Bool) : FVal :=
  let mx : FVal := .fin neg f.maxFin.1 f.maxFin.2
  if sat || r.isSR then mx
  else match f.kind with
    | .ieee => overflowA f r neg
    | .e4m3 => .nan false
    | .finite => mx

/-- A finite magnitude m · 2^e rounded into a format (R89, R90, R94, R98, R99). -/
def roundFin (f : FFmt) (r : Rnd) (sat neg : Bool) (m : Nat) (e : Int) : FVal × Flags :=
  if m == 0 then (.fin neg 0 0, 0)
  else
    let l : Int := (Nat.log2 m : Int) + e
    let g := max l f.emin - f.m
    let (n, inexact) := roundMag r neg m e g
    let (mxM, mxE) := f.maxFin
    -- the neighbour of larger magnitude, for R99
    let tooLarge :=
      if r.isSR then
        (if inexact then magLt mxM mxE (magFloor m e g + 1) g else magLt mxM mxE n g)
      else magLt mxM mxE n g
    if tooLarge then (overflowF f r sat neg, flagOF ||| flagNX)
    else
      let (n', _) := roundMag r neg m e (l - f.m)
      let tiny := magLt n' (l - f.m) 1 f.emin
      (.fin neg n g, flagIf inexact flagNX ||| flagIf (inexact && (tiny || n == 0)) flagUF)

/-- A value delivered into a floating-point format (R94, classes A to C). -/
def roundF (f : FFmt) (r : Rnd) (sat : Bool) : FVal → FVal × Flags
  | .nan s =>
    match f.kind with
    | .finite => (.zero, flagNV)
    | _ => (.nan false, flagIf s flagNV)
  | .inf n =>
    let mx : FVal := .fin n f.maxFin.1 f.maxFin.2
    if sat then (mx, 0)
    else match f.kind with
      | .ieee => (.inf n, 0)
      | .e4m3 => (.nan false, flagNV)
      | .finite => (mx, flagNV)
  | .fin n m e => roundFin f r sat n m e

/-! ## DS8 (R84, R85) -/

/-- A term of a DS8 byte in 64ths. -/
def ds8Term (s c : Nat) : Int :=
  if c == 0 then 0 else if s == 1 then -(2 ^ (c - 1) : Nat) else (2 ^ (c - 1) : Nat)

/-- The value of a DS8 byte in 64ths. -/
def ds8Val (b : Nat) : Int :=
  ds8Term (b / 128 % 2) (b / 16 % 8) + ds8Term (b / 8 % 2) (b % 8)

def ds8Decode (b : Nat) : FVal :=
  let v := ds8Val b
  .fin (decide (v < 0)) v.natAbs (-6)

/-- A power of two up to 64. -/
def ds8One (n : Nat) : Bool := [1, 2, 4, 8, 16, 32, 64].contains n

/-- The two exponent codes of a magnitude in 64ths with two terms of one sign. -/
def ds8Same (n : Nat) : Option (Nat × Nat) :=
  ([1, 2, 3, 4, 5, 6, 7].flatMap fun a => [1, 2, 3, 4, 5, 6, 7].map fun b => (a, b)).find?
    fun p => decide (p.2 ≤ p.1) && 2 ^ (p.1 - 1) + 2 ^ (p.2 - 1) == n

/-- The two exponent codes of a magnitude in 64ths as a difference. -/
def ds8Diff (n : Nat) : Option (Nat × Nat) :=
  ([1, 2, 3, 4, 5, 6, 7].flatMap fun a => [1, 2, 3, 4, 5, 6, 7].map fun b => (a, b)).find?
    fun p => decide (p.2 < p.1) && 2 ^ (p.1 - 1) - 2 ^ (p.2 - 1) == n

/-- Whether a magnitude in 64ths is a DS8 value. -/
def ds8Has (n : Nat) : Bool := n == 0 || ds8One n || (ds8Same n).isSome || (ds8Diff n).isSome

/-- The number of non-zero terms of the canonical encoding. -/
def ds8Terms (n : Nat) : Nat := if n == 0 then 0 else if ds8One n then 1 else 2

/-- The canonical encoding of a value in 64ths (R85). -/
def ds8Encode (neg : Bool) (n : Nat) : Nat :=
  let s := if neg then 1 else 0
  if n == 0 then 0
  else if ds8One n then s * 128 + (Nat.log2 n + 1) * 16
  else match ds8Same n with
    | some (a, b) => s * 128 + a * 16 + s * 8 + b
    | none => match ds8Diff n with
      | some (a, b) => s * 128 + a * 16 + (1 - s) * 8 + b
      | none => 0

/-- The largest DS8 magnitude in 64ths not above `n`. -/
def ds8Below : Nat → Nat
  | 0 => 0
  | n + 1 => if ds8Has (n + 1) then n + 1 else ds8Below n

/-- The smallest DS8 magnitude in 64ths not below `n`, at most `fuel` steps away. -/
def ds8Above (n : Nat) : Nat → Nat
  | 0 => n
  | fuel + 1 => if ds8Has n then n else ds8Above (n + 1) fuel

/-- A finite magnitude converted into DS8 (R85, R94 class C, R98, R99). -/
def roundDS8 (r : Rnd) (neg : Bool) (m : Nat) (e : Int) : FVal × Flags :=
  let val (n : Nat) : FVal := .fin (neg && n != 0) n (-6)
  -- y = |x| · 64 as a mantissa and an exponent
  let e' := e + 6
  if m == 0 then (.zero, 0)
  else if magLt 128 0 m e' then
    -- |x| > 2: between 2 and 2.5
    let beyond := match r with
      | .rne | .rmm => !magLt m e' 144 0
      | .rtz => false
      | .rdn => neg
      | .rup => !neg
      | .sr _ _ => true
    (val 128, if beyond then flagOF ||| flagNX else flagNX)
  else
    let fl := magFloor m e' 0
    let exactInt := !(magLt fl 0 m e')
    if exactInt && ds8Has fl then (val fl, 0)
    else
      let lo := ds8Below fl
      let hi := ds8Above (fl + 1) 128
      -- 2y − (lo + hi): which half
      let two := 2 * m
      let mid := lo + hi
      let below := magLt two e' mid 0
      let above := magLt mid 0 two e'
      let up := match r with
        | .rtz => false
        | .rdn => neg
        | .rup => !neg
        | .rne => above || (!below && decide (ds8Terms hi < ds8Terms lo))
        | .rmm => !below
        | .sr u k =>
          -- u < f · 2^k with f = (y − lo) / (hi − lo)
          magLt (u * (hi - lo) + lo * 2 ^ k) 0 (m * 2 ^ k) e'
      (val (if up then hi else lo), flagNX ||| flagIf (magLt m e' 1 0) flagUF)

/-! ## Elements of every type -/

/-- A field of `w` bits as a two's-complement integer. -/
def toSigned (w : Nat) (bits : Nat) : Int :=
  let b := bits % 2 ^ w
  if b < 2 ^ (w - 1) then (b : Int) else (b : Int) - (2 ^ w : Nat)

/-- An integer modulo 2^w as a field. -/
def ofSigned (w : Nat) (z : Int) : Nat := (z % (2 ^ w : Nat)).toNat

/-- The value of an element of any type. -/
def EType.read (t : EType) (bits : Nat) : FVal :=
  match t.fmt? with
  | some f => f.decode bits
  | none => if t == .ds8 then ds8Decode bits else .ofInt (toSigned t.width bits)

def intMax (w : Nat) : Int := (2 ^ (w - 1) : Nat) - 1
def intMin (w : Nat) : Int := -(2 ^ (w - 1) : Nat)

def clampInt (lo hi z : Int) : Int := if z < lo then lo else if hi < z then hi else z

/-- A value rounded to the integer grid: the integer and whether it differs (R89 with spacing 1). -/
def roundToInt (r : Rnd) (neg : Bool) (m : Nat) (e : Int) : Int × Bool :=
  let (n, x) := roundMag r neg m e 0
  (if neg then -(n : Int) else n, x)

/-- Conversion of a floating-point value to an integer range (R94 class D). -/
def convertInt (lo hi : Int) (r : Rnd) (sat : Bool) : FVal → Int × Flags
  | .nan _ => (0, flagNV)
  | .inf n => (if n then lo else hi, flagIf (!sat) flagNV)
  | .fin n m e =>
    let (z, x) := roundToInt r n m e
    if z < lo then (lo, if sat then flagOF ||| flagNX else flagNV)
    else if hi < z then (hi, if sat then flagOF ||| flagNX else flagNV)
    else (z, flagIf x flagNX)

/-- A value written as an element of type `t` (R85, R94): its bits and its flags. An integer target
here is one of a conversion from a floating-point value (class D). -/
def EType.write (t : EType) (r : Rnd) (sat : Bool) (v : FVal) : Nat × Flags :=
  match t.fmt? with
  | some f =>
    let (x, fl) := roundF f r sat v
    (f.encode x, fl)
  | none =>
    if t == .ds8 then
      match v with
      | .nan _ => (0, flagNV)
      | .inf n => (ds8Encode n 128, flagIf (!sat) flagNV)
      | .fin n m e =>
        let (x, fl) := roundDS8 r n m e
        (match x with | .fin n' m' _ => ds8Encode n' m' | _ => 0, fl)
    else
      let (z, fl) := convertInt (intMin t.width) (intMax t.width) r sat v
      (ofSigned t.width z, fl)

/-- A conversion between two element types (R85, R94, R95). -/
def convertElem (st dt : EType) (r : Rnd) (sat : Bool) (bits : Nat) : Nat × Flags :=
  if st.isInt && dt.isInt then
    let z := toSigned st.width bits
    (ofSigned dt.width (if sat then clampInt (intMin dt.width) (intMax dt.width) z else z), 0)
  else dt.write r sat (st.read bits)

/-! ## Exact operations with their invalid cases (R80, R82, R91, R119, R120) -/

/-- NV when an operand is a signalling NaN. -/
def nvIf (a b : FVal) : Flags := flagIf (a.isSNaN || b.isSNaN) flagNV

/-- The exact sum; `down` is whether the rounding is RDN (R82). -/
def fAdd (down : Bool) (a b : FVal) : FVal × Flags :=
  match a, b with
  | .inf n1, .inf n2 => if n1 == n2 then (.inf n1, 0) else (.nan false, flagNV)
  | .inf n1, .fin _ _ _ => (.inf n1, 0)
  | .fin _ _ _, .inf n2 => (.inf n2, 0)
  | .fin n1 m1 e1, .fin n2 m2 e2 =>
    let (x, y, e) := alignMags m1 e1 m2 e2
    if x == 0 && y == 0 then (.fin (if n1 == n2 then n1 else down) 0 e, 0)
    else
      let z : Int := (if n1 then -(x : Int) else x) + (if n2 then -(y : Int) else y)
      if z == 0 then (.fin down 0 e, 0) else (.fin (decide (z < 0)) z.natAbs e, 0)
  | _, _ => (.nan false, nvIf a b)

/-- The exact product. -/
def fMul (a b : FVal) : FVal × Flags :=
  match a, b with
  | .inf n1, .inf n2 => (.inf (n1 != n2), 0)
  | .inf n1, .fin n2 m _ => if m == 0 then (.nan false, flagNV) else (.inf (n1 != n2), 0)
  | .fin n1 m _, .inf n2 => if m == 0 then (.nan false, flagNV) else (.inf (n1 != n2), 0)
  | .fin n1 m1 e1, .fin n2 m2 e2 => (.fin (n1 != n2) (m1 * m2) (e1 + e2), 0)
  | _, _ => (.nan false, nvIf a b)

/-- m1 / m2 to at least 192 bits, with one more 1 bit when it is not exact. -/
def divMag (m1 m2 : Nat) : Nat × Int :=
  let s := 192 + Nat.log2 m2
  let q := m1 * 2 ^ s / m2
  let x := m1 * 2 ^ s % m2
  (2 * q + (if x == 0 then 0 else 1), -(s : Int) - 1)

/-- The quotient (R119). -/
def fDiv (a b : FVal) : FVal × Flags :=
  match a, b with
  | .inf _, .inf _ => (.nan false, flagNV)
  | .inf n1, .fin n2 _ _ => (.inf (n1 != n2), 0)
  | .fin n1 _ _, .inf n2 => (.fin (n1 != n2) 0 0, 0)
  | .fin n1 m1 e1, .fin n2 m2 e2 =>
    if m2 == 0 then
      if m1 == 0 then (.nan false, flagNV) else (.inf (n1 != n2), flagDZ)
    else
      let (q, e) := divMag m1 m2
      (.fin (n1 != n2) q (e + e1 - e2), 0)
  | _, _ => (.nan false, nvIf a b)

/-- The integer square root by bits, from bit `i − 1` down. -/
def isqrtAux (n : Nat) : Nat → Nat → Nat
  | 0, r => r
  | i + 1, r =>
    let r' := r + 2 ^ i
    isqrtAux n i (if r' * r' ≤ n then r' else r)

def isqrt (n : Nat) : Nat := isqrtAux n (Nat.log2 n / 2 + 1) 0

/-- The square root of m · 2^e to at least 192 bits, with one more 1 bit when it is not exact. -/
def sqrtMag (m : Nat) (e : Int) : Nat × Int :=
  let s : Nat := 384 + (e % 2).toNat
  let n := m * 2 ^ s
  let r := isqrt n
  (2 * r + (if r * r == n then 0 else 1), (e - s) / 2 - 1)

/-- The square root (R119). -/
def fSqrt : FVal → FVal × Flags
  | .nan s => (.nan false, flagIf s flagNV)
  | .inf n => if n then (.nan false, flagNV) else (.inf false, 0)
  | .fin n m e =>
    if m == 0 then (.fin n 0 0, 0)
    else if n then (.nan false, flagNV)
    else
      let (r, e') := sqrtMag m e
      (.fin false r e', 0)

/-- The smaller or the larger by R121: −0 below +0; `quiet` is the form that drops a NaN operand. -/
def fMinMax (isMax quiet : Bool) (a b : FVal) : FVal × Flags :=
  let fl := nvIf a b
  match a.isNaN, b.isNaN with
  | true, true => (.nan false, fl)
  | true, false => (if quiet then b else .nan false, fl)
  | false, true => (if quiet then a else .nan false, fl)
  | false, false =>
    let less := match a.cmp b with
      | .lt => true
      | .gt => false
      | .eq => a.sign && !b.sign
    (if less == isMax then b else a, fl)

/-- A value rounded into an accumulator or result type, as a value (R89, R94). -/
def EType.round (t : EType) (r : Rnd) (sat : Bool) (v : FVal) : FVal × Flags :=
  match t.fmt? with
  | some f => roundF f r sat v
  | none => (v, 0)

/-- Whether the rounding mode is RDN. -/
def Rnd.isDown : Rnd → Bool
  | .rdn => true
  | _ => false

/-! ## The summation order (R96, R97) -/

/-- How the first level of the tree treats its products (R97). -/
inductive Level1 where
  | exactPair | fusedPair | noProduct
deriving DecidableEq, Repr

/-- One rounded sum, with the flags so far. -/
def addRound (acc : EType) (r : Rnd) (x y : FVal) : FVal × Flags :=
  let (s, f1) := fAdd r.isDown x y
  let (v, f2) := acc.round r false s
  (v, f1 ||| f2)

/-- A first-level node from two pairs of factors. A `noProduct` leaf is its first factor. -/
def level1 (k : Level1) (acc : EType) (r : Rnd) (p q : FVal × FVal) : FVal × Flags :=
  match k with
  | .noProduct => addRound acc r p.1 q.1
  | .exactPair =>
    let (x, f1) := fMul p.1 p.2
    let (y, f2) := fMul q.1 q.2
    let (v, f3) := addRound acc r x y
    (v, f1 ||| f2 ||| f3)
  | .fusedPair =>
    let (x, f1) := fMul p.1 p.2
    let (y, f2) := fMul q.1 q.2
    let (y', f3) := acc.round r false y
    let (v, f4) := addRound acc r x y'
    (v, f1 ||| f2 ||| f3 ||| f4)

/-- One level of the tree above the first. -/
def treeLevel (acc : EType) (r : Rnd) : List FVal → Flags → List FVal × Flags
  | x :: y :: rest, fl =>
    let (v, f) := addRound acc r x y
    let (vs, f') := treeLevel acc r rest (fl ||| f)
    (v :: vs, f')
  | xs, fl => (xs, fl)

def pairs {α : Type} : List α → List (α × α)
  | x :: y :: rest => (x, y) :: pairs rest
  | _ => []

/-- One block of 32 leaves added to the accumulator (R96). -/
def blockStep (k : Level1) (acc : EType) (r : Rnd) (z : FVal) (leaves : List (FVal × FVal)) :
    FVal × Flags :=
  let l1 := (pairs leaves).map fun (p, q) => level1 k acc r p q
  let fl := l1.foldl (fun f x => f ||| x.2) (0 : Flags)
  let (l2, f2) := treeLevel acc r (l1.map (·.1)) fl
  let (l3, f3) := treeLevel acc r l2 f2
  let (l4, f4) := treeLevel acc r l3 f3
  let (l5, f5) := treeLevel acc r l4 f4
  let (v, f6) := addRound acc r z (l5.headD .zero)
  (v, f5 ||| f6)

/-- The leaves padded to whole blocks of 32 with +0 (R96). -/
def toBlocks (leaves : List (FVal × FVal)) : List (List (FVal × FVal)) :=
  let n := (leaves.length + 31) / 32
  let padded := leaves ++ List.replicate (32 * n - leaves.length) (FVal.zero, FVal.zero)
  (List.range n).map fun i => (padded.drop (32 * i)).take 32

/-- The whole sum in the fixed order (R96). -/
def treeSum (k : Level1) (acc : EType) (r : Rnd) (z : FVal) (leaves : List (FVal × FVal)) :
    FVal × Flags :=
  (toBlocks leaves).foldl
    (fun (s : FVal × Flags) blk =>
      let (v, f) := blockStep k acc r s.1 blk
      (v, s.2 ||| f)) (z, 0)

/-- The first-level form of a product of two types (R97). -/
def level1Of (ta tb : EType) : Level1 :=
  if (ta.width ≤ 16 && tb.width ≤ 16) || ta == .ds8 || tb == .ds8 then .exactPair else .fusedPair

/-! ## Block scales (R86 to R88) -/

/-- A BS20 scale as a value. -/
inductive Scale where
  | zero | nan
  | val (m : Nat) (e : Int)
deriving DecidableEq, Repr

/-- The meaning of the 20 bits of a scale (R86). -/
def Scale.ofBits (b : BitVec 20) : Scale :=
  let e := b.toNat / 4096
  let m := b.toNat % 4096
  if e == 0 then .zero else if e == 255 then .nan else .val (4096 + m) ((e : Int) - 127 - 12)

/-- The scaled value of an element (R87). -/
def scaled (s : Scale) (a : FVal) : FVal × Flags :=
  match s with
  | .zero => (.zero, 0)
  | .nan => (.nan false, 0)
  | .val m e => fMul a (.fin false m e)

/-- k_t of R88. -/
def EType.kt : EType → Int
  | .e4m3 => 8 | .e5m2 => 15 | .e3m2 => 4 | .e2m3 => 2 | .e2m1 => 2 | .ds8 => 1 | .i8 => 6 | .i4 => 2
  | _ => 0

/-- The largest magnitude among values, as a mantissa and an exponent. -/
def amax : List FVal → Nat × Int
  | [] => (0, 0)
  | .fin _ m e :: rest =>
    let (m', e') := amax rest
    if magLt m' e' m e then (m, e) else (m', e')
  | _ :: rest => amax rest

/-- The scale that hardware chooses for a block of enabled elements (R88). -/
def chooseScale (t : EType) (vs : List FVal) : BitVec 20 :=
  if vs.any fun v => v.isNaN || v.isInf then 0xFF000#20
  else
    let (m, e) := amax vs
    if m == 0 then 0
    else
      let ex := clampInt 1 254 ((Nat.log2 m : Int) + e - t.kt + 127)
      BitVec.ofNat 20 (ex.toNat * 4096)

/-- An element divided by a scale that hardware chose, which is a power of two (R88). -/
def unscale (s : BitVec 20) (a : FVal) : FVal :=
  match a with
  | .fin n m e => .fin n m (e - ((s.toNat / 4096 : Nat) : Int) + 127)
  | v => v

/-! ## The counter-based generator (R100, R101) -/

/-- `Mix64` (R100). -/
def mix64 (key ctr : Word) : Word :=
  [0xD1B54A32D192ED03#64, 0xAEF17502108EF2D9#64, 0xDB4F0B9175AE2165#64].foldl
    (fun x c => (x ^^^ (x >>> 32)) * c) (ctr ^^^ key)

/-- `k` random bits with group size `g` from a stream of index `l` (R101). -/
def drawBits (key : Word) (l : Nat) (draw : Nat) (k g : Nat) : Nat :=
  let ctr := BitVec.ofNat 64 (l / g * 2 ^ 40 + draw % 2 ^ 40)
  ((mix64 key ctr).toNat / 2 ^ (l % g * k)) % 2 ^ k

/-- The width of the random field of SR for a destination type (R98). -/
def EType.srWidth : EType → Nat
  | .fp16 | .bf16 => 16
  | _ => 8

end Sys2Proof
end

