-- ==== Sys2Proof/Syntax.lean ====
section
/-! DEFINITION. The instructions and the machine's other steps as data: one constructor of
`Instr` for every row of the opcode table. The rows without an encoding of their own are steps: nine are what
`mfsr` and `mtsr` do with registers that have a rule of their own, the rest are steps of the machine's other
agents (file 95). No word decodes to a step, and its operands stand in the state (`State.inp`). The constructors
with operands come first. -/

namespace Sys2Proof

inductive Instr where
  -- scalar integer (R107 to R112, R38)
  | add (o : AluOp) | sub (o : AluOp) | and (o : AluOp) | or (o : AluOp) | xor (o : AluOp)
  | andn (o : AluOp) | orn (o : AluOp) | shl (o : AluOp) | shr (o : AluOp) | sra (o : AluOp)
  | rol (o : AluOp) | ror (o : AluOp) | min (o : AluOp) | max (o : AluOp) | minu (o : AluOp)
  | maxu (o : AluOp)
  | seq (o : CmpOp) | sne (o : CmpOp) | slt (o : CmpOp) | sltu (o : CmpOp) | sle (o : CmpOp)
  | sleu (o : CmpOp) | csel (o : SelOp)
  | addi64 (o : Imm30Op) | addi96 (o : Imm62Op) | andi64 (o : Imm30Op) | andi96 (o : Imm62Op)
  | ori64 (o : Imm30Op) | ori96 (o : Imm62Op) | xori64 (o : Imm30Op) | xori96 (o : Imm62Op)
  | shli (o : ShiftOp) | shri (o : ShiftOp) | srai (o : ShiftOp) | roli (o : ShiftOp)
  | seqi (o : Imm30Op) | slti (o : Imm30Op) | sltui (o : Imm30Op)
  | li64 (d : SReg) (imm : BitVec 30) | li96 (d : SReg) (imm : BitVec 62)
  | li128 (d : SReg) (imm : BitVec 64)
  | mul (o : AluOp) | mulh (o : CmpOp) | mulhu (o : CmpOp) | mulhsu (o : CmpOp) | madd (o : MaddOp)
  | div (o : AluOp) | divu (o : AluOp) | rem (o : AluOp) | remu (o : AluOp)
  | clz (o : UnOp) | ctz (o : UnOp) | popc (o : UnOp) | brev (o : UnOp) | bswap (o : UnOp)
  | sext (o : WidthOp) | zext (o : WidthOp) | bext (o : FieldOp) | bins (o : FieldOp)
  | lea (o : LeaOp)
  -- local memory (R113 to R117)
  | ld (o : LdOp) | st (o : StOp)
  | lamoAdd (o : LamoOp) | lamoAnd (o : LamoOp) | lamoOr (o : LamoOp) | lamoXor (o : LamoOp)
  | lamoMin (o : LamoOp) | lamoMax (o : LamoOp) | lamoMinu (o : LamoOp) | lamoMaxu (o : LamoOp)
  | lamoSwp (o : LamoOp) | lamoCas (o : LamoOp)
  | fld (o : FMemOp) | fst (o : FMemOp)
  -- control (R129 to R132, R236, R237)
  | beq (o : BrOp) | bne (o : BrOp) | blt (o : BrOp) | bge (o : BrOp) | bltu (o : BrOp)
  | bgeu (o : BrOp)
  | jal64 (d : SReg) (off : BitVec 30) | jalAbs (d : SReg) (imm : BitVec 62) | jalr (o : JalrOp)
  | yield (n : Nat)
  -- scalar floating point (R118 to R128)
  | fadd (o : FOp3) | fsub (o : FOp3) | fmul (o : FOp3) | fdiv (o : FOp3) | fsqrt (o : FOp2)
  | fmin (o : FBit3) | fmax (o : FBit3) | fminm (o : FBit3) | fmaxm (o : FBit3)
  | fsgnj (o : FBit3) | fsgnjn (o : FBit3) | fsgnjx (o : FBit3)
  | fma (o : FOp4) | fms (o : FOp4) | fnma (o : FOp4) | fnms (o : FOp4)
  | feq (o : FCmpOp) | flt (o : FCmpOp) | fle (o : FCmpOp) | funord (o : FCmpOp)
  | fclass (d : SReg) (a : FReg) | fcvtLD (o : FToInt) | fcvtLuD (o : FToInt)
  | fcvtDL (o : IntToF) | fcvtDLu (o : IntToF) | fcvtSD (o : FNarrow)
  | fmvSF (d : SReg) (a : FReg) | fmvFS (d : FReg) (a : SReg) | fround (o : FOp2)
  -- vector (R137 to R176)
  | vld (o : VSlotOp) | vldB (o : VBaseOp) | vlds (o : VOneOp) | vst (o : VSlotOp) | vstB (o : VBaseOp)
  | vgather (o : VIdxOp) | vscatter (o : VIdxOp)
  | vmov (o : VV) | vbcs (o : VFromS) | vbcf (o : VFromF) | vmvs (o : SFromV) | vmvf (o : FFromV)
  | vsel (o : VVV) | vslide (o : VVS) | vperm (o : VVV) | vpack (o : VVV) | vunpack (o : VVV)
  | vadd (o : VVV) | vsub (o : VVV) | vmul (o : VVV) | vmulh (o : VVV) | vdiv (o : VVV)
  | vsqrt (o : VV) | vmin (o : VVV) | vmax (o : VVV) | vabs (o : VV) | vneg (o : VV)
  | vfma (o : VVVV) | vfms (o : VVVV) | vfnma (o : VVVV) | vclamp (o : VVVV)
  | vadds (o : VVV) | vsubs (o : VVV)
  | vand (o : VVV) | vor (o : VVV) | vxor (o : VVV) | vnot (o : VV)
  | vshl (o : VVV) | vshr (o : VVV) | vsra (o : VVV)
  | vshli (o : VVn) | vshri (o : VVn) | vsrai (o : VVn) | vpopc (o : VV) | vclz (o : VV)
  | vceq (o : QVV) | vcne (o : QVV) | vclt (o : QVV) | vcle (o : QVV) | vcun (o : QVV)
  | qand (o : QQQ) | qor (o : QQQ) | qxor (o : QQQ) | qnot (o : QQ) | qset (o : QSS) | qget (o : SQn)
  | qpopc (o : SQ)
  | vcvt (o : VCvt) | vrsum (o : VRed) | vrmax (o : VRed) | vrmin (o : VRed) | vdot (o : VDot)
  | vsclset (o : VSclSet) | vsclget (o : VSclGet) | vrenorm (o : VV) | vdeq (o : VV) | vquant (o : VV)
  | vexp2 (o : VV) | vlog2 (o : VV) | vrcp (o : VV) | vrsqrt (o : VV) | vsin (o : VV) | vcos (o : VV)
  | vtanh (o : VV) | vsigm (o : VV) | verf (o : VV)
  | vrng (o : VRngOp) | vrngu (o : VRngOp) | vdrop (o : VDropOp)
  | vsetsh (slot : Slot) (a : SReg) | vloop (o : VLoopOp) | vitr (d : SReg) (slot : Slot)
  | vshget (d : SReg) (slot : Slot) (f : Fin 8)
  -- tile (R177 to R197)
  | tld (o : TMem) | tst (o : TMem) | tzero (d : TReg) | ttr (o : TTr) | zzero (d : ZReg) (tz : TZ)
  | zst (o : ZSt) | tmma (o : TProd) | tmmo (o : TProd) | tsacc (o : TSacc) | tepi (o : TEpi)
  | tmrot (o : TProd) | tfol (ch : Chan) (op : TileOp)
  -- messages, remote access and barriers (R222 to R246)
  | amsg (o : MsgOp) | amsgl (o : MsgOp) | amsgp (o : MsgPayOp)
  | rst (o : RstOp) | rstv (o : RstvOp) | rld (o : RldOp) | ramo (o : RamoOp) | wait (o : WaitOp)
  | barGang (n : Fin 64) | barCluster (n : Fin 64) | barPackage (n : Fin 256) | barFabric (n : Fin 64)
  | bfree (a : SReg) | mbwait (a : SReg)
  -- copies (R344 to R363)
  | cpush (o : CpushOp) | cpushb (o : CpushOp) | cpwait (a : SReg) (ch : Chan) | cpfence (mask : BitVec 4)
  | cpresume (ch : Chan)
  -- worklist (R258 to R282)
  | wlpush (o : WlpushOp)
  -- Sound groups (R283 to R297)
  | sst (o : SstOp) | sstv (o : SstvOp) | sstl (o : SstlOp) | sndseq (d : SReg) (a : SReg)
  | sndwait (a : SReg) (b : SReg)
  -- the selection-and-copy engine (R365 to R376)
  | gend (d : SReg)
  -- system registers and the system (R133 to R136, R210, R385, R388)
  | mfsr (d : SReg) (r : SysReg) | mtsr (r : SysReg) (a : SReg)
  | scall (code : BitVec 29) | brk (code : BitVec 29) | exit (a : SReg) (n : Fin 5)
  | ptouch (a : SReg) | mint (a : SReg) (cause : Fin 6)
  -- instructions without operands (R131, R132, R139, R230, R238, R240, R277)
  | nop64 | nop96 | nop128 | isync | wfe | serve | hret | vsync | fenceCore | fenceCluster
  | fenceDie | fencePackage | fenceFabric | wlwait | kret
  -- steps of the other agents
  | mfsrFpflags | mtsrFpctl | mtsrTshp | mtsrWlshift | mtsrWlbound | mtsrTrctl | mtsrAfault
  | mtsrSndstat | mtsrIbctl | sequencerPerform | sfuAccept | sfuReturn | tmrotTileReceive
  | linktimeout | barrierArrivalSum | barrierRelease | niApply | niRemoteRead | niRemoteAtomic
  | messageAccept | spillMove | ackArrival | replyArrival | waitConditionMet | copyBegin
  | copyChunk | copyComplete | bfreeCredit | tokenRefill | chunkAccess | chunkRefetch | shootdown
  | pageEvict | zoneExpand | exportMd | importMd | hostMemoryAccess | wlCountIncrement
  | wlCountDecrement | wlFloorReceive | wlDispatch | wlSliceSpill | wlRefill | wlMove
  | wlFloorExchange | wlAnnounceReceive | wlStealRequest | wlStealAnswer | wlStealReceive
  | wlTermination | wlTerminationWave | wlStallExpiry | wlFabricLeave | worklistEnable
  | worklistEmpty | soundStamp | soundMemberApply | soundRetry | soundCompletion | membershipChange
  | groupTableWrite | sceArrival | generationClose | sceLoserCopy | generationRelease
  | populationDescriptorWrite | mintApply | interruptTake | copypfTake | timer | hostHalt
  | hostStep | hostResume | hostStop | hostStart | continuationArrival | templateRead
  | overflowDrain | producerIndexWrite | submissionConsume | bindRecord | clauseLoadDone
  | queueThaw | queueDescriptorWrite | qwaitExpiry | bindWatchdogFirst | bindWatchdogSecond
  | preemptRequest | contextSave | preemptDivert | contextResume | flitReceive | flitReplay
  | routeRemoval | rekey | keyCounterLimit | lfinjWrite | lfinjFire | dbgenSet | dbgenClear
  | fusedMinimumRaise | bar4WindowPlace | hubstatWrite | getVersion | getCapabilities
  | negotiateAlgorithms | getDigests | getCertificate | challenge | getMeasurements | powerUp
  | bringupStepDone | bringupStepLimit | powerSample | thermalTrip | illegalEncoding | fetchFault
  | hostHaltedWrite | firmwareFaultResolve | limdinLinkTraining | routingTableWrite
  | barrierEntryConfig | contextShareWrite | spillQueueConfig
deriving DecidableEq, Repr

end Sys2Proof
end

