-- ==== Sys2Proof/Machine/CoreState.lean ====
section
/-! DEFINITION. The state of one core, as plain data: registers, local store, sequencer, tile unit,
copy engine, network interface and the core's part of the worklist, the Sound groups and the
populations. -/

namespace Sys2Proof.Machine

/-! ## Memory -/

/-- Bytes at addresses, in canonical form: addresses strictly rising, no listed zero byte. An address
that is not listed reads zero (the local store after R406 step 4, log entry 2 for global memory). -/
abbrev Memory := List Host.Cell

/-! ## Levels and run states -/

/-- The privilege levels of R11. -/
inductive Level where
  | user | kernel | debug
deriving DecidableEq, Repr

/-- The run states of R30. -/
inductive RunState where
  | idle | run | wait | halt
deriving DecidableEq, Repr

/-- The halt of R31: the level and the run state that the core keeps. -/
structure HaltRec where
  level : Level
  state : RunState
deriving DecidableEq, Repr

/-! ## Registers -/

/-- A vector register with its sidecar (R19, R20). -/
structure VecReg where
  bits : BitVec 512
  scales : Vector (BitVec 20) 4
deriving DecidableEq, Repr

/-- The register files of R17. -/
structure Regs where
  s : Vector Word 64
  f : Vector Word 32
  v : Vector VecReg 48
  q : Vector (BitVec 128) 8
  t : Vector (BitVec 65536) 8
  z : Vector (BitVec 131072) 4
deriving DecidableEq, Repr

/-- A register of the files of R17, or the sequencer's own state, as R389 protects them. -/
inductive RegRef where
  | s (r : SReg)
  | f (r : FReg)
  | v (r : VReg)
  | q (r : QReg)
  | t (r : TReg)
  | z (r : ZReg)
  | seq
deriving DecidableEq, Repr

/-- The held fields of `STATUS` (R25); `PRECISE` is derived from `FPCTL`. -/
structure Status where
  pl : Level
  hnd : Bool
  pie : Bool
  ie : Bool
  ppl : Bool
deriving DecidableEq, Repr

/-- The trap and interrupt registers (R24, R387). -/
structure TrapRegs where
  epc : Word
  cause : Word
  tval : Word
  tvec : Word
  kscratch : Word
  ienable : BitVec 6
  ipend : BitVec 6
  /-- The three source bits kept with `IPEND` bit 5 (R387). -/
  wdSrc : BitVec 3
  /-- The last sender of MESHSW (R387). -/
  meshSender : BitVec 24
  ubase : Word
  ulimit : Word
  seqpos : BitVec 32
deriving DecidableEq, Repr

/-- `FPCTL` and `FPFLAGS` (R24). -/
structure FpRegs where
  ctl : BitVec 8
  flags : BitVec 5
deriving DecidableEq, Repr

/-- The registers a clause start writes (R203). -/
structure IdRegs where
  stage : BitVec 3
  clause : Word
  gangpos : Word
  gangshape : Word
  ctx : BitVec 12
deriving DecidableEq, Repr

/-! ## Outstanding operations (R225, R381) -/

/-- The class of an operation, by the counter in which it is counted (R381). -/
inductive OpClass where
  | ld | st | cp | tl
deriving DecidableEq, Repr

/-- A failure as the NI records it (R381, R382). -/
structure Failure where
  cls : OpClass
  cause : Nat
  pc : Word
  afaddr : Word
  reason : Nat
  chan : Nat
  doneb : Nat
  global : Bool
  /-- A sound store beyond the issuer's package (R290). -/
  far : Bool
deriving DecidableEq, Repr

/-- Where an operation goes. -/
inductive Dest where
  | core (cid : Nat)
  | global (va : Nat)
  /-- A Sound group, and whether its home or a member lies beyond the package (R290). -/
  | group (handle : Word) (far : Bool)
deriving DecidableEq, Repr

/-- The destination classes of `CNTST` (R225). -/
inductive Reach where
  | cluster | package | fabric
deriving DecidableEq, Repr

/-- What an outstanding operation is, as far as its acknowledgement needs it. -/
inductive OutKind where
  | store
  | load (d : SReg) (size : Size) (u : Bool)
  | amo (d : SReg) (size : Size)
  | msg
  | mint
  | sound
  /-- A chunk that a copy channel sends to a core of another package; no counter holds it. -/
  | copy (ch : Chan)
deriving DecidableEq, Repr

/-- An operation issued and not yet answered. -/
structure OutOp where
  tag : Nat
  kind : OutKind
  dest : Dest
  /-- The class of `CNTST` it is counted in (R225, R290). -/
  reach : Reach
  pc : Word
  /-- What `AFADDR` takes if it fails (R382). -/
  afaddr : Word
deriving DecidableEq, Repr

/-- The counters of R225; the `ST` counts are the three classes of `CNTST`. -/
structure Counters where
  ld : Nat
  stcl : Nat
  stpk : Nat
  stfb : Nat
  cp : Nat
  tl : Nat
deriving DecidableEq, Repr

/-! ## Vector unit -/

/-- A tensor shape record (R145). -/
structure ShapeRec where
  base : BitVec 32
  et : EType
  rankM1 : Fin 4
  /-- `FLAGS` bits 8 and 9. -/
  logical : Bool
  table : Bool
  dims : Vector (BitVec 16) 4
  strides : Vector (BitVec 32) 4
  logbase : Word
  scalebase : BitVec 32
deriving DecidableEq, Repr

/-- A tensor slot: unbound, or a record's copy with the position (R146, R147). -/
structure SlotState where
  bound : Option ShapeRec
  p : Nat
deriving DecidableEq, Repr

/-- One instruction as issued to the sequencer, with the scalar operands read at issue (R138). -/
structure SeqOp where
  ins : Instr
  pc : Word
  sa : Word
  sb : Word
  fa : Word
  /-- The shape record that a tile instruction read at issue (R181). -/
  shape : Option ShapeRec
deriving DecidableEq, Repr

/-- How far the accesses of a partly performed instruction have come (R140): how many elements have been accessed,
and what a load has read so far. -/
structure Part where
  count : Nat
  vals : List Nat
deriving DecidableEq, Repr

def Part.none : Part := ⟨0, []⟩

/-- A `tmrot` whose product is done (R245, R246): the time from which the limit runs, the cycles counted before it,
and the flags its product raised, which are raised when it completes. -/
structure RotState where
  since : Nat
  acc : Nat
  raised : BitVec 5
deriving DecidableEq, Repr

/-- An entry of the sequencer: one instruction, or a loop of `n` iterations over a body (R137, R150). -/
structure SeqEntry where
  /-- The address of the instruction, or of the `vloop`. -/
  pc : Word
  body : List SeqOp
  loop : Bool
  n : Nat
  iter : Nat
  pos : Nat
  /-- The slots as the next instruction of the entry finds them at its issue. -/
  slots : Vector SlotState 4
  /-- The accesses of its present instruction that have been performed (R140). -/
  part : Part
  /-- A follow-on tile instruction carries the address of its `cpush` (R357). -/
  follow : Option Word
  /-- A `tmrot` whose product is done. -/
  rot : Option RotState
deriving DecidableEq, Repr

/-- The loop resume record (R152). -/
structure ResumeRec where
  loopPc : Word
  /-- The address of the trapping instruction. -/
  at_ : Word
  n : Nat
  iter : Nat
  pos : Nat
  body : List SeqOp
  slots : Vector SlotState 4
deriving DecidableEq, Repr

/-- A held vector operand (R22): the register and how many more instructions may read it. -/
structure HeldOperand where
  reg : VReg
  left : Nat
deriving DecidableEq, Repr

structure VectorUnit where
  seq : List SeqEntry
  slots : Vector SlotState 4
  resume : Option ResumeRec
  hold : List HeldOperand
  /-- The requests at the SFU of the next instructions to perform, by number (R171). -/
  sfuOut : List Nat
  rngkey : Word
  rngstep : Word
deriving DecidableEq, Repr

/-! ## Tile unit -/

/-- A tile on a neighbour link: its storage and its `TSHP` value (R245). -/
structure TileMsg where
  bits : BitVec 65536
  tshp : BitVec 19
deriving DecidableEq, Repr

structure TileUnit where
  tshp : Vector (BitVec 19) 8
  /-- Tiles waiting to leave, as `tmrot` sends them (R245). -/
  sendWest : Option TileMsg
  sendNorth : Option TileMsg
  /-- The receive buffers. -/
  fromEast : Option TileMsg
  fromSouth : Option TileMsg
  /-- The pairing count. -/
  pairs : Nat
  /-- The follow-on slots of the copy channels, as words (R197). -/
  follow : Vector Word 4
deriving DecidableEq, Repr

/-! ## Copy engine -/

/-- How far a request has come (R349, R362, R384). -/
inductive XPhase where
  | queued
  /-- Running: the next chunk or row. -/
  | active
  /-- Stopped by a translation fault: the reason, the faulting byte, and whether firmware abandoned it. -/
  | stopped (reason : Nat) (va : Nat) (abandoned : Bool)
  /-- Every byte has been written and acknowledged, or the request has failed. -/
  | ended
deriving DecidableEq, Repr

/-- Where the current piece of a request stands (R311, R328, R329). -/
inductive XAccess where
  /-- Its next chunk is to be read, or its local source bytes. -/
  | none
  /-- The last read found a malformed chunk: fetch it again (R328 step 1). -/
  | again
  /-- The second fetch was malformed too: fetch from the replica (R328 step 2). -/
  | replica
  /-- Its source bytes are read and decoded. -/
  | have_
  /-- Its destination bytes are on their way to a home slice or to another package. -/
  | put
  /-- Its destination bytes are landing in local stores, piece by piece (R363). -/
  | land
deriving DecidableEq, Repr

/-- A failure of a request (R362): the cause, the reason, `DONEB` and what `AFADDR` takes. -/
structure XFail where
  cause : Nat
  reason : Nat
  doneb : Nat
  global : Bool
  afaddr : Word
deriving DecidableEq, Repr

/-- A copy request (R344, R347). -/
structure Xfer where
  ch : Chan
  id : BitVec 32
  w0 : Word
  w1 : Word
  w2 : Word
  w3 : Word
  pc : Word
  /-- The context it carries (R309). -/
  ctx : Nat
  follow : Option Word
  phase : XPhase
  acc : XAccess
  /-- The bytes of the current piece, and how many of them have landed, target after target. -/
  buf : List Byte
  landed : Nat
  /-- Bytes already landed: destination bytes for kinds 1, 2 and 5, source bytes for the others. -/
  pos : Nat
  /-- Targets of a multicast that refused it (R354). -/
  refused : List Nat
  fail : Option XFail
  /-- A pending `COPYPF` (R384). -/
  pend : Bool
  /-- The index word of the current row, once it has been read (R353). -/
  index : Option Nat
  /-- The source bytes of the last naturally aligned 8-byte piece read that belong to the next chunk (R363). -/
  ahead : List Byte
  /-- The destination bytes that share a naturally aligned 8-byte piece with the next chunk and land with it (R115, R363),
  and the `DONEB` of the chunk that they belong to. -/
  carry : List Byte
  carryFrom : Nat
  /-- The bytes of the current piece come from the replica (R328). -/
  fromReplica : Bool
  /-- The shape record that the request's follow-on reads: its address, and the bytes read so far (R357). -/
  record : Option (Word × List Byte)
deriving DecidableEq, Repr

/-- The core's FIFO in order of acceptance: requests, and the joins of `cpfence` (R347, R350). -/
inductive FifoItem where
  | req (x : Xfer)
  | join (mask : BitVec 4)
deriving DecidableEq, Repr

/-- An outstanding multicast (R354, R355). -/
structure Mcast where
  id : BitVec 32
  ch : Chan
  mask : BitVec 16
  /-- The targets that refused it, which count as credited for it. -/
  refused : BitVec 16
deriving DecidableEq, Repr

structure CopyEngine where
  fifo : List FifoItem
  xnext : Vector (BitVec 32) 4
  mbox : BitVec 32
  /-- The 8-bit credit counts (R355). -/
  credits : Vector (BitVec 8) 16
  mcasts : List Mcast
deriving DecidableEq, Repr

/-! ## Network interface -/

/-- A message as it arrives or waits (R231, R232, R234). -/
structure Msg where
  sender : Nat
  ctx : Nat
  handler : Word
  words : List Word
  /-- The landed length of an `amsgp`. -/
  landed : Option Nat
  /-- What the sender records if the dispatch rejects it (R237, R382). -/
  pc : Word
  afaddr : Word
deriving DecidableEq, Repr

/-- A membership change (R285). -/
inductive SoundChange where
  | add (cid idx base len : Nat) (revoked : Bool)
  | remove (cid : Nat)
  | revoke (cid : Nat) (on : Bool)
  | close
  /-- A store that has been answered negatively on its way: its number passes without effect (R291). -/
  | skip
deriving DecidableEq, Repr

/-- A stamped sound store or membership change (R285, R288). -/
structure Stamped where
  handle : Word
  seq : Nat
  off : Nat
  bytes : List Byte
  issuer : Nat
  tag : Nat
  /-- The context of the group, and the number of its creation, which tells it from an earlier group of its index. -/
  ctx : Nat
  born : Nat
  /-- The member's index at the stamp. -/
  idx : Nat
  change : Option SoundChange
deriving DecidableEq, Repr

/-- A remote write, a message's payload or a sound store that the NI has begun to apply: who answers to whom, the pieces
that are left, and the message that is accepted, or the store that is answered, after the last one (R224, R234, R289). The rules
give no size of the pieces of a payload: they are the aligned 8-byte pieces of R224 (DEDUCED, log entry 63). -/
structure Applying where
  src : Nat
  ctx : Nat
  tag : Nat
  addr : Nat
  bytes : List Byte
  msg : Option Msg
  sound : Option Stamped
deriving DecidableEq, Repr

structure Inbox where
  arrival : List Msg
  spill : List Msg
  /-- The spill queue's base and capacity, set by firmware (R234). -/
  spillBase : Nat
  spillCap : Nat
  closed : Bool
  spawnlim : BitVec 7
  totspill : BitVec 32
deriving DecidableEq, Repr

/-- A barrier instance (R241). -/
structure BarInst where
  scope : BarScope
  /-- The identity: the clause, or context and cluster, or context. -/
  ident : Nat × Nat
  n : Nat
deriving DecidableEq, Repr

/-- A recorded arrival (R243): the instance, whether the release has come, and whether a step of the host made it, which
an abort of the step takes back (R31). -/
structure BarArrival where
  inst : BarInst
  released : Bool
  stepped : Bool
deriving DecidableEq, Repr

/-! ## Worklist, Sound and population parts of a core -/

/-- A task of the worklist (R259, R260). -/
structure Task where
  handler : Word
  words : List Word
  prio : BitVec 32
  pcid : Nat
  inv : Bool
  /-- Its place in the order of acceptance. -/
  seq : Nat
  /-- Not yet counted by the hub. -/
  pending : Bool
  /-- Its record of the spill area, while it is there (R260). -/
  slot : Nat
deriving DecidableEq, Repr

structure CoreWl where
  /-- The running task (R267). -/
  running : Option Task
  /-- When the core began to wait in `serve`, for the longest-waiting rule (R265). -/
  since : Nat
  inv : BitVec 16
  term : Bool
  stall : Bool
deriving DecidableEq, Repr

/-- A membership entry of a core's NI (R284, R289). -/
structure Membership where
  handle : Word
  base : Nat
  ctx : Nat
  born : Nat
  revoked : Bool
  applied : Nat
  /-- Stores held out of order. -/
  held : List Stamped
deriving DecidableEq, Repr

structure CoreSound where
  members : List Membership
  /-- Stores and changes of groups whose addition has not arrived, in the reorder buffer (R285, R289). -/
  early : List Stamped
  /-- `SNDSTAT` (R292). -/
  first : BitVec 24
  nackn : BitVec 13
  homeref : Bool
  deg : Bool
  nacktrap : Bool
deriving DecidableEq, Repr

/-- What a `gend` waits for (R368, R369, R373). -/
inductive GendPhase where
  | none
  | arrived
  | closed
  /-- Released: the result, the winner, the resume words and the elite mark (R368, R374). -/
  | released (result : Nat) (winner : Nat) (words : List Word) (elite : Bool)
deriving DecidableEq, Repr

structure CoreSce where
  fit : BitVec 32
  gbase : BitVec 21
  glen : BitVec 21
  genno : BitVec 40
  midx : BitVec 12
  pop : BitVec 4
  member : Bool
  elite : Bool
  repl : Bool
  /-- The core waits in `gend` with its arrival sent, and whether the generation has closed (R369). -/
  phase : GendPhase
deriving DecidableEq, Repr

/-! ## Transcript (R395, R396) -/

structure TransRec where
  typ : Nat
  reg : Nat
  i : Nat
  data : Word
deriving DecidableEq, Repr

structure Transcript where
  mode : BitVec 2
  full : Bool
  diverge : Bool
  count : BitVec 32
  /-- Instructions retired since `MODE` was written. -/
  i : Nat
  /-- The region: its VA, and its capacity in records. -/
  base : Nat
  cap : Nat
  /-- Records on their way to the region, each with its place. -/
  out : List (Nat × TransRec)
  /-- In a replay: the record at a place of the region, as read; none where the recorded run ends there. -/
  ahead : Option (Nat × Option TransRec)
  /-- In a replay: the failures recorded since `AFAULT` was clear, in order of arrival (R397). -/
  fails : List Failure
deriving DecidableEq, Repr

def Transcript.reset : Transcript := ⟨0, false, false, 0, 0, 0, 0, [], none, []⟩

/-! ## Binding -/

/-- A clause image as loaded (R217). -/
structure LoadMark where
  template_ : Nat
  codelen : Nat
  loadoff : Nat
deriving DecidableEq, Repr

/-- What a core runs: nothing yet, a host start, or a clause (R223, R237). -/
inductive Bound where
  | never
  | host
  /-- To nothing, since pre-emption has saved its member; the context is that clause's (R223, R391). -/
  | saved
  | clause (loadoff : Nat) (codelen : Nat)
deriving DecidableEq, Repr

/-- What a core waits for in an exchange with the hub that nothing interrupts (R210, R369, R385). -/
inductive HubWait where
  | none
  /-- An `exit` that has made its first checks and waits for the core's operations to end. -/
  | exitWait
  /-- An `exit` whose group has been sent. -/
  | exitSent
  /-- The hub's refusal of an `exit`: the cause and the value. -/
  | exitRefused (cause : Nat) (tval : Word)
  /-- A `ptouch` waiting for firmware. -/
  | touchSent (va : Word)
  /-- Firmware's answer: granted or refused. -/
  | touchDone (va : Word) (ok : Bool)
deriving DecidableEq, Repr

/-- A version of a 32-byte block that a fetch may still return (R15): its bytes; its bytes with the core's own later
stores in them, which are its bytes from the next `isync` on; and whether that `isync` drops it, since the core stored
over it itself or has observed the completion of the write. -/
structure OldBlock where
  blk : Nat
  bytes : BitVec 256
  synced : BitVec 256
  settled : Bool
deriving DecidableEq, Repr

/-- An instruction that has been fetched and has not ended: the words of a `vloop`'s body, by address, and the bytes that
it has read from the local store so far, each piece of them one event (R30, R150, R247). -/
structure Fetching where
  ins : Instr
  body : List (Nat × BitVec 128)
  read : List Byte
deriving DecidableEq, Repr

/-- An instruction just fetched, which has no body and has read nothing. -/
def Fetching.of (i : Instr) : Fetching := ⟨i, [], []⟩

structure Core where
  run : RunState
  halted : HaltRec
  /-- The host stepped the halted core, and the step has not ended (R31). -/
  stepping : Bool
  haltReq : Bool
  preemptReq : Bool
  pc : Word
  regs : Regs
  status : Status
  trap : TrapRegs
  fp : FpRegs
  ids : IdRegs
  cnt : Counters
  outst : List OutOp
  ls : Memory
  /-- The 8-byte granules, by number, with an uncorrectable error (R116). -/
  bad : List Nat
  /-- The registers with an uncorrectable error, and the sequencer's state (R389). -/
  badRegs : List RegRef
  /-- The older versions of blocks that fetch may still return (R15). -/
  stale : List OldBlock
  /-- The instruction that has been fetched and has not ended: a core in WAIT fetches nothing (R30). -/
  ir : Option Fetching
  /-- CYCLE minus the package's time (R32). -/
  cycOff : Word
  instret : Word
  latch : Bool
  shadow : Vector Word 8
  hres : Word
  /-- The budget left of a `yield` that a handler returns to (R239). -/
  yleft : Option Nat
  vec : VectorUnit
  tile : TileUnit
  copy : CopyEngine
  applying : Option Applying
  inbox : Inbox
  bars : List BarArrival
  afault : Word
  afpc : Word
  afaddr : Word
  /-- The recorded failure is of a sound store beyond the package (R290, R383). -/
  afFar : Bool
  wl : CoreWl
  snd : CoreSound
  sce : CoreSce
  trans : Transcript
  bound : Bound
  hubWait : HubWait
  /-- The trap whose entry fetches at `TVEC` next (R27, R380). -/
  entering : Bool
  lastLoad : Option LoadMark
  /-- The bind watchdog (R220): the count before `wdFrom`, the time from which it runs, the firings. -/
  wdAcc : Nat
  wdFrom : Nat
  wdFired : Bool
deriving DecidableEq, Repr

/-! ## A core after a cold reset -/

def VecReg.reset : VecReg := ⟨0, Vector.replicate 4 0⟩

def Regs.reset : Regs where
  s := Vector.replicate 64 0
  f := Vector.replicate 32 0
  v := Vector.replicate 48 VecReg.reset
  q := Vector.replicate 8 0
  t := Vector.replicate 8 0
  z := Vector.replicate 4 0

def SlotState.reset : SlotState := ⟨none, 0⟩

/-- A core after a cold reset: R17, R24, R25 and R30 for what they give, log entry 1 for the rest. -/
def Core.reset : Core where
  run := .idle
  halted := ⟨.kernel, .idle⟩
  stepping := false
  haltReq := false
  preemptReq := false
  pc := 0
  regs := Regs.reset
  status := ⟨.kernel, false, false, false, false⟩
  trap := ⟨0, 0, 0, 0, 0, 0, 0, 0, 0, 0, 0x140000, 0⟩
  fp := ⟨0, 0⟩
  ids := ⟨0, 0, 0, 0, 0⟩
  cnt := ⟨0, 0, 0, 0, 0, 0⟩
  outst := []
  ls := []
  bad := []
  badRegs := []
  stale := []
  ir := none
  cycOff := 0
  instret := 0
  latch := false
  shadow := Vector.replicate 8 0
  hres := 0
  yleft := none
  vec := ⟨[], Vector.replicate 4 SlotState.reset, none, [], [], 0, 0⟩
  tile := ⟨Vector.replicate 8 0, none, none, none, none, 0, Vector.replicate 4 0⟩
  copy := ⟨[], Vector.replicate 4 0, 0, Vector.replicate 16 0, []⟩
  applying := none
  inbox := ⟨[], [], 0, 0, false, 16, 0⟩
  bars := []
  afault := 0
  afpc := 0
  afaddr := 0
  afFar := false
  wl := ⟨none, 0, 0, false, false⟩
  snd := ⟨[], [], 0, 0, false, false, false⟩
  sce := ⟨0, 0, 0, 0, 0, 0, false, false, false, .none⟩
  trans := Transcript.reset
  bound := .never
  hubWait := .none
  entering := false
  lastLoad := none
  wdAcc := 0
  wdFrom := 0
  wdFired := false

end Sys2Proof.Machine
end

