-- ==== Sys2Proof/Machine/HubState.lean ====
section
/-! DEFINITION. The state of what the cores of a package share, as plain data: the mesh, the hub's launch
queues, the worklist, Sound groups, populations, global memory, the fabric and the host's side. -/

namespace Sys2Proof.Machine

/-! ## The mesh (R222 to R234, R388) -/

/-- The payload of an `amsgp` as it travels (R232). -/
structure Payload where
  landing : Word
  bytes : List Byte
  xf : Nat
deriving DecidableEq, Repr

/-- What a chunk of a copy to another package carries over links (R418): the 64-byte beats of its plain source data, the
bytes at its destination that come before those of its first beat, and the bytes there of one beat. A chunk of which a
link has corrupted a beat is cut there, and lost. -/
structure Beats where
  count : Nat
  lead : Nat
  per : Nat
  lost : Bool
deriving DecidableEq, Repr

inductive PktKind where
  | write (addr : Nat) (bytes : List Byte)
  /-- A chunk of a copy of kind 2 to another package. -/
  | copy (addr : Nat) (bytes : List Byte) (beats : Beats)
  | read (addr : Nat) (n : Nat)
  /-- A remote atomic: the operand, the new value of `cas`, and whether the old value returns. -/
  | amo (kind : AmoKind) (addr : Nat) (n : Nat) (v : Nat) (new : Nat) (returns : Bool)
  | msg (handler : Word) (words : List Word) (payload : Option Payload)
  | mint (bit : Fin 6)
  | bfree
deriving DecidableEq, Repr

/-- An operation on its way to a target (R223, R229). -/
structure Packet where
  src : Nat
  dst : Nat
  ctx : Nat
  tag : Nat
  /-- On the ordered route. -/
  ordered : Bool
  pc : Word
  afaddr : Word
  kind : PktKind
deriving DecidableEq, Repr

inductive ReplyKind where
  | ack
  | value (x : Word)
  | nack (cause : Nat)
  /-- A message rejected at dispatch, after its acknowledgement (R237). -/
  | late (cause : Nat) (pc : Word) (afaddr : Word)
deriving DecidableEq, Repr

/-- An answer on its way to the issuer, tagged with the issuer's context. -/
structure Reply where
  dst : Nat
  ctx : Nat
  tag : Nat
  kind : ReplyKind
deriving DecidableEq, Repr

/-! ## The shared special-function unit (R171) -/

/-- A request at a cluster's SFU: the core, and the time of acceptance once it is accepted. -/
structure SfuReq where
  cid : Nat
  since : Nat
  accepted : Option Nat
  /-- Its number: the core whose entry it serves knows it. -/
  no : Nat
deriving DecidableEq, Repr

/-! ## Barriers (R241, R242) -/

/-- A barrier instance in use: its arrivals, and the dies or packages that have reported their sums. -/
structure BarState where
  inst : BarInst
  /-- Arrived cores. -/
  arrived : List Nat
  /-- Those of them that have started another clause since (R241). -/
  restarted : List Nat
  /-- Dies, or packages for fabric scope, whose sums have reached the master. -/
  summed : List Nat
deriving DecidableEq, Repr

/-- A configured package or fabric entry (R241): its context, the counts by die or package, the master. -/
structure BarConfig where
  scope : BarScope
  n : Nat
  ctx : Nat
  counts : List (Nat × Nat)
  master : Nat
deriving DecidableEq, Repr

/-! ## Clauses and launch queues (R203 to R221, R425) -/

/-- A clause record (R206). -/
structure ClauseRec where
  tmpl : Nat
  codelen : Nat
  loadoff : Nat
  entry : Nat
  argdst : Nat
  args : Nat
  stages : Nat
  kind : Nat
  ncl : Nat
  prio : Nat
  queue : Nat
  join : Nat
  ctx : Nat
  res : Bool
  kstart : Bool
deriving DecidableEq, Repr

/-- A continuation block as it travels (R208, R213). -/
structure Cont where
  clrec : Word
  queue : Nat
  jkey : Nat
  arg0 : Word
  arg1 : Word
  sender : Nat
  ctx : Nat
deriving DecidableEq, Repr

/-- A group of continuations that an `exit` has sent (R210). -/
structure ExitGroup where
  cid : Nat
  ctx : Nat
  /-- The address of the first block. -/
  addr : Word
  conts : List Cont
deriving DecidableEq, Repr

/-- An entry of the pending-launch store (R212, R213, R425). -/
inductive EntryState where
  /-- The template read of its first arrival is outstanding. -/
  | reading
  | open_ (join : Nat)
  /-- The join is complete, and the record is to be read and checked. -/
  | joined
  /-- In its queue; `QWAIT` counts from the hub cycle `since` (R219). -/
  | ready (record : ClauseRec) (since : Nat)
deriving DecidableEq, Repr

structure LaunchEntry where
  /-- The order in which entries were opened or became ready. -/
  id : Nat
  ctx : Nat
  queue : Nat
  clrec : Word
  jkey : Nat
  count : Nat
  lowcid : Nat
  arg0 : Word
  arg1 : Word
  host : Bool
  state : EntryState
deriving DecidableEq, Repr

/-- A fault record (R215). -/
structure FaultRec where
  cid : Nat
  cause : Nat
  epc : Word
  tval : Word
  clause : Word
deriving DecidableEq, Repr

/-- A launch queue with its descriptor (R215) and its submission page (R403). -/
structure LaunchQueue where
  owner : Option Nat
  opened : Bool
  ovbase : Word
  ovcap : Nat
  bindwd : Nat
  qwait : Nat
  tvec : Word
  ubase : Word
  ulimit : Word
  ienable : BitVec 6
  frozen : Bool
  cancelled : Nat
  fault : Option FaultRec
  /-- Faults after the first, counted only (R221). -/
  faultsLater : Nat
  /-- The next `LSEQ` (R203). -/
  lseq : BitVec 32
  /-- How many records the overflow region holds, and how many it has taken; record `n` lies at place `n` modulo the
  capacity (R213). -/
  ovCount : Nat
  ovNext : Nat
  slots : Vector (BitVec 512) 63
  prod : Nat
  cons : Nat
deriving DecidableEq, Repr

/-- How far the loads of a member have come (R217): the image's bytes and then the argument block's, from a position,
stopped at the VA of a translation fault, ended in a failure at a VA, or done. -/
inductive LoadPos where
  | from_ (pos : Nat)
  | stopped (pos va : Nat)
  | failed (va : Nat)
  | done
deriving DecidableEq, Repr

/-- A member of a bound gang (R204, R217). -/
structure GangMember where
  cid : Nat
  idx : Nat
  crank : Nat
  gx : Nat
  gy : Nat
  /-- It has exited or been stopped. -/
  gone : Bool
  load : LoadPos
deriving DecidableEq, Repr

/-- An accepted bind (R217). -/
structure Bind where
  entry : LaunchEntry
  record : ClauseRec
  lseq : BitVec 32
  cl0 : Nat
  org : Nat
  members : List GangMember
  started : Bool
  /-- The clause has ended in a fault (R221). -/
  faulted : Bool
deriving DecidableEq, Repr

structure Hub where
  queues : Vector LaunchQueue 64
  entries : List LaunchEntry
  /-- Arrivals placed in the store that the hub has not handled yet, oldest first (R212). -/
  pending : List Cont
  nextId : Nat
  binds : List Bind
  groups : List ExitGroup
  /-- The queue, or page as 64 + queue, that the rotation of R214 serves next. -/
  turn : Nat
deriving DecidableEq, Repr

/-! ## The worklist (R258 to R281) -/

structure WlSlice where
  tasks : List Task
  /-- The last package floor received (R264). -/
  floor : Option Nat
deriving DecidableEq, Repr

/-- A count increment on its way to the hub: the cluster, the task's place in acceptance, its bucket. -/
structure WlInc where
  cluster : Nat
  seq : Nat
  bucket : Nat
deriving DecidableEq, Repr

/-- A count decrement on its way to the hub: the cluster, the bucket, and the number of the first push that the retire
does not follow. It reaches the hub behind the increments of its slice's earlier pushes (R301, R302). -/
structure WlDec where
  cluster : Nat
  bucket : Nat
  after : Nat
deriving DecidableEq, Repr

/-- A floor on its way to a slice: the acknowledgement of a task's increment, or a change; and when it was sent (R264). -/
structure FloorMsg where
  cluster : Nat
  floor : Option Nat
  ack : Option Nat
  at_ : Nat
deriving DecidableEq, Repr

/-- An announcement of a package (R272). -/
structure WlAnnounce where
  pkg : Nat
  floor : Option Nat
  load : Nat
  /-- When it was received, in hub cycles (R415). -/
  at_ : Nat
deriving DecidableEq, Repr

/-- An answer to a wave (R276). -/
structure WaveAnswer where
  pkg : Nat
  /-- The number of the wave that it answers. -/
  no : Nat
  sent : Nat
  recv : Nat
deriving DecidableEq, Repr

structure Worklist where
  enabled : Bool
  owner : Nat
  bound : BitVec 6
  shift : BitVec 5
  xint : BitVec 32
  stallLimit : BitVec 32
  spillBase : Word
  spillCap : Nat
  spill : List Task
  slices : Vector WlSlice 96
  /-- The exact counts per bucket, the non-zero ones (R264). -/
  counts : List (Nat × Nat)
  incs : List WlInc
  decs : List WlDec
  floorMsgs : List FloorMsg
  /-- The cluster whose slice the rotation of R271 serves next. -/
  refillTurn : Nat
  nextSeq : Nat
  armed : Bool
  /-- The terminations so far, and whether a push elsewhere has armed the epoch behind the next one (R275, R277). -/
  epoch : Nat
  ahead : Bool
  /-- The packages that share a fabric floor, and the coordinator (R272, R276). -/
  sharing : List Nat
  coordinator : Nat
  announced : List WlAnnounce
  lastExchange : Nat
  sent : Nat
  recv : Nat
  /-- The package asked to give tasks (R274). -/
  stealFrom : Option Nat
  stealAsked : List Nat
  /-- Batches that have arrived and been counted, and are not yet placed. -/
  stealIn : List (List Task)
  /-- At the coordinator: the number of the last wave, whether it runs, its answers, and the first wave of the pair. -/
  waveNo : Nat
  waveOn : Bool
  wave : List WaveAnswer
  lastWave : Option (List WaveAnswer)
  /-- A wave that asks this package, and that it has not answered (R276). -/
  waveDue : Option Nat
  /-- The stall count of R280. -/
  stallAcc : Nat
  /-- When firmware enabled the worklist, in hub cycles (R415). -/
  enabledAt : Nat
deriving DecidableEq, Repr

/-! ## Sound groups (R283 to R297) -/

inductive GroupState where
  | free | active | degraded | closed
deriving DecidableEq, Repr

structure GroupMember where
  idx : Nat
  cid : Nat
  base : Nat
  len : Nat
  revoked : Bool
deriving DecidableEq, Repr

structure Group where
  state : GroupState
  ctx : Nat
  srange : Nat
  nextSeq : BitVec 48
  members : List GroupMember
  /-- The number of its creation among all groups of this hub. -/
  born : Nat
  /-- The members that have not applied the close, and those removed, with the number of their removal, that have not
  applied it (R285). -/
  unclosed : List Nat
  unleft : List (Nat × Nat)
deriving DecidableEq, Repr

/-- A sound store on its way to its home (R287). -/
structure SoundReq where
  handle : Word
  off : Nat
  bytes : List Byte
  issuer : Nat
  ctx : Nat
  tag : Nat
deriving DecidableEq, Repr

/-- A stamped store on its way to one member, and whether the member has refused it for room (R289). -/
structure SoundCopy where
  dest : Nat
  st : Stamped
  refused : Bool
deriving DecidableEq, Repr

/-- A member's answer to a stamped store, to its removal or to the close (R285, R290). -/
structure SoundAns where
  handle : Word
  born : Nat
  seq : Nat
  idx : Nat
  cid : Nat
  ok : Bool
deriving DecidableEq, Repr

/-- The answers combined so far for one store (R290). -/
structure SoundSum where
  handle : Word
  seq : Nat
  issuer : Nat
  ctx : Nat
  tag : Nat
  born : Nat
  /-- The members that have not answered. -/
  waiting : List Nat
  nackn : Nat
  /-- The negative member of lowest index so far. -/
  first : Option (Nat × Nat)
  /-- Refused at the home. -/
  homeref : Bool
deriving DecidableEq, Repr

structure Sound where
  /-- The group table: the entries in use, by index. -/
  groups : List (Nat × Group)
  toHome : List SoundReq
  copies : List SoundCopy
  sums : List SoundSum
  /-- How many groups have been created. -/
  created : Nat
deriving DecidableEq, Repr

/-! ## Populations (R365 to R376) -/

/-- A member's arrival (R368). -/
structure Arrival where
  cid : Nat
  fit : BitVec 32
  genno : BitVec 40
deriving DecidableEq, Repr

/-- A loser of a closed generation: its winner, its seed, and how its copy ended, with the winner's `GBASE` (R371 to
R374). -/
structure Loser where
  cid : Nat
  winner : Nat
  seed : Word
  lfit : BitVec 32
  wfit : BitVec 32
  /-- The winner's SCE has been asked for the copy. -/
  asked : Bool
  /-- The end, and the failure's `DONEB`. -/
  done : Bool
  failed : Option Nat
  gbase : BitVec 21
deriving DecidableEq, Repr

/-- A closed generation (R369, R370): the ranking, the losers and how many lineage records are written. -/
structure Closed where
  ranking : List Arrival
  losers : List Loser
  logged : Nat
deriving DecidableEq, Repr

structure Population where
  ctx : Nat
  /-- The home package, and the descriptor slot there (R375, R376). -/
  home : Nat
  homeSlot : Nat
  members : List (Nat × Nat)
  gl : Nat
  tournament : Bool
  w : Nat
  l : Nat
  k : Nat
  e : Nat
  xf : Nat
  pet : Nat
  sigma : BitVec 32
  rthr : BitVec 16
  popkey : Word
  gen : BitVec 40
  lbase : Word
  lcap : Nat
  lcount : Word
  /-- Windows replaced (R373). -/
  replaced : Nat
  arrivals : List Arrival
  closed : Option Closed
  /-- At the home: the members of other packages that are absent, as their SCEs report. -/
  away : List Nat
  /-- Away from the home: the members reported absent, and the windows held since the close (R373). -/
  told : List Nat
  held : Bool
deriving DecidableEq, Repr

/-- What the home SCE learns of a member: its arrival, its withdrawal, or whether it counts as absent (R369). -/
inductive SceNote where
  | arrive
  | withdraw
  | absent
  | present
deriving DecidableEq, Repr

/-- A note on its way to the home SCE: the home's slot, the member's arrival and what it says. -/
structure SceMsg where
  slot : Nat
  arr : Arrival
  note : SceNote
deriving DecidableEq, Repr

/-- A loser's copy as the SCE of the winner's package performs it (R372, R375): the home and its slot, the generation,
the loser's number, and the bytes that have landed. While a chunk is on its way to another package, the copy waits. -/
structure SceJob where
  home : Nat
  slot : Nat
  gen : BitVec 40
  j : Nat
  l : Loser
  pos : Nat
  waits : Bool
deriving DecidableEq, Repr

structure Sce where
  pops : List (Nat × Population)
  msgs : List SceMsg
  jobs : List SceJob
deriving DecidableEq, Repr

/-! ## Global memory (R308 to R335) -/

/-- A stored chunk: its `MD`, its slot bytes by offset, poison, and an error that its next read corrects (R325,
R389). -/
structure Chunk where
  md : BitVec 8
  slot : Memory
  poison : Bool
  soft : Bool
deriving DecidableEq, Repr

/-- A cached translation (R316, R317): the context, the page's first VA, its size as a level, its entry. -/
structure Tlb where
  ctx : Nat
  page : Nat
  level : Nat
  entry : Word
deriving DecidableEq, Repr

/-- The chunk counters of a die (R322). -/
structure DieCount where
  lrd : Word
  lwr : Word
  rrd : Word
  rwr : Word
deriving DecidableEq, Repr

/-- Bytes that the hub or firmware has still to write within a chunk of a context (R213, R261, R396). -/
structure HubWrite where
  ctx : Nat
  va : Nat
  bytes : List Byte
deriving DecidableEq, Repr

structure Gmem where
  /-- The physical address of each context's root table. -/
  roots : List (Nat × Nat)
  /-- Table entries by physical address, the non-zero ones (R313 to R315). -/
  tables : List (Nat × Word)
  /-- Chunks by number, 16 · frame + chunk, those that differ from a zero chunk. -/
  chunks : List (Nat × Chunk)
  /-- The records of the compressed zone: their numbers and their lengths in bytes. The record of number `r` lies at
  byte `64 · r` of the interleaved pool (R331, log entry 65). -/
  zone : List (Nat × Nat)
  /-- The save areas in use, by the number of their first chunk (R391). -/
  areas : List Nat
  tlb : List Tlb
  counters : Vector DieCount 6
  /-- The table entries, by physical address, that are poisoned, and the corrected counts of the stacks (R389). -/
  badTables : List Nat
  corrected : Vector (BitVec 32) 12
  /-- The frames of the interleaved pool, and of each die's near pool (R319). -/
  ni : Nat
  near : Vector (Nat × Nat) 6
  /-- The die of each slice, of each stack and of each cluster (R310, R401). -/
  sliceDie : Vector (Fin 6) 96
  stackDie : Vector (Fin 6) 12
  clusterDie : Vector (Fin 6) 96
  /-- Pages whose eviction the slice has accepted: context and VA (R332). -/
  evicting : List (Nat × Nat)
  /-- The hub's own writes that wait for their pages, oldest first (R332, log entry 25). -/
  writes : List HubWrite
deriving DecidableEq, Repr

/-- A port's token buckets (R364): its capacity per period, and each context's tokens. -/
structure TokenPort where
  cap : Nat
  tokens : List (Nat × Nat)
  /-- When it was last refilled. -/
  last : Nat
deriving DecidableEq, Repr

/-! ## The fabric (R410 to R414) -/

/-- What a flit carries, as far as the package's services see it. -/
inductive FlitBody where
  | packet (p : Packet)
  | reply (r : Reply)
  | soundReq (r : SoundReq)
  | soundCopy (c : SoundCopy)
  | soundAnswer (x : SoundAns)
  | soundDone (x : SoundSum)
  | announce (a : WlAnnounce)
  | stealAsk (pkg : Nat)
  | steal (tasks : List Task)
  /-- A wave's question and an answer (R276); the word that an epoch has ended, or that a push has armed one (R277). -/
  | waveAsk (no : Nat)
  | waveAnswer (a : WaveAnswer)
  | terminated (epoch : Nat)
  | wlArm (epoch : Nat)
  | barSum (inst : BarInst) (pkg : Nat)
  | barRelease (inst : BarInst)
  | sceMsg (m : SceMsg)
  /-- A population's close with the members whose arrival it counts, and its release with what each member's `gend`
  returns (R375). -/
  | sceClose (home slot : Nat) (arrived : List Nat)
  | sceRelease (home slot : Nat) (gen : BitVec 40) (results : List (Nat × GendPhase))
  /-- A loser's copy: the request to the winner's SCE, a chunk for the loser, its answer, and the end. -/
  | sceAsk (job : SceJob)
  | sceData (job : SceJob) (bytes : List Byte) (lost : Bool)
  | sceAck (job : SceJob) (ok : Bool)
  | sceDone (job : SceJob) (failed : Option Nat)
  | link
deriving DecidableEq, Repr

/-- A flit (R411): the header's fields, the payload and the tag as they cross the link, the `LCRC`, and what the payload
carries: a piece of a body, with the body's number at its port and how many of its flits follow. -/
structure Flit where
  typ : BitVec 8
  vc : BitVec 4
  kg : Bool
  seq : BitVec 32
  dpkg : Nat
  sealed : List Byte
  lcrc : BitVec 32
  body : FlitBody
  no : Nat
  left : Nat
deriving DecidableEq, Repr

/-- A key bank: loaded, its key and salt, and its flit counter (R412). -/
structure Bank where
  loaded : Bool
  key : BitVec 256
  salt : BitVec 32
  count : Nat
deriving DecidableEq, Repr

/-- A rekey in progress (R413): the new bank is loaded in both directions; the receiver has confirmed; this end's
transmitter uses it; and the old banks of either direction are retired. -/
structure Rekey where
  loaded : Bool
  confirmed : Bool
  switched : Bool
  txDone : Bool
  rxDone : Bool
deriving DecidableEq, Repr

/-- A Limdin port (R410 to R414). -/
structure Port where
  trained : Bool
  up : Bool
  rev : Nat
  /-- The key banks of either direction, and the number of loads so far. -/
  tx : Vector Bank 2
  rx : Vector Bank 2
  loads : Nat
  /-- The bank of the next new flit, and the bank in use for what arrives. -/
  kg : Bool
  rkg : Bool
  txSeq : BitVec 32
  rxSeq : BitVec 32
  /-- Sent and not yet acknowledged, oldest first. -/
  replay : List Flit
  /-- Waiting to be sent, and the number of bodies that the port has taken. -/
  queue : List Flit
  bodies : Nat
  /-- Consecutive failed replays of one flit, and the number of the last flit replayed. -/
  fails : Nat
  replayed : Option (BitVec 32)
  /-- The number from which a replay has been asked of the other end. -/
  asked : Option (BitVec 32)
  /-- The virtual channels on which the port signals stop to its senders, and those on which the other end signals stop
  to it (R410, R412). -/
  stops : BitVec 16
  held : BitVec 16
  /-- The management harts hold an SPDM secured session with the other end (R413). -/
  session : Bool
  rekeying : Option Rekey
deriving DecidableEq, Repr

structure Fabric where
  ports : Vector Port 18
  /-- The ports that lead to a package, and the ordered path's port, if it stands. -/
  routes : List (Nat × List Nat)
  ordered : List (Nat × Nat)
  /-- Bodies that have arrived for the package's services and wait to be taken. -/
  inbox : List FlitBody
  /-- Bodies for the services of other packages that wait for a path, each with its package and its route. -/
  parked : List (Nat × Bool × FlitBody)
deriving DecidableEq, Repr

/-! ## Host side, bring-up and power (R402 to R409, R416 to R418) -/

/-- A die's fuses and its firmware image as its boot ROM sees it (R407, R408). Die 6 is the hub. -/
structure Die where
  revs : BitVec 16
  secver : BitVec 16
  fusedMin : BitVec 16
  /-- The hashes of the four public keys, and the keys that a fuse has revoked. -/
  keyHashes : Vector (BitVec 256) 4
  revoked : BitVec 4
  /-- The public key of the image's signature, and whether the signature verifies under it. -/
  pubKey : BitVec 256
  sigOk : Bool
  image : List Byte
  stepDone : Bool
  /-- Its stores have been initialised (R406 step 4). -/
  ready : Bool
deriving DecidableEq, Repr

/-- The link-fault injection register (R417) with its beat count (R418). -/
structure LinkInj where
  after : BitVec 32
  fired : Bool
  arm : Bool
  dir : Bool
  link : BitVec 5
  beats : Nat
deriving DecidableEq, Repr

/-- An SRAM array that counts its corrected errors (R389). -/
inductive SramArray where
  | store (cid : Nat)
  | registers (cid : Nat)
  | tiles (cid : Nat)
  | slice (n : Nat)
  | hub
deriving DecidableEq, Repr

/-- An entry of hub SRAM (R389). -/
inductive HubRef where
  | group (gidx : Nat)
  | population (slot : Nat)
  | queue (q : Nat)
  | launch (id : Nat)
  | barrier (scope : BarScope) (n : Nat)
deriving DecidableEq, Repr

/-- Errors in SRAM that no read has found yet, and the corrected counts (R389). -/
structure Sram where
  /-- Arrays with an error that can be corrected. -/
  soft : List SramArray
  counts : List (SramArray × BitVec 32)
  /-- Hub entries with an error that cannot. -/
  hub : List HubRef
deriving DecidableEq, Repr

structure HostSide where
  ready : Bool
  fail : Bool
  suberr : Bool
  dbgen : Bool
  step : Nat
  code : BitVec 8
  secver : BitVec 8
  protrev : BitVec 8
  /-- The package has power and the bring-up sequence runs or has ended. -/
  powered : Bool
  dies : Vector Die 7
  inj : LinkInj
  /-- Where BAR 4 looks in global memory's slots. -/
  bar4 : Nat
  /-- The last answer that a command gave the host. -/
  answer : List Word
  /-- Writes of the host that were refused and reported (R31). -/
  refused : Nat
  /-- Interrupts raised at the management harts, newest last. -/
  fwIrq : List Nat
  sram : Sram
  /-- The core clock in MHz, and its floor (R416). -/
  clock : Nat
  tripped : Bool
  /-- The package's shares by context (R364). -/
  shares : List (Nat × Nat)
  ports : List TokenPort
deriving DecidableEq, Repr

/-! ## Pre-emption (R390 to R393) -/

/-- An operation held in a saved member's spill queue (R390, R392, R296). -/
inductive Held where
  | pkt (p : Packet)
  | reply (r : Reply)
  /-- A sound store, at its place in the store. -/
  | sound (addr : Nat) (bytes : List Byte)
deriving DecidableEq, Repr

/-- A member saved by pre-emption: the core as saved, what its NI holds for it, and when it was saved. -/
structure SavedMember where
  cid : Nat
  core : Core
  held : List Held
  cap : Nat
  since : Nat
  haltReq : Bool
  /-- The chunk number of its save area (R391). -/
  area : Nat
deriving DecidableEq, Repr

end Sys2Proof.Machine
end

