-- ==== Sys2Proof/Machine/State.lean ====
section
/-! DEFINITION. The state of one package as plain data, the ways a step can stop, and the state after reset.
The fields from `turns` on are the model's own: the order in which the agents move, the operands of the step that
moves, and the counters that index time and the free values. -/

namespace Sys2Proof.Machine

/-- The ways a step can fault. The spec gives an effect to every instruction and step, so no definition of this
model raises one, which is safe; the constructor keeps the type inhabited for a later repair. -/
inductive Fault where
  /-- Raised by nothing. Safe: it would only stop a run. -/
  | stuck
deriving DecidableEq, Repr

/-- The ways a step can be refused. -/
inductive Refusal where
  /-- Raised by an arm of `exec` whose instruction has no meaning yet; no arm does so now. Safe. -/
  | notModelled (mnemonic : String)
deriving DecidableEq, Repr

/-! ## The operands of the steps -/

/-- A write of the host into a halted core (R31). -/
inductive HaltedWrite where
  | pc (x : Word)
  | s (r : SReg) (x : Word)
  | f (r : FReg) (x : Word)
  | v (r : VReg) (x : BitVec 512)
  | scale (r : VReg) (k : Slot) (x : BitVec 20)
  | q (r : QReg) (x : BitVec 128)
  | t (r : TReg) (x : BitVec 65536)
  | z (r : ZReg) (x : BitVec 131072)
  | store (addr : Nat) (bytes : List Byte)
  | sys (r : SysReg) (x : Word)
deriving DecidableEq, Repr

/-- What firmware writes into a queue's descriptor (R215). -/
structure QueueIn where
  owner : Nat
  opened : Bool
  ovbase : Word
  ovcap : Nat
  bindwd : Nat
  qwait : Nat
  tvec : Word
  ubase : Word
  ulimit : Word
  ienable : BitVec 6
deriving DecidableEq, Repr

/-- What firmware sets when it enables the worklist (R258, R281). -/
structure WorklistIn where
  owner : Nat
  spillBase : Word
  spillCap : Nat
  sharing : List Nat
  coordinator : Nat
  bound : BitVec 6
  shift : BitVec 5
  xint : BitVec 32
  stallLimit : BitVec 32
deriving DecidableEq, Repr

/-- What a power-up brings: the dies' images, and what firmware assigns at bring-up: the package's number (R410), the
frames of the interleaved pool (R319), and the die of each slice, of each stack and of each cluster (R401). -/
structure PowerIn where
  dies : List Die
  pkg : BitVec 12
  ni : Nat
  sliceDie : Vector (Fin 6) 96
  stackDie : Vector (Fin 6) 12
  clusterDie : Vector (Fin 6) 96
deriving DecidableEq, Repr

/-- How firmware answers a fault (R385, R334, R425). -/
inductive Resolve where
  /-- A waiting `ptouch` of a core: whether the page has been made accessible. -/
  | touch (cid : Nat) (ok : Bool)
  /-- Entries and roots written for any other fault. -/
  | map
deriving DecidableEq, Repr

/-- The operands of a step that has no encoding. -/
inductive Inp where
  | none
  /-- A position in a list, a channel, a cluster, a slot, a port. -/
  | idx (n : Nat)
  | two (a b : Nat)
  | three (a b c : Nat)
  /-- The operands of the `mfsr` and `mtsr` rows that stand for themselves. -/
  | reg (r : SysReg) (x : SReg)
  | flag (n : Nat) (b : Bool)
  | hostStart (ctx : Nat) (pc : Word) (kernel : Bool) (regs : List HaltedWrite)
  | resume (level : Option Bool)
  | write (w : HaltedWrite)
  | queue (q : Nat) (d : QueueIn)
  | submit (q : Nat) (prod : Nat) (slots : List (Nat × BitVec 512))
  | bind (queue prio cluster org : Nat)
  | worklist (d : WorklistIn)
  | group (gidx : Nat) (g : Option Group)
  | change (gidx : Nat) (c : SoundChange)
  | pop (slot : Nat) (p : Option Population)
  | barConfig (c : BarConfig)
  | tables (roots : List (Nat × Nat)) (entries : List (Nat × Word)) (r : Resolve)
  | shoot (ctx va len : Nat) (entries : List (Nat × Word))
  | evict (ctx va : Nat) (record : Nat)
  | expand (ctx va : Nat) (record frame : Nat)
  | mds (ctx va : Nat) (codes : List (BitVec 8))
  | hostMem (off : Nat) (bytes : Option (List Byte)) (len : Nat)
  | flit (port : Nat) (f : Flit)
  | routes (table : List (Nat × List Nat)) (ordered : List (Nat × Nat))
  | inj (x : Word)
  | power (p : PowerIn)
  | hostBar (bar off len : Nat)
  | announce (a : WlAnnounce)
  | load (cid : Nat)
deriving DecidableEq, Repr

/-- One move of the schedule: the core it concerns, and a step of another agent, or the core's own move. -/
structure Turn where
  core : Nat
  ev : Option Instr
  inp : Inp
deriving DecidableEq, Repr

/-! ## The state -/

structure State where
  /-- The core in focus, by its `CID` (R26), and the others; a core that is not listed is as after reset. -/
  cid : Nat
  core : Core
  others : List (Nat × Core)
  net : List Packet
  back : List Reply
  sfu : List SfuReq
  bars : List BarState
  barConfigs : List BarConfig
  hub : Hub
  wl : Worklist
  sound : Sound
  sce : Sce
  gmem : Gmem
  fabric : Fabric
  host : HostSide
  saved : List SavedMember
  /-- The schedule. -/
  turns : List Turn
  inp : Inp
  /-- The package's time in core cycles, and in hub cycles. -/
  now : Nat
  hubNow : Nat
  /-- The steps so far: it indexes the free values. -/
  steps : Nat
  /-- The next tag of an operation. -/
  tags : Nat
deriving DecidableEq, Repr

/-! ## After reset -/

def LaunchQueue.reset : LaunchQueue where
  owner := none
  opened := false
  ovbase := 0
  ovcap := 0
  bindwd := 0
  qwait := 0
  tvec := 0
  ubase := 0
  ulimit := 0x140000
  ienable := 0
  frozen := false
  cancelled := 0
  fault := none
  faultsLater := 0
  lseq := 0
  ovCount := 0
  ovNext := 0
  slots := Vector.replicate 63 0
  prod := 0
  cons := 0

def Hub.reset : Hub := ⟨Vector.replicate 64 LaunchQueue.reset, [], [], 0, [], [], 0⟩

def Worklist.reset : Worklist where
  enabled := false
  owner := 0
  bound := 0
  shift := 0
  xint := 0x1000
  stallLimit := 0x100000
  spillBase := 0
  spillCap := 0
  spill := []
  slices := Vector.replicate 96 ⟨[], none⟩
  counts := []
  incs := []
  decs := []
  floorMsgs := []
  refillTurn := 0
  nextSeq := 0
  armed := false
  epoch := 0
  ahead := false
  sharing := []
  coordinator := 0
  announced := []
  lastExchange := 0
  sent := 0
  recv := 0
  stealFrom := none
  stealAsked := []
  stealIn := []
  waveNo := 0
  waveOn := false
  wave := []
  lastWave := none
  waveDue := none
  stallAcc := 0
  enabledAt := 0

/-- Global memory after reset (log entry 2): nothing mapped, the pools and dies as log entry 2 names them. -/
def Gmem.reset : Gmem where
  roots := []
  tables := []
  chunks := []
  zone := []
  areas := []
  tlb := []
  counters := Vector.replicate 6 ⟨0, 0, 0, 0⟩
  badTables := []
  corrected := Vector.replicate 12 0
  ni := 0x900000
  near := Vector.ofFn fun d : Fin 6 => (0x900000 + 0x80000 * d.val, 0x80000)
  sliceDie := Vector.ofFn fun k : Fin 96 => Fin.ofNat 6 (k.val / 16)
  stackDie := Vector.ofFn fun k : Fin 12 => Fin.ofNat 6 (k.val / 2)
  clusterDie := Vector.ofFn fun k : Fin 96 => Fin.ofNat 6 (k.val / 16)
  evicting := []
  writes := []

def Bank.reset : Bank := ⟨false, 0, 0, 0⟩

def Port.reset : Port where
  trained := false
  up := false
  rev := 0
  tx := Vector.replicate 2 Bank.reset
  rx := Vector.replicate 2 Bank.reset
  loads := 0
  kg := false
  rkg := false
  txSeq := 0
  rxSeq := 0
  replay := []
  queue := []
  bodies := 0
  fails := 0
  replayed := none
  asked := none
  stops := 0
  held := 0
  session := false
  rekeying := none

/-- SHA-256 of 32 zero bytes. -/
def zeroKeyHash : BitVec 256 := 0x66687aadf862bd776c8fc18b8e9f8e20089714856ee233b3902a591d0d5f2925#256

/-- The fuses and the image of a die before any power-up (log entry 7). -/
def Die.reset : Die where
  revs := 1
  secver := 0
  fusedMin := 0
  keyHashes := Vector.replicate 4 zeroKeyHash
  revoked := 0
  pubKey := 0
  sigOk := true
  image := []
  stepDone := false
  ready := false

def HostSide.reset : HostSide where
  ready := false
  fail := false
  suberr := false
  dbgen := false
  step := 0
  code := 0
  secver := 0
  protrev := 0
  powered := false
  dies := Vector.replicate 7 Die.reset
  inj := ⟨0, false, false, false, 0, 0⟩
  bar4 := 0
  answer := []
  refused := 0
  fwIrq := []
  sram := ⟨[], [], []⟩
  clock := 2000
  tripped := false
  shares := []
  ports := []

/-- The machine right after reset: every core as after a cold reset (R17, R24, R25, R30), in a package whose
bring-up has not begun (R404, R406). -/
def State.reset : State where
  cid := 0
  core := Core.reset
  others := []
  net := []
  back := []
  sfu := []
  bars := []
  barConfigs := []
  hub := Hub.reset
  wl := Worklist.reset
  sound := ⟨[], [], [], [], 0⟩
  sce := ⟨[], [], []⟩
  gmem := Gmem.reset
  fabric := ⟨Vector.replicate 18 Port.reset, [], [], [], []⟩
  host := HostSide.reset
  saved := []
  turns := []
  inp := .none
  now := 0
  hubNow := 0
  steps := 0
  tags := 0

end Sys2Proof.Machine
end

