-- ==== Sys2Proof/WellFormed.lean ====
section
/-! DEFINITION. The limits of the opcode map that the operand types do not already carry (R36, R40,
R44, R49 to R66, R112, R153 to R176, R189, R192, R193). `Instr.wf` holds exactly of the instructions that
pass checks 3 to 5 of R67; a step of another agent has no encoding, and it holds of each. -/

namespace Sys2Proof

/-! ## Type lists (R153) -/

/-- INTW. -/
def EType.intw : EType → Bool
  | .i8 | .i16 | .i32 | .i64 => true
  | _ => false

/-- FPA. -/
def EType.fpa : EType → Bool
  | .fp16 | .bf16 | .fp32 | .fp64 => true
  | _ => false

/-- FP8−. -/
def EType.fp8 : EType → Bool
  | .e5m2 | .e4m3 | .e3m2 | .e2m3 | .e2m1 => true
  | _ => false

def EType.arith (t : EType) : Bool := t.intw || t.fpa
def EType.intAny (t : EType) : Bool := t.isInt
def EType.wide8 (t : EType) : Bool := decide (8 ≤ t.width)

/-- The types of `vquant`, `vdeq` and `vrenorm` (R167). -/
def EType.blockType : EType → Bool
  | .e4m3 | .e5m2 | .e3m2 | .e2m3 | .e2m1 | .ds8 | .i8 | .i4 => true
  | _ => false

/-- The destination types for which SR is legal (R98). -/
def EType.srDst : EType → Bool
  | .fp16 | .bf16 | .e5m2 | .e4m3 | .e3m2 | .e2m3 | .e2m1 | .ds8 => true
  | _ => false

/-! ## Shared checks -/

/-- A run of `n` registers ends at or below `s63` (R36). -/
def runOk (r : SReg) (n : Nat) : Bool := decide (r.val + n ≤ 64)

/-- R41: without an index, B is zero. -/
def MemArg.wf (m : MemArg) : Bool := m.x || m.b == 0

/-- R57: U = 1 only with sizes 1, 2 and 4. -/
def loadFlags (size : Size) (u : Bool) : Bool := !(u && size == .b8)

/-- R57: an atomic moves 4 or 8 bytes. -/
def amoSize (size : Size) : Bool := size == .b4 || size == .b8

/-- How a V row uses RM (R51, R60). -/
inductive RmUse where
  | zero | fp | any
deriving DecidableEq, Repr

/-- The V row checks: accepted type, RM, SAT, SR, hold mask and predicate (R44, R51, R60, R98). -/
structure VRow where
  accepts : EType → Bool
  rm : RmUse := .zero
  sat : Bool := false
  sr : Bool := false
  hold : BitVec 3 := 0
  noQ : Bool := false

/-- R51 and R60 for RM; `anyFp` is whether some type of the instruction is no integer type. -/
def rmOk (u : RmUse) (anyFp : Bool) (rm : RMode) : Bool :=
  match u with
  | .zero => rm == .rne
  | .fp => anyFp || rm == .rne
  | .any => true

def VCtl.okFor (k : VCtl) (r : VRow) (dst : EType) (anyFp : Bool) : Bool :=
  r.accepts k.et && rmOk r.rm anyFp k.rm && (!k.sat || r.sat) &&
    (!k.sr || (r.sr && k.rm == .rne && dst.srDst)) && (k.hld &&& ~~~r.hold == 0) &&
    (!r.noQ || k.q == 0)

/-- The usual row: destination and source type are ET. -/
def VCtl.ok (k : VCtl) (r : VRow) : Bool := k.okFor r k.et (!k.et.isInt)

def VMemCtl.ok (k : VMemCtl) (accepts : EType → Bool) (hold : BitVec 3) : Bool :=
  accepts k.et && (k.hld &&& ~~~hold == 0)

def allTypes : EType → Bool := fun _ => true

/-- OPC 0x24 with sources A, AB or ABC (R158). -/
def arithRow (hold : BitVec 3) : VRow :=
  { accepts := EType.arith, rm := .fp, sat := true, sr := true, hold := hold }

/-- ET = 0, RM = 000, Q = 0 (OPC 0x27, `vmov`, `vsclset`, `vsclget`). -/
def plainRow (hold : BitVec 3) : VRow :=
  { accepts := fun t => t == .i4, hold := hold, noQ := true }

/-- The SFU rows (R170). -/
def sfuRow : VRow := { accepts := EType.fpa, hold := 1 }

/-- R165: an `s` destination for integer types and an `f` destination otherwise. -/
def ScalarDst.okFor (d : ScalarDst) (t : EType) : Bool :=
  match d with
  | .s _ => t.isInt
  | .f _ => !t.isInt

/-! ## Tile rows (R45, R62, R188 to R193) -/

/-- R189: INT16, INT32 and INT64 are types the products do not accept at all. -/
def tileType : EType → Bool
  | .i16 | .i32 | .i64 => false
  | _ => true

def TProd.wf (o : TProd) : Bool := tileType o.ta && tileType o.tb

/-- The combination table of R189. -/
def combo (ta tb : EType) (tz : TZ) : Bool :=
  match tz with
  | .int32 => (ta == .i8 && tb == .i8) || (ta == .i4 && tb == .i4)
  | .fp64 => ta == .fp64 && tb == .fp64
  | .fp32 =>
    ((ta == .e4m3 || ta == .e5m2) && (tb == .e4m3 || tb == .e5m2)) ||
    (ta == .ds8 && (tb == .e4m3 || tb == .e5m2 || tb == .i8 || tb == .bf16)) ||
    (ta == .e2m1 && tb == .e2m1) ||
    ((ta == .e2m3 || ta == .e3m2) && (tb == .e2m3 || tb == .e3m2)) ||
    (ta == .bf16 && tb == .bf16) || (ta == .fp16 && tb == .fp16) || (ta == .fp32 && tb == .fp32)

def TProd.combo (o : TProd) : Bool := Sys2Proof.combo o.ta o.tb o.tz

/-- R192: the register groups of the scales. -/
def TSacc.wf (o : TSacc) : Bool :=
  o.b.val % 4 == 0 && (if o.tz == .fp64 then o.c.val % 2 == 0 else o.c.val % 4 == 0)

def Epi.hasBias : Epi → Bool
  | .bias | .biasRelu => true
  | _ => false

def Epi.hasRelu : Epi → Bool
  | .relu | .biasRelu => true
  | _ => false

/-- R193. -/
def TEpi.wf (o : TEpi) : Bool :=
  (if o.epi.hasBias then o.b.val % 4 == 0 else o.b.val == 0) &&
    (!(o.ta.isInt && o.tz == .int32) || o.rm == .rne)

def TileOp.wf : TileOp → Bool
  | .tld _ | .tst _ | .tzero _ | .ttr _ | .zzero _ _ | .zst _ => true
  | .tmma o | .tmmo o | .tmrot o => o.wf
  | .tsacc o => o.wf
  | .tepi o => o.wf

/-- Check 7 of R67 for a tile instruction. -/
def TileOp.comboOk : TileOp → Bool
  | .tmma o | .tmmo o | .tmrot o => o.combo
  | _ => true

/-! ## System registers (R24) -/

/-- Registers whose every field is RO or reserved. -/
def SysReg.readOnly : SysReg → Bool
  | .cid | .stage | .clause | .gangpos | .gangshape | .ctx | .seqpos
  | .cntld | .cntst | .cntcp | .cnttl | .stcl | .stpk | .stfb
  | .xdone _ | .xnext _ | .mbox | .genno | .gstat | .wlstat | .ibcount => true
  | _ => false

/-- Registers whose `mtsr` has a row of its own. -/
def SysReg.ownMtsr : SysReg → Bool
  | .fpctl | .rngkey | .rngstep | .tshp _ | .wlshift | .wlbound | .trctl
  | .afault | .afpc | .afaddr | .sndstat | .ibctl => true
  | _ => false

/-- Registers that only kernel and debug level reach (R24, the K marks). -/
def SysReg.kernelOnly : SysReg → Bool
  | .status | .epc | .cause | .tval | .tvec | .kscratch | .ienable | .ipend | .ubase | .ulimit
  | .seqpos | .afault | .afpc | .afaddr | .gbase | .glen | .wlbound | .wlshift | .wlxint | .wlstall
  | .ibctl | .trctl => true
  | _ => false

/-! ## The instructions -/

/-- Checks 3 to 5 of R67 for the parts that the types leave open. -/
def Instr.wf : Instr → Bool
  | .yield n => decide (n ≤ 64)
  | .sext o | .zext o => decide (1 ≤ o.width) && decide (o.width ≤ 64)
  | .bext o | .bins o => decide (1 ≤ o.width) && decide (o.pos.val + o.width ≤ 64)
  | .ld o => loadFlags o.size o.u && o.m.wf
  | .st o => o.m.wf
  | .fld o | .fst o => o.m.wf
  | .lamoAdd o | .lamoAnd o | .lamoOr o | .lamoXor o | .lamoMin o | .lamoMax o | .lamoMinu o
  | .lamoMaxu o | .lamoSwp o | .lamoCas o => amoSize o.size
  -- vector memory (R154, R156)
  | .vld o | .vst o => o.k.ok allTypes 0
  | .vldB o | .vstB o => o.k.ok allTypes 0
  | .vlds o => o.k.ok EType.wide8 0
  | .vgather o | .vscatter o =>
    o.k.ok (fun t => t == .i32 || t == .i64 || t == .fp32 || t == .fp64) 2
  -- moves (R157)
  | .vmov o => o.k.ok (plainRow 1)
  | .vbcs o => o.k.ok { accepts := allTypes }
  | .vbcf o => o.k.ok { accepts := fun t => t.fpa || t.fp8, rm := .fp }
  | .vmvs o => o.k.ok { accepts := allTypes, hold := 1, noQ := true } && decide (o.e.val < o.k.et.count)
  | .vmvf o =>
    o.k.ok { accepts := fun t => t.fpa || t.fp8, hold := 1, noQ := true } &&
      decide (o.e.val < o.k.et.count)
  | .vsel o | .vpack o | .vunpack o => o.k.ok { accepts := allTypes, hold := 3 }
  | .vslide o => o.k.ok { accepts := allTypes, hold := 1 }
  | .vperm o => o.k.ok { accepts := EType.wide8, hold := 3 }
  -- arithmetic (R158)
  | .vadd o | .vsub o | .vmul o | .vdiv o | .vmin o | .vmax o => o.k.ok (arithRow 3)
  | .vmulh o => o.k.ok { arithRow 3 with accepts := EType.intw }
  | .vsqrt o => o.k.ok { arithRow 1 with accepts := EType.fpa }
  | .vabs o | .vneg o => o.k.ok (arithRow 1)
  | .vfma o | .vfms o | .vfnma o => o.k.ok (arithRow 7)
  | .vclamp o => o.k.ok { accepts := EType.arith, hold := 7 }
  | .vadds o | .vsubs o => o.k.ok { accepts := EType.intw, hold := 3 }
  -- bitwise (R161)
  | .vand o | .vor o | .vxor o => o.k.ok { accepts := allTypes, hold := 3 }
  | .vnot o => o.k.ok { accepts := allTypes, hold := 1 }
  | .vshl o | .vshr o | .vsra o => o.k.ok { accepts := EType.intAny, hold := 3 }
  | .vshli o | .vshri o | .vsrai o =>
    o.k.ok { accepts := EType.intAny, hold := 1 } && decide (o.n.val < o.k.et.width)
  | .vpopc o | .vclz o => o.k.ok { accepts := EType.intAny, hold := 1 }
  -- compares and masks (R162, R163)
  | .vceq o | .vcne o | .vclt o | .vcle o => o.k.ok { accepts := EType.arith, hold := 3 }
  | .vcun o => o.k.ok { accepts := EType.fpa, hold := 3 }
  | .qand o | .qor o | .qxor o => o.k.ok (plainRow 0)
  | .qnot o => o.k.ok (plainRow 0)
  | .qset o => o.k.ok (plainRow 0)
  | .qget o => o.k.ok (plainRow 0)
  | .qpopc o => o.k.ok { accepts := allTypes, noQ := true }
  -- conversion and reductions (R164, R165)
  | .vcvt o =>
    o.k.okFor { accepts := allTypes, rm := .fp, sat := true, sr := true, hold := 1 } o.dt
      (!(o.k.et.isInt && o.dt.isInt))
  | .vrsum o | .vrmax o | .vrmin o =>
    o.k.ok { accepts := EType.arith, rm := .fp, hold := 1 } && o.d.okFor o.k.et
  | .vdot o => o.k.ok { accepts := EType.arith, rm := .fp, hold := 3 } && o.d.okFor o.k.et
  -- block scales (R166 to R169)
  | .vsclset o => o.k.ok (plainRow 0)
  | .vsclget o => o.k.ok (plainRow 1)
  | .vrenorm o => o.k.ok { accepts := EType.blockType, rm := .any, hold := 1 }
  | .vdeq o =>
    o.k.ok { accepts := EType.blockType, rm := .any, hold := 1 } &&
      o.d.val % (o.k.et.count / 32) == 0
  | .vquant o =>
    o.k.ok { accepts := EType.blockType, rm := .any, sat := true, sr := true, hold := 1 } &&
      o.a.val % (o.k.et.count / 32) == 0
  -- special functions and random bits (R170, R174 to R176)
  | .vexp2 o | .vlog2 o | .vrcp o | .vrsqrt o | .vsin o | .vcos o | .vtanh o | .vsigm o
  | .verf o => o.k.ok sfuRow
  | .vrng o => o.k.ok { accepts := EType.intAny }
  | .vrngu o => o.k.ok { accepts := EType.fpa }
  | .vdrop o => o.k.ok { accepts := EType.fpa, hold := 1 }
  | .vloop o => decide (1 ≤ o.k) && decide (o.k ≤ 16)
  -- tile
  | .tmma o | .tmmo o | .tmrot o => o.wf
  | .tsacc o => o.wf
  | .tepi o => o.wf
  | .tfol _ op => op.wf && op.comboOk
  -- messages (R36, R64)
  | .amsg o => runOk o.b 4
  | .amsgl o => runOk o.b 8
  | .amsgp o => runOk o.b 4 && decide (1 ≤ o.len) && decide (o.len ≤ 4096)
  | .rst o => o.m.wf
  | .rstv o => o.m.wf
  | .rld o => loadFlags o.size o.u && o.m.wf
  | .ramo o => amoSize o.size && (!o.nr || (o.d == 0 && o.kind != .cas))
  -- engines (R65)
  | .cpush o | .cpushb o => runOk o.a 4
  | .cpfence mask => mask != 0
  | .wlpush o => runOk o.b 4
  | .sstl o => decide (1 ≤ o.len) && decide (o.len ≤ 256)
  -- system registers (R24, R67)
  | .mtsr r _ => !r.readOnly
  | _ => true

/-- Check 6 of R67: the instructions that user level may not execute (R24, R56 to R66). -/
def Instr.kernelOnly : Instr → Bool
  | .cpresume _ | .kret | .ptouch _ | .mint _ _ => true
  | .mfsr _ r => r.kernelOnly
  | .mtsr r _ => r.kernelOnly || r == .cycle || r == .instret
  | _ => false

/-- Check 7 of R67. -/
def Instr.comboOk : Instr → Bool
  | .tmma o | .tmmo o | .tmrot o => o.combo
  | _ => true

end Sys2Proof
end

