-- ==== Sys2Proof/Decode.lean ====
section
/-! DEFINITION. The instruction words (file 02): the fields of R34, the formats of R37 to R48, the
opcode map of R55 to R66 and the checks of R67, first as a decoder, then as an encoder from the same
tables. -/

namespace Sys2Proof

/-- Why bytes are no instruction: the check of R67 that fails. Each of these raises `ILLEGAL`. -/
inductive DecodeError where
  /-- LEN = 00, or too few bytes. -/
  | length
  /-- Check 1: OPC is not allocated. -/
  | opcode
  /-- Check 2: FN is not allocated, or the length is not one of the row's. -/
  | function
  /-- Check 3: a register index or a run. -/
  | register
  /-- Check 4: a code or a limit of the row. -/
  | code
  /-- Check 5: a field that the row leaves unused is not zero. -/
  | unused
deriving DecidableEq, Repr

/-- The fields of R34 as numbers: the length in bytes, OPC, FN, D, A and B, then bits [63:34] and the
bits from 64 up. -/
structure Raw where
  len : Nat
  opc : Nat
  fn : Nat
  d : Nat
  a : Nat
  b : Nat
  hi : Nat
  ext : Nat
deriving DecidableEq, Repr

/-- Bits [lo + n − 1 : lo] of a number. -/
def fieldOf (x lo n : Nat) : Nat := x / 2 ^ lo % 2 ^ n

/-- The length that LEN gives, in bytes (R34); 0 for LEN = 00. -/
def lenBytes (len : Nat) : Nat :=
  match len with
  | 1 => 8
  | 2 => 12
  | 3 => 16
  | _ => 0

/-- The fields of a word whose bits beyond the instruction's length are dropped (R33, R34). -/
def Raw.ofWord (w : Nat) : Raw where
  len := lenBytes (fieldOf w 0 2)
  opc := fieldOf w 2 8
  fn := fieldOf w 10 6
  d := fieldOf w 16 6
  a := fieldOf w 22 6
  b := fieldOf w 28 6
  hi := fieldOf w 34 30
  ext := fieldOf w 64 (8 * lenBytes (fieldOf w 0 2) - 64)

/-- The word of the fields. -/
def Raw.toWord (r : Raw) : Nat :=
  (r.len / 4 - 1) + r.opc * 2 ^ 2 + r.fn * 2 ^ 10 + r.d * 2 ^ 16 + r.a * 2 ^ 22 + r.b * 2 ^ 28 +
    r.hi * 2 ^ 34 + r.ext * 2 ^ 64

/-! ## Codes -/

abbrev Dec := Except DecodeError

def regS (n : Nat) : SReg := Fin.ofNat 64 n

def regF (n : Nat) : Dec FReg :=
  if h : n < 32 then .ok ⟨n, h⟩ else .error .register

def regV (n : Nat) : Dec VReg :=
  if h : n < 48 then .ok ⟨n, h⟩ else .error .register

def regQ (n : Nat) : Dec QReg :=
  if h : n < 8 then .ok ⟨n, h⟩ else .error .register

def regT (n : Nat) : Dec TReg :=
  if h : n < 8 then .ok ⟨n, h⟩ else .error .register

def regZ (n : Nat) : Dec ZReg :=
  if h : n < 4 then .ok ⟨n, h⟩ else .error .register

/-- A code field with `k` legal values. -/
def codeN (k : Nat) (n : Nat) : Dec (Fin k) :=
  if h : n < k then .ok ⟨n, h⟩ else .error .code

/-- R50. -/
def etOf : Nat → Dec EType
  | 0 => .ok .i4 | 1 => .ok .i8 | 2 => .ok .i16 | 3 => .ok .i32 | 4 => .ok .i64
  | 5 => .ok .e2m1 | 6 => .ok .e2m3 | 7 => .ok .e3m2 | 8 => .ok .e4m3 | 9 => .ok .e5m2
  | 10 => .ok .ds8 | 11 => .ok .bf16 | 12 => .ok .fp16 | 13 => .ok .fp32 | 14 => .ok .fp64
  | _ => .error .code

/-- R51. -/
def rmOf : Nat → Dec RMode
  | 0 => .ok .rne | 1 => .ok .rtz | 2 => .ok .rdn | 3 => .ok .rup | 4 => .ok .rmm | 7 => .ok .dyn
  | _ => .error .code

def RMode.code : RMode → Nat
  | .rne => 0 | .rtz => 1 | .rdn => 2 | .rup => 3 | .rmm => 4 | .dyn => 7

/-- R52, codes 0 to 3. -/
def sizeOf4 : Nat → Dec Size
  | 0 => .ok .b1 | 1 => .ok .b2 | 2 => .ok .b4 | 3 => .ok .b8
  | _ => .error .code

def Size.code : Size → Nat
  | .b1 => 0 | .b2 => 1 | .b4 => 2 | .b8 => 3

/-- R53. -/
def waitOf : Nat → WaitSel
  | 0 => .none | 1 => .st | 2 => .cp
  | _ => .all

def WaitSel.code : WaitSel → Nat
  | .none => 0 | .st => 1 | .cp => 2 | .all => 3

/-- TZ (R45). -/
def tzOf : Nat → Dec TZ
  | 0 => .ok .fp32 | 1 => .ok .fp64 | 2 => .ok .int32
  | _ => .error .code

def TZ.code : TZ → Nat
  | .fp32 => 0 | .fp64 => 1 | .int32 => 2

/-- R54. -/
def epiOf : Nat → Dec Epi
  | 0 => .ok .cvt | 1 => .ok .relu | 2 => .ok .bias | 3 => .ok .biasRelu
  | _ => .error .code

def Epi.code : Epi → Nat
  | .cvt => 0 | .relu => 1 | .bias => 2 | .biasRelu => 3

/-- The operations of `lamo` and `ramo` (R57). -/
def amoOf : Nat → Dec AmoKind
  | 0 => .ok .add | 1 => .ok .and | 2 => .ok .or | 3 => .ok .xor | 4 => .ok .min | 5 => .ok .max
  | 6 => .ok .minu | 7 => .ok .maxu | 8 => .ok .swp | 9 => .ok .cas
  | _ => .error .function

def AmoKind.code : AmoKind → Nat
  | .add => 0 | .and => 1 | .or => 2 | .xor => 3 | .min => 4 | .max => 5
  | .minu => 6 | .maxu => 7 | .swp => 8 | .cas => 9

def bit (b : Bool) : Nat := if b then 1 else 0

/-- The system registers by number (R24). -/
def sysRegOf (n : Nat) : Dec SysReg :=
  match n with
  | 0x000 => .ok .status | 0x001 => .ok .epc | 0x002 => .ok .cause | 0x003 => .ok .tval
  | 0x004 => .ok .tvec | 0x005 => .ok .kscratch | 0x006 => .ok .ienable | 0x007 => .ok .ipend
  | 0x008 => .ok .ubase | 0x009 => .ok .ulimit | 0x010 => .ok .fpctl | 0x011 => .ok .fpflags
  | 0x020 => .ok .cid | 0x021 => .ok .stage | 0x022 => .ok .clause | 0x023 => .ok .gangpos
  | 0x024 => .ok .gangshape | 0x025 => .ok .ctx | 0x026 => .ok .seqpos
  | 0x030 => .ok .cycle | 0x031 => .ok .instret
  | 0x040 => .ok .cntld | 0x041 => .ok .cntst | 0x042 => .ok .cntcp | 0x043 => .ok .cnttl
  | 0x044 => .ok .stcl | 0x045 => .ok .stpk | 0x046 => .ok .stfb
  | 0x048 => .ok .afault | 0x049 => .ok .afpc | 0x04A => .ok .afaddr
  | 0x050 => .ok (.xdone 0) | 0x051 => .ok (.xdone 1) | 0x052 => .ok (.xdone 2)
  | 0x053 => .ok (.xdone 3) | 0x054 => .ok (.xnext 0) | 0x055 => .ok (.xnext 1)
  | 0x056 => .ok (.xnext 2) | 0x057 => .ok (.xnext 3) | 0x058 => .ok .mbox
  | 0x060 => .ok .rngkey | 0x061 => .ok .rngstep
  | 0x070 => .ok (.tshp 0) | 0x071 => .ok (.tshp 1) | 0x072 => .ok (.tshp 2)
  | 0x073 => .ok (.tshp 3) | 0x074 => .ok (.tshp 4) | 0x075 => .ok (.tshp 5)
  | 0x076 => .ok (.tshp 6) | 0x077 => .ok (.tshp 7)
  | 0x090 => .ok .fit | 0x091 => .ok .gbase | 0x092 => .ok .glen | 0x093 => .ok .genno
  | 0x094 => .ok .gstat
  | 0x0A0 => .ok .wlbound | 0x0A1 => .ok .wlshift | 0x0A2 => .ok .wlstat | 0x0A3 => .ok .wlxint
  | 0x0A4 => .ok .wlstall | 0x0B0 => .ok .sndstat | 0x0C0 => .ok .ibctl | 0x0C1 => .ok .ibcount
  | 0x0D0 => .ok .trctl
  | _ => .error .code

def SysReg.number : SysReg → Nat
  | .status => 0x000 | .epc => 0x001 | .cause => 0x002 | .tval => 0x003 | .tvec => 0x004
  | .kscratch => 0x005 | .ienable => 0x006 | .ipend => 0x007 | .ubase => 0x008 | .ulimit => 0x009
  | .fpctl => 0x010 | .fpflags => 0x011 | .cid => 0x020 | .stage => 0x021 | .clause => 0x022
  | .gangpos => 0x023 | .gangshape => 0x024 | .ctx => 0x025 | .seqpos => 0x026
  | .cycle => 0x030 | .instret => 0x031 | .cntld => 0x040 | .cntst => 0x041 | .cntcp => 0x042
  | .cnttl => 0x043 | .stcl => 0x044 | .stpk => 0x045 | .stfb => 0x046 | .afault => 0x048
  | .afpc => 0x049 | .afaddr => 0x04A | .xdone ch => 0x050 + ch.val | .xnext ch => 0x054 + ch.val
  | .mbox => 0x058 | .rngkey => 0x060 | .rngstep => 0x061 | .tshp t => 0x070 + t.val
  | .fit => 0x090 | .gbase => 0x091 | .glen => 0x092 | .genno => 0x093 | .gstat => 0x094
  | .wlbound => 0x0A0 | .wlshift => 0x0A1 | .wlstat => 0x0A2 | .wlxint => 0x0A3 | .wlstall => 0x0A4
  | .sndstat => 0x0B0 | .ibctl => 0x0C0 | .ibcount => 0x0C1 | .trctl => 0x0D0

/-! ## Operand groups from the fields, by format -/

/-- R format: C, W and IMM23 (R37, R38). -/
def Raw.c (r : Raw) : Nat := fieldOf r.hi 0 6
def Raw.wBit (r : Raw) : Bool := fieldOf r.hi 6 1 == 1

def Raw.alu (r : Raw) : AluOp := ⟨regS r.d, regS r.a, regS r.b, r.wBit⟩
def Raw.cmp (r : Raw) : CmpOp := ⟨regS r.d, regS r.a, regS r.b⟩
def Raw.imm30 (r : Raw) : Imm30Op := ⟨regS r.d, regS r.a, BitVec.ofNat 30 r.hi⟩
def Raw.val62 (r : Raw) : BitVec 62 := BitVec.ofNat 62 (r.ext * 2 ^ 30 + r.hi)
def Raw.imm62 (r : Raw) : Imm62Op := ⟨regS r.d, regS r.a, r.val62⟩
def Raw.shift (r : Raw) : ShiftOp := ⟨regS r.d, regS r.a, Fin.ofNat 64 r.b⟩
def Raw.un (r : Raw) : UnOp := ⟨regS r.d, regS r.a⟩

/-- M format (R40). -/
def Raw.mem (r : Raw) : MemArg :=
  ⟨regS r.a, regS r.b, fieldOf r.hi 4 1 == 1, BitVec.ofNat 22 (fieldOf r.hi 8 22),
    waitOf (fieldOf r.hi 5 2)⟩
def Raw.sz (r : Raw) : Nat := fieldOf r.hi 0 3
def Raw.uBit (r : Raw) : Bool := fieldOf r.hi 3 1 == 1
def Raw.oBitM (r : Raw) : Bool := fieldOf r.hi 7 1 == 1

def Raw.lamo (r : Raw) : Dec LamoOp := do
  let size ← sizeOf4 r.sz
  return ⟨regS r.d, regS r.a, regS r.b, size, r.mem.off, r.mem.wt⟩

def Raw.br (r : Raw) : BrOp := ⟨regS r.a, regS r.b, BitVec.ofNat 30 r.hi⟩

/-- F format (R43). -/
def Raw.rmF (r : Raw) : Dec RMode := rmOf (fieldOf r.hi 6 3)
def Raw.wF (r : Raw) : Bool := fieldOf r.hi 9 1 == 1

def Raw.f2 (r : Raw) : Dec FOp2 := do
  return ⟨← regF r.d, ← regF r.a, r.wF, ← r.rmF⟩
def Raw.f3 (r : Raw) : Dec FOp3 := do
  return ⟨← regF r.d, ← regF r.a, ← regF r.b, r.wF, ← r.rmF⟩
def Raw.f4 (r : Raw) : Dec FOp4 := do
  return ⟨← regF r.d, ← regF r.a, ← regF r.b, ← regF r.c, r.wF, ← r.rmF⟩
def Raw.fbit (r : Raw) : Dec FBit3 := do
  return ⟨← regF r.d, ← regF r.a, ← regF r.b⟩
def Raw.fcmp (r : Raw) : Dec FCmpOp := do
  return ⟨regS r.d, ← regF r.a, ← regF r.b⟩
def Raw.ftoi (r : Raw) : Dec FToInt := do
  return ⟨regS r.d, ← regF r.a, ← r.rmF⟩
def Raw.itof (r : Raw) : Dec IntToF := do
  return ⟨← regF r.d, regS r.a, r.wF, ← r.rmF⟩

/-- V format (R44). -/
def Raw.vctl (r : Raw) : Dec VCtl := do
  return ⟨← etOf (fieldOf r.hi 12 4), Fin.ofNat 8 (fieldOf r.hi 6 3), BitVec.ofNat 3 (fieldOf r.hi 9 3),
    ← rmOf (fieldOf r.hi 16 3), fieldOf r.hi 19 1 == 1, fieldOf r.hi 20 1 == 1⟩
def Raw.vmctl (r : Raw) : Dec VMemCtl := do
  return ⟨← etOf (fieldOf r.hi 12 4), Fin.ofNat 8 (fieldOf r.hi 6 3), BitVec.ofNat 3 (fieldOf r.hi 9 3),
    waitOf (fieldOf r.hi 16 2)⟩

def Raw.vv (r : Raw) : Dec VV := do return ⟨← regV r.d, ← regV r.a, ← r.vctl⟩
def Raw.vvv (r : Raw) : Dec VVV := do return ⟨← regV r.d, ← regV r.a, ← regV r.b, ← r.vctl⟩
def Raw.vvvv (r : Raw) : Dec VVVV := do
  return ⟨← regV r.d, ← regV r.a, ← regV r.b, ← regV r.c, ← r.vctl⟩
def Raw.vvn (r : Raw) : Dec VVn := do
  return ⟨← regV r.d, ← regV r.a, Fin.ofNat 64 r.b, ← r.vctl⟩
def Raw.qvv (r : Raw) : Dec QVV := do return ⟨← regQ r.d, ← regV r.a, ← regV r.b, ← r.vctl⟩
def Raw.qqq (r : Raw) : Dec QQQ := do return ⟨← regQ r.d, ← regQ r.a, ← regQ r.b, ← r.vctl⟩
def Raw.vslot (r : Raw) : Dec VSlotOp := do return ⟨← regV r.d, ← codeN 4 r.a, ← r.vmctl⟩
def Raw.vbase (r : Raw) : Dec VBaseOp := do return ⟨← regV r.d, regS r.a, regS r.b, ← r.vmctl⟩
def Raw.vidx (r : Raw) : Dec VIdxOp := do return ⟨← regV r.d, regS r.a, ← regV r.b, ← r.vmctl⟩
def Raw.vrng (r : Raw) : Dec VRngOp := do return ⟨← regV r.d, ← codeN 5 r.a, ← r.vctl⟩

/-- A reduction's destination: the file follows ET (R165). -/
def scalarDst (et : EType) (n : Nat) : Dec ScalarDst :=
  if et.isInt then .ok (.s (regS n)) else (regF n).map .f

def Raw.vred (r : Raw) : Dec VRed := do
  let k ← r.vctl
  return ⟨← scalarDst k.et r.d, ← regV r.a, k⟩

/-- T format (R45). -/
def Raw.tz (r : Raw) : Dec TZ := tzOf (fieldOf r.hi 8 2)
def Raw.tprod (r : Raw) : Dec TProd := do
  return ⟨← regZ r.d, ← regT r.a, ← regT r.b, ← etOf (fieldOf r.hi 0 4), ← etOf (fieldOf r.hi 4 4), ← r.tz⟩
def Raw.tepi (r : Raw) : Dec TEpi := do
  return ⟨← regZ r.d, regS r.a, ← regV r.b, ← etOf (fieldOf r.hi 0 4), ← r.tz, ← epiOf (fieldOf r.hi 11 3),
    ← rmOf (fieldOf r.hi 14 3), fieldOf r.hi 17 1 == 1⟩

/-- X format (R46). -/
def Raw.e (r : Raw) : Nat := fieldOf r.hi 6 6
def Raw.wtX (r : Raw) : WaitSel := waitOf (fieldOf r.hi 12 2)
def Raw.oX (r : Raw) : Bool := fieldOf r.hi 14 1 == 1
def Raw.msg (r : Raw) : MsgOp := ⟨regS r.d, regS r.a, regS r.b, r.wtX, r.oX⟩
def Raw.cpush (r : Raw) : Dec CpushOp := do
  return ⟨regS r.d, regS r.a, ← codeN 4 r.e, r.wtX⟩

/-! ## The opcode map, row by row (R56 to R66) -/

def need64 (r : Raw) (i : Dec Instr) : Dec Instr := if r.len == 8 then i else .error .function

/-- OPC 0x01. -/
def build01 (r : Raw) : Dec Instr :=
  match r.fn with
  | 0x0 => .ok (.add r.alu) | 0x1 => .ok (.sub r.alu) | 0x2 => .ok (.and r.alu)
  | 0x3 => .ok (.or r.alu) | 0x4 => .ok (.xor r.alu) | 0x5 => .ok (.andn r.alu)
  | 0x6 => .ok (.orn r.alu) | 0x7 => .ok (.shl r.alu) | 0x8 => .ok (.shr r.alu)
  | 0x9 => .ok (.sra r.alu) | 0xA => .ok (.rol r.alu) | 0xB => .ok (.ror r.alu)
  | 0xC => .ok (.min r.alu) | 0xD => .ok (.max r.alu) | 0xE => .ok (.minu r.alu)
  | 0xF => .ok (.maxu r.alu)
  | 0x10 => .ok (.seq r.cmp) | 0x11 => .ok (.sne r.cmp) | 0x12 => .ok (.slt r.cmp)
  | 0x13 => .ok (.sltu r.cmp) | 0x14 => .ok (.sle r.cmp) | 0x15 => .ok (.sleu r.cmp)
  | 0x16 => .ok (.csel ⟨regS r.d, regS r.a, regS r.b, regS r.c⟩)
  | _ => .error .function

/-- OPC 0x02. -/
def build02 (r : Raw) : Dec Instr :=
  match r.fn, r.len with
  | 0x0, 8 => .ok (.addi64 r.imm30) | 0x0, 12 => .ok (.addi96 r.imm62)
  | 0x2, 8 => .ok (.andi64 r.imm30) | 0x2, 12 => .ok (.andi96 r.imm62)
  | 0x3, 8 => .ok (.ori64 r.imm30) | 0x3, 12 => .ok (.ori96 r.imm62)
  | 0x4, 8 => .ok (.xori64 r.imm30) | 0x4, 12 => .ok (.xori96 r.imm62)
  | 0x7, 8 => .ok (.shli r.shift) | 0x8, 8 => .ok (.shri r.shift) | 0x9, 8 => .ok (.srai r.shift)
  | 0xA, 8 => .ok (.roli r.shift)
  | 0x10, 8 => .ok (.seqi r.imm30) | 0x12, 8 => .ok (.slti r.imm30) | 0x13, 8 => .ok (.sltui r.imm30)
  | 0x20, 8 => .ok (.li64 (regS r.d) (BitVec.ofNat 30 r.hi))
  | 0x20, 12 => .ok (.li96 (regS r.d) r.val62)
  | 0x20, 16 => .ok (.li128 (regS r.d) (BitVec.ofNat 64 r.ext))
  | _, _ => .error .function

/-- OPC 0x03. -/
def build03 (r : Raw) : Dec Instr :=
  match r.fn with
  | 0 => .ok (.mul r.alu) | 1 => .ok (.mulh r.cmp) | 2 => .ok (.mulhu r.cmp)
  | 3 => .ok (.mulhsu r.cmp) | 4 => .ok (.div r.alu) | 5 => .ok (.divu r.alu)
  | 6 => .ok (.rem r.alu) | 7 => .ok (.remu r.alu)
  | 8 => .ok (.madd ⟨regS r.d, regS r.a, regS r.b, regS r.c, r.wBit⟩)
  | _ => .error .function

/-- OPC 0x04. -/
def build04 (r : Raw) : Dec Instr :=
  match r.fn with
  | 0 => .ok (.clz r.un) | 1 => .ok (.ctz r.un) | 2 => .ok (.popc r.un) | 3 => .ok (.brev r.un)
  | 4 => .ok (.bswap r.un)
  | 5 => .ok (.sext ⟨regS r.d, regS r.a, r.hi⟩) | 6 => .ok (.zext ⟨regS r.d, regS r.a, r.hi⟩)
  | 7 => .ok (.bext ⟨regS r.d, regS r.a, Fin.ofNat 64 r.b, r.hi⟩)
  | 8 => .ok (.bins ⟨regS r.d, regS r.a, Fin.ofNat 64 r.b, r.hi⟩)
  | _ => .error .function

/-- OPC 0x08, 0x09, 0x0A, 0x0B. -/
def buildMem (r : Raw) : Dec Instr :=
  match r.opc, r.fn with
  | 0x08, 0 => do return .ld ⟨regS r.d, ← sizeOf4 r.sz, r.uBit, r.mem⟩
  | 0x09, 0 => do return .st ⟨regS r.d, ← sizeOf4 r.sz, r.mem⟩
  | 0x0A, 0 => r.lamo.map .lamoAdd | 0x0A, 1 => r.lamo.map .lamoAnd | 0x0A, 2 => r.lamo.map .lamoOr
  | 0x0A, 3 => r.lamo.map .lamoXor | 0x0A, 4 => r.lamo.map .lamoMin | 0x0A, 5 => r.lamo.map .lamoMax
  | 0x0A, 6 => r.lamo.map .lamoMinu | 0x0A, 7 => r.lamo.map .lamoMaxu
  | 0x0A, 8 => r.lamo.map .lamoSwp | 0x0A, 9 => r.lamo.map .lamoCas
  | 0x0B, 0 => if r.sz == 3 then do return .fld ⟨← regF r.d, r.mem⟩ else .error .code
  | 0x0B, 1 => if r.sz == 3 then do return .fst ⟨← regF r.d, r.mem⟩ else .error .code
  | _, _ => .error .function

/-- OPC 0x10. -/
def build10 (r : Raw) : Dec Instr :=
  match r.fn with
  | 0 => .ok (.beq r.br) | 1 => .ok (.bne r.br) | 2 => .ok (.blt r.br) | 3 => .ok (.bge r.br)
  | 4 => .ok (.bltu r.br) | 5 => .ok (.bgeu r.br)
  | _ => .error .function

/-- OPC 0x12, 0x13, 0x14. -/
def buildCtl (r : Raw) : Dec Instr :=
  match r.opc, r.fn, r.len with
  | 0x12, 0, 8 => .ok (.jal64 (regS r.d) (BitVec.ofNat 30 r.hi))
  | 0x12, 0, 12 => .ok (.jalAbs (regS r.d) r.val62)
  | 0x13, 0, 8 => .ok (.jalr ⟨regS r.d, regS r.a, BitVec.ofNat 30 r.hi⟩)
  | 0x14, 0, 8 => .ok .nop64 | 0x14, 0, 12 => .ok .nop96 | 0x14, 0, 16 => .ok .nop128
  | 0x14, 1, 8 => .ok .isync | 0x14, 2, 8 => .ok .wfe | 0x14, 3, 8 => .ok (.yield r.hi)
  | 0x14, 4, 8 => .ok .serve | 0x14, 5, 8 => .ok .hret
  | _, _, _ => .error .function

/-- OPC 0x18. -/
def build18 (r : Raw) : Dec Instr :=
  match r.fn with
  | 0 => r.f3.map .fadd | 1 => r.f3.map .fsub | 2 => r.f3.map .fmul | 3 => r.f3.map .fdiv
  | 4 => r.f2.map .fsqrt
  | 5 => r.fbit.map .fmin | 6 => r.fbit.map .fmax | 7 => r.fbit.map .fminm | 8 => r.fbit.map .fmaxm
  | 9 => r.fbit.map .fsgnj | 0xA => r.fbit.map .fsgnjn | 0xB => r.fbit.map .fsgnjx
  | 0x10 => r.f4.map .fma | 0x11 => r.f4.map .fms | 0x12 => r.f4.map .fnma | 0x13 => r.f4.map .fnms
  | _ => .error .function

/-- OPC 0x19. -/
def build19 (r : Raw) : Dec Instr :=
  match r.fn with
  | 0 => r.fcmp.map .feq | 1 => r.fcmp.map .flt | 2 => r.fcmp.map .fle | 3 => r.fcmp.map .funord
  | 4 => do return .fclass (regS r.d) (← regF r.a)
  | 8 => r.ftoi.map .fcvtLD | 0xA => r.ftoi.map .fcvtLuD
  | 9 => r.itof.map .fcvtDL | 0xB => r.itof.map .fcvtDLu
  | 0xC => do return .fcvtSD ⟨← regF r.d, ← regF r.a, ← r.rmF⟩
  | 0xD => do return .fmvSF (regS r.d) (← regF r.a)
  | 0xE => do return .fmvFS (← regF r.d) (regS r.a)
  | 0xF => r.f2.map .fround
  | _ => .error .function

/-- OPC 0x20, 0x21, 0x22. -/
def buildVMem (r : Raw) : Dec Instr :=
  match r.opc, r.fn with
  | 0x20, 0 => r.vslot.map .vld | 0x20, 1 => r.vbase.map .vldB
  | 0x20, 2 => do return .vlds ⟨← regV r.d, regS r.a, ← r.vmctl⟩
  | 0x21, 0 => r.vslot.map .vst | 0x21, 1 => r.vbase.map .vstB
  | 0x22, 0 => r.vidx.map .vgather | 0x22, 1 => r.vidx.map .vscatter
  | _, _ => .error .function

/-- OPC 0x23. -/
def build23 (r : Raw) : Dec Instr :=
  match r.fn with
  | 0 => r.vv.map .vmov
  | 1 => do return .vbcs ⟨← regV r.d, regS r.a, ← r.vctl⟩
  | 2 => do return .vbcf ⟨← regV r.d, ← regF r.a, ← r.vctl⟩
  | 3 => do return .vmvs ⟨regS r.d, ← regV r.a, ← codeN 128 (r.b + 64 * r.c), ← r.vctl⟩
  | 4 => do return .vmvf ⟨← regF r.d, ← regV r.a, Fin.ofNat 64 r.b, ← r.vctl⟩
  | 5 => r.vvv.map .vsel
  | 6 => do return .vslide ⟨← regV r.d, ← regV r.a, regS r.b, ← r.vctl⟩
  | 7 => r.vvv.map .vperm | 8 => r.vvv.map .vpack | 9 => r.vvv.map .vunpack
  | _ => .error .function

/-- OPC 0x24. -/
def build24 (r : Raw) : Dec Instr :=
  match r.fn with
  | 0 => r.vvv.map .vadd | 1 => r.vvv.map .vsub | 2 => r.vvv.map .vmul | 3 => r.vvv.map .vmulh
  | 4 => r.vvv.map .vdiv | 5 => r.vv.map .vsqrt | 6 => r.vvv.map .vmin | 7 => r.vvv.map .vmax
  | 8 => r.vv.map .vabs | 9 => r.vv.map .vneg
  | 0xA => r.vvvv.map .vfma | 0xB => r.vvvv.map .vfms | 0xC => r.vvvv.map .vfnma
  | 0xD => r.vvvv.map .vclamp | 0xE => r.vvv.map .vadds | 0xF => r.vvv.map .vsubs
  | _ => .error .function

/-- OPC 0x25. -/
def build25 (r : Raw) : Dec Instr :=
  match r.fn with
  | 0 => r.vvv.map .vand | 1 => r.vvv.map .vor | 2 => r.vvv.map .vxor | 3 => r.vv.map .vnot
  | 4 => r.vvv.map .vshl | 5 => r.vvv.map .vshr | 6 => r.vvv.map .vsra
  | 7 => r.vvn.map .vshli | 8 => r.vvn.map .vshri | 9 => r.vvn.map .vsrai
  | 0xA => r.vv.map .vpopc | 0xB => r.vv.map .vclz
  | _ => .error .function

/-- OPC 0x26, 0x27. -/
def buildMask (r : Raw) : Dec Instr :=
  match r.opc, r.fn with
  | 0x26, 0 => r.qvv.map .vceq | 0x26, 1 => r.qvv.map .vcne | 0x26, 2 => r.qvv.map .vclt
  | 0x26, 3 => r.qvv.map .vcle | 0x26, 4 => r.qvv.map .vcun
  | 0x27, 0 => r.qqq.map .qand | 0x27, 1 => r.qqq.map .qor | 0x27, 2 => r.qqq.map .qxor
  | 0x27, 3 => do return .qnot ⟨← regQ r.d, ← regQ r.a, ← r.vctl⟩
  | 0x27, 4 => do return .qset ⟨← regQ r.d, regS r.a, regS r.b, ← r.vctl⟩
  | 0x27, 5 => do return .qget ⟨regS r.d, ← regQ r.a, ← codeN 2 r.b, ← r.vctl⟩
  | 0x27, 6 => do return .qpopc ⟨regS r.d, ← regQ r.a, ← r.vctl⟩
  | _, _ => .error .function

/-- OPC 0x28, 0x29, 0x2A. -/
def buildConv (r : Raw) : Dec Instr :=
  match r.opc, r.fn with
  | 0x28, _ => do
    let dt ← (etOf r.fn).mapError fun _ => .function
    return .vcvt ⟨dt, ← regV r.d, ← regV r.a, ← r.vctl⟩
  | 0x29, 0 => r.vred.map .vrsum | 0x29, 1 => r.vred.map .vrmax | 0x29, 2 => r.vred.map .vrmin
  | 0x29, 3 => do
    let k ← r.vctl
    return .vdot ⟨← scalarDst k.et r.d, ← regV r.a, ← regV r.b, k⟩
  | 0x2A, 0 => do return .vsclset ⟨← regV r.d, regS r.a, ← codeN 4 r.b, ← r.vctl⟩
  | 0x2A, 1 => do return .vsclget ⟨regS r.d, ← regV r.a, ← codeN 4 r.b, ← r.vctl⟩
  | 0x2A, 2 => r.vv.map .vrenorm | 0x2A, 3 => r.vv.map .vdeq | 0x2A, 4 => r.vv.map .vquant
  | _, _ => .error .function

/-- OPC 0x2B. -/
def build2B (r : Raw) : Dec Instr :=
  match r.fn with
  | 0 => r.vv.map .vexp2 | 1 => r.vv.map .vlog2 | 2 => r.vv.map .vrcp | 3 => r.vv.map .vrsqrt
  | 4 => r.vv.map .vsin | 5 => r.vv.map .vcos | 6 => r.vv.map .vtanh | 7 => r.vv.map .vsigm
  | 8 => r.vv.map .verf
  | _ => .error .function

/-- OPC 0x2C, 0x2D. -/
def buildSeq (r : Raw) : Dec Instr :=
  match r.opc, r.fn with
  | 0x2C, 0 => r.vrng.map .vrng | 0x2C, 1 => r.vrng.map .vrngu
  | 0x2C, 2 => do return .vdrop ⟨← regV r.d, ← regV r.a, regS r.b, ← codeN 5 r.c, ← r.vctl⟩
  | 0x2D, 0 => do return .vsetsh (← codeN 4 r.d) (regS r.a)
  | 0x2D, 1 => .ok (.vloop ⟨r.d, regS r.a, BitVec.ofNat 30 r.hi⟩)
  | 0x2D, 2 => .ok .vsync
  | 0x2D, 3 => do return .vitr (regS r.d) (← codeN 4 r.a)
  | 0x2D, 4 => do return .vshget (regS r.d) (← codeN 4 r.a) (← codeN 8 r.b)
  | _, _ => .error .function

/-- OPC 0x40 to 0x44 as tile operations (R62). -/
def buildTileOp (r : Raw) : Dec TileOp :=
  match r.opc, r.fn with
  | 0x40, 0 => do return .tld ⟨← regT r.d, regS r.a⟩
  | 0x40, 1 => do return .tst ⟨← regT r.d, regS r.a⟩
  | 0x40, 2 => do return .tzero (← regT r.d)
  | 0x40, 3 => do return .ttr ⟨← regT r.d, ← regT r.a⟩
  | 0x40, 4 => do return .zzero (← regZ r.d) (← r.tz)
  | 0x40, 5 => do return .zst ⟨← regZ r.d, regS r.a, ← r.tz⟩
  | 0x41, 0 => if fieldOf r.hi 10 1 == 1 then r.tprod.map .tmmo else r.tprod.map .tmma
  | 0x42, 0 => do return .tsacc ⟨← regZ r.d, ← regZ r.a, ← regV r.b, ← regV r.c, ← r.tz⟩
  | 0x43, 0 => r.tepi.map .tepi
  | 0x44, 0 => r.tprod.map .tmrot
  | _, _ => .error .function

def Instr.ofTile : TileOp → Instr
  | .tld o => .tld o | .tst o => .tst o | .tzero d => .tzero d | .ttr o => .ttr o
  | .zzero d tz => .zzero d tz | .zst o => .zst o | .tmma o => .tmma o | .tmmo o => .tmmo o
  | .tsacc o => .tsacc o | .tepi o => .tepi o | .tmrot o => .tmrot o

/-- OPC 0x50 to 0x53. -/
def buildRemote (r : Raw) : Dec Instr :=
  match r.opc, r.fn, r.len with
  | 0x50, 0, 8 => .ok (.amsg r.msg) | 0x50, 1, 8 => .ok (.amsgl r.msg)
  | 0x50, 2, 12 => do
    return .amsgp ⟨regS r.d, regS r.a, regS r.b, regS r.c, fieldOf r.ext 0 13,
      ← codeN 4 (fieldOf r.ext 16 4), r.wtX, r.oX⟩
  | 0x51, 0, 8 => do return .rst ⟨regS r.d, ← sizeOf4 r.sz, r.mem, r.oBitM⟩
  | 0x51, 1, 8 =>
    if r.sz == 6 then do return .rstv ⟨← regV r.d, r.mem, r.oBitM⟩ else .error .code
  | 0x52, 0, 8 => do return .rld ⟨regS r.d, ← sizeOf4 r.sz, r.uBit, r.mem, r.oBitM⟩
  | 0x53, fn, 8 => do
    return .ramo ⟨← amoOf (fn % 16), fieldOf fn 4 1 == 1, regS r.d, regS r.a, regS r.b, ← sizeOf4 r.sz,
      r.mem.off, r.mem.wt, r.oBitM⟩
  | _, _, _ => .error .function

/-- OPC 0x54 to 0x57. -/
def buildSync (r : Raw) : Dec Instr :=
  match r.opc, r.fn with
  | 0x54, 0 => .ok (.wait ⟨regS r.d, regS r.a, regS r.b, regS r.c⟩)
  | 0x55, 0 => .ok .fenceCore | 0x55, 1 => .ok .fenceCluster | 0x55, 2 => .ok .fenceDie
  | 0x55, 3 => .ok .fencePackage | 0x55, 4 => .ok .fenceFabric
  | 0x56, 0 => do return .barGang (← codeN 64 r.hi)
  | 0x56, 1 => do return .barCluster (← codeN 64 r.hi)
  | 0x56, 3 => do return .barPackage (← codeN 256 r.hi)
  | 0x56, 4 => do return .barFabric (← codeN 64 r.hi)
  | 0x57, 0 => .ok (.bfree (regS r.a)) | 0x57, 1 => .ok (.mbwait (regS r.a))
  | _, _ => .error .function

/-- OPC 0x60 to 0x63, 0x68, 0x70, 0x78. -/
def buildEngine (r : Raw) : Dec Instr :=
  match r.opc, r.fn, r.len with
  | 0x60, 0, 8 => r.cpush.map .cpush | 0x60, 1, 8 => r.cpush.map .cpushb
  | 0x61, 0, 8 => do return .cpwait (regS r.a) (← codeN 4 r.e)
  | 0x62, 0, 8 => do return .cpfence (BitVec.ofNat 4 (← codeN 16 r.e).val)
  | 0x63, 0, 8 => do return .cpresume (← codeN 4 r.e)
  | 0x68, 0, 8 => .ok (.wlpush ⟨regS r.a, regS r.b, regS r.c, r.wtX⟩)
  | 0x68, 2, 8 => .ok .wlwait
  | 0x70, 0, 8 => do return .sst ⟨regS r.d, regS r.a, regS r.b, ← sizeOf4 r.e, r.wtX⟩
  | 0x70, 1, 8 => do return .sstv ⟨← regV r.d, regS r.a, regS r.b, r.wtX⟩
  | 0x70, 2, 12 => .ok (.sstl ⟨regS r.d, regS r.a, regS r.b, fieldOf r.ext 0 9, r.wtX⟩)
  | 0x70, 3, 8 => .ok (.sndseq (regS r.d) (regS r.a))
  | 0x70, 4, 8 => .ok (.sndwait (regS r.a) (regS r.b))
  | 0x78, 0, 8 => .ok (.gend (regS r.d))
  | _, _, _ => .error .function

/-- OPC 0x80, 0x81, 0x82. -/
def buildSys (r : Raw) : Dec Instr :=
  match r.opc, r.fn with
  | 0x80, 0 => do return .mfsr (regS r.d) (← sysRegOf (fieldOf r.hi 0 12))
  | 0x81, 0 => do return .mtsr (← sysRegOf (fieldOf r.hi 0 12)) (regS r.a)
  | 0x82, 0 => if r.hi < 2 ^ 29 then .ok (.scall (BitVec.ofNat 29 r.hi)) else .error .code
  | 0x82, 1 => if r.hi < 2 ^ 29 then .ok (.brk (BitVec.ofNat 29 r.hi)) else .error .code
  | 0x82, 2 => .ok .kret
  | 0x82, 3 => do return .exit (regS r.a) (← codeN 5 r.hi)
  | 0x82, 4 => .ok (.ptouch (regS r.a))
  | 0x82, 5 => do return .mint (regS r.a) (← codeN 6 (r.hi - 0x80))
  | _, _ => .error .function

/-! ## The encoder -/

def packM (m : MemArg) (sz : Nat) (u : Bool) (o : Bool) : Nat :=
  sz + bit u * 2 ^ 3 + bit m.x * 2 ^ 4 + m.wt.code * 2 ^ 5 + bit o * 2 ^ 7 + m.off.toNat * 2 ^ 8

def packF (c : Nat) (rm : RMode) (w : Bool) : Nat := c + rm.code * 2 ^ 6 + bit w * 2 ^ 9

def packV (c : Nat) (k : VCtl) : Nat :=
  c + k.q.val * 2 ^ 6 + k.hld.toNat * 2 ^ 9 + k.et.code * 2 ^ 12 + k.rm.code * 2 ^ 16 +
    bit k.sat * 2 ^ 19 + bit k.sr * 2 ^ 20

def packVM (k : VMemCtl) : Nat :=
  k.q.val * 2 ^ 6 + k.hld.toNat * 2 ^ 9 + k.et.code * 2 ^ 12 + k.wt.code * 2 ^ 16

def packX (c e : Nat) (wt : WaitSel) (o : Bool) : Nat :=
  c + e * 2 ^ 6 + wt.code * 2 ^ 12 + bit o * 2 ^ 14

def rawI (fn opc d a b hi : Nat) : Raw := ⟨8, opc, fn, d, a, b, hi, 0⟩

def rawAlu (opc fn : Nat) (o : AluOp) : Raw := rawI fn opc o.d o.a o.b (bit o.w * 2 ^ 6)
def rawCmp (opc fn : Nat) (o : CmpOp) : Raw := rawI fn opc o.d o.a o.b 0
def rawImm30 (fn : Nat) (o : Imm30Op) : Raw := rawI fn 0x02 o.d o.a 0 o.imm.toNat
def rawImm62 (fn : Nat) (o : Imm62Op) : Raw :=
  ⟨12, 0x02, fn, o.d, o.a, 0, o.imm.toNat % 2 ^ 30, o.imm.toNat / 2 ^ 30⟩
def rawShift (fn : Nat) (o : ShiftOp) : Raw := rawI fn 0x02 o.d o.a o.n 0
def rawUn (fn : Nat) (o : UnOp) : Raw := rawI fn 0x04 o.d o.a 0 0
def rawLamo (fn : Nat) (o : LamoOp) : Raw :=
  rawI fn 0x0A o.d o.a o.b (packM ⟨o.a, o.b, false, o.off, o.wt⟩ o.size.code false false)
def rawMem (opc fn d sz : Nat) (u : Bool) (m : MemArg) (o : Bool) : Raw :=
  rawI fn opc d m.a m.b (packM m sz u o)
def rawBr (fn : Nat) (o : BrOp) : Raw := rawI fn 0x10 0 o.a o.b o.off.toNat
def rawF3 (fn : Nat) (o : FOp3) : Raw := rawI fn 0x18 o.d o.a o.b (packF 0 o.rm o.w)
def rawF4 (fn : Nat) (o : FOp4) : Raw := rawI fn 0x18 o.d o.a o.b (packF o.c o.rm o.w)
def rawFBit (fn : Nat) (o : FBit3) : Raw := rawI fn 0x18 o.d o.a o.b 0
def rawFCmp (fn : Nat) (o : FCmpOp) : Raw := rawI fn 0x19 o.d o.a o.b 0
def rawVV (opc fn : Nat) (o : VV) : Raw := rawI fn opc o.d o.a 0 (packV 0 o.k)
def rawVVV (opc fn : Nat) (o : VVV) : Raw := rawI fn opc o.d o.a o.b (packV 0 o.k)
def rawVVVV (opc fn : Nat) (o : VVVV) : Raw := rawI fn opc o.d o.a o.b (packV o.c o.k)
def rawVVn (opc fn : Nat) (o : VVn) : Raw := rawI fn opc o.d o.a o.n (packV 0 o.k)
def rawQVV (fn : Nat) (o : QVV) : Raw := rawI fn 0x26 o.d o.a o.b (packV 0 o.k)
def rawQQQ (fn : Nat) (o : QQQ) : Raw := rawI fn 0x27 o.d o.a o.b (packV 0 o.k)

def ScalarDst.index : ScalarDst → Nat
  | .s r => r.val
  | .f r => r.val

def rawTProd (opc ow : Nat) (o : TProd) : Raw :=
  rawI 0 opc o.d o.a o.b (o.ta.code + o.tb.code * 2 ^ 4 + o.tz.code * 2 ^ 8 + ow * 2 ^ 10)

def TileOp.raw : TileOp → Raw
  | .tld o => rawI 0 0x40 o.d o.a 0 0
  | .tst o => rawI 1 0x40 o.d o.a 0 0
  | .tzero d => rawI 2 0x40 d 0 0 0
  | .ttr o => rawI 3 0x40 o.d o.a 0 0
  | .zzero d tz => rawI 4 0x40 d 0 0 (tz.code * 2 ^ 8)
  | .zst o => rawI 5 0x40 o.d o.a 0 (o.tz.code * 2 ^ 8)
  | .tmma o => rawTProd 0x41 0 o
  | .tmmo o => rawTProd 0x41 1 o
  | .tsacc o => rawI 0 0x42 o.d o.a o.b (o.c.val + o.tz.code * 2 ^ 8)
  | .tepi o => rawI 0 0x43 o.d o.a o.b
      (o.ta.code + o.tz.code * 2 ^ 8 + o.epi.code * 2 ^ 11 + o.rm.code * 2 ^ 14 + bit o.sat * 2 ^ 17)
  | .tmrot o => rawTProd 0x44 0 o

def rawMsg (fn : Nat) (o : MsgOp) : Raw := rawI fn 0x50 o.d o.a o.b (packX 0 0 o.wt o.o)
def rawMfsr (d : SReg) (g : SysReg) : Raw := rawI 0 0x80 d 0 0 g.number
def rawMtsr (g : SysReg) (a : SReg) : Raw := rawI 0 0x81 0 a 0 g.number

/-- The fields of an instruction, or none for a step of another agent. -/
def encodeRaw : Instr → Option Raw
  | .add o => rawAlu 1 0 o | .sub o => rawAlu 1 1 o | .and o => rawAlu 1 2 o | .or o => rawAlu 1 3 o
  | .xor o => rawAlu 1 4 o | .andn o => rawAlu 1 5 o | .orn o => rawAlu 1 6 o
  | .shl o => rawAlu 1 7 o | .shr o => rawAlu 1 8 o | .sra o => rawAlu 1 9 o
  | .rol o => rawAlu 1 0xA o | .ror o => rawAlu 1 0xB o | .min o => rawAlu 1 0xC o
  | .max o => rawAlu 1 0xD o | .minu o => rawAlu 1 0xE o | .maxu o => rawAlu 1 0xF o
  | .seq o => rawCmp 1 0x10 o | .sne o => rawCmp 1 0x11 o | .slt o => rawCmp 1 0x12 o
  | .sltu o => rawCmp 1 0x13 o | .sle o => rawCmp 1 0x14 o | .sleu o => rawCmp 1 0x15 o
  | .csel o => rawI 0x16 1 o.d o.a o.b o.c
  | .addi64 o => rawImm30 0 o | .addi96 o => rawImm62 0 o | .andi64 o => rawImm30 2 o
  | .andi96 o => rawImm62 2 o | .ori64 o => rawImm30 3 o | .ori96 o => rawImm62 3 o
  | .xori64 o => rawImm30 4 o | .xori96 o => rawImm62 4 o
  | .shli o => rawShift 7 o | .shri o => rawShift 8 o | .srai o => rawShift 9 o
  | .roli o => rawShift 0xA o
  | .seqi o => rawImm30 0x10 o | .slti o => rawImm30 0x12 o | .sltui o => rawImm30 0x13 o
  | .li64 d imm => rawI 0x20 2 d 0 0 imm.toNat
  | .li96 d imm => some ⟨12, 2, 0x20, d, 0, 0, imm.toNat % 2 ^ 30, imm.toNat / 2 ^ 30⟩
  | .li128 d imm => some ⟨16, 2, 0x20, d, 0, 0, 0, imm.toNat⟩
  | .mul o => rawAlu 3 0 o | .mulh o => rawCmp 3 1 o | .mulhu o => rawCmp 3 2 o
  | .mulhsu o => rawCmp 3 3 o | .div o => rawAlu 3 4 o | .divu o => rawAlu 3 5 o
  | .rem o => rawAlu 3 6 o | .remu o => rawAlu 3 7 o
  | .madd o => rawI 8 3 o.d o.a o.b (o.c.val + bit o.w * 2 ^ 6)
  | .clz o => rawUn 0 o | .ctz o => rawUn 1 o | .popc o => rawUn 2 o | .brev o => rawUn 3 o
  | .bswap o => rawUn 4 o
  | .sext o => rawI 5 4 o.d o.a 0 o.width | .zext o => rawI 6 4 o.d o.a 0 o.width
  | .bext o => rawI 7 4 o.d o.a o.pos o.width | .bins o => rawI 8 4 o.d o.a o.pos o.width
  | .lea o => rawI 0 5 o.d o.a o.b (o.sh.val + o.imm.toNat * 2 ^ 7)
  | .ld o => rawMem 8 0 o.d o.size.code o.u o.m false
  | .st o => rawMem 9 0 o.d o.size.code false o.m false
  | .lamoAdd o => rawLamo 0 o | .lamoAnd o => rawLamo 1 o | .lamoOr o => rawLamo 2 o
  | .lamoXor o => rawLamo 3 o | .lamoMin o => rawLamo 4 o | .lamoMax o => rawLamo 5 o
  | .lamoMinu o => rawLamo 6 o | .lamoMaxu o => rawLamo 7 o | .lamoSwp o => rawLamo 8 o
  | .lamoCas o => rawLamo 9 o
  | .fld o => rawMem 0xB 0 o.d 3 false o.m false | .fst o => rawMem 0xB 1 o.d 3 false o.m false
  | .beq o => rawBr 0 o | .bne o => rawBr 1 o | .blt o => rawBr 2 o | .bge o => rawBr 3 o
  | .bltu o => rawBr 4 o | .bgeu o => rawBr 5 o
  | .jal64 d off => rawI 0 0x12 d 0 0 off.toNat
  | .jalAbs d imm => some ⟨12, 0x12, 0, d, 0, 0, imm.toNat % 2 ^ 30, imm.toNat / 2 ^ 30⟩
  | .jalr o => rawI 0 0x13 o.d o.a 0 o.imm.toNat
  | .nop64 => some ⟨8, 0x14, 0, 0, 0, 0, 0, 0⟩ | .nop96 => some ⟨12, 0x14, 0, 0, 0, 0, 0, 0⟩
  | .nop128 => some ⟨16, 0x14, 0, 0, 0, 0, 0, 0⟩
  | .isync => rawI 1 0x14 0 0 0 0 | .wfe => rawI 2 0x14 0 0 0 0 | .yield n => rawI 3 0x14 0 0 0 n
  | .serve => rawI 4 0x14 0 0 0 0 | .hret => rawI 5 0x14 0 0 0 0
  | .fadd o => rawF3 0 o | .fsub o => rawF3 1 o | .fmul o => rawF3 2 o | .fdiv o => rawF3 3 o
  | .fsqrt o => rawI 4 0x18 o.d o.a 0 (packF 0 o.rm o.w)
  | .fmin o => rawFBit 5 o | .fmax o => rawFBit 6 o | .fminm o => rawFBit 7 o | .fmaxm o => rawFBit 8 o
  | .fsgnj o => rawFBit 9 o | .fsgnjn o => rawFBit 0xA o | .fsgnjx o => rawFBit 0xB o
  | .fma o => rawF4 0x10 o | .fms o => rawF4 0x11 o | .fnma o => rawF4 0x12 o | .fnms o => rawF4 0x13 o
  | .feq o => rawFCmp 0 o | .flt o => rawFCmp 1 o | .fle o => rawFCmp 2 o | .funord o => rawFCmp 3 o
  | .fclass d a => rawI 4 0x19 d a 0 0
  | .fcvtLD o => rawI 8 0x19 o.d o.a 0 (packF 0 o.rm false)
  | .fcvtLuD o => rawI 0xA 0x19 o.d o.a 0 (packF 0 o.rm false)
  | .fcvtDL o => rawI 9 0x19 o.d o.a 0 (packF 0 o.rm o.w)
  | .fcvtDLu o => rawI 0xB 0x19 o.d o.a 0 (packF 0 o.rm o.w)
  | .fcvtSD o => rawI 0xC 0x19 o.d o.a 0 (packF 0 o.rm false)
  | .fmvSF d a => rawI 0xD 0x19 d a 0 0 | .fmvFS d a => rawI 0xE 0x19 d a 0 0
  | .fround o => rawI 0xF 0x19 o.d o.a 0 (packF 0 o.rm o.w)
  | .vld o => rawI 0 0x20 o.d o.slot 0 (packVM o.k) | .vldB o => rawI 1 0x20 o.d o.a o.b (packVM o.k)
  | .vlds o => rawI 2 0x20 o.d o.a 0 (packVM o.k)
  | .vst o => rawI 0 0x21 o.d o.slot 0 (packVM o.k) | .vstB o => rawI 1 0x21 o.d o.a o.b (packVM o.k)
  | .vgather o => rawI 0 0x22 o.d o.a o.b (packVM o.k)
  | .vscatter o => rawI 1 0x22 o.d o.a o.b (packVM o.k)
  | .vmov o => rawVV 0x23 0 o | .vbcs o => rawI 1 0x23 o.d o.a 0 (packV 0 o.k)
  | .vbcf o => rawI 2 0x23 o.d o.a 0 (packV 0 o.k)
  | .vmvs o => rawI 3 0x23 o.d o.a (o.e.val % 64) (packV (o.e.val / 64) o.k)
  | .vmvf o => rawI 4 0x23 o.d o.a o.e (packV 0 o.k)
  | .vsel o => rawVVV 0x23 5 o | .vslide o => rawI 6 0x23 o.d o.a o.b (packV 0 o.k)
  | .vperm o => rawVVV 0x23 7 o | .vpack o => rawVVV 0x23 8 o | .vunpack o => rawVVV 0x23 9 o
  | .vadd o => rawVVV 0x24 0 o | .vsub o => rawVVV 0x24 1 o | .vmul o => rawVVV 0x24 2 o
  | .vmulh o => rawVVV 0x24 3 o | .vdiv o => rawVVV 0x24 4 o | .vsqrt o => rawVV 0x24 5 o
  | .vmin o => rawVVV 0x24 6 o | .vmax o => rawVVV 0x24 7 o | .vabs o => rawVV 0x24 8 o
  | .vneg o => rawVV 0x24 9 o | .vfma o => rawVVVV 0x24 0xA o | .vfms o => rawVVVV 0x24 0xB o
  | .vfnma o => rawVVVV 0x24 0xC o | .vclamp o => rawVVVV 0x24 0xD o | .vadds o => rawVVV 0x24 0xE o
  | .vsubs o => rawVVV 0x24 0xF o
  | .vand o => rawVVV 0x25 0 o | .vor o => rawVVV 0x25 1 o | .vxor o => rawVVV 0x25 2 o
  | .vnot o => rawVV 0x25 3 o | .vshl o => rawVVV 0x25 4 o | .vshr o => rawVVV 0x25 5 o
  | .vsra o => rawVVV 0x25 6 o | .vshli o => rawVVn 0x25 7 o | .vshri o => rawVVn 0x25 8 o
  | .vsrai o => rawVVn 0x25 9 o | .vpopc o => rawVV 0x25 0xA o | .vclz o => rawVV 0x25 0xB o
  | .vceq o => rawQVV 0 o | .vcne o => rawQVV 1 o | .vclt o => rawQVV 2 o | .vcle o => rawQVV 3 o
  | .vcun o => rawQVV 4 o
  | .qand o => rawQQQ 0 o | .qor o => rawQQQ 1 o | .qxor o => rawQQQ 2 o
  | .qnot o => rawI 3 0x27 o.d o.a 0 (packV 0 o.k) | .qset o => rawI 4 0x27 o.d o.a o.b (packV 0 o.k)
  | .qget o => rawI 5 0x27 o.d o.a o.half (packV 0 o.k)
  | .qpopc o => rawI 6 0x27 o.d o.a 0 (packV 0 o.k)
  | .vcvt o => rawI o.dt.code 0x28 o.d o.a 0 (packV 0 o.k)
  | .vrsum o => rawI 0 0x29 o.d.index o.a 0 (packV 0 o.k)
  | .vrmax o => rawI 1 0x29 o.d.index o.a 0 (packV 0 o.k)
  | .vrmin o => rawI 2 0x29 o.d.index o.a 0 (packV 0 o.k)
  | .vdot o => rawI 3 0x29 o.d.index o.a o.b (packV 0 o.k)
  | .vsclset o => rawI 0 0x2A o.d o.a o.slot (packV 0 o.k)
  | .vsclget o => rawI 1 0x2A o.d o.a o.slot (packV 0 o.k)
  | .vrenorm o => rawVV 0x2A 2 o | .vdeq o => rawVV 0x2A 3 o | .vquant o => rawVV 0x2A 4 o
  | .vexp2 o => rawVV 0x2B 0 o | .vlog2 o => rawVV 0x2B 1 o | .vrcp o => rawVV 0x2B 2 o
  | .vrsqrt o => rawVV 0x2B 3 o | .vsin o => rawVV 0x2B 4 o | .vcos o => rawVV 0x2B 5 o
  | .vtanh o => rawVV 0x2B 6 o | .vsigm o => rawVV 0x2B 7 o | .verf o => rawVV 0x2B 8 o
  | .vrng o => rawI 0 0x2C o.d o.n 0 (packV 0 o.k) | .vrngu o => rawI 1 0x2C o.d o.n 0 (packV 0 o.k)
  | .vdrop o => rawI 2 0x2C o.d o.a o.b (packV o.n o.k)
  | .vsetsh slot a => rawI 0 0x2D slot a 0 0
  | .vloop o => rawI 1 0x2D o.k o.a 0 o.imm.toNat
  | .vsync => rawI 2 0x2D 0 0 0 0
  | .vitr d slot => rawI 3 0x2D d slot 0 0
  | .vshget d slot f => rawI 4 0x2D d slot f 0
  | .tld o => (TileOp.tld o).raw | .tst o => (TileOp.tst o).raw | .tzero d => (TileOp.tzero d).raw
  | .ttr o => (TileOp.ttr o).raw | .zzero d tz => (TileOp.zzero d tz).raw
  | .zst o => (TileOp.zst o).raw | .tmma o => (TileOp.tmma o).raw | .tmmo o => (TileOp.tmmo o).raw
  | .tsacc o => (TileOp.tsacc o).raw | .tepi o => (TileOp.tepi o).raw | .tmrot o => (TileOp.tmrot o).raw
  | .tfol ch op => some ⟨16, 0x46, 0, ch, 0, 0, 0, op.raw.toWord⟩
  | .amsg o => rawMsg 0 o | .amsgl o => rawMsg 1 o
  | .amsgp o =>
    some ⟨12, 0x50, 2, o.d, o.a, o.b, packX o.c 0 o.wt o.o, o.len + o.code.val * 2 ^ 16⟩
  | .rst o => rawMem 0x51 0 o.d o.size.code false o.m o.o | .rstv o => rawMem 0x51 1 o.d 6 false o.m o.o
  | .rld o => rawMem 0x52 0 o.d o.size.code o.u o.m o.o
  | .ramo o => rawMem 0x53 (o.kind.code + bit o.nr * 2 ^ 4) o.d o.size.code false
      ⟨o.a, o.b, false, o.off, o.wt⟩ o.o
  | .wait o => rawI 0 0x54 o.ld o.st o.cp o.tl
  | .fenceCore => rawI 0 0x55 0 0 0 0 | .fenceCluster => rawI 1 0x55 0 0 0 0
  | .fenceDie => rawI 2 0x55 0 0 0 0 | .fencePackage => rawI 3 0x55 0 0 0 0
  | .fenceFabric => rawI 4 0x55 0 0 0 0
  | .barGang n => rawI 0 0x56 0 0 0 n | .barCluster n => rawI 1 0x56 0 0 0 n
  | .barPackage n => rawI 3 0x56 0 0 0 n | .barFabric n => rawI 4 0x56 0 0 0 n
  | .bfree a => rawI 0 0x57 0 a 0 0 | .mbwait a => rawI 1 0x57 0 a 0 0
  | .cpush o => rawI 0 0x60 o.d o.a 0 (packX 0 o.ch o.wt false)
  | .cpushb o => rawI 1 0x60 o.d o.a 0 (packX 0 o.ch o.wt false)
  | .cpwait a ch => rawI 0 0x61 0 a 0 (packX 0 ch .none false)
  | .cpfence mask => rawI 0 0x62 0 0 0 (packX 0 mask.toNat .none false)
  | .cpresume ch => rawI 0 0x63 0 0 0 (packX 0 ch .none false)
  | .wlpush o => rawI 0 0x68 0 o.a o.b (packX o.c 0 o.wt false)
  | .wlwait => rawI 2 0x68 0 0 0 0
  | .sst o => rawI 0 0x70 o.d o.a o.b (packX 0 o.size.code o.wt false)
  | .sstv o => rawI 1 0x70 o.d o.a o.b (packX 0 0 o.wt false)
  | .sstl o => some ⟨12, 0x70, 2, o.d, o.a, o.b, packX 0 0 o.wt false, o.len⟩
  | .sndseq d a => rawI 3 0x70 d a 0 0 | .sndwait a b => rawI 4 0x70 0 a b 0
  | .gend d => rawI 0 0x78 d 0 0 0
  | .mfsr d g => rawMfsr d g | .mtsr g a => rawMtsr g a
  | .scall code => rawI 0 0x82 0 0 0 code.toNat | .brk code => rawI 1 0x82 0 0 0 code.toNat
  | .kret => rawI 2 0x82 0 0 0 0 | .exit a n => rawI 3 0x82 0 a 0 n
  | .ptouch a => rawI 4 0x82 0 a 0 0 | .mint a cause => rawI 5 0x82 0 a 0 (0x80 + cause.val)
  | _ => none

/-- The word of an instruction (R33): its length in bytes and its bits. -/
def encode (i : Instr) : Option (Nat × Nat) := (encodeRaw i).map fun r => (r.len, r.toWord)

/-! ## The decoder -/

/-- Checks 3 and 4 on the operands that a row uses: the carried word of `tfol` is checked whole (R63). -/
def checkTile (r : Raw) : Dec TileOp := do
  let op ← buildTileOp r
  if !op.wf then .error .code
  else if op.raw == r then .ok op else .error .unused

/-- The row that OPC, FN and LEN select, with its operands (R55 to R66). -/
def build (r : Raw) : Dec Instr :=
  match r.opc with
  | 0x01 => need64 r (build01 r)
  | 0x02 => build02 r
  | 0x03 => need64 r (build03 r)
  | 0x04 => need64 r (build04 r)
  | 0x05 => need64 r (if r.fn == 0 then
      .ok (.lea ⟨regS r.d, regS r.a, regS r.b, Fin.ofNat 64 r.c, BitVec.ofNat 23 (fieldOf r.hi 7 23)⟩)
      else .error .function)
  | 0x08 | 0x09 | 0x0A | 0x0B => need64 r (buildMem r)
  | 0x10 => need64 r (build10 r)
  | 0x12 | 0x13 | 0x14 => buildCtl r
  | 0x18 => need64 r (build18 r)
  | 0x19 => need64 r (build19 r)
  | 0x20 | 0x21 | 0x22 => need64 r (buildVMem r)
  | 0x23 => need64 r (build23 r)
  | 0x24 => need64 r (build24 r)
  | 0x25 => need64 r (build25 r)
  | 0x26 | 0x27 => need64 r (buildMask r)
  | 0x28 | 0x29 | 0x2A => need64 r (buildConv r)
  | 0x2B => need64 r (build2B r)
  | 0x2C | 0x2D => need64 r (buildSeq r)
  | 0x40 | 0x41 | 0x42 | 0x43 | 0x44 => need64 r ((buildTileOp r).map Instr.ofTile)
  | 0x46 =>
    if r.fn == 0 && r.len == 16 then do
      let op ← (checkTile (Raw.ofWord r.ext)).mapError fun _ => .code
      return .tfol (← codeN 4 r.d) op
    else .error .function
  | 0x50 | 0x51 | 0x52 | 0x53 => buildRemote r
  | 0x54 | 0x55 | 0x56 | 0x57 => need64 r (buildSync r)
  | 0x60 | 0x61 | 0x62 | 0x63 | 0x68 | 0x70 | 0x78 => buildEngine r
  | 0x80 | 0x81 | 0x82 => need64 r (buildSys r)
  | _ => .error .opcode

/-- Checks 1 to 5 of R67 on the fields. A field that the row does not use must be zero: the word must
be the one that the instruction encodes to (R49). -/
def decodeRaw (r : Raw) : Dec Instr := do
  if r.len == 0 then .error .length
  else
    let i ← build r
    if !i.wf then .error .code
    else if encodeRaw i == some r then .ok i else .error .unused

/-- The number whose little-endian bytes are given (R33). -/
def ofBytesLE : List Byte → Nat
  | [] => 0
  | b :: rest => b.toNat + 256 * ofBytesLE rest

/-- `n` little-endian bytes of a number. -/
def toBytesLE : Nat → Nat → List Byte
  | 0, _ => []
  | n + 1, x => BitVec.ofNat 8 x :: toBytesLE n (x / 256)

/-- The instruction at the head of a list of bytes, with the bytes after it. -/
def decode (bytes : List Byte) : Dec (Instr × List Byte) :=
  let first := ofBytesLE (bytes.take 8)
  let len := lenBytes (first % 4)
  if len == 0 || bytes.length < len then .error .length
  else (decodeRaw (Raw.ofWord (ofBytesLE (bytes.take len)))).map fun i => (i, bytes.drop len)

/-- The instruction bytes of an instruction, in memory order (R33). -/
def encodeBytes (i : Instr) : Option (List Byte) := (encode i).map fun (n, w) => toBytesLE n w

/-- The instruction that the decoder reads from the low `nbits` bits of `w`, the bits above being zero. -/
def decodeTableWord (nbits w : Nat) : Option Instr :=
  match decode (toBytesLE 16 (w % 2 ^ nbits)) with
  | .ok (i, _) => some i
  | .error _ => none

end Sys2Proof
end

