-- ==== Sys2Proof/Machine/CoreOps.lean ====
section
/-! DEFINITION. The named operations over one core's registers, local store and status: every read and
write of them goes through these. -/

namespace Sys2Proof.Machine

/-! ## Memory as cells -/

/-- The byte at an address; zero where nothing is listed. -/
def Memory.read : Memory → Nat → Byte
  | [], _ => 0
  | (k, v) :: rest, a => if a < k then 0 else if a = k then v else Memory.read rest a

/-- The cells below an address, and those from it on. -/
def Memory.below (m : Memory) (a : Nat) : Memory := m.takeWhile fun c => decide (c.1 < a)
def Memory.seek (m : Memory) (a : Nat) : Memory := m.dropWhile fun c => decide (c.1 < a)

/-- The cells of bytes from `a` on; a zero byte has none. -/
def cellsAt : Nat → List Byte → Memory
  | _, [] => []
  | a, b :: rest => if b = 0 then cellsAt (a + 1) rest else (a, b) :: cellsAt (a + 1) rest

/-- Write bytes from `a` on, keeping the canonical form. -/
def Memory.writeBytes (m : Memory) (a : Nat) (bs : List Byte) : Memory :=
  m.below a ++ cellsAt a bs ++ m.seek (a + bs.length)

def Memory.write (m : Memory) (a : Nat) (b : Byte) : Memory := m.writeBytes a [b]

/-- The canonical form: addresses strictly rising from `lo`, no zero byte listed. -/
def Memory.wfFrom : Nat → Memory → Bool
  | _, [] => true
  | lo, (k, v) :: rest => decide (lo ≤ k) && v != 0 && Memory.wfFrom (k + 1) rest

def Memory.wf (m : Memory) : Bool := Memory.wfFrom 0 m

/-- `n` bytes from `a`. -/
def Memory.readBytes (m : Memory) : Nat → Nat → List Byte
  | _, 0 => []
  | a, n + 1 =>
    let rest := m.seek a
    rest.read a :: Memory.readBytes rest (a + 1) n

/-- `n` bytes from `a` as a little-endian number (R4). -/
def Memory.readN (m : Memory) (a n : Nat) : Nat := ofBytesLE (m.readBytes a n)

/-- Write the low `n` bytes of a number, little-endian (R4). -/
def Memory.writeN (m : Memory) (a n x : Nat) : Memory := m.writeBytes a (toBytesLE n x)

/-! ## Register files (R17 to R20) -/

/-- A register that is written holds no error any more (R389). -/
def Core.clean (c : Core) (r : RegRef) : List RegRef := c.badRegs.filter fun x => x != r

/-- `s0` reads zero. -/
def Core.rdS (c : Core) (r : SReg) : Word := if r = 0 then 0 else c.regs.s.get r

/-- A write to `s0` is discarded. -/
def Core.wrS (c : Core) (r : SReg) (x : Word) : Core :=
  if r = 0 then c else { c with regs := { c.regs with s := c.regs.s.set r x }, badRegs := c.clean (.s r) }

def Core.rdF (c : Core) (r : FReg) : Word := c.regs.f.get r

def Core.wrF (c : Core) (r : FReg) (x : Word) : Core :=
  { c with regs := { c.regs with f := c.regs.f.set r x }, badRegs := c.clean (.f r) }

def Core.rdV (c : Core) (r : VReg) : VecReg := c.regs.v.get r

def Core.wrV (c : Core) (r : VReg) (x : VecReg) : Core :=
  { c with regs := { c.regs with v := c.regs.v.set r x }, badRegs := c.clean (.v r) }

/-- The elements alone; the sidecar keeps its value (R153). -/
def Core.wrVBits (c : Core) (r : VReg) (x : BitVec 512) : Core :=
  c.wrV r { c.rdV r with bits := x }

/-- `q0` reads all ones. -/
def Core.rdQ (c : Core) (r : QReg) : BitVec 128 := if r = 0 then BitVec.allOnes 128 else c.regs.q.get r

/-- A write to `q0` is discarded. -/
def Core.wrQ (c : Core) (r : QReg) (x : BitVec 128) : Core :=
  if r = 0 then c else { c with regs := { c.regs with q := c.regs.q.set r x }, badRegs := c.clean (.q r) }

def Core.rdT (c : Core) (r : TReg) : BitVec 65536 := c.regs.t.get r

def Core.wrT (c : Core) (r : TReg) (x : BitVec 65536) : Core :=
  { c with regs := { c.regs with t := c.regs.t.set r x }, badRegs := c.clean (.t r) }

def Core.rdZ (c : Core) (r : ZReg) : BitVec 131072 := c.regs.z.get r

def Core.wrZ (c : Core) (r : ZReg) (x : BitVec 131072) : Core :=
  { c with regs := { c.regs with z := c.regs.z.set r x }, badRegs := c.clean (.z r) }

/-- The register `n` places after `r` in a run of `s` registers; a run that starts at `s0` reads zero
there (R36). -/
def runReg (r : SReg) (n : Nat) : SReg := Fin.ofNat 64 (r.val + n)

def Core.rdRun (c : Core) (r : SReg) (n : Nat) : List Word :=
  (List.range n).map fun i => c.rdS (runReg r i)

/-- The vector register `n` places after `r`. -/
def vecAt (r : VReg) (n : Nat) : VReg := Fin.ofNat 48 (r.val + n)

/-! ## Status and levels (R11, R25) -/

def Core.isUser (c : Core) : Bool := c.status.pl == .user
def Core.isDebug (c : Core) : Bool := c.status.pl == .debug

/-- `STATUS.PRECISE`: a trap enable of `FPCTL` is set (R25). -/
def Core.precise (c : Core) : Bool := c.fp.ctl.toNat / 8 != 0

/-- The enables of `FPCTL` in the bit positions of `FPFLAGS` (R24). -/
def Core.fpEnables (c : Core) : Flags := BitVec.ofNat 5 (c.fp.ctl.toNat / 8)

def Core.orFlags (c : Core) (f : Flags) : Core := { c with fp := { c.fp with flags := c.fp.flags ||| f } }

/-- The rounding mode that an RM code selects now (R51, R89). `FPCTL.RM` never holds 101 or 110 (R24); while it holds
111, which R24 lets `mtsr` write and no rule gives a mode, the mode is RNE (DESIGN CHOICE, log entry 60). -/
def Core.rnd (c : Core) (rm : RMode) : Rnd :=
  match rm with
  | .rne => .rne
  | .rtz => .rtz
  | .rdn => .rdn
  | .rup => .rup
  | .rmm => .rmm
  | .dyn =>
    match c.fp.ctl.toNat % 8 with
    | 1 => .rtz
    | 2 => .rdn
    | 3 => .rup
    | 4 => .rmm
    | _ => .rne

/-- `STATUS` as a word (R25). -/
def Core.statusWord (c : Core) : Word :=
  let pl : Nat := match c.status.pl with | .user => 0 | .kernel => 1 | .debug => 2
  BitVec.ofNat 64 (pl + bit c.status.ppl * 4 + bit c.status.ie * 8 + bit c.status.pie * 16 +
    bit c.status.hnd * 32 + bit c.precise * 256)

/-! ## The local store (R12, R13, R15, R116) -/

/-- The size of the local store (R12). -/
def lsSize : Nat := 0x140000

/-- R12 alone. -/
def inStore (a n : Nat) : Bool := decide (a + n ≤ lsSize)

/-- An access of `n` bytes at `a` is permitted at the core's level (R12, R13). -/
def Core.okAccess (c : Core) (a n : Nat) : Bool :=
  inStore a n && (!c.isUser || (decide (c.trap.ubase.toNat ≤ a) && decide (a + n ≤ c.trap.ulimit.toNat)))

/-- The access is inside `UBASE` to `ULIMIT` (R223). -/
def Core.inRegion (c : Core) (a n : Nat) : Bool :=
  inStore a n && decide (c.trap.ubase.toNat ≤ a) && decide (a + n ≤ c.trap.ulimit.toNat)

/-- The first 8-byte granule of `[a, a + n)` with an uncorrectable error, by address (R116). -/
def Core.badIn (c : Core) (a n : Nat) : Option Nat :=
  (c.bad.filter fun g => decide (g * 8 < a + n) && decide (a < g * 8 + 8)).min?.map (· * 8)

/-- A granule wholly inside `[a, a + n)` is replaced and good again (R116). -/
def clearBad (bad : List Nat) (a n : Nat) : List Nat :=
  bad.filter fun g => !(decide (a ≤ g * 8) && decide (g * 8 + 8 ≤ a + n))

/-- A store of fewer bytes than a granule that would merge into a bad one (R116). -/
def Core.mergesBad (c : Core) (a n : Nat) : Bool :=
  c.bad.any fun g => decide (g * 8 < a + n) && decide (a < g * 8 + 8) &&
    !(decide (a ≤ g * 8) && decide (g * 8 + 8 ≤ a + n))

/-- The 32-byte block `b` as fetch sees it now. -/
def Memory.block (m : Memory) (b : Nat) : BitVec 256 := BitVec.ofNat 256 (m.readN (b * 32) 32)

/-- Block `b` with bytes written from `a` on. -/
def patchBlock (b : Nat) (old : BitVec 256) (a : Nat) (bs : List Byte) : BitVec 256 :=
  let new (k : Nat) : Byte :=
    if b * 32 + k < a then old.extractLsb' (8 * k) 8
    else (bs[b * 32 + k - a]?).getD (old.extractLsb' (8 * k) 8)
  BitVec.ofNat 256 (ofBytesLE ((List.range 32).map new))

/-- The older versions after a write of `bs` at `a` (R15): the blocks that it touches, with their bytes before it. `own`
says whether the core itself writes; its own store is in every version that outlasts the next `isync`. -/
def Core.staleWith (c : Core) (own : Bool) (a : Nat) (bs : List Byte) : List OldBlock :=
  let first := a / 32
  let count := (a + bs.length + 31) / 32 - first
  let olds := (List.range count).map fun i =>
    let x := c.ls.block (first + i)
    (⟨first + i, x, x, own⟩ : OldBlock)
  let kept := c.stale.map fun x =>
    if own && !x.settled && first ≤ x.blk && x.blk < first + count then
      { x with synced := patchBlock x.blk x.synced a bs }
    else x
  olds.foldl (fun l x => if l.contains x then l else x :: l) kept

/-- Write bytes into the local store: fetch may return an old block until an `isync` (R15), and whole granules become
good (R116). -/
def Core.writeStore (c : Core) (own : Bool) (a : Nat) (bs : List Byte) : Core :=
  { c with
    ls := c.ls.writeBytes a bs
    stale := c.staleWith own a bs
    bad := clearBad c.bad a bs.length }

/-- A store by the core itself. -/
def Core.storeBytes (c : Core) (a : Nat) (bs : List Byte) : Core := c.writeStore true a bs

/-- A write by the NI or the copy engine, which the core has yet to observe (R15). -/
def Core.landBytes (c : Core) (a : Nat) (bs : List Byte) : Core := c.writeStore false a bs

/-- The core has observed the completion of every write so far: the next `isync` drops the older versions (R15). -/
def Core.observe (c : Core) : Core := { c with stale := c.stale.map fun x => { x with settled := true } }

/-- Write the low `n` bytes of a number. -/
def Core.storeN (c : Core) (a n : Nat) (x : Nat) : Core := c.storeBytes a (toBytesLE n x)

def Core.loadN (c : Core) (a n : Nat) : Nat := c.ls.readN a n

/-! ## Elements of registers (R19) -/

/-- Field `i` of width `w`. -/
def elemAt (x w i : Nat) : Nat := x / 2 ^ (w * i) % 2 ^ w

/-- The elements of a number, `n` of width `w`. -/
def unpackElems (x w n : Nat) : List Nat := (List.range n).map fun i => elemAt x w i

/-- The number whose fields of width `w` are given, lowest first. -/
def packElems (w : Nat) : List Nat → Nat
  | [] => 0
  | x :: rest => x % 2 ^ w + 2 ^ w * packElems w rest

def VecReg.elems (r : VecReg) (t : EType) : List Nat := unpackElems r.bits.toNat t.width t.count

/-- A vector register's elements replaced (6-bit types leave bits 511:384 zero, R19). -/
def Core.wrElems (c : Core) (r : VReg) (t : EType) (xs : List Nat) : Core :=
  c.wrVBits r (BitVec.ofNat 512 (packElems t.width xs))

/-- Bit `i` of a mask. -/
def maskBit (q : BitVec 128) (i : Nat) : Bool := q.getLsbD i

/-! ## Counters (R225) -/

def Counters.st (n : Counters) : Nat := n.stcl + n.stpk + n.stfb

/-- The condition of a WT field (R53). -/
def Core.waitOk (c : Core) (w : WaitSel) : Bool :=
  match w with
  | .none => true
  | .st => c.cnt.st == 0
  | .cp => c.cnt.cp == 0
  | .all => c.cnt.ld == 0 && c.cnt.st == 0 && c.cnt.cp == 0 && c.cnt.tl == 0

/-! ## Event latch (R132) -/

def Core.setLatch (c : Core) : Core := { c with latch := true }

/-! ## Shape records (R145 to R147) -/

/-- The positions of a record (R147). -/
def ShapeRec.total (r : ShapeRec) : Nat :=
  ((List.range (r.rankM1.val + 1)).map fun k => (r.dims.toList.getD k 0).toNat).foldl (· * ·) 1

def ShapeRec.dim (r : ShapeRec) (k : Nat) : Nat :=
  if k ≤ r.rankM1.val then (r.dims.toList.getD k 0).toNat else 1

def ShapeRec.stride (r : ShapeRec) (k : Nat) : Int := (r.strides.toList.getD k 0).toInt

/-- The index of position `p`, `i0` fastest (R102, R147). -/
def ShapeRec.index (r : ShapeRec) (p : Nat) : Nat × Nat × Nat × Nat :=
  let d0 := r.dim 0
  let d1 := r.dim 1
  let d2 := r.dim 2
  (p % d0, p / d0 % d1, p / d0 / d1 % d2, p / d0 / d1 / d2)

/-- An address sum as the 64-bit wrapped value (R12). -/
def wrapAddr (z : Int) : Nat := (z % (2 ^ 64 : Nat)).toNat

/-- Where an element lies: the address of the bytes accessed, their number, and the bit offset of the
element in them (R147). -/
structure ElemLoc where
  addr : Nat
  bytes : Nat
  shift : Nat
deriving DecidableEq, Repr

/-- The location of the element at index `(i0, i1, i2, i3)` (R147). -/
def ShapeRec.locAt (r : ShapeRec) (i : Nat × Nat × Nat × Nat) : ElemLoc :=
  let (i0, i1, i2, i3) := i
  let rest : Int := (r.base.toNat : Int) + i1 * r.stride 1 + i2 * r.stride 2 + i3 * r.stride 3
  match r.et.width with
  | 4 => ⟨wrapAddr (rest + (i0 / 2 : Nat)), 1, i0 % 2 * 4⟩
  | 6 => ⟨wrapAddr (rest + (3 * (i0 / 4) : Nat)), 3, i0 % 4 * 6⟩
  | w => ⟨wrapAddr (rest + i0 * r.stride 0), w / 8, 0⟩

def ShapeRec.loc (r : ShapeRec) (p : Nat) : ElemLoc := r.locAt (r.index p)

/-- Read an element at a location. -/
def Core.readLoc (c : Core) (l : ElemLoc) (w : Nat) : Nat := c.loadN l.addr l.bytes / 2 ^ l.shift % 2 ^ w

/-- Write an element at a location, keeping the bits around it (R154). -/
def Core.writeLoc (c : Core) (l : ElemLoc) (w : Nat) (x : Nat) : Core :=
  let old := c.loadN l.addr l.bytes
  let cleared := old - old / 2 ^ l.shift % 2 ^ w * 2 ^ l.shift
  c.storeN l.addr l.bytes (cleared + x % 2 ^ w * 2 ^ l.shift)

/-- A record from its 64 bytes as a number, if it meets the conditions of R146. -/
def ShapeRec.parse (x : Nat) : Option ShapeRec :=
  let w1 := fieldOf x 32 32
  let rank := fieldOf w1 4 2
  let dims := (List.range 4).map fun k => fieldOf x (64 + 16 * k) 16
  let strides := (List.range 4).map fun k => fieldOf x (128 + 32 * k) 32
  let logbase := fieldOf x 256 64
  let scalebase := fieldOf x 320 32
  match etOf (fieldOf w1 0 4) with
  | .error _ => none
  | .ok et =>
    let table := fieldOf w1 9 1 == 1
    let ok :=
      fieldOf w1 6 2 == 0 && fieldOf w1 10 22 == 0 && fieldOf x 352 160 == 0 &&
      ((List.range 4).all fun k =>
        if k ≤ rank then dims.getD k 0 != 0 else dims.getD k 0 == 0 && strides.getD k 0 == 0) &&
      (table == (scalebase != 0)) && (!table || (decide (et.width ≤ 8) && scalebase % 4 == 0)) &&
      (et.width != 4 || (strides.getD 0 0 == 0 && dims.getD 0 0 % 2 == 0)) &&
      (et.width != 6 || (strides.getD 0 0 == 0 && dims.getD 0 0 % 4 == 0))
    if ok then
      some {
        base := BitVec.ofNat 32 x
        et := et
        rankM1 := Fin.ofNat 4 rank
        logical := fieldOf w1 8 1 == 1
        table := table
        dims := Vector.ofFn fun k : Fin 4 => BitVec.ofNat 16 (dims.getD k 0)
        strides := Vector.ofFn fun k : Fin 4 => BitVec.ofNat 32 (strides.getD k 0)
        logbase := BitVec.ofNat 64 logbase
        scalebase := BitVec.ofNat 32 scalebase }
    else none

/-- The record's second word, as `vshget` reads it (R148). -/
def ShapeRec.word1 (r : ShapeRec) : Nat :=
  r.et.code + r.rankM1.val * 16 + bit r.logical * 256 + bit r.table * 512

/-- A slot's advance by `n` positions (R147). -/
def SlotState.advance (s : SlotState) (n : Nat) : SlotState :=
  match s.bound with
  | none => s
  | some r => if r.total ≤ s.p + n then { s with p := 0 } else { s with p := s.p + n }

/-! ## Causes (R377) -/

def causeIllegal : Nat := 0x01
def causeTypeCombo : Nat := 0x02
def causePriv : Nat := 0x03
def causeLdBounds : Nat := 0x04
def causeStBounds : Nat := 0x05
def causeMisalign : Nat := 0x06
def causeFetch : Nat := 0x07
def causeFpTrap : Nat := 0x08
def causeIntDiv0 : Nat := 0x09
def causeBrk : Nat := 0x0A
def causeScall : Nat := 0x0B
def causeRstNack : Nat := 0x10
def causeRldNack : Nat := 0x11
def causeMsgReject : Nat := 0x12
def causeCopyPf : Nat := 0x13
def causeCopyFail : Nat := 0x14
def causeSndNack : Nat := 0x15
def causeLaunchFull : Nat := 0x16
def causeWlFull : Nat := 0x17
def causeLinkTimeout : Nat := 0x18
def causeEndpoint : Nat := 0x19
def causeEccLocal : Nat := 0x1A

/-- A trap to take: its cause and its value. -/
structure Trap where
  cause : Nat
  tval : Word
deriving DecidableEq, Repr

end Sys2Proof.Machine
end

