-- ==== Sys2Proof/Machine/SfuMath.lean ====
section
/-! DEFINITION. The special functions of the SFU (R170), correctly rounded: a function's value is
enclosed between two numbers of `p` fraction bits, and `p` grows until both round to the same result. -/

namespace Sys2Proof

/-! ## Fixed-point numbers: an integer z stands for z / 2^p -/

def fxMul (p : Nat) (a b : Int) : Int := a * b / (2 ^ p : Nat)
def fxDiv (p : Nat) (a b : Int) : Int := a * (2 ^ p : Nat) / b
def fxOne (p : Nat) : Int := (2 ^ p : Nat)

/-- m · 2^e as a fixed-point number, rounded down. -/
def fxOf (p : Nat) (m : Nat) (e : Int) : Int := (magFloor m (e + p) 0 : Nat)

/-- Σ x^k / k! from the term `t` of index `k` on. -/
def fxExpAux (p : Nat) (x : Int) : Nat → Nat → Int → Int → Int
  | 0, _, _, s => s
  | n + 1, k, t, s =>
    let t' := fxMul p t x / (k : Int)
    if t' == 0 then s else fxExpAux p x n (k + 1) t' (s + t')

/-- e^x for |x| ≤ 1. -/
def fxExp (p : Nat) (x : Int) : Int := fxExpAux p x (p + 8) 1 (fxOne p) (fxOne p)

/-- Σ x^(2k+1) / (2k+1): the inverse hyperbolic tangent for |x| ≤ 1/2. -/
def fxAtanhAux (p : Nat) (x2 : Int) : Nat → Nat → Int → Int → Int
  | 0, _, _, s => s
  | n + 1, k, t, s =>
    if t == 0 then s else fxAtanhAux p x2 n (k + 2) (fxMul p t x2) (s + t / (k : Int))

def fxAtanh (p : Nat) (x : Int) : Int := fxAtanhAux p (fxMul p x x) (p + 8) 1 x 0

/-- ln 2 = 2 · atanh(1/3). -/
def fxLn2 (p : Nat) : Int := 2 * fxAtanh p (fxOne p / 3)

/-- Σ (−1)^k x^(2k+1) / (2k+1): the inverse tangent of 1/n. -/
def fxAtanInvAux (p : Nat) (n2 : Int) : Nat → Nat → Int → Int → Int
  | 0, _, _, s => s
  | f + 1, k, t, s =>
    if t == 0 then s else fxAtanInvAux p n2 f (k + 2) (-(t / n2)) (s + t / (k : Int))

def fxAtanInv (p : Nat) (n : Int) : Int := fxAtanInvAux p (n * n) (p + 8) 1 (fxOne p / n) 0

/-- π by 16 atan(1/5) − 4 atan(1/239). -/
def fxPi (p : Nat) : Int := 16 * fxAtanInv p 5 - 4 * fxAtanInv p 239

/-- The Taylor series of the sine or the cosine from the term `t` of index `k` on. -/
def fxSinAux (p : Nat) (x2 : Int) : Nat → Nat → Int → Int → Int
  | 0, _, _, s => s
  | n + 1, k, t, s =>
    let t' := -(fxMul p t x2 / ((k + 1) * (k + 2) : Nat))
    if t' == 0 || t' == -1 then s else fxSinAux p x2 n (k + 2) t' (s + t')

def fxSin (p : Nat) (x : Int) : Int := fxSinAux p (fxMul p x x) (p + 8) 1 x x
def fxCos (p : Nat) (x : Int) : Int := fxSinAux p (fxMul p x x) (p + 8) 0 (fxOne p) (fxOne p)

/-- Σ 2^k x^(2k+1) / (1 · 3 · … · (2k+1)). -/
def fxErfAux (p : Nat) (x2 : Int) : Nat → Nat → Int → Int → Int
  | 0, _, _, s => s
  | n + 1, k, t, s =>
    let t' := 2 * fxMul p t x2 / ((k + 2 : Nat) : Int)
    if t' == 0 then s else fxErfAux p x2 n (k + 2) t' (s + t')

/-- e^y for y of any size, as a fixed-point number and a power of two: e^y = 2^k · e^r. -/
def fxExpBig (p : Nat) (y : Int) : Int × Int :=
  let l := fxLn2 p
  let k := y / l
  (fxExp p (y - k * l), k)

/-- z · 2^k / 2^p as an enclosure with `err` units to each side: mantissas and the common exponent. -/
structure Encl where
  lo : Int
  hi : Int
  e : Int
deriving DecidableEq, Repr

def Encl.of (p : Nat) (z : Int) (k : Int) (err : Int) : Encl := ⟨z - err, z + err, k - p⟩

/-- A finite value from a signed mantissa. -/
def finOf (z : Int) (e : Int) : FVal := .fin (decide (z < 0)) z.natAbs e

/-- The result that both ends of an enclosure round to, if they agree and lie on one side of zero. -/
def Encl.round? (f : FFmt) (c : Encl) : Option (FVal × Flags) :=
  if decide (c.lo ≤ 0) && decide (0 ≤ c.hi) then none
  else
    let a := roundF f .rne false (finOf c.lo c.e)
    let b := roundF f .rne false (finOf c.hi c.e)
    if a.1 == b.1 || (match a.1, b.1 with
        | .fin n1 m1 e1, .fin n2 m2 e2 => n1 == n2 && !(magLt m1 e1 m2 e2) && !(magLt m2 e2 m1 e1)
        | _, _ => false) then
      if (a.2 &&& flagUF) == (b.2 &&& flagUF) then some (a.1, a.2 ||| b.2 ||| flagNX) else none
    else none

/-- The first precision of a list at which an enclosure decides the rounding. -/
def decideRound (f : FFmt) (encl : Nat → Encl) : List Nat → FVal × Flags
  | [] => (.nan false, flagNV)
  | p :: ps =>
    match (encl p).round? f with
    | some r => r
    | none => decideRound f encl ps

/-- The precisions tried, in bits. -/
def precisions : List Nat := [224, 640, 1400, 2800, 5600, 11200]

/-! ## The functions at a finite argument (−1)^n · m · 2^e, m ≠ 0 -/

/-- The argument as a signed fixed-point number. -/
def fxArg (p : Nat) (n : Bool) (m : Nat) (e : Int) : Int := if n then -(fxOf p m e) else fxOf p m e

/-- A value that rounds as a number just above zero or just below one. -/
def tinyEncl (n : Bool) : Encl := if n then ⟨-3, -1, -2000⟩ else ⟨1, 3, -2000⟩
def belowOne (n : Bool) : Encl :=
  let o : Int := (2 ^ 90 : Nat)
  if n then ⟨-o + 1, -o + 2, -90⟩ else ⟨o - 2, o - 1, -90⟩

/-- Whether |x| is at least 2^k. -/
def geTwo (m : Nat) (e k : Int) : Bool := decide (k ≤ (Nat.log2 m : Int) + e)

/-- 2^x: an integer x gives a power of two exactly. -/
def sfuExp2 (f : FFmt) (n : Bool) (m : Nat) (e : Int) : FVal × Flags :=
  if geTwo m e 12 then
    if n then decideRound f (fun _ => tinyEncl false) [0]
    else roundF f .rne false (.fin false 1 5000)
  else
    let fl := magFloor m e 0
    if !(magLt fl 0 m e) then roundF f .rne false (.fin false 1 (if n then -(fl : Int) else fl))
    else decideRound f (fun p =>
      let x := fxArg p n m e
      let k := x / fxOne p
      Encl.of p (fxExp p (fxMul p (x - k * fxOne p) (fxLn2 p))) k (2 ^ 24 : Nat)) precisions

/-- log2 x for x > 0: a power of two gives an integer exactly. -/
def sfuLog2 (f : FFmt) (m : Nat) (e : Int) : FVal × Flags :=
  let l := Nat.log2 m
  if m == 2 ^ l then roundF f .rne false (FVal.ofInt (l + e))
  else decideRound f (fun p =>
    -- x = 2^k · y with y in [3/4, 3/2)
    let up : Bool := decide (3 * 2 ^ l ≤ 2 * m)
    let k : Int := (l : Int) + (if up then 1 else 0)
    let y := fxOf p m (-k)
    let a := 2 * fxAtanh p (fxDiv p (y - fxOne p) (y + fxOne p))
    Encl.of p (fxDiv p a (fxLn2 p) + (k + e) * fxOne p) 0 (2 ^ 24 : Nat)) precisions

/-- 1/√x for x > 0. -/
def sfuRsqrt (f : FFmt) (m : Nat) (e : Int) : FVal × Flags :=
  -- 1/√(m·2^e) = √(m·2^e) / (m·2^e), exact when m·2^e is a square
  let (r, re) := sqrtMag m e
  let (q, qe) := divMag r m
  roundF f .rne false (.fin false q (qe + re - e))

/-- sin x or cos x with exact argument reduction. -/
def sfuTrig (f : FFmt) (cosine : Bool) (n : Bool) (m : Nat) (e : Int) : FVal × Flags :=
  decideRound f (fun p0 =>
    -- room for the integer part of the argument
    let p := p0 + ((Nat.log2 m : Int) + e + 8).toNat
    let x := fxArg p n m e
    let half := fxPi p / 2
    let k := (2 * x + half) / (2 * half)
    let r := x - k * half
    let q := (k + (if cosine then 1 else 0)) % 4
    let v := if q % 2 == 0 then fxSin p r else fxCos p r
    Encl.of p (if q ≥ 2 then -v else v) 0 (2 ^ (24 + ((Nat.log2 m : Int) + e + 8).toNat) : Nat)) precisions

/-- tanh x. -/
def sfuTanh (f : FFmt) (n : Bool) (m : Nat) (e : Int) : FVal × Flags :=
  if geTwo m e 6 then decideRound f (fun _ => belowOne n) [0]
  else decideRound f (fun p =>
    let x := fxOf p m e
    let (t, k) := fxExpBig p (-2 * x)
    let t' := if k < 0 then t / (2 ^ k.natAbs : Nat) else t * (2 ^ k.toNat : Nat)
    let v := fxDiv p (fxOne p - t') (fxOne p + t')
    Encl.of p (if n then -v else v) 0 (2 ^ 32 : Nat)) precisions

/-- 1/(1 + e^−x). -/
def sfuSigm (f : FFmt) (n : Bool) (m : Nat) (e : Int) : FVal × Flags :=
  if geTwo m e 12 then
    if n then decideRound f (fun _ => tinyEncl false) [0] else decideRound f (fun _ => belowOne false) [0]
  else if !n && geTwo m e 7 then decideRound f (fun _ => belowOne false) [0]
  else decideRound f (fun p =>
    -- e^y / (1 + e^y) with y = x below zero, 1 / (1 + e^−x) above: a quotient by 1 + 2^k · t
    let x := fxOf p m e
    let (t, k) := fxExpBig p (-x)
    let s := t / (2 ^ k.natAbs : Nat)
    if n then Encl.of p (fxDiv p t (fxOne p + s)) k (2 ^ 40 : Nat)
    else Encl.of p (fxDiv p (fxOne p) (fxOne p + s)) 0 (2 ^ 40 : Nat)) precisions

/-- erf x. -/
def sfuErf (f : FFmt) (n : Bool) (m : Nat) (e : Int) : FVal × Flags :=
  if geTwo m e 3 then decideRound f (fun _ => belowOne n) [0]
  else decideRound f (fun p0 =>
    let p := p0 + 128
    let x := fxOf p m e
    let x2 := fxMul p x x
    let s := fxErfAux p x2 (p + 400) 1 x x
    -- (2/√π) · e^(−x²) · s
    let (t, k) := fxExpBig p (-x2)
    let g := if k < 0 then t / (2 ^ k.natAbs : Nat) else t * (2 ^ k.toNat : Nat)
    let c := fxDiv p (2 * fxOne p) (isqrt ((fxPi p * fxOne p).toNat) : Nat)
    let v := fxMul p c (fxMul p g s)
    Encl.of p (if n then -v else v) 0 (2 ^ 128 : Nat)) precisions

/-- The functions of OPC 0x2B. -/
inductive SfuFn where
  | exp2 | log2 | rcp | rsqrt | sin | cos | tanh | sigm | erf
deriving DecidableEq, Repr

/-- f(x) rounded into a format, with its flags and special results (R170). -/
def sfuEval (fn : SfuFn) (f : FFmt) : FVal → FVal × Flags
  | .nan s => (.nan false, flagIf s flagNV)
  | .inf n =>
    match fn with
    | .exp2 => (if n then .zero else .inf false, 0)
    | .log2 => if n then (.nan false, flagNV) else (.inf false, 0)
    | .rcp => (.fin n 0 0, 0)
    | .rsqrt => if n then (.nan false, flagNV) else (.zero, 0)
    | .sin | .cos => (.nan false, flagNV)
    | .tanh | .erf => (.fin n 1 0, 0)
    | .sigm => (if n then .zero else .fin false 1 0, 0)
  | .fin n m e =>
    if m == 0 then
      match fn with
      | .exp2 | .cos => (.fin false 1 0, 0)
      | .log2 => (.inf true, flagDZ)
      | .rcp | .rsqrt => (.inf n, flagDZ)
      | .sin | .tanh | .erf => (.fin n 0 0, 0)
      | .sigm => (.fin false 1 (-1), 0)
    else
      match fn with
      | .exp2 => sfuExp2 f n m e
      | .log2 => if n then (.nan false, flagNV) else sfuLog2 f m e
      | .rcp =>
        let (q, qe) := divMag 1 m
        roundF f .rne false (.fin n q (qe - e))
      | .rsqrt => if n then (.nan false, flagNV) else sfuRsqrt f m e
      | .sin => sfuTrig f false n m e
      | .cos => sfuTrig f true n m e
      | .tanh => sfuTanh f n m e
      | .sigm => sfuSigm f n m e
      | .erf => sfuErf f n m e

end Sys2Proof
end

