-- ==== Sys2Proof/Machine/VecOps.lean ====
section
/-! DEFINITION. Performing one vector instruction (R137, R153 to R176): its register writes, its memory
accesses and its flags, on the core that holds it. -/

namespace Sys2Proof.Machine

/-- How a step of an entry's performance ends: done, some of its accesses performed and others to come (R140), an
enabled flag (R143, R184), or a granule with an uncorrectable error (R144). -/
inductive PerfRes where
  | done (c : Core)
  | more (c : Core) (p : Part)
  | fptrap (raised : Flags) (tval : Word)
  | ecc (addr : Nat)
deriving DecidableEq, Repr

/-- What an instruction needs to know of its entry: the core's CID, the slots at its issue, and the
iteration within the loop. -/
structure PerfCtx where
  cid : Nat
  slots : Vector SlotState 4
  iter : Nat
  /-- The accesses already performed, and the free value that says how many follow in this step (R140). -/
  part : Part
  free : Nat

/-! ## Element lists -/

def at0 (xs : List Nat) (j : Nat) : Nat := xs.getD j 0

/-- The enabled elements replaced by `f`, each with its flags (R153). -/
def lanes (q : BitVec 128) (old : List Nat) (f : Nat → Nat × Flags) : List (Nat × Flags) :=
  old.zipIdx.map fun (o, j) => if maskBit q j then f j else (o, 0)

def orAll (fls : List Flags) : Flags := fls.foldl (· ||| ·) 0

/-- The lane mask of R143 for elements with these flags. -/
def laneMask (enables : Flags) (fls : List Flags) : Word :=
  let per : Nat := if fls.length ≤ 64 then 1 else 2
  BitVec.ofNat 64 ((fls.zipIdx.map fun (f, j) =>
    if f &&& enables == 0 then 0 else 2 ^ (j / per)).foldl (· ||| ·) 0)

/-- The predicate over `n` elements as a lane mask (R143: reductions, `vdot`, `vquant`, `vrenorm`). -/
def predMask (q : BitVec 128) (n : Nat) : Word :=
  let per : Nat := if n ≤ 64 then 1 else 2
  BitVec.ofNat 64 (((List.range n).map fun j => if maskBit q j then 2 ^ (j / per) else 0).foldl (· ||| ·) 0)

/-- Commit a result with flags, or trap if an enabled flag is among them (R92, R143). -/
def Core.commit (c : Core) (raised : Flags) (tval : Word) (w : Core → Core) : PerfRes :=
  if raised &&& c.fpEnables != 0 then .fptrap raised tval else .done ((w c).orFlags raised)

/-- Commit one list of elements into a vector register. -/
def Core.commitV (c : Core) (d : VReg) (t : EType) (r : List (Nat × Flags)) : PerfRes :=
  let fls := r.map (·.2)
  c.commit (orAll fls) (laneMask c.fpEnables fls) fun c => c.wrElems d t (r.map (·.1))

/-- An element-wise instruction of type `t` under the predicate of `k`. -/
def Core.mapV (c : Core) (k : VCtl) (d : VReg) (f : Nat → Nat × Flags) : PerfRes :=
  c.commitV d k.et (lanes (c.rdQ k.q) ((c.rdV d).elems k.et) f)

/-! ## Random bits (R101, R102) -/

/-- The slot that governs logical mode, if its record says so (R102). -/
def logicalSlot (s : SlotState) : Option (ShapeRec × Nat) :=
  match s.bound with
  | some r => if r.logical then some (r, s.p) else none
  | none => none

/-- `k` random bits of element `j` with group size `g` (R101). -/
def Core.draw (c : Core) (x : PerfCtx) (slot : Option SlotState) (j k g : Nat) : Nat :=
  match slot.bind logicalSlot with
  | some (r, p) =>
    let l := (r.logbase + BitVec.ofNat 64 (p + j)).toNat
    drawBits c.vec.rngkey l c.vec.rngstep.toNat k g
  | none =>
    let key := c.vec.rngkey ^^^ BitVec.ofNat 64 (x.cid * 2 ^ 40)
    drawBits key j (c.vec.rngstep.toNat + x.iter) k g

/-- The rounding of element `j` of a result of type `dt` (R98). -/
def Core.rndAt (c : Core) (x : PerfCtx) (k : VCtl) (dt : EType) (j : Nat) : Rnd :=
  if k.sr then
    let w := dt.srWidth
    .sr (c.draw x (some (x.slots.get 0)) j w (64 / w)) w
  else c.rnd k.rm

/-! ## Arithmetic (R158 to R160) -/

/-- An exact integer written into a field of `w` bits (R83, R159). -/
def intWrite (w : Nat) (sat : Bool) (z : Int) : Nat :=
  ofSigned w (if sat then clampInt (intMin w) (intMax w) z else z)

/-- A two-operand arithmetic instruction: the integer function, and the floating-point one by rounding. -/
def Core.arith2 (c : Core) (x : PerfCtx) (o : VVV) (fi : Int → Int → Int)
    (ff : Rnd → FVal → FVal → FVal × Flags) : PerfRes :=
  let t := o.k.et
  let a := (c.rdV o.a).elems t
  let b := (c.rdV o.b).elems t
  c.mapV o.k o.d fun j =>
    if t.isInt then
      (intWrite t.width o.k.sat (fi (toSigned t.width (at0 a j)) (toSigned t.width (at0 b j))), 0)
    else
      let r := c.rndAt x o.k t j
      let (y, f1) := ff r (t.read (at0 a j)) (t.read (at0 b j))
      let (z, f2) := t.write r o.k.sat y
      (z, f1 ||| f2)

/-- The fused forms: ±(a · b) ± c with one rounding (R158, R160). -/
def Core.arith3 (c : Core) (x : PerfCtx) (o : VVVV) (negP negC : Bool) : PerfRes :=
  let t := o.k.et
  let a := (c.rdV o.a).elems t
  let b := (c.rdV o.b).elems t
  let e := (c.rdV o.c).elems t
  c.mapV o.k o.d fun j =>
    if t.isInt then
      let p := toSigned t.width (at0 a j) * toSigned t.width (at0 b j)
      let q := toSigned t.width (at0 e j)
      (intWrite t.width o.k.sat ((if negP then -p else p) + (if negC then -q else q)), 0)
    else
      let r := c.rndAt x o.k t j
      let (p, f1) := fMul (t.read (at0 a j)) (t.read (at0 b j))
      let q := t.read (at0 e j)
      let (y, f2) := fAdd r.isDown (if negP then p.neg else p) (if negC then q.neg else q)
      let (z, f3) := t.write r o.k.sat y
      (z, f1 ||| f2 ||| f3)

/-- `vdiv` on integers: toward zero, all ones for a zero divisor (R159). -/
def intDiv (a b : Int) : Int := if b == 0 then -1 else Int.tdiv a b

/-- `vmin`, `vmax` (R159, R160, R121). -/
def Core.minMaxV (c : Core) (o : VVV) (isMax : Bool) : PerfRes :=
  let t := o.k.et
  let a := (c.rdV o.a).elems t
  let b := (c.rdV o.b).elems t
  c.mapV o.k o.d fun j =>
    if t.isInt then
      let p := toSigned t.width (at0 a j)
      let q := toSigned t.width (at0 b j)
      (ofSigned t.width (if isMax then max p q else min p q), 0)
    else
      let (y, f) := fMinMax isMax true (t.read (at0 a j)) (t.read (at0 b j))
      ((t.write .rne o.k.sat y).1, f)

/-- `vclamp` (R158 to R160). -/
def Core.clampV (c : Core) (o : VVVV) : PerfRes :=
  let t := o.k.et
  let a := (c.rdV o.a).elems t
  let b := (c.rdV o.b).elems t
  let e := (c.rdV o.c).elems t
  c.mapV o.k o.d fun j =>
    if t.isInt then
      let p := toSigned t.width (at0 a j)
      let q := toSigned t.width (at0 b j)
      let r := toSigned t.width (at0 e j)
      (ofSigned t.width (min (max p q) r), 0)
    else
      let (y, f1) := fMinMax true true (t.read (at0 a j)) (t.read (at0 b j))
      let (z, f2) := fMinMax false true y (t.read (at0 e j))
      ((t.write .rne false z).1, f1 ||| f2)

/-- `vabs`, `vneg`: integers exactly, floating-point types on the sign bit alone (R159, R160). -/
def Core.signV (c : Core) (o : VV) (neg : Bool) : PerfRes :=
  let t := o.k.et
  let a := (c.rdV o.a).elems t
  c.mapV o.k o.d fun j =>
    if t.isInt then
      let p := toSigned t.width (at0 a j)
      (intWrite t.width o.k.sat (if neg then -p else (p.natAbs : Int)), 0)
    else
      let s := 2 ^ (t.width - 1)
      let y := at0 a j
      (if neg then (if y / s % 2 == 1 then y - s else y + s) else y % s, 0)

def Core.sqrtV (c : Core) (x : PerfCtx) (o : VV) : PerfRes :=
  let t := o.k.et
  let a := (c.rdV o.a).elems t
  c.mapV o.k o.d fun j =>
    let (y, f1) := fSqrt (t.read (at0 a j))
    let (z, f2) := t.write (c.rndAt x o.k t j) o.k.sat y
    (z, f1 ||| f2)

/-- A function of one or two elements' bit patterns. -/
def Core.bits2 (c : Core) (o : VVV) (f : Nat → Nat → Nat → Nat) : PerfRes :=
  let t := o.k.et
  let a := (c.rdV o.a).elems t
  let b := (c.rdV o.b).elems t
  c.mapV o.k o.d fun j => (f t.width (at0 a j) (at0 b j) % 2 ^ t.width, 0)

def Core.bits1 (c : Core) (o : VV) (f : Nat → Nat → Nat) : PerfRes :=
  let t := o.k.et
  let a := (c.rdV o.a).elems t
  c.mapV o.k o.d fun j => (f t.width (at0 a j) % 2 ^ t.width, 0)

def Core.bitsN (c : Core) (o : VVn) (f : Nat → Nat → Nat → Nat) : PerfRes :=
  let t := o.k.et
  let a := (c.rdV o.a).elems t
  c.mapV o.k o.d fun j => (f t.width (at0 a j) o.n.val % 2 ^ t.width, 0)

def shlBits (_w a s : Nat) : Nat := a * 2 ^ s
def shrBits (_w a s : Nat) : Nat := a / 2 ^ s
def sraBits (w a s : Nat) : Nat := ofSigned w (toSigned w a / (2 ^ s : Nat))
def popBits (w a : Nat) : Nat := ((List.range w).map fun i => a / 2 ^ i % 2).foldl (· + ·) 0
def clzBits (w a : Nat) : Nat := if a == 0 then w else w - 1 - Nat.log2 a

/-! ## Compares (R162) -/

inductive CmpKind where
  | eq | ne | lt | le | un
deriving DecidableEq, Repr

/-- A comparison of two values with its NV (R123, R162). -/
def fCompare (k : CmpKind) (a b : FVal) : Bool × Flags :=
  let nan := a.isNaN || b.isNaN
  let s := a.isSNaN || b.isSNaN
  match k with
  | .eq => (!nan && a.cmp b == .eq, flagIf s flagNV)
  | .ne => (nan || a.cmp b != .eq, flagIf s flagNV)
  | .lt => (!nan && a.cmp b == .lt, flagIf nan flagNV)
  | .le => (!nan && a.cmp b != .gt, flagIf nan flagNV)
  | .un => (nan, flagIf s flagNV)

def iCompare (k : CmpKind) (a b : Int) : Bool :=
  match k with
  | .eq => a == b
  | .ne => a != b
  | .lt => decide (a < b)
  | .le => decide (a ≤ b)
  | .un => false

/-- The mask with bits 0 to n − 1 replaced where enabled. -/
def maskUpdate (old q : BitVec 128) (n : Nat) (f : Nat → Bool) : BitVec 128 :=
  BitVec.ofNat 128 (((List.range 128).map fun j =>
    if (if j < n && maskBit q j then f j else maskBit old j) then 2 ^ j else 0).foldl (· + ·) 0)

def Core.compareV (c : Core) (o : QVV) (k : CmpKind) : PerfRes :=
  let t := o.k.et
  let a := (c.rdV o.a).elems t
  let b := (c.rdV o.b).elems t
  let q := c.rdQ o.k.q
  let res := (List.range t.count).map fun j =>
    if t.isInt then (iCompare k (toSigned t.width (at0 a j)) (toSigned t.width (at0 b j)), (0 : Flags))
    else fCompare k (t.read (at0 a j)) (t.read (at0 b j))
  let fls := res.zipIdx.map fun (r, j) => if maskBit q j then r.2 else 0
  c.commit (orAll fls) (laneMask c.fpEnables fls) fun c =>
    c.wrQ o.d (maskUpdate (c.rdQ o.d) q t.count fun j => (res.getD j (false, 0)).1)

/-! ## Moves and conversion (R157, R164) -/

/-- The index that `vslide` reads for element `j`. -/
def slideIdx (n : Nat) (s : Word) (j : Nat) : Option Nat :=
  let i : Int := (j : Int) + s.toInt
  if 0 ≤ i && i < n then some i.toNat else none

def Core.cvtV (c : Core) (x : PerfCtx) (o : VCvt) : PerfRes :=
  let st := o.k.et
  let dt := o.dt
  let a := (c.rdV o.a).elems st
  let q := c.rdQ o.k.q
  let m := min st.count dt.count
  let r := ((c.rdV o.d).elems dt).zipIdx.map fun (old, j) =>
    if m ≤ j then (0, (0 : Flags))
    else if maskBit q j then convertElem st dt (c.rndAt x o.k dt j) o.k.sat (at0 a j)
    else (old, 0)
  c.commitV o.d dt r

/-! ## Reductions (R165) -/

/-- The accumulator of a floating-point reduction. -/
def redAcc (t : EType) : EType := if t == .fp64 then .fp64 else .fp32

/-- The bits of an FP64 register that hold a value exactly (R18). -/
def fp64Bits (v : FVal) : Word := BitVec.ofNat 64 (fp64Fmt.encode v)

/-- The value of a reduction, as 64 bits, and its flags; `b` is the second source of `vdot`. -/
def Core.reduceSum (c : Core) (k : VCtl) (a : List Nat) (b : Option (List Nat)) : Word × Flags :=
  let t := k.et
  let q := c.rdQ k.q
  if t.isInt then
    let z := ((List.range t.count).map fun j =>
      if maskBit q j then
        let x := toSigned t.width (at0 a j)
        match b with
        | none => x
        | some b => x * toSigned t.width (at0 b j)
      else 0).foldl (· + ·) (0 : Int)
    (BitVec.ofInt 64 z, 0)
  else
    let leaves := (List.range t.count).map fun j =>
      if maskBit q j then
        (t.read (at0 a j), match b with | none => FVal.zero | some b => t.read (at0 b j))
      else (FVal.zero, FVal.zero)
    let lv := match b with | none => .noProduct | some _ => level1Of t t
    let (v, f) := treeSum lv (redAcc t) (c.rnd k.rm) .zero leaves
    (fp64Bits v, f)

def Core.reduceMinMax (c : Core) (k : VCtl) (a : List Nat) (isMax : Bool) : Word × Flags :=
  let t := k.et
  let q := c.rdQ k.q
  let live := ((List.range t.count).filter fun j => maskBit q j).map fun j => at0 a j
  if t.isInt then
    let xs := live.map (toSigned t.width)
    let z := xs.foldl (fun (m : Option Int) y =>
      match m with
      | none => some y
      | some m => some (if isMax then max m y else min m y)) none
    (BitVec.ofInt 64 (z.getD (if isMax then -(2 ^ 63 : Nat) else (2 ^ 63 : Nat) - 1)), 0)
  else
    let (v, f) := (live.map t.read).foldl (fun (s : Option FVal × Flags) y =>
      match s.1 with
      | none => (some y, s.2 ||| flagIf y.isSNaN flagNV)
      | some m =>
        let (r, f) := fMinMax isMax true m y
        (some r, s.2 ||| f)) (none, 0)
    (fp64Bits (v.getD (.nan false)), f)

def Core.wrScalar (c : Core) (d : ScalarDst) (x : Word) : Core :=
  match d with
  | .s r => c.wrS r x
  | .f r => c.wrF r x

/-! ## Block scales (R166 to R169) -/

def VecReg.setScale (r : VecReg) (k : Slot) (x : BitVec 20) : VecReg := { r with scales := r.scales.set k x }

/-- The elements and scales that quantising these source values gives: `n` elements in blocks of 32,
under the predicate (R88, R167). -/
def quantise (dt : EType) (q : BitVec 128) (src : Nat → FVal) (old : List Nat) (rnd : Nat → Rnd)
    (keepNaN : Nat → Bool) : List (Nat × Flags) × List (BitVec 20) :=
  let blocks := dt.count / 32
  let scales := (List.range blocks).map fun b =>
    if keepNaN b then 0xFF000#20  -- M = 0, whatever the kept scale held (DEDUCED, log entry 60)
    else
      chooseScale dt (((List.range 32).filter fun i => maskBit q (32 * b + i)).map fun i => src (32 * b + i))
  let elems := old.zipIdx.map fun (o, j) =>
    if maskBit q j then
      let s := scales.getD (j / 32) 0
      match Scale.ofBits s with
      | .val _ _ => dt.write (rnd j) true (unscale s (src j))
      | _ => (0, flagIf (!keepNaN (j / 32) && (src j).isSNaN) flagNV)
    else (o, 0)
  (elems, scales)

/-- Write quantised elements with their scales. -/
def Core.wrQuant (c : Core) (d : VReg) (dt : EType) (xs : List Nat) (scales : List (BitVec 20)) : Core :=
  let c := c.wrElems d dt xs
  scales.zipIdx.foldl (fun c (s, b) => c.wrV d ((c.rdV d).setScale (Fin.ofNat 4 b) s)) c

def Core.quantV (c : Core) (x : PerfCtx) (o : VV) : PerfRes :=
  let dt := o.k.et
  let q := c.rdQ o.k.q
  let src (j : Nat) : FVal := EType.bf16.read (at0 ((c.rdV (vecAt o.a (j / 32))).elems .bf16) (j % 32))
  let (r, scales) := quantise dt q src ((c.rdV o.d).elems dt) (fun j => c.rndAt x o.k dt j) fun _ => false
  c.commit (orAll (r.map (·.2))) (predMask q dt.count) fun c => c.wrQuant o.d dt (r.map (·.1)) scales

def Core.renormV (c : Core) (o : VV) : PerfRes :=
  let t := o.k.et
  let q := c.rdQ o.k.q
  let a := (c.rdV o.a).elems t
  let sc (b : Nat) : Scale := Scale.ofBits ((c.rdV o.a).scales.get (Fin.ofNat 4 b))
  let val (j : Nat) : FVal × Flags := scaled (sc (j / 32)) (t.read (at0 a j))
  let isNaN (b : Nat) : Bool := sc b == .nan
  let (r, scales) := quantise t q (fun j => (val j).1) ((c.rdV o.d).elems t) (fun _ => c.rnd o.k.rm) isNaN
  let fls := r.zipIdx.map fun (y, j) => y.2 ||| (if maskBit q j then (val j).2 else 0)
  c.commit (orAll fls) (predMask q t.count) fun c => c.wrQuant o.d t (r.map (·.1)) scales

def Core.deqV (c : Core) (o : VV) : PerfRes :=
  let st := o.k.et
  let q := c.rdQ o.k.q
  let a := (c.rdV o.a).elems st
  let groups := st.count / 32
  let blocks := (List.range groups).map fun b =>
    let d := vecAt o.d b
    let s := Scale.ofBits ((c.rdV o.a).scales.get (Fin.ofNat 4 b))
    ((c.rdV d).elems .bf16).zipIdx.map fun (old, i) =>
      if maskBit q (32 * b + i) then
        let (y, f1) := scaled s (st.read (at0 a (32 * b + i)))
        let (z, f2) := EType.bf16.write (c.rnd o.k.rm) false y
        (z, f1 ||| f2)
      else (old, 0)
  let fls := (blocks.map fun b => b.map (·.2)).flatten
  c.commit (orAll fls) (laneMask c.fpEnables fls) fun c =>
    blocks.zipIdx.foldl (fun c (r, b) => c.wrElems (vecAt o.d b) .bf16 (r.map (·.1))) c

/-! ## Random fill and dropout (R174 to R176) -/

/-- The slot that OPC 0x2C names: 0 to 3, or none for lane mode. -/
def rngSlot (x : PerfCtx) (n : Fin 5) : Option SlotState :=
  if h : n.val < 4 then some (x.slots.get ⟨n.val, h⟩) else none

/-- Element `j` lies beyond the record of a slot in logical mode (R174). -/
def rngTail (slot : Option SlotState) (j : Nat) : Bool :=
  match slot.bind logicalSlot with
  | some (r, p) => decide (r.total ≤ p + j)
  | none => false

def Core.rngV (c : Core) (x : PerfCtx) (o : VRngOp) : PerfRes :=
  let w := o.k.et.width
  let slot := rngSlot x o.n
  c.mapV o.k o.d fun j => (if rngTail slot j then 0 else c.draw x slot j w (64 / w), 0)

def Core.rnguV (c : Core) (x : PerfCtx) (o : VRngOp) : PerfRes :=
  let t := o.k.et
  let w := if t == .fp64 then 64 else 32
  let slot := rngSlot x o.n
  c.mapV o.k o.d fun j =>
    (if rngTail slot j then 0
     else (t.write .rtz false (.fin false (c.draw x slot j w (64 / w)) (-(w : Int)))).1, 0)

def Core.dropV (c : Core) (x : PerfCtx) (o : VDropOp) (sb : Word) : PerfRes :=
  let t := o.k.et
  let a := (c.rdV o.a).elems t
  let p := fp32Fmt.decode (sb.toNat % 2 ^ 32)
  let slot := rngSlot x o.n
  c.mapV o.k o.d fun j =>
    if p.isNaN || p.isZero || p.sign then (0, 0)
    else if p.cmp (.fin false 1 0) != .lt then (at0 a j, 0)
    else
      let u := c.draw x slot j 32 2
      if (FVal.fin false u (-32)).cmp p == .lt then
        let (y, f1) := fDiv (t.read (at0 a j)) p
        let (z, f2) := t.write .rne false y
        (z, f1 ||| f2)
      else (0, 0)

/-! ## Vector memory (R147, R151, R154 to R156) -/

/-- The locations of a slot access: none for a tail element (R147). -/
def slotLocs (s : SlotState) : List (Option ElemLoc) :=
  match s.bound with
  | none => []
  | some r => (List.range r.et.count).map fun j => if s.p + j < r.total then some (r.loc (s.p + j)) else none

/-- The locations of `vld.b` and `vst.b` in iteration `i` (R151). -/
def baseLocs (t : EType) (a b : Word) (i : Nat) : List (Option ElemLoc) :=
  (List.range t.count).map fun j =>
    match t.width with
    | 4 => some ⟨(a + BitVec.ofNat 64 i * b + BitVec.ofNat 64 (j / 2)).toNat, 1, j % 2 * 4⟩
    | 6 => some ⟨(a + BitVec.ofNat 64 i * b + BitVec.ofNat 64 (3 * (j / 4))).toNat, 3, j % 4 * 6⟩
    | w => some ⟨(a + BitVec.ofNat 64 (i * t.count + j) * b).toNat, w / 8, 0⟩

/-- The location of `vlds`: one element for all lanes. -/
def bcastLoc (t : EType) (a : Word) : ElemLoc := ⟨a.toNat, t.width / 8, 0⟩

/-- The index words of a gather or scatter: 32 bits, every second one for 64-bit types (R156). -/
def gatherIdx (t : EType) (b : VecReg) (j : Nat) : Nat :=
  elemAt b.bits.toNat 32 (if t.width == 64 then 2 * j else j)

def gatherLocs (t : EType) (a : Word) (b : VecReg) : List (Option ElemLoc) :=
  (List.range t.count).map fun j =>
    some ⟨(a + BitVec.ofNat 64 (gatherIdx t b j * (t.width / 8))).toNat, t.width / 8, 0⟩

/-- The scale words of a slot access: for each block with a non-tail position, the word's address (R155). -/
def scaleAddrs (s : SlotState) : List (Nat × Nat) :=
  match s.bound with
  | none => []
  | some r =>
    if r.table then
      (List.range ((r.et.count + 31) / 32)).filterMap fun b =>
        if s.p + 32 * b < r.total then some (b, r.scalebase.toNat + 4 * ((s.p + 32 * b) / 32)) else none
    else []

/-- The first granule with an error among accesses of `(address, bytes)`. -/
def Core.firstBad (c : Core) (accs : List (Nat × Nat)) : Option Nat := accs.findSome? fun (a, n) => c.badIn a n

/-! ## Accesses one after another (R140, R247) -/

/-- How many of the `left` accesses the next step performs: at least one, and else a free value. -/
def PerfCtx.next (x : PerfCtx) (left : Nat) : Nat := left - x.free % left

/-- The accesses of a memory instruction in their order: an element with its location, or a block's scale word. -/
inductive MemItem where
  | elem (j : Nat) (l : ElemLoc)
  | scale (b : Nat) (a : Nat)
deriving DecidableEq, Repr

/-- The bytes that an access touches. -/
def MemItem.range : MemItem → Nat × Nat
  | .elem _ l => (l.addr, l.bytes)
  | .scale _ a => (a, 4)

/-- The accesses of a load or store: the enabled elements that are no tail, each block's scale word before its elements
(R149). -/
def memItems (q : BitVec 128) (locs : List (Option ElemLoc)) (scales : List (Nat × Nat)) : List MemItem :=
  locs.zipIdx.flatMap fun (l, j) =>
    (if j % 32 == 0 then (scales.filter fun s => s.1 == j / 32).map fun s => .scale s.1 s.2 else []) ++
    (if maskBit q j then (l.map (.elem j)).toList else [])

/-- Read an access. -/
def Core.readItem (c : Core) (w : Nat) : MemItem → Nat
  | .elem _ l => c.readLoc l w
  | .scale _ a => c.loadN a 4

/-- The value that a load read for element `j`. -/
def itemElem (xs : List (MemItem × Nat)) (j : Nat) : Nat :=
  (xs.findSome? fun (i, x) =>
    match i with
    | .elem k _ => if k == j then some x else none
    | .scale _ _ => none).getD 0

/-- Read the next accesses of a load, and write what they and the earlier ones read when they are the last. -/
def Core.readNext (c : Core) (x : PerfCtx) (w : Nat) (items : List MemItem)
    (write : List (MemItem × Nat) → Core) : PerfRes :=
  let k := x.part.count + x.next (items.length - x.part.count)
  let now := (items.take k).drop x.part.count
  match c.firstBad (now.map MemItem.range) with
  | some g => .ecc g
  | none =>
    let vals := x.part.vals ++ now.map (c.readItem w)
    if k < items.length then .more c ⟨k, vals⟩ else .done (write (items.zip vals))

/-- Perform the next accesses of a store, each by `put`; a piece smaller than a granule may not merge into a bad
granule (R116). -/
def Core.storeNext (c : Core) (x : PerfCtx) (items : List MemItem) (put : Core → MemItem → Core) : PerfRes :=
  let left := items.drop x.part.count
  match c.firstBad ((left.map MemItem.range).filter fun a => c.mergesBad a.1 a.2) with
  | some g => .ecc g
  | none =>
    let k := x.next left.length
    let c' := (left.take k).foldl put c
    if k < left.length then .more c' ⟨x.part.count + k, []⟩ else .done c'

/-- A vector load from locations: tail elements read +0, scales go into the sidecar. -/
def Core.loadV (c : Core) (x : PerfCtx) (k : VMemCtl) (d : VReg) (locs : List (Option ElemLoc))
    (scales : List (Nat × Nat)) : PerfRes :=
  let q := c.rdQ k.q
  c.readNext x k.et.width (memItems q locs scales) fun xs =>
    let r := lanes q ((c.rdV d).elems k.et) fun j => (itemElem xs j, 0)
    xs.foldl (fun c' (i, x) =>
      match i with
      | .elem _ _ => c'
      | .scale b _ => c'.wrV d ((c'.rdV d).setScale (Fin.ofNat 4 b) (BitVec.ofNat 20 x)))
      (c.wrElems d k.et (r.map (·.1)))

/-- `vlds`: one element is read, and every enabled element takes it (R60, R154). -/
def Core.loadOne (c : Core) (x : PerfCtx) (k : VMemCtl) (d : VReg) (a : Word) : PerfRes :=
  let q := c.rdQ k.q
  let items : List MemItem := if (List.range k.et.count).any (maskBit q) then [.elem 0 (bcastLoc k.et a)] else []
  c.readNext x k.et.width items fun xs =>
    c.wrElems d k.et ((lanes q ((c.rdV d).elems k.et) fun _ => (itemElem xs 0, 0)).map (·.1))

/-- A vector store to locations, its scale words from the sidecar. -/
def Core.storeV (c : Core) (x : PerfCtx) (k : VMemCtl) (d : VReg) (locs : List (Option ElemLoc))
    (scales : List (Nat × Nat)) : PerfRes :=
  let xs := (c.rdV d).elems k.et
  c.storeNext x (memItems (c.rdQ k.q) locs scales) fun c' i =>
    match i with
    | .elem j l => c'.writeLoc l k.et.width (at0 xs j)
    | .scale b a => c'.storeN a 4 ((c.rdV d).scales.get (Fin.ofNat 4 b)).toNat

/-! ## One instruction -/

def Core.sfuV (c : Core) (fn : SfuFn) (o : VV) : PerfRes :=
  let t := o.k.et
  let f := t.fmt?.getD fp64Fmt
  let a := (c.rdV o.a).elems t
  c.mapV o.k o.d fun j =>
    let (y, fl) := sfuEval fn f (f.decode (at0 a j))
    (f.encode y, fl)

/-- The SFU function of an instruction, if it is one (R170). -/
def sfuOp : Instr → Option (SfuFn × VV)
  | .vexp2 o => some (.exp2, o)
  | .vlog2 o => some (.log2, o)
  | .vrcp o => some (.rcp, o)
  | .vrsqrt o => some (.rsqrt, o)
  | .vsin o => some (.sin, o)
  | .vcos o => some (.cos, o)
  | .vtanh o => some (.tanh, o)
  | .vsigm o => some (.sigm, o)
  | .verf o => some (.erf, o)
  | _ => none

/-- Perform a vector instruction of the sequencer (R137). The instructions that complete in the scalar
pipeline and the steps never reach it. -/
def Core.performVec (c : Core) (x : PerfCtx) (op : SeqOp) : PerfRes :=
  match op.ins with
  | .vld o => c.loadV x o.k o.d (slotLocs (x.slots.get o.slot)) (scaleAddrs (x.slots.get o.slot))
  | .vst o => c.storeV x o.k o.d (slotLocs (x.slots.get o.slot)) (scaleAddrs (x.slots.get o.slot))
  | .vldB o => c.loadV x o.k o.d (baseLocs o.k.et op.sa op.sb x.iter) []
  | .vstB o => c.storeV x o.k o.d (baseLocs o.k.et op.sa op.sb x.iter) []
  | .vlds o => c.loadOne x o.k o.d op.sa
  | .vgather o => c.loadV x o.k o.d (gatherLocs o.k.et op.sa (c.rdV o.b)) []
  | .vscatter o => c.storeV x o.k o.d (gatherLocs o.k.et op.sa (c.rdV o.b)) []
  | .vmov o => .done (c.wrV o.d (c.rdV o.a))
  | .vbcs o => c.mapV o.k o.d fun _ => (op.sa.toNat % 2 ^ o.k.et.width, 0)
  | .vbcf o => c.mapV o.k o.d fun _ => o.k.et.write (c.rnd o.k.rm) false (fp64Fmt.decode op.fa.toNat)
  | .vsel o =>
    let t := o.k.et
    let q := c.rdQ o.k.q
    let a := (c.rdV o.a).elems t
    let b := (c.rdV o.b).elems t
    .done (c.wrElems o.d t ((List.range t.count).map fun j => if maskBit q j then at0 a j else at0 b j))
  | .vslide o =>
    let a := (c.rdV o.a).elems o.k.et
    c.mapV o.k o.d fun j => (((slideIdx o.k.et.count op.sb j).map (at0 a)).getD 0, 0)
  | .vperm o =>
    let a := (c.rdV o.a).elems o.k.et
    let b := (c.rdV o.b).elems o.k.et
    c.mapV o.k o.d fun j => (at0 a (at0 b j % o.k.et.count), 0)
  | .vpack o =>
    let a := (c.rdV o.a).elems o.k.et
    let b := (c.rdV o.b).elems o.k.et
    c.mapV o.k o.d fun j => (if j % 2 == 0 then at0 a (j / 2) else at0 b (j / 2), 0)
  | .vunpack o =>
    let a := (c.rdV o.a).elems o.k.et
    let b := (c.rdV o.b).elems o.k.et
    let h := o.k.et.count / 2
    c.mapV o.k o.d fun j => (if j < h then at0 a (2 * j) else at0 b (2 * (j - h)), 0)
  | .vadd o => c.arith2 x o (· + ·) fun r a b => fAdd r.isDown a b
  | .vsub o => c.arith2 x o (· - ·) fun r a b => fAdd r.isDown a b.neg
  | .vmul o => c.arith2 x o (· * ·) fun _ a b => fMul a b
  | .vmulh o =>
    c.arith2 x o (fun a b => a * b / (2 ^ o.k.et.width : Nat)) fun _ a b => fMul a b
  | .vdiv o => c.arith2 x o intDiv fun _ a b => fDiv a b
  | .vsqrt o => c.sqrtV x o
  | .vmin o => c.minMaxV o false
  | .vmax o => c.minMaxV o true
  | .vabs o => c.signV o false
  | .vneg o => c.signV o true
  | .vfma o => c.arith3 x o false false
  | .vfms o => c.arith3 x o false true
  | .vfnma o => c.arith3 x o true true
  | .vclamp o => c.clampV o
  | .vadds o => c.arith2 x { o with k := { o.k with sat := true } } (· + ·) fun r a b => fAdd r.isDown a b
  | .vsubs o => c.arith2 x { o with k := { o.k with sat := true } } (· - ·) fun r a b => fAdd r.isDown a b.neg
  | .vand o => c.bits2 o fun _ a b => a &&& b
  | .vor o => c.bits2 o fun _ a b => a ||| b
  | .vxor o => c.bits2 o fun _ a b => a ^^^ b
  | .vnot o => c.bits1 o fun w a => 2 ^ w - 1 - a
  | .vshl o => c.bits2 o fun w a b => shlBits w a (b % w)
  | .vshr o => c.bits2 o fun w a b => shrBits w a (b % w)
  | .vsra o => c.bits2 o fun w a b => sraBits w a (b % w)
  | .vshli o => c.bitsN o shlBits
  | .vshri o => c.bitsN o shrBits
  | .vsrai o => c.bitsN o sraBits
  | .vpopc o => c.bits1 o popBits
  | .vclz o => c.bits1 o clzBits
  | .vceq o => c.compareV o .eq
  | .vcne o => c.compareV o .ne
  | .vclt o => c.compareV o .lt
  | .vcle o => c.compareV o .le
  | .vcun o => c.compareV o .un
  | .qand o => .done (c.wrQ o.d (c.rdQ o.a &&& c.rdQ o.b))
  | .qor o => .done (c.wrQ o.d (c.rdQ o.a ||| c.rdQ o.b))
  | .qxor o => .done (c.wrQ o.d (c.rdQ o.a ^^^ c.rdQ o.b))
  | .qnot o => .done (c.wrQ o.d (~~~(c.rdQ o.a)))
  | .qset o => .done (c.wrQ o.d (BitVec.ofNat 128 (op.sa.toNat + op.sb.toNat * 2 ^ 64)))
  | .vcvt o => c.cvtV x o
  | .vsclset o => .done (c.wrV o.d ((c.rdV o.d).setScale o.slot (BitVec.ofNat 20 op.sa.toNat)))
  | .vrenorm o => c.renormV o
  | .vdeq o => c.deqV o
  | .vquant o => c.quantV x o
  | .vexp2 o => c.sfuV .exp2 o
  | .vlog2 o => c.sfuV .log2 o
  | .vrcp o => c.sfuV .rcp o
  | .vrsqrt o => c.sfuV .rsqrt o
  | .vsin o => c.sfuV .sin o
  | .vcos o => c.sfuV .cos o
  | .vtanh o => c.sfuV .tanh o
  | .vsigm o => c.sfuV .sigm o
  | .verf o => c.sfuV .erf o
  | .vrng o => c.rngV x o
  | .vrngu o => c.rnguV x o
  | .vdrop o => c.dropV x o op.sb
  | _ => .done c

end Sys2Proof.Machine
end

