-- ==== Sys2Proof/Machine/VecIssue.lean ====
section
/-! DEFINITION. Issue of vector instructions to the sequencer (R137 to R152): operand capture, slot checks,
the access set with its bounds check, iterators, and loops. -/

namespace Sys2Proof.Machine

/-- The first 64 bits of an instruction (R67). -/
def word64 (i : Instr) : Word := BitVec.ofNat 64 (((encode i).map (·.2)).getD 0)

/-- The length of an instruction in bytes (R14). -/
def lenOf (i : Instr) : Nat := ((encode i).map (·.1)).getD 8

/-- An `ILLEGAL` trap whose value is the first 64 bits of the instruction. -/
def illegalOf (i : Instr) : Trap := ⟨causeIllegal, word64 i⟩

/-- The capacity of the sequencer (R137). -/
def seqCap : Nat := 16

def Core.seqFull (c : Core) : Bool := decide (seqCap ≤ c.vec.seq.length)
def Core.seqEmpty (c : Core) : Bool := c.vec.seq.isEmpty

/-! ## Operands read at issue (R138) -/

/-- A sequencer instruction with its `s` and `f` operands as they are now. -/
def Core.capture (c : Core) (i : Instr) (pc : Word) : SeqOp :=
  let op : SeqOp := ⟨i, pc, 0, 0, 0, none⟩
  match i with
  | .vldB o | .vstB o => { op with sa := c.rdS o.a, sb := c.rdS o.b }
  | .vlds o => { op with sa := c.rdS o.a }
  | .vgather o | .vscatter o => { op with sa := c.rdS o.a }
  | .vbcs o => { op with sa := c.rdS o.a }
  | .vbcf o => { op with fa := c.rdF o.a }
  | .vslide o => { op with sb := c.rdS o.b }
  | .qset o => { op with sa := c.rdS o.a, sb := c.rdS o.b }
  | .vsclset o => { op with sa := c.rdS o.a }
  | .vdrop o => { op with sb := c.rdS o.b }
  | _ => op

/-! ## Slot checks (R154, R174) -/

def unbound (slots : Vector SlotState 4) (n : Fin 5) : Bool :=
  if h : n.val < 4 then (slots.get ⟨n.val, h⟩).bound.isNone else false

/-- The slot form names a bound slot of its own type. -/
def slotOk (slots : Vector SlotState 4) (n : Slot) (t : EType) : Bool :=
  match (slots.get n).bound with
  | some r => r.et == t
  | none => false

/-- The slot check of an instruction. -/
def slotTrap (slots : Vector SlotState 4) (i : Instr) : Option Trap :=
  let bad : Bool :=
    match i with
    | .vld o | .vst o => !slotOk slots o.slot o.k.et
    | .vrng o | .vrngu o => unbound slots o.n
    | .vdrop o => unbound slots o.n
    | _ => false
  if bad then some (illegalOf i) else none

/-! ## The access set (R149) -/

/-- One access: its address, its bytes and the alignment it needs. -/
structure Access where
  addr : Nat
  bytes : Nat
  align : Nat
deriving DecidableEq, Repr

/-- The accesses of all elements in order, each block's scale word before its elements (R149). -/
def accessSet (t : EType) (locs : List (Option ElemLoc)) (scales : List (Nat × Nat)) : List Access :=
  let al := if t.width < 8 then 1 else t.width / 8
  locs.zipIdx.flatMap fun (l, j) =>
    (if j % 32 == 0 then (scales.filter fun s => s.1 == j / 32).map fun s => ⟨s.2, 4, 4⟩ else []) ++
    (match l with
     | some l => [⟨l.addr, l.bytes, al⟩]
     | none => [])

/-- The failure of one access under R12, R13 and the alignment rule. -/
def Core.accessTrap (c : Core) (store : Bool) (a : Access) : Option Trap :=
  if !c.okAccess a.addr a.bytes then
    some ⟨if store then causeStBounds else causeLdBounds, BitVec.ofNat 64 a.addr⟩
  else if a.addr % a.align != 0 then some ⟨causeMisalign, BitVec.ofNat 64 a.addr⟩
  else none

/-- The elements that the predicate enables, of a gather or scatter (R156). -/
def enabledLocs (q : BitVec 128) (locs : List (Option ElemLoc)) : List (Option ElemLoc) :=
  locs.zipIdx.map fun (l, j) => if maskBit q j then l else none

/-- The access set of an instruction in iteration `i`, and whether it stores. -/
def Core.accesses (c : Core) (slots : Vector SlotState 4) (i : Nat) (op : SeqOp) : Bool × List Access :=
  match op.ins with
  | .vld o => (false, accessSet o.k.et (slotLocs (slots.get o.slot)) (scaleAddrs (slots.get o.slot)))
  | .vst o => (true, accessSet o.k.et (slotLocs (slots.get o.slot)) (scaleAddrs (slots.get o.slot)))
  | .vldB o => (false, accessSet o.k.et (baseLocs o.k.et op.sa op.sb i) [])
  | .vstB o => (true, accessSet o.k.et (baseLocs o.k.et op.sa op.sb i) [])
  | .vlds o => (false, accessSet o.k.et [some (bcastLoc o.k.et op.sa)] [])
  | .vgather o =>
    (false, accessSet o.k.et (enabledLocs (c.rdQ o.k.q) (gatherLocs o.k.et op.sa (c.rdV o.b))) [])
  | .vscatter o =>
    (true, accessSet o.k.et (enabledLocs (c.rdQ o.k.q) (gatherLocs o.k.et op.sa (c.rdV o.b))) [])
  | _ => (false, [])

/-- The first failing access of one instruction. -/
def Core.boundsTrap (c : Core) (slots : Vector SlotState 4) (i : Nat) (op : SeqOp) : Option Trap :=
  let (store, accs) := c.accesses slots i op
  accs.findSome? (c.accessTrap store)

/-- The slots after an instruction's access (R147). -/
def advanceSlots (slots : Vector SlotState 4) (i : Instr) : Vector SlotState 4 :=
  match i with
  | .vld o | .vst o => slots.set o.slot ((slots.get o.slot).advance o.k.et.count)
  | _ => slots

/-! ## Issue -/

/-- How issue ends: the core as issue leaves it, or a trap with the `SEQPOS` that it writes. -/
inductive IssueRes where
  | ok (c : Core)
  | trap (t : Trap) (seqpos : Option Nat)
deriving DecidableEq, Repr

/-- A new entry at the end of the sequencer, and the slots as issue leaves them. -/
def Core.enqueue (c : Core) (e : SeqEntry) (slots : Vector SlotState 4) : Core :=
  { c with vec := { c.vec with seq := c.vec.seq ++ [e], slots := slots } }

/-- Issue of a single instruction of OPC 0x20 to 0x2C (R137). -/
def Core.issueVec (c : Core) (i : Instr) : IssueRes :=
  let op := c.capture i c.pc
  match slotTrap c.vec.slots i with
  | some t => .trap t none
  | none =>
    match c.boundsTrap c.vec.slots 0 op with
    | some t => .trap t (some 0)
    | none =>
      .ok (c.enqueue
        { pc := c.pc, body := [op], loop := false, n := 1, iter := 0, pos := 0, slots := c.vec.slots,
          part := Part.none, follow := none, rot := none }
        (advanceSlots c.vec.slots i))

/-! ## Loops (R150) -/

/-- The instructions of OPC 0x20 to 0x2C that a loop body may hold: all but those of R139. -/
def loopBodyOk (i : Instr) : Bool :=
  match i with
  | .vld _ | .vldB _ | .vlds _ | .vst _ | .vstB _ | .vmov _ | .vbcs _ | .vbcf _ | .vsel _ | .vslide _
  | .vperm _ | .vpack _ | .vunpack _ | .vadd _ | .vsub _ | .vmul _ | .vmulh _ | .vdiv _ | .vsqrt _
  | .vmin _ | .vmax _ | .vabs _ | .vneg _ | .vfma _ | .vfms _ | .vfnma _ | .vclamp _ | .vadds _
  | .vsubs _ | .vand _ | .vor _ | .vxor _ | .vnot _ | .vshl _ | .vshr _ | .vsra _ | .vshli _ | .vshri _
  | .vsrai _ | .vpopc _ | .vclz _ | .vceq _ | .vcne _ | .vclt _ | .vcle _ | .vcun _ | .qand _ | .qor _
  | .qxor _ | .qnot _ | .qset _ | .vcvt _ | .vsclset _ | .vrenorm _ | .vdeq _ | .vquant _ | .vexp2 _
  | .vlog2 _ | .vrcp _ | .vrsqrt _ | .vsin _ | .vcos _ | .vtanh _ | .vsigm _ | .verf _ | .vrng _
  | .vrngu _ | .vdrop _ => true
  | _ => false

/-- The WT field of an instruction of OPC 0x20 to 0x22 (R44). -/
def vecWait (i : Instr) : WaitSel :=
  match i with
  | .vld o | .vst o => o.k.wt
  | .vldB o | .vstB o => o.k.wt
  | .vlds o => o.k.wt
  | .vgather o | .vscatter o => o.k.wt
  | _ => .none

/-- One pass over the body: the checks of its slots, and the slots after it. -/
def bodySlots : List SeqOp → Vector SlotState 4 → Except Trap (Vector SlotState 4)
  | [], slots => .ok slots
  | op :: rest, slots =>
    match slotTrap slots op.ins with
    | some t => .error t
    | none => bodySlots rest (advanceSlots slots op.ins)

/-- The bounds of one iteration, and the slots after it. -/
def Core.bodyBounds (c : Core) (i : Nat) : List SeqOp → Vector SlotState 4 → Except Trap (Vector SlotState 4)
  | [], slots => .ok slots
  | op :: rest, slots =>
    match c.boundsTrap slots i op with
    | some t => .error t
    | none => Core.bodyBounds c i rest (advanceSlots slots op.ins)

/-- The bounds of `fuel` iterations from `i` (R149): the first failure with its iteration, or the slots. -/
def Core.loopBounds (c : Core) (body : List SeqOp) : Nat → Nat → Vector SlotState 4 →
    Except (Trap × Nat) (Vector SlotState 4)
  | 0, _, slots => .ok slots
  | fuel + 1, i, slots =>
    match c.bodyBounds i body slots with
    | .error t => .error (t, i)
    | .ok slots' => Core.loopBounds c body fuel (i + 1) slots'

/-- Issue of a loop of `n` iterations over a body that has passed the checks of R150. With `n` = 0 no entry is
made and no iterator moves. -/
def Core.issueLoop (c : Core) (body : List SeqOp) (n : Nat) : IssueRes :=
  match bodySlots body c.vec.slots with
  | .error t => .trap t none
  | .ok _ =>
    if n == 0 then .ok c
    else
      match c.loopBounds body n 0 c.vec.slots with
      | .error (t, i) => .trap t (some i)
      | .ok slots =>
        .ok (c.enqueue
          { pc := c.pc, body := body, loop := true, n := n, iter := 0, pos := 0, slots := c.vec.slots,
            part := Part.none, follow := none, rot := none }
          slots)

/-! ## Performance order -/

/-- The instruction that an entry performs next. -/
def SeqEntry.op? (e : SeqEntry) : Option SeqOp := e.body[e.pos]?

/-- An entry after one of its instructions has been performed; none when it is finished. -/
def SeqEntry.next (e : SeqEntry) : Option SeqEntry :=
  let slots := match e.op? with
    | some op => advanceSlots e.slots op.ins
    | none => e.slots
  let e := { e with slots := slots, part := Part.none }
  if e.pos + 1 < e.body.length then some { e with pos := e.pos + 1 }
  else if e.iter + 1 < e.n then some { e with pos := 0, iter := e.iter + 1 }
  else none

/-! ## The operand buffer (R22) -/

/-- The hold buffer after an instruction with hold bits on its sources (R22): timing only. -/
def holdAfter (hold : List HeldOperand) (marks written : List VReg) : List HeldOperand :=
  let kept := hold.filterMap fun h =>
    if written.contains h.reg || h.left ≤ 1 then none else some { h with left := h.left - 1 }
  kept ++ marks.map fun r => ⟨r, 2⟩

/-- The hold bits, the vector registers at the source positions A, B and C, and the vector registers written. -/
def heldForm : Instr → BitVec 3 × List (Option VReg) × List VReg
  | .vadd o | .vsub o | .vmul o | .vmulh o | .vdiv o | .vmin o | .vmax o | .vadds o | .vsubs o | .vand o
  | .vor o | .vxor o | .vshl o | .vshr o | .vsra o | .vsel o | .vperm o | .vpack o | .vunpack o =>
    (o.k.hld, [some o.a, some o.b], [o.d])
  | .vfma o | .vfms o | .vfnma o | .vclamp o => (o.k.hld, [some o.a, some o.b, some o.c], [o.d])
  | .vmov o | .vsqrt o | .vabs o | .vneg o | .vnot o | .vpopc o | .vclz o | .vrenorm o
  | .vquant o | .vexp2 o | .vlog2 o | .vrcp o | .vrsqrt o | .vsin o | .vcos o | .vtanh o | .vsigm o
  | .verf o => (o.k.hld, [some o.a], [o.d])
  | .vdeq o => (o.k.hld, [some o.a], (List.range (o.k.et.count / 32)).map (vecAt o.d))
  | .vshli o | .vshri o | .vsrai o => (o.k.hld, [some o.a], [o.d])
  | .vslide o => (o.k.hld, [some o.a], [o.d])
  | .vcvt o => (o.k.hld, [some o.a], [o.d])
  | .vdrop o => (o.k.hld, [some o.a], [o.d])
  | .vceq o | .vcne o | .vclt o | .vcle o | .vcun o => (o.k.hld, [some o.a, some o.b], [])
  | .vld o => (0, [], [o.d])
  | .vldB o => (0, [], [o.d])
  | .vlds o => (0, [], [o.d])
  | .vgather o => (o.k.hld, [none, some o.b], [o.d])
  | .vscatter o => (o.k.hld, [none, some o.b], [])
  | .vbcs o => (0, [], [o.d])
  | .vbcf o => (0, [], [o.d])
  | .vrng o | .vrngu o => (0, [], [o.d])
  | .vsclset o => (0, [], [o.d])
  | .vmvs o => (o.k.hld, [some o.a], [])
  | .vmvf o => (o.k.hld, [some o.a], [])
  | .vrsum o | .vrmax o | .vrmin o => (o.k.hld, [some o.a], [])
  | .vdot o => (o.k.hld, [some o.a, some o.b], [])
  | .vsclget o => (o.k.hld, [some o.a], [])
  | _ => (0, [], [])

/-- A vector instruction has been performed: the buffer ages, and takes what the instruction holds. -/
def Core.afterHold (c : Core) (i : Instr) : Core :=
  let (bits, srcs, d) := heldForm i
  let marks := srcs.zipIdx.filterMap fun (r, k) => if bits.getLsbD k then r else none
  { c with vec := { c.vec with hold := holdAfter c.vec.hold marks d } }

end Sys2Proof.Machine
end

