-- ==== Sys2Proof/Machine/TileOps.lean ====
section
/-! DEFINITION. The tile unit (R177 to R197): shapes, issue checks, products, scales, epilogue and transfers. -/

namespace Sys2Proof.Machine

/-! ## Shapes (R177, R178, R180) -/

/-- The bits that an element takes in a tile register (R177). -/
def tileStore (t : EType) : Nat := if t.width == 6 then 8 else t.width

/-- A tile's shape: type, rows and columns (R178). -/
structure TileShape where
  et : EType
  rows : Nat
  cols : Nat
deriving DecidableEq, Repr

/-- `TSHP` as a shape; its `ET` is never 15 (R179). -/
def TileShape.ofBits (x : BitVec 19) : TileShape where
  et := match etOf (fieldOf x.toNat 0 4) with
    | .ok t => t
    | .error _ => .i4
  rows := fieldOf x.toNat 4 6 + 1
  cols := fieldOf x.toNat 10 9 + 1

def Core.tshape (c : Core) (t : TReg) : TileShape := TileShape.ofBits (c.tile.tshp.get t)

/-- The shape fits the register (R177). -/
def TileShape.fits (s : TileShape) : Bool := decide (s.rows * s.cols * tileStore s.et ≤ 65536)

/-- The elements of a tile register, by index (R177). -/
def Core.tileElems (c : Core) (t : TReg) : List Nat :=
  let s := c.tshape t
  unpackElems (c.rdT t).toNat (tileStore s.et) (s.rows * s.cols)

/-- Elements put into a tile register; the bits beyond them keep their contents (R177). -/
def withElems (old : BitVec 65536) (w : Nat) (xs : List Nat) : BitVec 65536 :=
  let n := w * xs.length
  BitVec.ofNat 65536 (packElems w xs + old.toNat / 2 ^ n * 2 ^ n)

end Sys2Proof.Machine

namespace Sys2Proof

/-- The element type of an accumulator (R180). -/
def TZ.et : TZ → EType
  | .fp32 => .fp32
  | .fp64 => .fp64
  | .int32 => .i32

/-- The columns of an accumulator; it has 64 rows (R180). -/
def TZ.cols : TZ → Nat
  | .fp64 => 32
  | _ => 64

def TileOp.toInstr : TileOp → Instr
  | .tld o => .tld o
  | .tst o => .tst o
  | .tzero d => .tzero d
  | .ttr o => .ttr o
  | .zzero d tz => .zzero d tz
  | .zst o => .zst o
  | .tmma o => .tmma o
  | .tmmo o => .tmmo o
  | .tsacc o => .tsacc o
  | .tepi o => .tepi o
  | .tmrot o => .tmrot o

end Sys2Proof

namespace Sys2Proof.Machine

/-- The elements of an accumulator, row by row. -/
def accElems (tz : TZ) (z : BitVec 131072) : List Nat := unpackElems z.toNat tz.et.width (64 * tz.cols)

def accPack (tz : TZ) (xs : List Nat) : BitVec 131072 := BitVec.ofNat 131072 (packElems tz.et.width xs)

/-! ## Records (R185) -/

/-- The checks of R146 on the place of a record: its bounds, its alignment and its granules. -/
def Core.shapeTrap (c : Core) (a : Word) : Option Trap :=
  let ea := a.toNat
  if !c.okAccess ea 64 then some ⟨causeLdBounds, a⟩
  else if ea % 64 != 0 then some ⟨causeMisalign, a⟩
  else (c.badIn ea 64).map fun g => ⟨causeEccLocal, BitVec.ofNat 64 g⟩

/-- A record as read, checked as R146 says. -/
def shapeOf (x : Nat) (w : Word) : Except Trap ShapeRec :=
  match ShapeRec.parse x with
  | none => .error ⟨causeIllegal, w⟩
  | some r => .ok r

/-- Rows of a transfer's record (R185). -/
def ShapeRec.rows (r : ShapeRec) : Nat := r.dim 1
def ShapeRec.cols (r : ShapeRec) : Nat := r.dim 0

/-- The locations of a transfer in position order (R185). -/
def ShapeRec.transfer (r : ShapeRec) : List ElemLoc :=
  (List.range (r.rows * r.cols)).map fun p => r.locAt (p % r.cols, p / r.cols, 0, 0)

/-- The bounds and alignment of a whole transfer. -/
def Core.transferTrap (c : Core) (store : Bool) (r : ShapeRec) : Option Trap :=
  let al := if r.et.width < 8 then 1 else r.et.width / 8
  r.transfer.findSome? fun l => c.accessTrap store ⟨l.addr, l.bytes, al⟩

/-! ## Issue checks (R183 to R189, R193, R245) -/

/-- The gang kind of `GANGSHAPE` (R203). -/
def Core.gangKind (c : Core) : Nat := fieldOf c.ids.gangshape.toNat 0 4

/-- `tmrot`'s rotations (R245). -/
def Core.rotA (c : Core) : Bool := [4, 5, 7].contains c.gangKind
def Core.rotB (c : Core) : Bool := [4, 6, 7].contains c.gangKind

/-- The shape checks of a product (R188). -/
def Core.productOk (c : Core) (o : TProd) : Bool :=
  let a := c.tshape o.a
  let b := c.tshape o.b
  a.et == o.ta && b.et == o.tb && a.cols == b.rows && decide (b.cols ≤ o.tz.cols)

/-- A record transfer: its record, checked as R185 and the extra condition say. The shape and type of the record come
before the bounds and the alignment of the access set, as in R183's table (DEDUCED, log entry 60). -/
def Core.checkTransfer (c : Core) (x : Nat) (w : Word) (store : Bool) (extra : ShapeRec → Bool) :
    Except Trap (Option ShapeRec) :=
  match shapeOf x w with
  | .error t => .error t
  | .ok r =>
    if r.rankM1.val ≤ 1 && extra r then
      match c.transferTrap store r with
      | some t => .error t
      | none => .ok (some r)
    else .error ⟨causeIllegal, w⟩

/-- The record of `zst` or `tepi` fits the accumulator. -/
def accFits (tz : TZ) (r : ShapeRec) : Bool := decide (r.cols ≤ tz.cols) && decide (r.rows ≤ 64)

/-- The register that holds the address of the shape record that an instruction reads at issue (R185). -/
def recordReg : TileOp → Option SReg
  | .tld o | .tst o => some o.a
  | .zst o => some o.a
  | .tepi o => some o.a
  | _ => none

/-- Every issue check of a tile instruction behind those of its record's place; `x` is the record as read. Answers the
record. -/
def Core.tileCheck (c : Core) (op : TileOp) (x : Nat) : Except Trap (Option ShapeRec) :=
  let w := word64 op.toInstr
  let need (b : Bool) : Except Trap (Option ShapeRec) := if b then .ok none else .error ⟨causeIllegal, w⟩
  match op with
  | .tzero _ | .zzero _ _ | .tsacc _ => .ok none
  | .ttr o =>
    let d := c.tshape o.d
    let a := c.tshape o.a
    need (d.et == a.et && d.rows == a.cols && d.cols == a.rows)
  | .tmma o | .tmmo o => need (c.productOk o)
  | .tmrot o => need ((c.rotA || c.rotB) && c.productOk o)
  | .tld o =>
    let s := c.tshape o.d
    c.checkTransfer x w false fun r => r.et == s.et && r.cols == s.cols && r.rows == s.rows
  | .tst o =>
    let s := c.tshape o.d
    c.checkTransfer x w true fun r => r.et == s.et && r.cols == s.cols && r.rows == s.rows
  | .zst o => c.checkTransfer x w true fun r => r.et == o.tz.et && accFits o.tz r
  | .tepi o => c.checkTransfer x w true fun r => r.et == o.ta && accFits o.tz r

/-- Issue of a tile instruction with its record as read (R181, R182). `follow` is the `cpush` of a follow-on (R357). -/
def Core.issueTile (c : Core) (op : TileOp) (x : Nat) (follow : Option Word) : IssueRes :=
  match c.tileCheck op x with
  | .error t => .trap t none
  | .ok shape =>
    let pc := follow.getD c.pc
    let c := c.enqueue
      { pc := pc, body := [⟨op.toInstr, pc, 0, 0, 0, shape⟩], loop := false, n := 1, iter := 0, pos := 0,
        slots := c.vec.slots, part := Part.none, follow := follow, rot := none } c.vec.slots
    .ok { c with cnt := { c.cnt with tl := c.cnt.tl + 1 } }

/-! ## Products (R190, R191) -/

/-- Row `i` of A against column `j` of B, as pairs. -/
def productLeaves (k n : Nat) (a b : List Nat) (i j : Nat) : List (Nat × Nat) :=
  (List.range k).map fun m => (at0 a (i * k + m), at0 b (m * n + j))

/-- One element of a product: the new accumulator bits and its flags. -/
def productElem (o : TProd) (z : Nat) (leaves : List (Nat × Nat)) : Nat × Flags :=
  match o.tz with
  | .int32 =>
    let s := leaves.foldl
      (fun s p => s + toSigned o.ta.width p.1 * toSigned o.tb.width p.2) (toSigned 32 z)
    (ofSigned 32 s, 0)
  | tz =>
    let (v, f) := treeSum (level1Of o.ta o.tb) tz.et .rne (tz.et.read z)
      (leaves.map fun p => (o.ta.read p.1, o.tb.read p.2))
    ((tz.et.write .rne false v).1, f)

/-- The whole accumulator after a product; `ow` starts every sum at +0. -/
def Core.product (c : Core) (o : TProd) (ow : Bool) : BitVec 131072 × Flags :=
  let sa := c.tshape o.a
  let sb := c.tshape o.b
  let a := c.tileElems o.a
  let b := c.tileElems o.b
  let cols := o.tz.cols
  let r := (accElems o.tz (c.rdZ o.d)).zipIdx.map fun (z, p) =>
    let i := p / cols
    let j := p % cols
    if i < sa.rows && j < sb.cols then
      productElem o (if ow then 0 else z) (productLeaves sa.cols sb.cols a b i j)
    else (z, 0)
  (accPack o.tz (r.map (·.1)), orAll (r.map (·.2)))

/-! ## `tsacc` (R192) -/

/-- A 32-bit element of a register group. -/
def Core.groupElem (c : Core) (r : VReg) (w i : Nat) : Nat :=
  let per := 512 / w
  elemAt (c.rdV (vecAt r (i / per))).bits.toNat w (i % per)

/-- The scaled copy that one element adds (R192). -/
def scaledTerm (sr sc : Scale) (x : FVal) : FVal × Flags :=
  match sr, sc with
  | .nan, _ | _, .nan => (.nan false, 0)
  | .zero, _ | _, .zero => (.zero, 0)
  | .val m1 e1, .val m2 e2 => fMul x (.fin false (m1 * m2) (e1 + e2))

def Core.saccResult (c : Core) (o : TSacc) : BitVec 131072 × Flags :=
  let cols := o.tz.cols
  let acc : EType := if o.tz == .fp64 then .fp64 else .fp32
  let xs := accElems o.tz (c.rdZ o.a)
  let scale (r : VReg) (i : Nat) : Scale := Scale.ofBits (BitVec.ofNat 20 (c.groupElem r 32 i))
  let r := (accElems o.tz (c.rdZ o.d)).zipIdx.map fun (z, p) =>
    let (s, f1) := scaledTerm (scale o.b (p / cols)) (scale o.c (p % cols)) (o.tz.et.read (at0 xs p))
    let (y, f2) := fAdd false (acc.read z) s
    let (v, f3) := acc.write .rne false y
    (v, f1 ||| f2 ||| f3)
  (accPack o.tz (r.map (·.1)), orAll (r.map (·.2)))

/-! ## The epilogue (R193 to R195) -/

/-- The bias of a column added to an element (R194). -/
def addBias (tz : TZ) (x b : Nat) : Nat × Flags :=
  match tz with
  | .int32 => ((x + b) % 2 ^ 32, 0)
  | tz =>
    let (y, f1) := fAdd false (tz.et.read x) (tz.et.read b)
    let (v, f2) := tz.et.write .rne false y
    (v, f1 ||| f2)

/-- ReLU on an accumulator element (R194). -/
def reluBits (tz : TZ) (x : Nat) : Nat :=
  match tz with
  | .int32 => if toSigned 32 x < 0 then 0 else x
  | tz =>
    let v := tz.et.read x
    if !v.isNaN && v.sign then 0 else x

def Core.epiElem (c : Core) (o : TEpi) (x j : Nat) : Nat × Flags :=
  let (x1, f1) := if o.epi.hasBias then addBias o.tz x (c.groupElem o.b o.tz.et.width j) else (x, 0)
  let x2 := if o.epi.hasRelu then reluBits o.tz x1 else x1
  let (y, f2) := convertElem o.tz.et o.ta (c.rnd o.rm) o.sat x2
  (y, f1 ||| f2)

/-! ## Transfers (R186, R187) -/

/-- The accesses of a transfer, in position order. -/
def ShapeRec.items (r : ShapeRec) : List MemItem := r.transfer.zipIdx.map fun (l, p) => .elem p l

/-- The next stores of a transfer's elements, keeping shared bits; it fails where one merges into a bad granule
(R116). Another agent reads each element old or new (R182). -/
def Core.storeTransfer (c : Core) (x : PerfCtx) (r : ShapeRec) (xs : List Nat) : PerfRes :=
  c.storeNext x r.items fun c i =>
    match i with
    | .elem p l => c.writeLoc l r.et.width (at0 xs p)
    | .scale _ _ => c

/-- Transpose a list of `rows` × `cols` elements. -/
def transposed (rows cols : Nat) (xs : List Nat) : List Nat :=
  (List.range (rows * cols)).map fun k => at0 xs (k % rows * cols + k / rows)

/-- The accumulator elements that a record with these columns covers, in position order. -/
def accWindow (tz : TZ) (z : BitVec 131072) (r : ShapeRec) : List Nat :=
  let xs := accElems tz z
  (List.range (r.rows * r.cols)).map fun p => at0 xs (p / r.cols * tz.cols + p % r.cols)

/-! ## Performance -/

/-- Commit a result whose trap value is the raised set (R184). -/
def Core.commitTile (c : Core) (raised : Flags) (w : Core → Core) : PerfRes :=
  c.commit raised (BitVec.ofNat 64 raised.toNat) w

/-- Perform a tile instruction. `tmrot` performs its product alone here. -/
def Core.performTile (c : Core) (x : PerfCtx) (op : TileOp) (shape : Option ShapeRec) : PerfRes :=
  match op with
  | .tzero d =>
    let s := c.tshape d
    .done (c.wrT d (withElems (c.rdT d) (tileStore s.et) (List.replicate (s.rows * s.cols) 0)))
  | .zzero d _ => .done (c.wrZ d 0)
  | .ttr o =>
    let s := c.tshape o.a
    .done (c.wrT o.d (withElems (c.rdT o.d) (tileStore s.et) (transposed s.rows s.cols (c.tileElems o.a))))
  | .tmma o | .tmrot o =>
    let (z, f) := c.product o false
    c.commitTile f fun c => c.wrZ o.d z
  | .tmmo o =>
    let (z, f) := c.product o true
    c.commitTile f fun c => c.wrZ o.d z
  | .tsacc o =>
    let (z, f) := c.saccResult o
    c.commitTile f fun c => c.wrZ o.d z
  | .tld o =>
    match shape with
    | none => .done c
    | some r =>
      c.readNext x r.et.width r.items fun xs =>
        c.wrT o.d (withElems (c.rdT o.d) (tileStore r.et) (xs.map (·.2)))
  | .tst o =>
    match shape with
    | none => .done c
    | some r => c.storeTransfer x r (c.tileElems o.d)
  | .zst o =>
    match shape with
    | none => .done c
    | some r => c.storeTransfer x r (accWindow o.tz (c.rdZ o.d) r)
  | .tepi o =>
    match shape with
    | none => .done c
    | some r =>
      let ys := (accWindow o.tz (c.rdZ o.d) r).zipIdx.map fun (x, p) => c.epiElem o x (p % r.cols)
      let f := orAll (ys.map (·.2))
      if f &&& c.fpEnables != 0 then .fptrap f (BitVec.ofNat 64 f.toNat)
      else
        match c.storeTransfer x r (ys.map (·.1)) with
        | .done c' => .done (c'.orFlags f)
        | e => e

/-- The tile form of an instruction of OPC 0x40 to 0x44. -/
def tileOf : Instr → Option TileOp
  | .tld o => some (.tld o)
  | .tst o => some (.tst o)
  | .tzero d => some (.tzero d)
  | .ttr o => some (.ttr o)
  | .zzero d tz => some (.zzero d tz)
  | .zst o => some (.zst o)
  | .tmma o => some (.tmma o)
  | .tmmo o => some (.tmmo o)
  | .tsacc o => some (.tsacc o)
  | .tepi o => some (.tepi o)
  | .tmrot o => some (.tmrot o)
  | _ => none

/-- Perform one instruction of the sequencer. -/
def Core.perform (c : Core) (x : PerfCtx) (op : SeqOp) : PerfRes :=
  match tileOf op.ins with
  | some t => c.performTile x t op.shape
  | none => c.performVec x op

/-! ## `TSHP` and `tfol` (R179, R197) -/

/-- A write of `TSHPn`: none where R179 refuses it. -/
def Core.writeTshp (c : Core) (t : TReg) (a : Word) : Option Core :=
  let x := BitVec.ofNat 19 a.toNat
  match etOf (fieldOf x.toNat 0 4) with
  | .error _ => none
  | .ok et =>
    let s := TileShape.ofBits x
    if !s.fits then none
    else
      let c' := { c with tile := { c.tile with tshp := c.tile.tshp.set t x } }
      some (if (c.tshape t).et == et then c' else c'.wrT t 0)

/-- The carried word of `tfol` into a channel's follow-on slot (R197). -/
def Core.setFollow (c : Core) (ch : Chan) (op : TileOp) : Core :=
  { c with tile := { c.tile with follow := c.tile.follow.set ch (word64 op.toInstr) } }

end Sys2Proof.Machine
end

