-- ==== Sys2Proof/Machine/Ops.lean ====
section
/-! DEFINITION. The operations over the whole state: the cores by their `CID`, taking a trap or an interrupt and
returning from one, retiring, waiting, the counters and the record of asynchronous failures. -/

namespace Sys2Proof.Machine

/-- The type of an instruction's or a step's meaning. -/
abbrev Result := Host.Outcome State Fault Refusal

/-! ## Cores by `CID` (R26) -/

def coreIn : List (Nat × Core) → Nat → Core
  | [], _ => Core.reset
  | (k, c) :: rest, cid => if k = cid then c else coreIn rest cid

def setCoreIn : List (Nat × Core) → Nat → Core → List (Nat × Core)
  | [], cid, x => [(cid, x)]
  | (k, c) :: rest, cid, x => if k = cid then (k, x) :: rest else (k, c) :: setCoreIn rest cid x

def State.coreAt (s : State) (cid : Nat) : Core := if cid = s.cid then s.core else coreIn s.others cid

def State.setCore (s : State) (cid : Nat) (c : Core) : State :=
  if cid = s.cid then { s with core := c } else { s with others := setCoreIn s.others cid c }

/-- The cores of the state by number, the unlisted ones left out: those are as after reset, and wait for nothing. -/
def State.listed (s : State) : List (Nat × Core) := (s.cid, s.core) :: s.others

def State.onCore (s : State) (cid : Nat) (f : Core → Core) : State := s.setCore cid (f (s.coreAt cid))

/-- Change the core in focus. -/
def State.mapCore (s : State) (f : Core → Core) : State := { s with core := f s.core }

/-- Bring another core into focus. -/
def State.focus (s : State) (cid : Nat) : State :=
  if cid = s.cid then s
  else
    let c := coreIn s.others cid
    { s with
      cid := cid
      core := c
      others := setCoreIn (s.others.filter fun x => x.1 != cid) s.cid s.core }

/-- The fields of a `CID` (R26). -/
def pkgOf (cid : Nat) : Nat := cid / 2 ^ 12
def clusterOf (cid : Nat) : Nat := cid / 16 % 128
def coreNo (cid : Nat) : Nat := cid % 16
def cidOf (pkg cluster core : Nat) : Nat := pkg * 2 ^ 12 + cluster * 16 + core

def State.pkg (s : State) : Nat := pkgOf s.cid

/-- The 16 cores of a cluster. -/
def State.clusterCores (s : State) (cluster : Nat) : List Nat :=
  (List.range 16).map fun k => cidOf s.pkg cluster k

/-- Every core of the package. -/
def State.allCores (s : State) : List Nat := (List.range 96).flatMap s.clusterCores

/-- The target exists: a package with a route or this one, a cluster up to 95 (R223). -/
def State.exists_ (s : State) (cid : Nat) : Bool :=
  decide (cid < 2 ^ 24) && cid / 2 ^ 11 % 2 == 0 && decide (clusterOf cid < 96) &&
    (pkgOf cid == s.pkg || s.fabric.routes.any fun r => r.1 == pkgOf cid)

/-- A request of the core is at its cluster's SFU; the result of a discarded one is still to return (R172). -/
def State.sfuOwes (s : State) (cid : Nat) : Bool := s.sfu.any fun r => r.cid == cid

/-! ## Outcomes of instructions -/

def continue_ (s : State) : Result := .next s

/-- The model's time of a core's `CYCLE` (R32). -/
def State.cycle (s : State) : Word := BitVec.ofNat 64 s.now + s.core.cycOff

/-! ## Retiring, waiting (R30, R31, R32) -/

/-- A step of a halted core ends when its instruction has retired and its entries are performed (R31). -/
def Core.settleStep (c : Core) : Core :=
  if c.isDebug && !c.stepping && c.run == .run && c.vec.seq.isEmpty then { c with run := .halt } else c

/-- Retire with the next `pc` (R32, R395). -/
def Core.retireTo (c : Core) (pc : Word) : Core :=
  Core.settleStep { c with
    pc := pc
    instret := c.instret + 1
    trans := { c.trans with i := c.trans.i + 1 }
    stepping := false
    ir := none
    run := .run }

/-- Retire an instruction of `len` bytes. -/
def Core.retire (c : Core) (len : Nat) : Core := c.retireTo (c.pc + BitVec.ofNat 64 len)

/-- Wait at the instruction (R30). -/
def Core.waitHere (c : Core) : Core := { c with run := .wait }

/-- Retire instruction `i` after a change of the core. -/
def done (i : Instr) (s : State) (f : Core → Core) : Result :=
  .next (s.mapCore fun c => (f c).retire (lenOf i))

/-- Retire instruction `i` in a state that has all its other effects. -/
def doneIn (i : Instr) (s : State) : Result := .next (s.mapCore fun c => c.retire (lenOf i))

def waiting (s : State) : Result := .next (s.mapCore Core.waitHere)

/-! ## Taking a trap or an interrupt (R27 to R29, R228) -/

/-- The registers marked pending by `rld` and `ramo` (R228). -/
def OutOp.pendingReg (o : OutOp) : Option SReg :=
  match o.kind with
  | .load d _ _ => some d
  | .amo d _ => some d
  | _ => none

def Core.pendingRegs (c : Core) : List SReg := c.outst.filterMap OutOp.pendingReg

/-- Replies are outstanding, which a trap or an interrupt waits for (R228). -/
def Core.owed (c : Core) : Bool := !c.pendingRegs.isEmpty

/-- The entry of R27: the saved `pc`, cause and value, the level and `IE`, and `TVEC`. Between two handlers of a
`yield` it ends the count of R239. -/
def Core.enter (c : Core) (cause : Nat) (tval epc : Word) : Core :=
  { c with
    trap := { c.trap with epc := epc, cause := BitVec.ofNat 64 cause, tval := tval }
    status := { c.status with pl := .kernel, ppl := c.status.pl == .kernel, pie := c.status.ie, ie := false }
    pc := c.trap.tvec
    run := .run
    yleft := if c.status.hnd then c.yleft else none
    ir := none
    entering := true }

/-- R29: at debug level the cause and the value are written, and the core halts at the instruction. -/
def Core.debugStop (c : Core) (cause : Nat) (tval pc : Word) : Core :=
  { c with
    trap := { c.trap with cause := BitVec.ofNat 64 cause, tval := tval }
    pc := pc
    run := .halt
    ir := none
    entering := false
    stepping := false }

/-- Take a trap whose instruction is at `epc`. -/
def Core.takeTrap (c : Core) (t : Trap) (epc : Word) : Core :=
  if c.isDebug then c.debugStop t.cause t.tval epc else c.enter t.cause t.tval epc

/-- A trap waits: for pending replies (R228), and in precise mode until the sequencer has performed every earlier
entry, whose own traps come first (R142). -/
def Core.trapHeld (c : Core) : Bool := c.owed || (c.precise && !c.vec.seq.isEmpty)

/-- A trap of the instruction at `pc`. While it waits, nothing changes, and the instruction is executed again. -/
def raise (t : Trap) (s : State) : Result :=
  .next (s.mapCore fun c => if c.trapHeld then c else c.takeTrap t c.pc)

/-- The trap of an issue check, with the `SEQPOS` it writes (R149). -/
def raiseAt (t : Trap) (seqpos : Option Nat) (s : State) : Result :=
  .next (s.mapCore fun c =>
    if c.trapHeld then c
    else
      let c := match seqpos with
        | some n => { c with trap := { c.trap with seqpos := BitVec.ofNat 32 n } }
        | none => c
      c.takeTrap t c.pc)

/-- The restore of R27. -/
def Core.restore (c : Core) : Core :=
  { c with
    pc := c.trap.epc
    status := { c.status with pl := if c.status.ppl then .kernel else .user, ie := c.status.pie } }

/-! ## The bind watchdog's count and HALT (R31, R220) -/

/-- The cycles that a member has spent in RUN and WAIT since its start; a step of the host is part of HALT (R30). -/
def Core.wdCount (c : Core) (now : Nat) : Nat :=
  if (c.run == .run || c.run == .wait) && !c.isDebug then c.wdAcc + (now - c.wdFrom) else c.wdAcc

/-- The bind watchdog stops or goes on (R220). -/
def Core.stopWd (c : Core) (now : Nat) : Core := { c with wdAcc := c.wdCount now, wdFrom := now }
def Core.startWd (c : Core) (now : Nat) : Core := { c with wdFrom := now }

/-- Enter HALT. -/
def Core.halt (c : Core) (now : Nat) : Core :=
  let c := c.stopWd now
  { c with
    halted := ⟨c.status.pl, if c.run == .idle then .idle else .run⟩
    status := { c.status with pl := .debug }
    run := .halt
    hubWait := .none
    ir := none
    haltReq := false
    stepping := false }

/-! ## Interrupts pending (R132, R387) -/

def bit6 (i : Fin 6) : BitVec 6 := BitVec.ofNat 6 (2 ^ i.val)

/-- Set an `IPEND` bit; a bit that becomes set sets the event latch (R132). -/
def Core.pend (c : Core) (i : Fin 6) : Core :=
  { c with
    trap := { c.trap with ipend := c.trap.ipend ||| bit6 i }
    latch := c.latch || c.trap.ipend &&& bit6 i == 0 }

/-- `WATCHDOG` with a source bit (R387). -/
def Core.pendWatchdog (c : Core) (src : Fin 3) : Core :=
  let c := c.pend 5
  { c with trap := { c.trap with wdSrc := c.trap.wdSrc ||| BitVec.ofNat 3 (2 ^ src.val) } }

/-- The lowest interrupt that is eligible (R28). -/
def Core.eligible (c : Core) : Option (Fin 6) :=
  let open_ := match c.status.pl with
    | .user => true
    | .kernel => c.status.ie
    | .debug => false
  if open_ then (List.finRange 6).find? fun i => (c.trap.ipend &&& c.trap.ienable) &&& bit6 i != 0
  else none

/-- The `TVAL` of an interrupt (R387). -/
def Core.irqVal (c : Core) (i : Fin 6) : Word :=
  match i.val with
  | 2 => c.trap.meshSender.setWidth 64
  | 5 => c.trap.wdSrc.setWidth 64
  | _ => 0

/-- Clear an `IPEND` bit as an entry does; bit 5 clears the sources (R28, R387). -/
def Core.clearPend (c : Core) (mask : BitVec 6) : Core :=
  { c with trap := { c.trap with
      ipend := c.trap.ipend &&& ~~~mask
      wdSrc := if mask &&& bit6 5 != 0 then 0 else c.trap.wdSrc } }

/-! ## Counters and outstanding operations (R225) -/

def Counters.addSt (n : Counters) : Reach → Counters
  | .cluster => { n with stcl := n.stcl + 1 }
  | .package => { n with stpk := n.stpk + 1 }
  | .fabric => { n with stfb := n.stfb + 1 }

def Counters.subSt (n : Counters) : Reach → Counters
  | .cluster => { n with stcl := n.stcl - 1 }
  | .package => { n with stpk := n.stpk - 1 }
  | .fabric => { n with stfb := n.stfb - 1 }

/-- The class of a destination core (R225). -/
def reachOf (src dst : Nat) : Reach :=
  if pkgOf src != pkgOf dst then .fabric
  else if clusterOf src != clusterOf dst then .package
  else .cluster

def OutKind.isLoad : OutKind → Bool
  | .load _ _ _ | .amo _ _ => true
  | _ => false

def OutKind.isCopy : OutKind → Bool
  | .copy _ => true
  | _ => false

/-- The limits of R225. -/
def ldLimit : Nat := 32
def stLimit : Nat := 512

/-- Count an operation at issue. -/
def Core.issueOut (c : Core) (o : OutOp) : Core :=
  { c with
    outst := c.outst ++ [o]
    cnt := if o.kind.isCopy then c.cnt
      else if o.kind.isLoad then { c.cnt with ld := c.cnt.ld + 1 } else c.cnt.addSt o.reach }

/-- An operation has been answered. -/
def Core.closeOut (c : Core) (tag : Nat) : Core :=
  match c.outst.find? (fun o => o.tag == tag) with
  | none => c
  | some o =>
    { c with
      outst := c.outst.filter fun o => o.tag != tag
      cnt := if o.kind.isCopy then c.cnt
        else if o.kind.isLoad then { c.cnt with ld := c.cnt.ld - 1 } else c.cnt.subSt o.reach }

/-- Messages not acknowledged (R233). -/
def Core.openMsgs (c : Core) : Nat := (c.outst.filter fun o => o.kind == .msg).length

/-! ## Asynchronous failures (R381 to R383) -/

def OpClass.code : OpClass → Nat
  | .ld => 0
  | .st => 1
  | .cp => 2
  | .tl => 3

def Failure.plain (cls : OpClass) (cause : Nat) (pc afaddr : Word) : Failure :=
  ⟨cls, cause, pc, afaddr, 0, 0, 0, false, false⟩

/-- The fields of `AFAULT` (R381). -/
def afValid (a : Word) : Bool := a.getLsbD 8
def afCause (a : Word) : Nat := fieldOf a.toNat 0 8
def afClass (a : Word) : Nat := fieldOf a.toNat 12 2
def afMore (a : Word) : Nat := fieldOf a.toNat 32 11
def afPend (a : Word) : Nat := fieldOf a.toNat 28 4

def afaultWord (f : Failure) : Word :=
  BitVec.ofNat 64 (f.cause % 256 + 256 + bit f.global * 2 ^ 10 + f.cls.code * 2 ^ 12 +
    f.reason % 16 * 2 ^ 16 + f.chan % 4 * 2 ^ 20 + f.doneb % 2 ^ 21 * 2 ^ 43)

/-- R381: the first failure writes the record, and later ones count. -/
def Core.noteFailure (c : Core) (f : Failure) : Core :=
  if afValid c.afault then
    let more := min 2047 (afMore c.afault + 1)
    let a := c.afault.toNat - afMore c.afault * 2 ^ 32 + more * 2 ^ 32
    { c with afault := BitVec.ofNat 64 a ||| BitVec.ofNat 64 (2 ^ (28 + f.cls.code)) }
  else { c with afault := afaultWord f, afpc := f.pc, afaddr := f.afaddr, afFar := f.far }

/-- A failure is recorded; a replay remembers each one, for the record that may name it (R397). -/
def Core.recordFailure (c : Core) (f : Failure) : Core :=
  let c := c.noteFailure f
  if c.trans.mode == 2 then { c with trans := { c.trans with fails := c.trans.fails ++ [f] } } else c

/-- The failure that `AFAULT` holds. -/
def Core.heldFailure (c : Core) : Option Failure :=
  let a := c.afault.toNat
  let cls : OpClass := match afClass c.afault with
    | 0 => .ld
    | 1 => .st
    | 2 => .cp
    | _ => .tl
  if afValid c.afault then
    some ⟨cls, afCause c.afault, c.afpc, c.afaddr, fieldOf a 16 4, fieldOf a 20 2, fieldOf a 43 21, c.afault.getLsbD 10,
      c.afFar⟩
  else none

/-- The failures that had arrived at the core as `before` describes it, and that neither its record then nor the record now
holds: a later record of the replay may still name them (R397). -/
def Core.unreported (c before : Core) : List Failure :=
  (before.heldFailure.toList ++ c.heldFailure.toList).foldl List.erase before.trans.fails

/-- The failure is the one that a value of `AFAULT` names: its fields but for `PENDCLS` and `MORE`. -/
def Failure.namedBy (f : Failure) (a : Word) : Bool := afaultWord f == (a &&& ~~~0x7FFF0000000#64)

/-- The core with the failure that a value of `AFAULT` names in its record, once that failure has arrived: those that
arrived before it count as later ones (R397). -/
def Core.withNamed (c : Core) (a : Word) : Option Core :=
  let named (f : Failure) : Bool := f.namedBy a
  match c.trans.fails.find? named with
  | some f =>
    if (c.heldFailure.map named).getD false then some c
    else some (((f :: c.trans.fails.erase f)).foldl Core.noteFailure { c with afault := 0 })
  | none => if (c.heldFailure.map named).getD false then some c else none

/-- A recorded failure is covered (R383): `cls` says which classes, `dest` whether the record's own destination
counts. -/
def Core.covered (c : Core) (cls : OpClass → Bool) (dest : Bool) : Bool :=
  afValid c.afault &&
    ((dest && [OpClass.ld, .st, .cp, .tl].any fun k => cls k && afClass c.afault == k.code) ||
      [OpClass.ld, .st, .cp, .tl].any fun k => cls k && afPend c.afault / 2 ^ k.code % 2 == 1)

/-- The report of R383. -/
def Core.report (c : Core) : Trap := ⟨afCause c.afault, c.afaddr⟩

/-! ## Transcripts (R395 to R398) -/

def Core.recording (c : Core) : Bool := c.trans.mode == 1
def Core.replaying (c : Core) : Bool := c.trans.mode == 2

/-- A replay has yet to read its next record. -/
def Core.awaitsRecord (c : Core) : Bool := c.replaying && !(c.trans.ahead.any fun x => x.1 == c.trans.count.toNat)

/-- Append a record in record mode (R396). -/
def Core.record (c : Core) (typ reg : Nat) (data : Word) : Core :=
  if c.recording then
    if c.trans.count.toNat < c.trans.cap then
      { c with trans := { c.trans with
          count := c.trans.count + 1
          out := c.trans.out ++ [(c.trans.count.toNat, ⟨typ, reg, c.trans.i % 2 ^ 44, data⟩)] } }
    else { c with trans := { c.trans with full := true, mode := 0 } }
  else c

/-- The next record of a replay (R397). -/
def Core.nextRec (c : Core) : Option TransRec :=
  match c.trans.ahead with
  | some (k, r) => if c.replaying && k == c.trans.count.toNat then r else none
  | none => none

def Core.consume (c : Core) : Core := { c with trans := { c.trans with count := c.trans.count + 1 } }

/-- R398. -/
def Core.diverged (c : Core) : Core := { c with trans := { c.trans with diverge := true, mode := 0 } }

/-- The next record is this event's: its type and its instruction count agree (R397, R398). -/
def Core.matchesRec (c : Core) (typ : Nat) : Option TransRec :=
  match c.nextRec with
  | some r => if r.typ == typ && r.i == c.trans.i % 2 ^ 44 then some r else none
  | none => none

/-- The next record's place has passed: no event can be the one that it names. -/
def Core.passedRec (c : Core) : Bool := c.nextRec.any fun r => decide (r.i < c.trans.i % 2 ^ 44)

/-- The next record is of an event of this place that the hub or the NI brings: a dispatch or an item. -/
def Core.expectsHere (c : Core) : Bool :=
  (c.matchesRec 1).isSome || (c.matchesRec 2).isSome || (c.matchesRec 4).isSome

end Sys2Proof.Machine
end

