-- ==== Sys2Proof/Machine/Operands.lean ====
section
/-! DEFINITION. Operand forms: the widths of the ALU rows, immediates, shifts, effective addresses (R38, R39,
R41, R105) and the fields of remote addresses (R222). -/

namespace Sys2Proof

def Size.bytes : Size → Nat
  | .b1 => 1
  | .b2 => 2
  | .b4 => 4
  | .b8 => 8

end Sys2Proof

namespace Sys2Proof.Machine

/-! ## Widths (R105) -/

/-- `SExt(x[31:0], 32)` as a 64-bit pattern. -/
def sext32 (x : Word) : Word := (x.setWidth 32).signExtend 64

/-- The low `w` bits, sign-extended and zero-extended (R7), for widths that a field holds as a number. -/
def sextN (x : Word) (w : Nat) : Word := BitVec.ofInt 64 (toSigned w (x.toNat % 2 ^ w))
def zextN (x : Word) (w : Nat) : Word := BitVec.ofNat 64 (x.toNat % 2 ^ w)

/-- A row with W: the 64-bit result, or the low half of the intermediate sign-extended. -/
def byWidth (w : Bool) (full half : Word) : Word := if w then sext32 half else full

/-- The shift count of R107. -/
def shiftCount (w : Bool) (b : Word) : Nat := b.toNat % (if w then 32 else 64)

/-- Rotate the low `n` bits left by `k`. -/
def rotl (n : Nat) (x : Word) (k : Nat) : Word :=
  let v := x.toNat % 2 ^ n
  BitVec.ofNat 64 (v * 2 ^ k % 2 ^ n + v / 2 ^ (n - k))

def isNeg (x : Word) : Bool := x.getLsbD 63

/-! ## Immediates (R39) -/

def imm30 (x : BitVec 30) : Word := x.signExtend 64
def imm62 (x : BitVec 62) : Word := x.signExtend 64

/-! ## Effective addresses (R41) -/

/-- The effective address of the M format for accesses of `n` bytes. -/
def Core.ea (c : Core) (m : MemArg) (n : Nat) : Word :=
  c.rdS m.a + (if m.x then c.rdS m.b * BitVec.ofNat 64 n else 0) + m.off.signExtend 64

/-- The effective address of an atomic (R117, R227). -/
def Core.eaOff (c : Core) (a : SReg) (off : BitVec 22) : Word := c.rdS a + off.signExtend 64

/-- A loaded value of `size` bytes extended to 64 bits (R113). -/
def extend (size : Size) (u : Bool) (x : Nat) : Word :=
  if u then BitVec.ofNat 64 x else sextN (BitVec.ofNat 64 x) (8 * size.bytes)

/-! ## Remote addresses (R222) -/

def remoteCid (ea : Word) : Nat := fieldOf ea.toNat 32 24
def remoteLocal (ea : Word) : Nat := fieldOf ea.toNat 0 21

/-- The zero fields of R222 are zero. -/
def remoteZeros (ea : Word) : Bool :=
  fieldOf ea.toNat 56 8 == 0 && fieldOf ea.toNat 43 1 == 0 && fieldOf ea.toNat 21 11 == 0

/-- A word that names a core: bits 63:24 and bit 11 are zero (R231, R355, R388). -/
def cidZeros (x : Word) : Bool := x.toNat / 2 ^ 24 == 0 && fieldOf x.toNat 11 1 == 0

def remoteAddr (cid addr : Nat) : Word := BitVec.ofNat 64 (cid * 2 ^ 32 + addr)

/-- The checks of R222 for `n` bytes, in their order; `cause` is the bounds cause. -/
def remoteTrap (cause : Nat) (ea : Word) (n : Nat) : Option Trap :=
  if !remoteZeros ea then some ⟨cause, ea⟩
  else if lsSize < remoteLocal ea + n then some ⟨cause, ea⟩
  else if remoteLocal ea % n != 0 then some ⟨causeMisalign, ea⟩
  else none

end Sys2Proof.Machine
end

