-- ==== Sys2Proof/Machine/Flags.lean ====
section
/-! DEFINITION. The scalar floating-point results with their raised sets, and the rule for enabled flags
(R91, R92, R118 to R128). -/

namespace Sys2Proof.Machine

/-- The format of a scalar operation (R118). -/
def fpFmt (w : Bool) : EType := if w then .fp32 else .fp64

/-- An `f` source: FP64, or rounded to FP32 first (R118 step 1). -/
def Core.fsrc (c : Core) (w : Bool) (rm : RMode) (a : FReg) : FVal × Flags :=
  let v := fp64Fmt.decode (c.rdF a).toNat
  if w then EType.fp32.round (c.rnd rm) false v else (v, 0)

/-- A result of an operation: rounded to its format and written as FP64 bits (R18). -/
def fresult (w : Bool) (r : Rnd) (v : FVal) (f : Flags) : Word × Flags :=
  let (y, f') := (fpFmt w).round r false v
  (fp64Bits y, f ||| f')

/-- The scalar operations of two sources (R119). -/
def Core.fop3 (c : Core) (o : FOp3) (op : Rnd → FVal → FVal → FVal × Flags) : Word × Flags :=
  let (a, f1) := c.fsrc o.w o.rm o.a
  let (b, f2) := c.fsrc o.w o.rm o.b
  let r := c.rnd o.rm
  let (y, f3) := op r a b
  fresult o.w r y (f1 ||| f2 ||| f3)

def Core.fsqrt (c : Core) (o : FOp2) : Word × Flags :=
  let (a, f1) := c.fsrc o.w o.rm o.a
  let (y, f2) := Sys2Proof.fSqrt a
  fresult o.w (c.rnd o.rm) y (f1 ||| f2)

/-- The fused operations (R120). -/
def Core.fop4 (c : Core) (o : FOp4) (negP negC : Bool) : Word × Flags :=
  let (a, f1) := c.fsrc o.w o.rm o.a
  let (b, f2) := c.fsrc o.w o.rm o.b
  let (e, f3) := c.fsrc o.w o.rm o.c
  let r := c.rnd o.rm
  let (p, f4) := fMul a b
  let (y, f5) := fAdd r.isDown (if negP then p.neg else p) (if negC then e.neg else e)
  fresult o.w r y (f1 ||| f2 ||| f3 ||| f4 ||| f5)

/-- `fmin` and its kin (R121); `quiet` answers the other operand when one is a NaN. -/
def Core.fminmax (c : Core) (o : FBit3) (isMax quiet : Bool) : Word × Flags :=
  let (y, f) := fMinMax isMax quiet (fp64Fmt.decode (c.rdF o.a).toNat) (fp64Fmt.decode (c.rdF o.b).toNat)
  (fp64Bits y, f)

/-- Sign injection (R122): the sign from a function of the two signs. -/
def Core.fsign (c : Core) (o : FBit3) (f : Bool → Bool → Bool) : Word :=
  let a := c.rdF o.a
  let s := f (a.getLsbD 63) ((c.rdF o.b).getLsbD 63)
  BitVec.ofNat 64 (a.toNat % 2 ^ 63 + bit s * 2 ^ 63)

/-- The comparisons (R123). -/
def Core.fcmp (c : Core) (o : FCmpOp) (k : CmpKind) : Word × Flags :=
  let (b, f) := fCompare k (fp64Fmt.decode (c.rdF o.a).toNat) (fp64Fmt.decode (c.rdF o.b).toNat)
  (BitVec.ofNat 64 (bit b), f)

/-- `fclass` (R124). -/
def fclassBits (x : Word) : Word :=
  let e := fieldOf x.toNat 52 11
  let m := fieldOf x.toNat 0 52
  let neg := x.getLsbD 63
  let k : Nat :=
    if e == 2047 then
      if m == 0 then (if neg then 0 else 7) else if m < 2 ^ 51 then 8 else 9
    else if e == 0 then
      if m == 0 then (if neg then 3 else 4) else if neg then 2 else 5
    else if neg then 1 else 6
  BitVec.ofNat 64 (2 ^ k)

/-- Conversion to a 64-bit integer (R125). -/
def Core.ftoi (c : Core) (o : FToInt) (lo hi : Int) : Word × Flags :=
  let (z, f) := convertInt lo hi (c.rnd o.rm) false (fp64Fmt.decode (c.rdF o.a).toNat)
  (BitVec.ofInt 64 z, f)

/-- Conversion from an integer (R126). -/
def Core.itof (c : Core) (o : IntToF) (z : Int) : Word × Flags := fresult o.w (c.rnd o.rm) (FVal.ofInt z) 0

/-- `fcvt.s.d` (R126). -/
def Core.fnarrow (c : Core) (o : FNarrow) : Word × Flags :=
  fresult true (c.rnd o.rm) (fp64Fmt.decode (c.rdF o.a).toNat) 0

/-- The integral value that a mode selects (R128). -/
def integral (r : Rnd) : FVal → FVal × Flags
  | .fin n m e =>
    if m == 0 then (.fin n 0 0, 0)
    else
      let (z, inexact) := roundToInt r n m e
      (.fin n z.natAbs 0, flagIf inexact flagNX)
  | .nan s => (.nan false, flagIf s flagNV)
  | v => (v, 0)

/-- `fround` (R128): of the flags of a reduction to FP32, OF and UF are not raised. -/
def Core.fround (c : Core) (o : FOp2) : Word × Flags :=
  let (a, f1) := c.fsrc o.w o.rm o.a
  let (y, f2) := integral (c.rnd o.rm) a
  (fp64Bits y, (f1 &&& (flagNV ||| flagNX)) ||| f2)

/-! ## Committing a scalar result (R92) -/

/-- Write the result and raise its flags; an enabled flag traps instead, and the flags are still raised. -/
def commitF (i : Instr) (s : State) (raised : Flags) (w : Core → Core) : Result :=
  if raised &&& s.core.fpEnables != 0 then
    if s.core.trapHeld then .next s
    else raise ⟨causeFpTrap, BitVec.ofNat 64 raised.toNat⟩ (s.mapCore fun c => c.orFlags raised)
  else done i s fun c => (w c).orFlags raised

/-- Write an `f` register from a result. -/
def toF (i : Instr) (d : FReg) (r : Word × Flags) (s : State) : Result :=
  commitF i s r.2 fun c => c.wrF d r.1

/-- Write an `s` register from a result. -/
def toS (i : Instr) (d : SReg) (r : Word × Flags) (s : State) : Result :=
  commitF i s r.2 fun c => c.wrS d r.1

end Sys2Proof.Machine
end

