-- ==== Sys2Proof/Machine/Float.lean ====
section
/-! DEFINITION. The scalar floating-point instructions (R118 to R128). -/

namespace Sys2Proof.Machine

def execFadd (o : FOp3) (s : State) : Result :=
  toF (.fadd o) o.d (s.core.fop3 o fun r a b => fAdd r.isDown a b) s

def execFsub (o : FOp3) (s : State) : Result :=
  toF (.fsub o) o.d (s.core.fop3 o fun r a b => fAdd r.isDown a b.neg) s

def execFmul (o : FOp3) (s : State) : Result :=
  toF (.fmul o) o.d (s.core.fop3 o fun _ a b => fMul a b) s

def execFdiv (o : FOp3) (s : State) : Result :=
  toF (.fdiv o) o.d (s.core.fop3 o fun _ a b => fDiv a b) s

def execFsqrt (o : FOp2) (s : State) : Result :=
  toF (.fsqrt o) o.d (s.core.fsqrt o) s

def execFmin (o : FBit3) (s : State) : Result :=
  toF (.fmin o) o.d (s.core.fminmax o false true) s

def execFmax (o : FBit3) (s : State) : Result :=
  toF (.fmax o) o.d (s.core.fminmax o true true) s

def execFminm (o : FBit3) (s : State) : Result :=
  toF (.fminm o) o.d (s.core.fminmax o false false) s

def execFmaxm (o : FBit3) (s : State) : Result :=
  toF (.fmaxm o) o.d (s.core.fminmax o true false) s

def execFsgnj (o : FBit3) (s : State) : Result :=
  toF (.fsgnj o) o.d (s.core.fsign o (fun _ b => b), 0) s

def execFsgnjn (o : FBit3) (s : State) : Result :=
  toF (.fsgnjn o) o.d (s.core.fsign o (fun _ b => !b), 0) s

def execFsgnjx (o : FBit3) (s : State) : Result :=
  toF (.fsgnjx o) o.d (s.core.fsign o (fun a b => a != b), 0) s

def execFma (o : FOp4) (s : State) : Result :=
  toF (.fma o) o.d (s.core.fop4 o false false) s

def execFms (o : FOp4) (s : State) : Result :=
  toF (.fms o) o.d (s.core.fop4 o false true) s

def execFnma (o : FOp4) (s : State) : Result :=
  toF (.fnma o) o.d (s.core.fop4 o true true) s

def execFnms (o : FOp4) (s : State) : Result :=
  toF (.fnms o) o.d (s.core.fop4 o true false) s

def execFeq (o : FCmpOp) (s : State) : Result :=
  toS (.feq o) o.d (s.core.fcmp o .eq) s

def execFlt (o : FCmpOp) (s : State) : Result :=
  toS (.flt o) o.d (s.core.fcmp o .lt) s

def execFle (o : FCmpOp) (s : State) : Result :=
  toS (.fle o) o.d (s.core.fcmp o .le) s

def execFunord (o : FCmpOp) (s : State) : Result :=
  toS (.funord o) o.d (s.core.fcmp o .un) s

def execFclass (d : SReg) (a : FReg) (s : State) : Result :=
  toS (.fclass d a) d (fclassBits (s.core.rdF a), 0) s

def execFcvtLD (o : FToInt) (s : State) : Result :=
  toS (.fcvtLD o) o.d (s.core.ftoi o (-(2 ^ 63 : Nat)) ((2 ^ 63 : Nat) - 1)) s

def execFcvtLuD (o : FToInt) (s : State) : Result :=
  toS (.fcvtLuD o) o.d (s.core.ftoi o 0 ((2 ^ 64 : Nat) - 1)) s

def execFcvtDL (o : IntToF) (s : State) : Result :=
  toF (.fcvtDL o) o.d (s.core.itof o (s.core.rdS o.a).toInt) s

def execFcvtDLu (o : IntToF) (s : State) : Result :=
  toF (.fcvtDLu o) o.d (s.core.itof o (s.core.rdS o.a).toNat) s

def execFcvtSD (o : FNarrow) (s : State) : Result :=
  toF (.fcvtSD o) o.d (s.core.fnarrow o) s

def execFmvSF (d : SReg) (a : FReg) (s : State) : Result :=
  toS (.fmvSF d a) d (s.core.rdF a, 0) s

def execFmvFS (d : FReg) (a : SReg) (s : State) : Result :=
  toF (.fmvFS d a) d (s.core.rdS a, 0) s

def execFround (o : FOp2) (s : State) : Result :=
  toF (.fround o) o.d (s.core.fround o) s

end Sys2Proof.Machine
end

