-- ==== Sys2Proof/Machine/LocalMem.lean ====
section
/-! DEFINITION. Local loads, stores and atomics (R113 to R117). -/

namespace Sys2Proof.Machine

/-- The WT field (R53): wait at the instruction until its condition holds, then go on. -/
def afterWait (w : WaitSel) (s : State) (k : Result) : Result := if s.core.waitOk w then k else waiting s

/-- The checks of R113 for a read of `n` bytes. -/
def Core.loadTrap (c : Core) (ea : Word) (n : Nat) : Option Trap :=
  if !c.okAccess ea.toNat n then some ⟨causeLdBounds, ea⟩
  else if ea.toNat % n != 0 then some ⟨causeMisalign, ea⟩
  else if (c.badIn ea.toNat n).isSome then some ⟨causeEccLocal, ea⟩
  else none

/-- The checks of R113 for a write of `n` bytes; a write below a granule's size merges (R116), and the value of its
`ECCLOCAL` is the granule's address (R377). -/
def Core.storeTrap (c : Core) (ea : Word) (n : Nat) : Option Trap :=
  if !c.okAccess ea.toNat n then some ⟨causeStBounds, ea⟩
  else if ea.toNat % n != 0 then some ⟨causeMisalign, ea⟩
  else if c.mergesBad ea.toNat n then some ⟨causeEccLocal, ea &&& ~~~7#64⟩
  else none

/-! ## Reads of more than one piece (R247) -/

/-- What the instruction in execution has read from the local store so far. -/
def Core.readSoFar (c : Core) : List Byte := (c.ir.map (·.read)).getD []

/-- The instruction goes on with these bytes read. -/
def Core.keepRead (c : Core) (i : Instr) (bs : List Byte) : Core :=
  { c with ir := some { c.ir.getD (Fetching.of i) with read := bs } }

/-- What the instruction has read of `[a, a + n)` after one more naturally aligned 8-byte piece. -/
def Core.readPiece (c : Core) (a n : Nat) (got : List Byte) : List Byte :=
  let b := a + got.length
  got ++ c.ls.readBytes b (min (n - got.length) (8 - b % 8))

/-- Read `[a, a + n)` piece by piece, each of them an event of its own, and go on with the bytes. -/
def readPieces (i : Instr) (a n : Nat) (s : State) (k : List Byte → Result) : Result :=
  let bs := s.core.readPiece a n s.core.readSoFar
  if n ≤ bs.length then k bs else .next (s.mapCore fun c => c.keepRead i bs)

/-- Load `n` bytes at `ea` and give them to `w`. -/
def loadWith (i : Instr) (ea : Word) (n : Nat) (s : State) (w : Nat → Core → Core) : Result :=
  match s.core.loadTrap ea n with
  | some t => raise t s
  | none => done i s fun c => w (c.loadN ea.toNat n) c

/-- Store the low `n` bytes of `x` at `ea`. -/
def storeWith (i : Instr) (ea : Word) (n : Nat) (x : Word) (s : State) : Result :=
  match s.core.storeTrap ea n with
  | some t => raise t s
  | none => done i s fun c => c.storeN ea.toNat n x.toNat

def execLd (o : LdOp) (s : State) : Result :=
  afterWait o.m.wt s <|
    loadWith (.ld o) (s.core.ea o.m o.size.bytes) o.size.bytes s fun x c => c.wrS o.d (extend o.size o.u x)

def execSt (o : StOp) (s : State) : Result :=
  afterWait o.m.wt s <|
    storeWith (.st o) (s.core.ea o.m o.size.bytes) o.size.bytes (s.core.rdS o.d) s

def execFld (o : FMemOp) (s : State) : Result :=
  afterWait o.m.wt s <|
    loadWith (.fld o) (s.core.ea o.m 8) 8 s fun x c => c.wrF o.d (BitVec.ofNat 64 x)

def execFst (o : FMemOp) (s : State) : Result :=
  afterWait o.m.wt s <| storeWith (.fst o) (s.core.ea o.m 8) 8 (s.core.rdF o.d) s

/-! ## Atomics (R117) -/

/-- The new word of an atomic on `n` bytes: the old word, the operand and the new value of `cas`; none
where nothing is written. -/
def amoNew (k : AmoKind) (n m v new : Nat) : Option Nat :=
  let w := 8 * n
  match k with
  | .add => some ((m + v) % 2 ^ w)
  | .and => some (m &&& v)
  | .or => some (m ||| v)
  | .xor => some (m ^^^ v)
  | .min => some (if toSigned w m ≤ toSigned w v then m else v)
  | .max => some (if toSigned w m ≤ toSigned w v then v else m)
  | .minu => some (min m v)
  | .maxu => some (max m v)
  | .swp => some v
  | .cas => if m == v then some new else none

/-- The value an atomic returns (R117). -/
def amoResult (n m : Nat) : Word := sextN (BitVec.ofNat 64 m) (8 * n)

/-- A local atomic: one indivisible read and write. -/
def lamo (i : Instr) (k : AmoKind) (o : LamoOp) (s : State) : Result :=
  let n := o.size.bytes
  let c := s.core
  let ea := c.eaOff o.a o.off
  afterWait o.wt s <|
    match c.loadTrap ea n with
    | some t => raise t s
    | none =>
      let m := c.loadN ea.toNat n
      let v := (c.rdS o.b).toNat % 2 ^ (8 * n)
      let new := (c.rdS o.d).toNat % 2 ^ (8 * n)
      done i s fun c =>
        let c := match amoNew k n m v new with
          | some x => c.storeN ea.toNat n x
          | none => c
        c.wrS o.d (amoResult n m)

def execLamoAdd (o : LamoOp) (s : State) : Result :=
  lamo (.lamoAdd o) .add o s

def execLamoAnd (o : LamoOp) (s : State) : Result :=
  lamo (.lamoAnd o) .and o s

def execLamoOr (o : LamoOp) (s : State) : Result :=
  lamo (.lamoOr o) .or o s

def execLamoXor (o : LamoOp) (s : State) : Result :=
  lamo (.lamoXor o) .xor o s

def execLamoMin (o : LamoOp) (s : State) : Result :=
  lamo (.lamoMin o) .min o s

def execLamoMax (o : LamoOp) (s : State) : Result :=
  lamo (.lamoMax o) .max o s

def execLamoMinu (o : LamoOp) (s : State) : Result :=
  lamo (.lamoMinu o) .minu o s

def execLamoMaxu (o : LamoOp) (s : State) : Result :=
  lamo (.lamoMaxu o) .maxu o s

def execLamoSwp (o : LamoOp) (s : State) : Result :=
  lamo (.lamoSwp o) .swp o s

def execLamoCas (o : LamoOp) (s : State) : Result :=
  lamo (.lamoCas o) .cas o s

end Sys2Proof.Machine
end

