-- ==== Sys2Proof/Machine/Transforms.lean ====
section
/-! DEFINITION. The transforms on the move (R358 to R361), with the limits of their parameters (R346, R348), as
copies and `amsgp` apply them. -/

namespace Sys2Proof.Machine

/-- The element type of a `PET` code (R344). -/
def petType (pet : Nat) : EType :=
  match pet % 4 with
  | 0 => .bf16
  | 1 => .fp16
  | 2 => .fp32
  | _ => .fp64

/-- The types of a direction of transform 2 (R360). -/
def dirTypes (dir : Nat) : EType × EType :=
  match dir % 4 with
  | 0 => (.bf16, .fp32)
  | 1 => (.fp32, .bf16)
  | 2 => (.e4m3, .bf16)
  | _ => (.bf16, .e4m3)

/-- A transform with its parameters: the code, `PET`, `PA` and `PB`. -/
structure Xform where
  xf : Nat
  pet : Nat
  pa : Nat
  pb : Word
deriving DecidableEq, Repr

/-- The sizes in bytes of a source and of a destination element (R358). -/
def Xform.sizes (x : Xform) : Nat × Nat :=
  match x.xf with
  | 1 => ((petType x.pet).width / 8, (petType x.pet).width / 8)
  | 2 => ((dirTypes x.pa).1.width / 8, (dirTypes x.pa).2.width / 8)
  | _ => (1, 1)

/-- σ is finite and at least +0 (R346). -/
def sigmaOk (pa : Nat) : Bool := decide (pa < 0x7F800000)

/-- `PA` is legal for the transform (R346). -/
def Xform.paOk (x : Xform) : Bool :=
  match x.xf with
  | 0 => x.pa == 0
  | 1 => sigmaOk x.pa
  | 2 => decide (x.pa < 32) && decide (x.pa % 16 < 4)
  | 3 => decide (x.pa < 65536)
  | _ => false

/-- `PET` is legal for the transform (R344). -/
def Xform.petOk (x : Xform) : Bool := x.xf == 1 || x.pet == 0

/-- The destination bytes that `n` source bytes produce (R358). -/
def Xform.outLen (x : Xform) (n : Nat) : Nat := n / x.sizes.1 * x.sizes.2

/-- The bytes of a list in pieces of `n`. -/
def chunksOf (n : Nat) (bs : List Byte) : List (List Byte) :=
  (List.range (bs.length / n)).map fun k => (bs.drop (k * n)).take n

/-- Transform 1 on the element of index `i` (R359). -/
def perturb (t : EType) (sigma : Nat) (seed : Word) (i : Nat) (w : Nat) : Nat :=
  match t.read w with
  | .nan _ => (t.write .rne false (.nan false)).1
  | .inf _ => w
  | v =>
    let m := toSigned 24 (fieldOf (mix64 seed (BitVec.ofNat 64 i)).toNat 40 24)
    let u : FVal := .fin (decide (m < 0)) m.natAbs (-23)
    let step := (fMul (EType.fp32.read sigma) u).1
    (t.write .rne false (fAdd false v step).1).1

/-- Transform 3 on the byte of index `i` (R361). -/
def mutate (r : Nat) (seed : Word) (i : Nat) (b : Nat) : Nat :=
  let x := (mix64 seed (BitVec.ofNat 64 i)).toNat
  if r ≤ x % 65536 then b
  else
    let sh := if fieldOf x 16 1 == 0 then 4 else 0
    let c : Int := fieldOf b sh 3 + (if fieldOf x 17 1 == 0 then 1 else -1)
    if 0 ≤ c && c ≤ 7 then b - fieldOf b sh 3 * 2 ^ sh + c.toNat * 2 ^ sh else b

/-- The transformed bytes; `a` is the destination address of the first one (R358). -/
def Xform.apply (x : Xform) (a : Nat) (bs : List Byte) : List Byte :=
  let (ss, ds) := x.sizes
  let each (f : Nat → Nat → Nat) : List Byte :=
    (chunksOf ss bs).zipIdx.flatMap fun (e, k) => toBytesLE ds (f k (ofBytesLE e))
  match x.xf with
  | 1 => each fun k w => perturb (petType x.pet) x.pa x.pb (a / ss + k) w
  | 2 =>
    let (st, dt) := dirTypes x.pa
    each fun _ w => (convertElem st dt .rne (x.pa / 16 % 2 == 1) w).1
  | 3 => each fun k w => mutate x.pa x.pb (a + k) w
  | _ => bs

/-! ## `amsgp` (R232) -/

/-- The transform that the words of an `amsgp` name. -/
def msgXform (xf : Nat) (ws : List Word) : Xform :=
  let w1 := (ws.getD 1 0).toNat
  ⟨xf, fieldOf w1 32 2, fieldOf w1 0 32, ws.getD 2 0⟩

/-- The checks of words 1 and 2, the length and the landing address. -/
def msgXformOk (xf len : Nat) (ws : List Word) : Bool :=
  let x := msgXform xf ws
  xf == 0 ||
    (x.paOk && x.petOk && fieldOf (ws.getD 1 0).toNat 34 30 == 0 && (xf != 2 || x.pb == 0) &&
      len % x.sizes.1 == 0 && (ws.getD 3 0).toNat % x.sizes.2 == 0)

/-- The bytes of a payload as they land. -/
def Payload.landed (p : Payload) (ws : List Word) : List Byte :=
  if p.xf == 0 then p.bytes else (msgXform p.xf ws).apply p.landing.toNat p.bytes

end Sys2Proof.Machine
end

