-- ==== Sys2Proof/Machine/NiOps.lean ====
section
/-! DEFINITION. The network interfaces: issuing an operation, sending it and its answer, the refusals of R223
and R336, and the order of the ordered route (R222 to R229). -/

namespace Sys2Proof.Machine

/-! ## The fabric's ports as senders see them (R410, R412) -/

/-- The port that leads to a package: the fixed one for the ordered route, else the first that stands. -/
def State.portTo (s : State) (pkg : Nat) (ordered : Bool) : Option Nat :=
  let up (k : Nat) : Bool := ((s.fabric.ports.toList[k]?).map (·.up)).getD false
  if ordered then ((s.fabric.ordered.find? fun x => x.1 == pkg).map (·.2)).filter up
  else (s.fabric.routes.find? fun x => x.1 == pkg).bind fun x => x.2.find? up

def State.onPort (s : State) (k : Nat) (f : Port → Port) : State :=
  if h : k < 18 then
    { s with fabric := { s.fabric with ports := s.fabric.ports.set k (f (s.fabric.ports.get ⟨k, h⟩)) } }
  else s

/-- The body is data of a transfer, as the kinds of flits tell (R411). -/
def FlitBody.isData : FlitBody → Bool
  | .packet _ | .soundCopy _ | .sceData _ _ _ => true
  | _ => false

/-- The bytes of a chunk's data on a link: a mask for each 64-byte granule and the bytes that are not zero, or the plain
bytes where they are fewer (R323, R324). -/
def codedLen (bs : List Byte) : Nat :=
  min bs.length (8 * ((bs.length + 63) / 64) + (bs.filter fun b => b != 0).length)

/-- The bytes that an operation carries. -/
def PktKind.dataLen : PktKind → Nat
  | .write _ bs => bs.length
  | .copy _ bs _ => codedLen bs
  | .msg _ ws payload => 8 * ws.length + ((payload.map fun q => q.bytes.length).getD 0)
  | _ => 0

/-- The bytes that a body carries beside its head. -/
def FlitBody.dataLen : FlitBody → Nat
  | .packet p => p.kind.dataLen
  | .soundReq r => r.bytes.length
  | .soundCopy c => c.st.bytes.length
  | .steal ts => 48 * ts.length
  | .sceData _ bs _ => codedLen bs
  | .sceClose _ _ arrived => 8 * arrived.length
  | .sceRelease _ _ _ results => 64 * results.length
  | _ => 0

/-- The payload of a flit, and the head of a body (DESIGN CHOICE for the head, log entry 71). -/
def flitPayload : Nat := 228
def bodyHead : Nat := 64

/-- How many flits a body takes (R411). -/
def FlitBody.flits (b : FlitBody) : Nat := (bodyHead + b.dataLen + flitPayload - 1) / flitPayload

/-- The flits of a body, before they are sent. The ordered route has a virtual channel of its own (DESIGN CHOICE, log
entry 71). -/
def Port.flitsFor (p : Port) (pkg : Nat) (ordered : Bool) (b : FlitBody) : List Flit :=
  (List.range b.flits).map fun k =>
    ⟨Config.flitType p.rev b.isData, if ordered then 0 else 1, p.kg, 0, pkg, [], 0, b, p.bodies, b.flits - 1 - k⟩

/-- Put a body's flits at the end of the queue. -/
def Port.enqueue (p : Port) (pkg : Nat) (ordered : Bool) (b : FlitBody) : Port :=
  { p with queue := p.queue ++ p.flitsFor pkg ordered b, bodies := p.bodies + 1 }

/-- Put a body at the end of a port's queue; none where no port leads there. -/
def State.transmit (s : State) (pkg : Nat) (ordered : Bool) (b : FlitBody) : Option State :=
  (s.portTo pkg ordered).map fun k => s.onPort k fun p => p.enqueue pkg ordered b

/-- Transmit a body of the package's services, or let it wait for a path (DESIGN CHOICE, log entry 67). -/
def State.transmitOrPark (s : State) (pkg : Nat) (ordered : Bool) (b : FlitBody) : State :=
  (s.transmit pkg ordered b).getD
    { s with fabric := { s.fabric with parked := s.fabric.parked ++ [(pkg, ordered, b)] } }

/-! ## Answers -/

/-- Send an answer to its issuer. An answer for a package that cannot be reached is lost with its link (R414). -/
def State.answer (s : State) (r : Reply) : State :=
  if pkgOf r.dst == s.pkg then { s with back := s.back ++ [r] }
  else (s.transmit (pkgOf r.dst) false (.reply r)).getD s

/-- The cause with which R223 refuses an operation. -/
def Packet.nackCause (p : Packet) : Nat :=
  match p.kind with
  | .write _ _ => causeRstNack
  | .copy _ _ _ => causeCopyFail
  | .read _ _ => causeRldNack
  | .amo _ _ _ _ _ returns => if returns then causeRldNack else causeRstNack
  | .msg _ _ _ => causeMsgReject
  | .mint _ => causeRstNack
  | .bfree => causeRstNack

/-- The model's code for a copy chunk lost with its link (R414). -/
def causeLost : Nat := 0

def Packet.answer (p : Packet) (k : ReplyKind) : Reply := ⟨p.src, p.ctx, p.tag, k⟩

def State.ack (s : State) (p : Packet) : State := s.answer (p.answer .ack)
def State.nack (s : State) (p : Packet) (cause : Nat) : State := s.answer (p.answer (.nack cause))

/-! ## Sending (R223, R229, R414) -/

/-- Send an operation: to the target's NI, or to a port; a target that does not exist, or that no route reaches,
refuses it. `bfree` has no answer. -/
def State.send (s : State) (p : Packet) : State :=
  if !s.exists_ p.dst then s.nack p p.nackCause
  else if pkgOf p.dst == s.pkg then { s with net := s.net ++ [p] }
  else (s.transmit (pkgOf p.dst) p.ordered (.packet p)).getD (s.nack p p.nackCause)

/-- Issue an operation of the core in focus: count it and send it. -/
def State.issue (s : State) (kind : OutKind) (dst : Nat) (ordered : Bool) (afaddr : Word) (pk : PktKind) : State :=
  let c := s.core
  let o : OutOp := ⟨s.tags, kind, .core dst, reachOf s.cid dst, c.pc, afaddr⟩
  let s' := { s with core := c.issueOut o, tags := s.tags + 1 }
  s'.send ⟨s.cid, dst, c.ids.ctx.toNat, s.tags, ordered, c.pc, afaddr, pk⟩

/-! ## Refusals at the target (R223, R236, R336, R373) -/

/-- The target belongs to the context: it has never been bound or started, or its last clause or start was in
that context. -/
def Core.accepts (c : Core) (ctx : Nat) : Bool := c.bound == .never || c.ids.ctx.toNat == ctx

/-- The die of a cluster (R401). -/
def State.dieOf (s : State) (cid : Nat) : Nat := ((s.gmem.clusterDie.toList[clusterOf cid]?).map (·.val)).getD 0

/-- The local stores of the core's die have been initialised (R336, R406). -/
def State.storeReady (s : State) (cid : Nat) : Bool :=
  ((s.host.dies.toList[s.dieOf cid]?).map (·.ready)).getD false

/-- Ranges `[a, a + n)` and `[b, b + m)` share a byte. -/
def overlap (a n b m : Nat) : Bool := decide (a < b + m) && decide (b < a + n)

/-- The bytes touch a genome window, of `c` at `cid`, that the SCE holds (R373): the core is a member of a closed
generation. -/
def State.windowHeldBy (s : State) (c : Core) (cid a n : Nat) : Bool :=
  let held := s.sce.pops.any fun (_, p) => (p.closed.isSome || p.held) && p.members.any fun m => m.2 == cid
  (held || c.sce.phase == .closed) && overlap a n c.sce.gbase.toNat c.sce.glen.toNat

def State.windowHeld (s : State) (cid a n : Nat) : Bool := s.windowHeldBy (s.coreAt cid) cid a n

/-- A write of `n` bytes that the NI of core `c` may not perform. -/
def State.writeRefusedBy (s : State) (c : Core) (cid a n : Nat) : Bool :=
  !c.inRegion a n || s.windowHeldBy c cid a n || c.mergesBad a n

def State.writeRefused (s : State) (cid a n : Nat) : Bool := s.writeRefusedBy (s.coreAt cid) cid a n

/-- The arrival and spill queues have no room (R234). -/
def Inbox.noRoom (b : Inbox) : Bool :=
  (decide (64 ≤ b.arrival.length) || !b.spill.isEmpty) && decide (b.spillCap ≤ b.spill.length)

/-- The cause with which the target refuses an operation, if it does: `c` is the core that the operation meets, and
`full` says that its queue has no room for a message. -/
def State.refusesBy (s : State) (c : Core) (full : Bool) (p : Packet) : Option Nat :=
  let no (b : Bool) : Option Nat := if b then some p.nackCause else none
  let remote (b : Bool) : Option Nat := if !s.storeReady p.dst then some causeEndpoint else no (!c.accepts p.ctx || b)
  match p.kind with
  | .write a bs | .copy a bs _ => remote (s.writeRefusedBy c p.dst a bs.length)
  | .read a n => remote (!c.inRegion a n || (c.badIn a n).isSome)
  | .amo _ a n _ _ _ => remote (!c.inRegion a n || s.windowHeldBy c p.dst a n || (c.badIn a n).isSome)
  | .msg _ ws payload =>
    no (!c.accepts p.ctx || c.inbox.closed || full ||
      (match payload with
       | some q => !s.storeReady p.dst || s.writeRefusedBy c p.dst q.landing.toNat (q.landed ws).length
       | none => false))
  | .mint _ => no (!c.accepts p.ctx)
  | .bfree => none

/-- The refusal of an operation by the core as it stands. -/
def State.refuses (s : State) (p : Packet) : Option Nat :=
  let c := s.coreAt p.dst
  s.refusesBy c c.inbox.noRoom p

/-! ## Delivery -/

/-- How many bytes of `n` the next step applies: whole 8-byte pieces, at least one, and else as a free value says. -/
def State.pieceBytes (s : State) (n : Nat) : Nat :=
  let pieces := (n + 7) / 8
  8 * (pieces - Config.pieces s.steps % pieces)

/-- The core holds a saved member of the operation's context, whose spill queue takes the operation (R392). -/
def State.divertsTo (s : State) (cid ctx : Nat) : Option SavedMember :=
  s.saved.find? fun m => m.cid == cid && m.core.ids.ctx.toNat == ctx

/-- The operation at position `k` may arrive now: no earlier one of the ordered route stands before it (R229). -/
def mayArrive (net : List Packet) (k : Nat) (p : Packet) : Bool :=
  !p.ordered || (net.take k).all fun q => !(q.ordered && q.src == p.src && q.dst == p.dst)

/-- The operation that the step's operand selects for the core in focus, if it may arrive at its NI, which applies the
pieces of an earlier write with no gap between them (R224). -/
def State.arriving (s : State) : Option (Nat × Packet) :=
  match s.inp with
  | .idx k =>
    match s.net[k]? with
    | some p =>
      if p.dst == s.cid && mayArrive s.net k p && (s.divertsTo p.dst p.ctx).isNone && s.core.applying.isNone then
        some (k, p)
      else none
    | none => none
  | _ => none

/-- Take an operation from the network. -/
def State.takePacket (s : State) (k : Nat) : State := { s with net := s.net.eraseIdx k }

/-! ## A population's members and their home SCE (R365, R369, R375) -/

def State.population (s : State) (slot : Nat) : Option Population := (s.sce.pops.find? fun p => p.1 == slot).map (·.2)

def State.onPop (s : State) (slot : Nat) (f : Population → Population) : State :=
  { s with sce := { s.sce with pops := s.sce.pops.map fun p => if p.1 == slot then (p.1, f p.2) else p } }

def Population.has (p : Population) (cid : Nat) : Bool := p.members.any fun m => m.2 == cid

/-- Send a note to the home SCE of the population in this package's slot, where it can be reached. -/
def State.tellSce (s : State) (slot : Nat) (a : Arrival) (n : SceNote) : Option State :=
  match s.population slot with
  | none => none
  | some p =>
    let m : SceMsg := ⟨p.homeSlot, a, n⟩
    if p.home == s.pkg then some { s with sce := { s.sce with msgs := s.sce.msgs ++ [m] } }
    else s.transmit p.home true (.sceMsg m)

/-- A member that waits before the close withdraws its arrival (R369). -/
def State.withdrawAt (s : State) (cid : Nat) : State :=
  let sce := (s.coreAt cid).sce
  let slot := sce.pop.toNat
  let s' := s.onCore cid fun c => { c with sce := { c.sce with phase := .none } }
  match sce.phase with
  | .arrived =>
    if (s.population slot).any fun p => p.home == s.pkg then
      let s' := { s' with sce := { s'.sce with msgs := s'.sce.msgs.filter fun m => m.arr.cid != cid } }
      s'.onPop slot fun p => { p with arrivals := p.arrivals.filter fun a => a.cid != cid }
    else (s'.tellSce slot ⟨cid, 0, 0⟩ .withdraw).getD s'
  | _ => s

end Sys2Proof.Machine
end

