-- ==== Sys2Proof/Machine/Pending.lean ====
section
/-! DEFINITION. The `s` registers of each instruction, and those that wait for the reply of a remote load (R228). -/

namespace Sys2Proof

/-- The `s` registers of an M-format address. -/
def MemArg.regs (m : MemArg) : List SReg := [m.a, m.b]

def ScalarDst.regs : ScalarDst → List SReg
  | .s r => [r]
  | .f _ => []

def TileOp.regs : TileOp → List SReg
  | .tld o | .tst o => [o.a]
  | .zst o => [o.a]
  | .tepi o => [o.a]
  | _ => []

end Sys2Proof

namespace Sys2Proof.Machine

/-- `n` registers from `r` (R36). -/
def runRegs (r : SReg) (n : Nat) : List SReg := (List.range n).map (runReg r)

/-- `s3` to `s11`, which a handler's entry writes (R237). -/
def handlerRegs : List SReg := runRegs 3 9

/-- The `s` registers that an instruction reads or writes (R228). `yield` and `serve` exchange registers only when they
dispatch, and the operands of a loop's body are the body's (`Core.touched`, `execVloop`). -/
def sRegs (i : Instr) : List SReg :=
  match i with
  | .add o | .sub o | .and o | .or o | .xor o | .andn o | .orn o | .shl o | .shr o | .sra o | .rol o | .ror o
  | .min o | .max o | .minu o | .maxu o | .mul o | .div o | .divu o | .rem o | .remu o => [o.d, o.a, o.b]
  | .seq o | .sne o | .slt o | .sltu o | .sle o | .sleu o | .mulh o | .mulhu o | .mulhsu o => [o.d, o.a, o.b]
  | .csel o => [o.d, o.a, o.b, o.c]
  | .madd o => [o.d, o.a, o.b, o.c]
  | .addi64 o | .andi64 o | .ori64 o | .xori64 o | .seqi o | .slti o | .sltui o => [o.d, o.a]
  | .addi96 o | .andi96 o | .ori96 o | .xori96 o => [o.d, o.a]
  | .shli o | .shri o | .srai o | .roli o => [o.d, o.a]
  | .li64 d _ | .li96 d _ | .li128 d _ => [d]
  | .clz o | .ctz o | .popc o | .brev o | .bswap o => [o.d, o.a]
  | .sext o | .zext o => [o.d, o.a]
  | .bext o | .bins o => [o.d, o.a]
  | .lea o => [o.d, o.a, o.b]
  | .ld o => o.d :: o.m.regs
  | .st o => o.d :: o.m.regs
  | .lamoAdd o | .lamoAnd o | .lamoOr o | .lamoXor o | .lamoMin o | .lamoMax o | .lamoMinu o | .lamoMaxu o
  | .lamoSwp o | .lamoCas o => [o.d, o.a, o.b]
  | .fld o | .fst o => o.m.regs
  | .beq o | .bne o | .blt o | .bge o | .bltu o | .bgeu o => [o.a, o.b]
  | .jal64 d _ | .jalAbs d _ => [d]
  | .jalr o => [o.d, o.a]
  | .hret => runRegs 3 8
  | .feq o | .flt o | .fle o | .funord o => [o.d]
  | .fclass d _ | .fmvSF d _ => [d]
  | .fcvtLD o | .fcvtLuD o => [o.d]
  | .fcvtDL o | .fcvtDLu o => [o.a]
  | .fmvFS _ a => [a]
  | .vldB o | .vstB o => [o.a, o.b]
  | .vlds o => [o.a]
  | .vgather o | .vscatter o => [o.a]
  | .vbcs o => [o.a]
  | .vmvs o => [o.d]
  | .vslide o => [o.b]
  | .qset o => [o.a, o.b]
  | .qget o => [o.d]
  | .qpopc o => [o.d]
  | .vrsum o | .vrmax o | .vrmin o => o.d.regs
  | .vdot o => o.d.regs
  | .vsclset o => [o.a]
  | .vsclget o => [o.d]
  | .vdrop o => [o.b]
  | .vsetsh _ a => [a]
  | .vloop o => [o.a]
  | .vitr d _ | .vshget d _ _ => [d]
  | .tld o | .tst o => [o.a]
  | .zst o => [o.a]
  | .tepi o => [o.a]
  | .tfol _ op => op.regs
  | .amsg o => [o.d, o.a] ++ runRegs o.b 4
  | .amsgl o => [o.d, o.a] ++ runRegs o.b 8
  | .amsgp o => [o.d, o.a, o.c] ++ runRegs o.b 4
  | .rst o => o.d :: o.m.regs
  | .rstv o => o.m.regs
  | .rld o => o.d :: o.m.regs
  | .ramo o => [o.d, o.a, o.b]
  | .bfree a | .mbwait a | .cpwait a _ => [a]
  | .cpush o | .cpushb o => o.d :: runRegs o.a 4
  | .wlpush o => [o.a, o.c] ++ runRegs o.b 4
  | .sst o => [o.d, o.a, o.b]
  | .sstv o => [o.a, o.b]
  | .sstl o => [o.d, o.a, o.b]
  | .sndseq d a => [d, a]
  | .sndwait a b => [a, b]
  | .gend d => [d]
  | .mfsr d _ => [d]
  | .mtsr _ a => [a]
  | .exit a _ | .ptouch a | .mint a _ => [a]
  | _ => []

/-- A register of a list waits for a reply (R228); `s0` does not count. -/
def Core.anyPending (c : Core) (rs : List SReg) : Bool := c.pendingRegs.any fun r => r != 0 && rs.contains r

/-- A register of the instruction waits for a reply. -/
def Core.regsPending (c : Core) (i : Instr) : Bool := c.anyPending (sRegs i)

/-- The WT field of an instruction (R44, R53). -/
def waitField (i : Instr) : WaitSel :=
  match i with
  | .ld o => o.m.wt
  | .st o => o.m.wt
  | .fld o | .fst o => o.m.wt
  | .lamoAdd o | .lamoAnd o | .lamoOr o | .lamoXor o | .lamoMin o | .lamoMax o | .lamoMinu o | .lamoMaxu o
  | .lamoSwp o | .lamoCas o => o.wt
  | .rst o => o.m.wt
  | .rstv o => o.m.wt
  | .rld o => o.m.wt
  | .ramo o => o.wt
  | .amsg o | .amsgl o => o.wt
  | .amsgp o => o.wt
  | .sst o => o.wt
  | .sstv o => o.wt
  | .sstl o => o.wt
  | .wlpush o => o.wt
  | .cpush o | .cpushb o => o.wt
  | i => vecWait i

end Sys2Proof.Machine
end

