-- ==== Sys2Proof/Machine/Vector.lean ====
section
/-! DEFINITION. The vector instructions at issue (R137 to R176): those of the sequencer, those that complete in
the scalar pipeline, and the slots and loops. -/

namespace Sys2Proof.Machine

/-- The instructions of the sequencer that write the local store. -/
def storesLocal (i : Instr) : Bool :=
  match i with
  | .vst _ | .vstB _ | .vscatter _ | .tst _ | .zst _ | .tepi _ => true
  | _ => false

/-- The instructions of the sequencer that read the local store. -/
def loadsLocal (i : Instr) : Bool :=
  match i with
  | .vld _ | .vldB _ | .vlds _ | .vgather _ | .tld _ | .tepi _ => true
  | _ => false

/-- A local store that has been issued is not performed yet. -/
def Core.storesPending (c : Core) : Bool := c.vec.seq.any fun e => e.body.any fun op => storesLocal op.ins

/-- A local access that has been issued is not performed yet: what follows it in program order reads after it (R16). -/
def Core.accessPending (c : Core) : Bool :=
  c.vec.seq.any fun e => e.body.any fun op => storesLocal op.ins || loadsLocal op.ins

/-- Stall at issue: nothing changes, and the sequencer goes on (R139). -/
def stalled (s : State) : Result := .next s

/-- Issue to the sequencer: the WT field, a free entry, and the checks of R137. -/
def issueV (i : Instr) (s : State) : Result :=
  afterWait (vecWait i) s <|
    if s.core.seqFull then waiting s
    else
      match s.core.issueVec i with
      | .ok c => .next { s with core := c.retire (lenOf i) }
      | .trap t p => raiseAt t p s

/-- Issue of `vgather` and `vscatter`, once every earlier entry has been performed (R139, R156). -/
def issueIdx (i : Instr) (s : State) : Result := if s.core.seqEmpty then issueV i s else stalled s

/-! ## Instructions of the scalar pipeline (R139) -/

/-- Run once every earlier entry has been performed (R139). -/
def drained (s : State) (k : Result) : Result := if s.core.seqEmpty then k else stalled s

/-- Commit a scalar result of a vector instruction: an enabled flag traps with the lane mask and `SEQPOS`
zero, and the flags are raised (R92, R143). -/
def commitScalar (i : Instr) (s : State) (raised : Flags) (mask : Word) (w : Core → Core) : Result :=
  if raised &&& s.core.fpEnables != 0 then
    if s.core.trapHeld then .next s
    else raiseAt ⟨causeFpTrap, mask⟩ (some 0) (s.mapCore fun c => c.orFlags raised)
  else done i s fun c => ((w c).orFlags raised).afterHold i

/-- Element `e` as `vmvs` writes it (R157). -/
def elemToS (t : EType) (x : Nat) : Word :=
  if t.isInt then BitVec.ofInt 64 (toSigned t.width x) else BitVec.ofNat 64 x

/-- Element `e` as `vmvf` writes it: FP64 bits unchanged, others widened (R95, R157). -/
def elemToF (t : EType) (x : Nat) : Word × Flags :=
  if t == .fp64 then (BitVec.ofNat 64 x, 0)
  else
    let v := t.read x
    match v with
    | .nan sig => (fp64Bits (.nan false), flagIf sig flagNV)
    | v => (fp64Bits v, 0)

/-! ## Instructions of the sequencer (R137, R153 to R176) -/

def execVld (o : VSlotOp) (s : State) : Result :=
  issueV (.vld o) s

def execVst (o : VSlotOp) (s : State) : Result :=
  issueV (.vst o) s

def execVldB (o : VBaseOp) (s : State) : Result :=
  issueV (.vldB o) s

def execVstB (o : VBaseOp) (s : State) : Result :=
  issueV (.vstB o) s

def execVlds (o : VOneOp) (s : State) : Result :=
  issueV (.vlds o) s

def execVmov (o : VV) (s : State) : Result :=
  issueV (.vmov o) s

def execVsqrt (o : VV) (s : State) : Result :=
  issueV (.vsqrt o) s

def execVabs (o : VV) (s : State) : Result :=
  issueV (.vabs o) s

def execVneg (o : VV) (s : State) : Result :=
  issueV (.vneg o) s

def execVnot (o : VV) (s : State) : Result :=
  issueV (.vnot o) s

def execVpopc (o : VV) (s : State) : Result :=
  issueV (.vpopc o) s

def execVclz (o : VV) (s : State) : Result :=
  issueV (.vclz o) s

def execVrenorm (o : VV) (s : State) : Result :=
  issueV (.vrenorm o) s

def execVdeq (o : VV) (s : State) : Result :=
  issueV (.vdeq o) s

def execVquant (o : VV) (s : State) : Result :=
  issueV (.vquant o) s

def execVexp2 (o : VV) (s : State) : Result :=
  issueV (.vexp2 o) s

def execVlog2 (o : VV) (s : State) : Result :=
  issueV (.vlog2 o) s

def execVrcp (o : VV) (s : State) : Result :=
  issueV (.vrcp o) s

def execVrsqrt (o : VV) (s : State) : Result :=
  issueV (.vrsqrt o) s

def execVsin (o : VV) (s : State) : Result :=
  issueV (.vsin o) s

def execVcos (o : VV) (s : State) : Result :=
  issueV (.vcos o) s

def execVtanh (o : VV) (s : State) : Result :=
  issueV (.vtanh o) s

def execVsigm (o : VV) (s : State) : Result :=
  issueV (.vsigm o) s

def execVerf (o : VV) (s : State) : Result :=
  issueV (.verf o) s

def execVbcs (o : VFromS) (s : State) : Result :=
  issueV (.vbcs o) s

def execVbcf (o : VFromF) (s : State) : Result :=
  issueV (.vbcf o) s

def execVsel (o : VVV) (s : State) : Result :=
  issueV (.vsel o) s

def execVperm (o : VVV) (s : State) : Result :=
  issueV (.vperm o) s

def execVpack (o : VVV) (s : State) : Result :=
  issueV (.vpack o) s

def execVunpack (o : VVV) (s : State) : Result :=
  issueV (.vunpack o) s

def execVadd (o : VVV) (s : State) : Result :=
  issueV (.vadd o) s

def execVsub (o : VVV) (s : State) : Result :=
  issueV (.vsub o) s

def execVmul (o : VVV) (s : State) : Result :=
  issueV (.vmul o) s

def execVmulh (o : VVV) (s : State) : Result :=
  issueV (.vmulh o) s

def execVdiv (o : VVV) (s : State) : Result :=
  issueV (.vdiv o) s

def execVmin (o : VVV) (s : State) : Result :=
  issueV (.vmin o) s

def execVmax (o : VVV) (s : State) : Result :=
  issueV (.vmax o) s

def execVadds (o : VVV) (s : State) : Result :=
  issueV (.vadds o) s

def execVsubs (o : VVV) (s : State) : Result :=
  issueV (.vsubs o) s

def execVand (o : VVV) (s : State) : Result :=
  issueV (.vand o) s

def execVor (o : VVV) (s : State) : Result :=
  issueV (.vor o) s

def execVxor (o : VVV) (s : State) : Result :=
  issueV (.vxor o) s

def execVshl (o : VVV) (s : State) : Result :=
  issueV (.vshl o) s

def execVshr (o : VVV) (s : State) : Result :=
  issueV (.vshr o) s

def execVsra (o : VVV) (s : State) : Result :=
  issueV (.vsra o) s

def execVslide (o : VVS) (s : State) : Result :=
  issueV (.vslide o) s

def execVfma (o : VVVV) (s : State) : Result :=
  issueV (.vfma o) s

def execVfms (o : VVVV) (s : State) : Result :=
  issueV (.vfms o) s

def execVfnma (o : VVVV) (s : State) : Result :=
  issueV (.vfnma o) s

def execVclamp (o : VVVV) (s : State) : Result :=
  issueV (.vclamp o) s

def execVshli (o : VVn) (s : State) : Result :=
  issueV (.vshli o) s

def execVshri (o : VVn) (s : State) : Result :=
  issueV (.vshri o) s

def execVsrai (o : VVn) (s : State) : Result :=
  issueV (.vsrai o) s

def execVceq (o : QVV) (s : State) : Result :=
  issueV (.vceq o) s

def execVcne (o : QVV) (s : State) : Result :=
  issueV (.vcne o) s

def execVclt (o : QVV) (s : State) : Result :=
  issueV (.vclt o) s

def execVcle (o : QVV) (s : State) : Result :=
  issueV (.vcle o) s

def execVcun (o : QVV) (s : State) : Result :=
  issueV (.vcun o) s

def execQand (o : QQQ) (s : State) : Result :=
  issueV (.qand o) s

def execQor (o : QQQ) (s : State) : Result :=
  issueV (.qor o) s

def execQxor (o : QQQ) (s : State) : Result :=
  issueV (.qxor o) s

def execQnot (o : QQ) (s : State) : Result :=
  issueV (.qnot o) s

def execQset (o : QSS) (s : State) : Result :=
  issueV (.qset o) s

def execVcvt (o : VCvt) (s : State) : Result :=
  issueV (.vcvt o) s

def execVsclset (o : VSclSet) (s : State) : Result :=
  issueV (.vsclset o) s

def execVrng (o : VRngOp) (s : State) : Result :=
  issueV (.vrng o) s

def execVrngu (o : VRngOp) (s : State) : Result :=
  issueV (.vrngu o) s

def execVdrop (o : VDropOp) (s : State) : Result :=
  issueV (.vdrop o) s

def execVgather (o : VIdxOp) (s : State) : Result :=
  issueIdx (.vgather o) s

def execVscatter (o : VIdxOp) (s : State) : Result :=
  issueIdx (.vscatter o) s

/-! ## Into scalar registers (R157, R163, R165, R166) -/

def execVmvs (o : SFromV) (s : State) : Result :=
  drained s <| done (.vmvs o) s fun c =>
    (c.wrS o.d (elemToS o.k.et (at0 ((c.rdV o.a).elems o.k.et) o.e.val))).afterHold (.vmvs o)

def execVmvf (o : FFromV) (s : State) : Result :=
  drained s <|
    let (x, f) := elemToF o.k.et (at0 ((s.core.rdV o.a).elems o.k.et) o.e.val)
    let fls := (List.range o.k.et.count).map fun j => if j == o.e.val then f else 0
    commitScalar (.vmvf o) s f (laneMask s.core.fpEnables fls) fun c => c.wrF o.d x

def execQget (o : SQn) (s : State) : Result :=
  drained s <| done (.qget o) s fun c =>
    (c.wrS o.d (BitVec.ofNat 64 ((c.rdQ o.a).toNat / 2 ^ (64 * o.half.val)))).afterHold (.qget o)

def execQpopc (o : SQ) (s : State) : Result :=
  drained s <| done (.qpopc o) s fun c =>
    (c.wrS o.d (BitVec.ofNat 64 (popBits o.k.et.count (c.rdQ o.a).toNat))).afterHold (.qpopc o)

def execVsclget (o : VSclGet) (s : State) : Result :=
  drained s <| done (.vsclget o) s fun c =>
    (c.wrS o.d (((c.rdV o.a).scales.get o.slot).setWidth 64)).afterHold (.vsclget o)

/-- A reduction's end: its value, its flags, and the predicate as lane mask (R143, R165). -/
def reduction (i : Instr) (k : VCtl) (d : ScalarDst) (r : Word × Flags) (s : State) : Result :=
  drained s <| commitScalar i s r.2 (predMask (s.core.rdQ k.q) k.et.count) fun c => c.wrScalar d r.1

def execVrsum (o : VRed) (s : State) : Result :=
  reduction (.vrsum o) o.k o.d (s.core.reduceSum o.k ((s.core.rdV o.a).elems o.k.et) none) s

def execVrmax (o : VRed) (s : State) : Result :=
  reduction (.vrmax o) o.k o.d (s.core.reduceMinMax o.k ((s.core.rdV o.a).elems o.k.et) true) s

def execVrmin (o : VRed) (s : State) : Result :=
  reduction (.vrmin o) o.k o.d (s.core.reduceMinMax o.k ((s.core.rdV o.a).elems o.k.et) false) s

def execVdot (o : VDot) (s : State) : Result :=
  reduction (.vdot o) o.k o.d
    (s.core.reduceSum o.k ((s.core.rdV o.a).elems o.k.et) (some ((s.core.rdV o.b).elems o.k.et))) s

/-- `vsync` (R139): the sequencer is empty, and every request of the core to the SFU has returned, a discarded one's
too. -/
def execVsync (s : State) : Result :=
  if s.sfuOwes s.cid then stalled s else drained s <| doneIn .vsync s

/-! ## Slots and loops (R146, R148, R150) -/

/-- Read the shape record at an address, once its place passes the checks of R146. -/
def withRecord (i : Instr) (a : Word) (s : State) (k : Nat → Result) : Result :=
  match s.core.shapeTrap a with
  | some t => raise t s
  | none => readPieces i a.toNat 64 s fun bs => k (ofBytesLE bs)

/-- R146: the record is copied, and the position starts at 0. The read follows the earlier local accesses that the
sequencer has yet to perform (R16). -/
def execVsetsh (slot : Slot) (a : SReg) (s : State) : Result :=
  let i : Instr := .vsetsh slot a
  if s.core.accessPending then stalled s
  else
    withRecord i (s.core.rdS a) s fun x =>
      match shapeOf x (word64 i) with
      | .error t => raise t s
      | .ok r => done i s fun c => { c with vec := { c.vec with slots := c.vec.slots.set slot ⟨some r, 0⟩ } }

def execVitr (d : SReg) (slot : Slot) (s : State) : Result :=
  done (.vitr d slot) s fun c => c.wrS d (BitVec.ofNat 64 (c.vec.slots.get slot).p)

/-- The fields that `vshget` reads (R148). -/
def ShapeRec.field (r : ShapeRec) (f : Fin 8) : Word :=
  let dim (k : Nat) : Nat := (r.dims.toList.getD k 0).toNat
  let str (k : Nat) : Nat := (r.strides.toList.getD k 0).toNat
  match f.val with
  | 0 => r.base.setWidth 64
  | 1 => BitVec.ofNat 64 r.word1
  | 2 => BitVec.ofNat 64 (dim 0 + dim 1 * 2 ^ 16 + dim 2 * 2 ^ 32 + dim 3 * 2 ^ 48)
  | 3 => BitVec.ofNat 64 (str 0 + str 1 * 2 ^ 32)
  | 4 => BitVec.ofNat 64 (str 2 + str 3 * 2 ^ 32)
  | 5 => r.logbase
  | 6 => r.scalebase.setWidth 64
  | _ => BitVec.ofNat 64 r.total

def execVshget (d : SReg) (slot : Slot) (f : Fin 8) (s : State) : Result :=
  done (.vshget d slot f) s fun c =>
    c.wrS d (match (c.vec.slots.get slot).bound with
      | some r => r.field f
      | none => 0)

/-- The body of a loop as R150 checks it: the instructions from `pc`, or the trap. -/
def Core.loopBody (c : Core) (fetch : Word → Nat) : Nat → Word → Except Trap (List SeqOp × Word)
  | 0, pc => .ok ([], pc)
  | k + 1, pc =>
    let a := pc.toNat
    if a % 4 != 0 || !c.okAccess a 8 then .error ⟨causeFetch, pc⟩
    else
      let w := fetch pc
      let low := BitVec.ofNat 64 w
      let len := lenBytes (w % 4)
      if w % 4 == 0 then .error ⟨causeIllegal, low⟩
      else if 32 < a % 32 + len then .error ⟨causeFetch, pc⟩
      else
        match decodeRaw (Raw.ofWord w) with
        | .error _ => .error ⟨causeIllegal, low⟩
        | .ok i =>
          if c.isUser && i.kernelOnly then .error ⟨causePriv, low⟩
          else if !i.comboOk then .error ⟨causeTypeCombo, low⟩
          else if !loopBodyOk i then .error ⟨causeIllegal, low⟩
          else
            match c.loopBody fetch k (pc + BitVec.ofNat 64 len) with
            | .error t => .error t
            | .ok (rest, end_) => .ok (c.capture i pc :: rest, end_)

/-- The waits of a body's WT fields (R150). -/
def Core.bodyWaitsOk (c : Core) (body : List SeqOp) : Bool := body.all fun op => c.waitOk (vecWait op.ins)

end Sys2Proof.Machine
end

