-- ==== Sys2Proof/Machine/Fetch.lean ====
section
/-! DEFINITION. Instruction fetch (R14, R15) and the decode checks that depend on the level (R67), with the two
steps that end in their traps, and `vloop`, which fetches its body. -/

namespace Sys2Proof.Machine

/-- The versions of a block that a fetch may return besides the present one (R15). -/
def Core.oldBlocks (c : Core) (b : Nat) : List (BitVec 256) :=
  (c.stale.filter fun x => x.blk == b).map (·.bytes)

/-- A block as fetch sees it; `choice` picks the version. -/
def Core.seenBlock (c : Core) (choice : Nat → Nat) (b : Nat) : Nat :=
  let olds := c.oldBlocks b
  ((olds[choice b % (olds.length + 1)]?).getD (c.ls.block b)).toNat

/-- The 16 bytes from `pc` on as fetch sees them. -/
def Core.fetchWord (c : Core) (choice : Nat → Nat) (pc : Nat) : Nat :=
  let b := pc / 32
  match c.oldBlocks b ++ c.oldBlocks (b + 1) with
  | [] => c.ls.readN pc 16
  | _ => (c.seenBlock choice b + c.seenBlock choice (b + 1) * 2 ^ 256) / 2 ^ (8 * (pc % 32)) % 2 ^ 128

/-- What the core finds at `pc`. -/
inductive Fetched where
  /-- A check of R14 fails, with the trap it raises. -/
  | fault (t : Trap)
  /-- A check of R67 fails, with the trap it raises. -/
  | illegal (t : Trap)
  | instr (i : Instr)
deriving DecidableEq, Repr

/-- Checks 1 to 7 of R67 at a level. -/
def decodeAt (user : Bool) (w : Nat) : Fetched :=
  let low := BitVec.ofNat 64 w
  match decodeRaw (Raw.ofWord w) with
  | .error _ => .illegal ⟨causeIllegal, low⟩
  | .ok i =>
    if user && i.kernelOnly then .illegal ⟨causePriv, low⟩
    else if !i.comboOk then .illegal ⟨causeTypeCombo, low⟩
    else .instr i

/-- Fetch and decode at `pc` (R14, R67). `TVAL` of a length code 00 is "the first 64 bits of the block at `pc`", which
is read as the 64 bits at `pc` (DEDUCED, log entry 60). -/
def Core.fetch (c : Core) (choice : Nat → Nat) : Fetched :=
  let a := c.pc.toNat
  if a % 4 != 0 || !c.okAccess a 8 then .fault ⟨causeFetch, c.pc⟩
  else
    let w := c.fetchWord choice a
    if w % 4 == 0 then .fault ⟨causeIllegal, BitVec.ofNat 64 w⟩
    else if 32 < a % 32 + lenBytes (w % 4) then .fault ⟨causeFetch, c.pc⟩
    else decodeAt c.isUser w

/-- The version of each block that a fetch of this step returns (R15). -/
def State.choice (s : State) : Nat → Nat := Config.staleChoice s.steps

def State.fetched (s : State) : Fetched := s.core.fetch s.choice

/-- `FETCH_FAULT`: the checks of R14 fail. -/
def execFetchFault (s : State) : Result :=
  match s.fetched with
  | .fault t => raise t s
  | _ => .next s

/-- `ILLEGAL_ENCODING`: a check of R67 fails. -/
def execIllegalEncoding (s : State) : Result :=
  match s.fetched with
  | .illegal t => raise t s
  | _ => .next s

/-- The words of `k` instructions from `pc` on, by address, as fetch sees them now. -/
def Core.bodyWords (c : Core) (choice : Nat → Nat) : Nat → Nat → List (Nat × BitVec 128)
  | 0, _ => []
  | k + 1, pc =>
    let w := c.fetchWord choice pc
    (pc, BitVec.ofNat 128 w) :: c.bodyWords choice k (pc + lenBytes (w % 4))

/-- An instruction as it is fetched: a `vloop` with its body (R150). -/
def State.fetching (s : State) (i : Instr) : Fetching :=
  { Fetching.of i with
    body := match i with
      | .vloop o => s.core.bodyWords s.choice o.k (s.core.pc.toNat + 8)
      | _ => [] }

/-- The word at an address of a loop's body: the one fetched with the `vloop`, since a core in WAIT fetches nothing
(R30). -/
def State.bodyWord (s : State) (pc : Word) : Nat :=
  match s.core.ir.bind fun f => f.body.lookup pc.toNat with
  | some w => w.toNat
  | none => s.core.fetchWord s.choice pc.toNat

/-- The body of the `vloop` at `pc`, with the address after it, or the trap of its checks. -/
def State.loopIn (s : State) (o : VLoopOp) : Except Trap (List SeqOp × Word) :=
  s.core.loopBody s.bodyWord o.k (s.core.pc + 8)

/-- `vloop` (R150): the count, the body's checks, its waits, and one entry for the whole loop (DEDUCED, log entry 61).
The body's `s` operands are read here, and a pending one stalls it (R228). A new loop discards the resume record
(R152). -/
def execVloop (o : VLoopOp) (s : State) : Result :=
  let i : Instr := .vloop o
  let c := s.core
  let n := (c.rdS o.a + imm30 o.imm).toNat
  if 0xFFFFFFFF < n then raise (illegalOf i) s
  else
    match s.loopIn o with
    | .error t => raise t s
    | .ok (body, end_) =>
      if body.any fun op => c.regsPending op.ins then stalled s
      else if !c.bodyWaitsOk body || (n != 0 && c.seqFull) then waiting s
      else
        match c.issueLoop body n with
        | .trap t p => raiseAt t p s
        | .ok c' => .next { s with core := ({ c' with vec := { c'.vec with resume := none } }).retireTo end_ }

end Sys2Proof.Machine
end

