-- ==== Sys2Proof/Machine/Control.lean ====
section
/-! DEFINITION. Branches, jumps, `nop`, `isync`, events, traps on request and the return from a trap
(R129 to R132, R135, R136, R152). -/

namespace Sys2Proof.Machine

/-! ## Branches and jumps (R129, R130) -/

def branch (o : BrOp) (cond : Word → Word → Bool) (s : State) : Result :=
  .next (s.mapCore fun c =>
    if cond (c.rdS o.a) (c.rdS o.b) then c.retireTo (c.pc + (imm30 o.off <<< 2)) else c.retire 8)

def execBeq (o : BrOp) (s : State) : Result :=
  branch o (fun a b => a == b) s

def execBne (o : BrOp) (s : State) : Result :=
  branch o (fun a b => a != b) s

def execBlt (o : BrOp) (s : State) : Result :=
  branch o (fun a b => decide (a.toInt < b.toInt)) s

def execBge (o : BrOp) (s : State) : Result :=
  branch o (fun a b => decide (b.toInt ≤ a.toInt)) s

def execBltu (o : BrOp) (s : State) : Result :=
  branch o (fun a b => decide (a.toNat < b.toNat)) s

def execBgeu (o : BrOp) (s : State) : Result :=
  branch o (fun a b => decide (b.toNat ≤ a.toNat)) s

/-- Write the link, the address after an instruction of `len` bytes, and jump. -/
def jump (d : SReg) (len : Nat) (target : Core → Word) (s : State) : Result :=
  .next (s.mapCore fun c => (c.wrS d (c.pc + BitVec.ofNat 64 len)).retireTo (target c))

def execJal64 (d : SReg) (off : BitVec 30) (s : State) : Result :=
  jump d 8 (fun c => c.pc + (imm30 off <<< 2)) s

def execJalAbs (d : SReg) (imm : BitVec 62) (s : State) : Result :=
  jump d 12 (fun _ => imm62 imm) s

def execJalr (o : JalrOp) (s : State) : Result :=
  jump o.d 8 (fun c => c.rdS o.a + imm30 o.imm) s

/-! ## No operation and synchronisation (R131) -/

def execNop64 (s : State) : Result :=
  doneIn .nop64 s

def execNop96 (s : State) : Result :=
  doneIn .nop96 s

def execNop128 (s : State) : Result :=
  doneIn .nop128 s

/-- Fetch sees the core's own earlier stores from here on, and the writes of others that it has observed (R15). -/
def Core.syncFetch (c : Core) : Core :=
  { c with stale := (c.stale.filter fun x => !x.settled).map fun x => { x with bytes := x.synced } }

/-- `isync` completes when every earlier local store of the core has been performed. -/
def execIsync (s : State) : Result :=
  if s.core.storesPending then stalled s else done .isync s Core.syncFetch

/-! ## Events (R132) -/

/-- `wfe` retires with the latch, and otherwise waits; at debug level it retires at once. -/
def execWfe (s : State) : Result :=
  if s.core.isDebug then doneIn .wfe s
  else if s.core.latch then done .wfe s fun c => { c with latch := false }
  else waiting s

/-! ## Traps on request (R135) -/

def execScall (code : BitVec 29) (s : State) : Result :=
  raise ⟨causeScall, code.setWidth 64⟩ s

def execBrk (code : BitVec 29) (s : State) : Result :=
  raise ⟨causeBrk, code.setWidth 64⟩ s

/-! ## The return from a trap (R27, R136, R152) -/

/-- The address after a loop's body. -/
def bodyEnd (body : List SeqOp) (pc : Word) : Word :=
  match body.getLast? with
  | some op => op.pc + BitVec.ofNat 64 (lenOf op.ins)
  | none => pc

/-- The slots after the rest of a loop. -/
def restSlots (e : SeqEntry) : Nat → SeqEntry
  | 0 => e
  | fuel + 1 =>
    match e.next with
    | some e' => restSlots e' fuel
    | none => { e with slots := match e.op? with
        | some op => advanceSlots e.slots op.ins
        | none => e.slots }

/-- The rest of a loop from its record (R152). -/
def ResumeRec.entry (r : ResumeRec) : SeqEntry :=
  { pc := r.loopPc, body := r.body, loop := true, n := r.n, iter := r.iter, pos := r.pos, slots := r.slots,
    part := Part.none, follow := none, rot := none }

/-- How many instructions a loop's record leaves to perform. -/
def ResumeRec.left (r : ResumeRec) : Nat := (r.n - r.iter) * r.body.length - r.pos

/-- A `kret` to the trapping instruction of a loop resumes the loop; to any other address it discards the record. -/
def Core.resumeLoop (c : Core) : Core :=
  match c.vec.resume with
  | none => c
  | some r =>
    let c := { c with vec := { c.vec with resume := none } }
    if c.pc == r.at_ then
      let c := c.enqueue r.entry (restSlots r.entry r.left).slots
      { c with pc := bodyEnd r.body c.pc, instret := c.instret + 1, trans := { c.trans with i := c.trans.i + 1 } }
    else c

/-- The loop to resume needs a free entry of the sequencer. -/
def Core.resumeBlocked (c : Core) : Bool :=
  match c.vec.resume with
  | some r => c.trap.epc == r.at_ && c.seqFull
  | none => false

/-- `kret` (R136): the restore of R27, the effect of `isync`, and the loop of R152. -/
def execKret (s : State) : Result :=
  if s.core.isDebug then raise (illegalOf .kret) s
  else if s.core.isUser then raise ⟨causePriv, word64 .kret⟩ s
  else if s.core.resumeBlocked then waiting s
  else .next (s.mapCore fun c =>
    let c := c.syncFetch.restore
    (c.retireTo c.pc).resumeLoop)

end Sys2Proof.Machine
end

