-- ==== Sys2Proof/Machine/Handlers.lean ====
section
/-! DEFINITION. What messages and tasks share: the handler check, the entry into a handler with the shadow bank
(R237, R266), CRC-32C over what a transcript names, and the task's end (R267). -/

namespace Sys2Proof.Machine

/-! ## CRC-32C (R325) -/

def crcBit (x : Nat) : Nat := if x % 2 == 1 then (x / 2) ^^^ 0x82F63B78 else x / 2

def crcByte (x : Nat) (b : Byte) : Nat := (List.range 8).foldl (fun x _ => crcBit x) (x ^^^ b.toNat)

def crc32c (bs : List Byte) : Nat := (bs.foldl crcByte 0xFFFFFFFF) ^^^ 0xFFFFFFFF

/-- The product of two polynomials modulo that of CRC-32C, in the order of its register: `a` times `b`, where `b` is
taken from its bit 31 down. -/
def crcMul (a b : Nat) : Nat :=
  ((List.range 32).foldl (fun (acc : Nat × Nat) k =>
    (if b / 2 ^ (31 - k) % 2 == 1 then acc.1 ^^^ acc.2 else acc.1, crcBit acc.2)) (0, a)).1

/-- The checksum `x` times the `n`-th power of `p`; `fuel` bounds the bits of `n`. -/
def crcPow : Nat → Nat → Nat → Nat → Nat
  | 0, _, _, x => x
  | fuel + 1, n, p, x => crcPow fuel (n / 2) (crcMul p p) (if n % 2 == 1 then crcMul x p else x)

/-- The checksum after `n` zero bytes. A zero byte multiplies it by the eighth power of x. -/
def crcZeros (n x : Nat) : Nat := if n == 0 then x else crcPow 32 n 0x00800000 x

def wordsBytes (ws : List Word) : List Byte := ws.flatMap fun w => toBytesLE 8 w.toNat

/-! ## The handler check and the entry (R237) -/

/-- The code region of what is bound (R237). -/
def Core.inCode (c : Core) (h : Nat) : Bool :=
  match c.bound with
  | .clause loadoff codelen => decide (loadoff ≤ h) && decide (h < loadoff + codelen)
  | _ => decide (h < lsSize)

/-- The handler passes the check of R237. -/
def Core.handlerOk (c : Core) (h : Word) : Bool :=
  let a := h.toNat
  a % 4 == 0 && c.inCode a &&
    (!c.isUser || (decide (c.trap.ubase.toNat ≤ a) && decide (a < c.trap.ulimit.toNat)))

/-- `s3` to `s10` (R23). -/
def argReg (k : Nat) : SReg := Fin.ofNat 64 (3 + k)

def Core.setArgs (c : Core) (ws : List Word) : Core :=
  (List.range 8).foldl (fun c k => c.wrS (argReg k) (ws.getD k 0)) c

/-- Enter a handler: the shadow bank takes `s3` to `s10`, the words and the sender arrive, and `hres` is the resume
point. -/
def Core.enterHandler (c : Core) (h : Word) (ws : List Word) (sender : Nat) (hres : Word) : Core :=
  let shadow : Vector Word 8 := Vector.ofFn fun k : Fin 8 => c.rdS (argReg k.val)
  let c := (c.setArgs ws).wrS 11 (BitVec.ofNat 64 sender)
  { c with
    shadow := shadow
    status := { c.status with hnd := true }
    hres := hres
    pc := h
    ir := none
    run := .run }

/-- The words a message's handler receives: `s7` takes the landed length of an `amsgp`. -/
def Msg.args (m : Msg) : List Word :=
  match m.landed with
  | some n => (m.words ++ List.replicate 8 0).take 4 ++ [BitVec.ofNat 64 n] ++ (m.words.drop 5)
  | none => m.words

/-- The transcript's data for a message (R396). -/
def Msg.digest (m : Msg) : Word :=
  let ws := (m.words ++ List.replicate 8 0).take 8
  BitVec.ofNat 64 (m.sender * 2 ^ 40 + crc32c (wordsBytes (m.handler :: ws)))

/-- The transcript's data for a task (R396). -/
def Task.digest (t : Task) : Word :=
  BitVec.ofNat 64 (t.pcid * 2 ^ 40 +
    crc32c (wordsBytes (t.handler :: (t.words ++ List.replicate 4 0).take 4) ++ toBytesLE 4 t.prio.toNat))

/-! ## The end of a task (R267) -/

/-- A decrement for a task that retires in a cluster (R267). -/
def Worklist.drop (w : Worklist) (cluster : Nat) (t : Task) : Worklist :=
  { w with decs := w.decs ++ [⟨cluster, t.prio.toNat / 2 ^ w.shift.toNat, w.nextSeq⟩] }

/-- The running task retires: its slice sends a decrement to the hub. -/
def State.retireTask (s : State) (cid : Nat) : State :=
  match (s.coreAt cid).wl.running with
  | none => s
  | some t =>
    let s := s.onCore cid fun c => { c with wl := { c.wl with running := none } }
    { s with wl := s.wl.drop (clusterOf cid) t }

end Sys2Proof.Machine
end

