-- ==== Sys2Proof/Machine/WlOps.lean ====
section
/-! DEFINITION. The operations of the Ordinal worklist (R258 to R281): floors, slices, pushing, spilling, counting,
and the condition of quiescence. -/

namespace Sys2Proof.Machine

/-- A core of the worklist's owner, while it is enabled (R258). -/
def State.wlOwner (s : State) (c : Core) : Bool := s.wl.enabled && c.ids.ctx.toNat == s.wl.owner

def Worklist.bucket (w : Worklist) (t : Task) : Nat := t.prio.toNat / 2 ^ w.shift.toNat

/-! ## Counts and floors (R264, R273) -/

def countOf (counts : List (Nat × Nat)) (b : Nat) : Nat := ((counts.find? fun x => x.1 == b).map (·.2)).getD 0

/-- Change the count of a bucket; zero counts are not listed. -/
def setCount (counts : List (Nat × Nat)) (b n : Nat) : List (Nat × Nat) :=
  let rest := counts.filter fun x => x.1 != b
  if n == 0 then rest else rest ++ [(b, n)]

/-- F: the lowest bucket whose count is not zero. -/
def Worklist.floor (w : Worklist) : Option Nat := (w.counts.map (·.1)).min?

/-- The lower of two floors. -/
def minFloor : Option Nat → Option Nat → Option Nat
  | none, y => y
  | x, none => x
  | some x, some y => some (min x y)

/-- The lowest announced floor (R273). -/
def Worklist.announcedFloor (w : Worklist) : Option Nat :=
  w.announced.foldl (fun f a => minFloor f a.floor) none

/-- F_seen of a slice (R264, R273). -/
def Worklist.seen (w : Worklist) (cluster : Nat) : Option Nat :=
  minFloor ((w.slices.toList.getD cluster ⟨[], none⟩).floor) w.announcedFloor

def Worklist.slice (w : Worklist) (cluster : Nat) : WlSlice := w.slices.toList.getD cluster ⟨[], none⟩

def Worklist.setSlice (w : Worklist) (cluster : Nat) (x : WlSlice) : Worklist :=
  if h : cluster < 96 then { w with slices := w.slices.set cluster x h } else w

/-- Send the floor to every slice where it has changed (R264). -/
def Worklist.announceFloor (w : Worklist) (now : Nat) (before : Option Nat) : Worklist :=
  if w.floor == before then w
  else { w with floorMsgs := w.floorMsgs ++ (List.range 96).map fun k => ⟨k, w.floor, none, now⟩ }

/-- A change of one bucket's count, with the floor sent on; a change of the floor restarts the stall count (R280). -/
def Worklist.recount (w : Worklist) (now : Nat) (b n : Nat) : Worklist :=
  let w' := ({ w with counts := setCount w.counts b n }).announceFloor now w.floor
  if w'.floor == w.floor then w' else { w' with stallAcc := 0 }

/-- Count tasks that join the worklist, or that leave it. -/
def Worklist.countIn (w : Worklist) (now : Nat) (ts : List Task) : Worklist :=
  ts.foldl (fun w t => w.recount now (w.bucket t) (countOf w.counts (w.bucket t) + 1)) w

def Worklist.countOut (w : Worklist) (now : Nat) (ts : List Task) : Worklist :=
  ts.foldl (fun w t => w.recount now (w.bucket t) (countOf w.counts (w.bucket t) - 1)) w

/-! ## Slices (R260, R262, R270) -/

def sliceCap : Nat := 512

/-- The task of highest bucket that is no inversion, the newest on a tie (R262). -/
def Worklist.spillVictim (w : Worklist) (ts : List Task) : Option Task :=
  ts.foldl (fun v t =>
    if t.inv then v
    else
      match v with
      | none => some t
      | some u =>
        if w.bucket u < w.bucket t || (w.bucket u == w.bucket t && u.seq < t.seq) then some t else some u) none

def Worklist.spillRoom (w : Worklist) : Bool := decide (w.spill.length < w.spillCap)

/-- The first record of the spill area that holds no task. -/
def Worklist.freeSlot (w : Worklist) : Nat :=
  ((List.range (w.spill.length + 1)).find? fun k => !(w.spill.any fun t => t.slot == k)).getD w.spill.length

/-- A task goes into the spill area. -/
def Worklist.spillTask (w : Worklist) (t : Task) : Worklist := { w with spill := w.spill ++ [{ t with slot := w.freeSlot }] }

/-- A task's record in the spill area (R260). -/
def Task.record (t : Task) : List Byte :=
  wordsBytes (t.handler :: (t.words ++ List.replicate 4 0).take 4) ++ toBytesLE 4 t.prio.toNat ++
    toBytesLE 4 (t.pcid + bit t.inv * 2 ^ 24)

/-- Place a task in a slice, spilling one entry of a full slice; none where nothing can move (R262). -/
def Worklist.place (w : Worklist) (cluster : Nat) (t : Task) : Option Worklist :=
  let sl := w.slice cluster
  if sl.tasks.length < sliceCap then some (w.setSlice cluster { sl with tasks := sl.tasks ++ [t] })
  else if w.spillRoom then
    match w.spillVictim (sl.tasks ++ [t]) with
    | none => none
    | some v =>
      let w := w.setSlice cluster { sl with tasks := (sl.tasks ++ [t]).filter fun x => x.seq != v.seq }
      some (w.spillTask v)
  else none

/-- A task within the bound of a floor (R265). -/
def Worklist.within (w : Worklist) (floor : Option Nat) (t : Task) : Bool :=
  match floor with
  | some f => decide (w.bucket t ≤ f + w.bound.toNat)
  | none => false

/-- A is taken before B: lower bucket, then inversions, then the older (R265). -/
def Worklist.before (w : Worklist) (a b : Task) : Bool :=
  if w.bucket a != w.bucket b then decide (w.bucket a < w.bucket b)
  else if a.inv != b.inv then a.inv
  else decide (a.seq < b.seq)

def Worklist.best (w : Worklist) (ts : List Task) : Option Task :=
  ts.foldl (fun v t =>
    match v with
    | none => some t
    | some u => if w.before t u then some t else some u) none

/-- The queued tasks of a slice within its bound (R265). -/
def Worklist.inBound (w : Worklist) (cluster : Nat) : List Task :=
  (w.slice cluster).tasks.filter fun t => !t.pending && w.within (w.seen cluster) t

/-- The task that a slice offers by its own floor (R265). -/
def Worklist.offer (w : Worklist) (cluster : Nat) : Option Task := w.best (w.inBound cluster)

/-- Every task that waits: in the slices, in the spill area, and in batches that have yet to be placed. -/
def Worklist.allTasks (w : Worklist) : List Task :=
  w.slices.toList.flatMap (·.tasks) ++ w.spill ++ w.stealIn.flatten

/-! ## What the bound promises (R269) -/

/-- The floor that acknowledges a task's increment has not reached its slice yet. -/
def Worklist.unacked (w : Worklist) (cluster : Nat) (t : Task) : Bool :=
  w.floorMsgs.any fun m => m.cluster == cluster && m.ack == some t.seq

/-- A floor on its way to a slice has been under way for a whole transit, so it arrives before the slice offers a task
(R264). -/
def Worklist.floorDue (w : Worklist) (cluster now : Nat) : Bool :=
  w.floorMsgs.any fun m => m.cluster == cluster && decide (m.at_ + 160 ≤ now)

/-- The tasks that run, those of saved members among them. -/
def State.runningTasks (s : State) : List Task :=
  s.listed.filterMap (·.2.wl.running) ++ s.saved.filterMap (·.core.wl.running)

/-- The lowest bucket of the package's tasks that are no inversions. -/
def State.plainFloor (s : State) : Option Nat :=
  (((s.wl.allTasks ++ s.runningTasks).filter fun t => !t.inv).map s.wl.bucket).min?

/-- A task may start in a cluster under R269: its acknowledgement has come, and no plain task of the package lies further
below it than the bound (DEDUCED, log entry 68). -/
def State.mayStart (s : State) (cluster : Nat) (t : Task) : Bool :=
  !s.wl.unacked cluster t &&
    match s.plainFloor with
    | some f => decide (s.wl.bucket t ≤ f + s.wl.bound.toNat)
    | none => true

/-- The tasks that a slice may offer now. -/
def State.startable (s : State) (cluster : Nat) : List Task :=
  if s.wl.floorDue cluster s.now then [] else (s.wl.inBound cluster).filter (s.mayStart cluster)

/-- The task that a slice offers (R265, R269). -/
def State.offered (s : State) (cluster : Nat) : Option Task := s.wl.best (s.startable cluster)

/-! ## Quiescence (R275) -/

/-- Every count is zero, no slice holds a pending task, and no batch is on its way here. A batch may be on its way as
long as a request of this package is unanswered. -/
def Worklist.quiescent (w : Worklist) : Bool :=
  w.counts.isEmpty && w.stealIn.isEmpty && w.stealFrom.isNone && w.allTasks.all fun t => !t.pending

/-- The cores of the owner context (R277, R280). -/
def State.ownerCores (s : State) : List Nat := s.allCores.filter fun cid => s.wlOwner (s.coreAt cid)

/-- Change every core of a list. -/
def State.onCores (s : State) (cids : List Nat) (f : Core → Core) : State :=
  cids.foldl (fun s cid => s.onCore cid f) s

end Sys2Proof.Machine
end

