-- ==== Sys2Proof/Machine/SysRegs.lean ====
section
/-! DEFINITION. The system registers (R24 to R26, R133, R134): the value and the write of each, and `mfsr` and
`mtsr` with the rows of the opcode table that stand for registers with a rule of their own. -/

namespace Sys2Proof.Machine

/-! ## Values -/

/-- The copy requests of a channel, in order of acceptance. -/
def Core.xfers (c : Core) (ch : Chan) : List Xfer :=
  c.copy.fifo.filterMap fun x =>
    match x with
    | .req r => if r.ch == ch then some r else none
    | .join _ => none

/-- `XDONEn`: the oldest identifier not complete (R351). -/
def Core.xdone (c : Core) (ch : Chan) : BitVec 32 :=
  match c.xfers ch with
  | r :: _ => r.id
  | [] => c.copy.xnext.get ch

def Core.gstat (c : Core) : Word :=
  BitVec.ofNat 64 (c.sce.midx.toNat * 2 ^ 20 + c.sce.pop.toNat * 2 ^ 16 + bit c.sce.member * 2 ^ 7 +
    bit c.sce.elite * 2 + bit c.sce.repl)

def State.wlstat (s : State) : Word :=
  let c := s.core
  let f := s.wl.seen (clusterOf s.cid)
  BitVec.ofNat 64 ((f.getD 0) % 2 ^ 32 * 2 ^ 32 + c.wl.inv.toNat * 2 ^ 16 + bit f.isSome * 2 ^ 8 +
    bit c.wl.term * 2 ^ 7 + bit (!s.wl.spill.isEmpty) * 2 ^ 6 + bit c.wl.stall * 2 ^ 5 +
    bit (!s.wl.sharing.isEmpty) * 2 ^ 4)

def Core.sndstat (c : Core) : Word :=
  BitVec.ofNat 64 (c.snd.first.toNat * 2 ^ 40 + c.snd.nackn.toNat * 2 ^ 16 + bit c.snd.homeref * 8 +
    bit c.snd.deg * 4 + bit c.snd.nacktrap)

def Core.ibctl (c : Core) : Word := BitVec.ofNat 64 (bit c.inbox.closed * 2 ^ 8 + c.inbox.spawnlim.toNat)

def Core.ibcount (c : Core) : Word :=
  BitVec.ofNat 64 (c.inbox.totspill.toNat * 2 ^ 32 + c.inbox.spill.length % 2 ^ 24 * 2 ^ 8 +
    c.inbox.arrival.length % 2 ^ 7)

def Core.trctl (c : Core) : Word :=
  BitVec.ofNat 64 (c.trans.count.toNat * 2 ^ 32 + bit c.trans.diverge * 8 + bit c.trans.full * 4 +
    c.trans.mode.toNat)

def word (n : Nat) : Word := BitVec.ofNat 64 n

/-- The value that `mfsr` reads (R133). -/
def State.readSys (s : State) (r : SysReg) : Word :=
  let c := s.core
  match r with
  | .status => c.statusWord
  | .epc => c.trap.epc
  | .cause => c.trap.cause
  | .tval => c.trap.tval
  | .tvec => c.trap.tvec
  | .kscratch => c.trap.kscratch
  | .ienable => c.trap.ienable.setWidth 64
  | .ipend => c.trap.ipend.setWidth 64
  | .ubase => c.trap.ubase
  | .ulimit => c.trap.ulimit
  | .fpctl => c.fp.ctl.setWidth 64
  | .fpflags => c.fp.flags.setWidth 64
  | .cid => word s.cid
  | .stage => c.ids.stage.setWidth 64
  | .clause => c.ids.clause
  | .gangpos => c.ids.gangpos
  | .gangshape => c.ids.gangshape
  | .ctx => c.ids.ctx.setWidth 64
  | .seqpos => c.trap.seqpos.setWidth 64
  | .cycle => s.cycle
  | .instret => c.instret
  | .cntld => word c.cnt.ld
  | .cntst => word c.cnt.st
  | .cntcp => word c.cnt.cp
  | .cnttl => word c.cnt.tl
  | .stcl => word c.cnt.stcl
  | .stpk => word c.cnt.stpk
  | .stfb => word c.cnt.stfb
  | .afault => c.afault
  | .afpc => c.afpc
  | .afaddr => c.afaddr
  | .xdone ch => (c.xdone ch).setWidth 64
  | .xnext ch => (c.copy.xnext.get ch).setWidth 64
  | .mbox => c.copy.mbox.setWidth 64
  | .rngkey => c.vec.rngkey
  | .rngstep => c.vec.rngstep
  | .tshp t => (c.tile.tshp.get t).setWidth 64
  | .fit => c.sce.fit.setWidth 64
  | .gbase => c.sce.gbase.setWidth 64
  | .glen => c.sce.glen.setWidth 64
  | .genno => c.sce.genno.setWidth 64
  | .gstat => c.gstat
  | .wlbound => s.wl.bound.setWidth 64
  | .wlshift => s.wl.shift.setWidth 64
  | .wlstat => s.wlstat
  | .wlxint => s.wl.xint.setWidth 64
  | .wlstall => s.wl.stallLimit.setWidth 64
  | .sndstat => c.sndstat
  | .ibctl => c.ibctl
  | .ibcount => c.ibcount
  | .trctl => c.trctl

/-! ## Writes -/

/-- How a write ends. -/
inductive SysWrite where
  | ok (s : State)
  | illegal
  | priv (tval : Nat)

/-- The RO fields that are not reserved, as a mask (R134): a write must supply their present values. -/
def roMask (r : SysReg) : Word :=
  match r with
  | .status => 0x123
  | .sndstat => 0xFFFFFF001FFF0000
  | .trctl => 0xFFFFFFFF00000000
  | .gbase | .glen => 0x3F
  | _ => 0

/-- A write keeps the RO fields. -/
def State.keepsRo (s : State) (r : SysReg) (x : Word) : Bool := (s.readSys r ^^^ x) &&& roMask r == 0

def State.trapRegs (s : State) (f : TrapRegs → TrapRegs) : SysWrite :=
  .ok (s.mapCore fun c => { c with trap := f c.trap })

/-- The worklist with one of its registers written (R281); none where the value or the moment is illegal. -/
def Worklist.writeReg (w : Worklist) (r : SysReg) (x : Word) : Option Worklist :=
  match r with
  | .wlbound => some { w with bound := x.setWidth 6 }
  | .wlshift => if w.quiescent then some { w with shift := x.setWidth 5 } else none
  | .wlxint => if x.toNat % 2 ^ 32 < 256 then none else some { w with xint := x.setWidth 32 }
  | .wlstall => some { w with stallLimit := x.setWidth 32 }
  | _ => none

def State.wlStore (s : State) (r : SysReg) (x : Word) : SysWrite :=
  match s.wl.writeReg r x with
  | some w => .ok { s with wl := w }
  | none => .illegal

/-- The package-wide worklist registers (R281): of the cores, only those of the owner context write them. -/
def State.wlWrite (s : State) (r : SysReg) (x : Word) : SysWrite :=
  if !s.wlOwner s.core then .priv r.number else s.wlStore r x

/-- A cleared `DEG` clears `FIRST` and `NACKN` (R292). -/
def CoreSound.write (n : CoreSound) (x : Word) : CoreSound :=
  let n := if x.getLsbD 3 then { n with homeref := false } else n
  let n := if x.getLsbD 2 then { n with deg := false, first := 0, nackn := 0 } else n
  { n with nacktrap := x.getLsbD 0 }

/-- The fields of `AFAULT` that a write reaches (R381). -/
def afaultMask : Word := 0xFFFFFFFFF03F35FF

/-- The write of a register by `mtsr` (R134) or by the host into a halted core (R31). -/
def State.writeSys (s : State) (r : SysReg) (x : Word) : SysWrite :=
  if !s.keepsRo r x then .illegal
  else
    match r with
    | .status =>
      .ok (s.mapCore fun c => { c with status :=
        { c.status with pie := x.getLsbD 4, ie := x.getLsbD 3, ppl := x.getLsbD 2 } })
    | .epc => s.trapRegs fun t => { t with epc := x }
    | .cause => s.trapRegs fun t => { t with cause := x }
    | .tval => s.trapRegs fun t => { t with tval := x }
    | .tvec => s.trapRegs fun t => { t with tvec := x &&& ~~~0x1F#64 }
    | .kscratch => s.trapRegs fun t => { t with kscratch := x }
    | .ienable => s.trapRegs fun t => { t with ienable := x.setWidth 6 }
    | .ipend => .ok (s.mapCore fun c => c.clearPend (x.setWidth 6))
    | .ubase => s.trapRegs fun t => { t with ubase := x &&& ~~~0x3F#64 }
    | .ulimit => s.trapRegs fun t => { t with ulimit := x &&& ~~~0x3F#64 }
    | .fpctl =>
      if x.toNat % 8 == 5 || x.toNat % 8 == 6 then .illegal
      else .ok (s.mapCore fun c => { c with fp := { c.fp with ctl := x.setWidth 8 } })
    | .fpflags => .ok (s.mapCore fun c => { c with fp := { c.fp with flags := x.setWidth 5 } })
    | .cycle => .ok (s.mapCore fun c => { c with cycOff := x - BitVec.ofNat 64 s.now })
    | .instret => .ok (s.mapCore fun c => { c with instret := x })
    | .afault =>
      .ok (s.mapCore fun c =>
        let c' := { c with afault := x &&& afaultMask }
        { c' with trans := { c.trans with fails := c'.heldFailure.toList ++ c'.unreported c } })
    | .afpc => .ok (s.mapCore fun c => { c with afpc := x })
    | .afaddr => .ok (s.mapCore fun c => { c with afaddr := x })
    | .rngkey => .ok (s.mapCore fun c => { c with vec := { c.vec with rngkey := x } })
    | .rngstep => .ok (s.mapCore fun c => { c with vec := { c.vec with rngstep := x } })
    | .tshp t =>
      match s.core.writeTshp t x with
      | some c => .ok { s with core := c }
      | none => .illegal
    | .fit => .ok (s.mapCore fun c => { c with sce := { c.sce with fit := x.setWidth 32 } })
    | .gbase => .ok (s.mapCore fun c => { c with sce := { c.sce with gbase := (x &&& ~~~0x3F#64).setWidth 21 } })
    | .glen => .ok (s.mapCore fun c => { c with sce := { c.sce with glen := (x &&& ~~~0x3F#64).setWidth 21 } })
    | .wlbound | .wlshift | .wlxint | .wlstall => s.wlWrite r x
    | .sndstat => .ok (s.mapCore fun c => { c with snd := c.snd.write x })
    | .ibctl =>
      let n := x.toNat % 128
      if n == 0 || 64 < n then .illegal
      else .ok (s.mapCore fun c => { c with inbox := { c.inbox with closed := x.getLsbD 8, spawnlim := x.setWidth 7 } })
    | .trctl =>
      if x.toNat % 4 == 3 then .illegal
      else .ok (s.mapCore fun c => { c with trans := { c.trans with
        mode := x.setWidth 2
        full := c.trans.full && !x.getLsbD 2
        diverge := c.trans.diverge && !x.getLsbD 3
        count := 0
        i := 0
        ahead := none
        fails := c.heldFailure.toList } })
    | _ => .illegal

/-- The write of a register by the host into a halted core: every field marked RW or W1C, whoever the core belongs to
(R31). -/
def State.hostSys (s : State) (r : SysReg) (x : Word) : SysWrite :=
  match r with
  | .wlbound | .wlshift | .wlxint | .wlstall => s.wlStore r x
  | r => s.writeSys r x

/-! ## `mfsr` (R133, R93, R396, R397) -/

end Sys2Proof.Machine

namespace Sys2Proof

/-- The registers whose reads a transcript holds (R396). -/
def SysReg.recorded : SysReg → Bool
  | .cycle | .cntld | .cntst | .cntcp | .cnttl | .stcl | .stpk | .stfb
  | .xdone _ | .mbox | .ibcount | .wlstat | .sndstat => true
  | _ => false

/-- Registers whose replay waits for the live value (R397). -/
def SysReg.replayWaits : SysReg → Bool
  | .xdone _ | .mbox => true
  | _ => false

end Sys2Proof

namespace Sys2Proof.Machine

/-- A value that a replay or a recording gives to a read of number `num`: the value and the core, or a wait. -/
inductive ReadOut where
  | value (x : Word) (c : Core)
  | wait

/-- The live value of a register of R397 has not reached the recorded one: numbers of 32 bits that wrap. -/
def notReached (live x : Word) : Bool := (live - x).toNat % 2 ^ 32 ≥ 2 ^ 31

/-- R396 to R398 for a read of TYPE 3; `early` says for a recorded value that the read must wait for it. -/
def Core.transcribe (c : Core) (num : Nat) (early : Word → Bool) (live : Word) : ReadOut :=
  if c.replaying then
    match c.matchesRec 3 with
    | some r =>
      if r.reg != num then .value live c.diverged
      else if early r.data then .wait
      else .value r.data c.consume
    | none => .value live c.diverged
  else .value live (c.record 3 num live)

end Sys2Proof.Machine

namespace Sys2Proof

/-- The registers that wait for earlier vector and tile work (R93, R134). -/
def SysReg.readWaits (r : SysReg) : Bool := r == .fpflags

def SysReg.writeWaits : SysReg → Bool
  | .fpctl | .rngkey | .rngstep | .tshp _ => true
  | _ => false

end Sys2Proof

namespace Sys2Proof.Machine

/-- The read of a register into `s[d]`. -/
def readReg (i : Instr) (d : SReg) (r : SysReg) (s : State) : Result :=
  if r.readWaits && !s.core.seqEmpty then stalled s
  else
    let live := s.readSys r
    if r.recorded then
      match s.core.transcribe r.number (fun x => r.replayWaits && notReached live x) live with
      | .wait => waiting s
      | .value x c => done i { s with core := c } fun c => c.wrS d x
    else done i s fun c => c.wrS d live

/-- The transcript counts the instructions after the write of `MODE` (R395). -/
def Core.startCount (c : Core) (r : SysReg) : Core :=
  if r == .trctl then { c with trans := { c.trans with i := 0 } } else c

/-- The write of a register from `s[a]`; `TRCTL`'s own instruction is not counted (R395). -/
def writeReg (i : Instr) (r : SysReg) (a : SReg) (s : State) : Result :=
  if r.writeWaits && !s.core.seqEmpty then stalled s
  else
    match s.writeSys r (s.core.rdS a) with
    | .ok s' => .next (s'.mapCore fun c => (c.retire (lenOf i)).startCount r)
    | .illegal => raise (illegalOf (.mtsr r a)) s
    | .priv v => raise ⟨causePriv, word v⟩ s

def execMfsr (d : SReg) (r : SysReg) (s : State) : Result := readReg (.mfsr d r) d r s

def execMtsr (r : SysReg) (a : SReg) (s : State) : Result := writeReg (.mtsr r a) r a s

/-! ## The rows of registers with a rule of their own -/

/-- Run with the operands of the step, where they name a register that the row covers. -/
def withReg (ok : SysReg → Bool) (s : State) (k : SysReg → SReg → Result) : Result :=
  match s.inp with
  | .reg r x => if ok r then k r x else .next s
  | _ => .next s

/-- `MFSR_FPFLAGS` (R93). -/
def execMfsrFpflags (s : State) : Result := withReg (· == .fpflags) s fun r x => readReg (.mfsr x r) x r s

/-- `MTSR_FPCTL` (R93): `FPCTL`, `RNGKEY` and `RNGSTEP`. -/
def execMtsrFpctl (s : State) : Result :=
  withReg (fun r => r == .fpctl || r == .rngkey || r == .rngstep) s fun r x => writeReg (.mtsr r x) r x s

/-- `MTSR_TSHP` (R179). -/
def execMtsrTshp (s : State) : Result :=
  withReg (fun r => match r with | .tshp _ => true | _ => false) s fun r x => writeReg (.mtsr r x) r x s

/-- `MTSR_WLSHIFT` (R281). -/
def execMtsrWlshift (s : State) : Result := withReg (· == .wlshift) s fun r x => writeReg (.mtsr r x) r x s

/-- `MTSR_WLBOUND` (R281). -/
def execMtsrWlbound (s : State) : Result := withReg (· == .wlbound) s fun r x => writeReg (.mtsr r x) r x s

/-- `MTSR_TRCTL` (R395). -/
def execMtsrTrctl (s : State) : Result := withReg (· == .trctl) s fun r x => writeReg (.mtsr r x) r x s

/-- `MTSR_AFAULT` (R383): `AFAULT`, `AFPC` and `AFADDR`. -/
def execMtsrAfault (s : State) : Result :=
  withReg (fun r => r == .afault || r == .afpc || r == .afaddr) s fun r x => writeReg (.mtsr r x) r x s

/-- `MTSR_SNDSTAT` (R292). -/
def execMtsrSndstat (s : State) : Result := withReg (· == .sndstat) s fun r x => writeReg (.mtsr r x) r x s

/-- `MTSR_IBCTL` (R235). -/
def execMtsrIbctl (s : State) : Result := withReg (· == .ibctl) s fun r x => writeReg (.mtsr r x) r x s

end Sys2Proof.Machine
end

