-- ==== Sys2Proof/Machine/Remote.lean ====
section
/-! DEFINITION. Remote accesses, messages, `wait`, `fence` and `mint` at the issuer (R222 to R233, R383,
R388), and `bfree` (R355). -/

namespace Sys2Proof.Machine

/-! ## Room in the counters (R225, R233) -/

def Core.ldFull (c : Core) : Bool := decide (ldLimit ≤ c.cnt.ld)
def Core.stFull (c : Core) : Bool := decide (stLimit ≤ c.cnt.st)

/-- A message stalls: `CNTST`, or `SPAWNLIM` messages not acknowledged. -/
def Core.msgFull (c : Core) : Bool := c.stFull || decide (c.inbox.spawnlim.toNat ≤ c.openMsgs)

/-! ## Stores, loads and atomics (R222, R227, R228) -/

/-- A posted store of `n` bytes of `x` at `ea`. -/
def postStore (i : Instr) (ea : Word) (n : Nat) (x : Nat) (ordered : Bool) (s : State) : Result :=
  match remoteTrap causeStBounds ea n with
  | some t => raise t s
  | none =>
    if s.core.stFull then waiting s
    else doneIn i (s.issue .store (remoteCid ea) ordered ea (.write (remoteLocal ea) (toBytesLE n x)))

def execRst (o : RstOp) (s : State) : Result :=
  let n := o.size.bytes
  afterWait o.m.wt s <| postStore (.rst o) (s.core.ea o.m n) n (s.core.rdS o.d).toNat o.o s

/-- `rstv` reads `v[D]` after every earlier vector instruction has been performed. -/
def execRstv (o : RstvOp) (s : State) : Result :=
  afterWait o.m.wt s <| drained s <| postStore (.rstv o) (s.core.ea o.m 64) 64 (s.core.rdV o.d).bits.toNat o.o s

def execRld (o : RldOp) (s : State) : Result :=
  let n := o.size.bytes
  let ea := s.core.ea o.m n
  afterWait o.m.wt s <|
    match remoteTrap causeLdBounds ea n with
    | some t => raise t s
    | none =>
      if s.core.ldFull then waiting s
      else doneIn (.rld o) (s.issue (.load o.d o.size o.u) (remoteCid ea) o.o ea (.read (remoteLocal ea) n))

def execRamo (o : RamoOp) (s : State) : Result :=
  let n := o.size.bytes
  let c := s.core
  let ea := c.eaOff o.a o.off
  afterWait o.wt s <|
    match remoteTrap causeLdBounds ea n with
    | some t => raise t s
    | none =>
      if (if o.nr then c.stFull else c.ldFull) then waiting s
      else
        let low (r : SReg) := (c.rdS r).toNat % 2 ^ (8 * n)
        doneIn (.ramo o) (s.issue (if o.nr then .store else .amo o.d o.size) (remoteCid ea) o.o ea
          (.amo o.kind (remoteLocal ea) n (low o.b) (low o.d) (!o.nr)))

/-! ## Messages (R231 to R233) -/

/-- Send a message to the core that `s[D]` names. -/
def sendMsg (i : Instr) (d : SReg) (o : Bool) (h : Word) (ws : List Word) (p : Option Payload) (s : State) : Result :=
  if s.core.msgFull then waiting s
  else
    let dst := (s.core.rdS d).toNat
    let la := match p with
      | some p => p.landing.toNat % 2 ^ 21
      | none => 0
    doneIn i (s.issue .msg dst o (remoteAddr dst la) (.msg h ws p))

/-- `amsg` and `amsgl`: `n` words. -/
def plainMsg (i : Instr) (o : MsgOp) (n : Nat) (s : State) : Result :=
  let c := s.core
  afterWait o.wt s <|
    if !cidZeros (c.rdS o.d) then raise ⟨causeStBounds, c.rdS o.d⟩ s
    else sendMsg i o.d o.o (c.rdS o.a) (c.rdRun o.b n) none s

def execAmsg (o : MsgOp) (s : State) : Result := plainMsg (.amsg o) o 4 s
def execAmsgl (o : MsgOp) (s : State) : Result := plainMsg (.amsgl o) o 8 s

/-- The checks of `amsgp` in their order (R231, R232, R378). -/
def payloadTrap (o : MsgPayOp) (c : Core) (ws : List Word) : Option Trap :=
  let a := c.rdS o.c
  if !cidZeros (c.rdS o.d) then some ⟨causeStBounds, c.rdS o.d⟩
  else if !c.okAccess a.toNat o.len then some ⟨causeLdBounds, a⟩
  else if !msgXformOk o.code.val o.len ws then some (illegalOf (.amsgp o))
  else (c.badIn a.toNat o.len).map fun g => ⟨causeEccLocal, BitVec.ofNat 64 g⟩

def execAmsgp (o : MsgPayOp) (s : State) : Result :=
  let c := s.core
  let ws := c.rdRun o.b 4
  afterWait o.wt s <| drained s <|
    match payloadTrap o c ws with
    | some t => raise t s
    | none =>
      if c.msgFull then waiting s
      else
        readPieces (.amsgp o) (c.rdS o.c).toNat o.len s fun bs =>
          sendMsg (.amsgp o) o.d o.o (c.rdS o.a) ws (some ⟨ws.getD 3 0, bs, o.code.val⟩) s

/-- `mint` (R388). -/
def execMint (a : SReg) (cause : Fin 6) (s : State) : Result :=
  let x := s.core.rdS a
  if !cidZeros x then raise ⟨causeStBounds, x⟩ s
  else if s.core.stFull then waiting s
  else doneIn (.mint a cause) (s.issue .mint x.toNat false (remoteAddr x.toNat 0) (.mint cause))

/-- `bfree` (R355): not counted, and not acknowledged. -/
def execBfree (a : SReg) (s : State) : Result :=
  let x := s.core.rdS a
  if !cidZeros x || x.toNat / 16 != s.cid / 16 then raise ⟨causeIllegal, x⟩ s
  else drained s <|
    doneIn (.bfree a) (s.send ⟨s.cid, x.toNat, s.core.ids.ctx.toNat, 0, false, s.core.pc, x, .bfree⟩)

/-! ## Reports of asynchronous failures (R383, R396, R397) -/

/-- A diverged replay goes on live from the event (R398). -/
def State.diverge (s : State) : State := s.mapCore Core.diverged

/-- Report a covered failure, live. -/
def reportLive (cov : Bool) (s : State) (k : Result) : Result :=
  if !cov then k
  else if s.core.trapHeld then .next s
  else raise s.core.report (s.mapCore fun c => c.record 5 0 c.afault)

/-- Report a covered failure, or go on. A replay reports where its record says, once the failure that the record names
has arrived; another failure is not reported (R397), unless the record's place has passed or the run has ended, where
the replay diverges (R398). -/
def reportOr (cov : Bool) (s : State) (k : Result) : Result :=
  if s.core.replaying then
    match s.core.matchesRec 5 with
    | some r =>
      match s.core.withNamed r.data with
      | none => waiting s
      | some c => if c.trapHeld then .next s else raise c.report { s with core := c.consume }
    | none => if cov && (s.core.nextRec.isNone || s.core.passedRec) then reportLive cov s.diverge k else k
  else reportLive cov s k

/-! ## `wait` (R226) -/

/-- The condition of a `wait`: an immediate of 63 removes its class. -/
def Core.waitMet (c : Core) (o : WaitOp) : Bool :=
  let ok (lim : Fin 64) (n : Nat) : Bool := lim == 63 || decide (n ≤ lim.val)
  ok o.ld c.cnt.ld && ok o.st c.cnt.st && ok o.cp c.cnt.cp && ok o.tl c.cnt.tl

/-- The classes that a `wait` covers. -/
def WaitOp_covers (o : WaitOp) (k : OpClass) : Bool :=
  match k with
  | .ld => o.ld != 63
  | .st => o.st != 63
  | .cp => o.cp != 63
  | .tl => o.tl != 63

def execWait (o : WaitOp) (s : State) : Result :=
  if !s.core.waitMet o then waiting s
  else reportOr (s.core.covered (WaitOp_covers o) true) s <| doneIn (.wait o) s

/-! ## `fence` (R230, R290, R400) -/

/-- A member of the group lies in another package than `pkg`. -/
def Group.reachesBeyond (g : Group) (pkg : Nat) : Bool := g.members.any fun m => pkgOf m.cid != pkg

/-- A Sound group's home, or a member of it, lies beyond the package (R290). -/
def State.groupFar (s : State) (h : Word) : Bool :=
  if fieldOf h.toNat 12 12 != s.pkg then true
  else
    match s.sound.groups.find? fun g => g.1 == fieldOf h.toNat 0 10 with
    | some (_, g) => g.reachesBeyond s.pkg
    | none => false

/-- The class in which a sound store counts (R290). -/
def soundReach (far : Bool) : Reach := if far then .fabric else .package

/-- A destination lies within a scope. -/
def State.inScope (s : State) (sc : FenceScope) (d : Dest) : Bool :=
  match sc, d with
  | .fabric, _ => true
  | .package, .core cid => pkgOf cid == s.pkg
  | .package, .global _ => true
  | .package, .group _ far => !far
  | .die, .core cid => pkgOf cid == s.pkg && s.dieOf cid == s.dieOf s.cid
  | .cluster, .core cid => cid / 16 == s.cid / 16
  | .core, .core cid => cid == s.cid
  | _, _ => false

/-- The destinations of a copy request (R345). -/
def Xfer.dests (x : Xfer) (cid : Nat) : List Dest :=
  match fieldOf x.w2.toNat 24 4 with
  | 0 | 3 => [.core cid]
  | 1 => [.global x.w1.toNat]
  | 2 => [.core (remoteCid x.w1)]
  | _ => ((List.range 16).filter fun k => x.w2.toNat / 2 ^ (32 + k) % 2 == 1).map fun k => .core (cid / 16 * 16 + k)

def FifoItem.xfer? : FifoItem → Option Xfer
  | .req x => some x
  | .join _ => none

/-- An operation that a `fence` waits for: a write, an atomic or a message (R230, R252). -/
def OutKind.fenced : OutKind → Bool
  | .store | .amo _ _ | .msg | .sound => true
  | _ => false

/-- Nothing within the scope is unanswered. -/
def State.fenceMet (s : State) (sc : FenceScope) : Bool :=
  (s.core.outst.all fun o => !(o.kind.fenced && s.inScope sc o.dest)) &&
    ((s.core.copy.fifo.filterMap FifoItem.xfer?).all fun x => !(x.dests s.cid).any (s.inScope sc))

/-- The destination that a recorded failure names (R382). -/
def Core.failDest (c : Core) : Dest :=
  if c.afault.getLsbD 10 then .global c.afaddr.toNat
  else if afCause c.afault == causeSndNack then .group c.afaddr c.afFar
  else .core (remoteCid c.afaddr)

def stCp (k : OpClass) : Bool := k == .st || k == .cp

/-- The failures that a `fence` covers. -/
def State.fenceCovered (s : State) (sc : FenceScope) : Bool := s.core.covered stCp (s.inScope sc s.core.failDest)

def fence (i : Instr) (sc : FenceScope) (s : State) : Result :=
  if !s.fenceMet sc then waiting s else reportOr (s.fenceCovered sc) s <| doneIn i s

def execFenceCore (s : State) : Result := fence .fenceCore .core s
def execFenceCluster (s : State) : Result := fence .fenceCluster .cluster s
def execFenceDie (s : State) : Result := fence .fenceDie .die s
def execFencePackage (s : State) : Result := fence .fencePackage .package s
def execFenceFabric (s : State) : Result := fence .fenceFabric .fabric s

end Sys2Proof.Machine
end

