-- ==== Sys2Proof/Machine/Gmem.lean ====
section
/-! DEFINITION. Global memory: the chunk codec (R324 to R327), the home hash (R310), the page walk (R313 to
R317), placement and the chunk counters (R319 to R322), and one access to a chunk (R311, R329). -/

namespace Sys2Proof.Machine

/-! ## The codec (R324 to R327) -/

def chunkSize : Nat := 4096

/-- A granule's mask and its non-zero bytes. -/
def granuleEncode (g : List Byte) : List Byte :=
  let mask := g.zipIdx.foldl (fun m (b, i) => if b == 0 then m else m + 2 ^ i) 0
  toBytesLE 8 mask ++ g.filter (· != 0)

/-- The index of the last granule that is not all zero, plus 1. -/
def granuleCount (gs : List (List Byte)) : Nat :=
  gs.zipIdx.foldl (fun n (g, i) => if g.all (· == 0) then n else i + 1) 0

/-- Padded with zeros to `n` bytes. -/
def padTo (n : Nat) (bs : List Byte) : List Byte := bs ++ List.replicate (n - bs.length) 0

/-- The encoder: `MD` and the slot bytes (R326). -/
def encodeChunk (bs : List Byte) : BitVec 8 × List Byte :=
  let gs := chunksOf 64 bs
  let n := granuleCount gs
  if n == 0 then (0x80, [])
  else
    let body := (gs.take n).flatMap granuleEncode
    let units := (8 + body.length + 31) / 32
    if units ≤ 127 then
      let head : List Byte := [BitVec.ofNat 8 units, BitVec.ofNat 8 n, 1, 0]
      let rest := padTo (units * 32 - 8) body
      (BitVec.ofNat 8 units, head ++ toBytesLE 4 (crc32c (head ++ rest)) ++ rest)
    else (0, bs)

/-- The bytes of one granule from its mask: the granule and the rest. -/
def granuleBytes (mask : Nat) : Nat → List Byte → Option (List Byte × List Byte)
  | 0, rest => some ([], rest)
  | k + 1, rest =>
    if mask % 2 == 1 then
      match rest with
      | b :: rest => if b == 0 then none else (granuleBytes (mask / 2) k rest).map fun (g, r) => (b :: g, r)
      | [] => none
    else (granuleBytes (mask / 2) k rest).map fun (g, r) => (0 :: g, r)

/-- `n` granules; what follows them must be zero. -/
def granulesDecode : Nat → List Byte → Option (List Byte)
  | 0, rest => if rest.all (· == 0) then some [] else none
  | n + 1, rest =>
    if rest.length < 8 then none
    else
      match granuleBytes (ofBytesLE (rest.take 8)) 64 (rest.drop 8) with
      | none => none
      | some (g, r) => (granulesDecode n r).map fun gs => g ++ gs

/-- The decoder on a chunk's slot bytes; none where it is malformed (R327). -/
def decodeSlot (md : Nat) (slot : Nat → List Byte) : Option (List Byte) :=
  if md == 0x80 then some (List.replicate chunkSize 0)
  else if md == 0 then some (slot chunkSize)
  else if 0x80 < md then none
  else
    let bs := slot (md * 32)
    let at_ (k : Nat) : Nat := ((bs[k]?).map (·.toNat)).getD 0
    let n := at_ 1
    let crc := ofBytesLE ((bs.drop 4).take 4)
    if at_ 0 == md && 1 ≤ n && n ≤ 64 && at_ 2 == 1 && at_ 3 == 0 &&
        crc == crc32c (bs.take 4 ++ bs.drop 8) then
      (granulesDecode n (bs.drop 8)).map (padTo chunkSize)
    else none

def Chunk.zero : Chunk := ⟨0x80, [], false, false⟩

/-- A read of the chunk reads its slot: neither a zero chunk nor a reserved `MD` does (R325). -/
def Chunk.read (k : Chunk) : Bool := decide (k.md.toNat < 0x80)

/-- A read of the chunk meets an uncorrectable error. -/
def Chunk.poisoned (k : Chunk) : Bool := k.poison && k.read

def Chunk.decode (k : Chunk) : Option (List Byte) :=
  if k.poisoned then none else decodeSlot k.md.toNat fun n => k.slot.readBytes 0 n

/-- A chunk that holds plain bytes in the form of R326; the slot's other bytes keep their contents, and a zero chunk
writes no byte of it. -/
def Chunk.store (k : Chunk) (bs : List Byte) : Chunk :=
  let (md, slot) := encodeChunk bs
  if md == 0x80 then { k with md := md } else ⟨md, k.slot.writeBytes 0 slot, false, false⟩

/-- The cost of a chunk in tokens: its encoded size (R364). -/
def mdCost (md : BitVec 8) : Nat :=
  if 0x80 ≤ md.toNat then 32 else if md == 0 then 4096 else md.toNat * 32

/-! ## Chunks by number -/

/-- The items of a list by rising key, with one item put in at its key or taken out. -/
def insertKey {α : Type} (k : Nat) (x : α) : List (Nat × α) → List (Nat × α)
  | [] => [(k, x)]
  | (j, y) :: rest =>
    if k < j then (k, x) :: (j, y) :: rest
    else if j = k then (k, x) :: rest
    else (j, y) :: insertKey k x rest

def eraseKey {α : Type} (k : Nat) : List (Nat × α) → List (Nat × α)
  | [] => []
  | (j, y) :: rest => if j = k then rest else (j, y) :: eraseKey k rest

/-- The keys rise strictly from `lo`, and every item meets `p`. -/
def keysRise {α : Type} (p : α → Bool) : Nat → List (Nat × α) → Bool
  | _, [] => true
  | lo, (k, x) :: rest => decide (lo ≤ k) && p x && keysRise p (k + 1) rest

/-- Global memory's canonical form: chunks by rising number, no zero chunk, each slot canonical; table entries by
rising address, no zero entry. -/
def Gmem.wf (g : Gmem) : Bool :=
  keysRise (fun k => k != Chunk.zero && k.slot.wf) 0 g.chunks && keysRise (fun e => e != 0) 0 g.tables

def Gmem.chunk (g : Gmem) (n : Nat) : Chunk := ((g.chunks.find? fun x => x.1 == n).map (·.2)).getD Chunk.zero

def Gmem.setChunk (g : Gmem) (n : Nat) (k : Chunk) : Gmem :=
  { g with chunks := if k == Chunk.zero then eraseKey n g.chunks else insertKey n k g.chunks }

/-! ## The home slice (R310) -/

def homeSlice (va : Nat) : Nat :=
  let y := fieldOf va 16 32 * 0x9E3779B1 % 2 ^ 32
  y / 2 ^ 16 * 96 / 2 ^ 16

/-! ## The page walk (R313 to R317) -/

def Gmem.entry (g : Gmem) (pa : Nat) : Word := ((g.tables.find? fun x => x.1 == pa).map (·.2)).getD 0

def Gmem.setEntry (g : Gmem) (pa : Nat) (e : Word) : Gmem :=
  { g with
    tables := if e == 0 then eraseKey pa g.tables else insertKey pa e g.tables
    badTables := g.badTables.filter fun x => x != pa }

/-- Write entries by physical address. -/
def Gmem.setEntries (g : Gmem) (es : List (Nat × Word)) : Gmem := es.foldl (fun g x => g.setEntry x.1 x.2) g

/-- Write roots by context. -/
def Gmem.setRoots (g : Gmem) (roots : List (Nat × Nat)) : Gmem :=
  { g with roots := roots ++ g.roots.filter fun x => !(roots.any fun y => y.1 == x.1) }

def Gmem.root (g : Gmem) (ctx : Nat) : Option Nat := (g.roots.find? fun x => x.1 == ctx).map (·.2)

/-- The index bits of a level (R313). -/
def levelIndex (va lvl : Nat) : Nat :=
  match lvl with
  | 3 => fieldOf va 44 12
  | 2 => fieldOf va 32 12
  | 1 => fieldOf va 21 11
  | _ => fieldOf va 16 5

/-- Reason codes of a walk or a request (R317, R362). -/
def reasonNotValid : Nat := 1
def reasonPerm : Nat := 2
def reasonCompressed : Nat := 3
def reasonMalformed : Nat := 4
def reasonCodec : Nat := 5
def reasonEcc : Nat := 6
def reasonRefused : Nat := 7
def reasonLink : Nat := 8

/-- The fields of a leaf entry (R314). -/
def leafFrame (e : Word) : Nat := fieldOf e.toNat 16 36
def leafHint (e : Word) : Nat := fieldOf e.toNat 8 7
def leafD (e : Word) : Bool := e.getLsbD 7
def leafA (e : Word) : Bool := e.getLsbD 6
def leafZ (e : Word) : Bool := e.getLsbD 5
def leafPl (e : Word) : Nat := fieldOf e.toNat 3 2
def leafW (e : Word) : Bool := e.getLsbD 2
def leafR (e : Word) : Bool := e.getLsbD 1
def entryV (e : Word) : Bool := e.getLsbD 0
def entryCtx (e : Word) : Nat := fieldOf e.toNat 52 12

/-- The physical address of the table that an entry names (R315). -/
def nextTable (e : Word) : Nat := fieldOf e.toNat 8 44 * 256

/-- How a walk ends: a leaf at a physical address and its level, a fault to resolve, or a failure. -/
inductive Walk where
  | leaf (pa : Nat) (lvl : Nat) (e : Word)
  | fault (reason : Nat)
  | fail (reason : Nat)
deriving DecidableEq, Repr

/-- The pages of a frame number: the frame of the 64 KiB block of `va` in a leaf of level `lvl`. -/
def blockFrame (e : Word) (lvl va : Nat) : Nat := leafFrame e + (if lvl == 1 then fieldOf va 16 5 else 0)

/-- The die pool of a near frame (R319). -/
def Gmem.nearDie (g : Gmem) (f : Nat) : Option Nat :=
  (List.range 6).find? fun d =>
    match g.near.toList[d]? with
    | some (b, n) => decide (b ≤ f) && decide (f < b + n)
    | none => false

/-- The frame lies in the pool that PL names. -/
def Gmem.framePool (g : Gmem) (e : Word) (f : Nat) : Bool :=
  if leafPl e == 0 then decide (f < g.ni) else (g.nearDie f).isSome

/-- The walk from an entry at physical address `pa` (R316, R389); `fuel` is the level plus 1. -/
def Gmem.walkFrom (g : Gmem) (ctx va : Nat) (write : Bool) : Nat → Nat → Walk
  | 0, _ => .fail reasonMalformed
  | lvl + 1, pa =>
    let e := g.entry pa
    if g.badTables.contains pa then .fail reasonEcc
    else if !entryV e then .fault reasonNotValid
    else if entryCtx e != ctx then .fail reasonMalformed
    else if !leafR e && !leafW e then
      if lvl == 0 || fieldOf e.toNat 3 5 != 0 then .fail reasonMalformed
      else Gmem.walkFrom g ctx va write lvl (nextTable e + 8 * levelIndex va (lvl - 1))
    else if e.getLsbD 15 then .fail reasonMalformed
    else if 2 ≤ lvl || (lvl == 1 && leafFrame e % 32 != 0) then .fail reasonMalformed
    else if 2 ≤ leafPl e || (leafPl e == 1 && 95 < leafHint e) then .fail reasonMalformed
    else if leafZ e then .fault reasonCompressed
    else if (if write then !leafW e else !leafR e) then .fault reasonPerm
    else if !g.framePool e (leafFrame e) then .fail reasonMalformed
    else .leaf pa lvl e

def Gmem.walk (g : Gmem) (ctx va : Nat) (write : Bool) : Walk :=
  match g.root ctx with
  | none => .fault reasonNotValid
  | some pa => g.walkFrom ctx va write 4 (pa + 8 * levelIndex va 3)

/-- The first VA of a page and its size (R313). -/
def pageOf (va lvl : Nat) : Nat := if lvl == 1 then va / 2 ^ 21 * 2 ^ 21 else va / 2 ^ 16 * 2 ^ 16
def pageSize (lvl : Nat) : Nat := if lvl == 1 then 2 ^ 21 else 2 ^ 16

def Tlb.covers (t : Tlb) (ctx va : Nat) : Bool := t.ctx == ctx && pageOf va t.level == t.page

/-- How a translation ends: the 64 KiB frame, a fault, a failure, or a wait for an eviction (R332). -/
inductive Xlat where
  | frame (g : Gmem) (f : Nat)
  | fault (reason : Nat)
  | fail (reason : Nat)
  | held
deriving DecidableEq, Repr

/-- Translate a VA (R316, R317): a cached translation serves it, unless it lacks the permission or D. -/
def Gmem.translate (g : Gmem) (ctx va : Nat) (write : Bool) : Xlat :=
  if g.evicting.any fun p => p.1 == ctx && p.2 == pageOf va 0 then .held
  else
    match g.tlb.find? fun t => t.covers ctx va && (if write then leafW t.entry && leafD t.entry else leafR t.entry) with
    | some t => .frame g (blockFrame t.entry t.level va)
    | none =>
      match g.walk ctx va write with
      | .fault r => .fault r
      | .fail r => .fail r
      | .leaf pa lvl e =>
        let e' := e ||| (if write then 0xC0#64 else 0x40#64)
        let g := g.setEntry pa e'
        .frame { g with tlb := ⟨ctx, pageOf va lvl, lvl, e'⟩ :: g.tlb.filter fun t => !t.covers ctx va }
          (blockFrame e lvl va)

/-! ## Firmware's writes of tables (R312, R315, R318, R319) -/

/-- The size of a table of a level, and the VA range of one of its entries (R313). -/
def tableSize (lvl : Nat) : Nat :=
  match lvl with
  | 0 => 256
  | 1 => 16384
  | _ => 32768

def entrySpan (lvl : Nat) : Nat :=
  match lvl with
  | 0 => 2 ^ 16
  | 1 => 2 ^ 21
  | 2 => 2 ^ 32
  | _ => 2 ^ 44

/-- A valid leaf: its context, its first VA, its level and its entry. -/
structure Mapping where
  ctx : Nat
  va : Nat
  lvl : Nat
  entry : Word
deriving DecidableEq, Repr

/-- The frames that a mapping names. -/
def Mapping.frames (m : Mapping) : Nat × Nat :=
  if leafZ m.entry then (0, 0) else (leafFrame m.entry, if m.lvl == 1 then 32 else 1)

/-- A table in use: its physical address and its level. -/
structure TableAt where
  pa : Nat
  lvl : Nat
deriving DecidableEq, Repr

/-- The tables and the leaves below a table of level `lvl` at `pa`, whose VA range begins at `va`; `fuel` is the level
plus 1. -/
def Gmem.below (g : Gmem) (ctx : Nat) : Nat → Nat → Nat → List TableAt × List Mapping
  | 0, _, _ => ([], [])
  | lvl + 1, pa, va =>
    let mine := g.tables.filter fun x => decide (pa ≤ x.1) && decide (x.1 < pa + tableSize lvl) && entryV x.2
    mine.foldl (fun acc x =>
      let at_ := va + (x.1 - pa) / 8 * entrySpan lvl
      if leafR x.2 || leafW x.2 then (acc.1, acc.2 ++ [⟨ctx, at_, lvl, x.2⟩])
      else
        let r := Gmem.below g ctx lvl (nextTable x.2) at_
        (acc.1 ++ r.1, acc.2 ++ r.2)) ([⟨pa, lvl⟩], [])

/-- Every table and every valid leaf of every context. -/
def Gmem.mapped (g : Gmem) : List TableAt × List Mapping :=
  g.roots.foldl (fun acc r =>
    let x := g.below r.1 4 r.2 0
    (acc.1 ++ x.1, acc.2 ++ x.2)) ([], [])

/-- Two ranges of first element and length meet. -/
def rangesMeet (a b : Nat × Nat) : Bool := decide (a.1 < b.1 + b.2) && decide (b.1 < a.1 + a.2)

/-- A table lies in the interleaved pool, aligned to its size (R313, R315). -/
def Gmem.tableOk (g : Gmem) (t : TableAt) : Bool :=
  t.pa % tableSize t.lvl == 0 && decide (t.pa / 65536 < g.ni)

/-- A near page lies in the pool of the die that holds cluster `HINT` (R319). -/
def Gmem.hintOk (g : Gmem) (e : Word) : Bool :=
  leafZ e || leafPl e != 1 || 95 < leafHint e ||
    g.nearDie (leafFrame e) == (g.clusterDie.toList[leafHint e]?).map (·.val)

/-- No frame has two mappings of which one is writable (R312). -/
def aliasOk : List Mapping → Bool
  | [] => true
  | m :: rest =>
    (rest.all fun x => !rangesMeet m.frames x.frames || (!leafW m.entry && !leafW x.entry)) && aliasOk rest

/-- The bytes of a save area, and its chunks (R391). -/
def areaSize : Nat := 0x180000
def areaChunks : Nat := 384

/-- Where a zone record lies in the pools. -/
def recordAt (r : Nat) : Nat := 64 * r

/-- The bytes of the pools from `a` hold a record of the zone, or belong to a save area (R331, R391). -/
def Gmem.reserves (g : Gmem) (a n : Nat) : Bool :=
  (g.zone.any fun z => rangesMeet (recordAt z.1, z.2) (a, n)) || g.areas.any fun x => rangesMeet (x * chunkSize, areaSize) (a, n)

/-- The bytes of the pools that a mapping names. -/
def Mapping.span (m : Mapping) : Nat × Nat := (m.frames.1 * 65536, m.frames.2 * 65536)

/-- What firmware keeps true of the tables: their places, the die of near pages, no alias of writable data, no context
that maps a table, and neither a table nor a mapped page over what firmware has reserved (R312, R313, R315, R319, R331,
R391). -/
def Gmem.mapOk (g : Gmem) : Bool :=
  let (ts, ms) := g.mapped
  ts.all g.tableOk && (ms.all fun m => g.hintOk m.entry) && aliasOk ms &&
    (ms.all fun m => ts.all fun t => !rangesMeet m.frames (t.pa / 65536, 1)) &&
    (ms.all fun m => !g.reserves m.span.1 m.span.2) && ts.all fun t => !g.reserves t.pa (tableSize t.lvl)

/-- The bytes of the pools from `a` hold no mapped page, no table and nothing that firmware has reserved. -/
def Gmem.unused (g : Gmem) (a n : Nat) : Bool :=
  let (ts, ms) := g.mapped
  (ms.all fun m => !rangesMeet m.span (a, n)) && (ts.all fun t => !rangesMeet (t.pa, tableSize t.lvl) (a, n)) &&
    !g.reserves a n

/-- Remove the translations of a context that touch `[va, va + len)` (R318). -/
def Gmem.shoot (g : Gmem) (ctx va len : Nat) : Gmem :=
  { g with tlb := g.tlb.filter fun t => !(t.ctx == ctx && overlap t.page (pageSize t.level) va len) }

/-- The valid leaves that a change of the tables takes away or alters. -/
def Gmem.changed (g g' : Gmem) : List Mapping :=
  let new := g'.mapped.2
  g.mapped.2.filter fun m => !new.contains m

/-- Firmware writes roots and entries, with the shootdown of every valid leaf that it changes (R318); none where R312,
R315, R319, R331 or R391 forbids the result. -/
def Gmem.firmwareSet (g : Gmem) (roots : List (Nat × Nat)) (es : List (Nat × Word)) : Option Gmem :=
  let g' := (g.setEntries es).setRoots roots
  if g'.mapOk then some ((g.changed g').foldl (fun g m => g.shoot m.ctx m.va (pageSize m.lvl)) g') else none

/-! ## Leaf entries as firmware finds them -/

/-- The leaf of a VA, whatever it permits: its physical address, its level and the entry. -/
def Gmem.leafFrom (g : Gmem) (va : Nat) : Nat → Nat → Option (Nat × Nat × Word)
  | 0, _ => none
  | lvl + 1, pa =>
    let e := g.entry pa
    if !entryV e then none
    else if leafR e || leafW e then some (pa, lvl, e)
    else Gmem.leafFrom g va lvl (nextTable e + 8 * levelIndex va (lvl - 1))

def Gmem.leaf (g : Gmem) (ctx va : Nat) : Option (Nat × Nat × Word) :=
  (g.root ctx).bind fun pa => g.leafFrom va 4 (pa + 8 * levelIndex va 3)

/-! ## Placement and the counters (R320 to R322) -/

def vaChunk (va : Nat) : Nat := va / chunkSize % 16

/-- The stacks of a die, the first before the second. -/
def Gmem.stacksOf (g : Gmem) (d : Nat) : List Nat :=
  (List.range 12).filter fun k => (g.stackDie.toList[k]?).map (·.val) == some d

/-- Where chunk `c` of a frame lies: the stack, and the offset within the stack's share of the frame's pool (R320,
R321). -/
def Gmem.place (g : Gmem) (f c : Nat) : Nat × Nat :=
  match g.nearDie f with
  | some d =>
    let n := 16 * (f - ((g.near.toList[d]?).getD (0, 0)).1) + c
    (((g.stacksOf d)[n % 2]?).getD 0, n / 2 * chunkSize)
  | none =>
    let n := 16 * f + c
    let grp := n / 12
    let h := (grp ^^^ (grp / 2 ^ 7) ^^^ (grp / 2 ^ 17)) % 12
    ((n + h) % 12, grp * chunkSize)

/-- The stack of chunk `c` of a frame. -/
def Gmem.stackOf (g : Gmem) (f c : Nat) : Nat := (g.place f c).1

def DieCount.add (k : DieCount) (write loc : Bool) : DieCount :=
  match write, loc with
  | false, true => { k with lrd := k.lrd + 1 }
  | true, true => { k with lwr := k.lwr + 1 }
  | false, false => { k with rrd := k.rrd + 1 }
  | true, false => { k with rwr := k.rwr + 1 }

/-- The die of a slice (R401). -/
def Gmem.dieOfSlice (g : Gmem) (slice : Nat) : Nat := ((g.sliceDie.toList[slice]?).map (·.val)).getD 0

/-- The die of a stack (R401). -/
def Gmem.dieOfStack (g : Gmem) (stack : Nat) : Nat := ((g.stackDie.toList[stack]?).map (·.val)).getD 0

/-- Count one chunk access at the die that serves it, unless the slice's cache or a zero chunk does (R322). -/
def Gmem.count (g : Gmem) (va f c : Nat) (write zero hit : Bool) : Gmem :=
  if zero || hit then g
  else
    let d := g.dieOfStack (g.stackOf f c)
    if h : d < 6 then
      { g with counters := g.counters.set d ((g.counters.get ⟨d, h⟩).add write (g.dieOfSlice (homeSlice va) == d)) }
    else g

/-- The stored chunk of a VA, where its page is mapped, whatever it permits. -/
def Gmem.stored (g : Gmem) (ctx va : Nat) : Option Chunk :=
  match g.translate ctx va true, g.translate ctx va false with
  | .frame _ f, _ | _, .frame _ f => some (g.chunk (16 * f + vaChunk va))
  | _, _ => none

/-! ## Errors that are corrected (R328, R389) -/

/-- The corrected count of a stack rises, and saturates. -/
def Gmem.correct (g : Gmem) (stack : Nat) : Gmem :=
  if h : stack < 12 then
    let n := g.corrected.get ⟨stack, h⟩
    { g with corrected := g.corrected.set stack (if n == BitVec.allOnes 32 then n else n + 1) }
  else g

/-- A read at the stack repairs an error that can be corrected. -/
def Gmem.repair (g : Gmem) (f c : Nat) (hit : Bool) : Gmem :=
  let n := 16 * f + c
  let k := g.chunk n
  if k.soft && k.read && !hit then (g.setChunk n { k with soft := false }).correct (g.stackOf f c) else g

/-- The corrected count of the stack that holds the chunk of a VA rises. -/
def Gmem.correctAt (g : Gmem) (ctx va : Nat) : Gmem :=
  match g.translate ctx va false with
  | .frame _ f => g.correct (g.stackOf f (vaChunk va))
  | _ => g

/-! ## One access to a chunk (R311, R328, R329) -/

/-- How an access ends: done with the chunk's plain bytes, a malformed chunk with its poison, a fault to
resolve, a failure, or a wait. -/
inductive Access_ where
  | done (g : Gmem) (bytes : List Byte)
  | bad (g : Gmem) (poison : Bool)
  | fault (reason : Nat)
  | fail (reason : Nat)
  | held
deriving DecidableEq, Repr

/-- Read the chunk of `va`. -/
def Gmem.readChunk (g : Gmem) (ctx va : Nat) (hit : Bool) : Access_ :=
  match g.translate ctx va false with
  | .fault r => .fault r
  | .fail r => .fail r
  | .held => .held
  | .frame g f =>
    let k := g.chunk (16 * f + vaChunk va)
    let g := (g.count va f (vaChunk va) false (!k.read) hit).repair f (vaChunk va) hit
    match k.decode with
    | some bs => .done g bs
    | none => .bad g k.poisoned

/-- A read of a stored chunk that a malformed first fetch repeats: the state, and the plain bytes (R328 step 1). `hit`
says that the slice's cache serves it. -/
def Gmem.fetchTwice (g : Gmem) (va f : Nat) (k : Chunk) (hit : Bool) : Gmem × Option (List Byte) :=
  let once (g : Gmem) : Gmem := (g.count va f (vaChunk va) false (!k.read) hit).repair f (vaChunk va) hit
  match k.decode with
  | some bs => (once g, some bs)
  | none => (once (once g), none)

/-- Write bytes at `va` within its chunk: the whole chunk is replaced, a part is merged (R329). -/
def Gmem.writeChunk (g : Gmem) (ctx va : Nat) (bs : List Byte) (hit hitW : Bool) : Access_ :=
  match g.translate ctx va true with
  | .fault r => .fault r
  | .fail r => .fail r
  | .held => .held
  | .frame g f =>
    let n := 16 * f + vaChunk va
    let k := g.chunk n
    let put (g : Gmem) (all : List Byte) : Access_ :=
      let k' := k.store all
      .done ((g.count va f (vaChunk va) true (k'.md == 0x80) hitW).setChunk n k') []
    if bs.length == chunkSize then put g bs
    else
      match g.fetchTwice va f k hit with
      | (g, none) => .bad g k.poisoned
      | (g, some old) =>
        let o := va % chunkSize
        put g (old.take o ++ bs ++ old.drop (o + bs.length))

/-- The reason of a chunk that stays malformed (R328). -/
def badReason (poison : Bool) : Nat := if poison then reasonEcc else reasonCodec

/-- The two cache choices of a step (R322, log entry 5). -/
def State.hitR (s : State) : Bool := Config.cacheHit (2 * s.steps)
def State.hitW (s : State) : Bool := Config.cacheHit (2 * s.steps + 1)

/-! ## Whole reads, for the hub's own transfers -/

/-- Read the chunk of `va` as an engine without a replica does: a malformed one is fetched once more (R328). -/
def Gmem.fetchChunk (g : Gmem) (ctx va : Nat) (hit : Bool) : Access_ :=
  match g.readChunk ctx va hit with
  | .bad g _ => g.readChunk ctx va hit
  | a => a

/-- How a read of several chunks ends. The chunks read before a failure have been counted (R322). -/
inductive ReadOutcome where
  | done (g : Gmem) (bytes : List Byte)
  | fault (g : Gmem) (va : Nat) (reason : Nat)
  | fail (g : Gmem) (va : Nat) (reason : Nat)
  | held
deriving DecidableEq, Repr

/-- Read `n` bytes at `va`, chunk by chunk; `twice` says that a malformed chunk is fetched once more, and `fuel` bounds
the chunks. -/
def Gmem.readRange (g : Gmem) (ctx : Nat) (hit twice : Bool) : Nat → Nat → Nat → List Byte → ReadOutcome
  | 0, _, _, acc => .done g acc
  | fuel + 1, va, n, acc =>
    if n == 0 then .done g acc
    else
      match if twice then g.fetchChunk ctx va hit else g.readChunk ctx va hit with
      | .fault r => .fault g va r
      | .fail r => .fail g va r
      | .held => .held
      | .bad g p => .fail g va (badReason p)
      | .done g bs =>
        let k := min n (chunkSize - va % chunkSize)
        Gmem.readRange g ctx hit twice fuel (va + k) (n - k) (acc ++ (bs.drop (va % chunkSize)).take k)

/-! ## The hub's own writes (R213, R261, R396) -/

/-- One of the hub's writes is made now, or waits where its page is being evicted, lies in the zone or has no mapping that
permits it (R332). One that fails is lost (DESIGN CHOICE, log entry 25). -/
def Gmem.makeWrite (g : Gmem) (w : HubWrite) (hit hitW : Bool) : Gmem :=
  match g.writeChunk w.ctx w.va w.bytes hit hitW with
  | .done g _ | .bad g _ => g
  | .held | .fault _ => { g with writes := g.writes ++ [w] }
  | .fail _ => g

/-- Every write that waits is tried, in order. -/
def Gmem.makeWrites (g : Gmem) (hit hitW : Bool) : Gmem :=
  g.writes.foldl (fun g w => g.makeWrite w hit hitW) { g with writes := [] }

/-- A write of bytes at `va`, cut at the ends of chunks; `fuel` bounds the chunks. -/
def hubWrites (ctx : Nat) : Nat → Nat → List Byte → List HubWrite
  | 0, _, _ => []
  | fuel + 1, va, bs =>
    let k := min bs.length (chunkSize - va % chunkSize)
    if bs.isEmpty then [] else ⟨ctx, va, bs.take k⟩ :: hubWrites ctx fuel (va + k) (bs.drop k)

/-- The hub's writes that can be made now. -/
def State.flushWrites (s : State) : State :=
  if s.gmem.writes.isEmpty then s else { s with gmem := s.gmem.makeWrites s.hitR s.hitW }

/-- Write a short record at a VA of a context, behind the hub's earlier writes. -/
def State.pokeRecord (s : State) (ctx va : Nat) (bs : List Byte) : State :=
  let new := hubWrites ctx (bs.length / chunkSize + 2) (va % 2 ^ 56) bs
  ({ s with gmem := { s.gmem with writes := s.gmem.writes ++ new } }).flushWrites

/-- A write of the hub to these bytes of a context has still to be made. -/
def Gmem.unwritten (g : Gmem) (ctx va n : Nat) : Bool :=
  g.writes.any fun w => w.ctx == ctx && overlap w.va w.bytes.length va n

/-! ## Raw slots (R331, R335) -/

/-- An address in the pools lies in a table. -/
def Gmem.inTable (g : Gmem) (a : Nat) : Bool :=
  g.mapped.1.any fun t => decide (t.pa ≤ a) && decide (a < t.pa + tableSize t.lvl)

/-- One byte of the pools: of a table's entry, or of a chunk's slot. -/
def Gmem.slotByte (g : Gmem) (a : Nat) : Byte :=
  if g.inTable a then BitVec.ofNat 8 (fieldOf (g.entry (a / 8 * 8)).toNat (8 * (a % 8)) 8)
  else (g.chunk (a / chunkSize)).slot.read (a % chunkSize)

def Gmem.setSlotByte (g : Gmem) (a : Nat) (b : Byte) : Gmem :=
  if g.inTable a then
    let e := (g.entry (a / 8 * 8)).toNat
    let sh := 8 * (a % 8)
    g.setEntry (a / 8 * 8) (BitVec.ofNat 64 (e - fieldOf e sh 8 * 2 ^ sh + b.toNat * 2 ^ sh))
  else
    let n := a / chunkSize
    let k := g.chunk n
    g.setChunk n { k with slot := k.slot.write (a % chunkSize) b }

/-- Raw bytes of the pools, by their place in the frames. -/
def Gmem.readSlots (g : Gmem) : Nat → Nat → List Byte
  | _, 0 => []
  | a, n + 1 => g.slotByte a :: Gmem.readSlots g (a + 1) n

def Gmem.writeSlots : Gmem → Nat → List Byte → Gmem
  | g, _, [] => g
  | g, a, b :: rest => Gmem.writeSlots (g.setSlotByte a b) (a + 1) rest

/-- Read `n` bytes at `va` of a context. -/
def State.readGlobal (s : State) (ctx va n : Nat) : ReadOutcome :=
  s.gmem.readRange ctx s.hitR true (n / chunkSize + 2) va n []

end Sys2Proof.Machine
end

