-- ==== Sys2Proof/Machine/Serve.lean ====
section
/-! DEFINITION. Dispatch of messages by `yield` and `serve`, and `hret` (R237 to R240), with the transcript's
part in it (R396, R397). -/

namespace Sys2Proof.Machine

/-! ## Which message is dispatched -/

/-- What a dispatch finds: a message and the queue without it, nothing to dispatch, or a replay that has run out. -/
inductive NextMsg where
  | msg (m : Msg) (rest : List Msg)
  | none
  | exhausted
deriving DecidableEq, Repr

/-- The first message of a list that a test accepts, and the list without it. -/
def takeMsg (ok : Msg → Bool) : List Msg → Option (Msg × List Msg)
  | [] => .none
  | m :: rest => if ok m then some (m, rest) else (takeMsg ok rest).map fun (x, r) => (x, m :: r)

/-- A replay whose next record is no event of this place diverges at a dispatch (R398): at a `serve`, which goes on only
by an event or by the termination latch; and at a `yield`, which goes on without one, where the record's place has
passed. -/
def Core.offScript (c : Core) (serve : Bool) : Bool :=
  c.nextRec.isNone || c.passedRec || (serve && !c.expectsHere && !c.wl.term)

/-- The oldest entry; in a replay the entry that the next record names (R397), and nothing where the next record is
of another event. -/
def Core.nextMsg (c : Core) (serve : Bool) : NextMsg :=
  let q := c.inbox.arrival
  if c.replaying then
    match c.matchesRec 1 with
    | some r =>
      match takeMsg (fun m => m.digest == r.data) q with
      | some (m, rest) => .msg m rest
      | .none => .none
    | .none => if !q.isEmpty && c.offScript serve then .exhausted else .none
  else
    match q with
    | m :: rest => .msg m rest
    | [] => .none

/-- A replay whose next record is a message that has not arrived yet: the dispatch waits for it (R397). -/
def Core.awaitsMsg (c : Core) : Bool := c.replaying && (c.matchesRec 1).isSome

/-- A replay's next record is a dispatch or an item of this place: a `serve` waits for it. -/
def Core.awaitsEvent (c : Core) : Bool := c.replaying && c.expectsHere

/-- The transcript's part in a dispatch. -/
def Core.noteDispatch (c : Core) (typ : Nat) (data : Word) : Core :=
  if c.replaying then c.consume else c.record typ 0 data

/-! ## Dispatch (R237) -/

/-- Dispatch a message: a bad handler is refused to its sender and traps; a good one is entered, with `hres` and the
budget of a `yield`. -/
def dispatch (m : Msg) (rest : List Msg) (hres : Word) (yleft : Option Nat) (retired : Bool) (s : State) : Result :=
  let gone (c : Core) : Core := ({ c with inbox := { c.inbox with arrival := rest } } : Core).noteDispatch 1 m.digest
  if s.core.handlerOk m.handler then
    .next (s.mapCore fun c =>
      let c := gone c
      let c := if retired then
          { c with instret := c.instret + 1, trans := { c.trans with i := c.trans.i + 1 } }
        else c
      { c.enterHandler m.handler m.args m.sender hres with yleft := yleft })
  else if s.core.trapHeld then .next s
  else
    let s' := s.answer ⟨m.sender, m.ctx, 0, .late causeMsgReject m.pc m.afaddr⟩
    .next (s'.mapCore fun c => (gone c).takeTrap ⟨causeMsgReject, m.handler⟩ c.pc)

/-- A dispatch now would enter a handler: it finds a message whose handler passes the check. -/
def Core.entersHandler (c : Core) (serve : Bool) : Bool :=
  !c.isDebug && !c.status.hnd &&
    match c.nextMsg serve with
    | .msg m _ => c.handlerOk m.handler
    | .none => false
    | .exhausted => (c.inbox.arrival.head?).any fun m => c.handlerOk m.handler

/-- `yield` and `serve` are illegal at debug level and inside a handler (R31, R238). -/
def Core.noDispatch (c : Core) : Bool := c.isDebug || c.status.hnd

/-! ## `yield` (R239) -/

/-- The budget left, before the next dispatch: none for a `yield` without a limit. -/
def Core.yieldBudget (c : Core) (n : Nat) : Option Nat :=
  if n == 0 then none else some (c.yleft.getD n)

/-- One dispatch of a `yield`: the last one of a budget returns behind it. -/
def yieldTo (n : Nat) (m : Msg) (rest : List Msg) (s : State) : Result :=
  let pc := s.core.pc
  match s.core.yieldBudget n with
  | none => dispatch m rest pc none false s
  | some b => if b ≤ 1 then dispatch m rest (pc + 8) none true s else dispatch m rest pc (some (b - 1)) false s

/-- A `yield` with nothing to dispatch retires; while spilled messages have yet to move in, it stays (R234, R239). -/
def yieldEmpty (i : Instr) (s : State) : Result :=
  if !s.core.inbox.spill.isEmpty then stalled s else done i s fun c => { c with yleft := none }

def execYield (n : Nat) (s : State) : Result :=
  let i : Instr := .yield n
  let retire : Result := yieldEmpty i s
  if s.core.noDispatch then raise (illegalOf i) s
  else
    match s.core.nextMsg false with
    | .msg m rest => yieldTo n m rest s
    | .none => if s.core.awaitsMsg then waiting s else retire
    | .exhausted =>
      let s := s.diverge
      match s.core.inbox.arrival with
      | m :: rest => yieldTo n m rest s
      | [] => retire

/-! ## `serve` (R240) -/

/-- Begin to wait in `serve`, or go on waiting. -/
def State.serveWait (s : State) : State :=
  s.mapCore fun c =>
    if c.run == .wait then c
    else ({ c with wl := { c.wl with since := s.now } }).waitHere

/-- The core's slice offers a task, or a spilled message has yet to move in: the steps before step 3 of R240. -/
def State.serveMore (s : State) : Bool :=
  (s.wlOwner s.core && (s.offered (clusterOf s.cid)).isSome) || !s.core.inbox.spill.isEmpty

/-- Steps 2 to 4 of R240; the slice gives its task to a core that waits (`WL_DISPATCH`). -/
def serveIdle (s : State) : Result :=
  if s.core.wl.term && !s.serveMore then doneIn .serve s else .next s.serveWait

def execServe (s : State) : Result :=
  if s.core.noDispatch then raise (illegalOf .serve) s
  else
    match s.core.nextMsg true with
    | .msg m rest => dispatch m rest s.core.pc none false s
    | .none => if s.core.awaitsEvent then .next s.serveWait else serveIdle s
    | .exhausted =>
      let s := s.diverge
      match s.core.inbox.arrival with
      | m :: rest => dispatch m rest s.core.pc none false s
      | [] => serveIdle s

/-! ## `hret` (R238, R267) -/

/-- `s3` to `s10` from the shadow bank. -/
def Core.unshadow (c : Core) : Core := c.setArgs c.shadow.toList

def execHret (s : State) : Result :=
  if !s.core.status.hnd then raise (illegalOf .hret) s
  else
    .next ((s.retireTask s.cid).mapCore fun c =>
      let c := c.unshadow
      { c with status := { c.status with hnd := false } }.retireTo c.hres)

end Sys2Proof.Machine
end

