-- ==== Sys2Proof/Machine/WorklistEv.lean ====
section
/-! DEFINITION. The Ordinal worklist's instructions (R258 to R262, R277) and its steps: counting, floors,
dispatch, spilling, moving, stealing, termination and the stall watchdog (R264 to R280, R415). -/

namespace Sys2Proof.Machine

/-! ## The spill area, and what arms an epoch (R260, R275, R277) -/

/-- The worklist after an operation: the records of the tasks that it has spilled are written to the spill area. -/
def State.setWl (s : State) (w : Worklist) : State :=
  let new := w.spill.filter fun t => !(s.wl.spill.any fun u => u.seq == t.seq)
  new.foldl (fun s t => s.pokeRecord w.owner (w.spillBase.toNat + 48 * t.slot) t.record) { s with wl := w }

/-- Change every core of the owner context, the saved members among them (R277, R391). -/
def State.onOwners (s : State) (f : Core → Core) : State :=
  let s := s.onCores s.ownerCores f
  { s with saved := s.saved.map fun m => if s.wlOwner m.core then { m with core := f m.core } else m }

/-- Send a body to packages, each as soon as a path stands. -/
def State.sendAll (s : State) (pkgs : List Nat) (b : FlitBody) : State :=
  pkgs.foldl (fun s p => s.transmitOrPark p true b) s

/-- The other packages of the fabric worklist. -/
def State.peers (s : State) : List Nat := s.wl.sharing.filter fun p => p != s.pkg

/-- The waves begin anew. -/
def Worklist.waveOff (w : Worklist) : Worklist := { w with waveOn := false, wave := [], lastWave := none }

/-- The epoch is armed: the latches are cleared (R275, R277). What the packages answered before says nothing about this
epoch, so the waves begin anew (R276, R278). -/
def State.armHere (s : State) : State :=
  let t := s.onOwners fun c => { c with wl := { c.wl with term := false } }
  { t with wl := { t.wl.waveOff with armed := true } }

/-- The first push of an epoch arms it, here and in the packages that share the worklist. -/
def State.arm (s : State) : State :=
  if s.wl.armed then s else s.armHere.sendAll s.peers (.wlArm s.wl.epoch)

/-- The word of another package that a push has armed an epoch: this one, or the one behind a termination whose word
has yet to come. -/
def State.armedElsewhere (s : State) (epoch : Nat) : State :=
  if epoch == s.wl.epoch then (if s.wl.armed then s else s.armHere)
  else if s.wl.epoch < epoch then { s with wl := { s.wl with ahead := true } }
  else s

/-! ## `wlpush` and `wlwait` -/

/-- The pushing core's inversion count, saturating (R268). -/
def CoreWl.inverted (w : CoreWl) : CoreWl := if w.inv == 0xFFFF then w else { w with inv := w.inv + 1 }

def execWlpush (o : WlpushOp) (s : State) : Result :=
  let i : Instr := .wlpush o
  let c := s.core
  afterWait o.wt s <|
    if !s.wlOwner c then raise ⟨causePriv, 0⟩ s
    else
      let k := clusterOf s.cid
      let prio : BitVec 32 := (c.rdS o.c).setWidth 32
      let b := prio.toNat / 2 ^ s.wl.shift.toNat
      let inv : Bool := match s.wl.seen k with
        | some f => decide (b < f)
        | none => false
      let t : Task := ⟨c.rdS o.a, c.rdRun o.b 4, prio, s.cid, inv, s.wl.nextSeq, true, 0⟩
      match s.wl.place k t with
      | none => raise ⟨causeWlFull, prio.setWidth 64⟩ s
      | some w =>
        let w := { w with nextSeq := w.nextSeq + 1, incs := w.incs ++ [⟨k, t.seq, b⟩] }
        done i (s.setWl w).arm fun c => if inv then { c with wl := c.wl.inverted } else c

def execWlwait (s : State) : Result :=
  let c := s.core
  if !s.wlOwner c then raise ⟨causePriv, 0⟩ s
  else if c.status.hnd then raise (illegalOf .wlwait) s
  else if c.wl.term then doneIn .wlwait s
  else if c.isDebug then raise (illegalOf .wlwait) s
  else waiting s

/-! ## Cores that wait in `serve` (R265, R271, R280) -/

/-- The core waits at an instruction. -/
def Core.waitsAt (c : Core) (i : Instr) : Bool :=
  c.run == .wait &&
    match c.ir with
    | some f => f.ins == i
    | none => c.fetch (fun _ => 0) == .instr i

/-- The owner's cores that wait in `serve` with no message. -/
def State.serving (s : State) : List (Nat × Core) :=
  s.listed.filter fun c => s.wlOwner c.2 && !c.2.status.hnd && c.2.inbox.arrival.isEmpty && c.2.waitsAt .serve

def State.servingIn (s : State) (cluster : Nat) : List (Nat × Core) :=
  s.serving.filter fun c => clusterOf c.1 == cluster

/-! ## Counts and floors (R264) -/

/-- Mark a task as counted. -/
def Task.counted (t : Task) (seq : Nat) : Task := if t.seq == seq then { t with pending := false } else t

def Worklist.markCounted (w : Worklist) (seq : Nat) : Worklist :=
  { w with
    slices := w.slices.map fun sl => { sl with tasks := sl.tasks.map fun t => t.counted seq }
    spill := w.spill.map fun t => t.counted seq }

/-- `WL_COUNT_INCREMENT`: the hub counts a pending task and acknowledges with the floor. -/
def execWlCountIncrement (s : State) : Result :=
  match s.inp with
  | .idx k =>
    match s.wl.incs[k]? with
    | none => .next s
    | some x =>
      let w := { s.wl with incs := s.wl.incs.eraseIdx k }
      let w := w.recount s.now x.bucket (countOf w.counts x.bucket + 1)
      let w := w.markCounted x.seq
      .next { s with wl := { w with floorMsgs := w.floorMsgs ++ [⟨x.cluster, w.floor, some x.seq, s.now⟩] } }
  | _ => .next s

/-- A decrement has reached the hub: the increments that its slice sent before it have been counted (R301, R302). -/
def Worklist.decDue (w : Worklist) (d : WlDec) : Bool :=
  w.incs.all fun x => x.cluster != d.cluster || decide (d.after ≤ x.seq)

/-- `WL_COUNT_DECREMENT`. -/
def execWlCountDecrement (s : State) : Result :=
  match s.inp with
  | .idx k =>
    match s.wl.decs[k]? with
    | none => .next s
    | some d =>
      if !s.wl.decDue d then .next s
      else
        let w := { s.wl with decs := s.wl.decs.eraseIdx k }
        .next { s with wl := w.recount s.now d.bucket (countOf w.counts d.bucket - 1) }
  | _ => .next s

/-- `WL_FLOOR_RECEIVE`: the oldest floor on its way to a slice arrives. -/
def execWlFloorReceive (s : State) : Result :=
  match s.inp with
  | .idx cluster =>
    match s.wl.floorMsgs.find? fun m => m.cluster == cluster with
    | none => .next s
    | some m =>
      let w := { s.wl with floorMsgs := s.wl.floorMsgs.erase m }
      .next { s with wl := w.setSlice cluster { w.slice cluster with floor := m.floor } }
  | _ => .next s

/-! ## Dispatch of a task (R265, R266) -/

/-- The task that a slice would give a core: the offer, or in a replay the task that the next record names; a replay
that is off its script diverges at the offer. -/
def State.offerTo (s : State) (cluster : Nat) (c : Core) : Option Task :=
  if c.replaying then
    match c.matchesRec 2 with
    | some r =>
      (s.startable cluster).find? fun t => t.digest == r.data
    | none => if c.offScript true then s.offered cluster else none
  else s.offered cluster

/-- `a` has waited longer in `serve` than `b`, or as long with a lower `CORE`. -/
def waitedLonger (a b : Nat × Core) : Bool :=
  decide (a.2.wl.since < b.2.wl.since) || (a.2.wl.since == b.2.wl.since && decide (a.1 < b.1))

/-- The core of a cluster that is served next, with its task. -/
def State.nextServed (s : State) (cluster : Nat) : Option (Nat × Core × Task) :=
  (s.servingIn cluster).foldl (fun b x =>
    match s.offerTo cluster x.2 with
    | none => b
    | some t =>
      match b with
      | none => some (x.1, x.2, t)
      | some y => if waitedLonger x (y.1, y.2.1) then some (x.1, x.2, t) else b) none

/-- The words of a task as its handler receives them. -/
def Worklist.taskArgs (w : Worklist) (t : Task) : List Word :=
  t.words ++ [t.prio.setWidth 64, BitVec.ofNat 64 (w.bucket t), 0, 0]

/-- A task's entry into its handler at a core; a bad handler traps, and the task retires. -/
def Core.startTask (c : Core) (w : Worklist) (t : Task) : Core :=
  let c := if c.replaying && (c.matchesRec 2).isNone then c.diverged else c
  let c := c.noteDispatch 2 t.digest
  if c.handlerOk t.handler then
    { c.enterHandler t.handler (w.taskArgs t) t.pcid c.pc with wl := { c.wl with running := some t } }
  else c.takeTrap ⟨causeMsgReject, t.handler⟩ c.pc

/-! ## Spilling, refill and moves (R270, R271) -/

/-- `WL_SLICE_SPILL`: a slice above 448 entries spills its highest task beyond the bound. -/
def execWlSliceSpill (s : State) : Result :=
  match s.inp with
  | .idx cluster =>
    let w := s.wl
    let sl := w.slice cluster
    let beyond := sl.tasks.filter fun t => (w.seen cluster).isSome && !w.within (w.seen cluster) t
    if sl.tasks.length ≤ 448 || !w.spillRoom then .next s
    else
      match w.spillVictim beyond with
      | none => .next s
      | some v =>
        let w := w.setSlice cluster { sl with tasks := sl.tasks.filter fun x => x.seq != v.seq }
        .next (s.setWl (w.spillTask v))
  | _ => .next s

/-- A core runs what the host started on it; one that a halt found in IDLE does not (R31, R427). -/
def Core.hostRuns (c : Core) : Bool :=
  c.bound == .host && c.run != .idle && (c.run != .halt || c.halted.state != .idle)

/-- A core of the cluster is bound to a clause of the owner, from the accepted bind until it leaves the clause, saved or
not, or was started by the host in its context (R217, R271, R391). -/
def State.takesPart (s : State) (cluster : Nat) : Bool :=
  s.wl.enabled &&
    ((s.hub.binds.any fun b =>
        b.record.ctx == s.wl.owner && b.members.any fun m => clusterOf m.cid == cluster && !m.gone) ||
      (s.listed.any fun c => clusterOf c.1 == cluster && c.2.hostRuns && s.wlOwner c.2) ||
      s.saved.any fun m => clusterOf m.cid == cluster && m.core.bound == .host && s.wlOwner m.core)

/-- The first `n` tasks by bucket, then by acceptance. -/
def Worklist.lowest (w : Worklist) : Nat → List Task → List Task
  | 0, _ => []
  | n + 1, ts =>
    match ts.foldl (fun v t =>
      match v with
      | none => some t
      | some u =>
        if w.bucket t < w.bucket u || (w.bucket t == w.bucket u && t.seq < u.seq) then some t else some u) none with
    | none => []
    | some t => t :: Worklist.lowest w n (ts.filter fun x => x.seq != t.seq)

/-- The tasks of a list within the bound of the package's floor (R271, R272). -/
def Worklist.eligible (w : Worklist) (ts : List Task) : List Task := ts.filter fun t => w.within w.floor t

/-- The lower of the package's floor and the announced ones: F_seen at the hub (R273). -/
def Worklist.hubSeen (w : Worklist) : Option Nat := minFloor w.floor w.announcedFloor

/-- The queued tasks of a list that may be offered by the hub's F_seen (R265, R273). -/
def Worklist.offerable (w : Worklist) (ts : List Task) : List Task :=
  ts.filter fun t => !t.pending && w.within w.hubSeen t

def without (ts gone : List Task) : List Task := ts.filter fun t => !(gone.any fun g => g.seq == t.seq)

/-- Add tasks to a slice. -/
def Worklist.give (w : Worklist) (cluster : Nat) (ts : List Task) : Worklist :=
  let sl := w.slice cluster
  w.setSlice cluster { sl with tasks := sl.tasks ++ ts }

/-- A slice takes a refill: its cluster takes part, and it holds fewer than 64 entries (R271). -/
def State.refills (s : State) (cluster : Nat) : Bool :=
  s.takesPart cluster && decide ((s.wl.slice cluster).tasks.length < 64)

/-- The slice that the rotation serves next among those that take a refill. -/
def State.nextRefill (s : State) : Option Nat :=
  (List.range 96).findSome? fun k =>
    let c := (s.wl.refillTurn + k) % 96
    if s.refills c then some c else none

/-- `WL_REFILL` of a cluster's slice, in its turn. -/
def execWlRefill (s : State) : Result :=
  match s.inp with
  | .idx cluster =>
    let w := s.wl
    let ts := w.lowest 64 (w.eligible w.spill)
    if ts.isEmpty || s.nextRefill != some cluster then .next s
    else
      .next { s with wl :=
        ({ w with spill := without w.spill ts, refillTurn := (cluster + 1) % 96 }).give cluster ts }
  | _ => .next s

/-- The queued tasks of a slice that may move. -/
def Worklist.movable (w : Worklist) (cluster : Nat) : List Task := w.offerable (w.slice cluster).tasks

/-- The slice that holds the most tasks that may move, of those that take part, the lowest cluster on a tie. -/
def State.fullest (s : State) (but : Nat) : Nat :=
  (List.range 96).foldl (fun b k =>
    if k != but && s.takesPart k && (b == but || (s.wl.movable b).length < (s.wl.movable k).length) then k else b) but

/-- `WL_MOVE`: a slice with waiting cores and nothing eligible takes up to 16 tasks of the fullest, the lowest buckets and
then the oldest, as far as it has room (DESIGN CHOICE, log entry 77). -/
def execWlMove (s : State) : Result :=
  match s.inp with
  | .idx cluster =>
    let w := s.wl
    let k := s.fullest cluster
    if !s.takesPart cluster || (s.servingIn cluster).isEmpty || (w.offer cluster).isSome || k == cluster ||
        !(w.offerable w.spill).isEmpty then .next s
    else
      let room := sliceCap - (w.slice cluster).tasks.length
      let ts := w.lowest (min 16 room) (w.movable k)
      let sl := w.slice k
      .next { s with wl := (w.setSlice k { sl with tasks := without sl.tasks ts }).give cluster ts }
  | _ => .next s

/-! ## Across packages (R272 to R274, R415) -/

/-- Queued tasks within the bound of the package's floor. -/
def Worklist.load (w : Worklist) : List Task := w.eligible (w.allTasks.filter fun t => !t.pending)

/-- Announce to packages; one that cannot be reached is left out. -/
def State.announceTo (s : State) (pkgs : List Nat) (a : WlAnnounce) : State :=
  pkgs.foldl (fun s p => (s.transmit p true (.announce a)).getD s) s

/-- `WL_FLOOR_EXCHANGE`, every `WLXINT` hub cycles. -/
def execWlFloorExchange (s : State) : Result :=
  let w := s.wl
  if !w.enabled || w.sharing.isEmpty || s.hubNow < w.lastExchange + w.xint.toNat then .next s
  else
    let a : WlAnnounce := ⟨s.pkg, w.floor, min 65535 w.load.length, 0⟩
    .next (({ s with wl := { w with lastExchange := s.hubNow } }).announceTo s.peers a)

/-- The body at a place of the fabric's inbox, and the state without it. -/
def State.inboxAt (s : State) (k : Nat) : Option (FlitBody × State) :=
  (s.fabric.inbox[k]?).map fun b => (b, { s with fabric := { s.fabric with inbox := s.fabric.inbox.eraseIdx k } })

/-- `WL_ANNOUNCE_RECEIVE`: the last announcement of a package counts; or a push elsewhere has armed an epoch. -/
def execWlAnnounceReceive (s : State) : Result :=
  match s.inp with
  | .idx k =>
    match s.inboxAt k with
    | some (.announce a, s') =>
      let w := s'.wl
      let rest := w.announced.filter fun x => x.pkg != a.pkg
      .next { s' with wl := { w with announced := rest ++ [{ a with at_ := s.hubNow }] } }
    | some (.wlArm epoch, s') => .next (if s.wl.enabled then s'.armedElsewhere epoch else s)
    | _ => .next s
  | _ => .next s

/-- The package with the largest announced load, the lowest number on a tie. -/
def Worklist.victim (w : Worklist) : Option WlAnnounce :=
  w.announced.foldl (fun b a =>
    match b with
    | none => some a
    | some x => if x.load < a.load || (x.load == a.load && a.pkg < x.pkg) then some a else some x) none

/-- The package's queued tasks that may be offered, as a thief and its victim judge them. -/
def Worklist.stealable (w : Worklist) : List Task := w.offerable w.allTasks

/-- `WL_STEAL_REQUEST`. -/
def execWlStealRequest (s : State) : Result :=
  let w := s.wl
  if s.serving.isEmpty || !w.stealable.isEmpty || w.stealFrom.isSome then .next s
  else
    match w.victim with
    | none => .next s
    | some a =>
      match s.transmit a.pkg true (.stealAsk s.pkg) with
      | none => .next s
      | some s' => .next { s' with wl := { s'.wl with stealFrom := some a.pkg } }

/-- The batch that a victim gives: half of its eligible tasks, 64 at most. Those outside the slices come first, in the
spill area or in a batch to be placed as from there, and of one bucket the oldest (R274; DESIGN CHOICE, log entry 77). -/
def Worklist.batch (w : Worklist) : List Task :=
  let n := min 64 (w.stealable.length / 2)
  let ts := w.lowest n (w.offerable (w.spill ++ w.stealIn.flatten))
  ts ++ w.lowest (n - ts.length) (w.offerable (w.slices.toList.flatMap (·.tasks)))

/-- The worklist without the tasks of a batch that leaves. -/
def Worklist.giveAway (w : Worklist) (now : Nat) (ts : List Task) : Worklist :=
  let rest : Worklist := { w with
    spill := without w.spill ts
    slices := w.slices.map fun sl => { sl with tasks := without sl.tasks ts }
    stealIn := (w.stealIn.map fun b => without b ts).filter fun b => !b.isEmpty
    sent := w.sent + ts.length }
  rest.countOut now ts

/-- `WL_STEAL_ANSWER`: a batch leaves, if a path to the thief stands. -/
def execWlStealAnswer (s : State) : Result :=
  match s.wl.stealAsked with
  | [] => .next s
  | pkg :: rest =>
    let ts := s.wl.batch
    match s.transmit pkg true (.steal ts) with
    | none => .next s
    | some s' => .next { s' with wl := { s'.wl.giveAway s.now ts with stealAsked := rest } }

/-- A batch arrives at a hub, which counts it and clears each `INV` bit (R274); it is placed at `WL_STEAL_RECEIVE`. Its
tasks stand behind every task that this package has accepted so far, in the order of the batch (DESIGN CHOICE, log
entry 77). -/
def State.stealArrive (s : State) (ts : List Task) : State :=
  let w := s.wl
  let ts := ts.zipIdx.map fun (t, k) => { t with inv := false, pending := false, seq := w.nextSeq + k }
  let w := { w with recv := w.recv + ts.length, nextSeq := w.nextSeq + ts.length }
  let w := if ts.isEmpty then w else { w with stealIn := w.stealIn ++ [ts] }
  { s with wl := w.countIn s.now ts }

/-- The request of this package has been answered. -/
def State.stealDone (s : State) : State := { s with wl := { s.wl with stealFrom := none } }

/-- `WL_STEAL_RECEIVE`: a batch is placed as if refilling, in the slice whose turn it is (R271, R274). -/
def execWlStealReceive (s : State) : Result :=
  match s.inp, s.wl.stealIn with
  | .idx cluster, ts :: rest =>
    if s.nextRefill != some cluster then .next s
    else .next { s with wl := ({ s.wl with stealIn := rest, refillTurn := (cluster + 1) % 96 }).give cluster ts }
  | _, _ => .next s

/-- The last announcement of a package, or the enabling, in hub cycles. -/
def Worklist.heard (w : Worklist) (pkg : Nat) : Nat :=
  ((w.announced.find? fun a => a.pkg == pkg).map (·.at_)).getD w.enabledAt

/-- `WL_FABRIC_LEAVE` (R415): a silent package is dropped; one that hears from nobody leaves. -/
def execWlFabricLeave (s : State) : Result :=
  match s.inp with
  | .idx pkg =>
    let w := s.wl
    let silent (p : Nat) : Bool := decide (w.heard p + 16 * w.xint.toNat ≤ s.hubNow)
    if pkg == s.pkg then
      if !s.peers.isEmpty && s.peers.all silent then
        .next { s with wl := { w.waveOff with
          sharing := [], announced := [], stealFrom := none, stealAsked := [], waveDue := none } }
      else .next s
    else if w.sharing.contains pkg && silent pkg then
      .next { s with wl := { w.waveOff with
        sharing := w.sharing.filter fun p => p != pkg
        announced := w.announced.filter fun a => a.pkg != pkg
        stealFrom := if w.stealFrom == some pkg then none else w.stealFrom
        stealAsked := w.stealAsked.filter fun p => p != pkg } }
    else .next s
  | _ => .next s

/-! ## Termination (R275 to R277) -/

/-- Every floor that is on its way arrives, in order. -/
def Worklist.landFloors (w : Worklist) : Worklist :=
  w.floorMsgs.foldl (fun w m => w.setSlice m.1 { w.slice m.1 with floor := m.2 }) { w with floorMsgs := [] }

/-- The termination of the epoch at the package's owner cores, the saved members among them. It follows the floors that
the hub has sent, so a core that it releases finds its slice without a floor (R302, R303). A push that another package
has accepted since arms the next epoch. -/
def State.terminate (s : State) : State :=
  let s := s.onOwners fun c => ({ c with wl := { c.wl with term := true } }).pend 4
  let w := s.wl
  let s := { s with wl := { w.landFloors.waveOff with armed := false, epoch := w.epoch + 1, ahead := false } }
  if w.ahead then s.armHere else s

/-- Every package of the fabric worklist has answered the wave. -/
def Worklist.waveFull (w : Worklist) : Bool := w.waveOn && w.sharing.all fun p => w.wave.any fun a => a.pkg == p

/-- Two complete waves agree, and every task sent has been received (R276). -/
def Worklist.wavesAgree (w : Worklist) : Bool :=
  match w.lastWave with
  | none => false
  | some last =>
    w.waveFull && (w.wave.all fun a => last.any fun b => b.pkg == a.pkg && b.sent == a.sent && b.recv == a.recv) &&
      (w.wave.map (·.sent)).sum == (w.wave.map (·.recv)).sum

/-- The word of the coordinator that epoch `epoch` has ended, whichever epoch this package has counted so far. A push
accepted here since the last wave's answer belongs to the next epoch, and arms it. -/
def State.ended (s : State) (epoch : Nat) : State :=
  let t := { s with wl := { s.wl with epoch := epoch } }.terminate
  if s.wl.quiescent then t else t.arm

/-- `WL_TERMINATION`: of a package on its own, by the coordinator, or at its word. -/
def execWlTermination (s : State) : Result :=
  let w := s.wl
  match s.inp with
  | .idx k =>
    match s.inboxAt k with
    | some (.terminated epoch, s') => .next (if w.enabled then s'.ended epoch else s)
    | _ => .next s
  | _ =>
    if w.sharing.isEmpty then
      if w.enabled && w.armed && w.quiescent then .next s.terminate else .next s
    else if w.coordinator == s.pkg && w.armed && w.wavesAgree then
      .next ((s.ended w.epoch).sendAll s.peers (.terminated w.epoch))
    else .next s

/-- The coordinator begins a wave: every package is asked, itself among them (R276). -/
def State.startWave (s : State) : State :=
  let n := s.wl.waveNo + 1
  ({ s with wl := { s.wl with waveNo := n, waveOn := true, wave := [], waveDue := some n } }).sendAll s.peers (.waveAsk n)

/-- An answer reaches the coordinator; one to another wave than the one that runs says nothing. -/
def Worklist.noteAnswer (w : Worklist) (a : WaveAnswer) : Worklist :=
  if w.waveOn && a.no == w.waveNo && !(w.wave.any fun x => x.pkg == a.pkg) then { w with wave := w.wave ++ [a] } else w

/-- The package answers the wave that asks it, once it is quiescent. -/
def State.answerWave (s : State) : State :=
  match s.wl.waveDue with
  | none => s
  | some n =>
    if !s.wl.quiescent then s
    else
      let a : WaveAnswer := ⟨s.pkg, n, s.wl.sent, s.wl.recv⟩
      let s := { s with wl := { s.wl with waveDue := none } }
      if s.wl.coordinator == s.pkg then { s with wl := s.wl.noteAnswer a }
      else s.sendAll [s.wl.coordinator] (.waveAnswer a)

/-- The coordinator goes on: behind the first complete wave of a pair comes the second, and behind two that disagree a new
pair. -/
def State.nextWave (s : State) : State :=
  let w := s.wl
  if !w.waveOn then s.startWave
  else if w.waveFull && !w.wavesAgree then
    ({ s with wl := { w with lastWave := if w.lastWave.isNone then some w.wave else none } }).startWave
  else s

/-- `WL_TERMINATION_WAVE`: a wave's question or an answer arrives; or the package answers, and the coordinator runs the
waves. -/
def execWlTerminationWave (s : State) : Result :=
  match s.inp with
  | .idx k =>
    match s.inboxAt k with
    | some (.waveAnswer a, s') => .next { s' with wl := s'.wl.noteAnswer a }
    | some (.waveAsk n, s') => .next (if s.wl.enabled then { s' with wl := { s'.wl with waveDue := some n } } else s)
    | _ => .next s
  | _ =>
    if s.wl.sharing.isEmpty then .next s
    else if s.wl.waveDue.isSome then .next s.answerWave
    else if s.wl.coordinator == s.pkg then .next s.nextWave
    else .next s

/-! ## The stall watchdog (R280) -/

/-- The stall count runs. -/
def State.stalling (s : State) : Bool := !s.wl.counts.isEmpty && !s.serving.isEmpty

/-- The cores that run a task of the floor's bucket, or else any task. -/
def State.stallTargets (s : State) : List Nat :=
  let running := s.listed.filterMap fun c => c.2.wl.running.map fun t => (c.1, t)
  let low := running.filter fun x => some (s.wl.bucket x.2) == s.wl.floor
  (if low.isEmpty then running else low).map (·.1)

/-- `WL_STALL_EXPIRY`: `WLSTAT.STALL` at every core of the owner context, a saved member's among them (R391). -/
def execWlStallExpiry (s : State) : Result :=
  let w := s.wl
  if w.stallLimit == 0 || w.stallAcc < w.stallLimit.toNat || !s.stalling then .next s
  else
    let targets := s.stallTargets
    let s := s.onOwners fun c => { c with wl := { c.wl with stall := true } }
    let s := s.onCores targets fun c => c.pendWatchdog 1
    .next { s with wl := { s.wl with stallAcc := 0 } }

/-! ## Firmware (R258, R267) -/

/-- `WORKLIST_ENABLE`. The packages of a fabric worklist count its epochs from their enabling; a word about an epoch or a
wave that comes before waits for it (DEDUCED, log entry 84). -/
def execWorklistEnable (s : State) : Result :=
  match s.inp with
  | .worklist d =>
    if d.xint.toNat < 256 then .next s
    else
      .next { s with wl := { s.wl with
        enabled := true, owner := d.owner, spillBase := d.spillBase, spillCap := d.spillCap
        sharing := d.sharing, coordinator := d.coordinator, bound := d.bound, shift := d.shift
        xint := d.xint, stallLimit := d.stallLimit, armed := false, ahead := false, epoch := 0, announced := []
        waveOn := false, wave := [], lastWave := none, waveDue := none, stealFrom := none, stealAsked := []
        lastExchange := s.hubNow, enabledAt := s.hubNow, stallAcc := 0 } }
  | _ => .next s

/-- `WORKLIST_EMPTY`: every task that waits goes, the pending ones with their increments. A running task retires at its
own event (R267). -/
def execWorklistEmpty (s : State) : Result :=
  let queued := s.wl.allTasks.filter fun t => !t.pending
  let w := s.wl.countOut s.now queued
  .next { s with wl := { w with
    slices := w.slices.map fun sl => { sl with tasks := [] }, spill := [], incs := [], stealIn := [] } }

end Sys2Proof.Machine
end

