-- ==== Sys2Proof/Machine/Barriers.lean ====
section
/-! DEFINITION. Barriers (R241 to R243): `bar` of the four scopes, the sums of arrivals, the release, and the
entries that clauses and firmware free. -/

namespace Sys2Proof.Machine

/-! ## Instances (R241) -/

/-- The value of `CLAUSE` that a bind gives its members (R203). -/
def Bind.clause (b : Bind) : Nat := b.entry.queue * 2 ^ 32 + b.lseq.toNat

/-- The core is a member that has neither exited nor been stopped. -/
def Bind.has (b : Bind) (cid : Nat) : Bool := b.members.any fun m => m.cid == cid && !m.gone

/-- The core is bound to a clause of this number: `CLAUSE` keeps its value when the host starts the core and when its
member is saved. -/
def Core.inClause (c : Core) (clause : Nat) : Bool :=
  match c.bound with
  | .clause _ _ => c.ids.clause.toNat == clause
  | _ => false

/-- The bind whose started clause a core runs. -/
def State.bindOf (s : State) (cid : Nat) : Option Bind :=
  s.hub.binds.find? fun b => b.started && (s.coreAt cid).inClause b.clause && b.has cid

/-- The instance that `bar` number `n` of a scope joins. A gang's identity names its pool besides its clause: zero
for the package pool of kind 7, else one more than the cluster. A core without a bind is a gang of its own. -/
def State.barInst (s : State) (sc : BarScope) (n : Nat) : BarInst :=
  let c := s.core
  let ctx := c.ids.ctx.toNat
  match sc with
  | .gang =>
    let pool := if c.gangKind == 7 then 0 else 1 + clusterOf s.cid
    match s.bindOf s.cid with
    | some b => ⟨.gang, (b.clause, pool), n⟩
    | none => ⟨.gang, (2 ^ 64 + s.cid, pool), n⟩
  | .cluster => ⟨.cluster, (ctx, clusterOf s.cid), n⟩
  | .package => ⟨.package, (ctx, 0), n⟩
  | .fabric => ⟨.fabric, (ctx, 0), n⟩

/-- Firmware's configuration of a package or fabric instance. -/
def State.barConfigOf (s : State) (b : BarInst) : Option BarConfig :=
  s.barConfigs.find? fun k => k.scope == b.scope && k.n == b.n && k.ctx == b.ident.1

/-- The fence that an arrival performs first (R242). -/
def Core.barFence (c : Core) : BarScope → FenceScope
  | .gang => if c.gangKind == 7 then .package else .cluster
  | .cluster => .cluster
  | .package => .package
  | .fabric => .fabric

def barsOf (bs : List BarState) (b : BarInst) : Option BarState := bs.find? fun x => x.inst == b

/-- The instance takes an entry of a cluster's pool. -/
def BarInst.inPool (b : BarInst) (cluster : Nat) : Bool :=
  match b.scope with
  | .gang => b.ident.2 == 1 + cluster
  | .cluster => b.ident.2 == cluster
  | _ => false

/-- The instance takes an entry of the package pool, as gangs of kind 7 do. -/
def BarInst.inPackagePool (b : BarInst) : Bool := b.scope == .gang && b.ident.2 == 0

/-- An entry is free for an instance that has none yet. -/
def State.barRoom (s : State) (b : BarInst) : Bool :=
  let used (p : BarInst → Bool) : Nat := (s.bars.filter fun x => p x.inst).length
  match b.scope with
  | .gang =>
    if b.ident.2 == 0 then
      decide (used BarInst.inPackagePool + (s.barConfigs.filter fun k => k.scope == .package).length < 256)
    else decide (used (fun x => x.inPool (b.ident.2 - 1)) < 64)
  | .cluster => decide (used (fun x => x.inPool b.ident.2) < 64)
  | _ => true

/-! ## Arriving (R242, R243) -/

/-- Count a core's arrival at an instance. -/
def State.arrive (s : State) (b : BarInst) : State :=
  let bars := match barsOf s.bars b with
    | some _ => s.bars.map fun x => if x.inst == b then { x with arrived := x.arrived ++ [s.cid] } else x
    | none => s.bars ++ [⟨b, [s.cid], [], []⟩]
  { s with bars := bars, core := { s.core with bars := s.core.bars ++ [⟨b, false, s.core.stepping⟩] } }

/-- `bar`: an arrival that stands waits for its release; the release lets it retire; otherwise the core fences,
takes an entry and arrives. -/
def bar (i : Instr) (sc : BarScope) (n : Nat) (s : State) : Result :=
  let b := s.barInst sc n
  match s.core.bars.find? fun a => a.inst == b with
  | some a =>
    if a.released then done i s fun c => { c with bars := c.bars.filter fun x => x.inst != b } else waiting s
  | none =>
    if (sc == .package || sc == .fabric) && (s.barConfigOf b).isNone then
      raise ⟨causePriv, BitVec.ofNat 64 n⟩ s
    else
      let f := s.core.barFence sc
      if !s.fenceMet f then waiting s
      else reportOr (s.fenceCovered f) s <|
        if (barsOf s.bars b).isNone && !s.barRoom b then waiting s else waiting (s.arrive b)

def execBarGang (n : Fin 64) (s : State) : Result := bar (.barGang n) .gang n.val s
def execBarCluster (n : Fin 64) (s : State) : Result := bar (.barCluster n) .cluster n.val s
def execBarPackage (n : Fin 256) (s : State) : Result := bar (.barPackage n) .package n.val s
def execBarFabric (n : Fin 64) (s : State) : Result := bar (.barFabric n) .fabric n.val s

/-! ## Sums (R242) -/

/-- Change an instance's entry. -/
def State.onBar (s : State) (b : BarInst) (f : BarState → BarState) : State :=
  { s with bars := s.bars.map fun x => if x.inst == b then f x else x }

/-- A die's or a package's arrivals have reached its count. -/
def BarConfig.reached (k : BarConfig) (at_ n : Nat) : Bool :=
  k.counts.any fun x => x.1 == at_ && x.2 != 0 && decide (x.2 ≤ n)

/-- Take back the arrival of the core in focus at an instance: a sum of this package that it completed is open again,
and an entry that holds nothing any more is free. A sum that has gone to another package stands. -/
def State.unarrive (s : State) (b : BarInst) : State :=
  let cfg := s.barConfigOf b
  let back (x : BarState) : BarState :=
    let arrived := x.arrived.filter fun c => c != s.cid
    let stands (k : Nat) : Bool :=
      match cfg with
      | some cfg =>
        if b.scope == .package then cfg.reached k (arrived.filter fun c => s.dieOf c == k).length
        else k != s.pkg || cfg.master != s.pkg || cfg.reached k arrived.length
      | none => true
    { x with arrived := arrived, summed := x.summed.filter stands }
  let s := s.onBar b back
  { s with
    bars := s.bars.filter fun x => x.inst != b || !(x.arrived.isEmpty && x.summed.isEmpty)
    core := { s.core with bars := s.core.bars.filter fun a => a.inst != b } }

/-- The arrivals of an aborted step that have not been released (R31). -/
def State.abortBars (s : State) : State :=
  ((s.core.bars.filter fun a => a.stepped && !a.released).map (·.inst)).foldl State.unarrive s

/-- `BARRIER_ARRIVAL_SUM`: a die of instance `k`, or for fabric scope the package, has reached its count and tells
its master (two operands); a package's message arrives at the master package (one operand). -/
def execBarrierArrivalSum (s : State) : Result :=
  match s.inp with
  | .two k die =>
    match s.bars[k]? with
    | none => .next s
    | some b =>
      match s.barConfigOf b.inst with
      | none => .next s
      | some cfg =>
        let add (x : Nat) (s : State) : State := s.onBar b.inst fun y => { y with summed := y.summed ++ [x] }
        if cfg.scope == .package then
          let n := (b.arrived.filter fun c => s.dieOf c == die).length
          if b.summed.contains die || !cfg.reached die n then .next s else .next (add die s)
        else if b.summed.contains s.pkg || !cfg.reached s.pkg b.arrived.length then .next s
        else if cfg.master == s.pkg then .next (add s.pkg s)
        else
          match s.transmit cfg.master false (.barSum b.inst s.pkg) with
          | some s' => .next (add s.pkg s')
          | none => .next s
  | .idx k =>
    match s.inboxAt k with
    | some (.barSum b pkg, s') =>
      if (barsOf s'.bars b).isSome then
        .next (s'.onBar b fun y => { y with summed := if y.summed.contains pkg then y.summed else y.summed ++ [pkg] })
      else .next { s' with bars := s'.bars ++ [⟨b, [], [], [pkg]⟩] }
    | _ => .next s
  | _ => .next s

/-! ## The release (R242) -/

/-- Every arrival that the instance expects is in. -/
def State.barComplete (s : State) (b : BarState) : Bool :=
  match b.inst.scope with
  | .gang =>
    match s.hub.binds.find? fun x => x.clause == b.inst.ident.1 with
    | some bind => bind.members.all fun m => b.arrived.contains m.cid
    | none => true
  | .cluster => (s.clusterCores b.inst.ident.2).all b.arrived.contains
  | .package =>
    match s.barConfigOf b.inst with
    | some cfg => cfg.counts.all fun x => x.2 == 0 || b.summed.contains x.1
    | none => false
  | .fabric =>
    match s.barConfigOf b.inst with
    | some cfg => cfg.master == s.pkg && cfg.counts.all fun x => x.2 == 0 || b.summed.contains x.1
    | none => false

/-- The release at a core that arrived: the record and the event latch. -/
def Core.releaseBar (c : Core) (b : BarInst) : Core :=
  let one (a : BarArrival) : BarArrival := if a.inst == b then { a with released := true } else a
  ({ c with bars := c.bars.map one }).setLatch

/-- The release reaches a participant, or its saved state (R391). -/
def State.releaseAt (s : State) (b : BarInst) (cid : Nat) : State :=
  if s.saved.any fun m => m.cid == cid && m.core.bars.any fun a => a.inst == b then
    { s with saved := s.saved.map fun m =>
        if m.cid == cid && m.core.bars.any fun a => a.inst == b then { m with core := m.core.releaseBar b } else m }
  else s.onCore cid fun c => c.releaseBar b

/-- Release an instance at this package's participants, and free its entry. -/
def State.releaseBar (s : State) (b : BarState) : State :=
  let s := b.arrived.foldl (fun s cid => s.releaseAt b.inst cid) s
  { s with bars := s.bars.filter fun x => x.inst != b.inst }

/-- `BARRIER_RELEASE`: of the complete instance `k` (two operands), or at the word of the master package. -/
def execBarrierRelease (s : State) : Result :=
  match s.inp with
  | .two k _ =>
    match s.bars[k]? with
    | none => .next s
    | some b =>
      if !s.barComplete b then .next s
      else
        let pkgs := if b.inst.scope == .fabric then b.summed.filter fun p => p != s.pkg else []
        .next ((s.releaseBar b).sendAll pkgs (.barRelease b.inst))
  | .idx k =>
    match s.inboxAt k with
    | some (.barRelease b, s') =>
      match barsOf s'.bars b with
      | some x => .next (s'.releaseBar x)
      | none => .next s'
    | _ => .next s
  | _ => .next s

/-! ## Entries freed by clauses (R241) -/

/-- Discard an entry, and the records of its arrivals. -/
def State.dropBar (s : State) (b : BarState) : State :=
  let forget (c : Core) : Core := { c with bars := c.bars.filter fun a => a.inst != b.inst }
  let s := b.arrived.foldl (fun s cid => s.onCore cid forget) s
  { s with
    bars := s.bars.filter fun x => x.inst != b.inst
    saved := s.saved.map fun m => if b.arrived.contains m.cid then { m with core := forget m.core } else m }

/-- A clause ends: its gang's entries are freed. -/
def State.endClauseBars (s : State) (clause : Nat) : State :=
  (s.bars.filter fun b => b.inst.scope == .gang && b.inst.ident.1 == clause).foldl State.dropBar s

/-- The core has started another clause since it arrived. -/
def BarState.restart (b : BarState) (cid : Nat) : BarState :=
  if b.inst.scope == .cluster && b.arrived.contains cid && !b.restarted.contains cid then
    { b with restarted := b.restarted ++ [cid] }
  else b

def BarState.abandoned (b : BarState) : Bool := b.inst.scope == .cluster && b.arrived.all b.restarted.contains

/-- A core starts a clause: a cluster entry all of whose arrivals come from cores that have started another clause is
freed. -/
def State.startClauseBars (s : State) (cid : Nat) : State :=
  let s := { s with bars := s.bars.map (BarState.restart · cid) }
  (s.bars.filter BarState.abandoned).foldl State.dropBar s

/-- `BARRIER_ENTRY_CONFIG`: firmware sets an entry's context, counts and master. -/
def execBarrierEntryConfig (s : State) : Result :=
  match s.inp with
  | .barConfig k =>
    if (k.scope == .package && k.n < 256) || (k.scope == .fabric && k.n < 64) then
      let rest := s.barConfigs.filter fun x => !(x.scope == k.scope && x.n == k.n)
      .next { s with barConfigs := rest ++ [k] }
    else .next s
  | _ => .next s

end Sys2Proof.Machine
end

