-- ==== Sys2Proof/Machine/CopyOps.lean ====
section
/-! DEFINITION. The copy engine's requests: the fields and the acceptance checks (R344 to R348), the pieces of a
request, landing bytes in a local store, links and tokens, and how a request stops or fails (R349 to R364, R384). -/

namespace Sys2Proof.Machine

/-! ## Fields of a request (R344) -/

def Xfer.src (x : Xfer) : Nat := x.w0.toNat
def Xfer.dst (x : Xfer) : Nat := x.w1.toNat
def Xfer.pa (x : Xfer) : Nat := fieldOf x.w2.toNat 32 32
def Xfer.xf (x : Xfer) : Nat := fieldOf x.w2.toNat 28 4
def Xfer.kind (x : Xfer) : Nat := fieldOf x.w2.toNat 24 4
def Xfer.fol (x : Xfer) : Bool := x.w2.getLsbD 23
def Xfer.pet (x : Xfer) : Nat := fieldOf x.w2.toNat 21 2
def Xfer.len (x : Xfer) : Nat := fieldOf x.w2.toNat 0 21
def Xfer.pb (x : Xfer) : Word := x.w3

def Xfer.form (x : Xfer) : Xform := ⟨x.xf, x.pet, x.pa, x.pb⟩

/-- The bytes at the destination (R358). -/
def Xfer.outTotal (x : Xfer) : Nat := x.form.outLen x.len

/-- The index list and the row stride of kind 3 (R346). -/
def Xfer.indexList (x : Xfer) : Nat := fieldOf x.w3.toNat 0 21
def Xfer.stride (x : Xfer) : Nat := fieldOf x.w3.toNat 32 32

/-- The target mask of a multicast (R346). -/
def Xfer.mask (x : Xfer) : Nat := x.pa

/-- The request names a replica (R328, R346). -/
def Xfer.replicaVa (x : Xfer) : Option Nat :=
  if ((x.kind == 0 && x.xf == 0) || x.kind == 4) && x.w3 != 0 then some x.w3.toNat else none

/-! ## Acceptance (R348) -/

/-- The words that fail step 1, by index. Under a direction of `XF` 2 that names no formats, `LEN`, `SRC` and `DST` have no
element sizes to be multiples of, so word 2 is the first that fails (DESIGN CHOICE, log entry 80). -/
def Xfer.badWords (x : Xfer) : List Nat :=
  let k := x.kind
  let w2 : Bool :=
    decide (5 < k) || decide (3 < x.xf) || (x.xf != 0 && 2 < k) || !x.form.petOk || x.len == 0 ||
      decide (lsSize < x.len) ||
      (match k with
       | 0 | 1 | 2 => !x.form.paOk
       | 3 => x.pa == 0 || decide (x.len < x.pa) || x.len % x.pa != 0
       | _ => x.pa == 0 || decide (65535 < x.pa))
  let w3 : Bool :=
    match k with
    | 0 => x.xf == 2 && x.w3 != 0
    | 1 | 2 => (x.xf == 0 || x.xf == 2) && x.w3 != 0
    | 3 => fieldOf x.w3.toNat 21 11 != 0
    | 5 => x.w3 != 0
    | _ => false
  let elems : Bool := decide (k < 3) && (x.xf == 1 || (x.xf == 2 && decide (x.pa % 16 < 4)))
  let (ss, ds) := x.form.sizes
  let some_ (b : Bool) (i : Nat) : List Nat := if b then [i] else []
  some_ (elems && x.src % ss != 0) 0 ++ some_ (elems && x.dst % ds != 0) 1 ++
    some_ (w2 || (elems && x.len % ss != 0)) 2 ++ some_ w3 3

def vaHigh (a : Nat) : Bool := decide (2 ^ 56 ≤ a)

/-- Steps 1 to 3 of R348. -/
def Core.copyTrap (c : Core) (x : Xfer) : Option Trap :=
  let k := x.kind
  match x.badWords with
  | i :: _ => some ⟨causeIllegal, BitVec.ofNat 64 i⟩
  | [] =>
    if (k == 0 || k == 3 || k == 4) && vaHigh x.src then some ⟨causeLdBounds, x.w0⟩
    else if k == 1 && vaHigh x.dst then some ⟨causeStBounds, x.w1⟩
    else if (x.replicaVa.map vaHigh).getD false then some ⟨causeLdBounds, x.w3⟩
    else if k == 2 && (!remoteZeros x.w1 || lsSize < remoteLocal x.w1 + x.outTotal) then some ⟨causeStBounds, x.w1⟩
    else if (k == 1 || k == 2 || k == 5) && !c.okAccess x.src x.len then some ⟨causeLdBounds, x.w0⟩
    else if (k == 0 || k == 3 || k == 4 || k == 5) && !c.okAccess x.dst x.outTotal then some ⟨causeStBounds, x.w1⟩
    else if k == 3 && !c.okAccess x.indexList (4 * (x.len / x.pa)) then
      some ⟨causeLdBounds, BitVec.ofNat 64 x.indexList⟩
    else none

/-! ## The FIFO (R347, R349, R350) -/

def fifoCap : Nat := 32

def Core.fifoFull (c : Core) : Bool := decide (fifoCap ≤ (c.copy.fifo.filterMap FifoItem.xfer?).length)

/-- The oldest request of a channel. -/
def Core.oldest (c : Core) (ch : Chan) : Option Xfer := (c.xfers ch).head?

/-- Change the oldest request of a channel. -/
def setOldest (ch : Chan) (f : Xfer → Xfer) : List FifoItem → List FifoItem
  | [] => []
  | .req x :: rest => if x.ch == ch then .req (f x) :: rest else .req x :: setOldest ch f rest
  | .join m :: rest => .join m :: setOldest ch f rest

def Core.onXfer (c : Core) (ch : Chan) (f : Xfer → Xfer) : Core :=
  { c with copy := { c.copy with fifo := setOldest ch f c.copy.fifo } }

def inMask (m : BitVec 4) (ch : Chan) : Bool := m.getLsbD ch.val

/-- Drop the joins before which no request of their channels is left; `before` are the channels seen. -/
def pruneJoins : List Chan → List FifoItem → List FifoItem
  | _, [] => []
  | before, .req x :: rest => .req x :: pruneJoins (x.ch :: before) rest
  | before, .join m :: rest =>
    if before.any (inMask m) then .join m :: pruneJoins before rest else pruneJoins before rest

/-- Remove the oldest request of a channel. -/
def dropOldest (ch : Chan) : List FifoItem → List FifoItem
  | [] => []
  | .req x :: rest => if x.ch == ch then rest else .req x :: dropOldest ch rest
  | .join m :: rest => .join m :: dropOldest ch rest

/-- The oldest request of a channel stands before every join that names the channel. -/
def beforeJoins (ch : Chan) : List FifoItem → Bool
  | [] => false
  | .req x :: rest => x.ch == ch || beforeJoins ch rest
  | .join m :: rest => !inMask m ch && beforeJoins ch rest

/-- The channel may begin its oldest request. -/
def Core.mayBegin (c : Core) (ch : Chan) : Bool :=
  match c.oldest ch with
  | some x => x.phase == .queued && beforeJoins ch c.copy.fifo
  | none => false

/-! ## Pieces -/

/-- The rows landed and the index word of the next one (R353). -/
def Xfer.row (x : Xfer) : Nat := x.pos / x.pa
def Xfer.indexAddr (x : Xfer) (r : Nat) : Nat := x.indexList + 4 * r

/-- The index word of the current row: as it was read, or as it stands before that. -/
def Xfer.indexWord (x : Xfer) (c : Core) : Nat := x.index.getD (c.loadN (x.indexAddr x.row) 4)

/-- Where the next bytes of global memory lie; the address keeps bits `[55:0]`. -/
def Xfer.va (x : Xfer) (c : Core) : Nat :=
  match x.kind with
  | 1 => (x.dst + x.pos) % 2 ^ 56
  | 3 => (x.src + x.indexWord c * x.stride + x.buf.length) % 2 ^ 56
  | _ => (x.src + x.pos) % 2 ^ 56

/-- How many bytes the next access or piece has: to the end of the chunk, the row or the request (R362). -/
def Xfer.pieceLen (x : Xfer) (c : Core) : Nat :=
  match x.kind with
  | 0 | 4 => min (chunkSize - x.va c % chunkSize) (x.len - x.pos)
  | 3 => min (chunkSize - x.va c % chunkSize) (x.pa - x.buf.length)
  | 1 => min (chunkSize - x.va c % chunkSize) (x.outTotal - x.pos)
  | _ => min (chunkSize - x.pos % chunkSize) (x.outTotal - x.pos)

/-- `DONEB`: the destination bytes before the current piece (R362). -/
def Xfer.doneb (x : Xfer) : Nat := if x.kind == 0 then x.form.outLen x.pos else x.pos

/-- The destination's first address in a local store, and that of the current piece. -/
def Xfer.base (x : Xfer) : Nat := if x.kind == 2 then remoteLocal x.w1 else x.dst
def Xfer.landing (x : Xfer) : Nat := x.base + x.doneb

/-- How far a request comes with its current piece: source bytes for kinds 0, 3 and 4, else destination bytes. -/
def Xfer.stepLen (x : Xfer) (c : Core) : Nat := if x.kind == 3 then x.pa else x.pieceLen c

/-- The source bytes of a request, or its destination bytes, that are done when it is. -/
def Xfer.total (x : Xfer) : Nat := if x.kind == 0 || x.kind == 3 || x.kind == 4 then x.len else x.outTotal

/-- Where the bytes that land with the current piece begin. -/
def Xfer.landFrom (x : Xfer) : Nat := x.landing - x.carry.length

/-- How many of the bytes in the buffer land with the current piece: those of a naturally aligned 8-byte piece that the
next chunk goes on with wait for it, since such a piece is written wholly or not at all (R115, R363). -/
def Xfer.landLen (x : Xfer) (c : Core) : Nat :=
  if x.total ≤ x.pos + x.stepLen c then x.buf.length
  else x.buf.length - min x.buf.length ((x.landFrom + x.buf.length) % 8)

/-- The source bytes of a piece of `n` destination bytes that a local store supplies. -/
def Xfer.localSrc (x : Xfer) (n : Nat) : Nat × Nat :=
  let (ss, ds) := x.form.sizes
  (x.src + x.pos / ds * ss, n / ds * ss)

/-! ## Ending and stopping (R362, R384) -/

/-- A failure on the global side, at the chunk of `va` (R382). -/
def Xfer.failGlobal (x : Xfer) (va reason : Nat) : Xfer :=
  { x with phase := .ended, acc := .none, buf := [],
           fail := some ⟨causeCopyFail, reason, x.doneb, true, BitVec.ofNat 64 (va / chunkSize * chunkSize)⟩ }

/-- A failure at a core's store, of the chunk at destination offset `d` (R382). -/
def Xfer.failAt (x : Xfer) (d cause reason cid : Nat) : XFail :=
  ⟨cause, reason, d, false, remoteAddr cid ((x.base + d) % 2 ^ 21)⟩

/-- The current chunk fails at a core's store. -/
def Xfer.failLocal (x : Xfer) (cause reason cid : Nat) : Xfer :=
  { x with phase := .ended, acc := .none, buf := [], fail := some (x.failAt x.doneb cause reason cid) }

/-- The destination offset of the first chunk that has bytes among those landing from `off` on. -/
def Xfer.undone (x : Xfer) (off : Nat) : Nat := if off < x.carry.length then x.carryFrom else x.doneb

/-- A target takes no more of the bytes that land, from `off` on. -/
def Xfer.refused_ (x : Xfer) (off cause reason cid : Nat) : Xfer :=
  { x with phase := .ended, acc := .none, buf := [], carry := [],
           fail := some (x.failAt (x.undone off) cause reason cid) }

/-- A translation fault stops the request at the first byte that it needs of the page. -/
def Xfer.stop (x : Xfer) (reason va : Nat) : Xfer :=
  { x with phase := .stopped reason va false, pend := true,
           acc := .none, buf := if x.kind == 3 then x.buf else [], ahead := [], landed := 0 }

/-- `n` more bytes are done, and the bytes `carry` of them land with the next ones. -/
def Xfer.advance (x : Xfer) (n : Nat) (carry : List Byte) : Xfer :=
  let x := { x with
    pos := x.pos + n, acc := .none, buf := x.ahead, ahead := [], landed := 0, carry := carry, index := none
    fromReplica := false
    carryFrom := if x.carry.isEmpty || carry.length != x.buf.length then x.doneb else x.carryFrom }
  if x.total ≤ x.pos then { x with phase := .ended } else x

/-! ## Landing in a local store (R223, R336, R373, R392) -/

/-- The cause for which a store takes no copied byte: `own` is the engine's own store, whose range acceptance
has checked. -/
def State.landCheck (s : State) (own : Bool) (ctx cid a n : Nat) : Option Nat :=
  let c := s.coreAt cid
  if !s.exists_ cid then some causeCopyFail
  else if !s.storeReady cid then some causeEndpoint
  else if (s.divertsTo cid ctx).isSome then some causeCopyFail
  else if (if own then s.windowHeld cid a n || c.mergesBad a n
           else !c.accepts ctx || s.writeRefused cid a n) then some causeCopyFail
  else none

/-- Write bytes into a core's store: its own engine does so itself, and for other parties its NI does, which sets the
event latch (R132). -/
def State.land (s : State) (own : Bool) (cid a : Nat) (bs : List Byte) : State :=
  s.onCore cid fun c =>
    let c := c.landBytes a bs
    if own then c else c.setLatch

/-- The reason that goes with a refusal's cause. -/
def landReason (cause : Nat) : Nat := if cause == causeCopyFail then reasonRefused else 0

/-! ## Links (R399, R417, R418) -/

/-- The hops between dies that a piece makes, in order: stops at the same die make none. -/
def hopsOf : List Nat → List (Nat × Nat)
  | a :: b :: rest => (if a == b then [] else [(a, b)]) ++ hopsOf (b :: rest)
  | _ => []

/-- The stored chunk of a VA with the die of its stack, where the VA is mapped for the access. -/
def State.stackDie (s : State) (ctx va : Nat) (write : Bool) : Option (Nat × Chunk) :=
  match s.gmem.translate ctx va write with
  | .frame _ f => some (s.gmem.dieOfStack (s.gmem.stackOf f (vaChunk va)), s.gmem.chunk (16 * f + vaChunk va))
  | _ => none

/-- The dies of the stack and the slice that a read of a chunk passes before it leaves the slice: neither the cache nor a
zero chunk reaches a stack (R399, R322). -/
def State.readPath (s : State) (ctx va : Nat) : List Nat :=
  let slice := s.gmem.dieOfSlice (homeSlice va)
  match s.stackDie ctx va false with
  | some (d, k) => if s.hitR || !k.read then [slice] else [d, slice]
  | none => [slice]

/-- The dies that a write of bytes passes from the slice on: the stored chunk's fetch, where it merges, once more for a
malformed chunk (R328), and the stack. -/
def State.writePath (s : State) (ctx va : Nat) (bs : List Byte) : List Nat :=
  let slice := s.gmem.dieOfSlice (homeSlice va)
  match s.stackDie ctx va true with
  | none => [slice]
  | some (d, k) =>
    let merge : Bool := bs.length != chunkSize && k.read && !s.hitR
    let zero : Bool := match s.gmem.writeChunk ctx va bs s.hitR s.hitW with
      | .done g _ => (g.stored ctx va).any fun k => k.md == 0x80
      | _ => true
    let fetch : List Nat := if merge then [d, slice] else []
    slice :: fetch ++ (if k.decode.isNone then fetch else []) ++ if s.hitW || zero then [] else [d]

/-- The hub as the end of a path that leaves the package. -/
def hubDie : Nat := 6

/-- The dies that a piece passes, from its source to its destination. -/
def State.path (s : State) (cid : Nat) (x : Xfer) (va : Nat) : List Nat :=
  let me := s.dieOf cid
  match x.kind with
  | 1 => me :: s.writePath x.ctx va x.buf
  | 2 => [me, if pkgOf (remoteCid x.w1) == s.pkg then s.dieOf (remoteCid x.w1) else hubDie]
  | 5 => [me]
  | _ => s.readPath x.ctx va ++ [me]

/-- The armed injection watches a hop of the path. -/
def State.injWatches (s : State) (path : List Nat) : Bool :=
  s.host.inj.arm && decide (s.host.inj.link.toNat < 6) &&
    (hopsOf path).any fun (a, b) => (if s.host.inj.dir then b else a) == s.host.inj.link.toNat

/-- The armed injection watches a Limdin port (R417): towards the hub for what arrives, from it for what leaves. -/
def State.injWatchesPort (s : State) (port : Nat) (out : Bool) : Bool :=
  s.host.inj.arm && s.host.inj.link.toNat == 6 + port && s.host.inj.dir == out

/-- The 64-byte beats of `n` bytes from `a` (R418). -/
def beatsOf (a n : Nat) : Nat := if n == 0 then 0 else (a + n + 63) / 64 - a / 64

/-- Beats cross: the count goes on, unless it would pass `AFTER`. -/
def State.crossBeats (s : State) (watched : Bool) (n : Nat) : Option State :=
  if !watched then some s
  else if s.host.inj.beats + n ≤ s.host.inj.after.toNat then
    some { s with host := { s.host with inj := { s.host.inj with beats := s.host.inj.beats + n } } }
  else none

/-- The injection has acted (R418). -/
def State.injFired (s : State) : State :=
  { s with host := { s.host with inj := { s.host.inj with arm := false, fired := true, beats := 0 } } }

/-- The beats that still cross before the failing one. -/
def State.beatsLeft (s : State) : Nat := s.host.inj.after.toNat - s.host.inj.beats

/-! ## Tokens (R364) -/

/-- The ports of the package: 96 slice ports, 6 die ports and 18 fabric ports. -/
def diePort (d : Nat) : Nat := 96 + d
def fabricPort (k : Nat) : Nat := 102 + k

/-- The die ports of the hops of a path: each hop crosses both dies' links (R399). -/
def pathPorts (path : List Nat) : List Nat :=
  (((hopsOf path).flatMap fun (a, b) => [a, b]).filter fun d => decide (d < hubDie)).map diePort |>.eraseDups

/-- The ports of a chunk's read for the die that asks for it: the home slice's and the die ports of its path. -/
def State.readPorts (s : State) (ctx va die : Nat) : List Nat := homeSlice va :: pathPorts (s.readPath ctx va ++ [die])

/-- The ports of a write of bytes from a die. -/
def State.writePorts (s : State) (ctx va die : Nat) (bs : List Byte) : List Nat :=
  homeSlice va :: pathPorts (die :: s.writePath ctx va bs)

/-- The fabric port by which a piece leaves for another package. -/
def State.exitPorts (s : State) (pkg : Nat) : List Nat :=
  if pkg == s.pkg then [] else ((s.portTo pkg true).map fabricPort).toList

/-- The ports that the current piece of a request uses: the home slice's, the die ports of its path and a fabric port. -/
def State.portsOf (s : State) (cid : Nat) (x : Xfer) (va : Nat) : List Nat :=
  (if x.kind == 2 || x.kind == 5 then [] else [homeSlice va]) ++ pathPorts (s.path cid x va) ++
    if x.kind == 2 then s.exitPorts (pkgOf (remoteCid x.w1)) else []

def tokensOf (p : TokenPort) (ctx : Nat) : Nat := ((p.tokens.find? fun x => x.1 == ctx).map (·.2)).getD 0

def setTokens (p : TokenPort) (ctx n : Nat) : TokenPort :=
  { p with tokens := (p.tokens.filter fun x => x.1 != ctx) ++ [(ctx, n)] }

/-- Spend a cost at ports; none while one of them lacks it. A port that firmware has not set up does not limit. -/
def State.charge (s : State) (ports : List Nat) (ctx cost : Nat) : Option State :=
  let ok := ports.all fun k => match s.host.ports[k]? with
    | some p => decide (cost ≤ tokensOf p ctx)
    | none => true
  let spent := s.host.ports.zipIdx.map fun (p, k) =>
    if ports.contains k then setTokens p ctx (tokensOf p ctx - cost) else p
  if ok then some { s with host := { s.host with ports := spent } } else none

/-- The cost of the stored chunk of a VA, where it is mapped. -/
def Gmem.costAt (g : Gmem) (ctx va : Nat) : Nat := ((g.stored ctx va).map fun k => mdCost k.md).getD 0

/-- The cost of bytes that leave a core in encoded form (R323). -/
def bytesCost (bs : List Byte) : Nat := mdCost (encodeChunk (padTo chunkSize bs)).1

/-! ## Chunk accesses of a request (R311, R317, R328, R329) -/

def Xfer.reading (x : Xfer) : Bool := x.kind == 0 || x.kind == 3 || x.kind == 4

/-- Take the plain bytes of the chunk into the current piece. -/
def Xfer.take (x : Xfer) (c : Core) (va : Nat) (bs : List Byte) : Xfer :=
  let n := x.pieceLen c
  let buf := x.buf ++ (bs.drop (va % chunkSize)).take n
  let full := x.kind != 3 || buf.length == x.pa
  { x with buf := buf, acc := if full then .have_ else .none }

/-- Spend the tokens of the current piece and go on from the state that follows; the piece waits while they are missing. -/
def State.spend (s : State) (x : Xfer) (va cost : Nat) (next : State) : State :=
  (next.charge (s.portsOf s.cid x va) x.ctx cost).getD s

/-- Read the chunk of `va`; `bad` says what follows a malformed one, and `again` that a good copy corrects an error
(R328). -/
def State.readPiece (s : State) (ch : Chan) (x : Xfer) (va : Nat) (again : Bool) (bad : Xfer → Bool → Xfer) : State :=
  let fix (g : Gmem) : Gmem := if again then g.correctAt x.ctx va else g
  let c := s.core
  let cost := s.gmem.costAt x.ctx va
  match s.gmem.readChunk x.ctx va s.hitR with
  | .held => s
  | .fault r => s.mapCore fun c => c.onXfer ch fun x => x.stop r va
  | .fail r => s.mapCore fun c => c.onXfer ch fun x => x.failGlobal va r
  | .bad g p => s.spend x va cost { s with gmem := g, core := c.onXfer ch fun x => bad x p }
  | .done g bs => s.spend x va cost { s with gmem := fix g, core := c.onXfer ch fun x => x.take c va bs }

/-- Write the current piece at its VA. -/
def State.writePiece (s : State) (ch : Chan) (x : Xfer) (va : Nat) (bs : List Byte) (watched : Bool)
    (after : Xfer → Xfer) : State :=
  match s.gmem.writeChunk x.ctx va bs s.hitR s.hitW with
  | .held => s
  | .fault r => s.mapCore fun c => c.onXfer ch fun x => x.stop r va
  | .fail r => s.mapCore fun c => c.onXfer ch fun x => x.failGlobal va r
  | .bad g p =>
    s.spend x va (s.gmem.costAt x.ctx va)
      { s with gmem := g, core := s.core.onXfer ch fun x => x.failGlobal va (badReason p) }
  | .done g _ =>
    match s.crossBeats watched (beatsOf va bs.length) with
    | none => s
    | some s1 =>
      s.spend x va (g.costAt x.ctx va) (({ s1 with gmem := g }).mapCore fun c => c.onXfer ch after)

end Sys2Proof.Machine
end

