-- ==== Sys2Proof/Machine/Sequencer.lean ====
section
/-! DEFINITION. The sequencer performs (R137 to R144, R181 to R184): performance in order, its traps, the requests
to the special-function unit (R171, R172), and `tmrot`'s rotation (R244 to R246). -/

namespace Sys2Proof.Machine

/-! ## Entries -/

def SeqEntry.isTile (e : SeqEntry) : Bool :=
  match e.op? with
  | some op => (tileOf op.ins).isSome
  | none => false

/-- The tile operation of an entry. -/
def SeqEntry.tile (e : SeqEntry) : Option TileOp := e.op?.bind fun op => tileOf op.ins

/-- The entries that count as an instruction of the program: all but follow-ons. -/
def SeqEntry.counted (e : SeqEntry) : Bool := e.follow.isNone

/-- `CNTTL` falls by `n` (R182). -/
def Core.tlDown (c : Core) (n : Nat) : Core := { c with cnt := { c.cnt with tl := c.cnt.tl - n } }

/-- Replace or remove the oldest entry. -/
def Core.setHead (c : Core) (e : Option SeqEntry) : Core :=
  { c with vec := { c.vec with seq := e.toList ++ c.vec.seq.tail } }

/-- The oldest entry has performed one instruction. -/
def Core.advance (c : Core) (e : SeqEntry) (ins : Instr) : Core :=
  let c := (if e.isTile then c else c.afterHold ins).setHead e.next
  Core.settleStep (if e.isTile then c.tlDown 1 else c)

/-! ## Traps of performed instructions (R143, R144, R152, R184) -/

/-- Discard the trapping entry and the later ones: `CNTTL` falls for each tile entry, none of their instructions has
retired, and the results of their requests at the SFU are dropped on return (R172). -/
def Core.discardAll (c : Core) : Core :=
  let gone := c.vec.seq
  let n := (gone.filter SeqEntry.counted).length
  let c := c.tlDown (gone.filter SeqEntry.isTile).length
  { c with
    vec := { c.vec with seq := [], sfuOut := [] }
    badRegs := c.clean .seq
    instret := c.instret - BitVec.ofNat 64 n
    trans := { c.trans with i := c.trans.i - n } }

/-- The loop resume record of a trap in entry `e` (R152). -/
def SeqEntry.resume (e : SeqEntry) (op : SeqOp) : Option ResumeRec :=
  if e.loop then some ⟨e.pc, op.pc, e.n, e.iter, e.pos, e.body, e.slots⟩ else none

/-- A precise trap: the iterators return to the trapping instruction's issue, and a loop can be resumed. -/
def Core.preciseTrap (c : Core) (e : SeqEntry) (op : SeqOp) (t : Trap) : Core :=
  let c := c.discardAll
  let c := { c with
    vec := { c.vec with slots := e.slots, resume := if e.loop then e.resume op else c.vec.resume }
    trap := { c.trap with seqpos := BitVec.ofNat 32 (if e.loop then e.iter else 0) } }
  c.takeTrap t op.pc

/-- A deferred `ECCLOCAL`: the issue-side state stays, and no loop is resumed (R144). -/
def Core.deferredTrap (c : Core) (e : SeqEntry) (op : SeqOp) (t : Trap) : Core :=
  let c := c.discardAll
  let c := { c with
    vec := { c.vec with resume := none }
    trap := { c.trap with seqpos := BitVec.ofNat 32 (if e.loop then e.iter else 0) } }
  c.takeTrap t op.pc

/-- A follow-on's fault is recorded in the tl class, and the instruction has no effect (R357). -/
def Core.followFault (c : Core) (e : SeqEntry) (t : Trap) : Core :=
  let c := c.recordFailure (Failure.plain .tl t.cause (e.follow.getD 0) t.tval)
  (c.setHead none).tlDown 1

/-- How a performance ends. -/
def Core.finishPerform (c : Core) (e : SeqEntry) (op : SeqOp) (r : PerfRes) : Core :=
  match r with
  | .done c' => c'.advance e op.ins
  | .more c' p => c'.setHead (some { e with part := p })
  | .fptrap f v =>
    let t : Trap := ⟨causeFpTrap, v⟩
    if e.follow.isSome then c.followFault e t
    else if c.owed then c
    else (c.orFlags f).preciseTrap e op t
  | .ecc g =>
    let t : Trap := ⟨causeEccLocal, BitVec.ofNat 64 g⟩
    if e.follow.isSome then c.followFault e t
    else if c.owed then c
    else if c.precise then c.preciseTrap e op t
    else c.deferredTrap e op t

/-- What the performance of an entry's instruction depends on besides the core. -/
def SeqEntry.ctx (e : SeqEntry) (cid free : Nat) : PerfCtx := ⟨cid, e.slots, e.iter, e.part, free⟩

/-- No part of the entry's present instruction has been performed. -/
def SeqEntry.fresh (e : SeqEntry) : Bool := e.rot.isNone && e.part == Part.none

/-! ## `tmrot` (R245, R246) -/

/-- The operands of a `tmrot` entry. -/
def SeqEntry.rotOp (e : SeqEntry) : Option TProd :=
  match e.tile with
  | some (.tmrot o) => some o
  | _ => none

/-- The sends of the product just performed have room to leave. -/
def Core.rotRoom (c : Core) : Bool :=
  (!c.rotA || c.tile.sendWest.isNone) && (!c.rotB || c.tile.sendNorth.isNone)

/-- The tile and its shape as a send carries them. -/
def Core.tileMsg (c : Core) (t : TReg) : TileMsg := ⟨c.rdT t, c.tile.tshp.get t⟩

/-- The product is done: the tiles leave, and the pairing count advances. Its flags wait for the completion (R92,
R246). -/
def Core.startRot (c : Core) (e : SeqEntry) (o : TProd) (raised : Flags) (now : Nat) : Core :=
  let c := { c with tile := { c.tile with
    sendWest := if c.rotA then some (c.tileMsg o.a) else c.tile.sendWest
    sendNorth := if c.rotB then some (c.tileMsg o.b) else c.tile.sendNorth
    pairs := c.tile.pairs + 1 } }
  c.setHead (some { e with rot := some ⟨now, 0, raised⟩ })

/-- Every send has left, and every replacement is here. -/
def Core.rotReady (c : Core) : Bool :=
  c.tile.sendWest.isNone && c.tile.sendNorth.isNone &&
    (!c.rotA || c.tile.fromEast.isSome) && (!c.rotB || c.tile.fromSouth.isSome)

/-- A replacement writes the whole storage and the shape. A tile instruction that was issued behind the `tmrot` has been
checked against the shape before it, and is performed with this one (DEDUCED, log entry 60). -/
def Core.replaceTile (c : Core) (t : TReg) (m : Option TileMsg) : Core :=
  match m with
  | none => c
  | some m =>
    let c := c.wrT t m.bits
    { c with tile := { c.tile with tshp := c.tile.tshp.set t m.tshp } }

/-- The replacements are written, and the `tmrot` completes. -/
def Core.endRot (c : Core) (e : SeqEntry) (o : TProd) (raised : Flags) : Core :=
  let c := if c.rotA then c.replaceTile o.a c.tile.fromEast else c
  let c := if c.rotB then c.replaceTile o.b c.tile.fromSouth else c
  let c := { c with tile := { c.tile with
    fromEast := if c.rotA then none else c.tile.fromEast
    fromSouth := if c.rotB then none else c.tile.fromSouth } }
  (c.orFlags raised).advance e (.tmrot o)

/-- A `tmrot` entry's next step. -/
def Core.stepRot (c : Core) (e : SeqEntry) (op : SeqOp) (o : TProd) (now cid : Nat) : Core :=
  match e.rot with
  | some r => if c.rotReady then c.endRot e o r.raised else c
  | none =>
    if !c.rotRoom then c
    else
      let fresh : Core := { c with fp := { c.fp with flags := 0 } }
      match fresh.perform (e.ctx cid 0) op with
      | .done c' => ({ c' with fp := c.fp } : Core).startRot e o c'.fp.flags now
      | r => c.finishPerform e op r

/-- The SFU function of the instruction that an entry performs next. -/
def SeqEntry.isSfu (e : SeqEntry) : Bool :=
  match e.op? with
  | some op => (sfuOp op.ins).isSome
  | none => false

/-! ## The special-function unit (R171, R172) -/

/-- `a` arrived before `b`: by time, then by `CORE`, then as the core sent them. -/
def SfuReq.earlier (a b : SfuReq) : Bool :=
  decide (a.since < b.since) || (a.since == b.since &&
    (decide (coreNo a.cid < coreNo b.cid) || (a.cid == b.cid && decide (a.no < b.no))))

/-- The request that a cluster's SFU accepts next. -/
def nextSfu (rs : List SfuReq) (cluster : Nat) : Option SfuReq :=
  (rs.filter fun r => clusterOf r.cid == cluster && r.accepted.isNone).foldl (fun b r =>
    match b with
    | none => some r
    | some x => if r.earlier x then some r else some x) none

/-- The cluster's SFU has accepted a request less than 4 cycles ago. -/
def State.sfuBusy (s : State) (cluster : Nat) : Bool :=
  s.sfu.any fun r => clusterOf r.cid == cluster && (r.accepted.map fun t => decide (s.now < t + 4)).getD false

/-- `SFU_ACCEPT` at the cluster of the core in focus. -/
def execSfuAccept (s : State) : Result :=
  let cluster := clusterOf s.cid
  if s.sfuBusy cluster then .next s
  else
    match nextSfu s.sfu cluster with
    | none => .next s
    | some r =>
      .next { s with sfu := s.sfu.map fun x => if x == r then { x with accepted := some s.now } else x }

/-- The core's request is due: 24 cycles have passed since its acceptance. -/
def SfuReq.due (r : SfuReq) (cid now : Nat) : Bool :=
  r.cid == cid && (r.accepted.map fun t => decide (t + 24 ≤ now)).getD false

/-- The instruction that the sequencer performs after the next one, when it is known already. -/
def Core.secondOp (c : Core) : Option SeqOp :=
  match c.vec.seq with
  | [] => none
  | e :: rest =>
    match e.next with
    | some e' => e'.op?
    | none => rest.head?.bind SeqEntry.op?

/-- The next two instructions that need the SFU: a core holds at most 2 requests (R171). -/
def Core.sfuNeeds (c : Core) : List SeqOp :=
  match c.vec.seq.head?.bind SeqEntry.op? with
  | none => []
  | some op =>
    if (sfuOp op.ins).isNone then []
    else op :: c.secondOp.toList.filter fun x => (sfuOp x.ins).isSome

/-- The request at a number goes to its cluster's SFU. -/
def State.sendSfu (s : State) : State :=
  { s with
    tags := s.tags + 1
    sfu := s.sfu ++ [⟨s.cid, s.now, none, s.tags⟩]
    core := { s.core with vec := { s.core.vec with sfuOut := s.core.vec.sfuOut ++ [s.tags] } } }

/-- `SFU_RETURN` at the core in focus: the result is written, or the request retires with its raised set (R172). The
result of a request whose entry has been discarded is dropped. -/
def execSfuReturn (s : State) : Result :=
  match s.sfu.find? (fun r => r.due s.cid s.now) with
  | none => .next s
  | some r =>
    let s' := { s with sfu := s.sfu.filter fun x => x != r }
    match s.core.vec.sfuOut, s.core.vec.seq with
    | no :: rest, e :: _ =>
      match e.op? with
      | some op =>
        let p := s.core.perform (e.ctx s.cid 0) op
        let blocked := match p with
          | .done _ => false
          | _ => s.core.owed && e.follow.isNone
        if no != r.no then .next s'
        else if blocked then .next s
        else
          let took (c : Core) : Core := { c with vec := { c.vec with sfuOut := rest } }
          match p with
          | .done c => .next { s' with core := took (c.advance e op.ins) }
          | _ => .next { s' with core := s.core.finishPerform e op p }
      | none => .next s'
    | _, _ => .next s'

/-! ## Neighbours (R244) -/

/-- The core at `(x, y)`, taken mod 4, of a cluster. -/
def atGrid (cid x y : Nat) : Nat := cid / 16 * 16 + y % 4 * 4 + x % 4

def eastOf (cid : Nat) : Nat := atGrid cid (coreNo cid % 4 + 1) (coreNo cid / 4)
def southOf (cid : Nat) : Nat := atGrid cid (coreNo cid % 4) (coreNo cid / 4 + 1)

/-- The four neighbours on the grid of a cluster. -/
def neighbours (cid : Nat) : List Nat :=
  let x := coreNo cid % 4
  let y := coreNo cid / 4
  [atGrid cid (x + 1) y, atGrid cid (x + 3) y, atGrid cid x (y + 1), atGrid cid x (y + 3)]

/-- Two cores run members of one clause. -/
def Core.sameClause (a b : Core) : Bool :=
  match a.bound, b.bound with
  | .clause _ _, .clause _ _ => a.ids.clause == b.ids.clause
  | _, _ => false

/-- `TMROT_TILE_RECEIVE` at the core in focus: operand 0 takes the east neighbour's tile, 1 the south one's. A tile for
a member that is saved waits with its sender, since its buffers are saved with it (R245). -/
def execTmrotTileReceive (s : State) : Result :=
  match s.inp with
  | .idx 0 =>
    let n := eastOf s.cid
    match s.core.tile.fromEast, (s.coreAt n).tile.sendWest with
    | none, some m =>
      if !s.core.sameClause (s.coreAt n) then .next s
      else
        let s := s.onCore n fun c => { c with tile := { c.tile with sendWest := none } }
        .next (s.mapCore fun c => { c with tile := { c.tile with fromEast := some m } })
    | _, _ => .next s
  | .idx 1 =>
    let n := southOf s.cid
    match s.core.tile.fromSouth, (s.coreAt n).tile.sendNorth with
    | none, some m =>
      if !s.core.sameClause (s.coreAt n) then .next s
      else
        let s := s.onCore n fun c => { c with tile := { c.tile with sendNorth := none } }
        .next (s.mapCore fun c => { c with tile := { c.tile with fromSouth := some m } })
    | _, _ => .next s
  | _ => .next s

/-- A neighbour of a core is saved by pre-emption: the limit of R246 stands still. -/
def State.neighbourSaved (s : State) (cid : Nat) (c : Core) : Bool :=
  s.saved.any fun m => (neighbours cid).contains m.cid && m.core.sameClause c

/-- The cycles that count toward the limit of R246. -/
def State.rotTime (s : State) (cid : Nat) (c : Core) (r : RotState) : Nat :=
  r.acc + (if s.neighbourSaved cid c then 0 else s.now - r.since)

/-- Settle the time of a core's `tmrot` before the saved members change. -/
def State.settleRot (s : State) (cid : Nat) (c : Core) : Core :=
  match c.vec.seq with
  | e :: _ =>
    match e.rot with
    | some r => c.setHead (some { e with rot := some { r with since := s.now, acc := s.rotTime cid c r } })
    | none => c
  | [] => c

/-- Settle the time of every `tmrot` that waits at a neighbour of the core in focus. -/
def State.settleRots (s : State) : State :=
  (neighbours s.cid).foldl (fun s k => s.onCore k (s.settleRot k)) s

/-- The limit of R246. -/
def linkLimit : Nat := 1048576

/-- The missing replacements, as `TVAL` shows them. -/
def Core.missing (c : Core) : Nat :=
  bit (c.rotA && c.tile.fromEast.isNone) + 2 * bit (c.rotB && c.tile.fromSouth.isNone)

/-- `LINKTIMEOUT` at the core in focus: its oldest entry is a `tmrot` whose product ended long ago. -/
def execLinktimeout (s : State) : Result :=
  let c := s.core
  match c.vec.seq with
  | e :: _ =>
    match e.op?, e.rot with
    | some op, some r =>
      if c.missing == 0 || s.rotTime s.cid c r < linkLimit then .next s
      else
        let tr : Trap := ⟨causeLinkTimeout, BitVec.ofNat 64 c.missing⟩
        if e.follow.isSome then .next { s with core := c.followFault e tr }
        else if c.owed then .next s
        else .next { s with core := c.preciseTrap e op tr }
    | _, _ => .next s
  | [] => .next s

end Sys2Proof.Machine
end

