-- ==== Sys2Proof/Machine/Tile.lean ====
section
/-! DEFINITION. The tile instructions at issue (R181 to R197), and `tfol`. -/

namespace Sys2Proof.Machine

/-- The instruction reads a shape record at issue (R185). -/
def readsRecord (op : TileOp) : Bool := (recordReg op).isSome

/-- Issue with the record as read. -/
def issueWith (op : TileOp) (x : Nat) (s : State) : Result :=
  match s.core.issueTile op x none with
  | .ok c => .next { s with core := c.retire 8 }
  | .trap t p => raiseAt t p s

/-- Issue to the sequencer. A record is read after every earlier store of the sequencer (R181). -/
def issueT (op : TileOp) (s : State) : Result :=
  if readsRecord op && !s.core.seqEmpty then stalled s
  else if s.core.seqFull then waiting s
  else
    match recordReg op with
    | some r => withRecord op.toInstr (s.core.rdS r) s fun x => issueWith op x s
    | none => issueWith op 0 s

def execTld (o : TMem) (s : State) : Result := issueT (.tld o) s
def execTst (o : TMem) (s : State) : Result := issueT (.tst o) s
def execTzero (d : TReg) (s : State) : Result := issueT (.tzero d) s
def execTtr (o : TTr) (s : State) : Result := issueT (.ttr o) s
def execZzero (d : ZReg) (tz : TZ) (s : State) : Result := issueT (.zzero d tz) s
def execZst (o : ZSt) (s : State) : Result := issueT (.zst o) s
def execTmma (o : TProd) (s : State) : Result := issueT (.tmma o) s
def execTmmo (o : TProd) (s : State) : Result := issueT (.tmmo o) s
def execTsacc (o : TSacc) (s : State) : Result := issueT (.tsacc o) s
def execTepi (o : TEpi) (s : State) : Result := issueT (.tepi o) s
def execTmrot (o : TProd) (s : State) : Result := issueT (.tmrot o) s

/-- `tfol` (R197). -/
def execTfol (ch : Chan) (op : TileOp) (s : State) : Result :=
  done (.tfol ch op) s fun c => c.setFollow ch op

end Sys2Proof.Machine
end

