-- ==== Sys2Proof/Machine/Copy.lean ====
section
/-! DEFINITION. The instructions of the copy engine (R344 to R356, R385, R386), the steps of its channels (R349,
R362, R363), and the releases of multicasts (R355). -/

namespace Sys2Proof.Machine

/-! ## Credits of multicasts (R355) -/

/-- A core's credit at a source, saturating. -/
def CopyEngine.credit (e : CopyEngine) (k : Nat) : CopyEngine :=
  if h : k < 16 then
    let n := e.credits.get ⟨k, h⟩
    { e with credits := e.credits.set k (if n == 255 then 255 else n + 1) }
  else e

/-- The targets whose credit a multicast takes: those that did not refuse it. -/
def Mcast.needs (m : Mcast) : BitVec 16 := m.mask &&& ~~~m.refused

def CopyEngine.covers (e : CopyEngine) (m : Mcast) : Bool :=
  (List.finRange 16).all fun k => !m.needs.getLsbD k.val || e.credits.get k != 0

/-- Note the targets that refused a multicast. -/
def CopyEngine.noteRefused (e : CopyEngine) (x : Xfer) : CopyEngine :=
  let mark (m : Mcast) : Mcast :=
    if m.id == x.id && m.ch == x.ch then
      { m with refused := x.refused.foldl (fun r cid => r ||| BitVec.ofNat 16 (2 ^ coreNo cid)) m.refused }
    else m
  { e with mcasts := e.mcasts.map mark }

/-- Release the oldest multicasts that are credited in full; `fuel` bounds the list. -/
def CopyEngine.release (e : CopyEngine) : Nat → CopyEngine
  | 0 => e
  | fuel + 1 =>
    match e.mcasts with
    | m :: rest =>
      if e.covers m then
        CopyEngine.release { e with
          mcasts := rest
          mbox := e.mbox + 1
          credits := Vector.ofFn fun k : Fin 16 =>
            if m.needs.getLsbD k.val then e.credits.get k - 1 else e.credits.get k } fuel
      else e
    | [] => e

def CopyEngine.released (e : CopyEngine) : CopyEngine := e.release e.mcasts.length

/-! ## Pushing a request (R347) -/

/-- The request in `s[A]` to `s[A+3]` as acceptance makes it. -/
def Core.request (c : Core) (o : CpushOp) : Xfer :=
  let w (k : Nat) : Word := c.rdS (runReg o.a k)
  { ch := o.ch, id := c.copy.xnext.get o.ch, w0 := w 0, w1 := w 1, w2 := w 2, w3 := w 3, pc := c.pc,
    ctx := c.ids.ctx.toNat,
    follow := if (w 2).getLsbD 23 then some (c.tile.follow.get o.ch) else none,
    phase := .queued, acc := .none, buf := [], landed := 0, pos := 0, refused := [], fail := none, pend := false
    index := none, ahead := [], carry := [], carryFrom := 0, fromReplica := false, record := none }

/-- A multicast (R354). -/
def Xfer.multi (x : Xfer) : Bool := x.kind == 4 || x.kind == 5

/-- The request finds no free entry: of the FIFO, or, for a multicast, of the list of outstanding multicasts (R347,
R354). -/
def Core.noEntry (c : Core) (x : Xfer) : Bool := c.fifoFull || (x.multi && decide (32 ≤ c.copy.mcasts.length))

/-- Acceptance of a request. A multicast for which every credit is there is released at once (R355). -/
def Core.accept (c : Core) (x : Xfer) : Core :=
  let e : CopyEngine := { c.copy with
    fifo := c.copy.fifo ++ [.req x]
    xnext := c.copy.xnext.set x.ch (x.id + 1)
    mcasts := if x.multi then c.copy.mcasts ++ [⟨x.id, x.ch, BitVec.ofNat 16 x.mask, 0⟩] else c.copy.mcasts }
  { c with copy := e.released, cnt := { c.cnt with cp := c.cnt.cp + 1, tl := c.cnt.tl + bit x.fol } }

/-- `full` is what a full FIFO, or a full list of multicasts, leads to (DESIGN CHOICE for the list, log entry 66). -/
def push (i : Instr) (o : CpushOp) (s : State) (full : Result) : Result :=
  if s.core.isDebug then raise (illegalOf i) s
  else
    afterWait o.wt s <|
      let x := s.core.request o
      match s.core.copyTrap x with
      | some t => raise t s
      | none =>
        if s.core.noEntry x then full
        else done i s fun c => (c.accept x).wrS o.d (x.id.setWidth 64)

def execCpush (o : CpushOp) (s : State) : Result := push (.cpush o) o s (waiting s)

def execCpushb (o : CpushOp) (s : State) : Result :=
  push (.cpushb o) o s (done (.cpushb o) s fun c => c.wrS o.d (BitVec.allOnes 64))

/-! ## Waiting and joining (R350, R352, R356) -/

/-- Request `i` of a channel has been assigned an identifier. -/
def Core.assigned (c : Core) (ch : Chan) (i : BitVec 32) : Bool :=
  let d := (c.copy.xnext.get ch - i).toNat
  d != 0 && decide (d < 2 ^ 31)

/-- Request `i` of a channel has completed. -/
def Core.completed (c : Core) (ch : Chan) (i : BitVec 32) : Bool :=
  let d := (c.xdone ch - i).toNat
  d != 0 && decide (d < 2 ^ 31)

def execCpwait (a : SReg) (ch : Chan) (s : State) : Result :=
  let i := (s.core.rdS a).setWidth 32
  if !s.core.assigned ch i then raise ⟨causeIllegal, i.setWidth 64⟩ s
  else if s.core.completed ch i then doneIn (.cpwait a ch) s
  else waiting s

def execCpfence (mask : BitVec 4) (s : State) : Result :=
  done (.cpfence mask) s fun c =>
    { c with copy := { c.copy with fifo := pruneJoins [] (c.copy.fifo ++ [.join mask]) } }

def Core.mbMet (c : Core) (a : SReg) : Bool := decide ((c.copy.mbox - (c.rdS a).setWidth 32).toNat < 2 ^ 31)

def execMbwait (a : SReg) (s : State) : Result :=
  if s.core.mbMet a then doneIn (.mbwait a) s else waiting s

/-! ## `cpresume` and `ptouch` (R385, R386) -/

/-- The resumption of a stopped request: it goes on, or an abandoned one fails. -/
def Xfer.resume (x : Xfer) (reason va : Nat) (abandoned : Bool) : Xfer :=
  if abandoned then { x.failGlobal va reason with pend := false }
  else { x with phase := .active, pend := false }

def execCpresume (ch : Chan) (s : State) : Result :=
  match (s.core.oldest ch).map Xfer.phase with
  | some (.stopped reason va abandoned) =>
    done (.cpresume ch) s fun c => c.onXfer ch fun x => x.resume reason va abandoned
  | _ => raise ⟨causeIllegal, BitVec.ofNat 64 ch.val⟩ s

/-- A walk that ends in a leaf. -/
def Walk.isLeaf : Walk → Bool
  | .leaf _ _ _ => true
  | _ => false

/-- Two VAs of a context lie in one page, of 2 MiB where a leaf of that size maps the first (R313). -/
def Gmem.samePage (g : Gmem) (ctx va f : Nat) : Bool :=
  let lvl := ((g.leaf ctx va).map (·.2.1)).getD 0
  pageOf f lvl == pageOf va lvl

/-- A fault of a core's stopped request lies in the page of `va`. -/
def State.samePage (s : State) (c : Core) (va f : Nat) : Bool := s.gmem.samePage c.ids.ctx.toNat va f

/-- A request is stopped at a fault in the page that `page` describes. -/
def Xfer.stoppedIn (x : Xfer) (page : Nat → Bool) : Bool :=
  match x.phase with
  | .stopped _ f _ => page f
  | _ => false

/-- The VA is accessible to the core: a walk succeeds, and so does each access for which a request stopped in
its page with reason PERM. -/
def State.accessible (s : State) (c : Core) (va : Nat) : Bool :=
  let ctx := c.ids.ctx.toNat
  let can (w : Bool) (va : Nat) : Bool := (s.gmem.walk ctx va w).isLeaf
  (can false va || can true va) &&
    (c.copy.fifo.filterMap FifoItem.xfer?).all fun x =>
      match x.phase with
      | .stopped reason f _ => reason != reasonPerm || !s.samePage c va f || can (x.kind == 1) f
      | _ => true

def execPtouch (a : SReg) (s : State) : Result :=
  let i : Instr := .ptouch a
  let v := s.core.rdS a
  let clear (c : Core) : Core := { c with hubWait := .none }
  let ask : Result := .next (s.mapCore fun c => ({ c with hubWait := .touchSent v }).waitHere)
  if vaHigh v.toNat then raise ⟨causeLdBounds, v⟩ s
  else
    match s.core.hubWait with
    | .touchSent u => if u == v then waiting s else ask
    | .touchDone u ok =>
      if u != v then ask
      else if ok then done i s clear
      else if s.core.trapHeld then .next s
      else raise ⟨causeCopyFail, v⟩ (s.mapCore clear)
    | _ => if s.accessible s.core v.toNat then doneIn i s else ask

/-- Mark the requests of a core that stopped in a page as abandoned (R385). -/
def Core.abandon (c : Core) (page : Nat → Bool) : Core :=
  { c with copy := { c.copy with fifo := c.copy.fifo.map fun it =>
      match it with
      | .req x =>
        match x.phase with
        | .stopped r f _ =>
          if x.stoppedIn page then .req { x with phase := .stopped r f true, pend := false } else .req x
        | _ => .req x
      | .join m => .join m } }

/-- `FIRMWARE_FAULT_RESOLVE`: roots and entries are written, with the shootdown of each valid leaf that they change
(R318), and a waiting `ptouch` is answered. -/
def execFirmwareFaultResolve (s : State) : Result :=
  match s.inp with
  | .tables roots es r =>
    match s.gmem.firmwareSet roots es with
    | none => .next s
    | some g =>
      let s := { s with gmem := g }
      match r with
      | .map => .next s
      | .touch cid ok =>
        match (s.coreAt cid).hubWait with
        | .touchSent v =>
          if ok && !s.accessible (s.coreAt cid) v.toNat then .next s
          else
            .next (s.onCore cid fun c =>
              let c := { c with hubWait := .touchDone v ok }
              if ok then c else c.abandon (s.samePage c v.toNat))
        | _ => .next s
  | _ => .next s

/-! ## The steps of a channel -/

/-- The channel that the step's operand names. -/
def withChan (s : State) (k : Chan → Result) : Result :=
  match s.inp with
  | .idx n => if h : n < 4 then k ⟨n, h⟩ else .next s
  | _ => .next s

/-- The oldest request of a channel, where it runs. -/
def Core.running (c : Core) (ch : Chan) : Option Xfer := (c.oldest ch).filter fun x => x.phase == .active

/-- `COPY_BEGIN` (R349, R350). -/
def execCopyBegin (s : State) : Result :=
  withChan s fun ch =>
    if s.core.mayBegin ch then .next (s.mapCore fun c => c.onXfer ch fun x => { x with phase := .active })
    else .next s

/-- The end of the link injection's chunk (R418): the beats that crossed land, and the transfer fails. -/
def Xfer.failLink (x : Xfer) (va cid : Nat) : Xfer :=
  if x.kind == 2 || x.kind == 5 then x.failLocal causeCopyFail reasonLink cid else x.failGlobal va reasonLink

/-- The core whose store a request names. -/
def Xfer.target (x : Xfer) (cid : Nat) : Nat := if x.kind == 2 then remoteCid x.w1 else cid

/-- The write of the current piece of a kind-1 request at its VA. -/
def State.putPiece (s : State) (ch : Chan) (x : Xfer) : State :=
  let va := x.va s.core
  s.writePiece ch x va x.buf (s.injWatches (s.path s.cid x va)) fun x => x.advance x.buf.length []

/-- The index word of the row is read, once for the row (R353). An uncorrectable error there ends the request with the
reason ECC at the core's own store (DESIGN CHOICE, log entry 74). -/
def State.readIndex (s : State) (ch : Chan) (x : Xfer) : State :=
  s.mapCore fun c => c.onXfer ch fun x' =>
    if (c.badIn (x.indexAddr x.row) 4).isSome then x'.failLocal causeCopyFail reasonEcc s.cid
    else { x' with index := some (x.indexWord c) }

/-- `CHUNK_ACCESS` (R311) for a channel of the core in focus: the chunk that the request reads or writes next. -/
def execChunkAccess (s : State) : Result :=
  withChan s fun ch =>
    match s.core.running ch with
    | none => .next s
    | some x =>
      if x.reading && x.acc == .none then
        if x.kind == 3 && x.index.isNone then .next (s.readIndex ch x)
        else .next (s.readPiece ch x (x.va s.core) false fun x _ => { x with acc := .again })
      else if x.kind == 1 && x.acc == .put then .next (s.putPiece ch x)
      else .next s

/-- The chunk at the replica (R328 step 2). -/
def State.readReplica (s : State) (ch : Chan) (x : Xfer) (rva : Nat) : State :=
  let va := x.va s.core
  let n := x.pieceLen s.core
  let spend (next : State) : State :=
    (next.charge (s.readPorts x.ctx rva (s.dieOf s.cid)) x.ctx (s.gmem.costAt x.ctx rva)).getD s
  match s.gmem.readRange x.ctx s.hitR false 3 rva n [] with
  | .held => s
  | .fault g v r => { s with gmem := g, core := s.core.onXfer ch fun x => x.stop r v }
  | .fail g v r =>
    spend { s with
      gmem := g
      core := s.core.onXfer ch fun x => x.failGlobal (if r == reasonMalformed then v else va) r }
  | .done g bs =>
    spend { s with
      gmem := g.correctAt x.ctx va
      core := s.core.onXfer ch fun x => { x with buf := x.buf ++ bs, acc := .have_, fromReplica := true } }

/-- `CHUNK_REFETCH` (R328). -/
def execChunkRefetch (s : State) : Result :=
  withChan s fun ch =>
    match s.core.running ch with
    | none => .next s
    | some x =>
      let va := x.va s.core
      match x.acc, x.replicaVa with
      | .again, some _ => .next (s.readPiece ch x va true fun x _ => { x with acc := .replica })
      | .again, none => .next (s.readPiece ch x va true fun x p => x.failGlobal va (badReason p))
      | .replica, some r => .next (s.readReplica ch x ((r + x.pos) % 2 ^ 56))
      | _, _ => .next s

/-- Note a target of a multicast that takes no byte from `off` on (R354). -/
def Xfer.refuse (x : Xfer) (off cid cause : Nat) : Xfer :=
  { x with
    refused := x.refused ++ [cid]
    fail := x.fail.orElse fun _ => some (x.failAt (x.undone off) cause (landReason cause) cid) }

/-- The cores whose stores a request writes, in the order in which a piece lands in them. -/
def Xfer.targets (x : Xfer) (cid : Nat) : List Nat :=
  if x.multi then ((List.range 16).filter fun k => x.mask / 2 ^ k % 2 == 1).map fun k => cid / 16 * 16 + k
  else [if x.kind == 2 then remoteCid x.w1 else cid]

/-- How many of `n` bytes at `a` the next step moves: up to the end of a naturally aligned 8-byte piece, as a free value
says (R363). -/
def State.pieceCut (s : State) (a n : Nat) : Nat := min n (s.pieceBytes (n + a % 8) - a % 8)

/-- The engine writes its own core's store; other stores are written by their NIs. -/
def Xfer.own (x : Xfer) : Bool := !x.multi && x.kind != 2

/-- The check of a target's NI: a multicast's covers its whole range before its first byte (R354). -/
def State.landRefusal (s : State) (x : Xfer) (cid a n : Nat) : Option Nat :=
  let first : Bool := x.multi && a == x.base
  s.landCheck x.own x.ctx cid a (if first then x.len else n)

/-- Land the next bytes of the current piece, in one target after another; whether the step goes on: past a target that
takes none of them, and to the end of the piece.
Each naturally aligned 8-byte piece is an event of its own (R363), the pieces land by rising address, and the targets of a
multicast one after another by rising number (DESIGN CHOICE, log entry 74). A target's NI first ends the write that it
applies (R224). -/
def State.landNext (s : State) (ch : Chan) (x : Xfer) : State × Bool :=
  let n := x.landLen s.core
  let next (x : Xfer) (k : Nat) : Xfer := { x with landed := k }
  match if n == 0 then none else (x.targets s.cid)[x.landed / n]? with
  | none => (s.mapCore fun c => c.onXfer ch fun x => x.advance (x.stepLen c) (x.buf.drop n), false)
  | some cid =>
    let off := x.landed % n
    let skip := (x.landed / n + 1) * n
    let k := s.pieceCut (x.landFrom + off) (n - off)
    if x.refused.contains cid then (s.mapCore fun c => c.onXfer ch fun x => next x skip, true)
    else if !x.own && (s.coreAt cid).applying.isSome then (s, false)
    else
      match s.landRefusal x cid (x.landFrom + off) k with
      | some cause =>
        if x.multi then (s.mapCore fun c => c.onXfer ch fun x => next (x.refuse off cid cause) skip, true)
        else (s.mapCore fun c => c.onXfer ch fun x => x.refused_ off cause (landReason cause) cid, false)
      | none =>
        ((s.land x.own cid (x.landFrom + off) ((x.buf.drop off).take k)).mapCore fun c =>
          c.onXfer ch fun x => next x (x.landed + k), x.landed + k == n * (x.targets s.cid).length)

/-- Land bytes of the current piece; `fuel` bounds the targets. -/
def State.landStep (ch : Chan) : Nat → State → State
  | 0, s => s
  | fuel + 1, s =>
    match s.core.running ch with
    | none => s
    | some x =>
      if x.acc != .land then s
      else
        let r := s.landNext ch x
        if r.2 then State.landStep ch fuel r.1 else r.1

/-- The destination bytes of one 64-byte beat of source data. -/
def Xfer.beatOut (x : Xfer) : Nat :=
  let (ss, ds) := x.form.sizes
  64 / ss * ds

/-- Send bytes of a kind-2 request, from `landFrom` on, to its target in another package, with the beats of source data
that they carry; `op` is the operation that waits for the answer. -/
def State.sendChunk (s : State) (ch : Chan) (x : Xfer) (bs : List Byte) (beats : Nat) : State :=
  let cid := remoteCid x.w1
  let op : OutOp := ⟨s.tags, .copy ch, .core cid, .fabric, x.pc, remoteAddr cid (x.landFrom % 2 ^ 21)⟩
  let p : Packet := ⟨s.cid, cid, x.ctx, s.tags, true, x.pc, op.afaddr,
    .copy x.landFrom bs ⟨beats, x.carry.length, x.beatOut, false⟩⟩
  let s := s.mapCore fun c =>
    { (c.onXfer ch fun x => { x with acc := .put }) with outst := c.outst ++ [op] }
  ({ s with tags := s.tags + 1 }).send p

/-- The transformed bytes of the current piece, with the destination address that its elements count from. -/
def Xfer.output (x : Xfer) (bs : List Byte) : List Byte :=
  x.form.apply (if x.kind == 1 then (x.dst + x.pos) % 2 ^ 56 else x.landing) bs

/-- The source bytes of the current piece that a local store supplies, as an address and a length. -/
def Xfer.supply (x : Xfer) (c : Core) : Nat × Nat := x.localSrc (x.pieceLen c)

/-- Read the next bytes of the current piece from the core's own store, in whole naturally aligned 8-byte pieces of the
source (R363); a bad granule ends the request, and no byte of its chunk lands (R362). -/
def State.gather (s : State) (ch : Chan) (x : Xfer) : State :=
  let (a, n) := x.supply s.core
  let b := a + x.buf.length
  let k := s.pieceCut b (min ((a + n + 7) / 8 * 8) (x.src + x.len) - b)
  s.mapCore fun c => c.onXfer ch fun x =>
    if (c.badIn b k).isSome then
      if x.kind == 1 then x.failGlobal (x.va c) reasonEcc
      else x.failLocal causeCopyFail reasonEcc (((x.targets s.cid).head?).getD s.cid)
    else { x with buf := x.buf ++ c.ls.readBytes b k }

/-- The current piece of a request that reads the core's own store still lacks source bytes. -/
def Xfer.gathers (x : Xfer) (c : Core) : Bool :=
  !x.reading && x.acc == .none && decide (x.buf.length < (x.supply c).2)

/-- Transform a piece whose source bytes have been read, and send it on its way: to the home slice, to another package, or
into local stores, where its first bytes land. -/
def State.copyPiece (s : State) (ch : Chan) (x : Xfer) (bs : List Byte) : State :=
  let cid := remoteCid x.w1
  let out := x.carry ++ x.output bs
  let x := { x with buf := out, ahead := x.buf.drop bs.length, landed := 0 }
  let s (acc : XAccess) : State := s.mapCore fun c => c.onXfer ch fun _ => { x with acc := acc }
  if x.kind == 1 then s .put
  else if x.kind == 2 && (s .land).exists_ cid && pkgOf cid != (s .land).pkg && x.landLen (s .land).core != 0 then
    (s .put).sendChunk ch x (out.take (x.landLen (s .put).core)) (beatsOf 0 bs.length)
  else State.landStep ch 17 (s .land)

/-- A kind-2 request to another package leaves by a port that the injection watches. -/
def State.leavesWatched (s : State) (x : Xfer) : Bool :=
  let pkg := pkgOf (remoteCid x.w1)
  x.kind == 2 && pkg != s.pkg && ((s.portTo pkg true).map fun k => s.injWatchesPort k true).getD false

/-- The bytes of the first `k` beats from address `a`. -/
def beatBytes (a k : Nat) : Nat := if k == 0 then 0 else (a / 64 + k) * 64 - a

/-- A part of a piece: the address from which its 64-byte beats count, its length, and whether the injection watches a
hop of its way (R418). -/
structure Leg where
  at_ : Nat
  len : Nat
  watched : Bool
deriving DecidableEq, Repr

/-- The beats of a piece that cross the watched link. -/
def legBeats (l : List Leg) : Nat := (l.map fun g => if g.watched then beatsOf g.at_ g.len else 0).sum

/-- The bytes of a piece that have crossed when `k` more beats cross the watched link. -/
def legBytes : List Leg → Nat → Nat
  | [], _ => 0
  | g :: rest, k =>
    if !g.watched then g.len + legBytes rest k
    else if beatsOf g.at_ g.len ≤ k then g.len + legBytes rest (k - beatsOf g.at_ g.len)
    else min g.len (beatBytes g.at_ k)

/-- The parts of `n` bytes of global memory from `va` that the request has read, by chunk; `fuel` bounds them. -/
def State.readLegs (s : State) (ctx : Nat) : Nat → Nat → Nat → List Leg
  | 0, _, _ => []
  | fuel + 1, va, n =>
    let k := min n (chunkSize - va % chunkSize)
    if n == 0 then []
    else ⟨va, k, s.injWatches (s.readPath ctx va ++ [s.dieOf s.cid])⟩ :: State.readLegs s ctx fuel ((va + k) % 2 ^ 56) (n - k)

/-- The parts of the current piece, in the order in which they cross. A row comes from several chunks, and a piece may
come from its replica. -/
def State.legsOf (s : State) (x : Xfer) (bs : List Byte) : List Leg :=
  let va : Nat := match x.kind, x.fromReplica, x.replicaVa with
    | 3, _, _ => (x.src + x.indexWord s.core * x.stride) % 2 ^ 56
    | _, true, some r => (r + x.pos) % 2 ^ 56
    | _, _, _ => (x.src + x.pos) % 2 ^ 56
  if x.reading then s.readLegs x.ctx (bs.length / chunkSize + 2) va bs.length
  else [⟨0, bs.length, x.kind != 1 && (s.injWatches (s.path s.cid x 0) || s.leavesWatched x)⟩]

/-- The source bytes that are ready for `COPY_CHUNK`. -/
def State.pieceReady (s : State) (x : Xfer) : Option (List Byte) :=
  if x.reading then if x.acc == .have_ then some x.buf else none
  else if x.acc == .none && !x.gathers s.core then some (x.buf.take (x.supply s.core).2)
  else none

/-- Tokens for a piece that a core sends to another one: a multicast stays in its cluster, and a read or a write of global
memory spends at its slice's access (R364). -/
def State.sendTokens (s : State) (x : Xfer) (bs : List Byte) : Option State :=
  if x.kind == 2 then s.charge (s.portsOf s.cid x 0) x.ctx (bytesCost (x.output bs)) else some s

/-- A piece whose source bytes are ready: a chunk that the injected link would corrupt is left to `LFINJ_FIRE`. -/
def State.movePiece (s : State) (ch : Chan) (x : Xfer) : State :=
  match s.pieceReady x with
  | some bs =>
    match s.crossBeats true (legBeats (s.legsOf x bs)) with
    | none => s
    | some s' =>
      match s'.sendTokens x bs with
      | none => s
      | some s' => s'.copyPiece ch x bs
  | none => s

/-- `COPY_CHUNK` (R363): read, transform and land pieces of a chunk of a request. -/
def execCopyChunk (s : State) : Result :=
  withChan s fun ch =>
    match s.core.running ch with
    | none => .next s
    | some x =>
      if x.acc == .land then .next (State.landStep ch 17 s)
      else
        let s := if x.gathers s.core then s.gather ch x else s
        match s.core.running ch with
        | none => .next s
        | some x => .next (s.movePiece ch x)

/-- Land bytes of a request at its targets that take them, from `landFrom` on: what it still holds when it fails. -/
def State.landLast (s : State) (x : Xfer) (bs : List Byte) : State :=
  (x.targets s.cid).foldl (fun s cid =>
    if bs.isEmpty || x.refused.contains cid || (s.landCheck x.own x.ctx cid x.landFrom bs.length).isSome then s
    else s.land x.own cid x.landFrom bs) s

/-- The target of a kind-2 request lies in another package. -/
def State.leavesPkg (s : State) (x : Xfer) : Bool := x.kind == 2 && pkgOf (remoteCid x.w1) != s.pkg

/-- The beats of a chunk that crossed before the corrupted one land, and the request fails with reason LINK. -/
def State.firePiece (s : State) (ch : Chan) (x : Xfer) (bs : List Byte) : State :=
  let (ss, _) := x.form.sizes
  let part := bs.take (legBytes (s.legsOf x bs) s.beatsLeft / ss * ss)
  let va := x.va s.core
  let x' := { x with carry := if part.isEmpty then x.carry else [] }
  let s := (s.injFired).mapCore fun c => c.onXfer ch fun _ => x'.failLink va (x.target s.cid)
  let out := x.carry ++ x.output part
  if part.isEmpty then s
  else if s.leavesPkg x then s.sendChunk ch x out (beatsOf 0 part.length)
  else s.landLast x out

/-- The bytes that a request which has ended in a failure still holds land (R362). -/
def State.landCarry (s : State) (ch : Chan) (x : Xfer) : State :=
  if s.leavesPkg x && s.exists_ (remoteCid x.w1) then s.sendChunk ch x x.carry 0
  else (s.landLast x x.carry).mapCore fun c => c.onXfer ch fun x => { x with carry := [] }

/-- The same for a kind-1 request, whose beats cross on the way to the home slice. -/
def State.firePut (s : State) (ch : Chan) (x : Xfer) : State :=
  let va := x.va s.core
  let part := x.buf.take (beatBytes va s.beatsLeft)
  let s := s.injFired
  let s := if part.isEmpty then s
    else
      match s.gmem.writeChunk x.ctx va part s.hitR s.hitW with
      | .done g _ => { s with gmem := g }
      | _ => s
  s.mapCore fun c => c.onXfer ch fun x => x.failGlobal va reasonLink

/-- `LFINJ_FIRE` (R418) at a channel of the core in focus: its next beats would pass `AFTER`. -/
def execLfinjFire (s : State) : Result :=
  withChan s fun ch =>
    match s.core.running ch with
    | none => .next s
    | some x =>
      if x.kind == 1 && x.acc == .put then
        let va := x.va s.core
        if (s.crossBeats (s.injWatches (s.path s.cid x va)) (beatsOf va x.buf.length)).isNone then
          .next (s.firePut ch x)
        else .next s
      else
        match s.pieceReady x with
        | some bs =>
          if (s.crossBeats true (legBeats (s.legsOf x bs))).isNone then .next (s.firePiece ch x bs) else .next s
        | none => .next s

/-! ## Multicast releases (R355) -/

/-- `BFREE_CREDIT` at the source in focus. -/
def execBfreeCredit (s : State) : Result :=
  match s.arriving with
  | some (k, p) =>
    match p.kind with
    | .bfree =>
      .next ((s.takePacket k).mapCore fun c =>
        { c with copy := (c.copy.credit (coreNo p.src)).released })
    | _ => .next s
  | none => .next s

/-! ## Completion (R349, R351, R357, R362) -/

/-- The tile operation of a request's follow-on. -/
def Core.followOp (c : Core) (x : Xfer) : Option TileOp :=
  x.follow.bind fun w =>
    match decodeAt c.isUser w.toNat with
    | .instr i => tileOf i
    | _ => none

/-- Issue a follow-on with its record as read; its count is the one that acceptance added. A fault is recorded in the tl
class. -/
def Core.issueFollow (c : Core) (x : Xfer) (w : Word) : Core :=
  let drop (cause : Nat) (tval : Word) : Core :=
    (c.recordFailure (Failure.plain .tl cause x.pc tval)).tlDown 1
  match decodeAt c.isUser w.toNat with
  | .instr i =>
    match tileOf i with
    | none => drop causeIllegal w
    | some op =>
      let (a, bs) := x.record.getD (0, [])
      match if (recordReg op).isSome then c.shapeTrap a else none with
      | some t => drop t.cause t.tval
      | none =>
        match c.issueTile op (ofBytesLE bs) (some x.pc) with
        | .ok c' => c'.tlDown 1
        | .trap t _ => drop t.cause t.tval
  | .illegal t => drop t.cause t.tval
  | .fault t => drop t.cause t.tval

/-- A request's end at its core. -/
def Core.complete (c : Core) (ch : Chan) (x : Xfer) : Core :=
  let c := { c with
    copy := { c.copy with fifo := pruneJoins [] (dropOldest ch c.copy.fifo) }
    cnt := { c.cnt with cp := c.cnt.cp - 1 } }
  let c := c.setLatch
  let c := { c with copy := (c.copy.noteRefused x).released }
  match x.fail with
  | some f =>
    let c := c.recordFailure ⟨.cp, f.cause, x.pc, f.afaddr, f.reason, ch.val, f.doneb, f.global, false⟩
    if x.fol then c.tlDown 1 else c
  | none =>
    match x.follow with
    | some w => c.issueFollow x w
    | none => c

/-- The follow-on of a request cannot be issued yet: no entry is free, or its shape record is to be read behind local
accesses that the sequencer has yet to perform (R16). The whole completion waits with it (DEDUCED, log entry 75). -/
def Core.followWaits (c : Core) (x : Xfer) : Bool :=
  x.fail.isNone && x.follow.isSome &&
    (c.seqFull || (x.record.isNone && c.accessPending && ((c.followOp x).bind recordReg).isSome))

/-- The register that holds the address of the record that a request's follow-on reads. -/
def Core.followReads (c : Core) (x : Xfer) : Option SReg :=
  if x.fail.isSome then none else (c.followOp x).bind recordReg

/-- A request that has ended completes, or its follow-on reads the next piece of its shape record (R247, R357). -/
def Core.completeNext (c : Core) (ch : Chan) (x : Xfer) : Core :=
  match c.followReads x with
  | none => c.complete ch x
  | some r =>
    let (a, got) := x.record.getD (c.rdS r, [])
    let bs := if (c.shapeTrap a).isSome then got else c.readPiece a.toNat 64 got
    if 64 ≤ bs.length || (c.shapeTrap a).isSome then c.complete ch { x with record := some (a, bs) }
    else c.onXfer ch fun x => { x with record := some (a, bs) }

end Sys2Proof.Machine
end

