-- ==== Sys2Proof/Machine/NiEvents.lean ====
section
/-! DEFINITION. What a network interface does on its own (R223 to R228, R234, R388): applying, reading and
atomics at the target, accepting messages, and taking answers at the issuer (R381, R382). -/

namespace Sys2Proof.Machine

/-! ## At the target -/

/-- Serve the arriving operation, of a kind that `f` covers: refuse it, or apply it and answer. -/
def serveArriving (s : State) (f : Packet → Option (State → State × ReplyKind)) : Result :=
  match s.arriving with
  | none => .next s
  | some (k, p) =>
    match f p with
    | none => .next s
    | some act =>
      match s.refuses p with
      | some cause => .next ((s.takePacket k).nack p cause)
      | none =>
        let (s', r) := act (s.takePacket k)
        .next (s'.answer (p.answer r))

/-- A remote write's bytes, and the event latch (R224). -/
def Core.applyWrite (c : Core) (a : Nat) (bs : List Byte) : Core := (c.landBytes a bs).setLatch

/-- Place a message in the arrival queue, or behind the spilled ones. -/
def Core.acceptMsg (c : Core) (m : Msg) : Core :=
  let b := c.inbox
  if b.arrival.length < 64 && b.spill.isEmpty then
    ({ c with inbox := { b with arrival := b.arrival ++ [m] } }).setLatch
  else { c with inbox := { b with spill := b.spill ++ [m], totspill := b.totspill + 1 } }

/-- The last bytes of a write or payload have been applied: the message whose payload it was is accepted (R233). -/
def Core.applied (c : Core) (x : Applying) : Core :=
  let c := { c with applying := none }
  match x.msg with
  | some m => c.acceptMsg m
  | none => c

/-- The acknowledgement of a write or payload that has been applied. -/
def Applying.answer (x : Applying) : Reply := ⟨x.src, x.ctx, x.tag, .ack⟩

/-- Apply the next naturally aligned pieces of a remote write or payload, and answer it after the last one (R224). -/
def State.applyPieces (s : State) (x : Applying) : State :=
  let k := s.pieceCut x.addr x.bytes.length
  let s := s.mapCore fun c => c.applyWrite x.addr (x.bytes.take k)
  if x.bytes.length ≤ k then (s.mapCore fun c => c.applied x).answer x.answer
  else s.mapCore fun c => { c with applying := some { x with addr := x.addr + k, bytes := x.bytes.drop k } }

/-- What a core's NI has begun to apply is applied whole: a start finds no write half done. A sound store's answer is left
to `SOUND_MEMBER_APPLY`. -/
def State.applyRest (s : State) (cid : Nat) : State :=
  match (s.coreAt cid).applying with
  | some x =>
    let s := s.onCore cid fun c => c.applyWrite x.addr x.bytes
    if x.sound.isSome then s.onCore cid fun c => { c with applying := some { x with bytes := [] } }
    else (s.onCore cid fun c => c.applied x).answer x.answer
  | none => s

/-- The next pieces of a chunk that another package's copy sends; the rest stays on its way (R363). -/
def State.applyCopy (s : State) (k : Nat) (p : Packet) (a : Nat) (bs : List Byte) (w : Beats) : State :=
  let n := s.pieceCut a bs.length
  let s := s.mapCore fun c => c.applyWrite a (bs.take n)
  if bs.length ≤ n then (s.takePacket k).answer (p.answer (if w.lost then .nack causeLost else .ack))
  else { s with net := s.net.set k { p with kind := .copy (a + n) (bs.drop n) w } }

/-- `NI_APPLY` at the core in focus: the pieces of a write one after another, each of them one event (R224, R247). -/
def execNiApply (s : State) : Result :=
  match s.core.applying with
  | some x => if x.sound.isSome then .next s else .next (s.applyPieces x)
  | none =>
    match s.arriving with
    | none => .next s
    | some (k, p) =>
      match p.kind with
      | .write a bs =>
        match s.refuses p with
        | some cause => .next ((s.takePacket k).nack p cause)
        | none => .next ((s.takePacket k).applyPieces ⟨p.src, p.ctx, p.tag, a, bs, none, none⟩)
      | .copy a bs w =>
        match s.refuses p with
        | some cause => .next ((s.takePacket k).nack p cause)
        | none => .next (s.applyCopy k p a bs w)
      | _ => .next s

/-- `NI_REMOTE_READ`. -/
def execNiRemoteRead (s : State) : Result :=
  serveArriving s fun p =>
    match p.kind with
    | .read a n => some fun s => (s, .value (BitVec.ofNat 64 (s.core.loadN a n)))
    | _ => none

/-- A remote atomic's effect: the core after it and the old word (R117, R227). -/
def Core.applyAmo (c : Core) (k : AmoKind) (a n v new : Nat) : Core × Word :=
  let m := c.loadN a n
  (match amoNew k n m v new with
   | some x => c.applyWrite a (toBytesLE n x)
   | none => c, BitVec.ofNat 64 m)

/-- `NI_REMOTE_ATOMIC`. -/
def execNiRemoteAtomic (s : State) : Result :=
  serveArriving s fun p =>
    match p.kind with
    | .amo k a n v new returns => some fun s =>
      let (c, old) := s.core.applyAmo k a n v new
      ({ s with core := c }, if returns then .value old else .ack)
    | _ => none

/-- `MINT_APPLY` (R387, R388): the bit is set, with the last sender of MESHSW or the source bit of WATCHDOG. -/
def Core.applyMint (c : Core) (bit : Fin 6) (src : Nat) : Core :=
  match bit.val with
  | 2 => { c.pend 2 with trap := { (c.pend 2).trap with meshSender := BitVec.ofNat 24 src } }
  | 5 => c.pendWatchdog 2
  | _ => c.pend bit

def execMintApply (s : State) : Result :=
  serveArriving s fun p =>
    match p.kind with
    | .mint bit => some fun s => (s.mapCore fun c => c.applyMint bit p.src, .ack)
    | _ => none

/-! ## Messages (R232, R234) -/

/-- Where a message's payload lands, and its bytes there. -/
def landingOf (ws : List Word) (payload : Option Payload) : Option (Nat × List Byte) :=
  payload.map fun q => (q.landing.toNat, q.landed ws)

/-- A message as it is queued. -/
def Packet.queued (p : Packet) (h : Word) (ws : List Word) (payload : Option Payload) : Msg :=
  ⟨p.src, p.ctx, h, ws, (landingOf ws payload).map fun x => x.2.length, p.pc, p.afaddr⟩

/-- A message accepted as a whole, its payload landed. -/
def Core.landMsg (c : Core) (p : Packet) (h : Word) (ws : List Word) (payload : Option Payload) : Core :=
  let c := match landingOf ws payload with
    | some (a, bs) => c.applyWrite a bs
    | none => c
  c.acceptMsg (p.queued h ws payload)

/-- `MESSAGE_ACCEPT`: a payload lands piece by piece, and the message is accepted after it (R232, R234). -/
def execMessageAccept (s : State) : Result :=
  match s.arriving with
  | none => .next s
  | some (k, p) =>
    match p.kind with
    | .msg h ws payload =>
      match s.refuses p with
      | some cause => .next ((s.takePacket k).nack p cause)
      | none =>
        let s := s.takePacket k
        match landingOf ws payload with
        | some (a, bs) => .next (s.applyPieces ⟨p.src, p.ctx, p.tag, a, bs, some (p.queued h ws payload), none⟩)
        | none => .next ((s.mapCore fun c => c.acceptMsg (p.queued h ws payload)).ack p)
    | _ => .next s

/-- `SPILL_MOVE` (R234). -/
def execSpillMove (s : State) : Result :=
  let b := s.core.inbox
  match b.spill with
  | m :: rest =>
    if b.arrival.length < 64 then
      .next (s.mapCore fun c => ({ c with inbox := { b with arrival := b.arrival ++ [m], spill := rest } }).setLatch)
    else .next s
  | [] => .next s

/-- `SPILL_QUEUE_CONFIG`: the base and capacity of a core's spill queue, as three operands. Firmware's other
per-core region, the transcript of R395, is set by two operands at the core in focus. -/
def execSpillQueueConfig (s : State) : Result :=
  match s.inp with
  | .three cid base cap =>
    .next (s.onCore cid fun c => { c with inbox := { c.inbox with spillBase := base, spillCap := cap } })
  | .two base cap => .next (s.mapCore fun c => { c with trans := { c.trans with base := base, cap := cap } })
  | _ => .next s

/-! ## At the issuer (R225, R228, R381) -/

/-- The answer that the step's operand selects for the core in focus. -/
def State.answering (s : State) : Option (Nat × Reply) :=
  match s.inp with
  | .idx k =>
    match s.back[k]? with
    | some r => if r.dst == s.cid && (s.divertsTo r.dst r.ctx).isNone then some (k, r) else none
    | none => none
  | _ => none

def State.takeAnswer (s : State) (k : Nat) : State := { s with back := s.back.eraseIdx k }

def Core.findOut (c : Core) (tag : Nat) : Option OutOp := c.outst.find? fun o => o.tag == tag

/-- A refused operation's record (R381, R382). -/
def Core.refusedOut (c : Core) (o : OutOp) (cause : Nat) : Core :=
  (c.closeOut o.tag).recordFailure (Failure.plain (if o.kind.isLoad then .ld else .st) cause o.pc o.afaddr)

/-- The request has ended in a failure, and the last bytes that it held have been answered. -/
def Xfer.ended (x : Xfer) : Bool := x.phase == .ended
def Xfer.carried (x : Xfer) : Xfer := { x with acc := .none, carry := [] }

/-- A copy chunk's answer from another package. -/
def Core.copyAnswer (c : Core) (o : OutOp) (ch : Chan) (cause : Option Nat) : Core :=
  let c := c.closeOut o.tag
  match cause with
  | none => c.onXfer ch fun x => if x.ended then x.carried else x.advance (x.stepLen c) (x.buf.drop (x.landLen c))
  | some k =>
    c.onXfer ch fun x =>
      if x.ended then x.carried
      else if k == causeEndpoint then x.refused_ 0 causeEndpoint 0 (remoteCid x.w1)
      else x.refused_ 0 causeCopyFail (if k == causeLost then reasonLink else reasonRefused) (remoteCid x.w1)

/-- `ACK_ARRIVAL`: an acknowledgement or a refusal of an operation that returns no value. -/
def execAckArrival (s : State) : Result :=
  match s.answering with
  | none => .next s
  | some (k, r) =>
    let gone := s.takeAnswer k
    match r.kind, s.core.findOut r.tag with
    | .late cause pc afaddr, _ =>
      .next (gone.mapCore fun c => c.recordFailure (Failure.plain .st cause pc afaddr))
    | .value _, _ => .next s
    | .ack, none => .next gone
    | .nack _, none => .next gone
    | .ack, some o =>
      match o.kind with
      | .copy ch => .next (gone.mapCore fun c => c.copyAnswer o ch none)
      | _ => if o.kind.isLoad then .next s else .next (gone.mapCore fun c => c.closeOut o.tag)
    | .nack cause, some o =>
      match o.kind with
      | .copy ch => .next (gone.mapCore fun c => c.copyAnswer o ch (some cause))
      | _ => if o.kind.isLoad then .next s else .next (gone.mapCore fun c => c.refusedOut o cause)

/-- The write of a reply to its register; a refused read writes zero. -/
def Core.writeReply (c : Core) (o : OutOp) (x : Word) : Core :=
  match o.kind with
  | .load d size u => c.wrS d (extend size u x.toNat)
  | .amo d size => c.wrS d (amoResult size.bytes x.toNat)
  | _ => c

/-- `REPLY_ARRIVAL` (R228). -/
def execReplyArrival (s : State) : Result :=
  match s.answering with
  | none => .next s
  | some (k, r) =>
    let gone := s.takeAnswer k
    match r.kind, s.core.findOut r.tag with
    | .value _, none => .next gone
    | .value x, some o =>
      if o.kind.isLoad then .next (gone.mapCore fun c => ((c.writeReply o x).closeOut o.tag).observe) else .next gone
    | .nack cause, some o =>
      if o.kind.isLoad then .next (gone.mapCore fun c => (c.writeReply o 0).refusedOut o cause) else .next s
    | _, _ => .next s

end Sys2Proof.Machine
end

