-- ==== Sys2Proof/Machine/Hub.lean ====
section
/-! DEFINITION. The hub's pending-launch store: clause records and their checks (R206, R207), `exit` and
continuations (R208 to R214, R425), host submissions (R403), freezing (R221) and the end of a member's clause. -/

namespace Sys2Proof.Machine

/-! ## Clause records (R206, R207) -/

/-- The fields of a record. -/
def ClauseRec.parse (x : Nat) : ClauseRec where
  tmpl := fieldOf x 0 64
  codelen := fieldOf x 64 32
  loadoff := fieldOf x 96 32
  entry := fieldOf x 128 32
  argdst := fieldOf x 160 32
  args := fieldOf x 192 64
  stages := fieldOf x 256 48
  kind := fieldOf x 320 4
  ncl := fieldOf x 328 7
  prio := fieldOf x 336 3
  queue := fieldOf x 344 6
  join := fieldOf x 352 16
  ctx := fieldOf x 368 12
  res := fieldOf x 384 1 == 1
  kstart := fieldOf x 385 1 == 1

/-- The offset of the first field that fails the check of R207, for a record of a queue that `owner` owns. -/
def recordFault (x : Nat) (host : Bool) (owner : Option Nat) : Option Nat :=
  let r := ClauseRec.parse x
  let argsOk : Bool :=
    if r.args == 0 then r.argdst == 0
    else r.argdst % 8 == 0 && decide (r.argdst + 256 ≤ lsSize) &&
      (decide (r.argdst + 256 ≤ r.loadoff) || decide (r.loadoff + r.codelen ≤ r.argdst))
  let nclOk : Bool := if r.kind == 7 then decide (1 ≤ r.ncl) && decide (r.ncl ≤ 96) else r.ncl == 0
  let tests : List (Nat × Bool) := [
    (0x00, r.tmpl % 64 == 0 && decide (r.tmpl < 2 ^ 56)),
    (0x08, decide (32 ≤ r.codelen) && decide (r.codelen ≤ lsSize) && r.codelen % 32 == 0),
    (0x0C, r.loadoff % 32 == 0 && decide (r.loadoff + r.codelen ≤ lsSize)),
    (0x10, r.entry % 4 == 0 && decide (r.loadoff ≤ r.entry) && decide (r.entry < r.loadoff + r.codelen)),
    (0x14, argsOk),
    (0x18, r.args % 8 == 0 && decide (r.args < 2 ^ 56)),
    (0x20, fieldOf x 304 16 == 0),
    (0x28, decide (r.kind ≤ 7) && nclOk && fieldOf x 324 4 == 0 && fieldOf x 335 1 == 0),
    (0x2A, fieldOf x 339 5 == 0),
    (0x2B, !host || fieldOf x 350 2 == 0),
    (0x2C, r.join != 0 && (!host || r.join == 1)),
    (0x2E, fieldOf x 380 4 == 0 && owner == some r.ctx),
    (0x30, fieldOf x 386 6 == 0 && (host || !r.kstart)),
    (0x31, fieldOf x 392 120 == 0)]
  (tests.find? fun t => !t.2).map (·.1)

/-! ## Queues and entries -/

def Hub.queue (h : Hub) (q : Nat) : LaunchQueue := h.queues.toList.getD q LaunchQueue.reset

def Hub.onQueue (h : Hub) (q : Nat) (f : LaunchQueue → LaunchQueue) : Hub :=
  if hq : q < 64 then { h with queues := h.queues.set q (f (h.queues.get ⟨q, hq⟩)) hq } else h

def Hub.onEntry (h : Hub) (id : Nat) (f : LaunchEntry → LaunchEntry) : Hub :=
  { h with entries := h.entries.map fun e => if e.id == id then f e else e }

/-- Free an entry. -/
def Hub.dropEntry (h : Hub) (id : Nat) : Hub := { h with entries := h.entries.filter fun e => e.id != id }

/-! ## Joins (R212) -/

def LaunchEntry.matches_ (e : LaunchEntry) (k : Cont) : Bool :=
  e.ctx == k.ctx && e.queue == k.queue && e.clrec == k.clrec && e.jkey == k.jkey

/-- The join count of an open entry. -/
def LaunchEntry.openJoin (e : LaunchEntry) : Option Nat :=
  match e.state with
  | .open_ join => some join
  | _ => none

/-- The open entry that an arrival merges into. -/
def Hub.openFor (h : Hub) (k : Cont) : Option LaunchEntry :=
  h.entries.find? fun e => e.openJoin.isSome && e.matches_ k

/-- The arguments are those of the sender of lowest `CID`; the arrival that completes the join is handled with its
record's check. -/
def LaunchEntry.merge (e : LaunchEntry) (k : Cont) (join : Nat) : LaunchEntry :=
  let e := if k.sender < e.lowcid then { e with lowcid := k.sender, arg0 := k.arg0, arg1 := k.arg1 } else e
  { e with count := e.count + 1, state := if e.count + 1 == join then .joined else .open_ join }

/-- Open an entry for the first arrival of an identity. -/
def Hub.openEntry (h : Hub) (k : Cont) : Hub :=
  { h with
    nextId := h.nextId + 1
    entries := h.entries ++
      [⟨h.nextId, k.ctx, k.queue, k.clrec, k.jkey, 1, k.sender, k.arg0, k.arg1, false, .reading⟩] }

/-- Handle an arrival (R212). -/
def Hub.handle (h : Hub) (k : Cont) : Hub :=
  match h.openFor k with
  | some e => h.onEntry e.id fun e => e.merge k (e.openJoin.getD 0)
  | none => h.openEntry k

/-- The hub handles an arrival with this entry: it has a record to read. -/
def LaunchEntry.handling (e : LaunchEntry) : Bool :=
  match e.state with
  | .reading | .joined => true
  | _ => false

/-- The entry whose record the hub reads; it handles one arrival at a time (R212). -/
def Hub.handled (h : Hub) : Option LaunchEntry := h.entries.find? LaunchEntry.handling

/-- Handle the arrivals that wait, in the order of acceptance, until one has a record to read; `fuel` bounds them. -/
def Hub.settleFrom : Nat → Hub → Hub
  | 0, h => h
  | fuel + 1, h =>
    match h.handled, h.pending with
    | none, k :: rest => Hub.settleFrom fuel (({ h with pending := rest }).handle k)
    | _, _ => h

def Hub.settle (h : Hub) : Hub := h.settleFrom h.pending.length

/-- An arrival with a place is handled behind the earlier ones. -/
def Hub.arrive (h : Hub) (k : Cont) : Hub := ({ h with pending := h.pending ++ [k] }).settle

/-! ## Places (R213, R214) -/

def storeCap : Nat := 8192

/-- The open entries as the arrivals that wait will leave them, and how many of those arrivals may need an entry of their
own: the join count of an entry that has its template still to be read is not known. -/
def Hub.forecast (h : Hub) : List LaunchEntry × Nat :=
  h.pending.foldl (fun (es, n) k =>
    match es.find? fun e => e.openJoin.isSome && e.matches_ k with
    | some e => (es.map fun x => if x.id == e.id then x.merge k (x.openJoin.getD 0) else x, n)
    | none => (es, n + 1)) (h.entries.filter fun e => e.openJoin.isSome, 0)

/-- The store has a free entry, with the arrivals that wait counted. -/
def Hub.hasRoom (h : Hub) : Bool := decide (h.entries.length + h.forecast.2 < storeCap)

/-- The arrival will merge into an open entry. -/
def Hub.willMerge (h : Hub) (k : Cont) : Bool := h.forecast.1.any fun e => e.openJoin.isSome && e.matches_ k

/-- Count an arrival for a frozen queue as cancelled (R221). -/
def Hub.cancel (h : Hub) (q n : Nat) : Hub := h.onQueue q fun x => { x with cancelled := x.cancelled + n }

/-- Place an arrival, with the number of its overflow record where it becomes one (R214); none where it finds no place. -/
def Hub.place (h : Hub) (k : Cont) : Option (Hub × Option Nat) :=
  let q := h.queue k.queue
  if q.frozen then some (h.cancel k.queue 1, none)
  else if q.ovCount == 0 && (h.willMerge k || h.hasRoom) then some (h.arrive k, none)
  else if q.ovCount < q.ovcap then
    some (h.onQueue k.queue fun q => { q with ovCount := q.ovCount + 1, ovNext := q.ovNext + 1 }, some q.ovNext)
  else none

/-- The queue of the first block that finds no place, or the hub with all of them placed and the overflow records that
they become. -/
def Hub.placeAll (h : Hub) : List Cont → Except Nat (Hub × List (Nat × Cont))
  | [] => .ok (h, [])
  | k :: rest =>
    match h.place k with
    | some (h', n) => (Hub.placeAll h' rest).map fun (h'', ov) => (h'', (n.map fun n => (n, k)).toList ++ ov)
    | none => .error k.queue

/-- A continuation block, unless it breaks R208. -/
def parseCont (x sender ctx : Nat) : Option Cont :=
  if fieldOf x 0 6 != 0 || fieldOf x 56 8 != 0 || fieldOf x 70 10 != 0 then none
  else some ⟨BitVec.ofNat 64 x, fieldOf x 64 6, fieldOf x 80 48, BitVec.ofNat 64 (fieldOf x 128 64),
    BitVec.ofNat 64 (fieldOf x 192 64), sender, ctx⟩

/-- An overflow record: the block, the sender's `CID` and its context (R213). Where the last two stand in the 64 bytes is
the model's (DESIGN CHOICE, log entry 25). -/
def Cont.record (k : Cont) : List Byte :=
  toBytesLE 8 k.clrec.toNat ++ toBytesLE 8 (k.queue + k.jkey * 2 ^ 16) ++ toBytesLE 8 k.arg0.toNat ++
    toBytesLE 8 k.arg1.toNat ++ toBytesLE 8 k.sender ++ toBytesLE 8 k.ctx ++ List.replicate 16 0

/-- The arrival that an overflow record holds. -/
def Cont.parse (bs : List Byte) : Option Cont :=
  let x := ofBytesLE bs
  parseCont (fieldOf x 0 256) (fieldOf x 256 64) (fieldOf x 320 64)

/-- The VA of record `n` of an overflow region. -/
def LaunchQueue.recordVa (q : LaunchQueue) (n : Nat) : Nat := (q.ovbase.toNat + 64 * (n % q.ovcap)) % 2 ^ 56

/-- The hub with a group's blocks placed, and their overflow records written to global memory. -/
def State.setPlaced (s : State) (h : Hub) (ov : List (Nat × Cont)) : State :=
  ov.foldl (fun s (n, k) =>
    let q := h.queue k.queue
    s.pokeRecord (q.owner.getD 0) (q.recordVa n) k.record) { s with hub := h }

/-! ## Freezing (R221) -/

/-- Freeze a queue, or count a further fault: every entry, waiting arrival and overflow record is completed as
cancelled. -/
def Hub.freeze (h : Hub) (q : Nat) (f : FaultRec) : Hub :=
  if (h.queue q).frozen then h.onQueue q fun x => { x with faultsLater := x.faultsLater + 1 }
  else
    let n := (h.entries.filter fun e => e.queue == q).length + (h.pending.filter fun k => k.queue == q).length +
      (h.queue q).ovCount
    let h := { h with
      entries := h.entries.filter fun e => e.queue != q
      pending := h.pending.filter fun k => k.queue != q }
    ((h.onQueue q fun x => { x with frozen := true, fault := some f, ovCount := 0 }).cancel q n).settle

def State.onHub (s : State) (f : Hub → Hub) : State := { s with hub := f s.hub }

/-- A record check fails: the entry is freed, and its queue freezes. -/
def Hub.rejectRecord (h : Hub) (e : LaunchEntry) (cause : Nat) (tval : Word) : Hub :=
  ((h.dropEntry e.id).freeze e.queue ⟨if e.host then 0 else e.lowcid, cause, 0, tval, 0⟩).settle

/-! ## Records and ready entries (R215, R425) -/

/-- The entry is ready, behind the earlier ones. -/
def Hub.makeReady (h : Hub) (e : LaunchEntry) (r : ClauseRec) (now : Nat) : Hub :=
  let h := h.onEntry e.id fun e => { e with id := h.nextId, state := .ready r now }
  ({ h with nextId := h.nextId + 1 }).settle

/-- Check a complete entry's record, and make it ready or freeze its queue (R207). -/
def Hub.checkRecord (h : Hub) (e : LaunchEntry) (x now : Nat) : Hub :=
  match recordFault x e.host (h.queue e.queue).owner with
  | some off => h.rejectRecord e causeIllegal (BitVec.ofNat 64 off)
  | none => h.makeReady e (ClauseRec.parse x) now

/-- The first arrival's template is read: the entry opens with its join count. -/
def Hub.openWith (h : Hub) (e : LaunchEntry) (join : Nat) : Hub :=
  if join == 0 then h.rejectRecord e causeIllegal 0x2C
  else (h.onEntry e.id fun e => { e with state := if join == 1 then .joined else .open_ join }).settle

/-- The entry that the hub handles an arrival with, by its number. -/
def Hub.readingEntry (h : Hub) (id : Nat) : Option LaunchEntry := h.handled.filter fun e => e.id == id

/-- Read an entry's template; `refuse` says that firmware's policy gives no mapping. -/
def readTemplate (id : Nat) (refuse : Bool) (s : State) : Result :=
  match s.hub.readingEntry id with
  | none => .next s
  | some e =>
    let failed (s : State) : Result := .next (s.onHub fun h => h.rejectRecord e causeCopyFail e.clrec)
    match s.readGlobal e.ctx e.clrec.toNat 64 with
    | .held => .next s
    | .fault g _ _ => if refuse then failed { s with gmem := g } else .next { s with gmem := g }
    | .fail g _ _ => failed { s with gmem := g }
    | .done g bs =>
      match s.charge (s.readPorts e.ctx e.clrec.toNat hubDie) e.ctx (s.gmem.costAt e.ctx e.clrec.toNat) with
      | none => .next s
      | some s =>
        let x := ofBytesLE bs
        let s := { s with gmem := g }
        match e.state with
        | .reading => .next (s.onHub fun h => h.openWith e (fieldOf x 352 16))
        | _ => .next (s.onHub fun h => h.checkRecord e x s.hubNow)

/-- `TEMPLATE_READ` of the entry that the operand numbers (R425). -/
def execTemplateRead (s : State) : Result :=
  match s.inp with
  | .idx id => readTemplate id false s
  | .flag id refuse => readTemplate id refuse s
  | _ => .next s

/-! ## The end of a member's clause (R211) -/

/-- A member is gone; the clause ends with its last member. -/
def State.memberGone (s : State) (clause cid : Nat) : State :=
  let mark (b : Bind) : Bind :=
    if b.started && b.clause == clause then
      { b with members := b.members.map fun m => if m.cid == cid then { m with gone := true } else m }
    else b
  let binds := s.hub.binds.map mark
  let ended := binds.any fun b => b.started && b.clause == clause && b.members.all (·.gone)
  let s := s.onHub fun h => { h with binds := binds.filter fun b => !(b.started && b.members.all (·.gone)) }
  if ended then s.endClauseBars clause else s

/-- A core leaves its clause or start for IDLE: a task it runs retires, and a handler's shadow bank is discarded. -/
def Core.toIdle (c : Core) : Core :=
  { c with
    run := .idle
    status := { c.status with hnd := false }
    hubWait := .none
    yleft := none
    entering := false
    ir := none
    stepping := false
    preemptReq := false }

/-- The core in IDLE takes a halt request that is pending (R31, R210). -/
def State.leave (s : State) (cid : Nat) : State :=
  let s := (s.withdrawAt cid).retireTask cid
  let s := match s.bindOf cid with
    | some b => s.memberGone b.clause cid
    | none => s
  s.onCore cid fun c =>
    let c := { c.toIdle with sce := { c.sce with phase := .none } }
    if c.haltReq then c.halt s.now else c

/-! ## `exit` (R208 to R210) -/

/-- The `n` blocks of these bytes, or the number of the first that breaks R208. -/
def parseConts (bs : List Byte) (sender ctx n : Nat) : Except Nat (List Cont) :=
  (List.range n).mapM fun i =>
    match parseCont (ofBytesLE ((bs.drop (32 * i)).take 32)) sender ctx with
    | some k => .ok k
    | none => .error i

/-- The address of the first block. -/
def Core.exitAddr (c : Core) (a : SReg) : Word := c.rdS a

/-- The checks of the blocks' place: bounds, alignment and granules. -/
def Core.exitTrap (c : Core) (a : Word) (n : Nat) : Option Trap :=
  if !c.okAccess a.toNat (32 * n) then some ⟨causeLdBounds, a⟩
  else if a.toNat % 32 != 0 then some ⟨causeMisalign, a⟩
  else (c.badIn a.toNat (32 * n)).map fun g => ⟨causeEccLocal, BitVec.ofNat 64 g⟩

/-- Every operation has ended, and the sequencer is empty. -/
def Core.quiet (c : Core) : Bool :=
  c.cnt.ld == 0 && c.cnt.st == 0 && c.cnt.cp == 0 && c.cnt.tl == 0 && c.seqEmpty

/-- The wait of `exit` and `gend` is over at the core in focus: it is quiet, and every SFU request has returned. -/
def State.quiet (s : State) : Bool := s.core.quiet && !s.sfuOwes s.cid

/-- The core retires its `exit`, and its slot is released. -/
def State.finishExit (s : State) (cid : Nat) : State := (s.onCore cid fun c => c.retire 8).leave cid

/-- Read the blocks, and go on with them; a place that fails a check traps. -/
def readConts (i : Instr) (v : Word) (n : Nat) (s : State) (k : List Cont → Result) : Result :=
  let past := s.mapCore fun c => { c with hubWait := .none }
  match s.core.exitTrap v n with
  | some t => raise t past
  | none =>
    readPieces i v.toNat (32 * n) s fun bs =>
      match parseConts bs s.cid s.core.ids.ctx.toNat n with
      | .error j => raise ⟨causeIllegal, v + BitVec.ofNat 64 (32 * j)⟩ past
      | .ok ks => k ks

/-- The blocks as read after the wait go to the hub as one group. -/
def State.sendGroup (s : State) (v : Word) (ks : List Cont) : State :=
  (s.onHub fun h => { h with groups := h.groups ++ [⟨s.cid, s.core.ids.ctx.toNat, v, ks⟩] }).mapCore fun c =>
    { c with hubWait := .exitSent, run := .wait }

/-- What `exit` does from its wait on: the wait with its report, the blocks as read after it with their checks, and the
group to the hub. -/
def exitWaited (i : Instr) (v : Word) (n : Nat) (s : State) : Result :=
  let s := s.mapCore fun c => { c with hubWait := .exitWait }
  if !s.quiet then waiting s
  else
    let past := s.mapCore fun c => { c with hubWait := .none }
    if s.core.readSoFar != [] then readConts i v n s fun ks => .next (s.sendGroup v ks)
    else
      reportOr (s.core.covered (fun _ => true) true) past <|
        if n == 0 then .next (past.finishExit s.cid)
        else readConts i v n s fun ks => .next (s.sendGroup v ks)

/-- `exit` (R210): the blocks are read and checked, behind every earlier local access (R16), before the wait and again
after it. -/
def execExit (a : SReg) (n : Fin 5) (s : State) : Result :=
  let i : Instr := .exit a n
  let c := s.core
  let v := c.exitAddr a
  if c.isDebug then raise (illegalOf i) s
  else
    match c.hubWait with
    | .exitSent => waiting s
    | .exitRefused cause tval => raise ⟨cause, tval⟩ (s.mapCore fun c => { c with hubWait := .none })
    | .exitWait => exitWaited i v n.val s
    | _ =>
      if n.val == 0 then exitWaited i v 0 s
      else if c.accessPending then stalled s
      else readConts i v n.val s fun _ => .next (s.mapCore fun c => { c.keepRead i [] with hubWait := .exitWait })

/-- The first block whose queue is not of the group's context. -/
def Hub.refusedContext (h : Hub) (g : ExitGroup) : Option Nat :=
  g.conts.findIdx? fun k => (h.queue k.queue).owner != some g.ctx

/-- `CONTINUATION_ARRIVAL`: the hub takes a group whole or refuses it whole, and answers its core (R210, R214). -/
def execContinuationArrival (s : State) : Result :=
  match s.inp with
  | .idx k =>
    match s.hub.groups[k]? with
    | none => .next s
    | some g =>
      let s := s.onHub fun h => { h with groups := h.groups.eraseIdx k }
      let refuse (cause : Nat) (tval : Word) : Result :=
        .next (s.onCore g.cid fun c => { c with hubWait := .exitRefused cause tval, run := .run })
      match s.hub.refusedContext g with
      | some i => refuse causePriv (g.addr + BitVec.ofNat 64 (32 * i))
      | none =>
        match s.hub.placeAll g.conts with
        | .error q => refuse causeLaunchFull (BitVec.ofNat 64 q)
        | .ok (h, ov) => .next ((s.setPlaced h ov).finishExit g.cid)
  | _ => .next s

/-! ## Submissions and overflow (R214, R403) -/

/-- `P − C` of a page. -/
def LaunchQueue.waiting (q : LaunchQueue) : Nat := (q.prod + 4032 - q.cons) % 4032

/-- `PRODUCER_INDEX_WRITE`: the host writes slots and then `P`. -/
def execProducerIndexWrite (s : State) : Result :=
  match s.inp with
  | .submit q prod slots =>
    if !s.host.ready || 64 ≤ q then .next s
    else
      let fill (x : LaunchQueue) : LaunchQueue :=
        { x with slots := slots.foldl (fun v w => if h : w.1 < 63 then v.set w.1 w.2 h else v) x.slots }
      let s := s.onHub fun h => h.onQueue q fill
      let x := s.hub.queue q
      if 4032 ≤ prod || 63 < (prod + 4032 - x.cons) % 4032 then
        .next { s with host := { s.host with suberr := true } }
      else .next (s.onHub fun h => h.onQueue q fun x => { x with prod := prod })
  | _ => .next s

/-- A source of the rotation has something to serve: an overflow region below 64, else a page. -/
def Hub.sourceReady (h : Hub) (k : Nat) : Bool :=
  if k < 64 then h.hasRoom && (h.queue k).ovCount != 0
  else
    let q := h.queue (k - 64)
    q.opened && q.waiting != 0 && h.hasRoom

/-- The source that the rotation serves next. The rotation goes through the overflow regions and then the pages, each by
the number of its queue, from region 0 on (DESIGN CHOICE, log entry 73). -/
def Hub.nextSource (h : Hub) : Option Nat :=
  ((List.range 128).map fun i => (h.turn + i) % 128).find? h.sourceReady

/-- Consume the next record of a page: it is checked, and `C` rises. A record for a frozen queue is completed as
cancelled without the check of R207 (DEDUCED, log entry 64). -/
def Hub.submitNext (h : Hub) (q now : Nat) : Hub :=
  let x := h.queue q
  let w := (x.slots.toList.getD (x.cons % 63) 0).toNat
  let h := h.onQueue q fun x => { x with cons := (x.cons + 1) % 4032 }
  if x.frozen then h.cancel q 1
  else
    let e : LaunchEntry := ⟨h.nextId, x.owner.getD 0, q, 0, 0, 1, 0, 0, 0, true, .joined⟩
    ({ h with entries := h.entries ++ [e], nextId := h.nextId + 1 }).checkRecord e w now

/-- The oldest overflow record of a queue is read back from global memory, behind the hub's own writes of it, and its
arrival is handled (R213, R214). A fault waits for firmware, and `refuse` says that its policy gives no mapping. A record
that cannot be read, or holds no arrival of the queue, freezes the queue as an unreadable template does, with the record's
VA as `TVAL` (DESIGN CHOICE, log entry 25). -/
def State.serveOverflow (s : State) (q : Nat) (refuse : Bool) : State :=
  let x := s.hub.queue q
  let ctx := x.owner.getD 0
  let va := x.recordVa (x.ovNext - x.ovCount)
  let failed (g : Gmem) : State :=
    ({ s with gmem := g }).onHub fun h => h.freeze q ⟨0, causeCopyFail, 0, BitVec.ofNat 64 va, 0⟩
  if s.gmem.unwritten ctx va 64 then s
  else
    match s.readGlobal ctx va 64 with
    | .held => s
    | .fault g _ _ => if refuse then failed g else { s with gmem := g }
    | .fail g _ _ => failed g
    | .done g bs =>
      match (Cont.parse bs).filter fun k => k.queue == q && k.ctx == ctx with
      | none => failed g
      | some k =>
        ({ s with gmem := g }).onHub fun h => (h.onQueue q fun x => { x with ovCount := x.ovCount - 1 }).arrive k

/-- Serve one source, and turn to the next. -/
def State.serveSource (s : State) (k : Nat) (refuse : Bool) : State :=
  let s := s.onHub fun h => { h with turn := (k + 1) % 128 }
  if k < 64 then s.serveOverflow k refuse else s.onHub fun h => h.submitNext (k - 64) s.hubNow

/-- `OVERFLOW_DRAIN`: the rotation serves one source. -/
def execOverflowDrain (s : State) : Result :=
  let refuse : Bool := match s.inp with
    | .flag _ refuse => refuse
    | _ => false
  match s.hub.nextSource with
  | some k => .next (s.serveSource k refuse)
  | none => .next s

/-- `SUBMISSION_CONSUME`: the rotation serves a page. -/
def execSubmissionConsume (s : State) : Result :=
  match s.hub.nextSource with
  | some k => if 64 ≤ k then .next (s.serveSource k false) else .next s
  | none => .next s

/-! ## Firmware and the host (R215, R219, R221) -/

/-- `QUEUE_THAW` (R221). The count of later faults, which belongs to the fault record, is cleared with it (DEDUCED, log
entry 64). -/
def execQueueThaw (s : State) : Result :=
  match s.inp with
  | .idx q => .next (s.onHub fun h => h.onQueue q fun x =>
      { x with frozen := false, cancelled := 0, fault := none, faultsLater := 0 })
  | _ => .next s

/-- A 64-byte-aligned address register (R13, R24). -/
def align64 (x : Word) : Word := x &&& ~~~0x3F#64

/-- `QUEUE_DESCRIPTOR_WRITE`. -/
def execQueueDescriptorWrite (s : State) : Result :=
  match s.inp with
  | .queue q d => .next (s.onHub fun h => h.onQueue q fun x =>
      { x with
        owner := some d.owner, opened := d.opened, ovbase := d.ovbase, ovcap := d.ovcap, bindwd := d.bindwd
        qwait := d.qwait, tvec := d.tvec &&& ~~~0x1F#64, ubase := align64 d.ubase, ulimit := align64 d.ulimit
        ienable := d.ienable })
  | _ => .next s

/-- The numbers under which the model lists interrupts at the management harts. -/
def irqBind : Nat := 1
def irqQwait : Nat := 2
def irqKeys : Nat := 3
def irqLink : Nat := 4
def irqRestore : Nat := 5
def irqLineage : Nat := 6
def irqThermal : Nat := 7

def State.firmwareIrq (s : State) (n : Nat) : State := { s with host := { s.host with fwIrq := s.host.fwIrq ++ [n] } }

/-- The oldest ready entry of a priority in a queue, with its record and the cycle from which it waits. -/
def Hub.head (h : Hub) (q prio : Nat) : Option (LaunchEntry × ClauseRec × Nat) :=
  h.entries.foldl (fun b e =>
    match e.state with
    | .ready r since =>
      if e.queue == q && r.prio == prio then
        match b with
        | some (x, _, _) => if e.id < x.id then some (e, r, since) else b
        | none => some (e, r, since)
      else b
    | _ => b) none

/-- The entry waits at the head of its priority from now on. -/
def Hub.headFrom (h : Hub) (q prio now : Nat) : Hub :=
  match h.head q prio with
  | some (e, r, _) => h.onEntry e.id fun e => { e with state := .ready r now }
  | none => h

/-- `QWAIT_EXPIRY` for a queue and a priority. -/
def execQwaitExpiry (s : State) : Result :=
  match s.inp with
  | .two q prio =>
    let w := (s.hub.queue q).qwait
    match s.hub.head q prio with
    | some (_, _, since) =>
      if w != 0 && decide (since + w < s.hubNow) then
        .next ((s.onHub fun h => h.headFrom q prio s.hubNow).firmwareIrq irqQwait)
      else .next s
    | none => .next s
  | _ => .next s

end Sys2Proof.Machine
end

