-- ==== Sys2Proof/Machine/Launch.lean ====
section
/-! DEFINITION. Binding clauses to cores and starting them (R204, R205, R216 to R218), starts by the host (R427),
the bind watchdog (R220) and clauses that end in a fault (R221, R380). -/

namespace Sys2Proof.Machine

/-! ## Placement (R204) -/

/-- The width, the height and the legal origins of kinds 0 to 6. -/
def kindShape (kind : Nat) : Nat × Nat × List Nat × List Nat :=
  match kind with
  | 0 => (1, 1, [0, 1, 2, 3], [0, 1, 2, 3])
  | 1 => (2, 1, [0, 2], [0, 1, 2, 3])
  | 2 => (2, 2, [0, 2], [0, 2])
  | 3 => (4, 2, [0], [0, 2])
  | 4 => (4, 4, [0], [0])
  | 5 => (4, 1, [0], [0, 1, 2, 3])
  | _ => (1, 4, [0, 1, 2, 3], [0])

/-- The members of a gang at a placement; none where it breaks R204. -/
def placement (pkg : Nat) (r : ClauseRec) (cluster org : Nat) : Option (List GangMember) :=
  if 96 ≤ cluster then none
  else if r.kind == 7 then
    if 96 < cluster + r.ncl then none
    else some ((List.range (16 * r.ncl)).map fun i =>
      ⟨cidOf pkg (cluster + i / 16) (i % 16), i, i / 16, i % 4, i % 16 / 4, false, .from_ 0⟩)
  else
    let (w, h, oxs, oys) := kindShape r.kind
    if !oxs.contains (org % 4) || !oys.contains (org / 4) then none
    else some ((List.range (w * h)).map fun i =>
      ⟨cidOf pkg cluster (4 * (org / 4 + i / w) + (org % 4 + i % w)), i, 0, i % w, i / w, false, .from_ 0⟩)

/-- The core is reserved for an earlier bind, by a member that pre-emption has not saved (R216). -/
def State.reserved (s : State) (cid : Nat) : Bool :=
  s.hub.binds.any fun b => b.has cid &&
    !(s.saved.any fun m => m.cid == cid && m.core.inClause b.clause)

/-- `BIND_RECORD` (R216): dispatch accepts the oldest ready entry of a priority, or rejects the bind. -/
def execBindRecord (s : State) : Result :=
  match s.inp with
  | .bind q prio cluster org =>
    let reject : Result := .next (s.firmwareIrq irqBind)
    match s.hub.head q prio with
    | none => reject
    | some (e, r, _) =>
      match placement s.pkg r cluster org with
      | none => reject
      | some ms =>
        if (s.hub.queue q).frozen || ms.any fun m => s.reserved m.cid then reject
        else
          let b : Bind := ⟨e, r, (s.hub.queue q).lseq, cluster, if r.kind == 7 then 0 else org, ms, false, false⟩
          .next (s.onHub fun h =>
            let h := (h.dropEntry e.id).onQueue q fun x => { x with lseq := x.lseq + 1 }
            ({ h with binds := h.binds ++ [b] }).headFrom q prio s.hubNow)
  | _ => .next s

/-! ## Loads (R217) -/

/-- The watched link is on the way of a load's chunk (R418). -/
def State.loadWatched (s : State) (ctx cid va : Nat) : Bool :=
  s.injWatches (s.readPath ctx va ++ [s.dieOf cid])

/-- The image is resident: `RES` is set, and the last complete load was of the same image. -/
def ClauseRec.resident (r : ClauseRec) (c : Core) : Bool :=
  r.res && c.lastLoad == some ⟨r.tmpl, r.codelen, r.loadoff⟩

/-- The piece of a member's loads that begins at a position: the VA, the local address and the length, which ends at the
end of the chunk; none where all has been loaded. -/
def ClauseRec.loadPiece (r : ClauseRec) (pos : Nat) : Option (Nat × Nat × Nat) :=
  let cut (va la n : Nat) : Option (Nat × Nat × Nat) := some (va, la, min n (chunkSize - va % chunkSize))
  if pos < r.codelen then cut (r.tmpl + pos) (r.loadoff + pos) (r.codelen - pos)
  else
    let k := pos - r.codelen
    if r.args != 0 && k < 256 then cut (r.args + k) (r.argdst + k) (256 - k) else none

/-- The image has been loaded whole. -/
def Core.noteLoad (c : Core) (r : ClauseRec) (pos : Nat) : Core :=
  if pos == r.codelen then { c with lastLoad := some ⟨r.tmpl, r.codelen, r.loadoff⟩ } else c

/-- Load a member's bytes from a position on, chunk by chunk; `refuse` says that firmware's policy gives no mapping. -/
def State.loadFrom (r : ClauseRec) (cid : Nat) (refuse : Bool) : Nat → State → Nat → State × LoadPos
  | 0, s, _ => (s, .done)
  | fuel + 1, s, pos =>
    match r.loadPiece pos with
    | none => (s, .done)
    | some (va, la, n) =>
      match s.gmem.fetchChunk r.ctx va s.hitR with
      | .fault _ => (s, if refuse then .failed va else .stopped pos va)
      | .fail _ => (s, .failed va)
      | .held => (s, .from_ pos)
      | .bad g _ => ({ s with gmem := g }, .failed va)
      | .done g bs =>
        match s.charge (s.readPorts r.ctx va (s.dieOf cid)) r.ctx (s.gmem.costAt r.ctx va) with
        | none => (s, .from_ pos)
        | some s =>
          let piece := (bs.drop (va % chunkSize)).take n
          match s.crossBeats (s.loadWatched r.ctx cid va) (beatsOf va n) with
          | some s' =>
            let s' := ({ s' with gmem := g }).land false cid la piece
            State.loadFrom r cid refuse fuel (s'.onCore cid fun c => c.noteLoad r (pos + n)) (pos + n)
          | none =>
            let part := piece.take (beatBytes va s.beatsLeft)
            ((({ s with gmem := g }).land false cid la part).injFired, .failed va)

/-- Go on with one member's loads. A resident image is not loaded again. -/
def State.loadMember (s : State) (r : ClauseRec) (m : GangMember) (refuse : Bool) : State × LoadPos :=
  let go (pos : Nat) : State × LoadPos := s.loadFrom r m.cid refuse (r.codelen / chunkSize + 4) pos
  match m.load with
  | .from_ 0 => if r.resident (s.coreAt m.cid) then go r.codelen else go 0
  | .from_ pos => go pos
  | .stopped pos _ => go pos
  | p => (s, p)

/-- Go on with every member's loads. -/
def State.loadAll (s : State) (b : Bind) (refuse : Bool) : State × List GangMember :=
  b.members.foldl (fun (acc : State × List GangMember) m =>
    let (s, p) := acc.1.loadMember b.record m refuse
    (s, acc.2 ++ [{ m with load := p }])) (s, [])

/-! ## Starts (R203, R205, R218, R236) -/

/-- `GANGPOS` and `GANGSHAPE` of a member. -/
def GangMember.pos (m : GangMember) : Word := BitVec.ofNat 64 (m.crank * 16 + m.gy * 4 + m.gx)

def Bind.shape (b : Bind) : Word :=
  let ncl := if b.record.kind == 7 then b.record.ncl else 1
  BitVec.ofNat 64 (b.org * 2 ^ 24 + b.cl0 * 2 ^ 16 + ncl * 2 ^ 8 + b.record.kind)

/-- The stage of a member (R205). -/
def Bind.stage (b : Bind) (m : GangMember) : BitVec 3 :=
  let i := if b.record.kind == 7 then m.crank % 16 else m.idx
  BitVec.ofNat 3 (fieldOf b.record.stages (3 * i) 3)

/-- The general registers that a start writes. -/
def Core.startArgs (c : Core) (b : Bind) : Core :=
  let e := b.entry
  let c := c.wrS 3 (BitVec.ofNat 64 (if b.record.args == 0 then 0 else b.record.argdst))
  let c := (c.wrS 4 e.arg0).wrS 5 e.arg1
  (c.wrS 6 (BitVec.ofNat 64 e.jkey)).wrS 11 (BitVec.ofNat 64 e.lowcid)

/-- What a clause start clears beside R218's table (R282, R292, R356). Fetching begins anew: bytes written before the
start, the image among them, are the bytes fetched. -/
def Core.startClears (c : Core) : Core :=
  { c with
    latch := false
    stale := []
    vec := { c.vec with slots := Vector.replicate 4 SlotState.reset }
    afault := 0
    trans := { c.trans with fails := [] }
    afpc := 0
    afaddr := 0
    wl := { c.wl with running := none, inv := 0, term := false, stall := false }
    snd := { c.snd with first := 0, nackn := 0, homeref := false, deg := false, nacktrap := false }
    copy := { c.copy with mbox := 0, credits := Vector.replicate 16 0, mcasts := [] } }

/-- A clause start at one member (R218). -/
def Core.startClause (c : Core) (b : Bind) (m : GangMember) (q : LaunchQueue) (now : Nat) : Core :=
  let c := (c.toIdle.startClears).startArgs b
  { c with
    pc := BitVec.ofNat 64 b.record.entry
    run := .run
    status := { c.status with pl := if b.record.kstart then .kernel else .user, ie := false }
    ids := ⟨b.stage m, BitVec.ofNat 64 b.clause, m.pos, b.shape, BitVec.ofNat 12 b.record.ctx⟩
    fp := ⟨0, 0⟩
    trap := { c.trap with
      tvec := q.tvec, ubase := q.ubase, ulimit := q.ulimit, ienable := q.ienable
      kscratch := 0, epc := 0, cause := 0, tval := 0, ipend := 0, wdSrc := 0 }
    bound := .clause b.record.loadoff b.record.codelen
    wdAcc := 0
    wdFrom := now
    wdFired := false }

/-- The NI refuses the queued and spilled messages of other contexts (R236). -/
def State.refuseOthers (s : State) (cid ctx : Nat) : State :=
  let b := (s.coreAt cid).inbox
  let keep (m : Msg) : Bool := m.ctx == ctx
  let gone := (b.arrival ++ b.spill).filter fun m => !keep m
  let s := s.onCore cid fun c =>
    { c with inbox := { c.inbox with arrival := b.arrival.filter keep, spill := b.spill.filter keep } }
  gone.foldl (fun s m => s.answer ⟨m.sender, m.ctx, 0, .late causeMsgReject m.pc m.afaddr⟩) s

/-- A start at a core: its NI ends the write that it has begun, and refuses the queued messages of other contexts. -/
def State.startAt (s : State) (cid ctx : Nat) : State :=
  ((s.startClauseBars cid).applyRest cid).refuseOthers cid ctx

def State.startMember (s : State) (b : Bind) (m : GangMember) : State :=
  let s := s.startAt m.cid b.record.ctx
  s.onCore m.cid fun c => c.startClause b m (s.hub.queue b.entry.queue) s.now

/-- Start every member of a bind. -/
def State.startGang (s : State) (b : Bind) : State :=
  let s := b.members.foldl (fun s m => s.startMember b m) s
  let mark (x : Bind) : Bind := if x.clause == b.clause && !x.started then { x with started := true } else x
  s.onHub fun h => { h with binds := h.binds.map mark }

/-- The package runs cores: it is ready, and no die has reached its trip point (R406, R416). -/
def State.operating (s : State) : Bool := s.host.ready && !s.host.tripped

/-- A load failed: no member starts, and the queue freezes with the address of the chunk (R221, R311). -/
def State.failLoad (s : State) (b : Bind) (cid va : Nat) : State :=
  s.onHub fun h =>
    let h := { h with binds := h.binds.filter fun x => x.started || x.clause != b.clause }
    h.freeze b.entry.queue
      ⟨cid, causeCopyFail, 0, BitVec.ofNat 64 (va / chunkSize * chunkSize), BitVec.ofNat 64 b.clause⟩

/-- A member's loads wait: for firmware, or for an eviction. -/
def LoadPos.waits : LoadPos → Bool
  | .from_ _ | .stopped _ _ => true
  | _ => false

/-- Where a member's loads have failed. -/
def LoadPos.failure : LoadPos → Option Nat
  | .failed va => some va
  | _ => none

def loadDone (k : Nat) (refuse : Bool) (s : State) : Result :=
  match s.hub.binds[k]? with
  | none => .next s
  | some b =>
    if !s.operating || b.started || b.members.any fun m => (s.coreAt m.cid).run != .idle then .next s
    else
      let (s, ms) := s.loadAll b refuse
      if ms.any fun m => m.load.waits then .next (s.onHub fun h => { h with binds := h.binds.set k { b with members := ms } })
      else
        match ms.findSome? fun m => m.load.failure.map fun va => (m.cid, va) with
        | some (cid, va) => .next (s.failLoad b cid va)
        | none => .next (s.startGang b)

/-- `CLAUSE_LOAD_DONE` of the bind that the operand numbers: every reserved core is IDLE, the loads land, and the gang
starts. -/
def execClauseLoadDone (s : State) : Result :=
  match s.inp with
  | .idx k => loadDone k false s
  | .flag k refuse => loadDone k refuse s
  | _ => .next s

/-- Set the scale codes of a sidecar's slot. -/
def Core.wrScale (c : Core) (r : VReg) (k : Slot) (x : BitVec 20) : Core :=
  c.wrV r { c.rdV r with scales := (c.rdV r).scales.set k x }

/-- A register that the host writes: a halted core's (R31), or one that a start record names (R30). None where the write
is refused, or where no register is named. -/
def State.hostRegister (s : State) (w : HaltedWrite) : Option State :=
  match w with
  | .pc _ | .store _ _ => none
  | .s r x => some (s.mapCore fun c => c.wrS r x)
  | .f r x => some (s.mapCore fun c => c.wrF r x)
  | .v r x => some (s.mapCore fun c => c.wrVBits r x)
  | .scale r k x => some (s.mapCore fun c => c.wrScale r k x)
  | .q r x => some (s.mapCore fun c => c.wrQ r x)
  | .t r x => some (s.mapCore fun c => c.wrT r x)
  | .z r x => some (s.mapCore fun c => c.wrZ r x)
  | .sys r x =>
    match s.hostSys r x with
    | .ok s' => some s'
    | _ => none

/-- `HOST_START` (R30, R427) of the core in focus: a context below 4,096, `pc`, the level and the named registers. The
older versions of blocks stay, since no `isync` has followed their writes (R15). -/
def execHostStart (s : State) : Result :=
  match s.inp with
  | .hostStart ctx pc kernel regs =>
    if 4096 ≤ ctx || !s.operating || s.core.run != .idle then .next s
    else
      let s := s.startAt s.cid ctx
      let s := regs.foldl (fun s w => (s.hostRegister w).getD s) (s.mapCore Core.toIdle)
      .next (s.mapCore fun c =>
        { c with
          pc := pc
          run := .run
          status := { c.status with pl := if kernel then .kernel else .user }
          ids := { c.ids with ctx := BitVec.ofNat 12 ctx }
          bound := .host })
  | _ => .next s

/-! ## Clauses that end in a fault (R221, R380) -/

/-- Discard what the sequencer holds; the results of its requests at the SFU are dropped on return (R172). -/
def State.flush (s : State) (cid : Nat) : State := s.onCore cid Core.discardAll

/-- The unrecoverable fault of a core: a member's queue freezes and the other members stop; a core that the host
started keeps the values for the host. -/
def State.fatal (s : State) (cid cause : Nat) (epc tval : Word) : State :=
  let s := s.flush cid
  match s.bindOf cid with
  | some b =>
    let s := s.onHub fun h =>
      let mark (x : Bind) : Bind := if x.started && x.clause == b.clause then { x with faulted := true } else x
      let h := { h with binds := h.binds.map mark }
      h.freeze b.entry.queue ⟨cid, cause, epc, tval, BitVec.ofNat 64 b.clause⟩
    s.leave cid
  | none =>
    (s.onCore cid fun c =>
      { c with trap := { c.trap with cause := BitVec.ofNat 64 cause, epc := epc, tval := tval } }).leave cid

/-- The value of a register error's fault record (R380). -/
def registerTval : Word := 0xFFFFFFFFFFFFFFFF

/-- A register, or the sequencer's state, is read in error: the clause ends (R380, R389). -/
def State.registerError (s : State) (pc : Word) : State := s.fatal s.cid causeEccLocal pc registerTval

/-- The core must stop at its next boundary: another member of its clause has ended in a fault (R221). -/
def State.mustStop (s : State) : Bool := (s.bindOf s.cid).any (·.faulted)

/-- The stop of R221. A member whose `exit` has been sent, or whose `gend` waits for the release, is at no boundary
(R210, R369). -/
def State.stopMember (s : State) : State := (s.flush s.cid).leave s.cid

/-! ## The bind watchdog (R220) -/

/-- The watchdog of the core in focus; zero disables it. -/
def State.bindLimit (s : State) : Nat :=
  match s.bindOf s.cid with
  | some b => (s.hub.queue b.entry.queue).bindwd
  | none => 0

/-- `BIND_WATCHDOG_FIRST` at the core in focus. -/
def execBindWatchdogFirst (s : State) : Result :=
  let n := s.bindLimit
  if n == 0 || s.core.wdFired || s.core.wdCount s.now < n then .next s
  else .next (s.mapCore fun c => { c.pendWatchdog 0 with wdFired := true })

/-- The cause of a watchdog's second firing. -/
def causeWatchdog : Nat := 0x85

/-- `BIND_WATCHDOG_SECOND` at the core in focus. A group that an `exit` has sent is answered first (R210; log entry 40). The
fault record's `EPC` is the core's `pc` (DESIGN CHOICE, log entry 82). -/
def execBindWatchdogSecond (s : State) : Result :=
  let n := s.bindLimit
  if n == 0 || !s.core.wdFired || s.core.wdCount s.now < 2 * n || s.core.hubWait == .exitSent then .next s
  else .next (s.fatal s.cid causeWatchdog s.core.pc 1)

end Sys2Proof.Machine
end

