-- ==== Sys2Proof/Machine/Sound.lean ====
section
/-! DEFINITION. Sound groups (R283 to R297): sound stores, their stamps, applies, answers and completions, reading
progress, and membership changes. -/

namespace Sys2Proof.Machine

/-! ## Handles and sending (R283, R286, R287) -/

def handlePkg (h : Word) : Nat := fieldOf h.toNat 12 12
def handleIdx (h : Word) : Nat := fieldOf h.toNat 0 10

/-- The zero bits of a handle are zero. -/
def handleZeros (h : Word) : Bool := h.toNat / 2 ^ 24 == 0 && fieldOf h.toNat 10 2 == 0

/-- The checks of R287 before the data is read, for `n` bytes with alignment `m`. -/
def soundTrap (h o : Word) (n m : Nat) : Option Trap :=
  if !handleZeros h then some ⟨causeStBounds, h⟩
  else if lsSize < o.toNat + n then some ⟨causeStBounds, o⟩
  else if o.toNat % m != 0 then some ⟨causeMisalign, o⟩
  else none

/-- The answer to a sound store that its home never takes: no path leads there, or it refuses. -/
def SoundReq.refusal (r : SoundReq) : SoundSum := ⟨r.handle, 0, r.issuer, r.ctx, r.tag, 0, [], 0, none, true⟩

/-- Send a store to its home on the ordered route. -/
def State.sendSound (s : State) (r : SoundReq) : State :=
  if handlePkg r.handle == s.pkg then { s with sound := { s.sound with toHome := s.sound.toHome ++ [r] } }
  else
    match s.transmit (handlePkg r.handle) true (.soundReq r) with
    | some s' => s'
    | none => { s with sound := { s.sound with sums := s.sound.sums ++ [r.refusal] } }

/-- Count a sound store and send it. -/
def State.issueSound (s : State) (h o : Word) (bs : List Byte) : State :=
  let c := s.core
  let far := s.groupFar h
  let op : OutOp := ⟨s.tags, .sound, .group h far, soundReach far, c.pc, h⟩
  let r : SoundReq := ⟨h, o.toNat, bs, s.cid, c.ids.ctx.toNat, s.tags⟩
  ({ s with core := c.issueOut op, tags := s.tags + 1 }).sendSound r

/-- A sound store of bytes that `data` reads and goes on with. -/
def soundStore (i : Instr) (a b : SReg) (n m : Nat) (s : State) (data : (List Byte → Result) → Result) : Result :=
  let h := s.core.rdS a
  let o := s.core.rdS b
  match soundTrap h o n m with
  | some t => raise t s
  | none => data fun bs => if s.core.stFull then waiting s else doneIn i (s.issueSound h o bs)

def execSst (o : SstOp) (s : State) : Result :=
  let n := o.size.bytes
  afterWait o.wt s <|
    soundStore (.sst o) o.a o.b n n s fun k => k (toBytesLE n (s.core.rdS o.d).toNat)

def execSstv (o : SstvOp) (s : State) : Result :=
  afterWait o.wt s <| drained s <|
    soundStore (.sstv o) o.a o.b 64 64 s fun k => k (toBytesLE 64 (s.core.rdV o.d).bits.toNat)

/-- The checks of the source bytes of `sstl`. -/
def Core.sourceTrap (c : Core) (a : Word) (len : Nat) : Option Trap :=
  if !c.okAccess a.toNat len then some ⟨causeLdBounds, a⟩
  else (c.badIn a.toNat len).map fun g => ⟨causeEccLocal, BitVec.ofNat 64 g⟩

/-- `sstl` reads its source piece by piece, each of them an event of its own (R247). -/
def execSstl (o : SstlOp) (s : State) : Result :=
  afterWait o.wt s <| drained s <|
    soundStore (.sstl o) o.a o.b o.len 8 s fun k =>
      match s.core.sourceTrap (s.core.rdS o.d) o.len with
      | some t => raise t s
      | none => readPieces (.sstl o) (s.core.rdS o.d).toNat o.len s k

/-! ## Reading progress (R294, R396, R397) -/

def Core.membership (c : Core) (h : Word) : Option Membership := c.snd.members.find? fun m => m.handle == h

/-- The number under which a transcript records `sndseq`. -/
def sndseqNumber : Nat := 0x0B1

def execSndseq (d : SReg) (a : SReg) (s : State) : Result :=
  let i : Instr := .sndseq d a
  let h := s.core.rdS a
  match s.core.membership h with
  | none => raise ⟨causeSndNack, h⟩ s
  | some m =>
    match s.core.transcribe sndseqNumber (fun x => decide (m.applied < x.toNat)) (BitVec.ofNat 64 m.applied) with
    | .wait => waiting s
    | .value x c => done i { s with core := c } fun c => c.wrS d x

def execSndwait (a : SReg) (b : SReg) (s : State) : Result :=
  let i : Instr := .sndwait a b
  let h := s.core.rdS a
  match s.core.membership h with
  | none => raise ⟨causeSndNack, h⟩ s
  | some m =>
    if (s.core.rdS b).toNat % 2 ^ 48 ≤ m.applied then doneIn i s
    else if s.core.isDebug then raise (illegalOf i) s
    else waiting s

/-! ## The group table (R284) -/

def State.group (s : State) (gidx : Nat) : Option Group := (s.sound.groups.find? fun g => g.1 == gidx).map (·.2)

def State.onGroup (s : State) (gidx : Nat) (f : Group → Group) : State :=
  { s with sound := { s.sound with groups := s.sound.groups.map fun g => if g.1 == gidx then (g.1, f g.2) else g } }

def State.handleOf (s : State) (gidx : Nat) : Word := BitVec.ofNat 64 (s.pkg * 2 ^ 12 + gidx)

/-- A store's number without the store. -/
def Stamped.skipped (st : Stamped) : Stamped := { st with bytes := [], change := some .skip }

/-- Combine one member's answer with those of its store; a member answers once. -/
def SoundSum.answer (x : SoundSum) (r : SoundAns) : SoundSum :=
  if x.homeref || x.handle != r.handle || x.born != r.born || x.seq != r.seq || !x.waiting.contains r.cid then x
  else
    let x := { x with waiting := x.waiting.erase r.cid }
    if r.ok then x
    else
      let lower : Bool := match x.first with
        | some f => decide (r.idx < f.1)
        | none => true
      { x with nackn := x.nackn + 1, first := if lower then some (r.idx, r.cid) else x.first }

/-- The home takes a member's answer: to a store, of which the first negative one degrades the group (R290, R291), to its
removal or to the close (R285). -/
def Group.answer (g : Group) (r : SoundAns) : Group :=
  if g.born != r.born then g
  else
    let g := { g with
      unleft := g.unleft.erase (r.cid, r.seq)
      unclosed :=
        if g.state == .closed && (g.nextSeq - 1).toNat == r.seq then g.unclosed.erase r.cid else g.unclosed }
    if !r.ok && g.state == .active then { g with state := .degraded } else g

def State.homeAnswer (s : State) (r : SoundAns) : State :=
  ({ s with sound := { s.sound with sums := s.sound.sums.map fun (x : SoundSum) => x.answer r } }).onGroup
    (handleIdx r.handle) fun g => g.answer r

/-- The answer of the member at `cid` to a stamped store or change. -/
def Stamped.answer (st : Stamped) (cid : Nat) (ok : Bool) : SoundAns := ⟨st.handle, st.born, st.seq, st.idx, cid, ok⟩

/-- Tell the home of a member's answer. -/
def State.tellHome (s : State) (r : SoundAns) : State :=
  if handlePkg r.handle == s.pkg then s.homeAnswer r else s.transmitOrPark (handlePkg r.handle) true (.soundAnswer r)

/-- Send a stamped store or change to a member, in this package or another. Where no path leads to the member, a change
waits for one; a store is answered negatively, and its number follows as no-op. -/
def State.sendCopy (s : State) (dest : Nat) (st : Stamped) : State :=
  let c : SoundCopy := ⟨dest, st, false⟩
  if pkgOf dest == s.pkg then { s with sound := { s.sound with copies := s.sound.copies ++ [c] } }
  else if st.change.isSome then s.transmitOrPark (pkgOf dest) true (.soundCopy c)
  else
    match s.transmit (pkgOf dest) true (.soundCopy c) with
    | some s' => s'
    | none =>
      (s.homeAnswer (st.answer dest false)).transmitOrPark (pkgOf dest) true (.soundCopy { c with st := st.skipped })

/-! ## The stamp (R288) -/

/-- A store of this package takes the class of the members listed at its stamp (R290). -/
def Core.reclass (c : Core) (tag : Nat) (far : Bool) : Core :=
  match c.findOut tag with
  | none => c
  | some o =>
    let dest : Dest := match o.dest with
      | .group h _ => .group h far
      | d => d
    let o' : OutOp := { o with dest := dest, reach := soundReach far }
    { c with
      outst := c.outst.map fun x => if x.tag == tag then o' else x
      cnt := (c.cnt.subSt o.reach).addSt o'.reach }

/-- The issuer's store, where it is of this package: on the core, or on the member that is saved there. -/
def State.reclass (s : State) (issuer ctx tag : Nat) (far : Bool) : State :=
  if pkgOf issuer != s.pkg then s
  else
    match s.divertsTo issuer ctx with
    | some _ => s
    | none => s.onCore issuer fun c => c.reclass tag far

/-- The home refuses a store. -/
def State.homeRefuses (s : State) (r : SoundReq) : Bool :=
  match s.group (handleIdx r.handle) with
  | none => true
  | some g =>
    g.state == .free || g.state == .closed || r.ctx != g.ctx || decide (g.srange < r.off + r.bytes.length) ||
      g.nextSeq == 0

/-- Stamp a store and replicate it to every member listed now; a member that no path reaches answers negatively. -/
def State.stamp (s : State) (r : SoundReq) (gidx : Nat) (g : Group) : State :=
  let k := g.nextSeq.toNat
  let st (m : GroupMember) : Stamped := ⟨r.handle, k, r.off, r.bytes, r.issuer, r.tag, g.ctx, g.born, m.idx, none⟩
  let s := s.onGroup gidx fun g => { g with nextSeq := g.nextSeq + 1 }
  let sum : SoundSum := ⟨r.handle, k, r.issuer, r.ctx, r.tag, g.born, g.members.map (·.cid), 0, none, false⟩
  let s := { s with sound := { s.sound with sums := s.sound.sums ++ [sum] } }
  let s := s.reclass r.issuer r.ctx r.tag (g.reachesBeyond s.pkg)
  g.members.foldl (fun s m => s.sendCopy m.cid (st m)) s

/-- No earlier store of the same core to the same group waits before position `k`. -/
def inIssueOrder (rs : List SoundReq) (k : Nat) (r : SoundReq) : Bool :=
  (rs.take k).all fun x => !(x.issuer == r.issuer && x.handle == r.handle)

/-- `SOUND_STAMP` of the arriving store that the operand selects. -/
def execSoundStamp (s : State) : Result :=
  match s.inp with
  | .idx k =>
    match s.sound.toHome[k]? with
    | none => .next s
    | some r =>
      if !inIssueOrder s.sound.toHome k r then .next s
      else
        let gone := { s with sound := { s.sound with toHome := s.sound.toHome.eraseIdx k } }
        if s.homeRefuses r then
          .next { gone with sound := { gone.sound with sums := gone.sound.sums ++ [r.refusal] } }
        else
          match s.group (handleIdx r.handle) with
          | some g => .next (gone.stamp r (handleIdx r.handle) g)
          | none => .next gone
  | _ => .next s

/-! ## Members (R285, R289, R291, R296, R297) -/

/-- A saved member's spill queue has room beside the entries reserved for its pending replies (R390). -/
def SavedMember.room (m : SavedMember) : Bool :=
  let replies := (m.held.filter fun h => match h with | .reply _ => true | _ => false).length
  decide (m.core.inbox.spill.length + m.held.length + (m.core.pendingRegs.length - replies) < m.cap)

/-- Put an operation at the end of a saved member's spill queue. `TOTSPILL` counts the messages that the live core's full
arrival queue diverts, and not these (R235, R392; DESIGN CHOICE, log entry 78). -/
def State.hold (s : State) (cid ctx : Nat) (h : Held) : State :=
  { s with saved := s.saved.map fun (m : SavedMember) =>
      if m.cid == cid && m.core.ids.ctx.toNat == ctx then { m with held := m.held ++ [h] } else m }

def Core.onMember (c : Core) (h : Word) (f : Membership → Membership) : Core :=
  { c with snd := { c.snd with members := c.snd.members.map fun m => if m.handle == h then f m else m } }

/-- The stores and changes that wait at a core for its addition to the group that `st` belongs to, numbered above it. -/
def Core.earlyFor (c : Core) (st : Stamped) : List Stamped :=
  c.snd.early.filter fun x => x.handle == st.handle && x.born == st.born && decide (st.seq < x.seq)

/-- The core's NI holds a membership entry from now on, with `APPLIED` as `st` numbers it; an entry of an earlier group of
the handle makes room for it (R285). -/
def Core.addMember (c : Core) (st : Stamped) (base : Nat) (revoked : Bool) : Core :=
  let early := c.earlyFor st
  let m : Membership := ⟨st.handle, base, st.ctx, st.born, revoked, st.seq, early⟩
  { c with snd := { c.snd with
    members := (c.snd.members.filter fun x => x.handle != st.handle) ++ [m]
    early := c.snd.early.filter fun x => !early.contains x } }

/-- The core's NI holds no entry for the group any more; what it holds for a later addition stays. -/
def Core.dropMember (c : Core) (h : Word) : Core :=
  let held := (c.snd.members.filter fun m => m.handle == h).flatMap (·.held)
  { c with snd := { c.snd with members := c.snd.members.filter fun m => m.handle != h, early := c.snd.early ++ held } }

/-- The effect of a membership change at a core, numbered as `st` (R285). -/
def Core.applyChange (c : Core) (cid : Nat) (st : Stamped) (x : SoundChange) : Core :=
  match x with
  | .add who _ base _ revoked =>
    if who == cid && (c.membership st.handle).all fun m => decide (m.born < st.born) then c.addMember st base revoked else c
  | .remove who =>
    if who == cid && (c.membership st.handle).any fun m => m.born == st.born then c.dropMember st.handle else c
  | .skip => c
  | .revoke who on => if who == cid then c.onMember st.handle fun m => { m with revoked := on } else c
  | .close => c

/-- What a member does with a store that is next in its sequence: it is refused (R291), it is held in a saved member's
spill queue (R296), or the NI begins to write its bytes. -/
inductive StoreFate where
  | refused
  | held
  | begun (addr : Nat)
deriving DecidableEq, Repr

def State.storeFate (s : State) (cid : Nat) (m : Membership) (st : Stamped) : StoreFate :=
  let a := m.base + st.off
  match s.divertsTo cid st.ctx with
  | some sv => if m.revoked || !sv.room || s.writeRefusedBy sv.core cid a st.bytes.length then .refused else .held
  | none =>
    if m.revoked || !(s.coreAt cid).accepts st.ctx || s.writeRefused cid a st.bytes.length then .refused else .begun a

/-- `APPLIED` rises to the number of a store or change, and the home has the member's answer. -/
def State.raise_ (s : State) (cid : Nat) (st : Stamped) (ok : Bool) : State :=
  (s.onCore cid fun c => c.onMember st.handle fun m => { m with applied := st.seq }).tellHome (st.answer cid ok)

/-- The member takes the store or change that is next in its sequence. The bytes of a store are written piece by piece,
and `APPLIED` rises after the last one. The home hears of a removal, of the close and of a store. -/
def State.takeNext (s : State) (cid : Nat) (m : Membership) (st : Stamped) : State :=
  match st.change with
  | some x =>
    let s := s.onCore cid fun c => (c.onMember st.handle fun m => { m with applied := st.seq }).applyChange cid st x
    if x == .close || x == .remove cid then s.tellHome (st.answer cid true) else s
  | none =>
    match s.storeFate cid m st with
    | .refused => s.raise_ cid st false
    | .held => (s.hold cid st.ctx (.sound (m.base + st.off) st.bytes)).raise_ cid st true
    | .begun a => s.onCore cid fun c => { c with applying := some ⟨0, st.ctx, 0, a, st.bytes, none, some st⟩ }

/-- What a member answers to a number that has passed: a store that it does not apply is answered negatively. -/
def State.passed (s : State) (cid : Nat) (st : Stamped) : State :=
  if st.change.isNone then s.tellHome (st.answer cid false) else s

/-- A core ceases to be a member of a group that is gone: what it still holds of it has passed. -/
def State.forget (s : State) (cid : Nat) (st : Stamped) : State :=
  let c := s.coreAt cid
  let mine := ((c.snd.members.filter fun m => m.handle == st.handle).flatMap (·.held) ++ c.snd.early).filter fun x =>
    x.handle == st.handle && decide (x.born ≤ st.born)
  let s := s.onCore cid fun c =>
    { c with snd := { c.snd with
      members := c.snd.members.filter fun m => m.handle != st.handle || decide (st.born < m.born)
      early := c.snd.early.filter fun x => !mine.contains x } }
  mine.foldl (fun s x => s.passed cid x) s

/-- A core joins a group, or is told of another change, outside the sequence: what it holds of an earlier group of the
handle has passed. -/
def State.applyAt (s : State) (cid : Nat) (st : Stamped) : State :=
  let s := match st.change with
    | some (.add _ _ _ _ _) => s.forget cid { st with born := st.born - 1 }
    | _ => s
  s.onCore cid fun c => c.applyChange cid st (st.change.getD .skip)

/-- The addition of a core to a group, among the changes that arrived while it was no member. -/
def Core.earlyAdd (c : Core) (cid : Nat) (h : Word) : Option Stamped :=
  c.snd.early.find? fun st => st.handle == h && (match st.change with
    | some (.add who _ _ _ _) => who == cid
    | _ => false)

/-- Take the held stores and changes that have become next, up to a store whose bytes the NI is to write; `fuel` bounds
them. -/
def State.takeHeld (cid : Nat) (h : Word) : Nat → State → State
  | 0, s => s
  | fuel + 1, s =>
    let c := s.coreAt cid
    if c.applying.isSome then s
    else
      match c.membership h with
      | none =>
        match c.earlyAdd cid h with
        | none => s
        | some st =>
          let s := s.onCore cid fun c => { c with snd := { c.snd with early := c.snd.early.erase st } }
          State.takeHeld cid h fuel (s.applyAt cid st)
      | some m =>
        match m.held.find? fun st => st.seq == m.applied + 1 with
        | none => s
        | some st =>
          let s := s.onCore cid fun c => c.onMember h fun m => { m with held := m.held.filter fun x => x.seq != st.seq }
          State.takeHeld cid h fuel (s.takeNext cid m st)

/-- The reorder buffer of R289, shared by the core's memberships. -/
def reorderCap : Nat := 32

def Core.heldStores (c : Core) : Nat := (c.snd.members.map fun m => m.held.length).sum + c.snd.early.length

/-- Take up what a core's NI holds of a group. -/
def State.takeUp (s : State) (cid : Nat) (h : Word) : State :=
  State.takeHeld cid h ((s.coreAt cid).heldStores + 1) s

/-- The next pieces of the sound store that a core's NI applies; the store is answered after the last one (R289). -/
def State.applySound (s : State) (cid : Nat) (x : Applying) (st : Stamped) : State :=
  let k := s.pieceCut x.addr x.bytes.length
  let s := if x.bytes.isEmpty then s else s.onCore cid fun c => c.applyWrite x.addr (x.bytes.take k)
  if x.bytes.length ≤ k then
    ((s.onCore cid fun c => { c with applying := none }).raise_ cid st true).takeUp cid st.handle
  else s.onCore cid fun c => { c with applying := some { x with addr := x.addr + k, bytes := x.bytes.drop k } }

/-- The reorder buffer takes a store or change: of a membership, or of one that is to come. -/
def Core.holdStamped (c : Core) (st : Stamped) (member : Bool) : Core :=
  if member then c.onMember st.handle fun m => { m with held := m.held ++ [st] }
  else { c with snd := { c.snd with early := c.snd.early ++ [st] } }

/-- The change makes the core a member of a group that it does not belong to, or tells it, outside the sequence, that its
group is gone. -/
def Stamped.isFor (st : Stamped) (cid : Nat) (m : Option Membership) : Bool :=
  match st.change with
  | some (.add who _ _ _ _) => who == cid && m.all fun m => decide (m.born < st.born)
  | some (.remove who) => who == cid && st.seq == 0
  | _ => false

/-- A stamped store or change arrives at the core that `copy` names: its own addition takes effect, the next number is
applied, a later one is held, and none is left where the buffer is full. -/
def State.arriveCopy (s : State) (copy : SoundCopy) : Option State :=
  let st := copy.st
  let cid := copy.dest
  let c := s.coreAt cid
  let m := (c.membership st.handle).filter fun m => m.born == st.born
  if st.isFor cid (c.membership st.handle) then
    if st.seq == 0 && st.change == some (.remove cid) then some (s.forget cid st)
    else some ((s.applyAt cid st).takeUp cid st.handle)
  else
    match m with
    | some m =>
      if st.seq == m.applied + 1 then some ((s.takeNext cid m st).takeUp cid st.handle)
      else if st.seq ≤ m.applied then some (s.passed cid st)
      else if c.heldStores < reorderCap then some (s.onCore cid fun c => c.holdStamped st true)
      else none
    | none =>
      if (c.membership st.handle).any fun m => decide (st.born < m.born) then some (s.passed cid st)
      else if c.heldStores < reorderCap then some (s.onCore cid fun c => c.holdStamped st false)
      else none

def State.dropCopy (s : State) (k : Nat) : State :=
  { s with sound := { s.sound with copies := s.sound.copies.eraseIdx k } }

/-- The copy at position `k` may be taken: its NI applies nothing else, and the word that a group is gone comes behind
every earlier copy of the group for the same core. -/
def State.mayTake (s : State) (k : Nat) (c : SoundCopy) : Bool :=
  !c.refused && (s.coreAt c.dest).applying.isNone &&
    (c.st.seq != 0 || (s.sound.copies.take k).all fun x => !(x.dest == c.dest && x.st.handle == c.st.handle))

/-- `SOUND_MEMBER_APPLY` of the stamped store that the operand selects: applied, answered negatively, held, or
refused for room and left to `SOUND_RETRY`; or, with two operands, the next pieces of the store that a core's NI
applies. -/
def execSoundMemberApply (s : State) : Result :=
  match s.inp with
  | .idx k =>
    match s.sound.copies[k]? with
    | none => .next s
    | some c =>
      if !s.mayTake k c then .next s
      else
        match (s.dropCopy k).arriveCopy c with
        | some s' => .next s'
        | none => .next { s with sound := { s.sound with copies := s.sound.copies.set k { c with refused := true } } }
  | .two cid _ =>
    match (s.coreAt cid).applying with
    | some x =>
      match x.sound with
      | some st => .next (s.applySound cid x st)
      | none => .next s
    | none => .next s
  | _ => .next s

/-- `SOUND_RETRY`. -/
def execSoundRetry (s : State) : Result :=
  match s.inp with
  | .idx k =>
    match s.sound.copies[k]? with
    | none => .next s
    | some c => .next { s with sound := { s.sound with copies := s.sound.copies.set k { c with refused := false } } }
  | _ => .next s

/-! ## Completions (R290, R292, R293) -/

/-- `SNDSTAT` and the record of failures at a completion. -/
def Core.soundStatus (c : Core) (x : SoundSum) (o : OutOp) : Core :=
  let fail (c : Core) : Core :=
    c.recordFailure { Failure.plain .st causeSndNack o.pc o.afaddr with far := o.reach == .fabric }
  if x.homeref then fail { c with snd := { c.snd with homeref := true } }
  else if x.nackn == 0 then c
  else
    let c := if c.snd.deg then c
      else { c with snd := { c.snd with
        deg := true
        first := BitVec.ofNat 24 ((x.first.map (·.2)).getD 0)
        nackn := BitVec.ofNat 13 x.nackn } }
    if c.snd.nacktrap then fail c else c

/-- The completion at the issuer. -/
def State.completeSound (s : State) (x : SoundSum) : State :=
  s.onCore x.issuer fun c =>
    match c.findOut x.tag with
    | some o => (c.closeOut x.tag).soundStatus x o
    | none => c

/-- `SOUND_COMPLETION`: of the store whose answers are all in (one operand), or as the home of another package has
sent it (two operands). -/
def execSoundCompletion (s : State) : Result :=
  match s.inp with
  | .idx k =>
    match s.sound.sums[k]? with
    | none => .next s
    | some x =>
      if !x.waiting.isEmpty then .next s
      else
        let gone := { s with sound := { s.sound with sums := s.sound.sums.eraseIdx k } }
        if pkgOf x.issuer == s.pkg then .next (gone.completeSound x)
        else .next ((gone.transmit (pkgOf x.issuer) true (.soundDone x)).getD s)
  | .two k _ =>
    match s.inboxAt k with
    | some (.soundDone x, s') => .next (s'.completeSound x)
    | _ => .next s
  | _ => .next s

/-! ## Membership changes and the table (R284, R285) -/

/-- The groups of which a core is a member, or is to become one: those that this hub lists, and those of its NI. -/
def State.groupsOf (s : State) (cid : Nat) : List Word :=
  let listed := (s.sound.groups.filter fun g => g.2.members.any fun m => m.cid == cid).map fun g => s.handleOf g.1
  let coming := s.sound.copies.filterMap fun (x : SoundCopy) => if x.st.isFor cid none then some x.st.handle else none
  (listed ++ coming ++ (s.coreAt cid).snd.members.map (·.handle)).eraseDups

/-- The change is one that R284 allows for a group. Firmware adds a core again once the core has applied its removal
(DESIGN CHOICE, log entry 76). -/
def State.changeOk (s : State) (g : Group) (x : SoundChange) : Bool :=
  match x with
  | .add cid idx base len _ =>
    !(g.members.any fun m => m.cid == cid || m.idx == idx) && decide (idx ≤ g.members.length) && base % 64 == 0 &&
      decide (g.srange ≤ len) && decide (base + len ≤ lsSize) && decide (g.members.length < 4096) &&
      decide ((s.groupsOf cid).length < 16) && s.exists_ cid && !(g.unleft.any fun x => x.1 == cid)
  | .remove cid => (g.members.any fun m => m.cid == cid) && decide (1 < g.members.length)
  | .revoke cid _ => g.members.any fun m => m.cid == cid
  | .close => true
  | .skip => false

/-- The members without one of them; those of higher index move down, so that the indices stay 0 to `NMEM` − 1 (R284;
DESIGN CHOICE, log entry 76). -/
def withoutMember (ms : List GroupMember) (cid : Nat) : List GroupMember :=
  match ms.find? fun m => m.cid == cid with
  | none => ms
  | some gone => (ms.filter fun m => m.cid != cid).map fun m => if gone.idx < m.idx then { m with idx := m.idx - 1 } else m

/-- The group after a change. -/
def Group.change (g : Group) (x : SoundChange) : Group :=
  match x with
  | .add cid idx base len revoked => { g with members := g.members ++ [⟨idx, cid, base, len, revoked⟩] }
  | .remove cid => { g with members := withoutMember g.members cid, unleft := g.unleft ++ [(cid, g.nextSeq.toNat)] }
  | .revoke cid on =>
    let one (m : GroupMember) : GroupMember := if m.cid == cid then { m with revoked := on } else m
    { g with members := g.members.map one }
  | .close => { g with state := .closed, unclosed := g.members.map (·.cid) }
  | .skip => g

/-- Stamp a change and send it to every member, the added or removed one among them. -/
def State.stampChange (s : State) (gidx : Nat) (g : Group) (x : SoundChange) : State :=
  let st (idx : Nat) : Stamped := ⟨s.handleOf gidx, g.nextSeq.toNat, 0, [], 0, 0, g.ctx, g.born, idx, some x⟩
  let g' := g.change x
  let old : List (Nat × Nat) := g.members.map fun m => (m.cid, m.idx)
  let sends : List (Nat × Nat) := match x with
    | .add cid idx _ _ _ => old ++ [(cid, idx)]
    | _ => old
  let s := s.onGroup gidx fun g => { g' with nextSeq := g.nextSeq + 1 }
  sends.foldl (fun s m => s.sendCopy m.1 (st m.2)) s

/-- `MEMBERSHIP_CHANGE`; an exhausted group is closed without a number. -/
def execMembershipChange (s : State) : Result :=
  match s.inp with
  | .change gidx x =>
    match s.group gidx with
    | none => .next s
    | some g =>
      if g.state == .free || g.state == .closed || !s.changeOk g x then .next s
      else if g.nextSeq == 0 then
        if x == .close then .next (s.onGroup gidx fun g => { g with state := .closed }) else .next s
      else .next (s.stampChange gidx g x)
  | _ => .next s

/-- A group that R284 allows. -/
def State.groupOk (s : State) (g : Group) : Bool :=
  g.srange % 64 == 0 && decide (64 ≤ g.srange) && decide (g.srange ≤ lsSize) &&
    decide (1 ≤ g.members.length) && decide (g.members.length ≤ 4096) && decide (g.ctx < 4096) &&
    (g.members.map (·.cid)).eraseDups.length == g.members.length &&
    g.members.zipIdx.all fun (m, k) =>
      m.idx == k && m.base % 64 == 0 && decide (g.srange ≤ m.len) && decide (m.base + m.len ≤ lsSize) &&
        decide ((s.groupsOf m.cid).length < 16) && s.exists_ m.cid

/-- The same group but for its state, which firmware returns to active. -/
def Group.restores (old new : Group) : Bool :=
  old.state == .degraded && new.state == .active && old.ctx == new.ctx && old.srange == new.srange

/-- Tell a member, outside the sequence, that its group is created or gone; what overtook the creation is taken up. -/
def State.tellMember (s : State) (gidx : Nat) (g : Group) (m : GroupMember) (x : SoundChange) : State :=
  let st : Stamped := ⟨s.handleOf gidx, 0, 0, [], 0, 0, g.ctx, g.born, m.idx, some x⟩
  let told := s.sendCopy m.cid st
  match x with
  | .add _ _ _ _ _ =>
    if pkgOf m.cid == s.pkg then (s.applyAt m.cid st).takeUp m.cid st.handle else told
  | _ => told

/-- The group of an index is gone: its members lose their entries. -/
def State.freeGroup (s : State) (gidx : Nat) (g : Group) : State :=
  let s := { s with sound := { s.sound with groups := s.sound.groups.filter fun x => x.1 != gidx } }
  g.members.foldl (fun s m => s.tellMember gidx g m (.remove m.cid)) s

/-- `GROUP_TABLE_WRITE`: firmware creates a group, frees a closed one, or returns a degraded one to active. -/
def execGroupTableWrite (s : State) : Result :=
  match s.inp with
  | .group gidx (some g) =>
    match s.group gidx with
    | some old =>
      if old.restores g then .next (s.onGroup gidx fun x => { x with state := .active }) else .next s
    | none =>
      if 1024 ≤ gidx || !s.groupOk g then .next s
      else
        let g := { g with state := .active, nextSeq := 1, born := s.sound.created + 1, unclosed := [], unleft := [] }
        let s := { s with sound := { s.sound with
          groups := s.sound.groups ++ [(gidx, g)], created := s.sound.created + 1 } }
        .next (g.members.foldl (fun s m => s.tellMember gidx g m (.add m.cid m.idx m.base m.len m.revoked)) s)
  | .group gidx none =>
    match s.group gidx with
    | some g =>
      if g.state != .closed || !g.unclosed.isEmpty || !g.unleft.isEmpty ||
          s.sound.copies.any fun c => c.st.handle == s.handleOf gidx then .next s
      else .next (s.freeGroup gidx g)
    | none => .next s
  | _ => .next s

end Sys2Proof.Machine
end

