-- ==== Sys2Proof/Machine/Selection.lean ====
section
/-! DEFINITION. The selection-and-copy engine (R365 to R376): `gend`, arrivals, the close with its ranking, the copies
over the losers with their lineage, and the release. -/

namespace Sys2Proof.Machine

/-! ## `gend` (R367 to R369) -/

/-- The checks of R368. -/
def State.gendTrap (s : State) (i : Instr) : Option Trap :=
  let c := s.core
  let gl := ((s.population c.sce.pop.toNat).map (·.gl)).getD 0
  if c.isDebug || c.status.hnd then some (illegalOf i)
  else if !c.sce.member then some ⟨causePriv, 0⟩
  else if c.sce.glen.toNat != gl || lsSize < c.sce.gbase.toNat + c.sce.glen.toNat then
    some ⟨causeIllegal, c.sce.glen.setWidth 64⟩
  else none

/-- What the release writes at the `gend` (R368). With it the core observes the bytes that have replaced its window
(R15). -/
def Core.released (c : Core) (d : SReg) (result winner : Nat) (words : List Word) (elite : Bool) : Core :=
  let c := c.wrS d (BitVec.ofNat 64 result)
  let c := if 1 ≤ result then c.observe.wrS 3 (BitVec.ofNat 64 winner) else c
  let c := if result == 2 then words.zipIdx.foldl (fun c (w, k) => c.wrS (argReg (1 + k)) w) c else c
  { c with sce := { c.sce with repl := decide (1 ≤ result), elite := elite, phase := .none } }

def execGend (d : SReg) (s : State) : Result :=
  let i : Instr := .gend d
  let c := s.core
  match c.sce.phase with
  | .released result winner words elite => done i s fun c => c.released d result winner words elite
  | .arrived | .closed => waiting s
  | .none =>
    match s.gendTrap i with
    | some t => raise t s
    | none =>
      if !s.quiet then waiting s
      else reportOr (c.covered (fun _ => true) true) s <|
        match s.tellSce c.sce.pop.toNat ⟨s.cid, c.sce.fit, c.sce.genno⟩ .arrive with
        | some s' => waiting (s'.mapCore fun c => { c with sce := { c.sce with phase := .arrived } })
        | none => waiting s

/-- The core in focus withdraws its arrival. -/
def State.withdraw (s : State) : State := s.withdrawAt s.cid

/-- A member that has not arrived counts as arrived: its core is IDLE, or bound to a clause of another context. A member
that pre-emption has saved is bound to its own clause, and the generation waits for it (R369, R391). -/
def State.countsAbsent (s : State) (p : Population) (cid : Nat) : Bool :=
  let c := s.coreAt cid
  let bound := match c.bound with
    | .clause _ _ => true
    | _ => false
  pkgOf cid == s.pkg && (s.divertsTo cid p.ctx).isNone &&
    (c.run == .idle || (bound && c.run != .halt && c.ids.ctx.toNat != p.ctx))

/-- What the home SCE notes of a member. -/
def Population.note (p : Population) (m : SceMsg) : Population :=
  let rest := p.arrivals.filter fun a => a.cid != m.arr.cid
  let others := p.away.filter fun c => c != m.arr.cid
  if !p.has m.arr.cid then p
  else
    match m.note with
    | .arrive => if p.closed.isSome then p else { p with arrivals := rest ++ [m.arr] }
    | .withdraw => if p.closed.isSome then p else { p with arrivals := rest }
    | .absent => { p with away := others ++ [m.arr.cid] }
    | .present => { p with away := others }

def State.noteArrival (s : State) (m : SceMsg) : State := s.onPop m.slot fun p => p.note m

/-- The member of this package whose absence its home, in another package, does not know yet. -/
def State.unreported (s : State) (p : Population) : Option (Nat × Bool) :=
  if p.home == s.pkg then none
  else
    p.members.findSome? fun m =>
      let absent := s.countsAbsent p m.2
      if pkgOf m.2 == s.pkg && absent != p.told.contains m.2 then some (m.2, absent) else none

/-- Report to its home whether a member is absent. -/
def State.reportAbsence (s : State) (slot : Nat) : State :=
  match s.population slot with
  | none => s
  | some p =>
    match s.unreported p with
    | none => s
    | some (cid, absent) =>
      match s.tellSce slot ⟨cid, 0, 0⟩ (if absent then .absent else .present) with
      | none => s
      | some s => s.onPop slot fun p =>
        { p with told := (p.told.filter fun c => c != cid) ++ if absent then [cid] else [] }

/-- The stream of a body between SCEs: a home's words to a package about a population, or the notes of a member. They are
taken in the order in which they were sent. -/
def FlitBody.sceStream : FlitBody → Option (Bool × Nat × Nat)
  | .sceClose home slot _ | .sceRelease home slot _ _ => some (true, home, slot)
  | .sceAsk x => some (true, x.home, x.slot)
  | .sceMsg m => some (false, m.slot, m.arr.cid)
  | _ => none

/-- The body that the operand selects from the inbox, where no earlier one of its stream waits. -/
def State.sceInboxAt (s : State) (k : Nat) : Option (FlitBody × State) :=
  (s.inboxAt k).filter fun (b, _) =>
    b.sceStream.isNone || !((s.fabric.inbox.take k).any fun b' => b'.sceStream == b.sceStream)

/-- The home keeps a note for the next generation while one is closed. -/
def State.keepsNote (s : State) (m : SceMsg) : Bool := (s.population m.slot).any fun p => p.closed.isSome

/-- `SCE_ARRIVAL`: the home SCE records the note that the operand selects, of this package (one operand) or as another
package has sent it (two operands); or an SCE reports to the home in another package the run state of a member (a flag,
with the slot). -/
def execSceArrival (s : State) : Result :=
  match s.inp with
  | .idx k =>
    match s.sce.msgs[k]? with
    | none => .next s
    | some m =>
      if s.keepsNote m then .next s
      else .next (({ s with sce := { s.sce with msgs := s.sce.msgs.eraseIdx k } }).noteArrival m)
  | .two k _ =>
    match s.sceInboxAt k with
    | some (.sceMsg m, s') => if s.keepsNote m then .next s else .next (s'.noteArrival m)
    | _ => .next s
  | .flag slot _ => .next (s.reportAbsence slot)
  | _ => .next s

/-! ## Ranking and selection (R370, R371) -/

/-- The fitness of a member that counts as arrived. -/
def nanFit : BitVec 32 := 0x7FC00000

/-- `a` ranks before `b`. -/
def Arrival.better (a b : Arrival) : Bool :=
  let x := EType.fp32.read a.fit.toNat
  let y := EType.fp32.read b.fit.toNat
  if x.isNaN && y.isNaN then decide (a.cid < b.cid)
  else if x.isNaN then false
  else if y.isNaN then true
  else
    match x.cmp y with
    | .gt => true
    | .lt => false
    | .eq => decide (a.cid < b.cid)

def insertRank (a : Arrival) : List Arrival → List Arrival
  | [] => [a]
  | b :: rest => if a.better b then a :: b :: rest else b :: insertRank a rest

def ranked (l : List Arrival) : List Arrival := l.foldr insertRank []

/-- The seed of a loser. -/
def Population.seed (p : Population) (cid : Nat) : Word :=
  mix64 p.popkey (BitVec.ofNat 64 (p.gen.toNat * 2 ^ 24 + cid))

/-- The rank of the winner of loser `j`. -/
def Population.winnerRank (p : Population) (n j : Nat) (seed : Word) : Nat :=
  if p.tournament then
    let draws := (List.range p.k).map fun t =>
      fieldOf (mix64 seed (BitVec.ofNat 64 (2 ^ 40 + t))).toNat 32 32 * (n - p.l) / 2 ^ 32
    (draws.min?).getD 0
  else j % p.w

/-- The losers of a ranking, in order of rank. -/
def Population.losers (p : Population) (ranking : List Arrival) : List Loser :=
  let n := ranking.length
  let at_ (k : Nat) : Arrival := ranking.getD k ⟨0, 0, 0⟩
  (List.range p.l).map fun j =>
    let a := at_ (n - p.l + j)
    let seed := p.seed a.cid
    let w := at_ (p.winnerRank n j seed)
    ⟨a.cid, w.cid, seed, a.fit, w.fit, false, false, none, 0⟩

def Population.arrivalOf (p : Population) (cid : Nat) : Option Arrival := p.arrivals.find? fun a => a.cid == cid

/-- The other packages that hold members. -/
def Population.packages (p : Population) : List Nat :=
  ((p.members.map fun m => pkgOf m.2).eraseDups).filter fun k => k != p.home

/-- The members of this package that wait with an arrival that the close counts learn of it. -/
def State.closeHere (s : State) (arrived : List Nat) : State :=
  arrived.foldl (fun s cid =>
    if pkgOf cid == s.pkg && (s.coreAt cid).sce.phase == .arrived then
      s.onCore cid fun c => { c with sce := { c.sce with phase := .closed } }
    else s) s

/-- The slot and the descriptor here of the population that a home keeps in one of its slots (R375). -/
def State.popOf (s : State) (home slot : Nat) : Option (Nat × Population) :=
  s.sce.pops.find? fun p => p.2.home == home && p.2.homeSlot == slot

/-- Send a body between SCEs; it waits while no path stands. -/
def State.sendSce (s : State) (pkg : Nat) (b : FlitBody) : State := s.transmitOrPark pkg true b

/-- The home closes a generation: every SCE that holds members learns of it, and holds their windows. -/
def State.closeGeneration (s : State) (slot : Nat) (p : Population) : State :=
  let ranking := ranked (p.members.map fun m => (p.arrivalOf m.2).getD ⟨m.2, nanFit, p.gen⟩)
  let s := s.onPop slot fun p => { p with closed := some ⟨ranking, p.losers ranking, 0⟩ }
  let arrived := p.arrivals.map (·.cid)
  p.packages.foldl (fun s k => s.sendSce k (.sceClose p.home p.homeSlot arrived)) (s.closeHere arrived)

/-- A member has arrived, or counts as arrived. -/
def State.memberReady (s : State) (p : Population) (cid : Nat) : Bool :=
  (p.arrivalOf cid).isSome || s.countsAbsent p cid || p.away.contains cid

/-- `GENERATION_CLOSE` of a population homed here (one operand), or as its home tells this package (two operands). -/
def execGenerationClose (s : State) : Result :=
  match s.inp with
  | .idx slot =>
    match s.population slot with
    | none => .next s
    | some p =>
      if p.home != s.pkg || p.closed.isSome || p.arrivals.isEmpty || !(p.members.all fun m => s.memberReady p m.2) then
        .next s
      else .next (s.closeGeneration slot p)
  | .two k _ =>
    match s.sceInboxAt k with
    | some (.sceClose home slot arrived, s') =>
      match s'.popOf home slot with
      | some (n, _) => .next ((s'.onPop n fun p => { p with held := true }).closeHere arrived)
      | none => .next s'
    | _ => .next s
  | _ => .next s

/-! ## The copies (R372, R374) -/

/-- The parameter of the population's transform. -/
def Population.param (p : Population) : Nat :=
  if p.xf == 1 then p.sigma.toNat else if p.xf == 3 then p.rthr.toNat else 0

/-- The copy's request word 2 with a length. -/
def Population.word2 (p : Population) (len : Nat) : Word :=
  BitVec.ofNat 64 (p.param * 2 ^ 32 + p.xf * 2 ^ 28 + 2 * 2 ^ 24 + (if p.xf == 1 then p.pet else 0) * 2 ^ 21 + len)

/-- The copy over a loser as a kind-2 request. -/
def Population.copyOf (p : Population) (l : Loser) (src dst : Nat) : Xfer :=
  { ch := 0, id := 0, w0 := BitVec.ofNat 64 src, w1 := remoteAddr l.cid dst, w2 := p.word2 p.gl, w3 := l.seed,
    pc := 0, ctx := p.ctx, follow := none, phase := .active, acc := .none, buf := [], landed := 0, pos := 0,
    refused := [], fail := none, pend := false, index := none, ahead := [], carry := [], carryFrom := 0
    fromReplica := false, record := none }

def State.onJobs (s : State) (f : List SceJob → List SceJob) : State :=
  { s with sce := { s.sce with jobs := f s.sce.jobs } }

/-- Two names of one copy. -/
def SceJob.same (a b : SceJob) : Bool := a.home == b.home && a.slot == b.slot && a.gen == b.gen && a.j == b.j

/-- The home records the end of a loser's copy, in the generation that it belongs to (R375). -/
def Population.endCopy (p : Population) (x : SceJob) (failed : Option Nat) : Population :=
  match p.closed with
  | none => p
  | some k =>
    if x.gen != p.gen then p
    else
      { p with closed := some { k with
          losers := k.losers.zipIdx.map fun (l, i) =>
            if i == x.j then { l with done := true, failed := failed, gbase := x.l.gbase } else l } }

/-- A copy ends at the winner's SCE, which tells the home. -/
def State.endJob (s : State) (x : SceJob) (failed : Option Nat) : State :=
  let s := s.onJobs fun l => l.filter fun y => !y.same x
  if x.home == s.pkg then s.onPop x.slot fun p => p.endCopy x failed
  else s.sendSce x.home (.sceDone x failed)

/-- `n` more bytes of a copy have landed. -/
def State.stepJob (s : State) (x : SceJob) (gl n : Nat) : State :=
  if gl ≤ x.pos + n then s.endJob x none
  else s.onJobs fun l => l.map fun y => if y.same x then { y with pos := x.pos + n, waits := false } else y

/-- Land bytes of a loser's window at position `pos`, transformed there; a store that is not initialised takes none
(R336). -/
def State.landWindow (s : State) (p : Population) (l : Loser) (pos : Nat) (bs : List Byte) : Option State :=
  let x := { p.copyOf l 0 (s.coreAt l.cid).sce.gbase.toNat with pos := pos }
  if s.storeReady l.cid then some (s.land false l.cid x.landing (x.output bs)) else none

/-- The ports of a loser's copy: the hops of the package, and the port to another one (R364, R372). -/
def State.copyPorts (s : State) (l : Loser) : List Nat :=
  pathPorts [s.dieOf l.winner, if pkgOf l.cid == s.pkg then s.dieOf l.cid else hubDie] ++ s.exitPorts (pkgOf l.cid)

/-- What a copy spends for a chunk on its way. -/
def State.chargeCopy (s : State) (p : Population) (l : Loser) (bs : List Byte) : Option State :=
  s.charge (s.copyPorts l) p.ctx (bytesCost bs)

/-- The injected link is on the way of a copy (R418). -/
def State.copyWatched (s : State) (l : Loser) : Bool :=
  if pkgOf l.cid == s.pkg then s.injWatches [s.dieOf l.winner, s.dieOf l.cid]
  else
    s.injWatches [s.dieOf l.winner, hubDie] ||
      ((s.portTo (pkgOf l.cid) true).map fun k => s.injWatchesPort k true).getD false

/-- A poisoned read lands in the loser's store as uncorrectable errors (R336). -/
def Core.landPoison (c : Core) (a n : Nat) : Core :=
  let gs := (List.range (n / 8)).map fun k => a / 8 + k
  { c with bad := c.bad ++ gs.filter fun g => !c.bad.contains g }

/-- A chunk of a copy begins: its source is read, its tokens are spent and its beats cross. -/
inductive ChunkStart where
  /-- Its tokens are missing. -/
  | wait
  /-- The copy fails at the chunk. -/
  | fail (s : State)
  | go (s : State)

/-- Begin a chunk of `n` bytes at the copy's position. -/
def State.beginChunk (s : State) (p : Population) (x : SceJob) (bs : List Byte) : ChunkStart :=
  let c := s.coreAt x.l.winner
  let a := c.sce.gbase.toNat + x.pos
  let dst := (s.coreAt x.l.cid).sce.gbase.toNat + x.pos
  if !s.storeReady x.l.winner then
    .fail (if pkgOf x.l.cid == s.pkg then s.onCore x.l.cid fun c => c.landPoison dst bs.length else s)
  else if (c.badIn a bs.length).isSome then .fail s
  else
    match s.chargeCopy p x.l bs with
    | none => .wait
    | some s =>
      match s.crossBeats (s.copyWatched x.l) (beatsOf dst bs.length) with
      | some s => .go s
      | none =>
        let part := bs.take (beatBytes dst s.beatsLeft)
        let s := s.injFired
        .fail (if pkgOf x.l.cid == s.pkg then (s.landWindow p x.l x.pos part).getD s
          else (s.transmit (pkgOf x.l.cid) true (.sceData x part true)).getD s)

/-- The next step of a copy, at the winner's SCE: within the package naturally aligned pieces of a chunk land one after
another (R363), while the loser's NI applies no write (R224); a chunk for another package goes as a whole. -/
def State.runJob (s : State) (x : SceJob) : State :=
  match s.popOf x.home x.slot with
  | none => s.endJob x (some x.pos)
  | some (_, p) =>
    let c := s.coreAt x.l.winner
    let x := { x with l := { x.l with gbase := c.sce.gbase } }
    let n := min (chunkSize - x.pos % chunkSize) (p.gl - x.pos)
    let bs := c.ls.readBytes (c.sce.gbase.toNat + x.pos) n
    let here := pkgOf x.l.cid == s.pkg
    let move (s : State) : State :=
      if here then
        let k := s.pieceCut 0 n
        match s.landWindow p x.l x.pos (bs.take k) with
        | some s => s.stepJob x p.gl k
        | none => s.endJob x (some x.pos)
      else
        match s.transmit (pkgOf x.l.cid) true (.sceData x bs false) with
        | some s => s.onJobs fun l => l.map fun y => if y.same x then { x with waits := true } else y
        | none => s.endJob x (some x.pos)
    if x.waits || (here && (s.coreAt x.l.cid).applying.isSome) then s
    else if here && x.pos % chunkSize != 0 then move s
    else
      match s.beginChunk p x bs with
      | .wait => s
      | .fail s => s.endJob x (some x.pos)
      | .go s => move s

/-- The home asks the winner's SCE for the copy of loser `j`. -/
def State.askCopy (s : State) (slot j : Nat) (p : Population) (l : Loser) : State :=
  let x : SceJob := ⟨p.home, slot, p.gen, j, l, 0, false⟩
  let mark (l : Loser) (i : Nat) : Loser := if i == j then { l with asked := true } else l
  let s := s.onPop slot fun p => { p with closed := p.closed.map fun k =>
    { k with losers := k.losers.zipIdx.map fun (l, i) => mark l i } }
  if pkgOf l.winner == s.pkg then s.onJobs fun l => l ++ [x] else s.sendSce (pkgOf l.winner) (.sceAsk x)

/-- The loser's SCE answers a chunk of a copy. -/
def State.ackCopy (s : State) (x : SceJob) (ok : Bool) : State := s.sendSce (pkgOf x.l.winner) (.sceAck x ok)

/-- The copy belongs to the generation that a package knows of and holds. -/
def Population.holds (p : Population) (x : SceJob) : Bool := (p.held || p.closed.isSome) && p.gen == x.gen

/-- A package in which a population is not homed has yet to hear of the close of a copy's generation. -/
def Population.awaitsClose (p : Population) (x : SceJob) (pkg : Nat) : Bool :=
  p.home != pkg && !p.holds x && decide ((x.gen - p.gen).toNat < 2 ^ 39)

/-- A chunk from another package lands piece by piece (R363), and is answered after its last piece; the rest stays in the
inbox. A chunk that a link has cut short lands as far as it came (R418). -/
def State.landData (s : State) (p : Population) (x : SceJob) (bs : List Byte) (lost : Bool) : State :=
  let n := s.pieceCut 0 bs.length
  match if p.holds x then s.landWindow p x.l x.pos (bs.take n) else none with
  | none => s.ackCopy x false
  | some s =>
    if bs.length ≤ n then s.ackCopy x (!lost)
    else
      { s with fabric := { s.fabric with
        inbox := .sceData { x with pos := x.pos + n } (bs.drop n) lost :: s.fabric.inbox } }

/-- What an SCE does at the word of another package's. -/
def State.sceService (s : State) (b : FlitBody) : Option State :=
  match b with
  | .sceAsk x => some (s.onJobs fun l => l ++ [x])
  | .sceData x bs lost =>
    match s.popOf x.home x.slot with
    | none => some (s.ackCopy x false)
    | some (_, p) =>
      if p.awaitsClose x s.pkg || (s.coreAt x.l.cid).applying.isSome then none else some (s.landData p x bs lost)
  | .sceAck x ok =>
    some (match s.sce.jobs.find? fun y => y.same x && y.waits with
      | none => s
      | some y =>
        match s.popOf y.home y.slot with
        | some (_, p) => if ok then s.stepJob y p.gl (min (chunkSize - y.pos % chunkSize) (p.gl - y.pos))
          else s.endJob y (some y.pos)
        | none => s.endJob y (some y.pos))
  | .sceDone x failed => some (s.onPop x.slot fun p => p.endCopy x failed)
  | _ => none

/-! ## Lineage (R376) -/

def Population.record (p : Population) (slot : Nat) (l : Loser) : List Byte :=
  let w1 := p.param * 2 ^ 32 + bit l.failed.isSome * 2 ^ 31 + p.xf * 2 ^ 28 +
    slot * 2 ^ 24 + l.winner
  wordsBytes [BitVec.ofNat 64 (l.cid * 2 ^ 40 + p.gen.toNat), BitVec.ofNat 64 w1, l.seed,
    BitVec.ofNat 64 (l.lfit.toNat * 2 ^ 32 + l.wfit.toNat)]

/-- The loser whose lineage record is due: its copy has ended. -/
def Population.logDue (p : Population) : Option Loser :=
  p.closed.bind fun k => (k.losers[k.logged]?).filter (·.done)

/-- Where the next lineage record lies (R371). -/
def Population.logVa (p : Population) : Nat :=
  (p.lbase.toNat + 32 * ((p.lcount.toNat + ((p.closed.map (·.logged)).getD 0)) % p.lcap)) % 2 ^ 56

/-- The next lineage record is done with. -/
def State.logDone (s : State) (slot : Nat) : State :=
  s.onPop slot fun p => { p with closed := p.closed.map fun k => { k with logged := k.logged + 1 } }

/-- The next lineage record cannot be written: it is left out, and firmware is told. -/
def State.logLost (s : State) (slot : Nat) : State := (s.logDone slot).firmwareIrq irqLineage

/-- Write the next lineage record, once its copy has ended. -/
def State.logNext (s : State) (slot : Nat) (refuse : Bool) : State :=
  match s.population slot with
  | none => s
  | some p =>
    match p.logDue with
    | none => s
    | some l =>
      let bs := p.record slot l
      match s.gmem.writeChunk p.ctx p.logVa bs s.hitR s.hitW with
      | .done g _ =>
        match s.charge (s.writePorts p.ctx p.logVa hubDie bs) p.ctx (g.costAt p.ctx p.logVa) with
        | some s => ({ s with gmem := g }).logDone slot
        | none => s
      | .held => s
      | .fault _ => if refuse then s.logLost slot else s
      | .fail _ => s.logLost slot
      | .bad g _ => ({ s with gmem := g }).logLost slot

/-- `SCE_LOSER_COPY`: the home asks for the copy of loser `j` (two operands), the next lineage record is written (a flag,
which says whether firmware's policy refuses its mapping), a copy that this package's SCE performs goes on (three
operands), or the SCE does what another package's has asked (one operand). -/
def execSceLoserCopy (s : State) : Result :=
  match s.inp with
  | .two slot j =>
    match s.population slot with
    | none => .next s
    | some p =>
      match p.closed.bind fun k => k.losers[j]? with
      | none => .next s
      | some l => if l.done || l.asked || p.home != s.pkg then .next s else .next (s.askCopy slot j p l)
  | .flag slot refuse => .next (s.logNext slot refuse)
  | .three k _ _ =>
    match s.sce.jobs[k]? with
    | some x => .next (s.runJob x)
    | none => .next s
  | .idx k =>
    match s.sceInboxAt k with
    | some (b, s') => .next ((s'.sceService b).getD s)
    | none => .next s
  | _ => .next s

/-! ## The release (R373, R374) -/

/-- What a member's `gend` returns. -/
def Population.releaseOf (p : Population) (k : Closed) (cid : Nat) : GendPhase :=
  let elite := (k.ranking.take p.e).any fun a => a.cid == cid
  match k.losers.find? fun l => l.cid == cid with
  | none => .released 0 0 [] elite
  | some l =>
    match l.failed with
    | none => .released 1 l.winner [] elite
    | some n => .released 2 l.winner [l.seed, BitVec.ofNat 64 n, p.word2 0, l.gbase.setWidth 64] elite

/-- The release at a member that waits. -/
def Core.release (c : Core) (gen : BitVec 40) (p : GendPhase) : Core :=
  if c.sce.phase == .closed then { c with sce := { c.sce with phase := p, genno := gen } } else c

/-- The release at a member, with the interrupt `GENRELEASE` (R387); a saved member takes the interrupt's bit with
its saved state. -/
def State.releaseMember (s : State) (ctx cid : Nat) (gen : BitVec 40) (p : GendPhase) : State :=
  if (s.divertsTo cid ctx).isSome then
    { s with saved := s.saved.map fun (m : SavedMember) =>
        if m.cid == cid && m.core.ids.ctx.toNat == ctx then { m with core := m.core.pend 3 } else m }
  else s.onCore cid fun c => (c.release gen p).pend 3

/-- The release at the members of a package. -/
def State.releaseHere (s : State) (ctx : Nat) (gen : BitVec 40) (results : List (Nat × GendPhase)) : State :=
  results.foldl (fun s r => if pkgOf r.1 == s.pkg then s.releaseMember ctx r.1 gen r.2 else s) s

def State.releaseAll (s : State) (slot : Nat) (p : Population) (k : Closed) : State :=
  let gen := p.gen + 1
  let results := p.members.map fun m => (m.2, p.releaseOf k m.2)
  let s := s.onPop slot fun p =>
    { p with
      gen := gen, lcount := p.lcount + BitVec.ofNat 64 k.logged, replaced := p.replaced + p.l
      arrivals := [], closed := none }
  p.packages.foldl (fun s n => s.sendSce n (.sceRelease p.home p.homeSlot gen results)) (s.releaseHere p.ctx gen results)

/-- `GENERATION_RELEASE`, after the last record (one operand), or as the home tells this package (two operands). -/
def execGenerationRelease (s : State) : Result :=
  match s.inp with
  | .idx slot =>
    match s.population slot with
    | none => .next s
    | some p =>
      match p.closed with
      | some k => if k.logged < k.losers.length then .next s else .next (s.releaseAll slot p k)
      | none => .next s
  | .two k _ =>
    match s.sceInboxAt k with
    | some (.sceRelease home slot gen results, s') =>
      match s'.popOf home slot with
      | some (n, p) => .next ((s'.onPop n fun p => { p with held := false, gen := gen }).releaseHere p.ctx gen results)
      | none => .next s'
    | _ => .next s
  | _ => .next s

/-! ## Firmware (R365, R366) -/

/-- The number is a core's `CID` in some package (R26). -/
def isCid (cid : Nat) : Bool := decide (cid < 2 ^ 24) && cid / 2 ^ 11 % 2 == 0 && decide (clusterOf cid < 96)

/-- A descriptor that R365 allows. -/
def State.popOk (s : State) (slot : Nat) (p : Population) : Bool :=
  let n := p.members.length
  let policyOk : Bool :=
    if p.tournament then decide (1 ≤ p.k) && decide (p.k ≤ 64) else decide (1 ≤ p.w) && decide (p.w ≤ n - p.l)
  let formOk : Bool := p.xf == 0 || (p.xf == 1 && sigmaOk p.sigma.toNat && decide (p.pet < 4)) || p.xf == 3
  decide (slot < 16) && decide (p.ctx < 4096) && decide (1 ≤ n) && decide (n ≤ 4096) &&
    p.gl % 64 == 0 && decide (64 ≤ p.gl) && decide (p.gl ≤ lsSize) && decide (p.l < n) &&
    policyOk && decide (p.e ≤ n - p.l) && formOk &&
    p.lbase.toNat % 32 == 0 && !vaHigh p.lbase.toNat && decide (1 ≤ p.lcap) &&
    (p.home != s.pkg || p.homeSlot == slot) && (p.members.all fun m => isCid m.2) &&
    (p.members.map (·.2)).eraseDups.length == n &&
    (p.members.zipIdx.all fun (m, k) => m.1 == k) &&
    s.sce.pops.all fun q => q.1 == slot || !(q.2.members.any fun m => p.has m.2)

/-- What firmware writes into a core that joins or leaves a population. -/
def CoreSce.join (c : CoreSce) (slot idx : Nat) (gen : BitVec 40) : CoreSce :=
  { c with member := true, pop := BitVec.ofNat 4 slot, midx := BitVec.ofNat 12 idx, genno := gen
           elite := false, repl := false }

def CoreSce.leave (c : CoreSce) : CoreSce :=
  { c with member := false, pop := 0, midx := 0, genno := 0, elite := false, repl := false }

/-- A core that stays in a population keeps what it holds, but for its index and slot. -/
def CoreSce.stay (c : CoreSce) (slot idx : Nat) : CoreSce :=
  { c with pop := BitVec.ofNat 4 slot, midx := BitVec.ofNat 12 idx }

/-- The members of this package may be taken out: none waits in `gend`. -/
def State.popFree (s : State) (p : Population) : Bool :=
  p.closed.isNone && !p.held && p.members.all fun m => (s.coreAt m.2).sce.phase == .none

def Population.hasIn (p : Option Population) (cid : Nat) : Bool := p.any fun p => p.has cid

/-- The members of this package that a rewrite takes out, those that it adds, and those that stay (R366). -/
def State.rejoin (s : State) (slot : Nat) (old new : Option Population) : State :=
  let mine (p : Option Population) : List (Nat × Nat) := ((p.map (·.members)).getD []).filter fun m => pkgOf m.2 == s.pkg
  let s := (mine old).foldl (fun s m =>
    if Population.hasIn new m.2 then s else s.onCore m.2 fun c => { c with sce := c.sce.leave }) s
  let gen := (new.map (·.gen)).getD 0
  let enter (c : CoreSce) (m : Nat × Nat) : CoreSce :=
    if Population.hasIn old m.2 then c.stay slot m.1 else c.join slot m.1 gen
  (mine new).foldl (fun s m => s.onCore m.2 fun c => { c with sce := enter c.sce m }) s

/-- `POPULATION_DESCRIPTOR_WRITE`: a population is created with generation 0, rewritten, or freed. -/
def execPopulationDescriptorWrite (s : State) : Result :=
  match s.inp with
  | .pop slot new =>
    let old := s.population slot
    let pops := s.sce.pops.filter fun x => x.1 != slot
    let put (ps : List (Nat × Population)) (new : Option Population) : Result :=
      .next (({ s with sce := { s.sce with pops := ps } }).rejoin slot old new)
    if !(old.all s.popFree) then .next s
    else
      match new with
      | none => put pops none
      | some p =>
        if !s.popOk slot p then .next s
        else
          let p := { p with
            gen := (old.map (·.gen)).getD 0, lcount := (old.map (·.lcount)).getD 0
            replaced := (old.map (·.replaced)).getD 0, arrivals := [], closed := none
            away := [], told := [], held := false }
          put (pops ++ [(slot, p)]) (some p)
  | _ => .next s

end Sys2Proof.Machine
end

