-- ==== Sys2Proof/Machine/GmemEv.lean ====
section
/-! DEFINITION. Firmware's and the host's steps on global memory: shootdowns (R318), eviction and expansion of
pages (R331 to R334), the host's view (R335, R402), and the token buckets (R364). -/

namespace Sys2Proof.Machine

/-- `SHOOTDOWN`: firmware changes entries together with the removal of their translations. It changes no valid leaf
outside the range, and writes nothing that R312, R315, R319, R331 or R391 forbids. -/
def execShootdown (s : State) : Result :=
  match s.inp with
  | .shoot ctx va len es =>
    match s.gmem.firmwareSet [] es with
    | none => .next s
    | some g =>
      let inside (m : Mapping) : Bool := m.ctx == ctx && overlap m.va (pageSize m.lvl) va len
      if (s.gmem.changed g).all inside then .next { s with gmem := g.shoot ctx va len } else .next s
  | _ => .next s

/-! ## Pins (R333) -/

/-- The ranges of global memory that a request uses, each with the position at which it begins. -/
def Xfer.ranges (x : Xfer) (c : Core) : List (Nat × Nat × Nat) :=
  match x.kind with
  | 0 | 4 => [(x.src, x.len, 0)]
  | 1 => [(x.dst, x.outTotal, 0)]
  | 3 => (List.range (x.len / x.pa)).map fun r =>
      let w := if r == x.row then x.indexWord c else c.loadN (x.indexAddr r) 4
      ((x.src + w * x.stride) % 2 ^ 56, x.pa, r * x.pa)
  | _ => []

/-- The positions up to which a request has asked the slices for bytes. -/
def Xfer.asked (x : Xfer) (c : Core) : Nat :=
  let stopped : Bool := match x.phase with
    | .stopped _ _ _ => true
    | _ => false
  match x.acc with
  | .have_ | .land => x.pos + x.stepLen c
  | .put => x.pos + x.buf.length
  | .again | .replica => x.pos + (if x.kind == 3 then x.buf.length else 0) + 1
  | .none => x.pos + (if x.kind == 3 then x.buf.length else 0) + bit stopped

/-- The request pins the 64 KiB page at `page`: it has asked for bytes there, and has more to come. -/
def Xfer.pins (x : Xfer) (c : Core) (page : Nat) : Bool :=
  let live : Bool := match x.phase with
    | .active | .stopped _ _ _ => true
    | _ => false
  let parts := (x.ranges c).filterMap fun (a, n, p) =>
    let lo := max a page
    let hi := min (a + n) (page + 65536)
    if lo < hi then some (p + (lo - a), p + (hi - a)) else none
  live && (parts.any fun q => decide (q.1 < x.asked c)) && parts.any fun q => decide (x.pos < q.2)

/-- The request's fetch from its replica lies in the page, also one that a fault has stopped at the replica (R328,
R333). -/
def Xfer.pinsReplica (x : Xfer) (c : Core) (page : Nat) : Bool :=
  x.replicaVa.any fun r =>
    let va := (r + x.pos) % 2 ^ 56
    let fetching : Bool := match x.phase with
      | .stopped _ f _ => overlap f 1 va (x.pieceLen c)
      | _ => x.acc == .replica
    fetching && overlap va (x.pieceLen c) page 65536

def Core.pinsPage (c : Core) (ctx page : Nat) : Bool :=
  (c.copy.fifo.filterMap FifoItem.xfer?).any fun x => x.ctx == ctx && (x.pins c page || x.pinsReplica c page)

/-- The loads of a clause pin the page: one has stopped there, or waits with bytes of the page behind it and others to
come (R217, R333). -/
def ClauseRec.loadPins (r : ClauseRec) (p : LoadPos) (page : Nat) : Bool :=
  match p with
  | .stopped _ va => pageOf va 0 == page
  | .from_ pos =>
    let first := if pos < r.codelen then r.tmpl else r.args
    (r.loadPiece pos).any fun x => pageOf x.1 0 == page && decide (max first page < x.1)
  | _ => false

/-- The page of a VA is one at which an access of the hub or of the SCE stops. -/
def Gmem.stopsAt (g : Gmem) (ctx va : Nat) (write : Bool) (page : Nat) : Bool :=
  pageOf va 0 == page &&
    match g.walk ctx va write with
    | .fault _ => true
    | _ => false

/-- The hub's own transfers pin the page: a clause load, or the read of a template, that a fault has stopped there. -/
def State.hubPins (s : State) (ctx page : Nat) : Bool :=
  (s.hub.binds.any fun b => b.record.ctx == ctx && !b.started && b.members.any fun m => b.record.loadPins m.load page) ||
    s.hub.entries.any fun e => e.ctx == ctx && (match e.state with
      | .reading | .joined => s.gmem.stopsAt ctx e.clrec.toNat false page
      | _ => false)

/-- The next lineage record of a population is stopped by a fault in the page (R371). -/
def State.logStops (s : State) (ctx page : Nat) (p : Population) : Bool :=
  p.ctx == ctx && p.logDue.isSome && s.gmem.stopsAt ctx p.logVa true page

/-- The SCE pins the page: a lineage record's write that a fault has stopped there. -/
def State.scePins (s : State) (ctx page : Nat) : Bool := s.sce.pops.any fun x => s.logStops ctx page x.2

def State.pinned (s : State) (ctx page : Nat) : Bool :=
  s.core.pinsPage ctx page || (s.others.any fun c => c.2.pinsPage ctx page) ||
    (s.saved.any fun m => m.core.pinsPage ctx page) || s.hubPins ctx page || s.scePins ctx page

/-! ## The compressed zone (R331, R332, R334) -/

/-- The length of a zone record of number `r`. -/
def Gmem.zoneAt (g : Gmem) (r : Nat) : Option Nat := (g.zone.find? fun x => x.1 == r).map (·.2)

/-- The bytes of a chunk's encoded form (R325). -/
def mdBytes (md : BitVec 8) : Nat := if md == 0 then chunkSize else if md.toNat < 0x80 then md.toNat * 32 else 0

/-- The 16 chunks of a frame. -/
def Gmem.pageChunks (g : Gmem) (f : Nat) : List Chunk := (List.range 16).map fun c => g.chunk (16 * f + c)

/-- A record of the zone: the header, which holds the VA, the context, the `MD` codes and the CRC of the packed bytes,
and the chunks in their encoded forms (R331). The header's layout is the model's (DESIGN CHOICE, log entry 65). -/
def zoneBytes (va ctx : Nat) (chunks : List Chunk) : List Byte :=
  let packed := chunks.flatMap fun k => k.slot.readBytes 0 (mdBytes k.md)
  let mds : List Byte := chunks.map fun k => k.md
  padTo 64 (toBytesLE 8 va ++ toBytesLE 8 ctx ++ mds ++ toBytesLE 4 (crc32c packed)) ++ packed

/-- The `MD` codes of a record's header. -/
def Gmem.recordMds (g : Gmem) (r : Nat) : List (BitVec 8) := g.readSlots (recordAt r + 16) 16

/-- A record's chunks; none where its CRC fails, or it is not the page's. -/
def Gmem.unpack (g : Gmem) (r len va ctx : Nat) : Option (List (BitVec 8 × List Byte)) :=
  let bs := g.readSlots (recordAt r) len
  let field (o n : Nat) : Nat := ofBytesLE ((bs.drop o).take n)
  let packed := bs.drop 64
  if field 0 8 != va || field 8 8 != ctx || field 32 4 != crc32c packed then none
  else
    let mds := g.recordMds r
    some (mds.zipIdx.map fun (md, k) =>
      (md, (packed.drop ((mds.take k).map mdBytes).sum).take (mdBytes md)))

/-- A leaf entry as an eviction leaves it. -/
def evicted (e : Word) (record : Nat) : Word :=
  BitVec.ofNat 64 (e.toNat - leafFrame e * 65536 + record % 2 ^ 36 * 65536) ||| 0x20#64

/-- A leaf entry as an expansion leaves it: Z = 0, A = 1, D = 0. -/
def expanded (e : Word) (frame : Nat) : Word :=
  (BitVec.ofNat 64 (e.toNat - leafFrame e * 65536 + frame % 2 ^ 36 * 65536) ||| 0x40#64) &&& ~~~0xA0#64

/-- The hand clears A of a leaf, with the shootdown of its page (R318). -/
def Gmem.clearA (g : Gmem) (ctx va lvl pa : Nat) (e : Word) : Gmem :=
  (g.setEntry pa (e &&& ~~~0x40#64)).shoot ctx (pageOf va lvl) (pageSize lvl)

def Gmem.notEvicting (g : Gmem) (ctx page : Nat) : Gmem :=
  { g with evicting := g.evicting.filter fun p => p != (ctx, page) }

/-- Read chunk `c` of a page's frame in its encoded form: the access counts (R322), and an error that can be corrected is
repaired. -/
def Gmem.readStored (g : Gmem) (page f c : Nat) (hit : Bool) : Gmem :=
  (g.count page f c false (!(g.chunk (16 * f + c)).read) hit).repair f c hit

/-- Move an accepted page to the zone, where the record's place in the interleaved pool is free. A page with a chunk that
cannot be read stays (DESIGN CHOICE, log entry 65). -/
def Gmem.evictPage (g : Gmem) (ctx page record pa : Nat) (e : Word) (hit : Bool) : Gmem :=
  let f := leafFrame e
  let g := (List.range 16).foldl (fun g c => g.readStored page f c hit) g
  let ks := g.pageChunks f
  let bs := zoneBytes page ctx ks
  if ks.any Chunk.poisoned then g.notEvicting ctx page
  else if 2 ^ 36 ≤ record || !g.unused (recordAt record) bs.length || g.ni * 65536 < recordAt record + bs.length then g
  else
    let g := ((g.setEntry pa (evicted e record)).shoot ctx page 65536).writeSlots (recordAt record) bs
    ({ g with zone := g.zone ++ [(record, bs.length)] }).notEvicting ctx page

/-- `PAGE_EVICT`: the hand passes a leaf entry. An accessed page is marked not accessed; a cold one of 64 KiB is accepted
for eviction by its home slice unless it is pinned; an accepted one is packed into a zone record, unless firmware has put
a 2 MiB page over it meanwhile. -/
def execPageEvict (s : State) : Result :=
  match s.inp with
  | .evict ctx va record =>
    let page := pageOf va 0
    match s.gmem.leaf ctx page with
    | some (pa, lvl, e) =>
      if leafZ e then .next s
      else if s.gmem.evicting.contains (ctx, page) then
        .next { s with gmem :=
          if lvl == 0 then s.gmem.evictPage ctx page record pa e s.hitR else s.gmem.notEvicting ctx page }
      else if leafA e then .next { s with gmem := s.gmem.clearA ctx page lvl pa e }
      else if lvl != 0 || s.pinned ctx page then .next s
      else .next { s with gmem := { s.gmem with evicting := s.gmem.evicting ++ [(ctx, page)] } }
    | none => .next s
  | _ => .next s

/-- The requests of a core that stopped in a page whose record cannot be expanded: abandoned, with reason ECC (R334),
which `cpresume` reports (R386). -/
def Core.failStopped (c : Core) (ctx page : Nat) : Core :=
  { c with copy := { c.copy with fifo := c.copy.fifo.map fun it =>
      match it with
      | .req x =>
        match x.phase with
        | .stopped _ f _ =>
          if x.ctx == ctx && x.stoppedIn (fun f => pageOf f 0 == page) then .req { x with phase := .stopped reasonEcc f true } else .req x
        | _ => .req x
      | .join m => .join m } }

/-- The loads of clauses that wait for a page whose record cannot be expanded fail (R334). -/
def Bind.failLoads (b : Bind) (ctx page : Nat) : Bind :=
  let fail (m : GangMember) : GangMember :=
    match m.load with
    | .stopped _ va => if pageOf va 0 == page then { m with load := .failed va } else m
    | _ => m
  if b.record.ctx == ctx then { b with members := b.members.map fail } else b

/-- Every transfer that waits for a page whose record cannot be expanded ends (R334): copies fail at their `cpresume`,
clause loads at once, and a lineage record that the SCE cannot write there is left out. -/
def State.failPage (s : State) (ctx page : Nat) : State :=
  let s := s.onCores (s.listed.map (·.1)) fun c => c.failStopped ctx page
  let s := { s with hub := { s.hub with binds := s.hub.binds.map fun (b : Bind) => b.failLoads ctx page } }
  s.sce.pops.foldl (fun s (x : Nat × Population) => if s.logStops ctx page x.2 then s.logLost x.1 else s) s

/-- Write back a page's chunks and their `MD` codes into a frame; the writes count (R322). -/
def Gmem.writePage (g : Gmem) (page frame : Nat) (ks : List (BitVec 8 × List Byte)) (hitW : Bool) : Gmem :=
  ks.zipIdx.foldl (fun g (k, c) =>
    (g.count page frame c true (k.1 == 0x80) hitW).setChunk (16 * frame + c)
      ⟨k.1, (g.chunk (16 * frame + c)).slot.writeBytes 0 k.2, false, false⟩) g

/-- `ZONE_EXPAND`: a record's page goes back to a free frame of the pool that PL names, for a near page of the die that
holds cluster `HINT` (R319); a record whose CRC fails ends the transfers that wait for it. -/
def execZoneExpand (s : State) : Result :=
  match s.inp with
  | .expand ctx va record frame =>
    let page := pageOf va 0
    match s.gmem.leaf ctx page, s.gmem.zoneAt record with
    | some (pa, _, e), some len =>
      if !leafZ e || leafFrame e != record then .next s
      else
        match s.gmem.unpack record len page ctx with
        | none => .next (s.failPage ctx page)
        | some ks =>
          let e' := expanded e frame
          if !s.gmem.framePool e' frame || !s.gmem.hintOk e' || !s.gmem.unused (frame * 65536) 65536 then .next s
          else
            let g := ((s.gmem.writePage page frame ks s.hitW).setEntry pa e').shoot ctx page 65536
            .next { s with gmem := { g with zone := g.zone.filter fun x => x.1 != record } }
    | _, _ => .next s
  | _ => .next s

/-! ## The host's view (R335) -/

/-- The chunk number that holds a VA, where its page is mapped to a frame. -/
def Gmem.chunkNo (g : Gmem) (ctx va : Nat) : Option Nat :=
  match g.leaf ctx va with
  | some (_, lvl, e) => if leafZ e then none else some (16 * blockFrame e lvl va + vaChunk va)
  | none => none

/-- The `MD` code of the chunk of a VA: its frame's, or its zone record's (R331); none where the page is not mapped. -/
def Gmem.mdAt (g : Gmem) (ctx va : Nat) : Option (BitVec 8) :=
  match g.leaf ctx va with
  | some (_, lvl, e) =>
    if leafZ e then (g.recordMds (leafFrame e))[vaChunk va]? else some (g.chunk (16 * blockFrame e lvl va + vaChunk va)).md
  | none => none

/-- `EXPORT`: the `MD` codes of a page-aligned range of a context; a chunk of a page that is not mapped is left out. -/
def execExportMd (s : State) : Result :=
  match s.inp with
  | .three ctx va len =>
    let codes := (List.range (len / chunkSize)).filterMap fun k =>
      (s.gmem.mdAt ctx (va + k * chunkSize)).map fun md => md.setWidth 64
    if va % 65536 == 0 && len % 65536 == 0 then .next { s with host := { s.host with answer := codes } } else .next s
  | _ => .next s

/-- Write the `MD` code of the chunk of a VA: its frame's, or its zone record's. -/
def Gmem.setMd (g : Gmem) (ctx va : Nat) (md : BitVec 8) : Gmem :=
  match g.leaf ctx va with
  | some (_, lvl, e) =>
    if leafZ e then
      if (g.zoneAt (leafFrame e)).isSome then g.setSlotByte (recordAt (leafFrame e) + 16 + vaChunk va) md else g
    else
      let n := 16 * blockFrame e lvl va + vaChunk va
      g.setChunk n { g.chunk n with md := md }
  | none => g

/-- `IMPORT`: `MD` codes written for the chunks of a range, with its shootdown. -/
def execImportMd (s : State) : Result :=
  match s.inp with
  | .mds ctx va codes =>
    let g := codes.zipIdx.foldl (fun g (md, k) => g.setMd ctx (va + k * chunkSize) md) s.gmem
    .next { s with gmem := g.shoot ctx va (codes.length * chunkSize) }
  | _ => .next s

/-! ## Token buckets (R364) -/

/-- The contexts with an access queued at a port. -/
def Core.queuedAt (c : Core) (s : State) (cid port : Nat) : List Nat :=
  (c.copy.fifo.filterMap FifoItem.xfer?).filterMap fun x =>
    let wants : Bool := x.phase == .active && (match x.acc with
      | .have_ | .land => false
      | .put => x.kind == 1
      | .none => x.kind != 1 && x.kind != 5
      | .again | .replica => true)
    let ports : List Nat := match x.acc, x.replicaVa with
      | .replica, some r => s.readPorts x.ctx ((r + x.pos) % 2 ^ 56) (s.dieOf cid)
      | _, _ => s.portsOf cid x (x.va c)
    if wants && ports.contains port then some x.ctx else none

/-- The contexts of the hub's and the SCE's transfers that have an access queued at a port: clause loads, reads of
templates, copies of populations and lineage records. -/
def State.hubQueuedAt (s : State) (port : Nat) : List Nat :=
  let at_ (ports : List Nat) (ctx : Nat) : List Nat := if ports.contains port then [ctx] else []
  (s.hub.binds.flatMap fun b =>
    if b.started then []
    else b.members.flatMap fun m =>
      match m.load with
      | .from_ pos | .stopped pos _ =>
        match b.record.loadPiece pos with
        | some (va, _, _) => at_ (s.readPorts b.record.ctx va (s.dieOf m.cid)) b.record.ctx
        | none => []
      | _ => []) ++
  (s.hub.entries.flatMap fun e =>
    match e.state with
    | .reading | .joined => at_ (s.readPorts e.ctx e.clrec.toNat hubDie) e.ctx
    | _ => []) ++
  (s.sce.jobs.flatMap fun x =>
    match s.popOf x.home x.slot with
    | some (_, p) => at_ (s.copyPorts x.l) p.ctx
    | none => []) ++
  s.sce.pops.flatMap fun (slot, p) =>
    match p.logDue with
    | some l => at_ (s.writePorts p.ctx p.logVa hubDie (p.record slot l)) p.ctx
    | none => []

def State.activeAt (s : State) (port : Nat) : List Nat :=
  (s.core.queuedAt s s.cid port ++ (s.others.flatMap fun c => c.2.queuedAt s c.1 port) ++ s.hubQueuedAt port).eraseDups

def State.shareOf (s : State) (ctx : Nat) : Nat := ((s.host.shares.find? fun x => x.1 == ctx).map (·.2)).getD 0

/-- A port's refill (R364). Where every active context's share is zero the spare tokens go to nobody (DESIGN CHOICE, log
entry 81). -/
def refill (p : TokenPort) (active : List Nat) (share : Nat → Nat) (now : Nat) : TokenPort :=
  let base (c : Nat) : Nat := p.cap * share c / 256
  let spare := p.cap - (active.map base).sum
  let all := (active.map share).sum
  { p with
    last := now
    tokens := active.map fun c => (c, base c + (if all == 0 then 0 else spare * share c / all)) }

/-- `TOKEN_REFILL` at a port, every 1,024 cycles. -/
def execTokenRefill (s : State) : Result :=
  match s.inp with
  | .idx k =>
    match s.host.ports[k]? with
    | some p =>
      if s.now < p.last + 1024 then .next s
      else
        .next { s with host := { s.host with ports := s.host.ports.set k (refill p (s.activeAt k) s.shareOf s.now) } }
    | none => .next s
  | _ => .next s

/-- The capacities of the ports, in bytes per period: 64, 4,000 and 100 bytes per cycle. -/
def portCaps : List Nat := List.replicate 96 65536 ++ List.replicate 6 4096000 ++ List.replicate 18 102400

/-- `CONTEXT_SHARE_WRITE`: a share in units of 1/256, whose sum stays at most 256; the first one sets up the ports. -/
def execContextShareWrite (s : State) : Result :=
  match s.inp with
  | .two ctx share =>
    let shares := (s.host.shares.filter fun x => x.1 != ctx) ++ [(ctx, share)]
    if 256 < (shares.map (·.2)).sum then .next s
    else
      let ports := if s.host.ports.isEmpty then portCaps.map fun t => ⟨t, [], s.now⟩ else s.host.ports
      .next { s with host := { s.host with shares := shares, ports := ports } }
  | _ => .next s

end Sys2Proof.Machine
end

