-- ==== Sys2Proof/Machine/System.lean ====
section
/-! DEFINITION. What a core takes at an instruction boundary (R28, R379, R384, R387), the host's requests to a core
(R31), and pre-emption (R390 to R393). -/

namespace Sys2Proof.Machine

/-! ## Boundaries (R379) -/

/-- An exchange that nothing interrupts: an `exit` whose group has been sent, or a `gend` between close and release
(R210, R369). -/
def Core.blocked (c : Core) : Bool :=
  (match c.hubWait with
   | .exitSent | .exitRefused _ _ => true
   | _ => false) ||
  (match c.sce.phase with
   | .closed | .released _ _ _ _ => true
   | _ => false)

/-- The core stands at a boundary at which it may take an item. -/
def Core.atBoundary (c : Core) : Bool := (c.run == .run || c.run == .wait) && !c.isDebug && !c.blocked

/-- A pending item may be entered now: no reply is owed (R228), and in precise mode every issued vector instruction has
been performed (R142). -/
def Core.mayEnter (c : Core) : Bool := !c.trapHeld

/-- The level lets items be taken. -/
def Core.unmasked (c : Core) : Bool :=
  match c.status.pl with
  | .user => true
  | .kernel => c.status.ie
  | .debug => false

/-- The lowest channel with a pending `COPYPF`, with the fault's reason and address (R384). -/
def Core.copyFault (c : Core) : Option (Chan × Nat × Nat) :=
  (List.finRange 4).findSome? fun ch =>
    match c.oldest ch with
    | some x =>
      match x.phase with
      | .stopped reason va _ => if x.pend then some (ch, min reason reasonCompressed, va) else none
      | _ => none
    | none => none

/-- An item that a core takes: `COPYPF`, or an interrupt. -/
inductive Item where
  | copypf
  | irq (i : Fin 6)
deriving DecidableEq, Repr

def Item.cause : Item → Nat
  | .copypf => causeCopyPf
  | .irq i => 0x80 + i.val

/-- The items that are pending and not masked, in the order of R379. -/
def Core.items (c : Core) : List Item :=
  if !c.unmasked then []
  else
    (if c.copyFault.isSome then [Item.copypf] else []) ++
      ((List.finRange 6).filter fun i => (c.trap.ipend &&& c.trap.ienable) &&& bit6 i != 0).map .irq

/-- A core that waits in `wfe` retires it before it takes an item (R132). -/
def Core.leaveWfe (c : Core) : Core := if c.waitsAt .wfe then { c with latch := false }.retire 8 else c

/-- What the core takes at this boundary, and whether a replay diverges there: in a replay the item that the next
record names, once its instruction count is reached (R397), or any item once that count has passed (R398). -/
def Core.nextItem (c : Core) : Option Item × Bool :=
  if c.replaying then
    match c.leaveWfe.matchesRec 4 with
    | some r => (c.items.find? fun i => i.cause == r.data.toNat, false)
    | none => if c.nextRec.isNone || c.passedRec then (c.items.head?, true) else (none, false)
  else (c.items.head?, false)

/-- The core waits at this boundary for the item that a replay's next record names. -/
def Core.awaitsItem (c : Core) : Bool := c.replaying && (c.matchesRec 4).isSome

/-- The item that the core takes now, behind halt and pre-emption requests. -/
def Core.taking (c : Core) : Option Item :=
  if c.atBoundary && !c.haltReq && !c.preemptReq && c.mayEnter then c.nextItem.1 else none

/-- The transcript's part in taking an item (R396 to R398), behind the `wfe` that the core leaves. -/
def Core.noteItem (c : Core) (cause : Nat) : Core :=
  let off := c.nextItem.2
  let c := c.leaveWfe
  let c := if off then c.diverged else c
  if c.replaying then c.consume else c.record 4 0 (BitVec.ofNat 64 cause)

/-- Enter an item. -/
def takeItem (cause : Nat) (tval : Word) (clear : Core → Core) (s : State) : Result :=
  .next (s.withdraw.mapCore fun c =>
    let c := (clear c).noteItem cause
    { c.enter cause tval c.pc with hubWait := .none })

/-- `INTERRUPT_TAKE` (R28, R387). -/
def execInterruptTake (s : State) : Result :=
  match s.core.taking with
  | some (.irq i) => takeItem (0x80 + i.val) (s.core.irqVal i) (fun c => c.clearPend (bit6 i)) s
  | _ => .next s

/-- The `TVAL` of a `COPYPF` (R384). -/
def copyPfVal (ch : Chan) (reason va : Nat) : Word :=
  BitVec.ofNat 64 (reason * 2 ^ 58 + ch.val * 2 ^ 56 + va % 2 ^ 56)

/-- `COPYPF_TAKE` (R384). -/
def execCopypfTake (s : State) : Result :=
  match s.core.taking, s.core.copyFault with
  | some .copypf, some (ch, reason, va) => takeItem causeCopyPf (copyPfVal ch reason va) id s
  | _, _ => .next s

/-- `TIMER` at the core in focus (R387). -/
def execTimer (s : State) : Result := .next (s.mapCore fun c => c.pend 1)

/-! ## The host's requests (R31) -/

/-- No request is at the SFU, and no instruction of the sequencer is half performed (R141, R184). -/
def Core.settled (c : Core) : Bool := c.vec.sfuOut.isEmpty && c.vec.seq.all SeqEntry.fresh

/-- A halt request can be taken now: in IDLE at once, in RUN after the sequencer has drained (R141), and in WAIT at once
(R31), but for an instruction of the sequencer that has begun (R184). The entries that the sequencer holds in WAIT are
performed while the core is in HALT, and a trap of one is taken at debug level (DEDUCED, log entry 62). -/
def Core.mayHalt (c : Core) : Bool :=
  match c.run with
  | .idle => true
  | .wait => !c.blocked && !c.isDebug && c.settled
  | .run => !c.blocked && !c.isDebug && c.seqEmpty
  | .halt => false

/-- The host aborts a step: the instruction has no effect (R31). -/
def State.abortStep (s : State) : State :=
  s.abortBars.mapCore fun c => { c with run := .halt, stepping := false, ir := none, hubWait := .none }

/-- `HALT`: taken now, or held until it can be taken. During a step it ends the step; a request that reaches a member
saved on an idle core is held for it (R31, R393), and one that was pending at an `exit` is taken in IDLE (R210). -/
def execHostHalt (s : State) : Result :=
  let c := s.core
  if c.run == .halt then .next s
  else if c.stepping then .next s.abortStep
  else if c.run == .idle && !c.haltReq && s.saved.any fun m => m.cid == s.cid then
    let ask (m : SavedMember) : SavedMember := if m.cid == s.cid then { m with haltReq := true } else m
    .next { s with saved := s.saved.map ask }
  else if c.mayHalt then .next (s.withdraw.mapCore fun c => c.halt s.now)
  else .next (s.mapCore fun c => { c with haltReq := true })

/-- `STEP`: the core executes the instruction at `pc` at debug level. -/
def execHostStep (s : State) : Result :=
  if s.core.run != .halt then .next s
  else .next (s.mapCore fun c => { c with run := .run, stepping := true })

/-- `RESUME`, at a named level or at the halted one. -/
def execHostResume (s : State) : Result :=
  match s.inp with
  | .resume level =>
    if s.core.run != .halt then .next s
    else
      .next (s.mapCore fun c =>
        let pl := match level with
          | some true => Level.kernel
          | some false => Level.user
          | none => c.halted.level
        { c with status := { c.status with pl := pl }, run := c.halted.state }.startWd s.now)
  | _ => .next s

/-- `STOP`: a member's clause ends in a fault, and a core that the host started goes to IDLE (R31, R380). -/
def execHostStop (s : State) : Result :=
  if s.core.run != .halt then .next s
  else
    let pc := s.core.pc
    let s := s.mapCore fun c => { c with status := { c.status with pl := c.halted.level } }
    .next (s.fatal s.cid causeBrk pc 0xFFFFFFFFFFFFFFFC)

/-- A write of the host that is refused and reported. -/
def State.refuseWrite (s : State) : State := { s with host := { s.host with refused := s.host.refused + 1 } }

/-- `HOST_HALTED_WRITE`. -/
def execHostHaltedWrite (s : State) : Result :=
  match s.inp with
  | .write w =>
    if s.core.run != .halt then .next s
    else
      match w with
      | .pc x => .next (s.mapCore fun c => { c with pc := x, entering := false })
      | .store a bs =>
        if inStore a bs.length then .next (s.mapCore fun c => c.landBytes a bs) else .next s.refuseWrite
      | w => .next ((s.hostRegister w).getD s.refuseWrite)
  | _ => .next s

/-! ## Pre-emption: the request and the save (R390, R391) -/

/-- `PREEMPT_REQUEST` at the core in focus; an idle core has nothing to save. -/
def execPreemptRequest (s : State) : Result :=
  if s.core.run == .idle then .next s else .next (s.mapCore fun c => { c with preemptReq := true })

/-- Every channel is empty, stopped at a fault, or held by a join behind a channel that is. -/
def Core.channelsStill (c : Core) : Bool :=
  (List.finRange 4).all fun ch =>
    match c.oldest ch with
    | none => true
    | some x =>
      match x.phase with
      | .stopped _ _ _ => true
      | .queued => !beforeJoins ch c.copy.fifo
      | _ => false

def Core.maySave (c : Core) : Bool :=
  c.preemptReq && c.atBoundary && !c.haltReq && c.settled && c.applying.isNone && c.cnt.st == 0 && c.channelsStill

/-- The core as saved: `CYCLE` at the save, and an exchange with firmware that begins anew. -/
def Core.snapshot (c : Core) (now : Nat) : Core :=
  { c.stopWd now with
    run := .run
    preemptReq := false
    hubWait := .none
    cycOff := c.cycOff + BitVec.ofNat 64 now }

/-- What stays behind: an idle core, bound to nothing and in the context of the saved clause (R223), without the saved
operations and buffers. Its memberships, its place in a population and its transcript region stay. -/
def Core.vacated (c : Core) : Core :=
  { c.toIdle with
    bound := .saved
    outst := []
    cnt := ⟨0, 0, 0, 0, 0, 0⟩
    vec := { c.vec with seq := [], hold := [], resume := none, sfuOut := [] }
    tile := { c.tile with sendWest := none, sendNorth := none, fromEast := none, fromSouth := none, pairs := 0 }
    copy := { c.copy with fifo := [], mcasts := [] }
    inbox := { c.inbox with arrival := [], spill := [] }
    bars := []
    wl := { c.wl with running := none }
    trans := { Transcript.reset with base := c.trans.base, cap := c.trans.cap, out := c.trans.out } }

/-! ## The save area (R391) -/

/-- The bytes of a sidecar: 4 for each slot, as the model places them (DESIGN CHOICE, log entry 25). -/
def VecReg.sidecarBytes (v : VecReg) : List Byte := v.scales.toList.flatMap fun x => toBytesLE 4 x.toNat

/-- The chunk of `v0` to `v47`, their sidecars and `q0` to `q7`. -/
def Regs.vectorChunk (r : Regs) : List Byte :=
  padTo chunkSize ((r.v.toList.flatMap fun v => toBytesLE 64 v.bits.toNat) ++ r.v.toList.flatMap VecReg.sidecarBytes ++
    r.q.toList.flatMap fun x => toBytesLE 16 x.toNat)

/-- Chunk `j` of the area of a core saved in step `n`: the local store, the tiles, the accumulators, the vector registers
with `q`, and the engine's own regions, whose bytes the spec leaves to it (free values, log entry 25). -/
def Core.areaChunk (c : Core) (n j : Nat) : List Byte :=
  if j < 320 then c.ls.readBytes (j * chunkSize) chunkSize
  else if j < 336 then
    toBytesLE chunkSize (fieldOf ((c.regs.t.toList[(j - 320) / 2]?).getD 0).toNat ((j - 320) % 2 * 32768) 32768)
  else if j < 352 then
    toBytesLE chunkSize (fieldOf ((c.regs.z.toList[(j - 336) / 4]?).getD 0).toNat ((j - 336) % 4 * 32768) 32768)
  else if j == 352 then c.regs.vectorChunk
  else (List.range (if j == 383 then chunkSize - 8 else chunkSize)).map fun k => Config.saveByte n (j * chunkSize + k)

/-- The CRC of the area, in its last 8 bytes. -/
def Core.areaCrc (c : Core) (n : Nat) : Nat := crc32c ((List.range areaChunks).flatMap (c.areaChunk n))

/-- Save areas lie in the interleaved pool, by chunk number. -/
def Gmem.areaFree (g : Gmem) (a : Nat) : Bool :=
  decide (a + areaChunks ≤ 16 * g.ni) && g.unused (a * chunkSize) areaSize

/-- Write the area at chunk `a`. -/
def Gmem.saveArea (g : Gmem) (a n : Nat) (c : Core) : Gmem :=
  let g := (List.range areaChunks).foldl (fun g j =>
    let bs := c.areaChunk n j
    let bs := if j == 383 then bs ++ toBytesLE 8 (c.areaCrc n) else bs
    g.setChunk (a + j) ((g.chunk (a + j)).store bs)) g
  { g with areas := g.areas ++ [a] }

/-- The bytes of a stored chunk that are not zero, by offset; none for a malformed chunk. -/
def Chunk.cells (k : Chunk) : Option Memory :=
  if k.md == 0x80 then some []
  else if k.md == 0 && !k.poison then some (k.slot.below chunkSize)
  else k.decode.map fun bs => (bs.zipIdx.map fun (b, o) => (o, b)).filter fun x => x.2 != 0

/-- CRC-32C of `n` bytes of which the cells are listed in rising order and the others are zero, with the checksum so
far and the first offset not yet taken in. -/
def crcCells (x : Nat) (at_ n : Nat) : Memory → Nat
  | [] => crcZeros (n - at_) x
  | (o, b) :: rest => crcCells (crcByte (crcZeros (o - at_) x) b) (o + 1) n rest

/-- The area at chunk `a` can be read, and its CRC is right (R393). -/
def Gmem.areaGood (g : Gmem) (a : Nat) : Bool :=
  match (List.range areaChunks).mapM fun j =>
      ((g.chunk (a + j)).cells).map fun (m : Memory) => m.map fun (o, b) => ((j * chunkSize + o, b) : Nat × Byte) with
  | none => false
  | some cells =>
    let all := cells.flatten
    let body := all.takeWhile fun x => decide (x.1 < areaSize - 8)
    let last := (all.dropWhile fun x => decide (x.1 < areaSize - 8)).map fun (o, b) => b.toNat * 2 ^ (8 * (o - (areaSize - 8)))
    last.sum == (crcCells 0xFFFFFFFF 0 (areaSize - 8) body) ^^^ 0xFFFFFFFF

/-- A save area that firmware has back. -/
def Gmem.areaBack (g : Gmem) (a : Nat) : Gmem := { g with areas := g.areas.erase a }

/-! ## The save (R391) -/

/-- The place of the save area: the chunk number that firmware names, or else one that is free near the pool's end. -/
def State.areaAt (s : State) : Option Nat :=
  match s.inp with
  | .idx a => if s.gmem.areaFree a then some a else none
  | _ => (List.range (s.gmem.areas.length + 64)).findSome? fun k =>
      let a := 16 * s.gmem.ni - (k + 1) * areaChunks
      if s.gmem.areaFree a then some a else none

/-- `CONTEXT_SAVE` into the area that firmware assigns; it reads every register, and one in error ends the clause
(R389). -/
def execContextSave (s : State) : Result :=
  if !s.core.maySave || s.sfuOwes s.cid then .next s
  else if !s.core.badRegs.isEmpty then .next (s.registerError s.core.pc)
  else
    match s.areaAt with
    | none => .next s
    | some a =>
      let s := s.withdraw.settleRots
      let c := s.core
      let m : SavedMember := ⟨s.cid, c.snapshot s.now, [], c.inbox.spillCap, s.now, false, a⟩
      .next { s with saved := s.saved ++ [m], core := c.vacated, gmem := s.gmem.saveArea a s.steps c }

/-! ## Diversion (R390, R392) -/

/-- The operations that a diversion acknowledges. -/
def Packet.ackedAtDivert (p : Packet) : Bool :=
  match p.kind with
  | .read _ _ | .bfree => false
  | .amo _ _ _ _ _ returns => !returns
  | _ => true

/-- Divert an operation to a saved member: refused where its NI would refuse it or the queue is full, and held
otherwise. -/
def State.divert (s : State) (p : Packet) (m : SavedMember) : State :=
  match p.kind with
  | .copy _ _ _ => s.nack p causeCopyFail
  | _ =>
    match s.refusesBy m.core (!m.room) p with
    | some cause => s.nack p cause
    | none =>
      if !m.room then s.nack p p.nackCause
      else
        let s := s.hold m.cid p.ctx (.pkt p)
        if p.ackedAtDivert then s.ack p else s

/-- An answer for a saved member: a reply is held, and a late refusal is recorded with the member's context. -/
def State.divertReply (s : State) (r : Reply) : State :=
  match r.kind with
  | .late cause pc afaddr =>
    { s with saved := s.saved.map fun (m : SavedMember) =>
        if m.cid == r.dst && m.core.ids.ctx.toNat == r.ctx then
          { m with core := m.core.recordFailure (Failure.plain .st cause pc afaddr) }
        else m }
  | _ => s.hold r.dst r.ctx (.reply r)

/-- `PREEMPT_DIVERT` of an arriving operation (one operand) or answer (two operands) for a member saved at the core in
focus. -/
def execPreemptDivert (s : State) : Result :=
  match s.inp with
  | .idx k =>
    match s.net[k]? with
    | none => .next s
    | some p =>
      match s.divertsTo p.dst p.ctx with
      | some m => if p.dst == s.cid && mayArrive s.net k p then .next ((s.takePacket k).divert p m) else .next s
      | none => .next s
  | .two k _ =>
    match s.back[k]? with
    | none => .next s
    | some r =>
      if r.dst == s.cid && (s.divertsTo r.dst r.ctx).isSome then .next ((s.takeAnswer k).divertReply r) else .next s
  | _ => .next s

/-! ## Resume (R393) -/

/-- Redeliver a held operation to the resumed core in focus. -/
def State.redeliverPkt (s : State) (p : Packet) : State :=
  let answer (k : ReplyKind) (s : State) : State := s.answer (p.answer k)
  match p.kind with
  | .write a bs | .copy a bs _ => s.mapCore fun c => c.applyWrite a bs
  | .read a n => answer (.value (BitVec.ofNat 64 (s.core.loadN a n))) s
  | .amo k a n v new returns =>
    let (c, old) := s.core.applyAmo k a n v new
    let s := { s with core := c }
    if returns then answer (.value old) s else s
  | .msg h ws payload => s.mapCore fun c => c.landMsg p h ws payload
  | .mint bit => s.mapCore fun c => c.applyMint bit p.src
  | .bfree => s.mapCore fun c => { c with copy := (c.copy.credit (coreNo p.src)).released }

/-- Write a held reply. -/
def Core.takeReply (c : Core) (r : Reply) : Core :=
  match c.findOut r.tag with
  | none => c
  | some o =>
    match r.kind with
    | .value x => (c.writeReply o x).closeOut o.tag
    | .nack cause => (c.writeReply o 0).refusedOut o cause
    | _ => c.closeOut o.tag

def State.redeliver (s : State) (h : Held) : State :=
  match h with
  | .pkt p => s.redeliverPkt p
  | .reply r => s.mapCore fun c => c.takeReply r
  | .sound a bs => s.mapCore fun c => (c.landBytes a bs).setLatch

/-- The bytes of chunk `j` of the area at chunk `a`. -/
def Gmem.areaBytes (g : Gmem) (a j : Nat) : List Byte := ((g.chunk (a + j)).decode).getD []

/-- The local store that an area holds. -/
def Gmem.areaStore (g : Gmem) (a : Nat) : Memory :=
  (List.range 320).foldl (fun m j => m.writeBytes (j * chunkSize) (g.areaBytes a j)) []

/-- `n` of the bytes as a number. -/
def numAt (bs : List Byte) (o n : Nat) : Nat := ofBytesLE ((bs.drop o).take n)

/-- The register files with the tiles, the accumulators and the vector registers that an area holds. -/
def Regs.fromArea (r : Regs) (g : Gmem) (a : Nat) : Regs :=
  let tiles := g.areaBytes a
  let vs := g.areaBytes a 352
  { r with
    t := Vector.ofFn fun k : Fin 8 => BitVec.ofNat 65536 (ofBytesLE (tiles (320 + 2 * k) ++ tiles (321 + 2 * k)))
    z := Vector.ofFn fun k : Fin 4 =>
      BitVec.ofNat 131072 (ofBytesLE ((List.range 4).flatMap fun i => tiles (336 + 4 * k + i)))
    v := Vector.ofFn fun k : Fin 48 =>
      ⟨BitVec.ofNat 512 (numAt vs (64 * k) 64),
        Vector.ofFn fun i : Fin 4 => BitVec.ofNat 20 (numAt vs (3072 + 16 * k + 4 * i) 4)⟩
    q := Vector.ofFn fun k : Fin 8 => BitVec.ofNat 128 (numAt vs (3840 + 16 * k) 16) }

/-- The core with what the regions of the area below 0x16_1000 hold; the others are private to the engine, and what the
member had there is restored (R391, log entry 25). -/
def Core.fromArea (c : Core) (g : Gmem) (a : Nat) : Core :=
  { c with ls := g.areaStore a, regs := c.regs.fromArea g a }

/-- The core as restored: `CYCLE` goes on from its saved value, and the memberships, the place in a population, the
transcript region and the spill region are those of the NI and of firmware. `IBCOUNT.TOTSPILL` is a system register like
the others and goes on from its saved value (R235, R391; DESIGN CHOICE, log entry 78). -/
def Core.restored (live saved : Core) (now : Nat) : Core :=
  { saved with
    cycOff := saved.cycOff - BitVec.ofNat 64 now
    wdFrom := now
    inbox := { saved.inbox with spillBase := live.inbox.spillBase, spillCap := live.inbox.spillCap }
    trans := { saved.trans with base := live.trans.base, cap := live.trans.cap, ahead := none }
    snd := { saved.snd with members := live.snd.members, early := live.snd.early }
    sce := { saved.sce with
      genno := live.sce.genno, midx := live.sce.midx, pop := live.sce.pop, member := live.sce.member
      elite := live.sce.elite, repl := live.sce.repl, phase := .none } }

/-- Restore a member: an area that cannot be read, or whose CRC is wrong, ends its clause; otherwise the queue is
redelivered, `PREEMPT` is set, and a held halt request is pending. Messages of other contexts that another clause has
left in the queue are refused, as at a bind (R236; DEDUCED, log entry 69). -/
def State.resumeMember (s : State) (m : SavedMember) : State :=
  let s := (s.refuseOthers s.cid m.core.ids.ctx.toNat).settleRots
  let good := s.gmem.areaGood m.area
  let core := s.core.restored m.core s.now
  let s := { s with
    saved := s.saved.filter fun x => x != m
    core := if good then core.fromArea s.gmem m.area else core
    gmem := s.gmem.areaBack m.area }
  let s := s.mapCore fun c => { c with haltReq := m.haltReq }
  if !good then s.fatal s.cid causeEccLocal m.core.pc 0xFFFFFFFFFFFFFFFE
  else (m.held.foldl State.redeliver s).mapCore fun c => c.pend 0

/-- `CONTEXT_RESUME` of the saved member that the operand selects, at its idle core. -/
def execContextResume (s : State) : Result :=
  match s.inp with
  | .idx k =>
    match s.saved[k]? with
    | none => .next s
    | some m => if m.cid != s.cid || s.core.run != .idle then .next s else .next (s.resumeMember m)
  | _ => .next s

end Sys2Proof.Machine
end

