-- ==== Sys2Proof/Machine/Fabric.lean ====
section
/-! DEFINITION. The Limdin ports as this package sees them (R407, R410 to R415): flits, replays and link failures,
rekeying, routing and training. -/

namespace Sys2Proof.Machine

def State.port (s : State) (k : Nat) : Port := s.fabric.ports.toList.getD k Port.reset

/-- Change the bank `b` of two. -/
def setBank (v : Vector Bank 2) (b : Bool) (x : Bank) : Vector Bank 2 := if b then v.set 1 x else v.set 0 x

def bankOf (v : Vector Bank 2) (b : Bool) : Bank := if b then v.get 1 else v.get 0

/-! ## Delivery -/

/-- The route on which a body travels. -/
def FlitBody.ordered : FlitBody → Bool
  | .packet p => p.ordered
  | .reply _ | .barSum _ _ | .barRelease _ => false
  | _ => true

/-- Hand a body that has arrived to the service that it is for. -/
def State.deliver (s : State) (b : FlitBody) : State :=
  match b with
  | .packet p => { s with net := s.net ++ [p] }
  | .reply r => { s with back := s.back ++ [r] }
  | .soundReq r => { s with sound := { s.sound with toHome := s.sound.toHome ++ [r] } }
  | .soundCopy c => { s with sound := { s.sound with copies := s.sound.copies ++ [c] } }
  | .soundAnswer r => s.homeAnswer r
  | .steal ts => (s.stealArrive ts).stealDone
  | .stealAsk pkg => { s with wl := { s.wl with stealAsked := s.wl.stealAsked ++ [pkg] } }
  | .link => s
  | b => { s with fabric := { s.fabric with inbox := s.fabric.inbox ++ [b] } }

/-! ## Links that go down (R414, R415) -/

/-- A stamped store that no path carries any more: a negative answer at its home, and its number follows as no-op; a
change waits for a path. -/
def State.loseCopy (s : State) (c : SoundCopy) : State :=
  if c.st.change.isSome then s.transmitOrPark (pkgOf c.dest) true (.soundCopy c)
  else (s.transmitOrPark (pkgOf c.dest) true (.soundCopy { c with st := c.st.skipped })).tellHome (c.st.answer c.dest false)

/-- What becomes of a body that no path carries any more. -/
def State.lose (s : State) (b : FlitBody) : State :=
  match b with
  | .packet p =>
    match p.kind with
    | .copy _ _ _ => s.nack p causeLost
    | .bfree => s
    | _ => s.nack p p.nackCause
  | .soundReq r => { s with sound := { s.sound with sums := s.sound.sums ++ [r.refusal] } }
  | .soundCopy c => s.loseCopy c
  | .steal ts => s.stealArrive ts
  | .sceData x _ _ => if pkgOf x.l.winner == s.pkg then s.endJob x (some x.pos) else s.ackCopy x false
  | _ => s

/-- A body between the SCEs, the worklists or the barriers of two packages, which waits where no path stands. -/
def FlitBody.patient : FlitBody → Bool
  | .sceMsg _ | .sceClose _ _ _ | .sceRelease _ _ _ _ | .sceAsk _ | .sceAck _ _ | .sceDone _ _ | .barSum _ _
  | .barRelease _ | .waveAsk _ | .waveAnswer _ | .terminated _ | .wlArm _ | .soundDone _ | .soundAnswer _ => true
  | _ => false

/-- Send a body on towards its package: by a path that stands, or, where it can wait for one, later. -/
def State.pass (s : State) (pkg : Nat) (b : FlitBody) : State :=
  if b.patient then s.transmitOrPark pkg b.ordered b else (s.transmit pkg b.ordered b).getD (s.lose b)

/-- The operation behind an unacknowledged flit fails (R414); other bodies go by another path where one stands. -/
def State.failFlit (s : State) (f : Flit) : State :=
  match f.body with
  | .packet _ | .soundReq _ | .soundCopy _ | .sceData _ _ _ => s.lose f.body
  | b => s.pass f.dpkg b

/-- A flit that has not been sent goes by another path. -/
def State.reroute (s : State) (f : Flit) : State :=
  s.pass f.dpkg f.body

/-- A path of either route leads to a package. -/
def State.reaches (s : State) (pkg : Nat) : Bool := (s.portTo pkg true).isSome || (s.portTo pkg false).isSome

/-- The home stamps the revocation of every member that it can no longer reach (R415). -/
def State.revokeUnreached (s : State) : State :=
  s.sound.groups.foldl (fun s (gidx, g) =>
    g.members.foldl (fun s m =>
      match s.group gidx with
      | none => s
      | some g =>
        let gone := pkgOf m.cid != s.pkg && !m.revoked && !s.reaches (pkgOf m.cid)
        if gone && g.nextSeq != 0 && (g.state == .active || g.state == .degraded) then
          s.stampChange gidx g (.revoke m.cid true)
        else s) s) s

/-- One flit of each body among these. -/
def bodiesIn (fs : List Flit) : List Flit :=
  fs.foldl (fun l f => if l.any fun g => g.no == f.no then l else l ++ [f]) []

/-- A link goes down. A body with an unacknowledged flit fails, and one of which none is on its way goes by another path. -/
def State.linkDown (s : State) (k : Nat) : State :=
  let p := s.port k
  let s := s.onPort k fun p => { p with up := false, replay := [], queue := [], fails := 0, replayed := none }
  let failed := bodiesIn p.replay
  let s := failed.foldl State.failFlit s
  let s := ((bodiesIn p.queue).filter fun f => !(failed.any fun g => g.no == f.no)).foldl State.reroute s
  s.revokeUnreached.firmwareIrq irqLink

/-! ## Flits (R411, R412, R414) -/

/-- The header (R411). -/
def Flit.header (f : Flit) : Word :=
  BitVec.ofNat 64 (f.typ.toNat + f.vc.toNat * 2 ^ 8 + bit f.kg * 2 ^ 12 + f.seq.toNat * 2 ^ 16 + f.dpkg % 4096 * 2 ^ 48)

/-- Bytes 0 to 251, and the whole flit. -/
def Flit.covered (f : Flit) : List Byte := toBytesLE 8 f.header.toNat ++ f.sealed
def Flit.bytes (f : Flit) : List Byte := f.covered ++ toBytesLE 4 f.lcrc.toNat

/-- The IV of a bank's next flit (R412). -/
def Bank.iv (b : Bank) : BitVec 96 := b.salt ++ BitVec.ofNat 64 b.count

/-- The payload and the tag under a bank. -/
def Bank.protect (b : Bank) (header : Word) : List Byte := (List.range 244).map (Config.sealedByte b.key b.iv header)

/-- A flit protected under a bank, with its `LCRC`. -/
def Bank.sealFlit (b : Bank) (f : Flit) : Flit :=
  let f := { f with sealed := b.protect f.header }
  { f with lcrc := BitVec.ofNat 32 (crc32c f.covered) }

/-- The checks of an arriving flit: its `LCRC`, its tag under the bank that its own `KG` names, and its number. -/
def Port.accepts (p : Port) (f : Flit) : Bool :=
  let b := bankOf p.rx f.kg
  p.up && f.lcrc == BitVec.ofNat 32 (crc32c f.covered) && b.loaded && f.sealed == b.protect f.header && f.seq == p.rxSeq

/-- An accepted flit has been counted under its bank. -/
def Port.taken (p : Port) (f : Flit) : Port :=
  let b := bankOf p.rx f.kg
  { p with rxSeq := p.rxSeq + 1, asked := none, rx := setBank p.rx f.kg { b with count := b.count + 1 } }

/-- The beats of a chunk of a copy cross a link that may be watched, or one of them is corrupted, and what comes before it
goes on (R418). -/
def State.crossBody (s : State) (watched : Bool) (b : FlitBody) : State × FlitBody :=
  let left := s.beatsLeft
  match b with
  | .packet p =>
    match p.kind with
    | .copy a bs w =>
      match s.crossBeats watched w.count with
      | some s => (s, b)
      | none =>
        let part := if left == 0 then [] else bs.take (w.lead + left * w.per)
        (s.injFired, .packet { p with kind := .copy a part { w with count := left, lost := true } })
    | _ => (s, b)
  | .sceData x bs _ =>
    match s.crossBeats watched (beatsOf 0 bs.length) with
    | some s => (s, b)
    | none => (s.injFired, .sceData x (bs.take (64 * left)) true)
  | b => (s, b)

/-- The injection watches the link from the hub to the die on which a chunk of a copy lands. -/
def State.landsWatched (s : State) (b : FlitBody) : Bool :=
  match b with
  | .packet p => s.injWatches [hubDie, s.dieOf p.dst]
  | .sceData x _ _ => s.injWatches [hubDie, s.dieOf x.l.cid]
  | _ => false

/-- A body has arrived by a port for this package, whose hub hands it on. -/
def State.arriveBody (s : State) (port : Nat) (b : FlitBody) : State :=
  let (s, b) := s.crossBody (s.injWatchesPort port false || s.landsWatched b) b
  s.deliver b

/-- A body has arrived by a port for another package: it leaves by another port. -/
def State.forward (s : State) (port pkg : Nat) (b : FlitBody) : State :=
  let out : Bool := ((s.portTo pkg b.ordered).map fun k => s.injWatchesPort k true).getD false
  let (s, b) := s.crossBody (s.injWatchesPort port false || out) b
  s.pass pkg b

/-- A flit arrives: it is taken, and its body goes on with its last flit; or it is dropped and a replay is asked for. -/
def State.receiveFlit (s : State) (k : Nat) (f : Flit) : State :=
  if (s.port k).accepts f then
    let s := s.onPort k fun p => p.taken f
    if f.left != 0 then s
    else if f.dpkg == s.pkg then s.arriveBody k f.body
    else s.forward k f.dpkg f.body
  else s.onPort k fun p => { p with asked := some p.rxSeq }

/-- The flits that a transmitter keeps. -/
def replayCap : Nat := 256

/-- The flits that a bank may protect (R412). -/
def bankLimit : Nat := 2 ^ 40

/-- A flit's virtual channel is open: neither end signals stop on it. -/
def Port.open_ (p : Port) (f : Flit) : Bool := !p.stops.getLsbD f.vc.toNat && !p.held.getLsbD f.vc.toNat

/-- The port may send a new flit. -/
def Port.maySend (p : Port) : Bool :=
  p.up && decide (p.replay.length < replayCap) && (bankOf p.tx p.kg).loaded &&
    decide ((bankOf p.tx p.kg).count < bankLimit)

/-- The next new flit of an open channel is sent: it takes its number and its bank, and stays until it is
acknowledged. -/
def Port.sendNext (p : Port) : Port :=
  match p.queue.find? p.open_ with
  | none => p
  | some f =>
    if !p.maySend then p
    else
      let b := bankOf p.tx p.kg
      { p with
        queue := p.queue.erase f
        replay := p.replay ++ [b.sealFlit { f with seq := p.txSeq, kg := p.kg }]
        txSeq := p.txSeq + 1
        tx := setBank p.tx p.kg { b with count := b.count + 1 } }

/-- The other end signals stop or go on a virtual channel (R410). -/
def Port.signal (p : Port) (vc : Nat) (stop : Bool) : Port :=
  let m := BitVec.ofNat 16 (2 ^ (vc % 16))
  { p with held := if stop then p.held ||| m else p.held &&& ~~~m }

/-- The other end acknowledges every flit before a number; the failed replays are counted on until the flit itself is
acknowledged (R414). -/
def Port.acknowledge (p : Port) (seq : BitVec 32) : Port :=
  let kept := p.replay.filter fun f => (f.seq - seq).toNat < 2 ^ 31
  if p.replayed.any fun n => kept.any fun f => f.seq == n then { p with replay := kept }
  else { p with replay := kept, fails := 0, replayed := none }

/-- `FLIT_RECEIVE`: a flit arrives here; or, with one operand, the other end takes the port's next flit; or, with two,
it acknowledges what came before a number; or, with three, it signals stop (1) or go (0) on a virtual channel. -/
def execFlitReceive (s : State) : Result :=
  match s.inp with
  | .flit k f => .next (s.receiveFlit k f)
  | .idx k => .next (s.onPort k Port.sendNext)
  | .two k seq => .next (s.onPort k fun p => p.acknowledge (BitVec.ofNat 32 seq))
  | .three k vc stop => .next (s.onPort k fun p => p.signal vc (stop == 1))
  | _ => .next s

/-- `FLIT_REPLAY`: the other end asks for a replay from a number; the eighth failed replay of one flit takes the link
down. -/
def execFlitReplay (s : State) : Result :=
  match s.inp with
  | .two k seq =>
    let n := BitVec.ofNat 32 seq
    let p := s.port k
    if !p.up || !(p.replay.any fun f => f.seq == n) then .next s
    else if p.replayed == some n then
      if 8 ≤ p.fails + 1 then .next (s.linkDown k)
      else .next (s.onPort k fun p => { p with fails := p.fails + 1 })
    else
      let kept := p.replay.filter fun f => (f.seq - n).toNat < 2 ^ 31
      .next (s.onPort k fun p => { p with replay := kept, fails := 0, replayed := some n })
  | _ => .next s

/-! ## Keys (R412, R413) -/

/-- The bank that a port's next load fills, for sending or for receiving. -/
def Port.newBank (p : Port) (k : Nat) (out : Bool) : Bank := ⟨true, Config.linkKey k p.loads out, Config.linkSalt k p.loads out, 0⟩

/-- Load the banks that are not in use, in both directions. -/
def Port.loadBanks (p : Port) (k : Nat) : Port :=
  { p with
    tx := setBank p.tx (!p.kg) (p.newBank k true), rx := setBank p.rx (!p.rkg) (p.newBank k false), loads := p.loads + 1 }

/-- A rekey whose old banks are retired in both directions has ended. -/
def Rekey.rest (r : Rekey) : Option Rekey := if r.txDone && r.rxDone then none else some r

/-- The step of a rekey that the operand names, by the numbers of R413: 0 the session of the management harts, 1 its
`KEY_UPDATE`, 2 the load at this end, 3 the receiver's confirmation, 4 the switch of the transmitter, 6 the retirement of
its old bank, and 7 the other end's word, by which this end retires the old bank of what it receives. Step 5 is every
flit's own. A step out of its turn changes nothing. -/
def Port.rekey (p : Port) (k n : Nat) : Port :=
  match n, p.rekeying with
  | 0, _ => if p.up then { p with session := true } else p
  | 1, none => if p.session then { p with rekeying := some ⟨false, false, false, false, false⟩ } else p
  | 2, some r => if r.loaded then p else { p.loadBanks k with rekeying := some { r with loaded := true } }
  | 3, some r => if r.loaded then { p with rekeying := some { r with confirmed := true } } else p
  | 4, some r =>
    if r.confirmed && !r.switched then
      { p with kg := !p.kg, stops := 0, rekeying := some { r with switched := true } }
    else p
  | 6, some r =>
    if r.switched && !r.txDone && p.replay.all fun f => f.kg == p.kg then
      { p with tx := setBank p.tx (!p.kg) Bank.reset, rekeying := { r with txDone := true }.rest }
    else p
  | 7, some r =>
    if r.loaded && !r.rxDone then
      { p with rx := setBank p.rx p.rkg Bank.reset, rkg := !p.rkg, rekeying := { r with rxDone := true }.rest }
    else p
  | _, _ => p

/-- `REKEY` of a port: the step of R413 that the operand names. -/
def execRekey (s : State) : Result :=
  match s.inp with
  | .two k n => .next (s.onPort k fun p => p.rekey k n)
  | _ => .next s

/-- `KEY_COUNTER_LIMIT`: at 2^40 flits the port signals stop on every virtual channel, and firmware is interrupted. -/
def execKeyCounterLimit (s : State) : Result :=
  match s.inp with
  | .idx k =>
    let p := s.port k
    if p.stops == BitVec.allOnes 16 || (bankOf p.tx p.kg).count < bankLimit then .next s
    else .next ((s.onPort k fun p => { p with stops := BitVec.allOnes 16 }).firmwareIrq irqKeys)
  | _ => .next s

/-! ## Routes and training (R407, R410, R414) -/

/-- `ROUTE_REMOVAL` of a link that is down; a home revokes the members that it no longer reaches (R415). -/
def execRouteRemoval (s : State) : Result :=
  match s.inp with
  | .idx k =>
    if (s.port k).up then .next s
    else
      let routes := (s.fabric.routes.map fun r => (r.1, r.2.filter fun x => x != k)).filter fun r => !r.2.isEmpty
      let ordered := s.fabric.ordered.filter fun r => r.2 != k
      .next ({ s with fabric := { s.fabric with routes := routes, ordered := ordered } } : State).revokeUnreached
  | _ => .next s

/-- The bodies that waited for a path are sent, where one stands now. -/
def State.unpark (s : State) : State :=
  s.fabric.parked.foldl (fun s x => s.transmitOrPark x.1 x.2.1 x.2.2) { s with fabric := { s.fabric with parked := [] } }

/-- `ROUTING_TABLE_WRITE`; a home revokes the members that it no longer reaches (R415). -/
def execRoutingTableWrite (s : State) : Result :=
  match s.inp with
  | .routes table ordered =>
    .next (({ s with fabric := { s.fabric with routes := table, ordered := ordered } }).unpark.revokeUnreached)
  | _ => .next s

/-- The highest set bit of a number below 2^16. -/
def highestBit (n : Nat) : Option Nat := (List.range 16).reverse.find? fun k => n / 2 ^ k % 2 == 1

/-- `LIMDIN_LINK_TRAINING` of a port with the two ends' bitmaps: after `READY` the highest common revision is taken, and
a first key bank is loaded. -/
def execLimdinLinkTraining (s : State) : Result :=
  match s.inp with
  | .three k own other =>
    if !s.host.ready then .next s
    else
      match highestBit (own &&& other) with
      | none => .next s
      | some r =>
        .next (s.onPort k fun p =>
          { Port.reset with
            trained := true, up := true, rev := r, queue := p.queue, bodies := p.bodies
            tx := setBank Port.reset.tx false (p.newBank k true)
            rx := setBank Port.reset.rx false (p.newBank k false)
            loads := p.loads + 1 })
  | _ => .next s

end Sys2Proof.Machine
end

