-- ==== Sys2Proof/Machine/Sha256.lean ====
section
/-! DEFINITION. The SHA-256 digest with which the boot ROM hashes public keys and the security engine measures
images (R408, R409). FIPS 180-4 defines it; here its working words and its message words are two shift registers, and
its constants are computed from the primes whose roots they are. -/

namespace Sys2Proof.Machine

/-- The largest `r` below `2 ^ n` over `r`'s fixed upper bits with `r ^ e ≤ x`, found bit by bit. -/
def rootBelow (e x : Nat) : Nat → Nat → Nat
  | 0, r => r
  | n + 1, r => rootBelow e x n (if (r + 2 ^ n) ^ e ≤ x then r + 2 ^ n else r)

/-- The first 32 bits of the fraction of the `e`-th root of `p`. -/
def rootFraction (e p : Nat) : BitVec 32 := BitVec.ofNat 32 (rootBelow e (p * 2 ^ (32 * e)) 35 0)

/-- The primes below 312: the first 64 of them. -/
def shaPrimes : List Nat :=
  ((List.range 310).map (· + 2)).filter fun p => ((List.range 16).map (· + 2)).all fun d => p ≤ d || p % d != 0

/-- The 32-bit lanes of a register, the least significant first. -/
def lane {n : Nat} (x : BitVec n) (k : Nat) : BitVec 32 := x.extractLsb' (32 * k) 32

/-- A register of 256 bits from its lanes, the most significant first. -/
def ofLanes (ws : List (BitVec 32)) : BitVec 256 :=
  ws.foldl (fun acc w => acc <<< 32 ||| w.setWidth 256) 0

/-- Lane by lane, without a carry from one to the next. -/
def addLanes (x y : BitVec 256) : BitVec 256 :=
  ofLanes ((List.range 8).reverse.map fun k => lane x k + lane y k)

/-- Three rotations of a word to the right, added in GF(2). -/
def rotated (x : BitVec 32) (i j k : Nat) : BitVec 32 := x.rotateRight i ^^^ x.rotateRight j ^^^ x.rotateRight k

/-- The register of the working words moves down by a lane (the lowest word leaves it, mixed with `kw`); the middle
word takes the mix on top of it, and a new word enters above. -/
def shaTurn (x : BitVec 256) (kw : BitVec 32) : BitVec 256 :=
  let pick := lane x 1 ^^^ (lane x 3 &&& (lane x 2 ^^^ lane x 1))
  let most := (lane x 7 &&& (lane x 6 ||| lane x 5)) ||| (lane x 6 &&& lane x 5)
  let mix := kw + lane x 0 + pick + rotated (lane x 3) 6 11 25
  (mix + most + rotated (lane x 7) 2 13 22) ++ x.extractLsb' 160 96 ++ (lane x 4 + mix) ++ x.extractLsb' 32 96

/-- The register of the message words gives its top lane and takes, below, the word 16 places on. -/
def shaFeed (m : BitVec 512) : BitVec 512 :=
  let near := rotated (lane m 14) 7 18 0 ^^^ lane m 14 ^^^ lane m 14 >>> 3
  let far := rotated (lane m 1) 17 19 0 ^^^ lane m 1 ^^^ lane m 1 >>> 10
  m.extractLsb' 0 480 ++ (lane m 15 + near + lane m 6 + far)

/-- One block into the chaining value. -/
def shaBlock (x : BitVec 256) (block : BitVec 512) : BitVec 256 :=
  addLanes x (shaPrimes.foldl
    (fun (acc : BitVec 256 × BitVec 512) p => (shaTurn acc.1 (rootFraction 3 p + lane acc.2 15), shaFeed acc.2))
    (x, block)).1

/-- The chaining value before the first block. -/
def shaSeed : BitVec 256 := ofLanes ((shaPrimes.take 8).map (rootFraction 2))

/-- The message with a one bit, zeros and its length in bits after it, as one number of whole blocks. -/
def shaPadded (bs : List Byte) : Nat × Nat :=
  let blocks := (bs.length + 9 + 63) / 64
  (blocks, (ofBytesLE bs.reverse * 256 + 0x80) * 256 ^ (64 * blocks - bs.length - 1) + 8 * bs.length)

def sha256 (bs : List Byte) : BitVec 256 :=
  let (blocks, m) := shaPadded bs
  (List.range blocks).foldl (fun x k => shaBlock x (BitVec.ofNat 512 (m >>> (512 * (blocks - 1 - k))))) shaSeed

end Sys2Proof.Machine
end

