-- ==== Sys2Proof/Machine/HostEv.lean ====
section
/-! DEFINITION. The host's mailbox commands (R402, R404, R405, R408, R417), attestation (R409), bring-up (R406, R407)
and power (R416). -/

namespace Sys2Proof.Machine

def State.onHost (s : State) (f : HostSide → HostSide) : State := { s with host := f s.host }

/-! ## Commands -/

/-- The injection register as a write leaves it (R417). -/
def LinkInj.write (i : LinkInj) (x : Word) : LinkInj where
  after := BitVec.ofNat 32 (fieldOf x.toNat 16 32)
  fired := if x.getLsbD 8 then false else i.fired
  arm := x.getLsbD 8
  dir := x.getLsbD 7
  link := BitVec.ofNat 5 x.toNat
  beats := 0

/-- `LFINJ_WRITE`: refused while `DBGEN` is 0, and for links 24 to 31. -/
def execLfinjWrite (s : State) : Result :=
  match s.inp with
  | .inj x =>
    if !s.host.dbgen || 24 ≤ x.toNat % 32 then .next s.refuseWrite
    else .next (s.onHost fun h => { h with inj := h.inj.write x })
  | _ => .next s

/-- `DBGEN_SET`. -/
def execDbgenSet (s : State) : Result := .next (s.onHost fun h => { h with dbgen := true })

/-- `DBGEN_CLEAR`: every armed injection is disarmed (R405). -/
def execDbgenClear (s : State) : Result :=
  .next (s.onHost fun h => { h with dbgen := false, inj := { h.inj with arm := false } })

def HostSide.onDie (h : HostSide) (k : Nat) (f : Die → Die) : HostSide :=
  if hk : k < 7 then { h with dies := h.dies.set k (f (h.dies.get ⟨k, hk⟩)) } else h

/-- `FUSED_MINIMUM_RAISE` of a die. -/
def execFusedMinimumRaise (s : State) : Result :=
  match s.inp with
  | .two die v => .next (s.onHost fun h => h.onDie die fun d => { d with fusedMin := if d.fusedMin < BitVec.ofNat 16 v then BitVec.ofNat 16 v else d.fusedMin })
  | _ => .next s

/-- `BAR4_WINDOW_PLACE`. -/
def execBar4WindowPlace (s : State) : Result :=
  match s.inp with
  | .idx off => .next (s.onHost fun h => { h with bar4 := off })
  | _ => .next s

/-- `HUBSTAT_WRITE`: `SUBERR` is cleared by writing 1 to it; no other field is writable. -/
def execHubstatWrite (s : State) : Result :=
  match s.inp with
  | .inj x => .next (s.onHost fun h => { h with suberr := h.suberr && !x.getLsbD 2 })
  | _ => .next s

/-- `HUBSTAT` as the host reads it (R404). -/
def HostSide.hubstat (h : HostSide) : Word :=
  BitVec.ofNat 64 (h.protrev.toNat * 2 ^ 40 + h.secver.toNat * 2 ^ 32 + h.code.toNat * 2 ^ 24 +
    h.step % 16 * 2 ^ 20 + bit h.dbgen * 8 + bit h.suberr * 4 + bit h.fail * 2 + bit h.ready)

/-! ## The endpoint's BARs (R402) -/

/-- The firmware's report (R319, R322, R389, R401): the chunk counters of the dies, the corrected counts of the stacks,
the die of each slice and of each stack, the frames of the interleaved pool, the near pools, and the corrected counts of
the SRAM arrays. Its order is the model's (DESIGN CHOICE, log entry 70). -/
def State.telemetry (s : State) : List Word :=
  let g := s.gmem
  let num (n : Nat) : Word := BitVec.ofNat 64 n
  (g.counters.toList.flatMap fun k => [k.lrd, k.lwr, k.rrd, k.rwr]) ++ (g.corrected.toList.map fun n => num n.toNat) ++
    (g.sliceDie.toList.map fun d => num d.val) ++ (g.stackDie.toList.map fun d => num d.val) ++ [num g.ni] ++
    (g.near.toList.flatMap fun r => [num r.1, num r.2]) ++ s.host.sram.counts.map fun x => num x.2.toNat

/-- A byte of BAR 0: `HUBSTAT`, the mailbox, and the telemetry pages. -/
def State.bar0Byte (s : State) (off : Nat) : Byte :=
  if off < 8 then BitVec.ofNat 8 (fieldOf s.host.hubstat.toNat (8 * off) 8)
  else if 0x1000 ≤ off && off < 0x2000 then Config.mailbox s.steps (off - 0x1000)
  else if 0x8000 ≤ off then BitVec.ofNat 8 (fieldOf (s.telemetry.getD ((off - 0x8000) / 8) 0).toNat (8 * (off % 8)) 8)
  else 0

/-- A byte of a submission page: the slots, `P` and `C` (R403). -/
def LaunchQueue.pageByte (q : LaunchQueue) (off : Nat) : Byte :=
  let part (n o : Nat) : Byte := BitVec.ofNat 8 (fieldOf n (8 * o) 8)
  if off < 0xFC0 then part (q.slots.toList.getD (off / 64) 0).toNat (off % 64)
  else if off < 0xFC4 then part q.prod (off - 0xFC0)
  else if 0xFC8 ≤ off && off < 0xFCC then part q.cons (off - 0xFC8)
  else 0

/-- A byte of BAR 2: all ones before `READY`. -/
def State.bar2Byte (s : State) (off : Nat) : Byte :=
  if s.host.ready then (s.hub.queue (off / 4096)).pageByte (off % 4096) else 0xFF

/-- The sizes of the BARs. -/
def bar0Size : Nat := 2 ^ 16
def bar2Size : Nat := 2 ^ 18
def bar4Size : Nat := 2 ^ 36

/-- What the host reads at an offset of BAR 0 or BAR 2. -/
def State.barRead (s : State) (bar off len : Nat) : Option (List Byte) :=
  let bytes (f : Nat → Byte) : List Byte := (List.range len).map fun k => f (off + k)
  if bar == 0 && off + len ≤ bar0Size then some (bytes s.bar0Byte)
  else if bar == 2 && off + len ≤ bar2Size then some (bytes s.bar2Byte)
  else none

/-- `HOST_MEMORY_ACCESS` through BAR 4: before `READY` a read returns all ones and a write is discarded. A read of BAR 0
or BAR 2 is the host's too; writes of BAR 2 are `PRODUCER_INDEX_WRITE`. -/
def execHostMemoryAccess (s : State) : Result :=
  let answer (bs : List Byte) : Result :=
    .next { s with host := { s.host with answer := bs.map fun b => b.setWidth 64 } }
  match s.inp with
  | .hostBar bar off len =>
    match s.barRead bar off len with
    | some bs => answer bs
    | none => .next s
  | .hostMem off bytes len =>
    if bar4Size < off + len then .next s
    else
      match bytes with
      | none => answer (if s.host.ready then s.gmem.readSlots (s.host.bar4 + off) len else List.replicate len 0xFF)
      | some bs =>
        if s.host.ready && bs.length == len then .next { s with gmem := s.gmem.writeSlots (s.host.bar4 + off) bs }
        else .next s
  | _ => .next s

/-! ## Attestation (R409) -/

/-- The argument of a request. -/
def State.arg (s : State) : Nat :=
  match s.inp with
  | .idx n => n
  | _ => 0

/-- Answer a request of the given code with words that the security engine makes. -/
def spdm (code : Nat) (s : State) : Result :=
  .next (s.onHost fun h => { h with answer := Config.spdmAnswer code s.arg s.steps })

/-- `GET_VERSION`: version 1.4, as the one byte 0x14 (PRESUMED, log entry 83). -/
def execGetVersion (s : State) : Result := .next (s.onHost fun h => { h with answer := [0x14] })

def execGetCapabilities (s : State) : Result := spdm 1 s
def execNegotiateAlgorithms (s : State) : Result := spdm 2 s
def execGetDigests (s : State) : Result := spdm 3 s
def execGetCertificate (s : State) : Result := spdm 4 s
def execChallenge (s : State) : Result := spdm 5 s

/-- A hash as words, its first bytes in the first word. -/
def hashWords (h : BitVec 256) : List Word := (List.range 4).map fun k => BitVec.ofNat 64 (fieldOf h.toNat (192 - 64 * k) 64)

/-- The value of a measurement block: the SHA-256 hashes of the hub's image and of those of the compute dies, the fused
minima, `PROTREV` and `DBGEN`. -/
def HostSide.measurement (h : HostSide) (block : Nat) : List Word :=
  let image (k : Nat) : List Word := hashWords (sha256 (((h.dies.toList[k]?).map (·.image)).getD []))
  if block == 1 then image 6
  else if 2 ≤ block && block ≤ 7 then image (block - 2)
  else if block == 8 then h.dies.toList.map fun d => d.fusedMin.setWidth 64
  else if block == 9 then [h.protrev.setWidth 64]
  else if block == 10 then [BitVec.ofNat 64 (bit h.dbgen)]
  else []

/-- The signature of the device attestation key over words, which no step reads (R409). -/
def signWords (ws : List Word) (step : Nat) : List Word :=
  Config.deviceSig (sha256 (ws.flatMap fun w => toBytesLE 8 w.toNat)) step

/-- `GET_MEASUREMENTS` of a block; a flag asks for the device key's signature behind it. -/
def execGetMeasurements (s : State) : Result :=
  let answer (ws : List Word) : Result := .next (s.onHost fun h => { h with answer := ws })
  match s.inp with
  | .flag block true =>
    let ws := s.host.measurement block
    answer (ws ++ signWords ws s.steps)
  | .flag block false => answer (s.host.measurement block)
  | _ => answer (s.host.measurement s.arg)

/-! ## Bring-up (R406 to R408) -/

/-- What firmware assigns at bring-up is what R10, R319 and R401 allow: two stacks, 16 slices and 16 clusters on each
die, and an interleaved pool whose frames are a multiple of 3. -/
def PowerIn.ok (p : PowerIn) : Bool :=
  p.ni % 3 == 0 && decide (p.ni ≤ 0xC00000) &&
    (List.finRange 6).all fun d => p.stackDie.toList.count d == 2 && p.sliceDie.toList.count d == 16 &&
      p.clusterDie.toList.count d == 16

/-- The near pool of each die: what the interleaved pool leaves of its two stacks, as large for every die, and in the order
of the dies (R319; DESIGN CHOICE, log entry 79). -/
def nearPools (ni : Nat) : Vector (Nat × Nat) 6 :=
  let n := (0xC00000 - ni) / 6
  Vector.ofFn fun d : Fin 6 => (ni + n * d.val, n)

/-- The die's fuses with a new image. -/
def Die.withImage (old new : Die) : Die :=
  { new with
    fusedMin := old.fusedMin, keyHashes := old.keyHashes, revoked := old.revoked, stepDone := false, ready := false }

/-- `POWER_UP`, or a package reset, with the images that the dies hold and what firmware assigns; the fuses keep their
values. -/
def execPowerUp (s : State) : Result :=
  match s.inp with
  | .power p =>
    if !p.ok then .next s
    else
      let die (k : Fin 7) : Die := (s.host.dies.get k).withImage (p.dies.getD k.val Die.reset)
      .next { State.reset with
        cid := cidOf p.pkg.toNat 0 0
        gmem := { Gmem.reset with
          ni := p.ni, near := nearPools p.ni
          sliceDie := p.sliceDie, stackDie := p.stackDie, clusterDie := p.clusterDie }
        host := { HostSide.reset with powered := true, step := 1, dies := Vector.ofFn die }
        turns := s.turns
        steps := s.steps }
  | _ => .next s

/-- A bring-up runs. -/
def HostSide.bringing (h : HostSide) : Bool := h.powered && !h.ready && !h.fail

def HostSide.failStep (h : HostSide) (code : BitVec 8) : HostSide := { h with fail := true, code := code }

/-- Every die has finished a step: the package moves on, or the step fails. -/
def HostSide.finishStep (h : HostSide) : HostSide :=
  let next : HostSide := { h with step := h.step + 1, dies := h.dies.map fun d => { d with stepDone := false } }
  match h.step with
  | 2 =>
    match highestBit ((h.dies.toList.map fun d => d.revs.toNat).foldl (· &&& ·) 0xFFFF) with
    | some r => { next with protrev := BitVec.ofNat 8 r }
    | none => h.failStep 0x21
  | 5 => { next with secver := BitVec.ofNat 8 (((h.dies.toList.map fun d => d.secver.toNat).min?).getD 0) }
  | 6 => { h with ready := true }
  | _ => next

/-- The image's signature verifies under a fused key that is not revoked (R408). -/
def Die.signed (d : Die) : Bool :=
  d.sigOk && d.keyHashes.toList.zipIdx.any fun (x, k) =>
    x == sha256 (toBytesLE 32 d.pubKey.toNat).reverse && !d.revoked.getLsbD k

/-- A die's own work in a step: its stores are initialised in step 4, and its image is checked in step 5. -/
def HostSide.dieStep (h : HostSide) (k : Nat) : HostSide :=
  match h.dies.toList[k]? with
  | none => h
  | some d =>
    if h.step == 5 && !d.signed then h.failStep 0x51
    else if h.step == 5 && d.secver < d.fusedMin then h.failStep 0x52
    else
      let h := h.onDie k fun d => { d with stepDone := true, ready := d.ready || h.step == 4 }
      if h.dies.toList.all (·.stepDone) then h.finishStep else h

/-- Step 6: the hub's tables are cleared, and every core is set to cold reset in IDLE, from which its `CYCLE`
counts. -/
def State.coldStart (s : State) : State :=
  { s with
    now := 0
    host := { s.host with ports := s.host.ports.map fun p => { p with last := 0 } }
    core := Core.reset, others := [], net := [], back := [], sfu := [], bars := [], barConfigs := []
    gmem := { s.gmem with writes := [] }
    hub := Hub.reset, wl := Worklist.reset, sound := ⟨[], [], [], [], s.sound.created⟩, sce := ⟨[], [], []⟩, saved := [] }

/-- `BRINGUP_STEP_DONE` of a die. -/
def execBringupStepDone (s : State) : Result :=
  match s.inp with
  | .idx k =>
    if !s.host.bringing then .next s
    else
      let s' := s.onHost fun h => h.dieStep k
      if s'.host.ready then .next s'.coldStart else .next s'
  | _ => .next s

/-- `BRINGUP_STEP_LIMIT`: the step in progress has passed its limit. -/
def execBringupStepLimit (s : State) : Result :=
  if !s.host.bringing then .next s
  else .next (s.onHost fun h => h.failStep (Config.limitCode h.step))

/-! ## Power (R416) -/

/-- `POWER_SAMPLE` of the package's power in watts. -/
def execPowerSample (s : State) : Result :=
  match s.inp with
  | .idx w =>
    .next (s.onHost fun h =>
      if 2500 < w then { h with clock := max 1200 (h.clock - 100) }
      else if w < 2500 then { h with clock := min 2000 (h.clock + 100) }
      else h)
  | _ => .next s

/-- The cores that run a clause or a start. -/
def State.busyCores (s : State) : List Nat := (s.listed.filter fun c => c.2.run != .idle).map (·.1)

/-- A clause of which every member still in it is saved ends in a fault, whose record names the first of them. -/
def State.endSaved (s : State) (b : Bind) (cause : Nat) (tval : Word) : State :=
  match s.saved.find? fun m => m.core.inClause b.clause with
  | none => s
  | some m =>
    s.onHub fun h =>
      let mark (x : Bind) : Bind := if x.started && x.clause == b.clause then { x with faulted := true } else x
      ({ h with binds := h.binds.map mark }).freeze b.entry.queue ⟨m.cid, cause, m.core.pc, tval, BitVec.ofNat 64 b.clause⟩

/-- The value of the thermal trip's fault records (R416). -/
def tripTval : Word := 0xFFFFFFFFFFFFFFFD

/-- `THERMAL_TRIP`: every core stops, every clause ends in a fault, one whose members are saved among them, firmware is
interrupted, and the package waits for a reset. -/
def execThermalTrip (s : State) : Result :=
  let s := s.busyCores.foldl (fun s cid => s.fatal cid causeEccLocal (s.coreAt cid).pc tripTval) s
  let left := s.hub.binds.filter fun b => b.started && !b.faulted
  let s := left.foldl (fun s b => s.endSaved b causeEccLocal tripTval) s
  .next ((s.onHost fun h => { h with tripped := true }).firmwareIrq irqThermal)

end Sys2Proof.Machine
end

