-- ==== Sys2Proof/Machine/Sources.lean ====
section
/-! DEFINITION. The registers that an instruction reads, for the errors of R389: a register with an uncorrectable
error ends the clause when it is read. `s` and `f` operands are read at issue, the others when the sequencer
performs (R138, R181). -/

namespace Sys2Proof.Machine

/-! ## Sources by operand group -/

def srcS (rs : List SReg) : List RegRef := rs.map .s
def srcF (rs : List FReg) : List RegRef := rs.map .f
def srcV (rs : List VReg) : List RegRef := rs.map .v

/-- `n` registers from `r`. -/
def srcRun (r : SReg) (n : Nat) : List RegRef := srcS ((List.range n).map (runReg r))

/-- A group of `n` vector registers. -/
def srcGroup (r : VReg) (n : Nat) : List RegRef := srcV ((List.range n).map (vecAt r))

def srcMem (m : MemArg) : List RegRef := srcS (if m.x then [m.a, m.b] else [m.a])

/-- The registers that a tile operation reads. -/
def tileSources (op : TileOp) : List RegRef :=
  match op with
  | .tld o => [.s o.a]
  | .tst o => [.s o.a, .t o.d]
  | .tzero _ | .zzero _ _ => []
  | .ttr o => [.t o.a]
  | .zst o => [.s o.a, .z o.d]
  | .tmma o | .tmrot o => [.z o.d, .t o.a, .t o.b]
  | .tmmo o => [.t o.a, .t o.b]
  | .tsacc o => [.z o.d, .z o.a] ++ srcGroup o.b 4 ++ srcGroup o.c (if o.tz == .fp64 then 2 else 4)
  | .tepi o => [.s o.a, .z o.d] ++ (if o.epi.hasBias then srcGroup o.b 4 else [])

/-! ## Sources of an instruction -/

/-- The registers that an instruction of the scalar pipeline reads. -/
def scalarSources (i : Instr) : List RegRef :=
  match i with
  | .add o | .sub o | .and o | .or o | .xor o | .andn o | .orn o | .shl o | .shr o | .sra o | .rol o | .ror o
  | .min o | .max o | .minu o | .maxu o | .mul o | .div o | .divu o | .rem o | .remu o => srcS [o.a, o.b]
  | .seq o | .sne o | .slt o | .sltu o | .sle o | .sleu o | .mulh o | .mulhu o | .mulhsu o => srcS [o.a, o.b]
  | .csel o => srcS [o.a, o.b, o.c]
  | .madd o => srcS [o.a, o.b, o.c]
  | .addi64 o | .andi64 o | .ori64 o | .xori64 o | .seqi o | .slti o | .sltui o => srcS [o.a]
  | .addi96 o | .andi96 o | .ori96 o | .xori96 o => srcS [o.a]
  | .shli o | .shri o | .srai o | .roli o => srcS [o.a]
  | .clz o | .ctz o | .popc o | .brev o | .bswap o => srcS [o.a]
  | .sext o | .zext o => srcS [o.a]
  | .bext o => srcS [o.a]
  | .bins o => srcS [o.d, o.a]
  | .lea o => srcS [o.a, o.b]
  | .ld o => srcMem o.m
  | .st o => .s o.d :: srcMem o.m
  | .lamoAdd o | .lamoAnd o | .lamoOr o | .lamoXor o | .lamoMin o | .lamoMax o | .lamoMinu o | .lamoMaxu o
  | .lamoSwp o => srcS [o.a, o.b]
  | .lamoCas o => srcS [o.d, o.a, o.b]
  | .fld o => srcMem o.m
  | .fst o => .f o.d :: srcMem o.m
  | .beq o | .bne o | .blt o | .bge o | .bltu o | .bgeu o => srcS [o.a, o.b]
  | .jalr o => srcS [o.a]
  | .fadd o | .fsub o | .fmul o | .fdiv o => srcF [o.a, o.b]
  | .fmin o | .fmax o | .fminm o | .fmaxm o | .fsgnj o | .fsgnjn o | .fsgnjx o => srcF [o.a, o.b]
  | .fsqrt o | .fround o => srcF [o.a]
  | .fma o | .fms o | .fnma o | .fnms o => srcF [o.a, o.b, o.c]
  | .feq o | .flt o | .fle o | .funord o => srcF [o.a, o.b]
  | .fclass _ a | .fmvSF _ a => srcF [a]
  | .fcvtLD o | .fcvtLuD o => srcF [o.a]
  | .fcvtSD o => srcF [o.a]
  | .fcvtDL o | .fcvtDLu o => srcS [o.a]
  | .fmvFS _ a => srcS [a]
  | .vmvs o => [.v o.a]
  | .vmvf o => [.v o.a]
  | .vrsum o | .vrmax o | .vrmin o => [.v o.a, .q o.k.q]
  | .vdot o => [.v o.a, .v o.b, .q o.k.q]
  | .vsclget o => [.v o.a]
  | .qget o => [.q o.a]
  | .qpopc o => [.q o.a]
  | .vsetsh _ a => srcS [a]
  | .vloop o => srcS [o.a]
  | .amsg o => srcS [o.d, o.a] ++ srcRun o.b 4
  | .amsgl o => srcS [o.d, o.a] ++ srcRun o.b 8
  | .amsgp o => srcS [o.d, o.a, o.c] ++ srcRun o.b 4
  | .rst o => .s o.d :: srcMem o.m
  | .rstv o => .v o.d :: srcMem o.m
  | .rld o => srcMem o.m
  | .ramo o => srcS (if o.kind == .cas then [o.d, o.a, o.b] else [o.a, o.b])
  | .bfree a | .mbwait a | .cpwait a _ => srcS [a]
  | .cpush o | .cpushb o => srcRun o.a 4
  | .wlpush o => srcS [o.a, o.c] ++ srcRun o.b 4
  | .sst o => srcS [o.d, o.a, o.b]
  | .sstv o => .v o.d :: srcS [o.a, o.b]
  | .sstl o => srcS [o.d, o.a, o.b]
  | .sndseq _ a => srcS [a]
  | .sndwait a b => srcS [a, b]
  | .mtsr _ a => srcS [a]
  | .exit a n => if n.val == 0 then [] else srcS [a]
  | .ptouch a | .mint a _ => srcS [a]
  | _ => []

/-- The registers that an instruction of the sequencer reads. -/
def vectorSources (i : Instr) : List RegRef :=
  match i with
  | .vld o => [.q o.k.q]
  | .vst o => [.q o.k.q, .v o.d]
  | .vldB o => srcS [o.a, o.b] ++ [.q o.k.q]
  | .vstB o => srcS [o.a, o.b] ++ [.q o.k.q, .v o.d]
  | .vlds o => [.s o.a, .q o.k.q]
  | .vgather o => [.s o.a, .v o.b, .q o.k.q]
  | .vscatter o => [.s o.a, .v o.b, .q o.k.q, .v o.d]
  | .vbcs o => [.s o.a, .q o.k.q]
  | .vbcf o => [.f o.a, .q o.k.q]
  | .vmov o => [.v o.a]
  | .vquant o => srcGroup o.a (o.k.et.count / 32) ++ [.q o.k.q]
  | .vsqrt o | .vabs o | .vneg o | .vnot o | .vpopc o | .vclz o | .vrenorm o | .vdeq o | .vexp2 o
  | .vlog2 o | .vrcp o | .vrsqrt o | .vsin o | .vcos o | .vtanh o | .vsigm o | .verf o => [.v o.a, .q o.k.q]
  | .vsel o | .vperm o | .vpack o | .vunpack o | .vadd o | .vsub o | .vmul o | .vmulh o | .vdiv o | .vmin o
  | .vmax o | .vadds o | .vsubs o | .vand o | .vor o | .vxor o | .vshl o | .vshr o | .vsra o =>
    [.v o.a, .v o.b, .q o.k.q]
  | .vslide o => [.v o.a, .s o.b, .q o.k.q]
  | .vfma o | .vfms o | .vfnma o | .vclamp o => [.v o.a, .v o.b, .v o.c, .q o.k.q]
  | .vshli o | .vshri o | .vsrai o => [.v o.a, .q o.k.q]
  | .vceq o | .vcne o | .vclt o | .vcle o | .vcun o => [.v o.a, .v o.b, .q o.k.q]
  | .qand o | .qor o | .qxor o => [.q o.a, .q o.b]
  | .qnot o => [.q o.a]
  | .qset o => srcS [o.a, o.b]
  | .vcvt o => [.v o.a, .q o.k.q]
  | .vsclset o => [.s o.a]
  | .vrng o | .vrngu o => [.q o.k.q]
  | .vdrop o => [.v o.a, .s o.b, .q o.k.q]
  | _ => []

/-- The instruction enters the sequencer: its vector, mask and tile operands are read when it is performed. -/
def entersSequencer (i : Instr) : Bool :=
  loopBodyOk i || (tileOf i).isSome ||
    match i with
    | .vgather _ | .vscatter _ => true
    | _ => false

def sources (i : Instr) : List RegRef :=
  match tileOf i with
  | some op => tileSources op
  | none => scalarSources i ++ vectorSources i

/-! ## Errors that are read (R389) -/

/-- A register of a list has an error; `s0` and `q0` are no storage. -/
def Core.inError (c : Core) (rs : List RegRef) : Bool :=
  rs.any fun r => c.badRegs.contains r && r != .s 0 && r != .q 0

/-- The registers that issue reads. -/
def RegRef.atIssue : RegRef → Bool
  | .s _ | .f _ => true
  | _ => false

/-- What an instruction by itself reads at issue. -/
def issueSources (i : Instr) : List RegRef :=
  if entersSequencer i then (sources i).filter RegRef.atIssue else sources i

/-- What the entry into a handler reads: `s3` to `s10` go into the shadow bank (R237). -/
def handlerReads : List RegRef := srcRun 3 8

/-- What an instruction reads at issue; a `vloop` reads its body's scalar operands too (R150), and a `yield` or `serve`
that dispatches to a good handler what the entry reads. -/
def State.readsAtIssue (s : State) (i : Instr) : List RegRef :=
  issueSources i ++
    match i with
    | .vloop o =>
      match s.loopIn o with
      | .ok (body, _) => body.flatMap fun op => issueSources op.ins
      | .error _ => []
    | .yield _ => if s.core.entersHandler false then handlerReads else []
    | .serve => if s.core.entersHandler true then handlerReads else []
    | _ => []

/-- What an instruction reads when it is performed is in error, or the sequencer's state is. -/
def Core.performError (c : Core) (i : Instr) : Bool :=
  c.badRegs.contains .seq || c.inError ((sources i).filter fun r => !r.atIssue)

end Sys2Proof.Machine
end

