-- ==== Sys2Proof/Machine/Perform.lean ====
section
/-! DEFINITION. The steps that read registers behind issue, with the register errors of R389: the sequencer performs its
oldest entry (R137 to R140, R181), a slice's task enters its handler (R266), and a copy completes with its follow-on
(R357). -/

namespace Sys2Proof.Machine

/-- The next request to the SFU may leave: the core has fewer than 2 there, and what its instruction reads is good
(R171, R389). -/
def Core.sfuNext (c : Core) : Bool :=
  match c.sfuNeeds.drop c.vec.sfuOut.length with
  | op :: _ => !c.performError op.ins
  | [] => false

/-- Perform the next instruction of the oldest entry, or some of its accesses, or send a request to the SFU. -/
def execSequencerPerform (s : State) : Result :=
  match s.core.vec.seq with
  | [] => .next s
  | e :: _ =>
    match e.op? with
    | none => .next { s with core := s.core.setHead none }
    | some op =>
      if e.fresh && s.core.vec.sfuOut.isEmpty && s.core.performError op.ins then .next (s.registerError op.pc)
      else if e.isSfu then
        if s.core.sfuNext && decide ((s.sfu.filter fun r => r.cid == s.cid).length < 2) then .next s.sendSfu
        else .next s
      else
        match e.rotOp with
        | some o => .next { s with core := s.core.stepRot e op o s.now s.cid }
        | none =>
          .next { s with core := s.core.finishPerform e op (s.core.perform (e.ctx s.cid (Config.pieces s.steps)) op) }

/-- `WL_DISPATCH` at a cluster's slice. The entry reads `s3` to `s10`, and one in error ends the clause. -/
def execWlDispatch (s : State) : Result :=
  match s.inp with
  | .idx cluster =>
    match s.nextServed cluster with
    | none => .next s
    | some (cid, c, t) =>
      let ok := c.handlerOk t.handler
      if !ok && c.trapHeld then .next s
      else if ok && c.inError handlerReads then .next (s.fatal cid causeEccLocal c.pc registerTval)
      else
        let sl := s.wl.slice cluster
        let w := s.wl.setSlice cluster { sl with tasks := sl.tasks.filter fun x => x.seq != t.seq }
        let w := if ok then w else w.drop cluster t
        .next (({ s with wl := w }).onCore cid fun c => c.startTask w t)
  | _ => .next s

/-- The completion of a request whose follow-on reads a register in error: it issues nothing. -/
def Core.completeBad (c : Core) (ch : Chan) (x : Xfer) : Core := (c.complete ch { x with follow := none }).tlDown 1

/-- `COPY_COMPLETE`: what a failed request still holds lands first, and a follow-on needs a free entry of the sequencer,
and its record. -/
def execCopyComplete (s : State) : Result :=
  withChan s fun ch =>
    match s.core.oldest ch with
    | some x =>
      if x.phase != .ended || x.acc == .put then .next s
      else if !x.carry.isEmpty then .next (s.landCarry ch x)
      else if s.core.followWaits x then .next s
      else if x.record.isNone && s.core.inError ((s.core.followReads x).toList.map .s) then
        .next ((s.mapCore fun c => c.completeBad ch x).registerError x.pc)
      else .next (s.mapCore fun c => c.completeNext ch x)
    | none => .next s

end Sys2Proof.Machine
end

