-- ==== Sys2Proof/Machine/Scalar.lean ====
section
/-! DEFINITION. The scalar integer instructions (R107 to R112, R38). -/

namespace Sys2Proof.Machine

/-- Write a result computed from the core into `s[d]` and retire (R105). -/
def putS (i : Instr) (s : State) (d : SReg) (f : Core → Word) : Result :=
  done i s fun c => c.wrS d (f c)

/-! ## Register operations (R107) -/

/-- A row of R107: the 64-bit result, and the intermediate of the `.w` form. -/
def alu (i : Instr) (o : AluOp) (full half : Word → Word → Word) (s : State) : Result :=
  putS i s o.d fun c => byWidth o.w (full (c.rdS o.a) (c.rdS o.b)) (half (c.rdS o.a) (c.rdS o.b))

def aluSame (i : Instr) (o : AluOp) (f : Word → Word → Word) (s : State) : Result := alu i o f f s

/-- A row that works on the count of R107. -/
def aluShift (i : Instr) (o : AluOp) (f : Nat → Word → Nat → Word) (s : State) : Result :=
  putS i s o.d fun c =>
    byWidth o.w (f 64 (c.rdS o.a) (shiftCount o.w (c.rdS o.b))) (f 32 (c.rdS o.a) (shiftCount o.w (c.rdS o.b)))

def shlN (_n : Nat) (x : Word) (k : Nat) : Word := x <<< k
def shrN (n : Nat) (x : Word) (k : Nat) : Word := BitVec.ofNat 64 (x.toNat % 2 ^ n / 2 ^ k)
def sraN (n : Nat) (x : Word) (k : Nat) : Word :=
  BitVec.ofInt 64 (toSigned n (x.toNat % 2 ^ n) / (2 ^ k : Nat))
def rorN (n : Nat) (x : Word) (k : Nat) : Word := rotl n x (n - k)

/-- The smaller or larger of two values read by `rd`. -/
def pickBy (rd : Word → Int) (larger : Bool) (a b : Word) : Word :=
  if (if larger then decide (rd b ≤ rd a) else decide (rd a ≤ rd b)) then a else b

def rdS64 (x : Word) : Int := x.toInt
def rdU64 (x : Word) : Int := x.toNat
def rdS32 (x : Word) : Int := (x.setWidth 32).toInt
def rdU32 (x : Word) : Int := (x.setWidth 32).toNat

def execAdd (o : AluOp) (s : State) : Result :=
  aluSame (.add o) o (fun a b => a + b) s

def execSub (o : AluOp) (s : State) : Result :=
  aluSame (.sub o) o (fun a b => a - b) s

def execAnd (o : AluOp) (s : State) : Result :=
  aluSame (.and o) o (fun a b => a &&& b) s

def execOr (o : AluOp) (s : State) : Result :=
  aluSame (.or o) o (fun a b => a ||| b) s

def execXor (o : AluOp) (s : State) : Result :=
  aluSame (.xor o) o (fun a b => a ^^^ b) s

def execAndn (o : AluOp) (s : State) : Result :=
  aluSame (.andn o) o (fun a b => a &&& ~~~b) s

def execOrn (o : AluOp) (s : State) : Result :=
  aluSame (.orn o) o (fun a b => a ||| ~~~b) s

def execShl (o : AluOp) (s : State) : Result :=
  aluShift (.shl o) o shlN s

def execShr (o : AluOp) (s : State) : Result :=
  aluShift (.shr o) o shrN s

def execSra (o : AluOp) (s : State) : Result :=
  aluShift (.sra o) o sraN s

def execRol (o : AluOp) (s : State) : Result :=
  aluShift (.rol o) o rotl s

def execRor (o : AluOp) (s : State) : Result :=
  aluShift (.ror o) o rorN s

def execMin (o : AluOp) (s : State) : Result :=
  alu (.min o) o (pickBy rdS64 false) (pickBy rdS32 false) s

def execMax (o : AluOp) (s : State) : Result :=
  alu (.max o) o (pickBy rdS64 true) (pickBy rdS32 true) s

def execMinu (o : AluOp) (s : State) : Result :=
  alu (.minu o) o (pickBy rdU64 false) (pickBy rdU32 false) s

def execMaxu (o : AluOp) (s : State) : Result :=
  alu (.maxu o) o (pickBy rdU64 true) (pickBy rdU32 true) s

/-! ## Comparisons and selection (R108) -/

def ofBool (b : Bool) : Word := if b then 1 else 0

def compare (i : Instr) (o : CmpOp) (f : Word → Word → Bool) (s : State) : Result :=
  putS i s o.d fun c => ofBool (f (c.rdS o.a) (c.rdS o.b))

def execSeq (o : CmpOp) (s : State) : Result :=
  compare (.seq o) o (fun a b => a == b) s

def execSne (o : CmpOp) (s : State) : Result :=
  compare (.sne o) o (fun a b => a != b) s

def execSlt (o : CmpOp) (s : State) : Result :=
  compare (.slt o) o (fun a b => decide (a.toInt < b.toInt)) s

def execSltu (o : CmpOp) (s : State) : Result :=
  compare (.sltu o) o (fun a b => decide (a.toNat < b.toNat)) s

def execSle (o : CmpOp) (s : State) : Result :=
  compare (.sle o) o (fun a b => decide (a.toInt ≤ b.toInt)) s

def execSleu (o : CmpOp) (s : State) : Result :=
  compare (.sleu o) o (fun a b => decide (a.toNat ≤ b.toNat)) s

def execCsel (o : SelOp) (s : State) : Result :=
  putS (.csel o) s o.d fun c => if c.rdS o.c != 0 then c.rdS o.a else c.rdS o.b

/-! ## Immediates (R109) -/

def immOp (i : Instr) (d a : SReg) (x : Word) (f : Word → Word → Word) (s : State) : Result :=
  putS i s d fun c => f (c.rdS a) x

def execAddi64 (o : Imm30Op) (s : State) : Result :=
  immOp (.addi64 o) o.d o.a (imm30 o.imm) (fun a b => a + b) s

def execAddi96 (o : Imm62Op) (s : State) : Result :=
  immOp (.addi96 o) o.d o.a (imm62 o.imm) (fun a b => a + b) s

def execAndi64 (o : Imm30Op) (s : State) : Result :=
  immOp (.andi64 o) o.d o.a (imm30 o.imm) (fun a b => a &&& b) s

def execAndi96 (o : Imm62Op) (s : State) : Result :=
  immOp (.andi96 o) o.d o.a (imm62 o.imm) (fun a b => a &&& b) s

def execOri64 (o : Imm30Op) (s : State) : Result :=
  immOp (.ori64 o) o.d o.a (imm30 o.imm) (fun a b => a ||| b) s

def execOri96 (o : Imm62Op) (s : State) : Result :=
  immOp (.ori96 o) o.d o.a (imm62 o.imm) (fun a b => a ||| b) s

def execXori64 (o : Imm30Op) (s : State) : Result :=
  immOp (.xori64 o) o.d o.a (imm30 o.imm) (fun a b => a ^^^ b) s

def execXori96 (o : Imm62Op) (s : State) : Result :=
  immOp (.xori96 o) o.d o.a (imm62 o.imm) (fun a b => a ^^^ b) s

def execShli (o : ShiftOp) (s : State) : Result :=
  putS (.shli o) s o.d fun c => shlN 64 (c.rdS o.a) o.n.val

def execShri (o : ShiftOp) (s : State) : Result :=
  putS (.shri o) s o.d fun c => shrN 64 (c.rdS o.a) o.n.val

def execSrai (o : ShiftOp) (s : State) : Result :=
  putS (.srai o) s o.d fun c => sraN 64 (c.rdS o.a) o.n.val

def execRoli (o : ShiftOp) (s : State) : Result :=
  putS (.roli o) s o.d fun c => rotl 64 (c.rdS o.a) o.n.val

def execSeqi (o : Imm30Op) (s : State) : Result :=
  immOp (.seqi o) o.d o.a (imm30 o.imm) (fun a b => ofBool (a == b)) s

def execSlti (o : Imm30Op) (s : State) : Result :=
  immOp (.slti o) o.d o.a (imm30 o.imm) (fun a b => ofBool (decide (a.toInt < b.toInt))) s

def execSltui (o : Imm30Op) (s : State) : Result :=
  immOp (.sltui o) o.d o.a (imm30 o.imm) (fun a b => ofBool (decide (a.toNat < b.toNat))) s

def execLi64 (d : SReg) (imm : BitVec 30) (s : State) : Result :=
  putS (.li64 d imm) s d fun _ => imm30 imm

def execLi96 (d : SReg) (imm : BitVec 62) (s : State) : Result :=
  putS (.li96 d imm) s d fun _ => imm62 imm

def execLi128 (d : SReg) (imm : BitVec 64) (s : State) : Result :=
  putS (.li128 d imm) s d fun _ => imm

/-! ## Multiply and divide (R110, R111) -/

/-- Bits 127:64 of a product. -/
def highWord (z : Int) : Word := BitVec.ofInt 64 (z / (2 ^ 64 : Nat))

def execMul (o : AluOp) (s : State) : Result :=
  aluSame (.mul o) o (fun a b => a * b) s

def execMulh (o : CmpOp) (s : State) : Result :=
  putS (.mulh o) s o.d fun c =>
    let a := c.rdS o.a
    let b := c.rdS o.b
    highWord (a.toInt * b.toInt)

def execMulhu (o : CmpOp) (s : State) : Result :=
  putS (.mulhu o) s o.d fun c =>
    let a := c.rdS o.a
    let b := c.rdS o.b
    highWord ((a.toNat : Int) * b.toNat)

def execMulhsu (o : CmpOp) (s : State) : Result :=
  putS (.mulhsu o) s o.d fun c =>
    let a := c.rdS o.a
    let b := c.rdS o.b
    highWord (a.toInt * (b.toNat : Int))

def execMadd (o : MaddOp) (s : State) : Result :=
  putS (.madd o) s o.d fun c =>
    let x := c.rdS o.a * c.rdS o.b + c.rdS o.c
    byWidth o.w x x

/-- The operands of a division (R111). -/
def divOperand (sgn w : Bool) (x : Word) : Int :=
  match sgn, w with
  | true, false => rdS64 x
  | true, true => rdS32 x
  | false, false => rdU64 x
  | false, true => rdU32 x

/-- R111: the quotient toward zero, or the remainder; a zero divisor traps. -/
def divide (i : Instr) (o : AluOp) (sgn quot : Bool) (s : State) : Result :=
  let p := divOperand sgn o.w (s.core.rdS o.a)
  let d := divOperand sgn o.w (s.core.rdS o.b)
  if d == 0 then raise ⟨causeIntDiv0, 0⟩ s
  else
    let q := Int.tdiv p d
    let x := BitVec.ofInt 64 (if quot then q else p - q * d)
    putS i s o.d fun _ => byWidth o.w x x

def execDiv (o : AluOp) (s : State) : Result :=
  divide (.div o) o true true s

def execDivu (o : AluOp) (s : State) : Result :=
  divide (.divu o) o false true s

def execRem (o : AluOp) (s : State) : Result :=
  divide (.rem o) o true false s

def execRemu (o : AluOp) (s : State) : Result :=
  divide (.remu o) o false false s

/-! ## Bit fields (R112) -/

def unary (i : Instr) (o : UnOp) (f : Word → Word) (s : State) : Result := putS i s o.d fun c => f (c.rdS o.a)

/-- The value whose bit `i` is bit `63 - i` of `x`. -/
def reverseBits (x : Word) : Word :=
  BitVec.ofNat 64 (((List.range 64).map fun i => if x.getLsbD (63 - i) then 2 ^ i else 0).foldl (· + ·) 0)

def reverseBytes (x : Word) : Word := BitVec.ofNat 64 (ofBytesLE (toBytesLE 8 x.toNat).reverse)

/-- Trailing zeros of a non-zero number, within `fuel` bits. -/
def ctzAux : Nat → Nat → Nat
  | 0, _ => 0
  | fuel + 1, x => if x % 2 == 1 then 0 else 1 + ctzAux fuel (x / 2)

def execClz (o : UnOp) (s : State) : Result :=
  unary (.clz o) o (fun x => BitVec.ofNat 64 (clzBits 64 x.toNat)) s

def execCtz (o : UnOp) (s : State) : Result :=
  unary (.ctz o) o (fun x => BitVec.ofNat 64 (ctzAux 64 x.toNat)) s

def execPopc (o : UnOp) (s : State) : Result :=
  unary (.popc o) o (fun x => BitVec.ofNat 64 (popBits 64 x.toNat)) s

def execBrev (o : UnOp) (s : State) : Result :=
  unary (.brev o) o reverseBits s

def execBswap (o : UnOp) (s : State) : Result :=
  unary (.bswap o) o reverseBytes s

def execSext (o : WidthOp) (s : State) : Result :=
  putS (.sext o) s o.d fun c => sextN (c.rdS o.a) o.width

def execZext (o : WidthOp) (s : State) : Result :=
  putS (.zext o) s o.d fun c => zextN (c.rdS o.a) o.width

def execBext (o : FieldOp) (s : State) : Result :=
  putS (.bext o) s o.d fun c => zextN (c.rdS o.a >>> o.pos.val) o.width

def execBins (o : FieldOp) (s : State) : Result :=
  putS (.bins o) s o.d fun c =>
    let mask := BitVec.ofNat 64 ((2 ^ o.width - 1) * 2 ^ o.pos.val)
    (c.rdS o.d &&& ~~~mask) ||| ((c.rdS o.a <<< o.pos.val) &&& mask)

/-- R38. -/
def execLea (o : LeaOp) (s : State) : Result :=
  putS (.lea o) s o.d fun c => c.rdS o.a + (c.rdS o.b <<< o.sh.val) + o.imm.signExtend 64

end Sys2Proof.Machine
end

