-- ==== Sys2Proof/Machine/Issue.lean ====
section
/-! DEFINITION. What holds an instruction at issue beyond its own rules: pending destinations (R228), the order of
local accesses (R16), and precise mode (R142). -/

namespace Sys2Proof.Machine

/-- The scalar and floating-point instructions that access the local store (R16). -/
def scalarAccess (i : Instr) : Bool :=
  match i with
  | .ld _ | .st _ | .fld _ | .fst _ | .lamoAdd _ | .lamoAnd _ | .lamoOr _ | .lamoXor _ | .lamoMin _
  | .lamoMax _ | .lamoMinu _ | .lamoMaxu _ | .lamoSwp _ | .lamoCas _ => true
  | _ => false

/-- The instructions of the vector and tile units that issue ahead in precise mode: those of the sequencer, and
`vsetsh`, `vloop`, `vitr` and `vshget`, which never wait for it (R139). -/
def issuesAhead (i : Instr) : Bool :=
  loopBodyOk i || (tileOf i).isSome ||
    match i with
    | .vgather _ | .vscatter _ | .vsetsh _ _ | .vloop _ | .vitr _ _ | .vshget _ _ _ => true
    | _ => false

/-- `yield` or `serve` dispatches now: it finds a message, or a replay that has run out. -/
def Core.dispatches (c : Core) (serve : Bool) : Bool :=
  match c.nextMsg serve with
  | .none => false
  | _ => true

/-- The `s` registers that the instruction touches in this state. -/
def Core.touched (c : Core) (i : Instr) : List SReg :=
  match i with
  | .yield _ => if c.dispatches false then handlerRegs else []
  | .serve => if c.dispatches true then handlerRegs else []
  | i => sRegs i

/-- The instruction stalls at issue: the machine's other agents go on. -/
def Core.interlocked (c : Core) (i : Instr) : Bool :=
  c.anyPending (c.touched i) || (!c.seqEmpty && (scalarAccess i || (c.precise && !issuesAhead i)))

end Sys2Proof.Machine
end

