-- ==== Sys2Proof/Machine/Waits.lean ====
section
/-! DEFINITION. When a core in WAIT goes on (R30): the condition of each instruction that waits. -/

namespace Sys2Proof.Machine

/-- The replay record of a report names a failure that has not arrived yet (R397). -/
def Core.awaitsReport (c : Core) : Bool := c.replaying && (c.matchesRec 5).any fun r => (c.withNamed r.data).isNone

/-- A replayed read of register number `num` waits for its live value (R397). -/
def Core.readEarly (c : Core) (num : Nat) (early : Word → Bool) (live : Word) : Bool :=
  match c.transcribe num early live with
  | .wait => true
  | .value _ _ => false

/-- The wait of a `bar`: its release, or else its fence and a free entry. -/
def State.barWaitOver (s : State) (sc : BarScope) (n : Nat) : Bool :=
  let b := s.barInst sc n
  match s.core.bars.find? fun a => a.inst == b with
  | some a => a.released
  | none =>
    s.fenceMet (s.core.barFence sc) && !s.core.awaitsReport && ((barsOf s.bars b).isSome || s.barRoom b)

/-- The wait of a `vloop`: its body's WT fields, and a free entry. -/
def State.loopWaitOver (s : State) (o : VLoopOp) : Bool :=
  let c := s.core
  let n := (c.rdS o.a + imm30 o.imm).toNat
  match s.loopIn o with
  | .error _ => true
  | .ok (body, _) => c.bodyWaitsOk body && (n == 0 || !c.seqFull)

/-- The instruction that waits at `pc` can go on. An instruction that never waits can. -/
def State.waitOver (s : State) (i : Instr) : Bool :=
  let c := s.core
  match i with
  | .wfe => c.latch
  | .ld o => c.waitOk o.m.wt
  | .st o => c.waitOk o.m.wt
  | .fld o | .fst o => c.waitOk o.m.wt
  | .lamoAdd o | .lamoAnd o | .lamoOr o | .lamoXor o | .lamoMin o | .lamoMax o | .lamoMinu o | .lamoMaxu o
  | .lamoSwp o | .lamoCas o => c.waitOk o.wt
  | .rst o => c.waitOk o.m.wt && !c.stFull
  | .rstv o => c.waitOk o.m.wt && !c.stFull
  | .rld o => c.waitOk o.m.wt && !c.ldFull
  | .ramo o => c.waitOk o.wt && !(if o.nr then c.stFull else c.ldFull)
  | .mint _ _ => !c.stFull
  | .amsg o | .amsgl o => c.waitOk o.wt && !c.msgFull
  | .amsgp o => c.waitOk o.wt && !c.msgFull
  | .sst o => c.waitOk o.wt && !c.stFull
  | .sstv o => c.waitOk o.wt && !c.stFull
  | .sstl o => c.waitOk o.wt && !c.stFull
  | .wlpush o => c.waitOk o.wt
  | .cpush o => c.waitOk o.wt && (!c.noEntry (c.request o) || (c.copyTrap (c.request o)).isSome)
  | .cpushb o => c.waitOk o.wt
  | .cpwait a ch =>
    let k := (c.rdS a).setWidth 32
    c.completed ch k || !c.assigned ch k
  | .mbwait a => c.mbMet a
  | .wait o => c.waitMet o && !c.awaitsReport
  | .fenceCore => s.fenceMet .core && !c.awaitsReport
  | .fenceCluster => s.fenceMet .cluster && !c.awaitsReport
  | .fenceDie => s.fenceMet .die && !c.awaitsReport
  | .fencePackage => s.fenceMet .package && !c.awaitsReport
  | .fenceFabric => s.fenceMet .fabric && !c.awaitsReport
  | .barGang n => s.barWaitOver .gang n.val
  | .barCluster n => s.barWaitOver .cluster n.val
  | .barPackage n => s.barWaitOver .package n.val
  | .barFabric n => s.barWaitOver .fabric n.val
  | .sndwait a b =>
    match c.membership (c.rdS a) with
    | some m => decide ((c.rdS b).toNat % 2 ^ 48 ≤ m.applied)
    | none => true
  | .sndseq _ a =>
    match c.membership (c.rdS a) with
    | some m => !c.readEarly sndseqNumber (fun x => decide (m.applied < x.toNat)) (BitVec.ofNat 64 m.applied)
    | none => true
  | .mfsr _ r =>
    let live := s.readSys r
    !(r.recorded && c.readEarly r.number (fun x => r.replayWaits && notReached live x) live)
  | .wlwait => c.wl.term || !s.wlOwner c
  | .yield _ => c.dispatches false || !c.awaitsMsg
  | .serve => c.dispatches true || (c.wl.term && !s.serveMore && !c.awaitsEvent)
  | .ptouch _ =>
    match c.hubWait with
    | .touchSent _ => false
    | _ => true
  | .exit _ _ =>
    match c.hubWait with
    | .exitSent => false
    | .exitRefused _ _ => true
    | _ => s.quiet && !c.awaitsReport
  | .gend _ =>
    match c.sce.phase with
    | .released _ _ _ _ => true
    | .arrived | .closed => false
    | .none => s.quiet && !c.awaitsReport
  | .kret => !c.resumeBlocked
  | .vloop o => s.loopWaitOver o
  | i =>
    if (tileOf i).isSome || loopBodyOk i then c.waitOk (vecWait i) && !c.seqFull
    else
      match i with
      | .vgather _ | .vscatter _ => c.waitOk (vecWait i) && !c.seqFull
      | _ => true

/-- The instruction at which a core in WAIT stands: the one that it has fetched (R30). A core in WAIT without one, which
no run reaches, stands at what it finds at `pc`. -/
def State.standing (s : State) : Option Instr :=
  match s.core.ir with
  | some f => some f.ins
  | none =>
    match s.fetched with
    | .instr i => some i
    | _ => none

/-- What the core in WAIT stands at can go on. -/
def State.wakes (s : State) : Bool :=
  match s.standing with
  | some i => s.waitOver i
  | none => true

/-- `WAIT_CONDITION_MET`: the core executes the waiting instruction again, without fetching it anew. -/
def execWaitConditionMet (s : State) : Result :=
  if s.core.run == .wait && s.wakes then .next (s.mapCore fun c => { c with run := .run }) else .next s

end Sys2Proof.Machine
end

