-- ==== Sys2Proof/Machine/Dispatch.lean ====
section
/-! DEFINITION. The meaning of every instruction and step, one arm for each. -/

namespace Sys2Proof.Machine

def exec (i : Instr) (s : State) : Host.Outcome State Fault Refusal :=
  match i with
  | .add o => Sys2Proof.Machine.execAdd o s
  | .sub o => Sys2Proof.Machine.execSub o s
  | .and o => Sys2Proof.Machine.execAnd o s
  | .or o => Sys2Proof.Machine.execOr o s
  | .xor o => Sys2Proof.Machine.execXor o s
  | .andn o => Sys2Proof.Machine.execAndn o s
  | .orn o => Sys2Proof.Machine.execOrn o s
  | .shl o => Sys2Proof.Machine.execShl o s
  | .shr o => Sys2Proof.Machine.execShr o s
  | .sra o => Sys2Proof.Machine.execSra o s
  | .rol o => Sys2Proof.Machine.execRol o s
  | .ror o => Sys2Proof.Machine.execRor o s
  | .min o => Sys2Proof.Machine.execMin o s
  | .max o => Sys2Proof.Machine.execMax o s
  | .minu o => Sys2Proof.Machine.execMinu o s
  | .maxu o => Sys2Proof.Machine.execMaxu o s
  | .seq o => Sys2Proof.Machine.execSeq o s
  | .sne o => Sys2Proof.Machine.execSne o s
  | .slt o => Sys2Proof.Machine.execSlt o s
  | .sltu o => Sys2Proof.Machine.execSltu o s
  | .sle o => Sys2Proof.Machine.execSle o s
  | .sleu o => Sys2Proof.Machine.execSleu o s
  | .csel o => Sys2Proof.Machine.execCsel o s
  | .addi64 o => Sys2Proof.Machine.execAddi64 o s
  | .addi96 o => Sys2Proof.Machine.execAddi96 o s
  | .andi64 o => Sys2Proof.Machine.execAndi64 o s
  | .andi96 o => Sys2Proof.Machine.execAndi96 o s
  | .ori64 o => Sys2Proof.Machine.execOri64 o s
  | .ori96 o => Sys2Proof.Machine.execOri96 o s
  | .xori64 o => Sys2Proof.Machine.execXori64 o s
  | .xori96 o => Sys2Proof.Machine.execXori96 o s
  | .shli o => Sys2Proof.Machine.execShli o s
  | .shri o => Sys2Proof.Machine.execShri o s
  | .srai o => Sys2Proof.Machine.execSrai o s
  | .roli o => Sys2Proof.Machine.execRoli o s
  | .seqi o => Sys2Proof.Machine.execSeqi o s
  | .slti o => Sys2Proof.Machine.execSlti o s
  | .sltui o => Sys2Proof.Machine.execSltui o s
  | .li64 d imm => Sys2Proof.Machine.execLi64 d imm s
  | .li96 d imm => Sys2Proof.Machine.execLi96 d imm s
  | .li128 d imm => Sys2Proof.Machine.execLi128 d imm s
  | .mul o => Sys2Proof.Machine.execMul o s
  | .mulh o => Sys2Proof.Machine.execMulh o s
  | .mulhu o => Sys2Proof.Machine.execMulhu o s
  | .mulhsu o => Sys2Proof.Machine.execMulhsu o s
  | .madd o => Sys2Proof.Machine.execMadd o s
  | .div o => Sys2Proof.Machine.execDiv o s
  | .divu o => Sys2Proof.Machine.execDivu o s
  | .rem o => Sys2Proof.Machine.execRem o s
  | .remu o => Sys2Proof.Machine.execRemu o s
  | .clz o => Sys2Proof.Machine.execClz o s
  | .ctz o => Sys2Proof.Machine.execCtz o s
  | .popc o => Sys2Proof.Machine.execPopc o s
  | .brev o => Sys2Proof.Machine.execBrev o s
  | .bswap o => Sys2Proof.Machine.execBswap o s
  | .sext o => Sys2Proof.Machine.execSext o s
  | .zext o => Sys2Proof.Machine.execZext o s
  | .bext o => Sys2Proof.Machine.execBext o s
  | .bins o => Sys2Proof.Machine.execBins o s
  | .lea o => Sys2Proof.Machine.execLea o s
  | .ld o => Sys2Proof.Machine.execLd o s
  | .st o => Sys2Proof.Machine.execSt o s
  | .lamoAdd o => Sys2Proof.Machine.execLamoAdd o s
  | .lamoAnd o => Sys2Proof.Machine.execLamoAnd o s
  | .lamoOr o => Sys2Proof.Machine.execLamoOr o s
  | .lamoXor o => Sys2Proof.Machine.execLamoXor o s
  | .lamoMin o => Sys2Proof.Machine.execLamoMin o s
  | .lamoMax o => Sys2Proof.Machine.execLamoMax o s
  | .lamoMinu o => Sys2Proof.Machine.execLamoMinu o s
  | .lamoMaxu o => Sys2Proof.Machine.execLamoMaxu o s
  | .lamoSwp o => Sys2Proof.Machine.execLamoSwp o s
  | .lamoCas o => Sys2Proof.Machine.execLamoCas o s
  | .fld o => Sys2Proof.Machine.execFld o s
  | .fst o => Sys2Proof.Machine.execFst o s
  | .beq o => Sys2Proof.Machine.execBeq o s
  | .bne o => Sys2Proof.Machine.execBne o s
  | .blt o => Sys2Proof.Machine.execBlt o s
  | .bge o => Sys2Proof.Machine.execBge o s
  | .bltu o => Sys2Proof.Machine.execBltu o s
  | .bgeu o => Sys2Proof.Machine.execBgeu o s
  | .jal64 d off => Sys2Proof.Machine.execJal64 d off s
  | .jalAbs d imm => Sys2Proof.Machine.execJalAbs d imm s
  | .jalr o => Sys2Proof.Machine.execJalr o s
  | .yield n => Sys2Proof.Machine.execYield n s
  | .fadd o => Sys2Proof.Machine.execFadd o s
  | .fsub o => Sys2Proof.Machine.execFsub o s
  | .fmul o => Sys2Proof.Machine.execFmul o s
  | .fdiv o => Sys2Proof.Machine.execFdiv o s
  | .fsqrt o => Sys2Proof.Machine.execFsqrt o s
  | .fmin o => Sys2Proof.Machine.execFmin o s
  | .fmax o => Sys2Proof.Machine.execFmax o s
  | .fminm o => Sys2Proof.Machine.execFminm o s
  | .fmaxm o => Sys2Proof.Machine.execFmaxm o s
  | .fsgnj o => Sys2Proof.Machine.execFsgnj o s
  | .fsgnjn o => Sys2Proof.Machine.execFsgnjn o s
  | .fsgnjx o => Sys2Proof.Machine.execFsgnjx o s
  | .fma o => Sys2Proof.Machine.execFma o s
  | .fms o => Sys2Proof.Machine.execFms o s
  | .fnma o => Sys2Proof.Machine.execFnma o s
  | .fnms o => Sys2Proof.Machine.execFnms o s
  | .feq o => Sys2Proof.Machine.execFeq o s
  | .flt o => Sys2Proof.Machine.execFlt o s
  | .fle o => Sys2Proof.Machine.execFle o s
  | .funord o => Sys2Proof.Machine.execFunord o s
  | .fclass d a => Sys2Proof.Machine.execFclass d a s
  | .fcvtLD o => Sys2Proof.Machine.execFcvtLD o s
  | .fcvtLuD o => Sys2Proof.Machine.execFcvtLuD o s
  | .fcvtDL o => Sys2Proof.Machine.execFcvtDL o s
  | .fcvtDLu o => Sys2Proof.Machine.execFcvtDLu o s
  | .fcvtSD o => Sys2Proof.Machine.execFcvtSD o s
  | .fmvSF d a => Sys2Proof.Machine.execFmvSF d a s
  | .fmvFS d a => Sys2Proof.Machine.execFmvFS d a s
  | .fround o => Sys2Proof.Machine.execFround o s
  | .vld o => Sys2Proof.Machine.execVld o s
  | .vldB o => Sys2Proof.Machine.execVldB o s
  | .vlds o => Sys2Proof.Machine.execVlds o s
  | .vst o => Sys2Proof.Machine.execVst o s
  | .vstB o => Sys2Proof.Machine.execVstB o s
  | .vgather o => Sys2Proof.Machine.execVgather o s
  | .vscatter o => Sys2Proof.Machine.execVscatter o s
  | .vmov o => Sys2Proof.Machine.execVmov o s
  | .vbcs o => Sys2Proof.Machine.execVbcs o s
  | .vbcf o => Sys2Proof.Machine.execVbcf o s
  | .vmvs o => Sys2Proof.Machine.execVmvs o s
  | .vmvf o => Sys2Proof.Machine.execVmvf o s
  | .vsel o => Sys2Proof.Machine.execVsel o s
  | .vslide o => Sys2Proof.Machine.execVslide o s
  | .vperm o => Sys2Proof.Machine.execVperm o s
  | .vpack o => Sys2Proof.Machine.execVpack o s
  | .vunpack o => Sys2Proof.Machine.execVunpack o s
  | .vadd o => Sys2Proof.Machine.execVadd o s
  | .vsub o => Sys2Proof.Machine.execVsub o s
  | .vmul o => Sys2Proof.Machine.execVmul o s
  | .vmulh o => Sys2Proof.Machine.execVmulh o s
  | .vdiv o => Sys2Proof.Machine.execVdiv o s
  | .vsqrt o => Sys2Proof.Machine.execVsqrt o s
  | .vmin o => Sys2Proof.Machine.execVmin o s
  | .vmax o => Sys2Proof.Machine.execVmax o s
  | .vabs o => Sys2Proof.Machine.execVabs o s
  | .vneg o => Sys2Proof.Machine.execVneg o s
  | .vfma o => Sys2Proof.Machine.execVfma o s
  | .vfms o => Sys2Proof.Machine.execVfms o s
  | .vfnma o => Sys2Proof.Machine.execVfnma o s
  | .vclamp o => Sys2Proof.Machine.execVclamp o s
  | .vadds o => Sys2Proof.Machine.execVadds o s
  | .vsubs o => Sys2Proof.Machine.execVsubs o s
  | .vand o => Sys2Proof.Machine.execVand o s
  | .vor o => Sys2Proof.Machine.execVor o s
  | .vxor o => Sys2Proof.Machine.execVxor o s
  | .vnot o => Sys2Proof.Machine.execVnot o s
  | .vshl o => Sys2Proof.Machine.execVshl o s
  | .vshr o => Sys2Proof.Machine.execVshr o s
  | .vsra o => Sys2Proof.Machine.execVsra o s
  | .vshli o => Sys2Proof.Machine.execVshli o s
  | .vshri o => Sys2Proof.Machine.execVshri o s
  | .vsrai o => Sys2Proof.Machine.execVsrai o s
  | .vpopc o => Sys2Proof.Machine.execVpopc o s
  | .vclz o => Sys2Proof.Machine.execVclz o s
  | .vceq o => Sys2Proof.Machine.execVceq o s
  | .vcne o => Sys2Proof.Machine.execVcne o s
  | .vclt o => Sys2Proof.Machine.execVclt o s
  | .vcle o => Sys2Proof.Machine.execVcle o s
  | .vcun o => Sys2Proof.Machine.execVcun o s
  | .qand o => Sys2Proof.Machine.execQand o s
  | .qor o => Sys2Proof.Machine.execQor o s
  | .qxor o => Sys2Proof.Machine.execQxor o s
  | .qnot o => Sys2Proof.Machine.execQnot o s
  | .qset o => Sys2Proof.Machine.execQset o s
  | .qget o => Sys2Proof.Machine.execQget o s
  | .qpopc o => Sys2Proof.Machine.execQpopc o s
  | .vcvt o => Sys2Proof.Machine.execVcvt o s
  | .vrsum o => Sys2Proof.Machine.execVrsum o s
  | .vrmax o => Sys2Proof.Machine.execVrmax o s
  | .vrmin o => Sys2Proof.Machine.execVrmin o s
  | .vdot o => Sys2Proof.Machine.execVdot o s
  | .vsclset o => Sys2Proof.Machine.execVsclset o s
  | .vsclget o => Sys2Proof.Machine.execVsclget o s
  | .vrenorm o => Sys2Proof.Machine.execVrenorm o s
  | .vdeq o => Sys2Proof.Machine.execVdeq o s
  | .vquant o => Sys2Proof.Machine.execVquant o s
  | .vexp2 o => Sys2Proof.Machine.execVexp2 o s
  | .vlog2 o => Sys2Proof.Machine.execVlog2 o s
  | .vrcp o => Sys2Proof.Machine.execVrcp o s
  | .vrsqrt o => Sys2Proof.Machine.execVrsqrt o s
  | .vsin o => Sys2Proof.Machine.execVsin o s
  | .vcos o => Sys2Proof.Machine.execVcos o s
  | .vtanh o => Sys2Proof.Machine.execVtanh o s
  | .vsigm o => Sys2Proof.Machine.execVsigm o s
  | .verf o => Sys2Proof.Machine.execVerf o s
  | .vrng o => Sys2Proof.Machine.execVrng o s
  | .vrngu o => Sys2Proof.Machine.execVrngu o s
  | .vdrop o => Sys2Proof.Machine.execVdrop o s
  | .vsetsh slot a => Sys2Proof.Machine.execVsetsh slot a s
  | .vloop o => Sys2Proof.Machine.execVloop o s
  | .vitr d slot => Sys2Proof.Machine.execVitr d slot s
  | .vshget d slot f => Sys2Proof.Machine.execVshget d slot f s
  | .tld o => Sys2Proof.Machine.execTld o s
  | .tst o => Sys2Proof.Machine.execTst o s
  | .tzero d => Sys2Proof.Machine.execTzero d s
  | .ttr o => Sys2Proof.Machine.execTtr o s
  | .zzero d tz => Sys2Proof.Machine.execZzero d tz s
  | .zst o => Sys2Proof.Machine.execZst o s
  | .tmma o => Sys2Proof.Machine.execTmma o s
  | .tmmo o => Sys2Proof.Machine.execTmmo o s
  | .tsacc o => Sys2Proof.Machine.execTsacc o s
  | .tepi o => Sys2Proof.Machine.execTepi o s
  | .tmrot o => Sys2Proof.Machine.execTmrot o s
  | .tfol ch op => Sys2Proof.Machine.execTfol ch op s
  | .amsg o => Sys2Proof.Machine.execAmsg o s
  | .amsgl o => Sys2Proof.Machine.execAmsgl o s
  | .amsgp o => Sys2Proof.Machine.execAmsgp o s
  | .rst o => Sys2Proof.Machine.execRst o s
  | .rstv o => Sys2Proof.Machine.execRstv o s
  | .rld o => Sys2Proof.Machine.execRld o s
  | .ramo o => Sys2Proof.Machine.execRamo o s
  | .wait o => Sys2Proof.Machine.execWait o s
  | .barGang n => Sys2Proof.Machine.execBarGang n s
  | .barCluster n => Sys2Proof.Machine.execBarCluster n s
  | .barPackage n => Sys2Proof.Machine.execBarPackage n s
  | .barFabric n => Sys2Proof.Machine.execBarFabric n s
  | .bfree a => Sys2Proof.Machine.execBfree a s
  | .mbwait a => Sys2Proof.Machine.execMbwait a s
  | .cpush o => Sys2Proof.Machine.execCpush o s
  | .cpushb o => Sys2Proof.Machine.execCpushb o s
  | .cpwait a ch => Sys2Proof.Machine.execCpwait a ch s
  | .cpfence mask => Sys2Proof.Machine.execCpfence mask s
  | .cpresume ch => Sys2Proof.Machine.execCpresume ch s
  | .wlpush o => Sys2Proof.Machine.execWlpush o s
  | .sst o => Sys2Proof.Machine.execSst o s
  | .sstv o => Sys2Proof.Machine.execSstv o s
  | .sstl o => Sys2Proof.Machine.execSstl o s
  | .sndseq d a => Sys2Proof.Machine.execSndseq d a s
  | .sndwait a b => Sys2Proof.Machine.execSndwait a b s
  | .gend d => Sys2Proof.Machine.execGend d s
  | .mfsr d r => Sys2Proof.Machine.execMfsr d r s
  | .mtsr r a => Sys2Proof.Machine.execMtsr r a s
  | .scall code => Sys2Proof.Machine.execScall code s
  | .brk code => Sys2Proof.Machine.execBrk code s
  | .exit a n => Sys2Proof.Machine.execExit a n s
  | .ptouch a => Sys2Proof.Machine.execPtouch a s
  | .mint a cause => Sys2Proof.Machine.execMint a cause s
  | .nop64 => Sys2Proof.Machine.execNop64 s
  | .nop96 => Sys2Proof.Machine.execNop96 s
  | .nop128 => Sys2Proof.Machine.execNop128 s
  | .isync => Sys2Proof.Machine.execIsync s
  | .wfe => Sys2Proof.Machine.execWfe s
  | .serve => Sys2Proof.Machine.execServe s
  | .hret => Sys2Proof.Machine.execHret s
  | .vsync => Sys2Proof.Machine.execVsync s
  | .fenceCore => Sys2Proof.Machine.execFenceCore s
  | .fenceCluster => Sys2Proof.Machine.execFenceCluster s
  | .fenceDie => Sys2Proof.Machine.execFenceDie s
  | .fencePackage => Sys2Proof.Machine.execFencePackage s
  | .fenceFabric => Sys2Proof.Machine.execFenceFabric s
  | .wlwait => Sys2Proof.Machine.execWlwait s
  | .kret => Sys2Proof.Machine.execKret s
  | .mfsrFpflags => Sys2Proof.Machine.execMfsrFpflags s
  | .mtsrFpctl => Sys2Proof.Machine.execMtsrFpctl s
  | .mtsrTshp => Sys2Proof.Machine.execMtsrTshp s
  | .mtsrWlshift => Sys2Proof.Machine.execMtsrWlshift s
  | .mtsrWlbound => Sys2Proof.Machine.execMtsrWlbound s
  | .mtsrTrctl => Sys2Proof.Machine.execMtsrTrctl s
  | .mtsrAfault => Sys2Proof.Machine.execMtsrAfault s
  | .mtsrSndstat => Sys2Proof.Machine.execMtsrSndstat s
  | .mtsrIbctl => Sys2Proof.Machine.execMtsrIbctl s
  | .sequencerPerform => Sys2Proof.Machine.execSequencerPerform s
  | .sfuAccept => Sys2Proof.Machine.execSfuAccept s
  | .sfuReturn => Sys2Proof.Machine.execSfuReturn s
  | .tmrotTileReceive => Sys2Proof.Machine.execTmrotTileReceive s
  | .linktimeout => Sys2Proof.Machine.execLinktimeout s
  | .barrierArrivalSum => Sys2Proof.Machine.execBarrierArrivalSum s
  | .barrierRelease => Sys2Proof.Machine.execBarrierRelease s
  | .niApply => Sys2Proof.Machine.execNiApply s
  | .niRemoteRead => Sys2Proof.Machine.execNiRemoteRead s
  | .niRemoteAtomic => Sys2Proof.Machine.execNiRemoteAtomic s
  | .messageAccept => Sys2Proof.Machine.execMessageAccept s
  | .spillMove => Sys2Proof.Machine.execSpillMove s
  | .ackArrival => Sys2Proof.Machine.execAckArrival s
  | .replyArrival => Sys2Proof.Machine.execReplyArrival s
  | .waitConditionMet => Sys2Proof.Machine.execWaitConditionMet s
  | .copyBegin => Sys2Proof.Machine.execCopyBegin s
  | .copyChunk => Sys2Proof.Machine.execCopyChunk s
  | .copyComplete => Sys2Proof.Machine.execCopyComplete s
  | .bfreeCredit => Sys2Proof.Machine.execBfreeCredit s
  | .tokenRefill => Sys2Proof.Machine.execTokenRefill s
  | .chunkAccess => Sys2Proof.Machine.execChunkAccess s
  | .chunkRefetch => Sys2Proof.Machine.execChunkRefetch s
  | .shootdown => Sys2Proof.Machine.execShootdown s
  | .pageEvict => Sys2Proof.Machine.execPageEvict s
  | .zoneExpand => Sys2Proof.Machine.execZoneExpand s
  | .exportMd => Sys2Proof.Machine.execExportMd s
  | .importMd => Sys2Proof.Machine.execImportMd s
  | .hostMemoryAccess => Sys2Proof.Machine.execHostMemoryAccess s
  | .wlCountIncrement => Sys2Proof.Machine.execWlCountIncrement s
  | .wlCountDecrement => Sys2Proof.Machine.execWlCountDecrement s
  | .wlFloorReceive => Sys2Proof.Machine.execWlFloorReceive s
  | .wlDispatch => Sys2Proof.Machine.execWlDispatch s
  | .wlSliceSpill => Sys2Proof.Machine.execWlSliceSpill s
  | .wlRefill => Sys2Proof.Machine.execWlRefill s
  | .wlMove => Sys2Proof.Machine.execWlMove s
  | .wlFloorExchange => Sys2Proof.Machine.execWlFloorExchange s
  | .wlAnnounceReceive => Sys2Proof.Machine.execWlAnnounceReceive s
  | .wlStealRequest => Sys2Proof.Machine.execWlStealRequest s
  | .wlStealAnswer => Sys2Proof.Machine.execWlStealAnswer s
  | .wlStealReceive => Sys2Proof.Machine.execWlStealReceive s
  | .wlTermination => Sys2Proof.Machine.execWlTermination s
  | .wlTerminationWave => Sys2Proof.Machine.execWlTerminationWave s
  | .wlStallExpiry => Sys2Proof.Machine.execWlStallExpiry s
  | .wlFabricLeave => Sys2Proof.Machine.execWlFabricLeave s
  | .worklistEnable => Sys2Proof.Machine.execWorklistEnable s
  | .worklistEmpty => Sys2Proof.Machine.execWorklistEmpty s
  | .soundStamp => Sys2Proof.Machine.execSoundStamp s
  | .soundMemberApply => Sys2Proof.Machine.execSoundMemberApply s
  | .soundRetry => Sys2Proof.Machine.execSoundRetry s
  | .soundCompletion => Sys2Proof.Machine.execSoundCompletion s
  | .membershipChange => Sys2Proof.Machine.execMembershipChange s
  | .groupTableWrite => Sys2Proof.Machine.execGroupTableWrite s
  | .sceArrival => Sys2Proof.Machine.execSceArrival s
  | .generationClose => Sys2Proof.Machine.execGenerationClose s
  | .sceLoserCopy => Sys2Proof.Machine.execSceLoserCopy s
  | .generationRelease => Sys2Proof.Machine.execGenerationRelease s
  | .populationDescriptorWrite => Sys2Proof.Machine.execPopulationDescriptorWrite s
  | .mintApply => Sys2Proof.Machine.execMintApply s
  | .interruptTake => Sys2Proof.Machine.execInterruptTake s
  | .copypfTake => Sys2Proof.Machine.execCopypfTake s
  | .timer => Sys2Proof.Machine.execTimer s
  | .hostHalt => Sys2Proof.Machine.execHostHalt s
  | .hostStep => Sys2Proof.Machine.execHostStep s
  | .hostResume => Sys2Proof.Machine.execHostResume s
  | .hostStop => Sys2Proof.Machine.execHostStop s
  | .hostStart => Sys2Proof.Machine.execHostStart s
  | .continuationArrival => Sys2Proof.Machine.execContinuationArrival s
  | .templateRead => Sys2Proof.Machine.execTemplateRead s
  | .overflowDrain => Sys2Proof.Machine.execOverflowDrain s
  | .producerIndexWrite => Sys2Proof.Machine.execProducerIndexWrite s
  | .submissionConsume => Sys2Proof.Machine.execSubmissionConsume s
  | .bindRecord => Sys2Proof.Machine.execBindRecord s
  | .clauseLoadDone => Sys2Proof.Machine.execClauseLoadDone s
  | .queueThaw => Sys2Proof.Machine.execQueueThaw s
  | .queueDescriptorWrite => Sys2Proof.Machine.execQueueDescriptorWrite s
  | .qwaitExpiry => Sys2Proof.Machine.execQwaitExpiry s
  | .bindWatchdogFirst => Sys2Proof.Machine.execBindWatchdogFirst s
  | .bindWatchdogSecond => Sys2Proof.Machine.execBindWatchdogSecond s
  | .preemptRequest => Sys2Proof.Machine.execPreemptRequest s
  | .contextSave => Sys2Proof.Machine.execContextSave s
  | .preemptDivert => Sys2Proof.Machine.execPreemptDivert s
  | .contextResume => Sys2Proof.Machine.execContextResume s
  | .flitReceive => Sys2Proof.Machine.execFlitReceive s
  | .flitReplay => Sys2Proof.Machine.execFlitReplay s
  | .routeRemoval => Sys2Proof.Machine.execRouteRemoval s
  | .rekey => Sys2Proof.Machine.execRekey s
  | .keyCounterLimit => Sys2Proof.Machine.execKeyCounterLimit s
  | .lfinjWrite => Sys2Proof.Machine.execLfinjWrite s
  | .lfinjFire => Sys2Proof.Machine.execLfinjFire s
  | .dbgenSet => Sys2Proof.Machine.execDbgenSet s
  | .dbgenClear => Sys2Proof.Machine.execDbgenClear s
  | .fusedMinimumRaise => Sys2Proof.Machine.execFusedMinimumRaise s
  | .bar4WindowPlace => Sys2Proof.Machine.execBar4WindowPlace s
  | .hubstatWrite => Sys2Proof.Machine.execHubstatWrite s
  | .getVersion => Sys2Proof.Machine.execGetVersion s
  | .getCapabilities => Sys2Proof.Machine.execGetCapabilities s
  | .negotiateAlgorithms => Sys2Proof.Machine.execNegotiateAlgorithms s
  | .getDigests => Sys2Proof.Machine.execGetDigests s
  | .getCertificate => Sys2Proof.Machine.execGetCertificate s
  | .challenge => Sys2Proof.Machine.execChallenge s
  | .getMeasurements => Sys2Proof.Machine.execGetMeasurements s
  | .powerUp => Sys2Proof.Machine.execPowerUp s
  | .bringupStepDone => Sys2Proof.Machine.execBringupStepDone s
  | .bringupStepLimit => Sys2Proof.Machine.execBringupStepLimit s
  | .powerSample => Sys2Proof.Machine.execPowerSample s
  | .thermalTrip => Sys2Proof.Machine.execThermalTrip s
  | .illegalEncoding => Sys2Proof.Machine.execIllegalEncoding s
  | .fetchFault => Sys2Proof.Machine.execFetchFault s
  | .hostHaltedWrite => Sys2Proof.Machine.execHostHaltedWrite s
  | .firmwareFaultResolve => Sys2Proof.Machine.execFirmwareFaultResolve s
  | .limdinLinkTraining => Sys2Proof.Machine.execLimdinLinkTraining s
  | .routingTableWrite => Sys2Proof.Machine.execRoutingTableWrite s
  | .barrierEntryConfig => Sys2Proof.Machine.execBarrierEntryConfig s
  | .contextShareWrite => Sys2Proof.Machine.execContextShareWrite s
  | .spillQueueConfig => Sys2Proof.Machine.execSpillQueueConfig s

end Sys2Proof.Machine
end

