-- ==== Sys2Proof/Machine/Sram.lean ====
section
/-! DEFINITION. Errors in SRAM arrays beside the local stores and the register files (R389): the corrected counts, and
the hub's entries that an uncorrectable error withdraws. Which errors there are is the environment's; a free value says
in which step one is read (log entry 72). -/

namespace Sys2Proof.Machine

/-- The corrected count of an array. -/
def Sram.count (x : Sram) (a : SramArray) : BitVec 32 := ((x.counts.find? fun c => c.1 == a).map (·.2)).getD 0

/-- A read finds an error that it repairs: the array's count rises, and saturates. -/
def Sram.corrected (x : Sram) (a : SramArray) : Sram :=
  let n := x.count a
  let rest := x.counts.filter fun c => c.1 != a
  { x with soft := x.soft.erase a, counts := rest ++ [(a, if n == BitVec.allOnes 32 then n else n + 1)] }

def irqSram : Nat := 8

/-- The queue of an entry that is withdrawn: it belongs to no context, and the host cannot submit to it. -/
def LaunchQueue.withdrawn (q : LaunchQueue) : LaunchQueue := { q with owner := none, opened := false }

/-- An entry of hub SRAM is withdrawn from service: what uses it finds it free (R389). -/
def State.withdrawEntry (s : State) (r : HubRef) : State :=
  match r with
  | .group gidx =>
    match s.group gidx with
    | some g => s.freeGroup gidx g
    | none => s
  | .population slot =>
    let old := s.population slot
    ({ s with sce := { s.sce with pops := s.sce.pops.filter fun x => x.1 != slot } }).rejoin slot old none
  | .queue q => s.onHub fun h => h.onQueue q LaunchQueue.withdrawn
  | .launch id => s.onHub fun h => (h.dropEntry id).settle
  | .barrier scope n => { s with barConfigs := s.barConfigs.filter fun c => !(c.scope == scope && c.n == n) }

/-- The oldest marked place is read, if the step reads one. -/
def State.readSram (s : State) : State :=
  let x := s.host.sram
  if !Config.sramRead s.steps then s
  else
    match x.hub, x.soft with
    | r :: rest, _ =>
      (({ s with host := { s.host with sram := { x with hub := rest } } }).withdrawEntry r).firmwareIrq irqSram
    | [], a :: _ => { s with host := { s.host with sram := x.corrected a } }
    | [], [] => s

/-- No error waits to be read. -/
def Sram.clean (x : Sram) : Bool := x.hub.isEmpty && x.soft.isEmpty

end Sys2Proof.Machine
end

