-- ==== Sys2Proof/Machine/Schedule.lean ====
section
/-! DEFINITION. What moves next: the core in focus at its instruction boundary (R30, R379), or a step of another
agent. The schedule in the state names the moves; while it is empty, the model moves cores and pending hardware in
turn (log entry 8). -/

namespace Sys2Proof.Machine

/-! ## Steps of other agents -/

/-- The rows of the opcode table that are steps of an agent other than the core itself. The core's own rows are its
instructions, the register rows, its traps at fetch, the items it takes and the end of its waits. -/
def isAgentStep (i : Instr) : Bool :=
  match i with
  | .sequencerPerform | .sfuAccept | .sfuReturn | .tmrotTileReceive | .linktimeout | .barrierArrivalSum
  | .barrierRelease | .niApply | .niRemoteRead | .niRemoteAtomic | .messageAccept | .spillMove | .ackArrival
  | .replyArrival | .copyBegin | .copyChunk | .copyComplete | .bfreeCredit | .tokenRefill | .chunkAccess
  | .chunkRefetch | .shootdown | .pageEvict | .zoneExpand | .exportMd | .importMd | .hostMemoryAccess
  | .wlCountIncrement | .wlCountDecrement | .wlFloorReceive | .wlDispatch | .wlSliceSpill | .wlRefill | .wlMove
  | .wlFloorExchange | .wlAnnounceReceive | .wlStealRequest | .wlStealAnswer | .wlStealReceive | .wlTermination
  | .wlTerminationWave | .wlStallExpiry | .wlFabricLeave | .worklistEnable | .worklistEmpty | .soundStamp
  | .soundMemberApply | .soundRetry | .soundCompletion | .membershipChange | .groupTableWrite | .sceArrival
  | .generationClose | .sceLoserCopy | .generationRelease | .populationDescriptorWrite | .mintApply | .timer
  | .hostHalt | .hostStep | .hostResume | .hostStop | .hostStart | .continuationArrival | .templateRead
  | .overflowDrain | .producerIndexWrite | .submissionConsume | .bindRecord | .clauseLoadDone | .queueThaw
  | .queueDescriptorWrite | .qwaitExpiry | .bindWatchdogFirst | .bindWatchdogSecond | .preemptRequest
  | .contextSave | .preemptDivert | .contextResume | .flitReceive | .flitReplay | .routeRemoval | .rekey
  | .keyCounterLimit | .lfinjWrite | .lfinjFire | .dbgenSet | .dbgenClear | .fusedMinimumRaise
  | .bar4WindowPlace | .hubstatWrite | .getVersion | .getCapabilities | .negotiateAlgorithms | .getDigests
  | .getCertificate | .challenge | .getMeasurements | .powerUp | .bringupStepDone | .bringupStepLimit
  | .powerSample | .thermalTrip | .hostHaltedWrite | .firmwareFaultResolve | .limdinLinkTraining
  | .routingTableWrite | .barrierEntryConfig | .contextShareWrite | .spillQueueConfig => true
  | _ => false

/-! ## The core's own move -/

/-- What the core in focus does at its turn. -/
inductive Move where
  /-- Nothing: it is idle, halted or stalled, or it waits. -/
  | stay
  /-- It leaves a clause in which another member has ended in a fault (R221). -/
  | stop
  /-- A trap's entry fails its fetch at `TVEC` (R380). -/
  | failedEntry
  /-- Its instruction reads a register in error (R389). -/
  | regError
  /-- A row of the opcode table with its operands. -/
  | row (i : Instr) (inp : Inp)
  /-- An instruction that fetch and decode have found. -/
  | instr (i : Instr)
deriving DecidableEq, Repr

/-- The row that an instruction stands for: the reads and writes of registers with a rule of their own have rows of
their own, which take the register and the general register as operands. -/
def rowOf (i : Instr) : Instr × Inp :=
  match i with
  | .mfsr d .fpflags => (.mfsrFpflags, .reg .fpflags d)
  | .mtsr .fpctl a => (.mtsrFpctl, .reg .fpctl a)
  | .mtsr .rngkey a => (.mtsrFpctl, .reg .rngkey a)
  | .mtsr .rngstep a => (.mtsrFpctl, .reg .rngstep a)
  | .mtsr (.tshp t) a => (.mtsrTshp, .reg (.tshp t) a)
  | .mtsr .wlshift a => (.mtsrWlshift, .reg .wlshift a)
  | .mtsr .wlbound a => (.mtsrWlbound, .reg .wlbound a)
  | .mtsr .trctl a => (.mtsrTrctl, .reg .trctl a)
  | .mtsr .afault a => (.mtsrAfault, .reg .afault a)
  | .mtsr .afpc a => (.mtsrAfault, .reg .afpc a)
  | .mtsr .afaddr a => (.mtsrAfault, .reg .afaddr a)
  | .mtsr .sndstat a => (.mtsrSndstat, .reg .sndstat a)
  | .mtsr .ibctl a => (.mtsrIbctl, .reg .ibctl a)
  | i => (i, .none)

/-- The move of a core that has fetched an instruction. -/
def State.executeMove (s : State) (i : Instr) : Move :=
  if s.core.interlocked i then .stay
  else if s.core.inError (s.readsAtIssue i) then .regError
  else .instr i

/-- The move of a core in RUN: it goes on with the instruction that it has fetched, or fetches. A fetch that fails at
the entry of a trap ends the clause, but not at debug level, where a trap stops the core (R27, R29). -/
def State.fetchMove (s : State) : Move :=
  match s.core.ir with
  | some f => s.executeMove f.ins
  | none =>
    match s.fetched with
    | .fault _ => if s.core.entering && !s.core.isDebug then .failedEntry else .row .fetchFault .none
    | .illegal _ => .row .illegalEncoding .none
    | .instr i => s.executeMove i

/-- The item that the core takes at its boundary, or what it waits for there: a halt, a pre-emption, `COPYPF` or an
interrupt (R379). None where it goes on. -/
def State.boundaryMove (s : State) : Option Move :=
  let c := s.core
  if !c.atBoundary then none
  else if c.haltReq then some (if c.mayHalt then .row .hostHalt .none else .stay)
  else if c.preemptReq then some .stay
  else
    match c.taking with
    | some .copypf => some (.row .copypfTake .none)
    | some (.irq _) => some (.row .interruptTake .none)
    | none => if c.awaitsItem || (!c.items.isEmpty && !c.mayEnter) then some .stay else none

/-- The core in focus can fetch: it runs, and at debug level the host has stepped it. -/
def Core.fetches (c : Core) : Bool := c.run == .run && (!c.isDebug || c.stepping)

/-- What the core in focus does at its turn. -/
def State.coreMove (s : State) : Move :=
  let c := s.core
  if s.host.tripped || c.run == .halt then .stay
  else if c.run == .idle then (if c.haltReq then .row .hostHalt .none else .stay)
  else if s.mustStop && !c.blocked && !c.isDebug then .stop
  else if c.awaitsRecord then .stay
  else
    match s.boundaryMove with
    | some m => m
    | none =>
      if c.run == .wait then (if s.wakes then .row .waitConditionMet .none else .stay)
      else if c.fetches then s.fetchMove
      else .stay

/-- Run a row with its operands. -/
def State.runRow (s : State) (i : Instr) (inp : Inp) : Result := exec i { s with inp := inp }

/-- The instructions by which a core observes that writes of others have completed (R15, R247): reads of its store and
of its registers, waits, and the returns and handlers that answer them. -/
def observes (i : Instr) : Bool :=
  match i with
  | .ld _ | .fld _ | .lamoAdd _ | .lamoAnd _ | .lamoOr _ | .lamoXor _ | .lamoMin _ | .lamoMax _ | .lamoMinu _
  | .lamoMaxu _ | .lamoSwp _ | .lamoCas _ | .mfsr _ _ | .wfe | .wait _ | .cpwait _ _ | .mbwait _ | .fenceCore
  | .fenceCluster | .fenceDie | .fencePackage | .fenceFabric | .barGang _ | .barCluster _ | .barPackage _
  | .barFabric _ | .sndwait _ _ | .sndseq _ _ | .wlwait | .yield _ | .serve => true
  | i => waitField i != .none

/-- The instruction has been fetched, and a trap's entry has succeeded (R27). Nothing else is fetched until it ends
(R30). -/
def State.enteredOk (s : State) (i : Instr) : State :=
  s.mapCore fun c =>
    let c := if observes i then c.observe else c
    { c with entering := false, ir := some (c.ir.getD (s.fetching i)) }

/-- The failed entry of R380: the fault record takes the values of the trap that was being entered. -/
def State.failEntry (s : State) : State :=
  s.fatal s.cid (s.core.trap.cause.toNat % 256) s.core.trap.epc s.core.trap.tval

/-- Make the move of the core in focus. -/
def State.move (s : State) (m : Move) : Result :=
  match m with
  | .stay => .next s
  | .stop => .next s.stopMember
  | .failedEntry => .next s.failEntry
  | .regError => .next (s.registerError s.core.pc)
  | .row i inp => s.runRow i inp
  | .instr i => (s.enteredOk i).runRow (rowOf i).1 (rowOf i).2

/-! ## Pending hardware steps -/

def ev (cid : Nat) (i : Instr) (inp : Inp) : Turn := ⟨cid, some i, inp⟩

/-- A step, where its condition holds. -/
def evIf (b : Bool) (cid : Nat) (i : Instr) (inp : Inp) : List Turn := if b then [ev cid i inp] else []

/-- The steps of a core's sequencer, tile links, queues and channels. -/
def State.unitSteps (s : State) (cid : Nat) (c : Core) : List Turn :=
  let chans : List Turn :=
    if c.copy.fifo.isEmpty then []
    else (List.range 4).flatMap fun k =>
      [ev cid .copyBegin (.idx k), ev cid .chunkAccess (.idx k), ev cid .chunkRefetch (.idx k),
        ev cid .copyChunk (.idx k), ev cid .lfinjFire (.idx k), ev cid .copyComplete (.idx k)]
  if c.maySave && !s.sfuOwes cid then [ev cid .contextSave .none]
  else
    (match c.vec.seq with
     | [] => []
     | e :: _ =>
       evIf (!e.isSfu || c.sfuNext) cid .sequencerPerform .none ++ evIf e.rot.isSome cid .linktimeout .none) ++
    evIf (c.tile.fromEast.isNone && (s.coreAt (eastOf cid)).tile.sendWest.isSome) cid .tmrotTileReceive (.idx 0) ++
    evIf (c.tile.fromSouth.isNone && (s.coreAt (southOf cid)).tile.sendNorth.isSome) cid .tmrotTileReceive
      (.idx 1) ++
    (match c.applying with
     | some x => [if x.sound.isSome then ev cid .soundMemberApply (.two cid 0) else ev cid .niApply .none]
     | none => []) ++
    evIf (!c.inbox.spill.isEmpty && decide (c.inbox.arrival.length < 64)) cid .spillMove .none ++ chans ++
    evIf (!c.wdFired && (s.bindOf cid).isSome) cid .bindWatchdogFirst .none ++
    evIf (c.wdFired && (s.bindOf cid).isSome) cid .bindWatchdogSecond .none

/-- The step that takes an operation from the network. -/
def State.packetStep (s : State) (p : Packet) (k : Nat) : Turn :=
  if (s.divertsTo p.dst p.ctx).isSome then ev p.dst .preemptDivert (.idx k)
  else
    let i : Instr := match p.kind with
      | .write _ _ | .copy _ _ _ => .niApply
      | .read _ _ => .niRemoteRead
      | .amo _ _ _ _ _ _ => .niRemoteAtomic
      | .msg _ _ _ => .messageAccept
      | .mint _ => .mintApply
      | .bfree => .bfreeCredit
    ev p.dst i (.idx k)

/-- The step that takes an answer. -/
def State.answerStep (s : State) (r : Reply) (k : Nat) : Turn :=
  if (s.divertsTo r.dst r.ctx).isSome then ev r.dst .preemptDivert (.two k 0)
  else
    let load : Bool := ((s.coreAt r.dst).findOut r.tag).any fun o => o.kind.isLoad
    let value : Bool := match r.kind with
      | .value _ => true
      | _ => false
    ev r.dst (if load || value then .replyArrival else .ackArrival) (.idx k)

/-- The step that takes a body from the fabric's inbox. -/
def inboxStep (cid : Nat) (b : FlitBody) (k : Nat) : List Turn :=
  match b with
  | .announce _ => [ev cid .wlAnnounceReceive (.idx k)]
  | .wlArm _ => [ev cid .wlAnnounceReceive (.idx k)]
  | .waveAsk _ | .waveAnswer _ => [ev cid .wlTerminationWave (.idx k)]
  | .terminated _ => [ev cid .wlTermination (.idx k)]
  | .barSum _ _ => [ev cid .barrierArrivalSum (.idx k)]
  | .barRelease _ => [ev cid .barrierRelease (.idx k)]
  | .soundDone _ => [ev cid .soundCompletion (.two k 0)]
  | .sceMsg _ => [ev cid .sceArrival (.two k 0)]
  | .sceClose _ _ _ => [ev cid .generationClose (.two k 0)]
  | .sceRelease _ _ _ _ => [ev cid .generationRelease (.two k 0)]
  | .sceAsk _ | .sceData _ _ _ | .sceAck _ _ | .sceDone _ _ => [ev cid .sceLoserCopy (.idx k)]
  | _ => []

/-- Barriers: the sums of a configured instance, and its release. -/
def State.barSteps (s : State) (b : BarState) (k : Nat) : List Turn :=
  evIf (s.barComplete b) s.cid .barrierRelease (.two k 0) ++
    ((s.barConfigOf b.inst).toList.flatMap fun c => c.counts.map fun x => ev s.cid .barrierArrivalSum (.two k x.1))

/-- The worklist's steps at a cluster's slice, where `serving` lists the cores that wait for a task. -/
def State.sliceSteps (s : State) (serving : List (Nat × Core)) (k : Nat) : List Turn :=
  let w := s.wl
  let n := (w.slice k).tasks.length
  let part := s.takesPart k
  let served := serving.any fun c => clusterOf c.1 == k
  evIf (n != 0 && served) s.cid .wlDispatch (.idx k) ++
    evIf (decide (448 < n)) s.cid .wlSliceSpill (.idx k) ++
    evIf (!w.spill.isEmpty && s.refills k) s.cid .wlRefill (.idx k) ++
    evIf (served && (w.offer k).isNone && !(w.movable (s.fullest k)).isEmpty) s.cid .wlMove (.idx k) ++
    evIf (!w.stealIn.isEmpty && part) s.cid .wlStealReceive (.idx k)

/-- The worklist's steps while it is enabled. -/
def State.worklistSteps (s : State) : List Turn :=
  let w := s.wl
  if !w.enabled then []
  else
    evIf (!w.incs.isEmpty) s.cid .wlCountIncrement (.idx 0) ++
    evIf (!w.decs.isEmpty) s.cid .wlCountDecrement (.idx 0) ++
    (match w.floorMsgs with
     | [] => []
     | m :: _ => [ev s.cid .wlFloorReceive (.idx m.cluster)]) ++
    (List.range 96).flatMap (s.sliceSteps s.serving) ++
    evIf (w.armed && w.quiescent) s.cid .wlTermination .none ++
    evIf (!w.sharing.isEmpty) s.cid .wlTerminationWave .none ++
    evIf (w.stallLimit != 0 && decide (w.stallLimit.toNat ≤ w.stallAcc)) s.cid .wlStallExpiry .none ++
    (if w.sharing.isEmpty then []
     else
      [ev s.cid .wlFloorExchange .none, ev s.cid .wlStealRequest .none, ev s.cid .wlStealAnswer .none] ++
        w.sharing.map fun p => ev s.cid .wlFabricLeave (.idx p))

/-- The steps of Sound groups. -/
def State.soundSteps (s : State) : List Turn :=
  (List.range s.sound.toHome.length).map (fun k => ev s.cid .soundStamp (.idx k)) ++
  (s.sound.copies.zipIdx.map fun (x, k) => ev s.cid (if x.refused then .soundRetry else .soundMemberApply) (.idx k)) ++
  (s.sound.sums.zipIdx.flatMap fun (x, k) => evIf x.waiting.isEmpty s.cid .soundCompletion (.idx k))

/-- The steps of a population's generation. -/
def popSteps (cid slot : Nat) (p : Population) : List Turn :=
  match p.closed with
  | none => evIf (!p.arrivals.isEmpty) cid .generationClose (.idx slot)
  | some k =>
    (k.losers.zipIdx.flatMap fun (l, j) => evIf (!l.asked) cid .sceLoserCopy (.two slot j)) ++
      [ev cid .sceLoserCopy (.flag slot false), ev cid .generationRelease (.idx slot)]

/-- The steps of the SCE beside those of its own populations: the copies that it performs, and what it reports to the
homes of other packages. -/
def State.sceSteps (s : State) : List Turn :=
  (s.sce.jobs.zipIdx.flatMap fun (x, k) => evIf (!x.waits) s.cid .sceLoserCopy (.three k 0 0)) ++
    s.sce.pops.flatMap fun p => evIf (s.unreported p.2).isSome s.cid .sceArrival (.flag p.1 false)

/-- The steps of the hub's launch queues. -/
def State.hubSteps (s : State) : List Turn :=
  evIf (!s.hub.groups.isEmpty) s.cid .continuationArrival (.idx 0) ++
  (s.hub.entries.flatMap fun e =>
    match e.state with
    | .reading | .joined => [ev s.cid .templateRead (.idx e.id)]
    | .ready r _ => [ev s.cid .qwaitExpiry (.two e.queue r.prio)]
    | _ => []) ++
  (match s.hub.nextSource with
   | some k => [ev s.cid (if k < 64 then .overflowDrain else .submissionConsume) .none]
   | none => []) ++
  (s.hub.binds.zipIdx.flatMap fun (b, k) => evIf (!b.started) s.cid .clauseLoadDone (.idx k))

/-- Every hardware step that may be due. A step whose condition does not hold changes nothing. -/
def State.hardwareSteps (s : State) : List Turn :=
  (s.listed.flatMap fun c => s.unitSteps c.1 c.2) ++
  (s.sfu.map fun r => ev r.cid (if r.accepted.isSome then .sfuReturn else .sfuAccept) .none) ++
  (s.net.zipIdx.map fun (p, k) => s.packetStep p k) ++
  (s.back.zipIdx.map fun (r, k) => s.answerStep r k) ++
  (s.bars.zipIdx.flatMap fun (b, k) => s.barSteps b k) ++
  (s.fabric.inbox.zipIdx.flatMap fun (b, k) => inboxStep s.cid b k) ++
  s.worklistSteps ++ s.soundSteps ++
  ((List.range s.sce.msgs.length).map fun k => ev s.cid .sceArrival (.idx k)) ++
  (s.sce.pops.flatMap fun p => popSteps s.cid p.1 p.2) ++ s.sceSteps ++ s.hubSteps ++
  (s.host.ports.zipIdx.flatMap fun (p, k) => evIf (decide (p.last + 1024 ≤ s.now)) s.cid .tokenRefill (.idx k))

/-! ## The choice while the schedule is empty -/

/-- The core in focus has something to do. -/
def State.focusReady (s : State) : Bool :=
  match s.coreMove with
  | .stay => false
  | _ => true

/-- The core that moves: the one in focus for up to 64 steps while it has something to do, then the next of the
others that is not idle or halted. -/
def State.nextCore (s : State) : Nat :=
  if s.focusReady && s.steps % 64 != 63 then s.cid
  else
    match s.others.find? fun x => x.2.run == .run || x.2.run == .wait with
    | some x => x.1
    | none => s.cid

/-- The move while the schedule is empty: on every second step a pending hardware step, each in its turn, and else a
core. -/
def State.autoTurn (s : State) : Turn :=
  if s.steps % 2 == 0 then ⟨s.nextCore, none, .none⟩
  else
    let evs := s.hardwareSteps
    (evs[s.steps / 2 % evs.length]?).getD ⟨s.nextCore, none, .none⟩

/-- The core is one of this package. -/
def State.hasCore (s : State) (cid : Nat) : Bool :=
  pkgOf cid == s.pkg && cid / 2 ^ 11 % 2 == 0 && decide (clusterOf cid < 96)

/-- Make the move of a turn. A turn that names no core of this package moves at the core in focus; one that names a
row of a core's own is that core's own move. -/
def State.take (s : State) (t : Turn) : Result :=
  let s := if s.hasCore t.core then s.focus t.core else s
  match t.ev with
  | some i => if isAgentStep i then s.runRow i t.inp else s.move s.coreMove
  | none => s.move s.coreMove

/-! ## Transcript regions (R396 to R398) -/

/-- A record's 16 bytes. -/
def TransRec.bytes (r : TransRec) : List Byte :=
  toBytesLE 8 (r.typ + r.reg * 2 ^ 8 + r.i % 2 ^ 44 * 2 ^ 20) ++ toBytesLE 8 r.data.toNat

/-- The record of 16 bytes; none where they hold no record, and the recorded run ends. -/
def parseRec (bs : List Byte) : Option TransRec :=
  let w := ofBytesLE (bs.take 8)
  let typ := fieldOf w 0 8
  if 1 ≤ typ && typ ≤ 5 then
    some ⟨typ, fieldOf w 8 12, fieldOf w 20 44, BitVec.ofNat 64 (ofBytesLE ((bs.drop 8).take 8))⟩
  else none

/-- The transcript has nothing to do with the region now. -/
def Core.transSettled (c : Core) : Bool := c.trans.out.isEmpty && !c.awaitsRecord

/-- A core's records are written to its region. -/
def State.flushTrans (s : State) (cid : Nat) : State :=
  let c := s.coreAt cid
  let s := c.trans.out.foldl (fun s x => s.pokeRecord c.ids.ctx.toNat (c.trans.base + 16 * x.1) x.2.bytes) s
  s.onCore cid fun c => { c with trans := { c.trans with out := [] } }

/-- The record at a place of a core's region, and global memory after the read; none where the read waits: for the hub's
own write of it, for the end of an eviction, or for the expansion of its page (R332). -/
def State.readTrans (s : State) (c : Core) (k : Nat) : Option (Gmem × Option TransRec) :=
  let ctx := c.ids.ctx.toNat
  let va := (c.trans.base + 16 * k) % 2 ^ 56
  if c.trans.cap ≤ k then some (s.gmem, none)
  else if s.gmem.unwritten ctx va 16 then none
  else
    match s.gmem.readRange ctx s.hitR true 3 va 16 [] with
    | .done g bs => some (g, parseRec bs)
    | .fault g _ r => if r == reasonCompressed then none else some (g, none)
    | .fail g _ _ => some (g, none)
    | .held => none

/-- A replay reads its next record; at the end of the recorded run it diverges (R398). -/
def State.loadTrans (s : State) (cid : Nat) : State :=
  let c := s.coreAt cid
  let k := c.trans.count.toNat
  if !c.awaitsRecord then s
  else
    match s.readTrans c k with
    | none => s
    | some (g, r) =>
      ({ s with gmem := g }).onCore cid fun c =>
        let c := { c with trans := { c.trans with ahead := some (k, r) } }
        if r.isNone then c.diverged else c

/-- The transcripts of all cores and their regions agree. -/
def State.syncTrans (s : State) : State :=
  if s.listed.all fun c => c.2.transSettled then s
  else s.listed.foldl (fun s c => (s.flushTrans c.1).loadTrans c.1) s

/-- Time passes: by a free number of core cycles and of hub cycles, which the stall count of R280 follows; the hub's writes
that waited are made, the transcripts are brought up to date, and a place of SRAM with an error may be read. -/
def State.tick (s : State) : State :=
  let stall := if s.stalling then s.wl.stallAcc + Config.elapsed s.steps else 0
  let s := if s.host.sram.clean then s else s.readSram
  { s.flushWrites.syncTrans with
    now := s.now + Config.elapsed s.steps
    hubNow := s.hubNow + Config.elapsedHub s.steps
    wl := { s.wl with stallAcc := stall } }

/-- The step is counted, and its turn leaves the schedule. -/
def State.counted (s : State) : State := { s with steps := s.steps + 1, turns := s.turns.drop 1 }

/-- The turn of the next step. -/
def State.nextTurn (s : State) : Turn :=
  match s.turns with
  | t :: _ => t
  | [] => s.autoTurn

end Sys2Proof.Machine
end

