-- ==== Sys2Proof/Machine/Step.lean ====
section
/-! DEFINITION. One step of the machine: time passes, and the agent whose turn it is moves. -/

namespace Sys2Proof.Machine

def step (s : State) : Host.Outcome State Fault Refusal :=
  let t := s.tick
  t.counted.take t.nextTurn

/-- The state with an instruction of `nbits` bits placed at the `pc` of the core in focus, which runs and has the next
turn. It stands for the load of a program and a start by the host (log entry 9). -/
def State.withFetchWord (s : State) (nbits w : Nat) : State :=
  let place (c : Core) : Core :=
    { c with
      run := .run
      haltReq := false
      preemptReq := false
      ls := c.ls.writeN c.pc.toNat 16 (w % 2 ^ nbits)
      stale := []
      ir := none }
  { s with core := place s.core, turns := ⟨s.cid, none, .none⟩ :: s.turns }

end Sys2Proof.Machine
end

