-- ==== Sys2Proof/Safety.lean ====
section
/-! DEFINITION. The words that the statements use: the canonical form of memory, how an instruction ends, and what an
instruction may change. -/

namespace Sys2Proof.Machine

/-! ## Memory -/

/-- Every local store of the state and global memory are in canonical form. -/
def State.memOk (s : State) : Bool :=
  s.core.ls.wf && (s.others.all fun x => x.2.ls.wf) && (s.saved.all fun m => m.core.ls.wf) && s.gmem.wf

/-! ## How an instruction ends -/

/-- The core in focus changes by `f`, and its instruction of `len` bytes retires (R32). -/
def State.retires (s : State) (len : Nat) (f : Core → Core) : State := s.mapCore fun c => (f c).retire len

/-- `s[d]` takes a value, and the instruction retires. -/
def State.puts (s : State) (d : SReg) (x : Word) (len : Nat) : State := s.retires len fun c => c.wrS d x

/-- The core in focus takes a trap at its instruction (R27). -/
def State.traps (s : State) (cause : Nat) (tval : Word) : State :=
  s.mapCore fun c => c.takeTrap ⟨cause, tval⟩ c.pc

/-- The core in focus waits at its instruction (R30). -/
def State.waits (s : State) : State := s.mapCore fun c => { c with run := .wait }

/-! ## Shapes of statements: the value that an instruction gives `s[d]` -/

/-- An ALU row gives `full` of its operands, and with W the low 32 bits of `half`, sign-extended (R105). -/
def GivesAlu (mk : AluOp → Instr) (full half : Word → Word → Word) : Prop :=
  ∀ (o : AluOp) (s : State),
    let a := s.core.rdS o.a
    let b := s.core.rdS o.b
    exec (mk o) s = .next (s.puts o.d (if o.w then sext32 (half a b) else full a b) 8)

def GivesCmp (mk : CmpOp → Instr) (f : Word → Word → Word) : Prop :=
  ∀ (o : CmpOp) (s : State), exec (mk o) s = .next (s.puts o.d (f (s.core.rdS o.a) (s.core.rdS o.b)) 8)

/-- A row of R109 whose immediate has 30 bits, sign-extended. -/
def GivesImm30 (mk : Imm30Op → Instr) (f : Word → Word → Word) : Prop :=
  ∀ (o : Imm30Op) (s : State), exec (mk o) s = .next (s.puts o.d (f (s.core.rdS o.a) (o.imm.signExtend 64)) 8)

/-- The same of an immediate of 62 bits. -/
def GivesImm62 (mk : Imm62Op → Instr) (f : Word → Word → Word) : Prop :=
  ∀ (o : Imm62Op) (s : State), exec (mk o) s = .next (s.puts o.d (f (s.core.rdS o.a) (o.imm.signExtend 64)) 12)

def GivesShift (mk : ShiftOp → Instr) (f : Word → Nat → Word) : Prop :=
  ∀ (o : ShiftOp) (s : State), exec (mk o) s = .next (s.puts o.d (f (s.core.rdS o.a) o.n.val) 8)

/-- The value meets `p` with the operand. -/
def GivesUn (mk : UnOp → Instr) (p : Word → Word → Prop) : Prop :=
  ∀ (o : UnOp) (s : State), ∃ x, p (s.core.rdS o.a) x ∧ exec (mk o) s = .next (s.puts o.d x 8)

/-- A value of `sgn`ed or unsigned operands of 64 bits, or with W of 32 (R111). -/
def readAs (sgn w : Bool) (x : Word) : Int :=
  if w then (if sgn then (x.setWidth 32).toInt else (x.setWidth 32).toNat) else if sgn then x.toInt else x.toNat

/-- A division gives the quotient toward zero or the remainder, which has the sign of the dividend; a zero divisor
traps once no reply is owed. -/
def Divides (mk : AluOp → Instr) (sgn quot : Bool) : Prop :=
  ∀ (o : AluOp) (s : State),
    let p := readAs sgn o.w (s.core.rdS o.a)
    let d := readAs sgn o.w (s.core.rdS o.b)
    (d ≠ 0 → ∃ q r : Int, p = q * d + r ∧ r.natAbs < d.natAbs ∧ 0 ≤ r * p ∧
      let x := BitVec.ofInt 64 (if quot then q else r)
      exec (mk o) s = .next (s.puts o.d (if o.w then sext32 x else x) 8)) ∧
    (d = 0 → s.core.trapHeld = false → exec (mk o) s = .next (s.traps 0x09 0))

/-! ## Shapes of statements: accesses to the local store -/

/-- The first two checks of R113 in their order, for an access of `n` bytes at `ea`: bounds, then alignment. -/
def ChecksBounds (i : Instr) (w : WaitSel) (ea : Word) (n bounds : Nat) (s : State) : Prop :=
  s.core.waitOk w = true → s.core.trapHeld = false →
    (s.core.okAccess ea.toNat n = false → exec i s = .next (s.traps bounds ea)) ∧
    (s.core.okAccess ea.toNat n = true → ea.toNat % n ≠ 0 → exec i s = .next (s.traps 0x06 ea))

/-- The three checks of R113 in their order; `bad` says that a granule fails, with the `TVAL` of that trap. -/
def ChecksAccess (i : Instr) (w : WaitSel) (ea : Word) (n bounds : Nat) (bad : Bool) (tval : Word) (s : State) : Prop :=
  ChecksBounds i w ea n bounds s ∧
  (s.core.waitOk w = true → s.core.trapHeld = false → s.core.okAccess ea.toNat n = true → ea.toNat % n = 0 → bad = true →
    exec i s = .next (s.traps 0x1A tval))

/-- An access of `n` bytes at `ea` passes the wait field and the checks of R113. -/
def Core.accessOk (c : Core) (w : WaitSel) (ea : Word) (n : Nat) : Prop :=
  c.waitOk w = true ∧ c.okAccess ea.toNat n = true ∧ ea.toNat % n = 0

/-- An atomic writes `new` of the old word and its operand, and gives `s[d]` the old word (R117). -/
def GivesAmo (mk : LamoOp → Instr) (new : Nat → Nat → Nat → Nat) : Prop :=
  ∀ (o : LamoOp) (s : State),
    let n := o.size.bytes
    let ea := s.core.rdS o.a + o.off.signExtend 64
    let m := s.core.ls.readN ea.toNat n
    let v := (s.core.rdS o.b).toNat % 2 ^ (8 * n)
    s.core.accessOk o.wt ea n → s.core.badIn ea.toNat n = none →
      exec (mk o) s = .next (s.retires 8 fun c =>
        (c.storeN ea.toNat n (new (8 * n) m v)).wrS o.d (BitVec.ofInt 64 (toSigned (8 * n) m)))

/-! ## Shapes of statements: control -/

/-- A branch jumps by four times its offset where its condition holds, and goes on otherwise. -/
def Branches (mk : BrOp → Instr) (cond : Word → Word → Prop) : Prop :=
  ∀ (o : BrOp) (s : State),
    let c := s.core
    (cond (c.rdS o.a) (c.rdS o.b) →
      exec (mk o) s = .next { s with core := c.retireTo (c.pc + 4 * o.off.signExtend 64) }) ∧
    (¬ cond (c.rdS o.a) (c.rdS o.b) → exec (mk o) s = .next { s with core := c.retireTo (c.pc + 8) })

/-- What a handler's entry leaves (R237): the pc, the shadow bank, the words, the sender and `hres`. -/
def Core.Entered (t c : Core) (handler : Word) (ws : List Word) (sender : Nat) (hres : Word) : Prop :=
  t.pc = handler ∧ t.run = .run ∧ t.status = { c.status with hnd := true } ∧ t.hres = hres ∧
    (∀ k : Fin 8, t.shadow.get k = c.rdS (argReg k) ∧ t.rdS (argReg k) = ws.getD k 0) ∧
    t.rdS 11 = BitVec.ofNat 64 sender ∧
    (∀ r : SReg, (r.val < 3 ∨ 11 < r.val) → t.rdS r = c.rdS r) ∧
    t.regs.f = c.regs.f ∧ t.regs.v = c.regs.v ∧ t.regs.q = c.regs.q ∧ t.regs.t = c.regs.t ∧ t.regs.z = c.regs.z ∧
    t.ls = c.ls ∧ t.trap = c.trap

/-! ## Shapes of statements: scalar floating point -/

/-- A row that writes `f[d]` and raises flags, unless one of them is enabled: then it traps with the raised set, and
the flags are still raised (R92). -/
def GivesF (i : Instr) (d : FReg) (r : Core → Word × Flags) : Prop :=
  ∀ s : State,
    ((r s.core).2 &&& s.core.fpEnables = 0 →
      exec i s = .next (s.retires 8 fun c => (c.wrF d (r s.core).1).orFlags (r s.core).2)) ∧
    ((r s.core).2 &&& s.core.fpEnables ≠ 0 → s.core.trapHeld = false →
      exec i s = .next ((s.mapCore fun c => c.orFlags (r s.core).2).traps 0x08 ((r s.core).2.setWidth 64)))

/-- The same of a row that writes `s[d]`. -/
def GivesS (i : Instr) (d : SReg) (r : Core → Word × Flags) : Prop :=
  ∀ s : State,
    ((r s.core).2 &&& s.core.fpEnables = 0 →
      exec i s = .next (s.retires 8 fun c => (c.wrS d (r s.core).1).orFlags (r s.core).2)) ∧
    ((r s.core).2 &&& s.core.fpEnables ≠ 0 → s.core.trapHeld = false →
      exec i s = .next ((s.mapCore fun c => c.orFlags (r s.core).2).traps 0x08 ((r s.core).2.setWidth 64)))

/-- A row that writes `f[d]` and raises no flag. -/
def PutsF (i : Instr) (d : FReg) (x : Core → Word) : Prop :=
  ∀ s : State, exec i s = .next (s.retires 8 fun c => c.wrF d (x s.core))

/-- The same of a row that writes `s[d]`. -/
def PutsS (i : Instr) (d : SReg) (x : Core → Word) : Prop := ∀ s : State, exec i s = .next (s.puts d (x s.core) 8)

/-! ## Shapes of statements: other cores -/

/-- The fields of a remote address (R222). -/
def targetOf (ea : Word) : Nat := (ea.extractLsb' 32 24).toNat
def offsetOf (ea : Word) : Nat := (ea.extractLsb' 0 21).toNat

/-- The zero fields of R222 are zero. -/
def ZeroFields (ea : Word) : Prop := ea.extractLsb' 56 8 = 0 ∧ ea.getLsbD 43 = false ∧ ea.extractLsb' 21 11 = 0

/-- A remote address passes the checks of R222 for `n` bytes. -/
def RemoteOk (ea : Word) (n : Nat) : Prop :=
  ZeroFields ea ∧ offsetOf ea + n ≤ 0x140000 ∧ offsetOf ea % n = 0

/-- A remote access fails a check of R222, in their order, and traps. -/
def ChecksRemote (i : Instr) (w : WaitSel) (ea : Word) (n bounds : Nat) (s : State) : Prop :=
  s.core.waitOk w = true → s.core.trapHeld = false →
    (¬ ZeroFields ea ∨ 0x140000 < offsetOf ea + n → exec i s = .next (s.traps bounds ea)) ∧
    (ZeroFields ea → offsetOf ea + n ≤ 0x140000 → offsetOf ea % n ≠ 0 → exec i s = .next (s.traps 0x06 ea))

/-- A word names a core: bits 63:24 and bit 11 are zero (R231). -/
def NamesCore (x : Word) : Prop := x.extractLsb' 24 40 = 0 ∧ x.getLsbD 11 = false

/-- A failure is recorded whose class, or one of whose pending classes, is covered (R383). -/
def Core.failureIn (c : Core) (cls pend : OpClass → Prop) : Prop :=
  c.afault.getLsbD 8 = true ∧ ∃ k : OpClass,
    (cls k ∧ (c.afault.extractLsb' 12 2).toNat = k.code) ∨ (pend k ∧ c.afault.getLsbD (28 + k.code) = true)

/-- With its condition met, a reporting instruction ends as `ends` says, unless a failure that it covers is recorded,
which it reports as a trap (R383). -/
def Reports (i : Instr) (s : State) (covered ends : Prop) : Prop :=
  (s.core.trans.mode ≠ 2 → ¬ covered → ends) ∧
  (s.core.trans.mode = 0 → covered → s.core.trapHeld = false →
    exec i s = .next (s.traps (s.core.afault.extractLsb' 0 8).toNat s.core.afaddr))

/-- No earlier write, atomic, message or copy with a destination in the scope is unacknowledged (R230). -/
def State.fenceDone (s : State) (sc : FenceScope) : Prop :=
  (∀ o ∈ s.core.outst, (o.kind = .store ∨ o.kind = .msg ∨ o.kind = .sound ∨ ∃ d n, o.kind = .amo d n) →
    s.inScope sc o.dest = false) ∧
  ∀ x, FifoItem.req x ∈ s.core.copy.fifo → ∀ d ∈ x.dests s.cid, s.inScope sc d = false

/-- The failures that a `fence` covers: st and cp. -/
def State.fenceFails (s : State) (sc : FenceScope) : Prop :=
  s.core.failureIn (fun k => (k = .st ∨ k = .cp) ∧ s.inScope sc s.core.failDest = true) (fun k => k = .st ∨ k = .cp)

/-- The SFU holds no request of the core in focus, discarded ones among them (R139, R173). -/
def State.sfuFree (s : State) : Prop := s.sfuOwes s.cid = false

/-- Where a core that leaves its clause or start stands: in IDLE, where it takes a halt request that is pending (R31). -/
def Core.leavesFor (c : Core) : RunState := if c.haltReq then .halt else .idle

/-- The operations, messages, copies and tile instructions of the core have ended, and its sequencer is empty. -/
def Core.still (c : Core) : Prop :=
  c.cnt.ld = 0 ∧ c.cnt.stcl = 0 ∧ c.cnt.stpk = 0 ∧ c.cnt.stfb = 0 ∧ c.cnt.cp = 0 ∧ c.cnt.tl = 0 ∧ c.vec.seq = []

/-! ## Shapes of statements: system registers -/

/-- `mtsr`, or the row of the opcode table that stands for it with a register of its own, where the step's operand
names that register. -/
def writerOf (r : SysReg) (a : SReg) (rows : List Instr) (i : Instr) (s : State) : Prop :=
  i = .mtsr r a ∨ (i ∈ rows ∧ s.inp = .reg r a)

/-- A write that meets `ok` changes the core in focus as `f` says, after earlier vector and tile work where R134 says
so, and retires. -/
def WritesReg (r : SysReg) (rows : List Instr) (ok : Word → Core → Prop) (f : Word → Core → Core) : Prop :=
  ∀ (a : SReg) (i : Instr) (s : State), writerOf r a rows i s → ok (s.core.rdS a) s.core →
    ((r = .fpctl ∨ r = .rngkey ∨ r = .rngstep ∨ ∃ t, r = .tshp t) → s.core.vec.seq = []) →
    exec i s = .next (s.retires 8 (f (s.core.rdS a)))

/-- A write of a trap register. -/
def WritesTrap (r : SysReg) (f : Word → TrapRegs → TrapRegs) : Prop :=
  WritesReg r [] (fun _ _ => True) fun x c => { c with trap := f x c.trap }

/-- A write that traps with `ILLEGAL`. -/
def RefusesWrite (r : SysReg) (bad : Word → Core → Prop) : Prop :=
  ∀ (a : SReg) (s : State), bad (s.core.rdS a) s.core → s.core.trapHeld = false →
    ((r = .fpctl ∨ ∃ t, r = .tshp t) → s.core.vec.seq = []) →
    exec (.mtsr r a) s = .next (s.traps 0x01 (word64 (.mtsr r a)))

/-! ## Shapes of statements: the steps of the interfaces and the engines -/

/-- The step's operand selects an operation that arrives at the core in focus, in the order of the route (R229). -/
def State.arrives (s : State) (k : Nat) (p : Packet) : Prop :=
  s.inp = .idx k ∧ s.net[k]? = some p ∧ p.dst = s.cid ∧ mayArrive s.net k p = true ∧ s.divertsTo p.dst p.ctx = none ∧
    s.core.applying = none

/-- The step's operand selects an answer for the core in focus. -/
def State.answers (s : State) (k : Nat) (r : Reply) : Prop :=
  s.inp = .idx k ∧ s.back[k]? = some r ∧ r.dst = s.cid ∧ s.divertsTo r.dst r.ctx = none

/-- The operation leaves the network, its core changes, and its issuer in this package is answered. -/
def State.serves (s : State) (k : Nat) (p : Packet) (c : Core) (a : ReplyKind) : State :=
  { s with net := s.net.eraseIdx k, core := c, back := s.back ++ [⟨p.src, p.ctx, p.tag, a⟩] }

/-- The answer leaves the network, and its core changes. -/
def State.takes (s : State) (k : Nat) (c : Core) : State := { s with back := s.back.eraseIdx k, core := c }

/-- The oldest request of a channel that the step's operand names runs. -/
def State.runs (s : State) (ch : Chan) (x : Xfer) : Prop :=
  s.inp = .idx ch.val ∧ s.core.oldest ch = some x ∧ x.phase = .active

/-! ## Shapes of statements: frames -/

/-- However the instruction ends in a next state, it changes at most `s[ds]`, `f[df]`, the `n` bytes from `a` where
`stores` gives `(a, n)`, the flags if `flags` says so, and what retiring, waiting or a trap's entry changes. -/
def Frame (i : Instr) (ds : Option SReg) (df : Option FReg) (flags : Bool) (stores : Core → Nat × Nat) : Prop :=
  ∀ s t : State, exec i s = .next t →
    let c := s.core
    let u := t.core
    (∀ r, ds ≠ some r → u.rdS r = c.rdS r) ∧ (∀ r, df ≠ some r → u.rdF r = c.rdF r) ∧
    u.regs.v = c.regs.v ∧ u.regs.q = c.regs.q ∧ u.regs.t = c.regs.t ∧ u.regs.z = c.regs.z ∧
    (∀ b, (b < (stores c).1 ∨ (stores c).1 + (stores c).2 ≤ b) → u.ls.read b = c.ls.read b) ∧
    (flags = false → u.fp = c.fp) ∧ u.fp.ctl = c.fp.ctl ∧
    ((u.status = c.status ∧ u.trap = c.trap) ∨
      ∃ x, u.status = (c.takeTrap x c.pc).status ∧ u.trap = (c.takeTrap x c.pc).trap) ∧
    t = { s with core := { c with
      pc := u.pc, regs := u.regs, badRegs := u.badRegs, fp := u.fp, ls := u.ls, stale := u.stale, bad := u.bad, run := u.run
      instret := u.instret, stepping := u.stepping, trans := u.trans, status := u.status, trap := u.trap
      yleft := u.yleft, entering := u.entering, ir := u.ir } }

/-- An instruction that stores nothing. -/
def nowhere (_ : Core) : Nat × Nat := (0, 0)

/-! ## Shapes of statements: the sequencer -/

/-- A new entry for one instruction, with the slots as they are at its issue (R137, R138). -/
def Core.entryFor (c : Core) (op : SeqOp) : SeqEntry :=
  { pc := op.pc, body := [op], loop := false, n := 1, iter := 0, pos := 0, slots := c.vec.slots,
    part := .none, follow := none, rot := none }

/-- A register instruction of the vector unit enters the sequencer at its issue, once there is room. -/
def Enters (i : Instr) : Prop :=
  ∀ s : State, s.core.vec.seq.length < 16 →
    exec i s = .next (s.retires 8 fun c => c.enqueue (c.entryFor (c.capture i c.pc)) c.vec.slots)

/-- A vector instruction that ends in the scalar pipeline changes the core as `f` says, ages the operand buffer and
retires. -/
def PutsHeld (i : Instr) (s : State) (f : Core → Core) : Prop :=
  exec i s = .next (s.retires 8 fun c => (f c).afterHold i)

/-- An instruction of the vector unit that accesses memory enters it after its wait field, with its slot bound to its
type and every access in bounds and aligned; its slot moves on (R137, R147, R149). -/
def EntersChecked (i : Instr) (drained : Bool) : Prop :=
  ∀ s : State, s.core.vec.seq.length < 16 → s.core.waitOk (vecWait i) = true →
    (drained = true → s.core.vec.seq = []) →
    slotTrap s.core.vec.slots i = none →
    s.core.boundsTrap s.core.vec.slots 0 (s.core.capture i s.core.pc) = none →
    exec i s = .next (s.retires 8 fun c =>
      c.enqueue (c.entryFor (c.capture i c.pc)) (advanceSlots c.vec.slots i))

/-- With its next piece the instruction has read `bs`, all `n` bytes from `a`. -/
def Core.hasRead (c : Core) (a n : Nat) (bs : List Byte) : Prop :=
  c.readPiece a n c.readSoFar = bs ∧ n ≤ bs.length

/-- Until its last piece, each step of an instruction that reads `n` bytes from `a` reads the next of them and changes
nothing else (R247). -/
def ReadsOn (i : Instr) (a n : Nat) (s : State) : Prop :=
  (s.core.readPiece a n s.core.readSoFar).length < n →
    exec i s = .next (s.mapCore fun c => c.keepRead i (c.readPiece a n c.readSoFar))

/-- A tile instruction enters the sequencer once it passes its issue checks, with the record that it has read, and
`CNTTL` counts it (R181, R182). -/
def EntersTile (op : TileOp) : Prop :=
  ∀ (s : State) (bs : List Byte) (shape : Option ShapeRec), s.core.vec.seq.length < 16 →
    (readsRecord op = true → s.core.vec.seq = []) →
    (match recordReg op with
      | some r => s.core.shapeTrap (s.core.rdS r) = none ∧ s.core.hasRead (s.core.rdS r).toNat 64 bs
      | none => bs = []) →
    s.core.tileCheck op (ofBytesLE bs) = .ok shape →
    exec op.toInstr s = .next (s.retires 8 fun c =>
      { c.enqueue (c.entryFor ⟨op.toInstr, c.pc, 0, 0, 0, shape⟩) c.vec.slots with
        cnt := { c.cnt with tl := c.cnt.tl + 1 } })

/-! ## Shapes of statements: performing -/

/-- The oldest entry of the core's sequencer performs `op` next; `rest` are the later entries. -/
def State.heads (s : State) (e : SeqEntry) (op : SeqOp) (rest : List SeqEntry) : Prop :=
  s.core.vec.seq = e :: rest ∧ e.op? = some op

/-- Element `j` of a vector register read with a type. -/
def Core.elem (c : Core) (r : VReg) (t : EType) (j : Nat) : Nat := ((c.rdV r).elems t).getD j 0

/-- Performing gives element `j` of `v[d]` the low bits of `f` where the predicate enables it, and leaves the other
elements, the sidecar, the other registers and memory (R153). -/
def Performs (k : VCtl) (d : VReg) (i : Instr) (f : Core → Nat → Nat) : Prop :=
  ∀ (s : State) (e : SeqEntry) (op : SeqOp) (rest : List SeqEntry), op.ins = i → s.heads e op rest →
    s.core.badRegs = [] →
    ∃ t, exec .sequencerPerform s = .next t ∧ t.core.vec.seq = e.next.toList ++ rest ∧
      (∀ j < k.et.count, t.core.elem d k.et j =
        if (s.core.rdQ k.q).getLsbD j then f s.core j % 2 ^ k.et.width else s.core.elem d k.et j) ∧
      (t.core.rdV d).scales = (s.core.rdV d).scales ∧
      (∀ r, r ≠ d → t.core.rdV r = s.core.rdV r) ∧
      t.core.regs = { s.core.regs with v := t.core.regs.v } ∧ t.core.ls = s.core.ls

/-- Performing changes the register files as `f` says, and no memory. -/
def Moves (i : Instr) (f : Core → SeqOp → Core) : Prop :=
  ∀ (s : State) (e : SeqEntry) (op : SeqOp) (rest : List SeqEntry), op.ins = i → s.heads e op rest →
    s.core.badRegs = [] →
    ∃ t, exec .sequencerPerform s = .next t ∧ t.core.vec.seq = e.next.toList ++ rest ∧
      t.core.regs = (f s.core op).regs ∧ t.core.ls = s.core.ls

/-- Elements raise the flags whose bits `f` names, beside those raised before (R92). -/
def Core.raises (c u : Core) (f : Nat → Prop) : Prop :=
  u.fp.ctl = c.fp.ctl ∧ ∀ b, u.fp.flags.getLsbD b = true ↔ c.fp.flags.getLsbD b = true ∨ f b

/-- The trap of an instruction that is performed: it writes no register and no memory, and the entries are gone (R143,
R144). -/
def Core.trapsAt (c u : Core) (e : SeqEntry) (op : SeqOp) (cause : Nat) : Prop :=
  u.regs = c.regs ∧ u.ls = c.ls ∧ u.vec.seq = [] ∧ u.trap.cause = BitVec.ofNat 64 cause ∧
    u.trap.seqpos = BitVec.ofNat 32 (if e.loop then e.iter else 0) ∧
    (c.isDebug = false → u.trap.epc = op.pc ∧ u.pc = c.trap.tvec)

/-- The core's oldest request at the SFU returns now, and its entry still waits for it (R172). -/
def State.sfuReturns (s : State) : Prop :=
  ∃ r outs, s.sfu.find? (fun r => r.due s.cid s.now) = some r ∧ s.core.vec.sfuOut = r.no :: outs

/-- What the performance of an entry may depend on besides the core. -/
def State.ctxOf (s : State) (e : SeqEntry) : PerfCtx := e.ctx s.cid (Config.pieces s.steps)

/-- A result per element: with `e` at the head of the sequencer, the step `ev` gives each enabled element below `n` of
`v[d]` the low bits of `f`, elements from `n` on 0, and keeps the others and everything else, and the flags of the enabled
elements are raised; but if one of these is enabled it traps with the mask of the elements that raise one (R143, R153,
R164). -/
def LanesGive (ev : Instr) (ready : State → Prop) (i : Instr) (q : QReg) (d : VReg) (t : EType) (n : Nat)
    (f : Core → PerfCtx → SeqOp → Nat → Nat × Flags) : Prop :=
  ∀ (s : State) (e : SeqEntry) (op : SeqOp) (rest : List SeqEntry), op.ins = i → s.heads e op rest → ready s →
    let c := s.core
    let r (j : Nat) : Nat × Flags := f c (s.ctxOf e) op j
    let on (j : Nat) : Prop := j < n ∧ (c.rdQ q).getLsbD j = true
    let trapping (j : Nat) : Prop := on j ∧ (r j).2 &&& c.fpEnables ≠ 0
    let raised (b : Nat) : Prop := ∃ j, on j ∧ (r j).2.getLsbD b = true
    ((∀ j, ¬ trapping j) → ∃ u, exec ev s = .next u ∧ u.core.vec.seq = e.next.toList ++ rest ∧
      (∀ j < t.count, u.core.elem d t j =
        if n ≤ j then 0 else if (c.rdQ q).getLsbD j then (r j).1 % 2 ^ t.width else c.elem d t j) ∧
      (u.core.rdV d).scales = (c.rdV d).scales ∧ (∀ v, v ≠ d → u.core.rdV v = c.rdV v) ∧
      u.core.regs = { c.regs with v := u.core.regs.v } ∧ u.core.ls = c.ls ∧ c.raises u.core raised) ∧
    ((∃ j, trapping j) → e.follow = none → c.owed = false →
      ∃ u, exec ev s = .next u ∧ c.trapsAt u.core e op 0x08 ∧ c.raises u.core raised ∧
        ∀ b < 64, u.core.trap.tval.getLsbD b = true ↔ ∃ j, trapping j ∧ j / (if t.count = 128 then 2 else 1) = b)

/-- The sequencer performs its oldest instruction element by element. -/
def PerformsLanes (i : Instr) (k : VCtl) (d : VReg) (f : Core → PerfCtx → Nat → Nat × Flags) : Prop :=
  LanesGive .sequencerPerform (fun s => s.core.badRegs = []) i k.q d k.et k.et.count fun c x _ => f c x

/-- Quantising by blocks of 32: a block's scale is that of its enabled values, or the NaN scale where `keepNaN` says so, and
each enabled element is its value over the scale, saturated, or +0 where the scale is zero or NaN (R88, R167, R169). -/
def PerformsBlocks (i : Instr) (k : VCtl) (d : VReg) (rnd : Core → PerfCtx → Nat → Rnd) (keepNaN : Core → Nat → Bool)
    (val : Core → Nat → FVal × Flags) : Prop :=
  ∀ (s : State) (e : SeqEntry) (op : SeqOp) (rest : List SeqEntry), op.ins = i → s.heads e op rest → s.core.badRegs = [] →
    32 ≤ k.et.count →
    let c := s.core
    let enabled (j : Nat) : Bool := (c.rdQ k.q).getLsbD j
    let scale (b : Nat) : BitVec 20 :=
      if keepNaN c b then 0xFF000
      else chooseScale k.et
        (((List.range 32).filter fun n => enabled (32 * b + n)).map fun n => (val c (32 * b + n)).1)
    let r (j : Nat) : Nat × Flags :=
      match Scale.ofBits (scale (j / 32)) with
      | .val _ _ => k.et.write (rnd c (s.ctxOf e) j) true (unscale (scale (j / 32)) (val c j).1)
      | _ => (0, if keepNaN c (j / 32) = false ∧ (val c j).1.isSNaN = true then flagNV else 0)
    let on (j : Nat) : Prop := j < k.et.count ∧ enabled j = true
    let flags (j : Nat) : Flags := (r j).2 ||| (val c j).2
    let raised (b : Nat) : Prop := ∃ j, on j ∧ (flags j).getLsbD b = true
    ((∀ j, on j → flags j &&& c.fpEnables = 0) →
      ∃ u, exec .sequencerPerform s = .next u ∧ u.core.vec.seq = e.next.toList ++ rest ∧
        (∀ j < k.et.count, u.core.elem d k.et j =
          if enabled j then (r j).1 % 2 ^ k.et.width else c.elem d k.et j) ∧
        (∀ b : Fin 4, (u.core.rdV d).scales.get b =
          if b.val < k.et.count / 32 then scale b.val else (c.rdV d).scales.get b) ∧
        (∀ v, v ≠ d → u.core.rdV v = c.rdV v) ∧ u.core.regs = { c.regs with v := u.core.regs.v } ∧
        u.core.ls = c.ls ∧ c.raises u.core raised) ∧
    ((∃ j, on j ∧ flags j &&& c.fpEnables ≠ 0) → e.follow = none → c.owed = false →
      ∃ u, exec .sequencerPerform s = .next u ∧ c.trapsAt u.core e op 0x08 ∧ c.raises u.core raised ∧
        ∀ b < 64, u.core.trap.tval.getLsbD b = true ↔ ∃ j, on j ∧ j / (if k.et.count = 128 then 2 else 1) = b)

/-- `vdeq`: element `32b + n` goes into element `n` of register `d + b`, as BF16 (R168). -/
def PerformsGroup (i : Instr) (o : VV) (f : Core → Nat → Nat × Flags) : Prop :=
  ∀ (s : State) (e : SeqEntry) (op : SeqOp) (rest : List SeqEntry), op.ins = i → s.heads e op rest → s.core.badRegs = [] →
    let c := s.core
    let count := o.k.et.count
    let enabled (j : Nat) : Bool := (c.rdQ o.k.q).getLsbD j
    let on (j : Nat) : Prop := j < count ∧ 32 ≤ count ∧ enabled j = true
    let trapping (j : Nat) : Prop := on j ∧ (f c j).2 &&& c.fpEnables ≠ 0
    let raised (b : Nat) : Prop := ∃ j, on j ∧ (f c j).2.getLsbD b = true
    ((∀ j, ¬ trapping j) → ∃ u, exec .sequencerPerform s = .next u ∧ u.core.vec.seq = e.next.toList ++ rest ∧
      (∀ b < count / 32, ∀ n < 32, u.core.elem (vecAt o.d b) .bf16 n =
        if enabled (32 * b + n) then (f c (32 * b + n)).1 % 2 ^ 16 else c.elem (vecAt o.d b) .bf16 n) ∧
      (∀ v, (u.core.rdV v).scales = (c.rdV v).scales) ∧
      (∀ v, (∀ b < count / 32, v ≠ vecAt o.d b) → u.core.rdV v = c.rdV v) ∧
      u.core.regs = { c.regs with v := u.core.regs.v } ∧ u.core.ls = c.ls ∧ c.raises u.core raised) ∧
    ((∃ j, trapping j) → e.follow = none → c.owed = false →
      ∃ u, exec .sequencerPerform s = .next u ∧ c.trapsAt u.core e op 0x08 ∧ c.raises u.core raised ∧
        ∀ b < 64, u.core.trap.tval.getLsbD b = true ↔ ∃ j, trapping j ∧ j / (if count = 128 then 2 else 1) = b)

/-- A compare: mask bits below the element count take the results of the enabled elements, and all others stay (R162). -/
def PerformsMask (i : Instr) (o : QVV) (f : Core → Nat → Bool × Flags) : Prop :=
  ∀ (s : State) (e : SeqEntry) (op : SeqOp) (rest : List SeqEntry), op.ins = i → s.heads e op rest → s.core.badRegs = [] →
    let c := s.core
    let on (j : Nat) : Prop := j < o.k.et.count ∧ (c.rdQ o.k.q).getLsbD j = true
    let trapping (j : Nat) : Prop := on j ∧ (f c j).2 &&& c.fpEnables ≠ 0
    let raised (b : Nat) : Prop := ∃ j, on j ∧ (f c j).2.getLsbD b = true
    ((∀ j, ¬ trapping j) → ∃ u, exec .sequencerPerform s = .next u ∧ u.core.vec.seq = e.next.toList ++ rest ∧
      (o.d ≠ 0 → ∀ j < 128, (u.core.rdQ o.d).getLsbD j =
        if j < o.k.et.count ∧ (c.rdQ o.k.q).getLsbD j = true then (f c j).1 else (c.rdQ o.d).getLsbD j) ∧
      (∀ p, p = 0 ∨ p ≠ o.d → u.core.rdQ p = c.rdQ p) ∧ u.core.regs = { c.regs with q := u.core.regs.q } ∧
      u.core.ls = c.ls ∧ c.raises u.core raised) ∧
    ((∃ j, trapping j) → e.follow = none → c.owed = false →
      ∃ u, exec .sequencerPerform s = .next u ∧ c.trapsAt u.core e op 0x08 ∧ c.raises u.core raised ∧
        ∀ b < 64, u.core.trap.tval.getLsbD b = true ↔
          ∃ j, trapping j ∧ j / (if o.k.et.count = 128 then 2 else 1) = b)

/-- A load reads at least the next of its accesses, in their order, and changes nothing else until it has read the last;
then `after` says what it leaves. A bad granule among those that it reads traps with `ECCLOCAL` (R140, R144, R149). -/
def LoadsItems (i : Instr) (need : State → SeqEntry → SeqOp → Prop) (items : Core → SeqEntry → SeqOp → List MemItem) (w : Nat)
    (after : Core → SeqEntry → SeqOp → List Nat → Core → Prop) : Prop :=
  ∀ (s : State) (e : SeqEntry) (op : SeqOp) (rest : List SeqEntry), op.ins = i → s.heads e op rest → s.core.badRegs = [] →
    need s e op → e.part.vals.length = e.part.count → e.part.count ≤ (items s.core e op).length →
    let c := s.core
    let all := items c e op
    ∃ m, e.part.count ≤ m ∧ m ≤ all.length ∧ (e.part.count < all.length → e.part.count < m) ∧
      let now := (all.take m).drop e.part.count
      let vals := e.part.vals ++ now.map (c.readItem w)
      ((∀ it ∈ now, c.badIn it.range.1 it.range.2 = none) →
        (m < all.length → exec .sequencerPerform s =
          .next { s with core := c.setHead (some { e with part := ⟨m, vals⟩ }) }) ∧
        (m = all.length → ∃ u, exec .sequencerPerform s = .next u ∧ u.core.vec.seq = e.next.toList ++ rest ∧
          u.core.ls = c.ls ∧ u.core.fp = c.fp ∧ after c e op vals u.core)) ∧
      ∀ g, c.firstBad (now.map MemItem.range) = some g → e.follow = none → c.owed = false →
        ∃ u, exec .sequencerPerform s = .next u ∧ c.trapsAt u.core e op 0x1A ∧
          u.core.trap.tval = BitVec.ofNat 64 g ∧ u.core.fp = c.fp

/-- A store performs at least the next of its accesses, one after another, each by `put`, and changes no other byte and no
register; when it has performed the last it raises the flags `fl`. An enabled flag among them traps before any access, and a
bad granule into which one would merge traps with `ECCLOCAL` (R116, R140, R143, R144, R184). -/
def StoresItems (i : Instr) (need : State → SeqEntry → SeqOp → Prop) (items : Core → SeqEntry → SeqOp → List MemItem)
    (put : Core → SeqOp → Core → MemItem → Core) (fl : Core → Flags) : Prop :=
  ∀ (s : State) (e : SeqEntry) (op : SeqOp) (rest : List SeqEntry), op.ins = i → s.heads e op rest → s.core.badRegs = [] →
    need s e op → e.part.count ≤ (items s.core e op).length →
    let c := s.core
    let left := (items c e op).drop e.part.count
    let traps (cause : Nat) (tval : Word) (raised : Flags) : Prop :=
      ∃ u, exec .sequencerPerform s = .next u ∧ c.trapsAt u.core e op cause ∧ u.core.trap.tval = tval ∧
        u.core.fp = { c.fp with flags := c.fp.flags ||| raised }
    (fl c &&& c.fpEnables ≠ 0 → e.follow = none → c.owed = false → traps 0x08 ((fl c).setWidth 64) (fl c)) ∧
    (fl c &&& c.fpEnables = 0 →
      (∀ g, c.firstBad ((left.map MemItem.range).filter fun a => c.mergesBad a.1 a.2) = some g → e.follow = none →
        c.owed = false → traps 0x1A (BitVec.ofNat 64 g) 0) ∧
      (c.firstBad ((left.map MemItem.range).filter fun a => c.mergesBad a.1 a.2) = none →
        ∃ m ≤ left.length, (left ≠ [] → 0 < m) ∧
          let c' := (left.take m).foldl (put c op) c
          (∀ a, (∀ it ∈ left.take m, a < it.range.1 ∨ it.range.1 + it.range.2 ≤ a) → c'.ls.read a = c.ls.read a) ∧
          (m < left.length → exec .sequencerPerform s =
            .next { s with core := c'.setHead (some { e with part := ⟨e.part.count + m, []⟩ }) }) ∧
          (m = left.length → ∃ u, exec .sequencerPerform s = .next u ∧ u.core.vec.seq = e.next.toList ++ rest ∧
            u.core.ls = c'.ls ∧ u.core.regs = c.regs ∧ u.core.fp = { c.fp with flags := c.fp.flags ||| fl c })))

/-- A load leaves `f` in the enabled elements of `v[d]`, and the others and the other registers as they were. -/
def Core.loadsLanes (c u : Core) (k : VMemCtl) (d : VReg) (f : Nat → Nat) : Prop :=
  (∀ j < k.et.count, u.elem d k.et j = if (c.rdQ k.q).getLsbD j then f j % 2 ^ k.et.width else c.elem d k.et j) ∧
    (∀ v, v ≠ d → u.rdV v = c.rdV v) ∧ u.regs = { c.regs with v := u.regs.v }

/-- Element `(i, j)` of an accumulator (R180). -/
def Core.accElem (c : Core) (tz : TZ) (d : ZReg) (i j : Nat) : Nat := (accElems tz (c.rdZ d)).getD (i * tz.cols + j) 0

/-- Element `k` of a tile register (R177). -/
def Core.tileElem (c : Core) (t : TReg) (k : Nat) : Nat := (c.tileElems t).getD k 0

/-- A result per accumulator element: each element that `on` names becomes `f`, the others and everything else stay, and the
flags of all of them are raised; but if one of these is enabled it traps with the raised set (R184). -/
def PerformsAcc (i : Instr) (d : ZReg) (tz : TZ) (on : Core → Nat → Nat → Prop)
    (f : Core → Nat → Nat → Nat × Flags) : Prop :=
  ∀ (s : State) (e : SeqEntry) (op : SeqOp) (rest : List SeqEntry), op.ins = i → s.heads e op rest → s.core.badRegs = [] →
    let c := s.core
    let at_ (i j : Nat) : Prop := i < 64 ∧ j < tz.cols ∧ on c i j
    let raised (b : Nat) : Prop := ∃ i j, at_ i j ∧ (f c i j).2.getLsbD b = true
    ((∀ i j, at_ i j → (f c i j).2 &&& c.fpEnables = 0) →
      ∃ u, exec .sequencerPerform s = .next u ∧ u.core.vec.seq = e.next.toList ++ rest ∧
        (∀ i j, at_ i j → u.core.accElem tz d i j = (f c i j).1 % 2 ^ tz.et.width) ∧
        (∀ i j, i < 64 → j < tz.cols → ¬ on c i j → u.core.accElem tz d i j = c.accElem tz d i j) ∧
        (∀ z, z ≠ d → u.core.rdZ z = c.rdZ z) ∧ u.core.regs = { c.regs with z := u.core.regs.z } ∧
        u.core.ls = c.ls ∧ c.raises u.core raised) ∧
    ((∃ i j, at_ i j ∧ (f c i j).2 &&& c.fpEnables ≠ 0) → e.follow = none → c.owed = false →
      ∃ u, exec .sequencerPerform s = .next u ∧ c.trapsAt u.core e op 0x08 ∧ c.raises u.core raised ∧
        ∀ b < 64, u.core.trap.tval.getLsbD b = true ↔ raised b)

/-- A result in a tile register: its elements below `n` become `f`, and the bits beyond them, the other registers and
memory stay. -/
def PerformsTile (i : Instr) (d : TReg) (need : Core → Prop) (n : Core → Nat) (f : Core → Nat → Nat) : Prop :=
  ∀ (s : State) (e : SeqEntry) (op : SeqOp) (rest : List SeqEntry), op.ins = i → s.heads e op rest → s.core.badRegs = [] →
    let c := s.core
    need c → (c.tshape d).fits = true →
    ∃ u, exec .sequencerPerform s = .next u ∧ u.core.vec.seq = e.next.toList ++ rest ∧
      (∀ k < n c, u.core.tileElem d k = f c k) ∧
      (∀ b, n c * tileStore (c.tshape d).et ≤ b → (u.core.rdT d).getLsbD b = (c.rdT d).getLsbD b) ∧
      (∀ t, t ≠ d → u.core.rdT t = c.rdT t) ∧ u.core.regs = { c.regs with t := u.core.regs.t } ∧
      u.core.ls = c.ls ∧ u.core.fp = c.fp

end Sys2Proof.Machine
end

