-- ==== Sys2Proof/Certificates/Slice0/Obligations.lean ====
section
/-! DEFINITION. The statements about the model. -/

open Sys2Proof Sys2Proof.Machine

/-! ## Scalar integer instructions -/

/-- R107: the 16 rows of OPC 0x01, FN 0 to 0xF. -/
def Obligations.AluRowsGiveTheirResults : Prop :=
  GivesAlu .add (fun a b => a + b) (fun a b => a + b) ∧
  GivesAlu .sub (fun a b => a - b) (fun a b => a - b) ∧
  GivesAlu .and (fun a b => a &&& b) (fun a b => a &&& b) ∧
  GivesAlu .or (fun a b => a ||| b) (fun a b => a ||| b) ∧
  GivesAlu .xor (fun a b => a ^^^ b) (fun a b => a ^^^ b) ∧
  GivesAlu .andn (fun a b => a &&& ~~~b) (fun a b => a &&& ~~~b) ∧
  GivesAlu .orn (fun a b => a ||| ~~~b) (fun a b => a ||| ~~~b) ∧
  GivesAlu .shl (fun a b => a <<< (b.toNat % 64)) (fun a b => a <<< (b.toNat % 32)) ∧
  GivesAlu .shr (fun a b => a >>> (b.toNat % 64)) (fun a b => ((a.setWidth 32) >>> (b.toNat % 32)).setWidth 64) ∧
  GivesAlu .sra (fun a b => a.sshiftRight (b.toNat % 64))
    (fun a b => ((a.setWidth 32).sshiftRight (b.toNat % 32)).setWidth 64) ∧
  GivesAlu .rol (fun a b => a.rotateLeft (b.toNat % 64))
    (fun a b => ((a.setWidth 32).rotateLeft (b.toNat % 32)).setWidth 64) ∧
  GivesAlu .ror (fun a b => a.rotateRight (b.toNat % 64))
    (fun a b => ((a.setWidth 32).rotateRight (b.toNat % 32)).setWidth 64) ∧
  GivesAlu .min (fun a b => if a.toInt ≤ b.toInt then a else b)
    (fun a b => if (a.setWidth 32).toInt ≤ (b.setWidth 32).toInt then a else b) ∧
  GivesAlu .max (fun a b => if b.toInt ≤ a.toInt then a else b)
    (fun a b => if (b.setWidth 32).toInt ≤ (a.setWidth 32).toInt then a else b) ∧
  GivesAlu .minu (fun a b => if a.toNat ≤ b.toNat then a else b)
    (fun a b => if (a.setWidth 32).toNat ≤ (b.setWidth 32).toNat then a else b) ∧
  GivesAlu .maxu (fun a b => if b.toNat ≤ a.toNat then a else b)
    (fun a b => if (b.setWidth 32).toNat ≤ (a.setWidth 32).toNat then a else b)

/-- R108 and R109: the comparisons, the selection, and the immediate forms of every length. -/
def Obligations.ComparisonsAndImmediatesGiveTheirResults : Prop :=
  GivesCmp .seq (fun a b => if a = b then 1 else 0) ∧
  GivesCmp .sne (fun a b => if a = b then 0 else 1) ∧
  GivesCmp .slt (fun a b => if a.toInt < b.toInt then 1 else 0) ∧
  GivesCmp .sltu (fun a b => if a.toNat < b.toNat then 1 else 0) ∧
  GivesCmp .sle (fun a b => if a.toInt ≤ b.toInt then 1 else 0) ∧
  GivesCmp .sleu (fun a b => if a.toNat ≤ b.toNat then 1 else 0) ∧
  (∀ (o : SelOp) (s : State), exec (.csel o) s =
    .next (s.puts o.d (if s.core.rdS o.c ≠ 0 then s.core.rdS o.a else s.core.rdS o.b) 8)) ∧
  GivesImm30 .addi64 (fun a x => a + x) ∧ GivesImm62 .addi96 (fun a x => a + x) ∧
  GivesImm30 .andi64 (fun a x => a &&& x) ∧ GivesImm62 .andi96 (fun a x => a &&& x) ∧
  GivesImm30 .ori64 (fun a x => a ||| x) ∧ GivesImm62 .ori96 (fun a x => a ||| x) ∧
  GivesImm30 .xori64 (fun a x => a ^^^ x) ∧ GivesImm62 .xori96 (fun a x => a ^^^ x) ∧
  GivesShift .shli (fun a n => a <<< n) ∧ GivesShift .shri (fun a n => a >>> n) ∧
  GivesShift .srai (fun a n => a.sshiftRight n) ∧ GivesShift .roli (fun a n => a.rotateLeft n) ∧
  GivesImm30 .seqi (fun a x => if a = x then 1 else 0) ∧
  GivesImm30 .slti (fun a x => if a.toInt < x.toInt then 1 else 0) ∧
  GivesImm30 .sltui (fun a x => if a.toNat < x.toNat then 1 else 0) ∧
  (∀ d imm (s : State), exec (.li64 d imm) s = .next (s.puts d (imm.signExtend 64) 8)) ∧
  (∀ d imm (s : State), exec (.li96 d imm) s = .next (s.puts d (imm.signExtend 64) 12)) ∧
  ∀ d imm (s : State), exec (.li128 d imm) s = .next (s.puts d imm 16)

/-- R110: the products, and the fused `madd`. -/
def Obligations.MultipliesGiveTheirProducts : Prop :=
  GivesAlu .mul (fun a b => a * b) (fun a b => a * b) ∧
  GivesCmp .mulh (fun a b => ((a.signExtend 128 * b.signExtend 128) >>> 64).setWidth 64) ∧
  GivesCmp .mulhu (fun a b => ((a.setWidth 128 * b.setWidth 128) >>> 64).setWidth 64) ∧
  GivesCmp .mulhsu (fun a b => ((a.signExtend 128 * b.setWidth 128) >>> 64).setWidth 64) ∧
  ∀ (o : MaddOp) (s : State),
    let x := s.core.rdS o.a * s.core.rdS o.b + s.core.rdS o.c
    exec (.madd o) s = .next (s.puts o.d (if o.w then sext32 x else x) 8)

/-- R111: quotient and remainder, and the trap of a zero divisor. -/
def Obligations.DivisionsGiveQuotientAndRemainder : Prop :=
  Divides .div true true ∧ Divides .divu false true ∧ Divides .rem true false ∧ Divides .remu false false

/-- R112 and R38, bit by bit. -/
def Obligations.BitFieldRowsGiveTheirBits : Prop :=
  GivesUn .clz (fun a x => x.toNat ≤ 64 ∧ (∀ i < 64, 64 - x.toNat ≤ i → a.getLsbD i = false) ∧
    (x.toNat < 64 → a.getLsbD (63 - x.toNat) = true)) ∧
  GivesUn .ctz (fun a x => x.toNat ≤ 64 ∧ (∀ i < x.toNat, a.getLsbD i = false) ∧
    (x.toNat < 64 → a.getLsbD x.toNat = true)) ∧
  GivesUn .popc (fun a x => x.toNat = ((List.range 64).filter fun i => a.getLsbD i).length) ∧
  GivesUn .brev (fun a x => ∀ i < 64, x.getLsbD i = a.getLsbD (63 - i)) ∧
  GivesUn .bswap (fun a x => ∀ i < 8, x.extractLsb' (8 * i) 8 = a.extractLsb' (8 * (7 - i)) 8) ∧
  (∀ (o : WidthOp) (s : State), 1 ≤ o.width → o.width ≤ 64 →
    let a := s.core.rdS o.a
    ∃ x : Word, (∀ i < 64, x.getLsbD i = a.getLsbD (if i < o.width then i else o.width - 1)) ∧
      exec (.sext o) s = .next (s.puts o.d x 8)) ∧
  (∀ (o : WidthOp) (s : State), o.width ≤ 64 →
    let a := s.core.rdS o.a
    ∃ x : Word, (∀ i < 64, x.getLsbD i = (decide (i < o.width) && a.getLsbD i)) ∧
      exec (.zext o) s = .next (s.puts o.d x 8)) ∧
  (∀ (o : FieldOp) (s : State), o.pos.val + o.width ≤ 64 →
    let a := s.core.rdS o.a
    ∃ x : Word, (∀ i < 64, x.getLsbD i = (decide (i < o.width) && a.getLsbD (o.pos.val + i))) ∧
      exec (.bext o) s = .next (s.puts o.d x 8)) ∧
  (∀ (o : FieldOp) (s : State), o.pos.val + o.width ≤ 64 →
    let a := s.core.rdS o.a
    ∃ x : Word, (∀ i < 64, x.getLsbD i =
        if o.pos.val ≤ i ∧ i < o.pos.val + o.width then a.getLsbD (i - o.pos.val)
        else (s.core.rdS o.d).getLsbD i) ∧
      exec (.bins o) s = .next (s.puts o.d x 8)) ∧
  ∀ (o : LeaOp) (s : State), exec (.lea o) s =
    .next (s.puts o.d (s.core.rdS o.a + (s.core.rdS o.b <<< o.sh.val) + o.imm.signExtend 64) 8)

/-! ## The local store -/

/-- R113 and R114: a load that passes its wait field and its checks gives its register the bytes at its address. -/
def Obligations.LoadsGiveTheirBytes : Prop :=
  (∀ (o : LdOp) (s : State),
    let n := o.size.bytes
    let ea := s.core.ea o.m n
    let x := s.core.ls.readN ea.toNat n
    s.core.accessOk o.m.wt ea n → s.core.badIn ea.toNat n = none →
      exec (.ld o) s = .next (s.puts o.d (if o.u then BitVec.ofNat 64 x else BitVec.ofInt 64 (toSigned (8 * n) x)) 8)) ∧
  ∀ (o : FMemOp) (s : State),
    let ea := s.core.ea o.m 8
    s.core.accessOk o.m.wt ea 8 → s.core.badIn ea.toNat 8 = none →
      exec (.fld o) s = .next (s.retires 8 fun c => c.wrF o.d (BitVec.ofNat 64 (c.ls.readN ea.toNat 8)))

/-- R113 and R114: a store that passes its wait field and its checks writes the low bytes of its register. -/
def Obligations.StoresWriteTheirBytes : Prop :=
  (∀ (o : StOp) (s : State),
    let n := o.size.bytes
    let ea := s.core.ea o.m n
    s.core.accessOk o.m.wt ea n → s.core.mergesBad ea.toNat n = false →
      exec (.st o) s = .next (s.retires 8 fun c => c.storeN ea.toNat n (c.rdS o.d).toNat)) ∧
  ∀ (o : FMemOp) (s : State),
    let ea := s.core.ea o.m 8
    s.core.accessOk o.m.wt ea 8 → s.core.mergesBad ea.toNat 8 = false →
      exec (.fst o) s = .next (s.retires 8 fun c => c.storeN ea.toNat 8 (c.rdF o.d).toNat)

/-- The bytes of a store of `n` bytes of `x` at `a` lie there, the lowest first, and every other byte of the local store
reads as before; nothing else of the core changes but what fetch may still see and the granules that became good. -/
def Obligations.StoredBytesAreReadBack : Prop :=
  ∀ (c : Core) (a n x b : Nat),
    (c.storeN a n x).ls.read b =
      (if a ≤ b ∧ b < a + n then BitVec.ofNat 8 (x / 256 ^ (b - a)) else c.ls.read b) ∧
    (b < n → (c.ls.readN a n) / 256 ^ b % 256 = (c.ls.read (a + b)).toNat) ∧
    (c.storeN a n x) =
      { c with ls := (c.storeN a n x).ls, stale := (c.storeN a n x).stale, bad := (c.storeN a n x).bad }

/-- R117: the ten local atomics. -/
def Obligations.LocalAtomicsReadAndWrite : Prop :=
  GivesAmo .lamoAdd (fun w m v => (m + v) % 2 ^ w) ∧
  GivesAmo .lamoAnd (fun _ m v => m &&& v) ∧ GivesAmo .lamoOr (fun _ m v => m ||| v) ∧
  GivesAmo .lamoXor (fun _ m v => m ^^^ v) ∧
  GivesAmo .lamoMin (fun w m v => if toSigned w m ≤ toSigned w v then m else v) ∧
  GivesAmo .lamoMax (fun w m v => if toSigned w m ≤ toSigned w v then v else m) ∧
  GivesAmo .lamoMinu (fun _ m v => min m v) ∧ GivesAmo .lamoMaxu (fun _ m v => max m v) ∧
  GivesAmo .lamoSwp (fun _ _ v => v) ∧
  ∀ (o : LamoOp) (s : State),
    let n := o.size.bytes
    let ea := s.core.rdS o.a + o.off.signExtend 64
    let m := s.core.ls.readN ea.toNat n
    s.core.accessOk o.wt ea n → s.core.badIn ea.toNat n = none →
      exec (.lamoCas o) s = .next (s.retires 8 fun c =>
        (if m = (c.rdS o.b).toNat % 2 ^ (8 * n) then c.storeN ea.toNat n ((c.rdS o.d).toNat % 2 ^ (8 * n)) else c).wrS
          o.d (BitVec.ofInt 64 (toSigned (8 * n) m)))

/-- R12, R13, R113, R116, R117 and R377: bounds first, then alignment, then a granule with an error, whose trap carries
the address of a load or an atomic and the granule of a store; which bytes are in bounds. -/
def Obligations.AccessChecksTrapInOrder : Prop :=
  (∀ s : State,
    (∀ o : LdOp, let n := o.size.bytes
      let ea := s.core.ea o.m n
      ChecksAccess (.ld o) o.m.wt ea n 0x04 (s.core.badIn ea.toNat n).isSome ea s) ∧
    (∀ o : FMemOp, let ea := s.core.ea o.m 8
      ChecksAccess (.fld o) o.m.wt ea 8 0x04 (s.core.badIn ea.toNat 8).isSome ea s ∧
      ChecksBounds (.fst o) o.m.wt ea 8 0x05 s) ∧
    (∀ o : StOp, let n := o.size.bytes
      let ea := s.core.ea o.m n
      ChecksAccess (.st o) o.m.wt ea n 0x05 (s.core.mergesBad ea.toNat n) (BitVec.ofNat 64 (ea.toNat / 8 * 8)) s) ∧
    ∀ (o : LamoOp) (mk : LamoOp → Instr),
      mk ∈ [Instr.lamoAdd, .lamoAnd, .lamoOr, .lamoXor, .lamoMin, .lamoMax, .lamoMinu, .lamoMaxu, .lamoSwp,
        .lamoCas] →
      let n := o.size.bytes
      let ea := s.core.rdS o.a + o.off.signExtend 64
      ChecksAccess (mk o) o.wt ea n 0x04 (s.core.badIn ea.toNat n).isSome ea s) ∧
  ∀ (c : Core) (a n : Nat), c.okAccess a n = true ↔
    a + n ≤ 0x140000 ∧ (c.status.pl = .user → c.trap.ubase.toNat ≤ a ∧ a + n ≤ c.trap.ulimit.toNat)

/-! ## Control -/

/-- R129 and R130: branches and jumps; a link is the address after the instruction. -/
def Obligations.BranchesAndJumpsSetThePc : Prop :=
  Branches .beq (fun a b => a = b) ∧ Branches .bne (fun a b => a ≠ b) ∧
  Branches .blt (fun a b => a.toInt < b.toInt) ∧ Branches .bge (fun a b => b.toInt ≤ a.toInt) ∧
  Branches .bltu (fun a b => a.toNat < b.toNat) ∧ Branches .bgeu (fun a b => b.toNat ≤ a.toNat) ∧
  (∀ d off (s : State), exec (.jal64 d off) s =
    .next (s.mapCore fun c => (c.wrS d (c.pc + 8)).retireTo (c.pc + 4 * off.signExtend 64))) ∧
  (∀ d imm (s : State), exec (.jalAbs d imm) s =
    .next (s.mapCore fun c => (c.wrS d (c.pc + 12)).retireTo (imm.signExtend 64))) ∧
  ∀ (o : JalrOp) (s : State), exec (.jalr o) s =
    .next (s.mapCore fun c => (c.wrS o.d (c.pc + 8)).retireTo (c.rdS o.a + o.imm.signExtend 64))

/-- R131 and R132: `nop`, `isync` and `wfe`. R32 and R31: what retiring changes; below debug level, and while other
entries of the sequencer are to be performed, the core runs on. -/
def Obligations.NopIsyncAndWfe : Prop :=
  (∀ s : State,
    exec .nop64 s = .next (s.retires 8 id) ∧ exec .nop96 s = .next (s.retires 12 id) ∧
    exec .nop128 s = .next (s.retires 16 id) ∧
    (s.core.storesPending = false → exec .isync s =
      .next (s.retires 8 fun c => { c with
        stale := (c.stale.filter fun x => !x.settled).map fun x => { x with bytes := x.synced } })) ∧
    (s.core.status.pl ≠ .debug → s.core.latch = true →
      exec .wfe s = .next (s.retires 8 fun c => { c with latch := false })) ∧
    (s.core.status.pl ≠ .debug → s.core.latch = false → exec .wfe s = .next s.waits) ∧
    (s.core.status.pl = .debug → exec .wfe s = .next (s.retires 8 id))) ∧
  ∀ (c : Core) (pc : Word),
    c.retireTo pc = { c with
      pc := pc, instret := c.instret + 1, stepping := false, trans := { c.trans with i := c.trans.i + 1 }, ir := none,
      run := if c.status.pl = .debug ∧ c.vec.seq = [] then .halt else .run }

/-- R135: `scall` and `brk` trap at every level with their operand, once no reply is owed. -/
def Obligations.RequestedTrapsAreTaken : Prop :=
  ∀ (code : BitVec 29) (s : State), s.core.trapHeld = false →
    exec (.scall code) s = .next (s.traps 0x0B (code.setWidth 64)) ∧
    exec (.brk code) s = .next (s.traps 0x0A (code.setWidth 64))

/-- R27 and R29: what taking a trap does to a core, and that it does nothing else. That a trap outside a handler ends the
count of a `yield` (`yleft`) is R239 as log entry 22 reads it (DEDUCED); `ir` and `entering` are the model's own fields: the
instruction fetched and not ended, and that the core stands at a trap's entry. -/
def Obligations.TrapEntrySavesAndRedirects : Prop :=
  ∀ (c : Core) (cause : Nat) (tval epc : Word),
    (c.status.pl ≠ .debug → c.takeTrap ⟨cause, tval⟩ epc = { c with
      trap := { c.trap with epc := epc, cause := BitVec.ofNat 64 cause, tval := tval }
      status := { c.status with
        ppl := decide (c.status.pl = .kernel), pie := c.status.ie, ie := false, pl := .kernel }
      pc := c.trap.tvec
      run := .run
      yleft := if c.status.hnd then c.yleft else none
      ir := none
      entering := true }) ∧
    (c.status.pl = .debug → c.takeTrap ⟨cause, tval⟩ epc = { c with
      trap := { c.trap with cause := BitVec.ofNat 64 cause, tval := tval }
      pc := epc
      run := .halt
      ir := none
      entering := false
      stepping := false })

/-- R27 and R136: `kret` at kernel level restores the pc, the level and `IE`, discards fetched bytes, and resumes the
loop of its record (R152); at the other levels it traps. -/
def Obligations.KretRestores : Prop :=
  ∀ s : State,
    (s.core.status.pl = .kernel → s.core.resumeBlocked = false →
      ∃ t, exec .kret s = .next t ∧
        t.core.status = { s.core.status with
          pl := if s.core.status.ppl then .kernel else .user, ie := s.core.status.pie } ∧
        t.core.stale = ((s.core.stale.filter fun x => !x.settled).map fun x => { x with bytes := x.synced }) ∧
        t.core.vec.resume = none ∧ t.core.regs = s.core.regs ∧ t.core.ls = s.core.ls ∧ t.core.trap = s.core.trap ∧
        ((∀ r, s.core.vec.resume = some r → s.core.trap.epc ≠ r.at_) →
          t.core.pc = s.core.trap.epc ∧ t.core.instret = s.core.instret + 1 ∧ t.core.vec.seq = s.core.vec.seq) ∧
        ∀ r, s.core.vec.resume = some r → s.core.trap.epc = r.at_ →
          t.core.pc = bodyEnd r.body s.core.trap.epc ∧ t.core.instret = s.core.instret + 2 ∧
            t.core.vec.seq = s.core.vec.seq ++ [r.entry]) ∧
    (s.core.status.pl = .user → s.core.trapHeld = false → exec .kret s = .next (s.traps 0x03 (word64 .kret))) ∧
    (s.core.status.pl = .debug → s.core.trapHeld = false → exec .kret s = .next (s.traps 0x01 (word64 .kret)))

/-- R237 to R240: `yield` and `serve` enter the oldest message's handler, and `hret` returns. That the last dispatch of a
`yield n` retires it at the dispatch, and that the budget is held in `yleft`, is log entry 22 (DEDUCED). -/
def Obligations.HandlersAreEnteredAndLeft : Prop :=
  (∀ (s : State) (m : Msg) (rest : List Msg), s.core.status.pl ≠ .debug → s.core.status.hnd = false →
    s.core.replaying = false → s.core.inbox.arrival = m :: rest → s.core.handlerOk m.handler = true →
    (∃ t, exec .serve s = .next t ∧ t.core.Entered s.core m.handler m.args m.sender s.core.pc ∧
      t.core.inbox = { s.core.inbox with arrival := rest } ∧ t.core.instret = s.core.instret) ∧
    ∀ n, ∃ t, exec (.yield n) s = .next t ∧
      t.core.inbox = { s.core.inbox with arrival := rest } ∧
      (if n ≠ 0 ∧ s.core.yleft.getD n ≤ 1 then
        t.core.Entered s.core m.handler m.args m.sender (s.core.pc + 8) ∧ t.core.instret = s.core.instret + 1
       else t.core.Entered s.core m.handler m.args m.sender s.core.pc ∧ t.core.instret = s.core.instret)) ∧
  (∀ s : State, s.core.status.pl ≠ .debug → s.core.status.hnd = false → s.core.replaying = false →
    s.core.inbox.arrival = [] → s.core.inbox.spill = [] →
    (∀ n, exec (.yield n) s = .next (s.retires 8 fun c => { c with yleft := none })) ∧
    (s.core.wl.term = true → (s.wlOwner s.core = true → s.offered (clusterOf s.cid) = none) →
      exec .serve s = .next (s.retires 8 id))) ∧
  ∀ s : State, s.core.status.hnd = true →
    ∃ t, exec .hret s = .next t ∧ t.core.pc = s.core.hres ∧
      t.core.status = { s.core.status with hnd := false } ∧
      (∀ k : Fin 8, t.core.rdS (argReg k) = s.core.shadow.get k) ∧
      (∀ r : SReg, (r.val < 3 ∨ 10 < r.val) → t.core.rdS r = s.core.rdS r) ∧
      t.core.ls = s.core.ls ∧ t.core.instret = s.core.instret + 1 ∧
      t.core.wl = { s.core.wl with running := none } ∧
      t.wl = { s.wl with decs := s.wl.decs ++
        (s.core.wl.running.toList.map fun k =>
          ⟨clusterOf s.cid, k.prio.toNat / 2 ^ s.wl.shift.toNat, s.wl.nextSeq⟩) }

/-! ## Scalar floating point -/

/-- R119, R120, R125, R126 and R128: exact arithmetic with one rounding, which writes the result and raises its flags; an
enabled flag traps (R92). `fround` raises no flag but NV and NX (R128). -/
def Obligations.FloatArithmeticRoundsOnce : Prop :=
  (∀ o : FOp3,
    GivesF (.fadd o) o.d (fun c => c.fop3 o fun r a b => fAdd r.isDown a b) ∧
    GivesF (.fsub o) o.d (fun c => c.fop3 o fun r a b => fAdd r.isDown a b.neg) ∧
    GivesF (.fmul o) o.d (fun c => c.fop3 o fun _ a b => fMul a b) ∧
    GivesF (.fdiv o) o.d (fun c => c.fop3 o fun _ a b => fDiv a b)) ∧
  (∀ o : FOp2,
    GivesF (.fsqrt o) o.d (fun c =>
      let (a, f1) := c.fsrc o.w o.rm o.a
      let (y, f2) := fSqrt a
      let (z, f3) := (fpFmt o.w).round (c.rnd o.rm) false y
      (fp64Bits z, f1 ||| f2 ||| f3)) ∧
    GivesF (.fround o) o.d (fun c =>
      let (a, f1) := c.fsrc o.w o.rm o.a
      let (y, f2) := integral (c.rnd o.rm) a
      (fp64Bits y, (f1 &&& (flagNV ||| flagNX)) ||| f2))) ∧
  (∀ o : FOp4,
    GivesF (.fma o) o.d (fun c => c.fop4 o false false) ∧ GivesF (.fms o) o.d (fun c => c.fop4 o false true) ∧
    GivesF (.fnma o) o.d (fun c => c.fop4 o true true) ∧ GivesF (.fnms o) o.d (fun c => c.fop4 o true false)) ∧
  (∀ o : FToInt,
    GivesS (.fcvtLD o) o.d (fun c => c.ftoi o (-(2 ^ 63)) (2 ^ 63 - 1)) ∧
    GivesS (.fcvtLuD o) o.d (fun c => c.ftoi o 0 (2 ^ 64 - 1))) ∧
  (∀ o : IntToF,
    GivesF (.fcvtDL o) o.d (fun c =>
      let (z, f) := (fpFmt o.w).round (c.rnd o.rm) false (FVal.ofInt (c.rdS o.a).toInt)
      (fp64Bits z, 0 ||| f)) ∧
    GivesF (.fcvtDLu o) o.d (fun c =>
      let (z, f) := (fpFmt o.w).round (c.rnd o.rm) false (FVal.ofInt (c.rdS o.a).toNat)
      (fp64Bits z, 0 ||| f))) ∧
  ∀ o : FNarrow,
    GivesF (.fcvtSD o) o.d (fun c =>
      let (z, f) := EType.fp32.round (c.rnd o.rm) false (fp64Fmt.decode (c.rdF o.a).toNat)
      (fp64Bits z, 0 ||| f))

/-- R121, R122, R123, R124 and R127: minima, signs, comparisons, classes and moves, which never round; the class has
exactly one bit set, the one that the fields of the datum select. -/
def Obligations.FloatSelectionsAreExact : Prop :=
  (let msb : Word := 0x8000000000000000
  let val (c : Core) (r : FReg) : FVal := fp64Fmt.decode (c.rdF r).toNat
  let pick (o : FBit3) (mx quiet : Bool) (c : Core) : Word × Flags :=
    let (y, f) := fMinMax mx quiet (val c o.a) (val c o.b)
    (fp64Bits y, f)
  let cmp (o : FCmpOp) (k : CmpKind) (c : Core) : Word × Flags :=
    let (b, f) := fCompare k (val c o.a) (val c o.b)
    (if b then 1 else 0, f)
  (∀ o : FBit3,
    GivesF (.fmin o) o.d (pick o false true) ∧ GivesF (.fmax o) o.d (pick o true true) ∧
    GivesF (.fminm o) o.d (pick o false false) ∧ GivesF (.fmaxm o) o.d (pick o true false) ∧
    PutsF (.fsgnj o) o.d (fun c => c.rdF o.a &&& ~~~msb ||| c.rdF o.b &&& msb) ∧
    PutsF (.fsgnjn o) o.d (fun c => c.rdF o.a &&& ~~~msb ||| ~~~(c.rdF o.b) &&& msb) ∧
    PutsF (.fsgnjx o) o.d (fun c => c.rdF o.a ^^^ (c.rdF o.b &&& msb))) ∧
  (∀ o : FCmpOp,
    GivesS (.feq o) o.d (cmp o .eq) ∧ GivesS (.flt o) o.d (cmp o .lt) ∧ GivesS (.fle o) o.d (cmp o .le) ∧
    GivesS (.funord o) o.d (cmp o .un)) ∧
  (∀ (d : SReg) (a : FReg),
    PutsS (.fclass d a) d (fun c => fclassBits (c.rdF a)) ∧ PutsS (.fmvSF d a) d (fun c => c.rdF a)) ∧
  ∀ (d : FReg) (a : SReg), PutsF (.fmvFS d a) d (fun c => c.rdS a)) ∧
  ∀ x : Word,
    let e := x.extractLsb' 52 11
    let m := x.extractLsb' 0 52
    let neg := x.getLsbD 63
    ∀ k < 64, (fclassBits x).getLsbD k = decide (
      (k = 0 ∧ neg ∧ e = 2047 ∧ m = 0) ∨ (k = 1 ∧ neg ∧ e ≠ 0 ∧ e ≠ 2047) ∨ (k = 2 ∧ neg ∧ e = 0 ∧ m ≠ 0) ∨
      (k = 3 ∧ neg ∧ e = 0 ∧ m = 0) ∨ (k = 4 ∧ ¬neg ∧ e = 0 ∧ m = 0) ∨ (k = 5 ∧ ¬neg ∧ e = 0 ∧ m ≠ 0) ∨
      (k = 6 ∧ ¬neg ∧ e ≠ 0 ∧ e ≠ 2047) ∨ (k = 7 ∧ ¬neg ∧ e = 2047 ∧ m = 0) ∨
      (k = 8 ∧ e = 2047 ∧ m ≠ 0 ∧ m.getLsbD 51 = false) ∨ (k = 9 ∧ e = 2047 ∧ m.getLsbD 51 = true))

/-! ## The vector unit -/

/-- R137 and R138: the register instructions of OPC 0x23 to 0x2C enter the sequencer; an entry keeps the `s` and `f`
operands of its issue. -/
def Obligations.VectorRegisterInstructionsEnter : Prop :=
  ((∀ o : VV, ∀ i ∈ [Instr.vmov o, .vsqrt o, .vabs o, .vneg o, .vnot o, .vpopc o, .vclz o, .vrenorm o, .vdeq o,
    .vquant o, .vexp2 o, .vlog2 o, .vrcp o, .vrsqrt o, .vsin o, .vcos o, .vtanh o, .vsigm o, .verf o], Enters i) ∧
  (∀ o : VVV, ∀ i ∈ [Instr.vsel o, .vperm o, .vpack o, .vunpack o, .vadd o, .vsub o, .vmul o, .vmulh o, .vdiv o,
    .vmin o, .vmax o, .vadds o, .vsubs o, .vand o, .vor o, .vxor o, .vshl o, .vshr o, .vsra o], Enters i) ∧
  (∀ o : VVVV, ∀ i ∈ [Instr.vfma o, .vfms o, .vfnma o, .vclamp o], Enters i) ∧
  (∀ o : VVn, ∀ i ∈ [Instr.vshli o, .vshri o, .vsrai o], Enters i) ∧
  (∀ o : QVV, ∀ i ∈ [Instr.vceq o, .vcne o, .vclt o, .vcle o, .vcun o], Enters i) ∧
  (∀ o : QQQ, ∀ i ∈ [Instr.qand o, .qor o, .qxor o], Enters i) ∧
  (∀ o, Enters (.qnot o)) ∧ (∀ o, Enters (.qset o)) ∧ (∀ o, Enters (.vcvt o)) ∧ (∀ o, Enters (.vsclset o)) ∧
  (∀ o, Enters (.vbcs o)) ∧ (∀ o, Enters (.vbcf o)) ∧ ∀ o, Enters (.vslide o)) ∧
  ∀ (c : Core) (pc : Word) (o : VBaseOp) (g : VIdxOp) (b : VFromS) (f : VFromF) (v : VVS) (q : QSS) (d : VDropOp),
    c.capture (.vldB o) pc = ⟨.vldB o, pc, c.rdS o.a, c.rdS o.b, 0, none⟩ ∧
    c.capture (.vstB o) pc = ⟨.vstB o, pc, c.rdS o.a, c.rdS o.b, 0, none⟩ ∧
    c.capture (.vgather g) pc = ⟨.vgather g, pc, c.rdS g.a, 0, 0, none⟩ ∧
    c.capture (.vscatter g) pc = ⟨.vscatter g, pc, c.rdS g.a, 0, 0, none⟩ ∧
    c.capture (.vbcs b) pc = ⟨.vbcs b, pc, c.rdS b.a, 0, 0, none⟩ ∧
    c.capture (.vbcf f) pc = ⟨.vbcf f, pc, 0, 0, c.rdF f.a, none⟩ ∧
    c.capture (.vslide v) pc = ⟨.vslide v, pc, 0, c.rdS v.b, 0, none⟩ ∧
    c.capture (.qset q) pc = ⟨.qset q, pc, c.rdS q.a, c.rdS q.b, 0, none⟩ ∧
    c.capture (.vdrop d) pc = ⟨.vdrop d, pc, 0, c.rdS d.b, 0, none⟩

/-- R137, R147, R149, R156 and R174: the memory forms, and the forms that name a slot. -/
def Obligations.VectorMemoryInstructionsEnter : Prop :=
  (∀ o, EntersChecked (.vld o) false) ∧ (∀ o, EntersChecked (.vst o) false) ∧
  (∀ o, EntersChecked (.vldB o) false) ∧ (∀ o, EntersChecked (.vstB o) false) ∧
  (∀ o, EntersChecked (.vlds o) false) ∧ (∀ o, EntersChecked (.vgather o) true) ∧
  (∀ o, EntersChecked (.vscatter o) true) ∧ (∀ o, EntersChecked (.vrng o) false) ∧
  (∀ o, EntersChecked (.vrngu o) false) ∧ ∀ o, EntersChecked (.vdrop o) false

/-- R153, R157 to R164 and R169 to R176: element by element, on integers with and without saturation, on bit patterns, on
floating-point values with one rounding and their flags, through the SFU when its result returns (R172), and by conversion
and comparison. The rounding of an element is that of its RM or of its random bits (R98). -/
def Obligations.VectorLanesGiveTheirResults : Prop :=
  (∀ o : VVV, o.k.et.isInt = true → o.k.sat = false →
    let t := o.k.et
    Performs o.k o.d (.vadd o) (fun c j => c.elem o.a t j + c.elem o.b t j) ∧
    Performs o.k o.d (.vsub o) (fun c j => c.elem o.a t j + (2 ^ t.width - c.elem o.b t j)) ∧
    Performs o.k o.d (.vmul o) (fun c j => c.elem o.a t j * c.elem o.b t j)) ∧
  (∀ o : VVV,
    let t := o.k.et
    Performs o.k o.d (.vand o) (fun c j => c.elem o.a t j &&& c.elem o.b t j) ∧
    Performs o.k o.d (.vor o) (fun c j => c.elem o.a t j ||| c.elem o.b t j) ∧
    Performs o.k o.d (.vxor o) (fun c j => c.elem o.a t j ^^^ c.elem o.b t j) ∧
    Performs o.k o.d (.vshl o) (fun c j => c.elem o.a t j * 2 ^ (c.elem o.b t j % t.width)) ∧
    Performs o.k o.d (.vshr o) (fun c j => c.elem o.a t j / 2 ^ (c.elem o.b t j % t.width)) ∧
    Performs o.k o.d (.vperm o) (fun c j => c.elem o.a t (c.elem o.b t j % t.count)) ∧
    Performs o.k o.d (.vpack o) (fun c j => if j % 2 = 0 then c.elem o.a t (j / 2) else c.elem o.b t (j / 2)) ∧
    Performs o.k o.d (.vunpack o) (fun c j =>
      if j < t.count / 2 then c.elem o.a t (2 * j) else c.elem o.b t (2 * (j - t.count / 2)))) ∧
  (∀ o : VV, Performs o.k o.d (.vnot o) (fun c j => 2 ^ o.k.et.width - 1 - c.elem o.a o.k.et j)) ∧
  (∀ o : VVn,
    Performs o.k o.d (.vshli o) (fun c j => c.elem o.a o.k.et j * 2 ^ o.n.val) ∧
    Performs o.k o.d (.vshri o) (fun c j => c.elem o.a o.k.et j / 2 ^ o.n.val) ∧
    Performs o.k o.d (.vsrai o) (fun c j => ofSigned o.k.et.width (toSigned o.k.et.width (c.elem o.a o.k.et j) / 2 ^ o.n.val))) ∧
  (∀ o : VVV, o.k.et.isInt = true →
    let w := o.k.et.width
    let z (c : Core) (r : VReg) (j : Nat) : Int := toSigned w (c.elem r o.k.et j)
    let into (sat : Bool) (x : Int) : Nat :=
      ofSigned w (if sat then max (-2 ^ (w - 1)) (min (2 ^ (w - 1) - 1) x) else x)
    Performs o.k o.d (.vadd o) (fun c j => into o.k.sat (z c o.a j + z c o.b j)) ∧
    Performs o.k o.d (.vsub o) (fun c j => into o.k.sat (z c o.a j - z c o.b j)) ∧
    Performs o.k o.d (.vadds o) (fun c j => into true (z c o.a j + z c o.b j)) ∧
    Performs o.k o.d (.vsubs o) (fun c j => into true (z c o.a j - z c o.b j)) ∧
    Performs o.k o.d (.vmul o) (fun c j => into o.k.sat (z c o.a j * z c o.b j)) ∧
    Performs o.k o.d (.vmulh o) (fun c j => into o.k.sat (z c o.a j * z c o.b j / 2 ^ w)) ∧
    Performs o.k o.d (.vdiv o) (fun c j =>
      into o.k.sat (if z c o.b j = 0 then -1 else (z c o.a j).tdiv (z c o.b j))) ∧
    Performs o.k o.d (.vmin o) (fun c j => ofSigned w (min (z c o.a j) (z c o.b j))) ∧
    Performs o.k o.d (.vmax o) (fun c j => ofSigned w (max (z c o.a j) (z c o.b j))) ∧
    Performs o.k o.d (.vsra o) (fun c j => ofSigned w (z c o.a j / 2 ^ (c.elem o.b o.k.et j % w)))) ∧
  (∀ o : VVVV, o.k.et.isInt = true →
    let w := o.k.et.width
    let z (c : Core) (r : VReg) (j : Nat) : Int := toSigned w (c.elem r o.k.et j)
    let into (x : Int) : Nat :=
      ofSigned w (if o.k.sat then max (-2 ^ (w - 1)) (min (2 ^ (w - 1) - 1) x) else x)
    Performs o.k o.d (.vfma o) (fun c j => into (z c o.a j * z c o.b j + z c o.c j)) ∧
    Performs o.k o.d (.vfms o) (fun c j => into (z c o.a j * z c o.b j - z c o.c j)) ∧
    Performs o.k o.d (.vfnma o) (fun c j => into (-(z c o.a j * z c o.b j) - z c o.c j)) ∧
    Performs o.k o.d (.vclamp o) (fun c j => ofSigned w (min (max (z c o.a j) (z c o.b j)) (z c o.c j)))) ∧
  (∀ o : VV,
    let t := o.k.et
    let m : Nat := 2 ^ (t.width - 1)
    Performs o.k o.d (.vpopc o) (fun c j => ((List.range t.width).filter fun b => (c.elem o.a t j).testBit b).length) ∧
    Performs o.k o.d (.vclz o) (fun c j =>
      if c.elem o.a t j = 0 then t.width else t.width - 1 - Nat.log2 (c.elem o.a t j)) ∧
    (t.isInt = true →
      let into (x : Int) : Nat := ofSigned t.width (if o.k.sat then min ((m : Int) - 1) x else x)
      Performs o.k o.d (.vabs o) (fun c j => into (toSigned t.width (c.elem o.a t j)).natAbs) ∧
      Performs o.k o.d (.vneg o) (fun c j => into (-toSigned t.width (c.elem o.a t j)))) ∧
    (t.isInt = false →
      Performs o.k o.d (.vabs o) (fun c j => c.elem o.a t j % m) ∧
      Performs o.k o.d (.vneg o) (fun c j => c.elem o.a t j + m))) ∧
  (∀ o : VVV, o.k.et.isInt = false →
    let t := o.k.et
    let val (c : Core) (r : VReg) (j : Nat) : FVal := t.read (c.elem r t j)
    let put (c : Core) (x : PerfCtx) (sat : Bool) (j : Nat) (y : FVal × Flags) : Nat × Flags :=
      let z := t.write (c.rndAt x o.k t j) sat y.1
      (z.1, y.2 ||| z.2)
    let down (c : Core) (x : PerfCtx) (j : Nat) : Bool := (c.rndAt x o.k t j).isDown
    let pick (isMax : Bool) (c : Core) (_ : PerfCtx) (j : Nat) : Nat × Flags :=
      let y := fMinMax isMax true (val c o.a j) (val c o.b j)
      ((t.write .rne o.k.sat y.1).1, y.2)
    PerformsLanes (.vadd o) o.k o.d (fun c x j =>
      put c x o.k.sat j (fAdd (down c x j) (val c o.a j) (val c o.b j))) ∧
    PerformsLanes (.vsub o) o.k o.d (fun c x j =>
      put c x o.k.sat j (fAdd (down c x j) (val c o.a j) (val c o.b j).neg)) ∧
    PerformsLanes (.vmul o) o.k o.d (fun c x j => put c x o.k.sat j (fMul (val c o.a j) (val c o.b j))) ∧
    PerformsLanes (.vdiv o) o.k o.d (fun c x j => put c x o.k.sat j (fDiv (val c o.a j) (val c o.b j))) ∧
    PerformsLanes (.vmin o) o.k o.d (pick false) ∧ PerformsLanes (.vmax o) o.k o.d (pick true)) ∧
  (∀ o : VVVV, o.k.et.isInt = false →
    let t := o.k.et
    let val (c : Core) (r : VReg) (j : Nat) : FVal := t.read (c.elem r t j)
    let fused (negP negC : Bool) (c : Core) (x : PerfCtx) (j : Nat) : Nat × Flags :=
      let p := fMul (val c o.a j) (val c o.b j)
      let y := fAdd (c.rndAt x o.k t j).isDown (if negP then p.1.neg else p.1)
        (if negC then (val c o.c j).neg else val c o.c j)
      let z := t.write (c.rndAt x o.k t j) o.k.sat y.1
      (z.1, p.2 ||| y.2 ||| z.2)
    PerformsLanes (.vfma o) o.k o.d (fused false false) ∧ PerformsLanes (.vfms o) o.k o.d (fused false true) ∧
    PerformsLanes (.vfnma o) o.k o.d (fused true true) ∧
    PerformsLanes (.vclamp o) o.k o.d (fun c _ j =>
      let y := fMinMax true true (val c o.a j) (val c o.b j)
      let z := fMinMax false true y.1 (val c o.c j)
      ((t.write .rne false z.1).1, y.2 ||| z.2))) ∧
  (∀ o : VV, o.k.et.isInt = false →
    let t := o.k.et
    PerformsLanes (.vsqrt o) o.k o.d (fun c x j =>
      let y := fSqrt (t.read (c.elem o.a t j))
      let z := t.write (c.rndAt x o.k t j) o.k.sat y.1
      (z.1, y.2 ||| z.2))) ∧
  (∀ o : VV, ∀ p ∈ [(Instr.vexp2 o, SfuFn.exp2), (.vlog2 o, .log2), (.vrcp o, .rcp), (.vrsqrt o, .rsqrt), (.vsin o, .sin),
      (.vcos o, .cos), (.vtanh o, .tanh), (.vsigm o, .sigm), (.verf o, .erf)],
    LanesGive .sfuReturn State.sfuReturns p.1 o.k.q o.d o.k.et o.k.et.count fun c _ _ j =>
      let f := o.k.et.fmt?.getD fp64Fmt
      let y := sfuEval p.2 f (f.decode (c.elem o.a o.k.et j))
      (f.encode y.1, y.2)) ∧
  (∀ o : VCvt,
    LanesGive .sequencerPerform (fun s => s.core.badRegs = []) (.vcvt o) o.k.q o.d o.dt (min o.k.et.count o.dt.count)
      fun c x _ j => convertElem o.k.et o.dt (c.rndAt x o.k o.dt j) o.k.sat (c.elem o.a o.k.et j)) ∧
  (∀ (o : QVV) (p : Instr × CmpKind), p ∈ [(Instr.vceq o, CmpKind.eq), (.vcne o, .ne), (.vclt o, .lt), (.vcle o, .le),
      (.vcun o, .un)] →
    PerformsMask p.1 o fun c j =>
      let t := o.k.et
      let a := c.elem o.a t j
      let b := c.elem o.b t j
      if t.isInt then
        (match p.2 with
          | .eq => decide (a = b)
          | .ne => decide (a ≠ b)
          | .lt => decide (toSigned t.width a < toSigned t.width b)
          | .le => decide (toSigned t.width a ≤ toSigned t.width b)
          | .un => false, 0)
      else fCompare p.2 (t.read a) (t.read b)) ∧
  let first := LanesGive .sequencerPerform (fun s => s.core.badRegs = [])
  (∀ o : VFromS, first (.vbcs o) o.k.q o.d o.k.et o.k.et.count fun _ _ op _ => (op.sa.toNat, 0)) ∧
  (∀ o : VFromF, first (.vbcf o) o.k.q o.d o.k.et o.k.et.count fun c _ op _ =>
    o.k.et.write (c.rnd o.k.rm) false (fp64Fmt.decode op.fa.toNat)) ∧
  (∀ o : VVS, first (.vslide o) o.k.q o.d o.k.et o.k.et.count fun c _ op j =>
    (if 0 ≤ (j : Int) + op.sb.toInt ∧ (j : Int) + op.sb.toInt < o.k.et.count
      then c.elem o.a o.k.et ((j : Int) + op.sb.toInt).toNat else 0, 0)) ∧
  (∀ o : VVV, first (.vsel o) 0 o.d o.k.et o.k.et.count fun c _ _ j =>
    (if (c.rdQ o.k.q).getLsbD j then c.elem o.a o.k.et j else c.elem o.b o.k.et j, 0)) ∧
  (∀ o : VRngOp,
    let w := o.k.et.width
    let bits (c : Core) (x : PerfCtx) (j n : Nat) : Nat := c.draw x (rngSlot x o.n) j n (64 / n)
    PerformsLanes (.vrng o) o.k o.d (fun c x j => (if rngTail (rngSlot x o.n) j then 0 else bits c x j w, 0)) ∧
    PerformsLanes (.vrngu o) o.k o.d (fun c x j =>
      let n := if o.k.et = .fp64 then 64 else 32
      (if rngTail (rngSlot x o.n) j then 0 else (o.k.et.write .rtz false (.fin false (bits c x j n) (-(n : Int)))).1, 0))) ∧
  (∀ o : VDropOp,
    first (.vdrop o) o.k.q o.d o.k.et o.k.et.count fun c x op j =>
      let t := o.k.et
      let p := fp32Fmt.decode (op.sb.toNat % 2 ^ 32)
      if p.isNaN ∨ p.isZero ∨ p.sign then (0, 0)
      else if p.cmp (.fin false 1 0) ≠ .lt then (c.elem o.a t j, 0)
      else if (FVal.fin false (c.draw x (rngSlot x o.n) j 32 2) (-32)).cmp p = .lt then
        let y := fDiv (t.read (c.elem o.a t j)) p
        let z := t.write .rne false y.1
        (z.1, y.2 ||| z.2)
      else (0, 0)) ∧
  ∀ o : VV,
    let t := o.k.et
    let sidecar (c : Core) (b : Nat) : Scale := Scale.ofBits ((c.rdV o.a).scales.get (Fin.ofNat 4 b))
    let value (c : Core) (j : Nat) : FVal × Flags := scaled (sidecar c (j / 32)) (t.read (c.elem o.a t j))
    PerformsBlocks (.vquant o) o.k o.d (fun c x j => c.rndAt x o.k t j) (fun _ _ => false)
      (fun c j => (EType.bf16.read (c.elem (vecAt o.a (j / 32)) .bf16 (j % 32)), 0)) ∧
    PerformsBlocks (.vrenorm o) o.k o.d (fun c _ _ => c.rnd o.k.rm) (fun c b => decide (sidecar c b = .nan)) value ∧
    PerformsGroup (.vdeq o) o fun c j =>
      let z := EType.bf16.write (c.rnd o.k.rm) false (value c j).1
      (z.1, (value c j).2 ||| z.2)

/-- R157, R163, R166 and R189: the moves between whole registers and masks, and `zzero`; R147, R151 and R154 to R156: the
vector loads and stores; R185 to R187 and R193 to R195: the transfers of tiles and accumulators; R188 to R192: the products,
`tsacc`, `ttr` and `tzero`. How many accesses of one instruction a step performs is a free value (R140, log entry 63). -/
def Obligations.RegisterMovesArePerformed : Prop :=
  (∀ o : VV, Moves (.vmov o) (fun c _ => c.wrV o.d (c.rdV o.a))) ∧
  (∀ o : QQQ, Moves (.qand o) (fun c _ => c.wrQ o.d (c.rdQ o.a &&& c.rdQ o.b)) ∧
    Moves (.qor o) (fun c _ => c.wrQ o.d (c.rdQ o.a ||| c.rdQ o.b)) ∧
    Moves (.qxor o) (fun c _ => c.wrQ o.d (c.rdQ o.a ^^^ c.rdQ o.b))) ∧
  (∀ o : QQ, Moves (.qnot o) (fun c _ => c.wrQ o.d (~~~(c.rdQ o.a)))) ∧
  (∀ o : QSS, Moves (.qset o) (fun c op => c.wrQ o.d (op.sb ++ op.sa))) ∧
  (∀ o : VSclSet, Moves (.vsclset o) (fun c op =>
    c.wrV o.d { c.rdV o.d with scales := (c.rdV o.d).scales.set o.slot (op.sa.setWidth 20) })) ∧
  (∀ d tz, Moves (.zzero d tz) (fun c _ => c.wrZ d 0)) ∧
  let any (_ : State) (_ : SeqEntry) (_ : SeqOp) : Prop := True
  -- the accesses of each vector form: the elements in their order, and a record's scale words
  let slotItems (o : VSlotOp) (c : Core) (e : SeqEntry) (_ : SeqOp) : List MemItem :=
    memItems (c.rdQ o.k.q) (slotLocs (e.slots.get o.slot)) (scaleAddrs (e.slots.get o.slot))
  let baseItems (o : VBaseOp) (c : Core) (e : SeqEntry) (op : SeqOp) : List MemItem :=
    memItems (c.rdQ o.k.q) (baseLocs o.k.et op.sa op.sb e.iter) []
  let indexItems (o : VIdxOp) (c : Core) (_ : SeqEntry) (op : SeqOp) : List MemItem :=
    memItems (c.rdQ o.k.q) (gatherLocs o.k.et op.sa (c.rdV o.b)) []
  let into (k : VMemCtl) (d : VReg) (items : Core → SeqEntry → SeqOp → List MemItem) (c : Core) (e : SeqEntry) (op : SeqOp)
      (vals : List Nat) (u : Core) : Prop := c.loadsLanes u k d (itemElem ((items c e op).zip vals))
  let from_ (k : VMemCtl) (d : VReg) (c : Core) (_ : SeqOp) (c' : Core) (it : MemItem) : Core :=
    match it with
    | .elem j l => c'.writeLoc l k.et.width (c.elem d k.et j)
    | .scale b a => c'.storeN a 4 ((c.rdV d).scales.get (Fin.ofNat 4 b)).toNat
  (∀ o : VSlotOp,
    LoadsItems (.vld o) any (slotItems o) o.k.et.width (fun c e op vals u =>
      into o.k o.d (slotItems o) c e op vals u ∧
      (∀ n b a, (slotItems o c e op)[n]? = some (.scale b a) →
        (u.rdV o.d).scales.get (Fin.ofNat 4 b) = BitVec.ofNat 20 (vals.getD n 0)) ∧
      ∀ k : Slot, (∀ b a, MemItem.scale b a ∈ slotItems o c e op → Fin.ofNat 4 b ≠ k) →
        (u.rdV o.d).scales.get k = (c.rdV o.d).scales.get k) ∧
    StoresItems (.vst o) any (slotItems o) (from_ o.k o.d) (fun _ => 0)) ∧
  (∀ o : VBaseOp,
    LoadsItems (.vldB o) any (baseItems o) o.k.et.width (fun c e op vals u =>
      into o.k o.d (baseItems o) c e op vals u ∧ (u.rdV o.d).scales = (c.rdV o.d).scales) ∧
    StoresItems (.vstB o) any (baseItems o) (from_ o.k o.d) (fun _ => 0)) ∧
  (∀ o : VIdxOp,
    LoadsItems (.vgather o) any (indexItems o) o.k.et.width (fun c e op vals u =>
      into o.k o.d (indexItems o) c e op vals u ∧ (u.rdV o.d).scales = (c.rdV o.d).scales) ∧
    StoresItems (.vscatter o) any (indexItems o) (from_ o.k o.d) (fun _ => 0)) ∧
  (∀ o : VOneOp,
    LoadsItems (.vlds o) any
      (fun c _ op => if ∃ j < o.k.et.count, (c.rdQ o.k.q).getLsbD j = true
        then [.elem 0 ⟨op.sa.toNat, o.k.et.width / 8, 0⟩] else [])
      o.k.et.width (fun c _ _ vals u =>
        c.loadsLanes u o.k o.d (fun _ => vals.getD 0 0) ∧ (u.rdV o.d).scales = (c.rdV o.d).scales)) ∧
  -- the transfers: a record's elements in position order (R185)
  (∀ r : ShapeRec,
    let fits (t : TReg) (s : State) (_ : SeqEntry) (op : SeqOp) : Prop :=
      op.shape = some r ∧ s.core.tshape t = ⟨r.et, r.rows, r.cols⟩ ∧ (s.core.tshape t).fits = true
    let window (tz : TZ) (c : Core) (d : ZReg) (p : Nat) : Nat := c.accElem tz d (p / r.cols) (p % r.cols)
    let reads (_ : State) (_ : SeqEntry) (op : SeqOp) : Prop := op.shape = some r
    let out (x : Core → Nat → Nat) (c : Core) (_ : SeqOp) (c' : Core) (it : MemItem) : Core :=
      match it with
      | .elem p l => c'.writeLoc l r.et.width (x c p)
      | .scale _ _ => c'
    (∀ o : TMem,
      LoadsItems (.tld o) (fits o.d) (fun _ _ _ => r.items) r.et.width (fun c _ _ vals u =>
        (∀ p < r.rows * r.cols, u.tileElem o.d p = vals.getD p 0 % 2 ^ tileStore r.et) ∧
        (∀ t, t ≠ o.d → u.rdT t = c.rdT t) ∧ u.regs = { c.regs with t := u.regs.t }) ∧
      StoresItems (.tst o) (fits o.d) (fun _ _ _ => r.items) (out fun c p => c.tileElem o.d p) (fun _ => 0)) ∧
    (∀ o : ZSt,
      StoresItems (.zst o) reads (fun _ _ _ => r.items) (out fun c p => window o.tz c o.d p) (fun _ => 0)) ∧
    ∀ o : TEpi,
      let w := o.tz.et.width
      let bias (c : Core) (p : Nat) : Nat := c.elem (vecAt o.b (p % r.cols / (512 / w))) o.tz.et (p % r.cols % (512 / w))
      let biased (c : Core) (p : Nat) : Nat × Flags :=
        let x := window o.tz c o.d p
        if o.epi.hasBias then
          if o.tz = .int32 then ((x + bias c p) % 2 ^ 32, 0)
          else
            let y := fAdd false (o.tz.et.read x) (o.tz.et.read (bias c p))
            let z := o.tz.et.write .rne false y.1
            (z.1, y.2 ||| z.2)
        else (x, 0)
      let negative (x : Nat) : Prop :=
        if o.tz = .int32 then toSigned 32 x < 0 else (o.tz.et.read x).isNaN = false ∧ (o.tz.et.read x).sign = true
      let elem (c : Core) (p : Nat) : Nat × Flags :=
        let x := biased c p
        let y := convertElem o.tz.et o.ta (c.rnd o.rm) o.sat (if o.epi.hasRelu ∧ negative x.1 then 0 else x.1)
        (y.1, x.2 ||| y.2)
      StoresItems (.tepi o) reads (fun _ _ _ => r.items) (out fun c p => (elem c p).1)
        (fun c => ((List.range (r.rows * r.cols)).map fun p => (elem c p).2).foldl (· ||| ·) 0)) ∧
  -- the products: the sum of row i of A times column j of B, onto the old element or onto +0
  (∀ (o : TProd) (p : Instr × Bool), p ∈ [(Instr.tmma o, false), (.tmmo o, true)] →
    PerformsAcc p.1 o.d o.tz (fun c i j => i < (c.tshape o.a).rows ∧ j < (c.tshape o.b).cols) fun c i j =>
      let z := if p.2 then 0 else c.accElem o.tz o.d i j
      let pair (m : Nat) : Nat × Nat := (c.tileElem o.a (i * (c.tshape o.a).cols + m),
        c.tileElem o.b (m * (c.tshape o.b).cols + j))
      let pairs := (List.range (c.tshape o.a).cols).map pair
      match o.tz with
      | .int32 => (ofSigned 32 (toSigned 32 z +
          (pairs.map fun p => toSigned o.ta.width p.1 * toSigned o.tb.width p.2).sum), 0)
      | tz =>
        let v := treeSum (level1Of o.ta o.tb) tz.et .rne (tz.et.read z) (pairs.map fun p => (o.ta.read p.1, o.tb.read p.2))
        ((tz.et.write .rne false v.1).1, v.2)) ∧
  (∀ o : TSacc,
    let acc : EType := if o.tz = .fp64 then .fp64 else .fp32
    PerformsAcc (.tsacc o) o.d o.tz (fun _ _ _ => True) fun c i j =>
      let scale (r : VReg) (n : Nat) : Scale :=
        Scale.ofBits (BitVec.ofNat 20 (c.elem (vecAt r (n / 16)) .fp32 (n % 16)))
      let x := scaledTerm (scale o.b i) (scale o.c j) (o.tz.et.read (c.accElem o.tz o.a i j))
      let y := fAdd false (acc.read (c.accElem o.tz o.d i j)) x.1
      let v := acc.write .rne false y.1
      (v.1, x.2 ||| y.2 ||| v.2)) ∧
  (∀ d, PerformsTile (.tzero d) d (fun _ => True) (fun c => (c.tshape d).rows * (c.tshape d).cols) fun _ _ => 0) ∧
  ∀ o : TTr, PerformsTile (.ttr o) o.d
    (fun c => c.tshape o.d = ⟨(c.tshape o.a).et, (c.tshape o.a).cols, (c.tshape o.a).rows⟩)
    (fun c => (c.tshape o.a).rows * (c.tshape o.a).cols)
    fun c k => c.tileElem o.a (k % (c.tshape o.a).rows * (c.tshape o.a).cols + k / (c.tshape o.a).rows)

/-- R139, R157, R163, R165 and R166: the instructions that write scalar registers complete once every earlier entry has been
performed, and age the operand buffer (R22). `vsync` retires once the sequencer is empty and the SFU holds no request of the
core, a discarded one's neither, and until then stays. -/
def Obligations.VectorToScalarCompletes : Prop :=
  (∀ s : State, s.core.vec.seq = [] →
    (∀ o : SFromV,
      let x := s.core.elem o.a o.k.et o.e.val
      PutsHeld (.vmvs o) s fun c =>
        c.wrS o.d (if o.k.et.isInt then BitVec.ofInt 64 (toSigned o.k.et.width x) else BitVec.ofNat 64 x)) ∧
    (∀ o : FFromV, let r := elemToF o.k.et (s.core.elem o.a o.k.et o.e.val)
      r.2 &&& s.core.fpEnables = 0 → PutsHeld (.vmvf o) s fun c => (c.wrF o.d r.1).orFlags r.2) ∧
    (∀ o : SQn, PutsHeld (.qget o) s fun c => c.wrS o.d ((c.rdQ o.a).extractLsb' (64 * o.half.val) 64)) ∧
    (∀ o : SQ, PutsHeld (.qpopc o) s fun c => c.wrS o.d
      (BitVec.ofNat 64 ((List.range o.k.et.count).filter fun j => (c.rdQ o.a).getLsbD j).length)) ∧
    (∀ o : VSclGet, PutsHeld (.vsclget o) s fun c => c.wrS o.d (((c.rdV o.a).scales.get o.slot).setWidth 64)) ∧
    (∀ (o : VRed) (i : Instr) (r : Word × Flags), (i, r) ∈ [
        (Instr.vrsum o, s.core.reduceSum o.k ((s.core.rdV o.a).elems o.k.et) none),
        (.vrmax o, s.core.reduceMinMax o.k ((s.core.rdV o.a).elems o.k.et) true),
        (.vrmin o, s.core.reduceMinMax o.k ((s.core.rdV o.a).elems o.k.et) false)] →
      r.2 &&& s.core.fpEnables = 0 → PutsHeld i s fun c => (c.wrScalar o.d r.1).orFlags r.2) ∧
    ∀ o : VDot,
      let r := s.core.reduceSum o.k ((s.core.rdV o.a).elems o.k.et) (some ((s.core.rdV o.b).elems o.k.et))
      r.2 &&& s.core.fpEnables = 0 → PutsHeld (.vdot o) s fun c => (c.wrScalar o.d r.1).orFlags r.2) ∧
  ∀ s : State,
    (s.core.vec.seq = [] → s.sfuFree → exec .vsync s = .next (s.retires 8 id)) ∧
    ((s.core.vec.seq ≠ [] ∨ ¬ s.sfuFree) → exec .vsync s = .next s)

/-- R146, R148 and R150: slots and loops. A record is read piece by piece (R247), behind the core's earlier accesses of the
sequencer (R16). -/
def Obligations.SlotsAndLoopsAreSetUp : Prop :=
  ∀ s : State,
    (∀ slot a, s.core.accessPending = false → s.core.shapeTrap (s.core.rdS a) = none →
      ReadsOn (.vsetsh slot a) (s.core.rdS a).toNat 64 s ∧
      ∀ bs r, s.core.hasRead (s.core.rdS a).toNat 64 bs → shapeOf (ofBytesLE bs) (word64 (.vsetsh slot a)) = .ok r →
        exec (.vsetsh slot a) s = .next (s.retires 8 fun c =>
          { c with vec := { c.vec with slots := c.vec.slots.set slot ⟨some r, 0⟩ } })) ∧
    (∀ d slot, exec (.vitr d slot) s = .next (s.puts d (BitVec.ofNat 64 (s.core.vec.slots.get slot).p) 8)) ∧
    (∀ d slot f, exec (.vshget d slot f) s =
      .next (s.puts d (((s.core.vec.slots.get slot).bound.map fun r => r.field f).getD 0) 8)) ∧
    ∀ (o : VLoopOp) (body : List SeqOp) (after : Word),
      let n := (s.core.rdS o.a + o.imm.signExtend 64).toNat
      n ≤ 0xFFFFFFFF →
      s.loopIn o = .ok (body, after) →
      (∀ op ∈ body, s.core.regsPending op.ins = false) → s.core.bodyWaitsOk body = true →
      (∃ slots, bodySlots body s.core.vec.slots = .ok slots) →
      (n = 0 → exec (.vloop o) s = .next (s.mapCore fun c =>
        ({ c with vec := { c.vec with resume := none } } : Core).retireTo after)) ∧
      (∀ slots, n ≠ 0 → s.core.vec.seq.length < 16 → s.core.loopBounds body n 0 s.core.vec.slots = .ok slots →
        exec (.vloop o) s = .next (s.mapCore fun c =>
          let e : SeqEntry := ⟨c.pc, body, true, n, 0, 0, c.vec.slots, .none, none, none⟩
          ({ c with vec := { c.vec with
              resume := none, slots := slots, seq := c.vec.seq ++ [e] } } : Core).retireTo after))

/-! ## The tile unit -/

/-- R181 to R189: every tile instruction enters the sequencer and is counted, a record form once it has read its record
piece by piece (R247); `tfol` keeps its carried word (R197). -/
def Obligations.TileInstructionsEnter : Prop :=
  (∀ op : TileOp, EntersTile op ∧
    ∀ (s : State) (r : SReg), s.core.vec.seq = [] → recordReg op = some r →
      s.core.shapeTrap (s.core.rdS r) = none → ReadsOn op.toInstr (s.core.rdS r).toNat 64 s) ∧
  ∀ ch op (s : State), exec (.tfol ch op) s = .next (s.retires 16 fun c =>
    { c with tile := { c.tile with follow := c.tile.follow.set ch (word64 op.toInstr) } })

/-! ## Other cores -/

/-- R222, R227, R228, R231 to R233, R355 and R388: remote stores, loads and atomics, `mint`, `bfree` and messages issue
their operation, `amsgp` once it has read its payload piece by piece (R247). -/
def Obligations.RemoteOperationsAreIssued : Prop :=
  ((∀ (o : RstOp) (s : State),
    let n := o.size.bytes
    let ea := s.core.ea o.m n
    s.core.waitOk o.m.wt = true → RemoteOk ea n → s.core.cnt.st < 512 →
      exec (.rst o) s = .next ((s.issue .store (targetOf ea) o.o ea
        (.write (offsetOf ea) (toBytesLE n (s.core.rdS o.d).toNat))).retires 8 id)) ∧
  (∀ (o : RstvOp) (s : State),
    let ea := s.core.ea o.m 64
    s.core.waitOk o.m.wt = true → RemoteOk ea 64 → s.core.cnt.st < 512 → s.core.vec.seq = [] →
      exec (.rstv o) s = .next ((s.issue .store (targetOf ea) o.o ea
        (.write (offsetOf ea) (toBytesLE 64 (s.core.rdV o.d).bits.toNat))).retires 8 id)) ∧
  (∀ (o : RldOp) (s : State),
    let n := o.size.bytes
    let ea := s.core.ea o.m n
    s.core.waitOk o.m.wt = true → RemoteOk ea n → s.core.cnt.ld < 32 →
      exec (.rld o) s = .next ((s.issue (.load o.d o.size o.u) (targetOf ea) o.o ea
        (.read (offsetOf ea) n)).retires 8 id)) ∧
  (∀ (o : RamoOp) (s : State),
    let n := o.size.bytes
    let ea := s.core.rdS o.a + o.off.signExtend 64
    let low (r : SReg) := (s.core.rdS r).toNat % 2 ^ (8 * n)
    s.core.waitOk o.wt = true → RemoteOk ea n → (o.nr = true → s.core.cnt.st < 512) →
      (o.nr = false → s.core.cnt.ld < 32) →
      exec (.ramo o) s = .next ((s.issue (if o.nr then .store else .amo o.d o.size) (targetOf ea) o.o ea
        (.amo o.kind (offsetOf ea) n (low o.b) (low o.d) (!o.nr))).retires 8 id)) ∧
  (∀ (a : SReg) (k : Fin 6) (s : State),
    let x := s.core.rdS a
    NamesCore x → s.core.cnt.st < 512 →
      exec (.mint a k) s = .next ((s.issue .mint x.toNat false (x <<< 32) (.mint k)).retires 8 id)) ∧
  ∀ (a : SReg) (s : State),
    let x := s.core.rdS a
    NamesCore x → x.toNat / 16 = s.cid / 16 → s.core.vec.seq = [] →
      exec (.bfree a) s = .next ((s.send
        ⟨s.cid, x.toNat, s.core.ids.ctx.toNat, 0, false, s.core.pc, x, .bfree⟩).retires 8 id)) ∧
  (∀ (o : MsgOp) (s : State),
    let x := s.core.rdS o.d
    let ws (n : Nat) := (List.range n).map fun k => s.core.rdS (Fin.ofNat 64 (o.b.val + k))
    s.core.waitOk o.wt = true → NamesCore x → s.core.cnt.st < 512 → s.core.openMsgs < s.core.inbox.spawnlim.toNat →
      exec (.amsg o) s =
        .next ((s.issue .msg x.toNat o.o (x <<< 32) (.msg (s.core.rdS o.a) (ws 4) none)).retires 8 id) ∧
      exec (.amsgl o) s =
        .next ((s.issue .msg x.toNat o.o (x <<< 32) (.msg (s.core.rdS o.a) (ws 8) none)).retires 8 id)) ∧
  ∀ (o : MsgPayOp) (s : State),
    let c := s.core
    let x := c.rdS o.d
    let ws := (List.range 4).map fun k => c.rdS (Fin.ofNat 64 (o.b.val + k))
    let landing := ws.getD 3 0
    c.waitOk o.wt = true → c.vec.seq = [] → NamesCore x → c.okAccess (c.rdS o.c).toNat o.len = true →
      (o.code.val ≠ 0 → msgXformOk o.code.val o.len ws = true) → c.badIn (c.rdS o.c).toNat o.len = none →
      c.cnt.st < 512 → c.openMsgs < c.inbox.spawnlim.toNat →
      ReadsOn (.amsgp o) (c.rdS o.c).toNat o.len s ∧
      ∀ bs, c.hasRead (c.rdS o.c).toNat o.len bs →
        exec (.amsgp o) s = .next ((s.issue .msg x.toNat o.o
          (BitVec.ofNat 64 (x.toNat * 2 ^ 32 + landing.toNat % 2 ^ 21))
          (.msg (c.rdS o.a) ws (some ⟨landing, bs, o.code.val⟩))).retires 12 id)

/-- R222, R231, R355 and R388: the checks of remote addresses and of words that name a core; a full counter waits
(R225). -/
def Obligations.RemoteChecksTrapOrWait : Prop :=
  ∀ s : State,
    (∀ o : RstOp, let n := o.size.bytes
      let ea := s.core.ea o.m n
      ChecksRemote (.rst o) o.m.wt ea n 0x05 s ∧
      (s.core.waitOk o.m.wt = false ∨ RemoteOk ea n ∧ 512 ≤ s.core.cnt.st → exec (.rst o) s = .next s.waits)) ∧
    (∀ o : RstvOp, let ea := s.core.ea o.m 64
      s.core.vec.seq = [] → ChecksRemote (.rstv o) o.m.wt ea 64 0x05 s) ∧
    (∀ o : RldOp, let n := o.size.bytes
      let ea := s.core.ea o.m n
      ChecksRemote (.rld o) o.m.wt ea n 0x04 s ∧
      (s.core.waitOk o.m.wt = false ∨ RemoteOk ea n ∧ 32 ≤ s.core.cnt.ld → exec (.rld o) s = .next s.waits)) ∧
    (∀ o : RamoOp, let n := o.size.bytes
      let ea := s.core.rdS o.a + o.off.signExtend 64
      ChecksRemote (.ramo o) o.wt ea n 0x04 s) ∧
    (∀ o : MsgOp, s.core.waitOk o.wt = true → s.core.trapHeld = false → ¬ NamesCore (s.core.rdS o.d) →
      exec (.amsg o) s = .next (s.traps 0x05 (s.core.rdS o.d)) ∧
      exec (.amsgl o) s = .next (s.traps 0x05 (s.core.rdS o.d))) ∧
    (∀ a k, s.core.trapHeld = false → ¬ NamesCore (s.core.rdS a) →
      exec (.mint a k) s = .next (s.traps 0x05 (s.core.rdS a))) ∧
    ∀ a, s.core.trapHeld = false → ¬ (NamesCore (s.core.rdS a) ∧ (s.core.rdS a).toNat / 16 = s.cid / 16) →
      exec (.bfree a) s = .next (s.traps 0x01 (s.core.rdS a))

/-- R225 and R229: issuing counts an operation in its class and hands it to the network; a target that does not exist
refuses it (R223). -/
def Obligations.IssuingCountsAndSends : Prop :=
  ∀ (s : State) (kind : OutKind) (dst : Nat) (ordered : Bool) (ea : Word) (pk : PktKind),
    let t := s.issue kind dst ordered ea pk
    let p : Packet := ⟨s.cid, dst, s.core.ids.ctx.toNat, s.tags, ordered, s.core.pc, ea, pk⟩
    let sameCluster := s.cid / 16 % 128 = dst / 16 % 128
    let samePackage := s.cid / 4096 = dst / 4096
    (kind.isCopy = false → t.core.cnt.ld = s.core.cnt.ld + (if kind.isLoad then 1 else 0) ∧
      t.core.cnt.stcl = s.core.cnt.stcl + (if ¬ kind.isLoad ∧ samePackage ∧ sameCluster then 1 else 0) ∧
      t.core.cnt.stpk = s.core.cnt.stpk + (if ¬ kind.isLoad ∧ samePackage ∧ ¬ sameCluster then 1 else 0) ∧
      t.core.cnt.stfb = s.core.cnt.stfb + (if ¬ kind.isLoad ∧ ¬ samePackage then 1 else 0)) ∧
    t.core.cnt.cp = s.core.cnt.cp ∧ t.core.cnt.tl = s.core.cnt.tl ∧
    t.core = { s.core with outst := t.core.outst, cnt := t.core.cnt } ∧ t.tags = s.tags + 1 ∧
    (s.exists_ dst = true → samePackage → t.net = s.net ++ [p] ∧ t.back = s.back) ∧
    (s.exists_ dst = false → t.net = s.net ∧
      t.back = s.back ++ [⟨s.cid, s.core.ids.ctx.toNat, s.tags, .nack p.nackCause⟩])

/-- R226, R230 and R356: `wait`, `fence` and `mbwait` end once their condition holds; `wait` and `fence` report. R400:
which destinations lie within a scope. -/
def Obligations.WaitsAndFencesEndWhenMet : Prop :=
  (∀ s : State,
    (∀ o : WaitOp,
      let met (lim : Fin 64) (n : Nat) : Prop := lim = 63 ∨ n ≤ lim.val
      let all := met o.ld s.core.cnt.ld ∧ met o.st s.core.cnt.st ∧ met o.cp s.core.cnt.cp ∧ met o.tl s.core.cnt.tl
      let cls (k : OpClass) : Prop := (k = .ld ∧ o.ld ≠ 63) ∨ (k = .st ∧ o.st ≠ 63) ∨ (k = .cp ∧ o.cp ≠ 63) ∨
        (k = .tl ∧ o.tl ≠ 63)
      (all → Reports (.wait o) s (s.core.failureIn cls cls) (exec (.wait o) s = .next (s.retires 8 id))) ∧
      (¬ all → exec (.wait o) s = .next s.waits)) ∧
    (∀ (i : Instr) (sc : FenceScope), (i, sc) ∈ [(Instr.fenceCore, FenceScope.core), (.fenceCluster, .cluster),
        (.fenceDie, .die), (.fencePackage, .package), (.fenceFabric, .fabric)] →
      (s.fenceDone sc → Reports i s (s.fenceFails sc) (exec i s = .next (s.retires 8 id))) ∧
      (¬ s.fenceDone sc → exec i s = .next s.waits)) ∧
    ∀ a : SReg,
      let passed := (s.core.copy.mbox - (s.core.rdS a).setWidth 32).toNat < 2 ^ 31
      (passed → exec (.mbwait a) s = .next (s.retires 8 id)) ∧ (¬ passed → exec (.mbwait a) s = .next s.waits)) ∧
  ∀ (s : State) (cid va : Nat) (h : Word),
    s.inScope .core (.core cid) = decide (cid = s.cid) ∧
    s.inScope .cluster (.core cid) = decide (cid / 16 = s.cid / 16) ∧
    s.inScope .package (.core cid) = decide (cid / 4096 = s.cid / 4096) ∧
    (∀ d, s.inScope .fabric d = true) ∧
    s.inScope .package (.global va) = true ∧
    (∀ sc, sc = .core ∨ sc = .cluster ∨ sc = .die →
      s.inScope sc (.global va) = false ∧ ∀ far, s.inScope sc (.group h far) = false) ∧
    (∀ far, s.inScope .package (.group h far) = !far) ∧
    (s.inScope .cluster (.core cid) = true → s.inScope .die (.core cid) = true) ∧
    (s.inScope .die (.core cid) = true → s.inScope .package (.core cid) = true)

/-! ## Barriers -/

/-- R242 and R243: a `bar` fences, arrives and waits; once its release is recorded it retires. An instance of package or
fabric scope that firmware has not configured traps (R241). -/
def Obligations.BarriersArriveAndRelease : Prop :=
  ∀ (s : State) (i : Instr) (sc : BarScope) (n : Nat),
    ((∃ k : Fin 64, i = .barGang k ∧ sc = .gang ∧ n = k.val) ∨
     (∃ k : Fin 64, i = .barCluster k ∧ sc = .cluster ∧ n = k.val) ∨
     (∃ k : Fin 256, i = .barPackage k ∧ sc = .package ∧ n = k.val) ∨
     (∃ k : Fin 64, i = .barFabric k ∧ sc = .fabric ∧ n = k.val)) →
    let b := s.barInst sc n
    let f := s.core.barFence sc
    let arrived := s.core.bars.find? fun a => a.inst == b
    let known := sc = .gang ∨ sc = .cluster ∨ (s.barConfigOf b).isSome = true
    (∀ a, arrived = some a → a.released = true →
      exec i s = .next (s.retires 8 fun c => { c with bars := c.bars.filter fun a => a.inst != b })) ∧
    (∀ a, arrived = some a → a.released = false → exec i s = .next s.waits) ∧
    (arrived = none → ¬ known → s.core.trapHeld = false → exec i s = .next (s.traps 0x03 (BitVec.ofNat 64 n))) ∧
    (arrived = none → known → ¬ s.fenceDone f → exec i s = .next s.waits) ∧
    (arrived = none → known → s.fenceDone f → ((barsOf s.bars b).isSome = true ∨ s.barRoom b = true) →
      Reports i s (s.fenceFails f) (∃ t, exec i s = .next t ∧ t.core.run = .wait ∧
        t.core.bars = s.core.bars ++ [⟨b, false, s.core.stepping⟩] ∧ t.core.pc = s.core.pc ∧
        ∃ x, barsOf t.bars b = some x ∧ s.cid ∈ x.arrived))

/-- R242: the sums of arrivals, the release of a complete instance, and firmware's entries. -/
def Obligations.BarriersAreSummedAndReleased : Prop :=
  (∀ (s : State) (k die n : Nat) (b : BarState) (cfg : BarConfig), s.inp = .two k die → s.bars[k]? = some b →
    s.barConfigOf b.inst = some cfg → cfg.scope = .package → die ∉ b.summed → (die, n) ∈ cfg.counts → 0 < n →
    n ≤ (b.arrived.filter fun c => s.dieOf c == die).length →
    exec .barrierArrivalSum s = .next { s with bars := s.bars.map fun x =>
      if x.inst == b.inst then { x with summed := x.summed ++ [die] } else x }) ∧
  (∀ (s : State) (k z : Nat) (b : BarState), s.inp = .two k z → s.bars[k]? = some b → s.saved = [] →
    b.inst.scope ≠ .fabric →
    (b.inst.scope = .cluster → ∀ j < 16, cidOf s.pkg b.inst.ident.2 j ∈ b.arrived) →
    (b.inst.scope = .gang → ∀ x, s.hub.binds.find? (fun x => x.clause == b.inst.ident.1) = some x →
      ∀ m ∈ x.members, m.cid ∈ b.arrived) →
    (b.inst.scope = .package → ∃ cfg, s.barConfigOf b.inst = some cfg ∧
      ∀ x ∈ cfg.counts, x.2 ≠ 0 → x.1 ∈ b.summed) →
    ∃ t, exec .barrierRelease s = .next t ∧ barsOf t.bars b.inst = none ∧
      ∀ cid ∈ b.arrived, (t.coreAt cid).latch = true ∧
        (∀ a ∈ (t.coreAt cid).bars, a.inst = b.inst → a.released = true) ∧
        (t.coreAt cid).regs = (s.coreAt cid).regs ∧ (t.coreAt cid).ls = (s.coreAt cid).ls) ∧
  ∀ (s : State) (k : BarConfig), s.inp = .barConfig k →
    ((k.scope = .package ∧ k.n < 256) ∨ (k.scope = .fabric ∧ k.n < 64)) →
    ∃ t, exec .barrierEntryConfig s = .next t ∧
      (∀ b : BarInst, b.scope = k.scope → b.n = k.n → b.ident.1 = k.ctx → t.barConfigOf b = some k) ∧
      ∀ b : BarInst, (b.scope ≠ k.scope ∨ b.n ≠ k.n) → t.barConfigOf b = s.barConfigOf b

/-! ## The copy engine -/

/-- R347, R348, R350, R352, R385 and R386. -/
def Obligations.CopyInstructionsComplete : Prop :=
  (∀ (o : CpushOp) (s : State),
    let c := s.core
    let x := c.request o
    let id := c.copy.xnext.get o.ch
    let pushed := s.retires 8 fun c => (c.accept x).wrS o.d (id.setWidth 64)
    (x.w0, x.w1, x.w2, x.w3) = (c.rdS o.a, c.rdS (runReg o.a 1), c.rdS (runReg o.a 2), c.rdS (runReg o.a 3)) ∧
    x.id = id ∧ x.ch = o.ch ∧ (c.accept x).copy.fifo = c.copy.fifo ++ [.req x] ∧
    (c.accept x).cnt.cp = c.cnt.cp + 1 ∧ (c.accept x).copy.xnext.get o.ch = id + 1 ∧
    (c.status.pl ≠ .debug → c.waitOk o.wt = true → c.copyTrap x = none → c.fifoFull = false →
      (x.multi = true → c.copy.mcasts.length < 32) →
      exec (.cpush o) s = .next pushed ∧ exec (.cpushb o) s = .next pushed) ∧
    (c.status.pl ≠ .debug → c.waitOk o.wt = true → c.copyTrap x = none → c.fifoFull = true →
      exec (.cpush o) s = .next s.waits ∧ exec (.cpushb o) s = .next (s.puts o.d (BitVec.allOnes 64) 8)) ∧
    (∀ t, c.status.pl ≠ .debug → c.waitOk o.wt = true → c.copyTrap x = some t → c.trapHeld = false →
      exec (.cpush o) s = .next (s.traps t.cause t.tval) ∧ exec (.cpushb o) s = .next (s.traps t.cause t.tval))) ∧
  (∀ (a : SReg) (ch : Chan) (s : State),
    let i := (s.core.rdS a).setWidth 32
    let before (n : BitVec 32) : Prop := 0 < (n - i).toNat ∧ (n - i).toNat < 2 ^ 31
    let next := s.core.copy.xnext.get ch
    let oldest := ((s.core.xfers ch).head?.map fun x => x.id).getD next
    (¬ before next → s.core.trapHeld = false → exec (.cpwait a ch) s = .next (s.traps 0x01 (i.setWidth 64))) ∧
    (before next → before oldest → exec (.cpwait a ch) s = .next (s.retires 8 id)) ∧
    (before next → ¬ before oldest → exec (.cpwait a ch) s = .next s.waits)) ∧
  (∀ (m : BitVec 4) (s : State), ∃ fifo,
    exec (.cpfence m) s = .next (s.retires 8 fun c => { c with copy := { c.copy with fifo := fifo } }) ∧
    fifo.filterMap FifoItem.xfer? = s.core.copy.fifo.filterMap FifoItem.xfer?) ∧
  (∀ (ch : Chan) (s : State) (x : Xfer) (reason va : Nat) (gone : Bool),
    s.core.oldest ch = some x → x.phase = .stopped reason va gone →
    exec (.cpresume ch) s = .next (s.retires 8 fun c => c.onXfer ch fun x =>
      if gone then { x.failGlobal va reason with pend := false } else { x with phase := .active, pend := false })) ∧
  (∀ (ch : Chan) (s : State), (∀ x ∈ s.core.oldest ch, ∀ r va g, x.phase ≠ .stopped r va g) → s.core.trapHeld = false →
    exec (.cpresume ch) s = .next (s.traps 0x01 (BitVec.ofNat 64 ch.val))) ∧
  ∀ (a : SReg) (s : State),
    let v := s.core.rdS a
    (2 ^ 56 ≤ v.toNat → s.core.trapHeld = false → exec (.ptouch a) s = .next (s.traps 0x04 v)) ∧
    (v.toNat < 2 ^ 56 → s.core.hubWait = .none → s.accessible s.core v.toNat = true →
      exec (.ptouch a) s = .next (s.retires 8 id)) ∧
    (v.toNat < 2 ^ 56 → s.core.hubWait = .none → s.accessible s.core v.toNat = false →
      exec (.ptouch a) s = .next (s.mapCore fun c => { c with hubWait := .touchSent v, run := .wait })) ∧
    (v.toNat < 2 ^ 56 → s.core.hubWait = .touchDone v true →
      exec (.ptouch a) s = .next (s.retires 8 fun c => { c with hubWait := .none })) ∧
    (v.toNat < 2 ^ 56 → s.core.hubWait = .touchDone v false → s.core.trapHeld = false →
      exec (.ptouch a) s = .next ((s.mapCore fun c => { c with hubWait := .none }).traps 0x14 v))

/-! ## The worklist and Sound groups, as programs use them -/

/-- R260, R268, R277 and R281: `wlpush` and `wlwait`. That `wlwait` of a core that does not own the list traps with `PRIV` in
a handler too, before the `ILLEGAL` of R277, is log entry 37 (DEDUCED). -/
def Obligations.WorklistInstructionsComplete : Prop :=
  ∀ s : State,
    let owner := s.wl.enabled = true ∧ s.core.ids.ctx.toNat = s.wl.owner
    (∀ o : WlpushOp,
      let c := s.core
      let k := clusterOf s.cid
      let prio : BitVec 32 := (c.rdS o.c).setWidth 32
      let bucket := prio.toNat / 2 ^ s.wl.shift.toNat
      let inv := match s.wl.seen k with
        | some f => decide (bucket < f)
        | none => false
      let ws := (List.range 4).map fun j => c.rdS (Fin.ofNat 64 (o.b.val + j))
      (c.waitOk o.wt = true → ¬ owner → c.trapHeld = false → exec (.wlpush o) s = .next (s.traps 0x03 0)) ∧
      (c.waitOk o.wt = true → owner → k < 96 → (s.wl.slice k).tasks.length < 512 →
        ∃ t, exec (.wlpush o) s = .next t ∧
          (t.wl.slice k).tasks = (s.wl.slice k).tasks ++ [⟨c.rdS o.a, ws, prio, s.cid, inv, s.wl.nextSeq, true, 0⟩] ∧
          t.wl.incs = s.wl.incs ++ [⟨k, s.wl.nextSeq, bucket⟩] ∧ t.wl.nextSeq = s.wl.nextSeq + 1 ∧
          t.wl.armed = true ∧ t.wl.spill = s.wl.spill ∧ t.core.pc = c.pc + 8 ∧ t.core.instret = c.instret + 1 ∧
          t.core.wl.inv.toNat = (if inv then min 0xFFFF (c.wl.inv.toNat + 1) else c.wl.inv.toNat) ∧
          t.core.regs = c.regs ∧ t.core.ls = c.ls)) ∧
    (¬ owner → s.core.trapHeld = false → exec .wlwait s = .next (s.traps 0x03 0)) ∧
    (owner → s.core.status.hnd = false → s.core.wl.term = true → exec .wlwait s = .next (s.retires 8 id)) ∧
    (owner → s.core.status.hnd = false → s.core.wl.term = false → s.core.status.pl ≠ .debug →
      exec .wlwait s = .next s.waits)

/-- R287 and R294: sound stores are counted and sent to their home; `sndseq` and `sndwait` read a member's progress. -/
def Obligations.SoundInstructionsComplete : Prop :=
  ∀ s : State,
    let c := s.core
    let handleOk (h : Word) : Prop := h.extractLsb' 24 40 = 0 ∧ h.extractLsb' 10 2 = 0
    let room (h o : Word) (n m : Nat) : Prop :=
      handleOk h ∧ o.toNat + n ≤ 0x140000 ∧ o.toNat % m = 0 ∧ c.cnt.st < 512
    (∀ o : SstOp, let n := o.size.bytes
      c.waitOk o.wt = true → room (c.rdS o.a) (c.rdS o.b) n n →
      exec (.sst o) s = .next ((s.issueSound (c.rdS o.a) (c.rdS o.b) (toBytesLE n (c.rdS o.d).toNat)).retires 8 id)) ∧
    (∀ o : SstvOp, c.waitOk o.wt = true → c.vec.seq = [] → room (c.rdS o.a) (c.rdS o.b) 64 64 →
      exec (.sstv o) s =
        .next ((s.issueSound (c.rdS o.a) (c.rdS o.b) (toBytesLE 64 (c.rdV o.d).bits.toNat)).retires 8 id)) ∧
    (∀ o : SstlOp, c.waitOk o.wt = true → c.vec.seq = [] → room (c.rdS o.a) (c.rdS o.b) o.len 8 →
      c.okAccess (c.rdS o.d).toNat o.len = true → c.badIn (c.rdS o.d).toNat o.len = none →
      ReadsOn (.sstl o) (c.rdS o.d).toNat o.len s ∧
      ∀ bs, c.hasRead (c.rdS o.d).toNat o.len bs →
        exec (.sstl o) s = .next ((s.issueSound (c.rdS o.a) (c.rdS o.b) bs).retires 12 id)) ∧
    (∀ h o bs, let t := s.issueSound h o bs
      t.core.cnt.st = c.cnt.st + 1 ∧
      ((h.extractLsb' 12 12).toNat = s.cid / 4096 →
        t.sound.toHome = s.sound.toHome ++ [⟨h, o.toNat, bs, s.cid, c.ids.ctx.toNat, s.tags⟩])) ∧
    (∀ d a m, c.membership (c.rdS a) = some m → c.trans.mode = 0 →
      exec (.sndseq d a) s = .next (s.puts d (BitVec.ofNat 64 m.applied) 8)) ∧
    (∀ d a, c.membership (c.rdS a) = none → c.trapHeld = false →
      exec (.sndseq d a) s = .next (s.traps 0x15 (c.rdS a)) ∧
      ∀ b, exec (.sndwait a b) s = .next (s.traps 0x15 (c.rdS a))) ∧
    ∀ a b m, c.membership (c.rdS a) = some m →
      ((c.rdS b).toNat % 2 ^ 48 ≤ m.applied → exec (.sndwait a b) s = .next (s.retires 8 id)) ∧
      (m.applied < (c.rdS b).toNat % 2 ^ 48 → c.status.pl ≠ .debug → exec (.sndwait a b) s = .next s.waits)

/-! ## The end of a generation and of a clause -/

/-- R208, R210, R368 and R374: a released `gend` gives its results; before that it arrives once its core is still and the
SFU holds no request of it, and waits. `exit` reads and checks its blocks, waits for the same, reports, reads them again and
sends them; while it waits for the hub it stays. That an `exit` without blocks retires without the hub is log entry 40
(DEDUCED), and a core with a halt request pending takes it as it leaves (R31). -/
def Obligations.GendAndExitComplete : Prop :=
  (∀ (d : SReg) (s : State) (result winner : Nat) (ws : List Word) (elite : Bool),
    s.core.sce.phase = .released result winner ws elite → (result = 2 → ws.length = 4) →
    ∃ t, exec (.gend d) s = .next t ∧ t.core.pc = s.core.pc + 8 ∧ t.core.instret = s.core.instret + 1 ∧
      t.core.sce.phase = .none ∧ t.core.sce.elite = elite ∧ t.core.sce.repl = decide (1 ≤ result) ∧
      (∀ r : SReg, t.core.rdS r =
        if r = 0 then 0
        else if result = 2 ∧ 4 ≤ r.val ∧ r.val < 8 then ws.getD (r.val - 4) 0
        else if 1 ≤ result ∧ r = 3 then BitVec.ofNat 64 winner
        else if r = d then BitVec.ofNat 64 result
        else s.core.rdS r) ∧
      t.core.stale = (if 1 ≤ result then s.core.stale.map (fun x => { x with settled := true }) else s.core.stale) ∧
      t.core.ls = s.core.ls) ∧
  (∀ (d : SReg) (s : State) (p : Population), s.core.sce.phase = .none → s.core.status.pl ≠ .debug →
    s.core.status.hnd = false → s.core.sce.member = true → s.population s.core.sce.pop.toNat = some p →
    s.core.sce.glen.toNat = p.gl → s.core.sce.gbase.toNat + p.gl ≤ 0x140000 →
    (¬ (s.core.still ∧ s.sfuFree) → exec (.gend d) s = .next s.waits) ∧
    (s.core.still → s.sfuFree → p.home = s.pkg →
      Reports (.gend d) s (s.core.failureIn (fun _ => True) (fun _ => True))
        (exec (.gend d) s = .next { s with
          sce := { s.sce with
            msgs := s.sce.msgs ++ [⟨s.core.sce.pop.toNat, ⟨s.cid, s.core.sce.fit, s.core.sce.genno⟩, .arrive⟩] }
          core := { s.core with run := .wait, sce := { s.core.sce with phase := .arrived } } }))) ∧
  (∀ (d : SReg) (s : State), s.core.sce.phase = .arrived ∨ s.core.sce.phase = .closed →
    exec (.gend d) s = .next s.waits) ∧
  (∀ (a : SReg) (s : State), s.core.status.pl ≠ .debug → s.core.hubWait = .none → s.core.readSoFar = [] →
    (¬ (s.core.still ∧ s.sfuFree) →
      exec (.exit a 0) s = .next (s.mapCore fun c => { c with hubWait := .exitWait }).waits) ∧
    (s.core.still → s.sfuFree →
      Reports (.exit a 0) s (s.core.failureIn (fun _ => True) (fun _ => True))
        (∃ t, exec (.exit a 0) s = .next t ∧ t.core.run = s.core.leavesFor ∧ t.core.pc = s.core.pc + 8 ∧
          t.core.instret = s.core.instret + 1 ∧ t.core.regs = s.core.regs ∧ t.core.ls = s.core.ls))) ∧
  (∀ (a : SReg) (n : Fin 5) (s : State), n ≠ 0 → s.core.status.pl ≠ .debug →
    let v := s.core.rdS a
    let i : Instr := .exit a n
    s.core.okAccess v.toNat (32 * n.val) = true → v.toNat % 32 = 0 → s.core.badIn v.toNat (32 * n.val) = none →
    let read (bs : List Byte) (ks : List Cont) : Prop :=
      s.core.hasRead v.toNat (32 * n.val) bs ∧ parseConts bs s.cid s.core.ids.ctx.toNat n.val = .ok ks
    (s.core.hubWait = .none → s.core.accessPending = false →
      ReadsOn i v.toNat (32 * n.val) s ∧
      ∀ bs ks, read bs ks →
        exec i s = .next (s.mapCore fun c => { c.keepRead i [] with hubWait := .exitWait })) ∧
    (s.core.hubWait = .exitWait →
      (¬ (s.core.still ∧ s.sfuFree) → exec i s = .next s.waits) ∧
      (s.core.still → s.sfuFree →
        let covered := s.core.failureIn (fun _ => True) (fun _ => True)
        (s.core.readSoFar = [] → s.core.trans.mode = 0 → covered → s.core.trapHeld = false →
          exec i s = .next ((s.mapCore fun c => { c with hubWait := .none }).traps
            (s.core.afault.extractLsb' 0 8).toNat s.core.afaddr)) ∧
        ((s.core.readSoFar ≠ [] ∨ s.core.trans.mode ≠ 2 ∧ ¬ covered) →
          ReadsOn i v.toNat (32 * n.val) s ∧
          ∀ bs ks, read bs ks → ∃ t, exec i s = .next t ∧ t.core.run = .wait ∧ t.core.hubWait = .exitSent ∧
            t.hub.groups = s.hub.groups ++ [⟨s.cid, s.core.ids.ctx.toNat, v, ks⟩] ∧
            t.core.pc = s.core.pc ∧ t.core.regs = s.core.regs ∧ t.core.ls = s.core.ls)))) ∧
  (∀ (a : SReg) (n : Fin 5) (s : State), s.core.status.pl ≠ .debug → s.core.hubWait = .exitSent →
    exec (.exit a n) s = .next s.waits) ∧
  ∀ (a : SReg) (n : Fin 5) (s : State), s.core.trapHeld = false → s.core.status.pl = .debug →
    exec (.exit a n) s = .next (s.traps 0x01 (word64 (.exit a n)))

/-! ## System registers -/

/-- R24 to R26, R32, R133 and R225: the value of a register, and that `mfsr` writes it; a transcript that records or
replays is a matter of its own (R396, R397). -/
def Obligations.SystemRegistersAreRead : Prop :=
  (∀ (d : SReg) (r : SysReg) (i : Instr) (s : State),
    (i = .mfsr d r ∨ (i = .mfsrFpflags ∧ r = .fpflags ∧ s.inp = .reg r d)) → s.core.trans.mode = 0 →
    (r = .fpflags → s.core.vec.seq = []) → exec i s = .next (s.puts d (s.readSys r) 8)) ∧
  ∀ (s : State) (r : SysReg) (x : Word),
    let c := s.core
    (r, x) ∈ [(SysReg.epc, c.trap.epc), (.cause, c.trap.cause), (.tval, c.trap.tval), (.tvec, c.trap.tvec),
      (.kscratch, c.trap.kscratch), (.ienable, c.trap.ienable.setWidth 64), (.ipend, c.trap.ipend.setWidth 64),
      (.ubase, c.trap.ubase), (.ulimit, c.trap.ulimit), (.fpctl, c.fp.ctl.setWidth 64),
      (.fpflags, c.fp.flags.setWidth 64), (.cid, BitVec.ofNat 64 s.cid), (.stage, c.ids.stage.setWidth 64),
      (.clause, c.ids.clause), (.gangpos, c.ids.gangpos), (.gangshape, c.ids.gangshape),
      (.ctx, c.ids.ctx.setWidth 64), (.seqpos, c.trap.seqpos.setWidth 64), (.instret, c.instret),
      (.cycle, BitVec.ofNat 64 s.now + c.cycOff), (.cntld, BitVec.ofNat 64 c.cnt.ld),
      (.cntst, BitVec.ofNat 64 (c.cnt.stcl + c.cnt.stpk + c.cnt.stfb)), (.cntcp, BitVec.ofNat 64 c.cnt.cp),
      (.cnttl, BitVec.ofNat 64 c.cnt.tl), (.stcl, BitVec.ofNat 64 c.cnt.stcl), (.stpk, BitVec.ofNat 64 c.cnt.stpk),
      (.stfb, BitVec.ofNat 64 c.cnt.stfb), (.afault, c.afault), (.afpc, c.afpc), (.afaddr, c.afaddr),
      (.rngkey, c.vec.rngkey), (.rngstep, c.vec.rngstep), (.mbox, c.copy.mbox.setWidth 64),
      (.wlbound, s.wl.bound.setWidth 64), (.wlshift, s.wl.shift.setWidth 64), (.wlxint, s.wl.xint.setWidth 64),
      (.wlstall, s.wl.stallLimit.setWidth 64), (.fit, c.sce.fit.setWidth 64), (.gbase, c.sce.gbase.setWidth 64),
      (.glen, c.sce.glen.setWidth 64), (.genno, c.sce.genno.setWidth 64),
      (.status, BitVec.ofNat 64 ((match c.status.pl with | .user => 0 | .kernel => 1 | .debug => 2) +
        (if c.status.ppl then 4 else 0) + (if c.status.ie then 8 else 0) + (if c.status.pie then 16 else 0) +
        (if c.status.hnd then 32 else 0) + (if c.fp.ctl.toNat / 8 = 0 then 0 else 256)))] →
    s.readSys r = x

/-- R24, R134, R281 and R395: what `mtsr` writes; reserved bits are ignored, a write that does not keep the RO fields or
gives an illegal value traps and writes nothing, and so does one to a register without a writable field. A write of `INSTRET`
is followed by the step's own count, and one of `TRCTL` leaves `i` at 0: log entry 21 (DEDUCED). -/
def Obligations.SystemRegistersAreWritten : Prop :=
  let any (_ : Word) (_ : Core) : Prop := True
  WritesTrap .epc (fun x t => { t with epc := x }) ∧ WritesTrap .cause (fun x t => { t with cause := x }) ∧
  WritesTrap .tval (fun x t => { t with tval := x }) ∧ WritesTrap .kscratch (fun x t => { t with kscratch := x }) ∧
  WritesTrap .tvec (fun x t => { t with tvec := x &&& 0xFFFFFFFFFFFFFFE0 }) ∧
  WritesTrap .ubase (fun x t => { t with ubase := x &&& 0xFFFFFFFFFFFFFFC0 }) ∧
  WritesTrap .ulimit (fun x t => { t with ulimit := x &&& 0xFFFFFFFFFFFFFFC0 }) ∧
  WritesTrap .ienable (fun x t => { t with ienable := x.setWidth 6 }) ∧
  WritesTrap .ipend (fun x t => { t with
    ipend := t.ipend &&& ~~~(x.setWidth 6), wdSrc := if x.getLsbD 5 then 0 else t.wdSrc }) ∧
  WritesReg .status [] (fun x c => x.getLsbD 0 = decide (c.status.pl = .kernel) ∧
      x.getLsbD 1 = decide (c.status.pl = .debug) ∧ x.getLsbD 5 = c.status.hnd ∧
      x.getLsbD 8 = decide (c.fp.ctl.toNat / 8 ≠ 0))
    (fun x c => { c with status := { c.status with ppl := x.getLsbD 2, ie := x.getLsbD 3, pie := x.getLsbD 4 } }) ∧
  WritesReg .fpctl [.mtsrFpctl] (fun x _ => x.toNat % 8 ≠ 5 ∧ x.toNat % 8 ≠ 6)
    (fun x c => { c with fp := { c.fp with ctl := x.setWidth 8 } }) ∧
  WritesReg .fpflags [] any (fun x c => { c with fp := { c.fp with flags := x.setWidth 5 } }) ∧
  WritesReg .rngkey [.mtsrFpctl] any (fun x c => { c with vec := { c.vec with rngkey := x } }) ∧
  WritesReg .rngstep [.mtsrFpctl] any (fun x c => { c with vec := { c.vec with rngstep := x } }) ∧
  WritesReg .instret [] any (fun x c => { c with instret := x }) ∧
  (∀ (a : SReg) (s : State),
    let t := s.retires 8 fun c => { c with cycOff := c.rdS a - BitVec.ofNat 64 s.now }
    exec (.mtsr .cycle a) s = .next t ∧ t.readSys .cycle = s.core.rdS a) ∧
  WritesReg .afault [.mtsrAfault] any (fun x c =>
    let f : Core := { c with afault := x &&& 0xFFFFFFFFF03F35FF }
    { f with trans := { f.trans with fails := f.heldFailure.toList ++ f.unreported c } }) ∧
  WritesReg .afpc [.mtsrAfault] any (fun x c => { c with afpc := x }) ∧
  WritesReg .afaddr [.mtsrAfault] any (fun x c => { c with afaddr := x }) ∧
  WritesReg .gbase [] (fun x _ => x.toNat % 64 = 0)
    (fun x c => { c with sce := { c.sce with gbase := x.setWidth 21 &&& 0x1FFFC0 } }) ∧
  WritesReg .glen [] (fun x _ => x.toNat % 64 = 0)
    (fun x c => { c with sce := { c.sce with glen := x.setWidth 21 &&& 0x1FFFC0 } }) ∧
  WritesReg .fit [] any (fun x c => { c with sce := { c.sce with fit := x.setWidth 32 } }) ∧
  (∀ t, WritesReg (.tshp t) [.mtsrTshp] (fun x c => ∃ y, c.writeTshp t x = some y)
    (fun x c => (c.writeTshp t x).getD c)) ∧
  WritesReg .sndstat [.mtsrSndstat] (fun x c => (c.sndstat ^^^ x) &&& 0xFFFFFF001FFF0000 = 0)
    (fun x c => { c with snd := { c.snd with
      nacktrap := x.getLsbD 0
      deg := c.snd.deg && !x.getLsbD 2
      first := if x.getLsbD 2 then 0 else c.snd.first
      nackn := if x.getLsbD 2 then 0 else c.snd.nackn
      homeref := c.snd.homeref && !x.getLsbD 3 } }) ∧
  WritesReg .ibctl [.mtsrIbctl] (fun x _ => 1 ≤ x.toNat % 128 ∧ x.toNat % 128 ≤ 64)
    (fun x c => { c with inbox := { c.inbox with closed := x.getLsbD 8, spawnlim := x.setWidth 7 } }) ∧
  (∀ (a : SReg) (i : Instr) (s : State), writerOf .trctl a [.mtsrTrctl] i s →
    (s.core.trctl ^^^ s.core.rdS a) &&& 0xFFFFFFFF00000000 = 0 → (s.core.rdS a).toNat % 4 ≠ 3 →
    ∃ t, exec i s = .next t ∧ t.core.trans.mode = (s.core.rdS a).setWidth 2 ∧ t.core.trans.count = 0 ∧
      t.core.trans.full = (s.core.trans.full && !(s.core.rdS a).getLsbD 2) ∧
      t.core.trans.diverge = (s.core.trans.diverge && !(s.core.rdS a).getLsbD 3) ∧ t.core.trans.i = 0 ∧ t.core.pc = s.core.pc + 8 ∧ t.core.regs = s.core.regs ∧ t.core.ls = s.core.ls) ∧
  (∀ (a : SReg) (i : Instr) (s : State),
    let x := s.core.rdS a
    let put (w : Worklist) : Prop := exec i s = .next ({ s with wl := w }.retires 8 id)
    let refuse (r : SysReg) : Prop := exec i s = .next (s.traps 0x01 (word64 (.mtsr r a)))
    (s.wl.enabled = true → s.core.ids.ctx.toNat = s.wl.owner →
      (writerOf .wlbound a [.mtsrWlbound] i s → put { s.wl with bound := x.setWidth 6 }) ∧
      (writerOf .wlshift a [.mtsrWlshift] i s →
        (s.wl.quiescent = true → put { s.wl with shift := x.setWidth 5 }) ∧
        (s.wl.quiescent = false → s.core.trapHeld = false → refuse .wlshift)) ∧
      (i = .mtsr .wlxint a →
        (256 ≤ x.toNat % 2 ^ 32 → put { s.wl with xint := x.setWidth 32 }) ∧
        (x.toNat % 2 ^ 32 < 256 → s.core.trapHeld = false → refuse .wlxint)) ∧
      (i = .mtsr .wlstall a → put { s.wl with stallLimit := x.setWidth 32 })) ∧
    (¬ (s.wl.enabled = true ∧ s.core.ids.ctx.toNat = s.wl.owner) → s.core.trapHeld = false →
      ∀ r n, (r, n) ∈ [(SysReg.wlbound, 0x0A0#64), (.wlshift, 0x0A1), (.wlxint, 0x0A3), (.wlstall, 0x0A4)] →
        exec (.mtsr r a) s = .next (s.traps 0x03 n))) ∧
  RefusesWrite .status (fun x c => x.getLsbD 0 ≠ decide (c.status.pl = .kernel) ∨
    x.getLsbD 1 ≠ decide (c.status.pl = .debug) ∨ x.getLsbD 5 ≠ c.status.hnd ∨
    x.getLsbD 8 ≠ decide (c.fp.ctl.toNat / 8 ≠ 0)) ∧
  RefusesWrite .sndstat (fun x c => (c.sndstat ^^^ x) &&& 0xFFFFFF001FFF0000 ≠ 0) ∧
  RefusesWrite .trctl (fun x c => (c.trctl ^^^ x) &&& 0xFFFFFFFF00000000 ≠ 0 ∨ x.toNat % 4 = 3) ∧
  (∀ t, RefusesWrite (.tshp t) (fun x c => c.writeTshp t x = none)) ∧
  RefusesWrite .fpctl (fun x _ => x.toNat % 8 = 5 ∨ x.toNat % 8 = 6) ∧
  RefusesWrite .gbase (fun x _ => x.toNat % 64 ≠ 0) ∧ RefusesWrite .glen (fun x _ => x.toNat % 64 ≠ 0) ∧
  RefusesWrite .ibctl (fun x _ => x.toNat % 128 = 0 ∨ 64 < x.toNat % 128) ∧
  (∀ ch, RefusesWrite (.xdone ch) any ∧ RefusesWrite (.xnext ch) any) ∧
  ∀ r ∈ [SysReg.cid, .stage, .clause, .gangpos, .gangshape, .ctx, .seqpos, .cntld, .cntst, .cntcp, .cnttl, .stcl,
    .stpk, .stfb, .mbox, .genno, .gstat, .wlstat, .ibcount], RefusesWrite r any

/-- R11, R24 and R67: what fetching finds at a word whose instruction the decoder reads: at user level a kernel
instruction or register traps with `PRIV`, and an illegal combination of types traps at every level. -/
def Obligations.LevelsAndTypesAreChecked : Prop :=
  ∀ (w : Nat) (i : Instr), decodeRaw (Raw.ofWord w) = .ok i →
    (i.kernelOnly = true → decodeAt true w = .illegal ⟨0x03, BitVec.ofNat 64 w⟩) ∧
    (∀ user, (user = false ∨ i.kernelOnly = false) → i.comboOk = false →
      decodeAt user w = .illegal ⟨0x02, BitVec.ofNat 64 w⟩) ∧
    (∀ user, (user = false ∨ i.kernelOnly = false) → i.comboOk = true → decodeAt user w = .instr i) ∧
    (∀ d r, i = .mfsr d r → (i.kernelOnly = true ↔ r ∈ [SysReg.status, .epc, .cause, .tval, .tvec, .kscratch,
      .ienable, .ipend, .ubase, .ulimit, .seqpos, .afault, .afpc, .afaddr, .gbase, .glen, .wlbound, .wlshift,
      .wlxint, .wlstall, .ibctl, .trctl])) ∧
    (∀ r a, i = .mtsr r a → (i.kernelOnly = true ↔ r ∈ [SysReg.status, .epc, .cause, .tval, .tvec, .kscratch,
      .ienable, .ipend, .ubase, .ulimit, .cycle, .instret, .afault, .afpc, .afaddr, .gbase, .glen, .wlbound,
      .wlshift, .wlxint, .wlstall, .ibctl, .trctl])) ∧
    ((i = .kret ∨ (∃ ch, i = .cpresume ch) ∨ (∃ a, i = .ptouch a) ∨ ∃ a k, i = .mint a k) → i.kernelOnly = true)

/-! ## The steps of the network interfaces -/

/-- R223, R224, R227, R228, R232, R234, R336, R355 and R388: what an interface does with an operation that arrives, and which
operations it refuses. A write, a copy's bytes or a payload lands in whole aligned 8-byte pieces, as many in a step as a free
value says (log entry 63), and nothing else arrives in between; a message is accepted with the last piece of its payload. -/
def Obligations.ArrivingOperationsAreServed : Prop :=
  let took (c : Core) (m : Msg) : Core :=
    if c.inbox.arrival.length < 64 ∧ c.inbox.spill = [] then
      { c with inbox := { c.inbox with arrival := c.inbox.arrival ++ [m] }, latch := true }
    else { c with inbox := { c.inbox with spill := c.inbox.spill ++ [m], totspill := c.inbox.totspill + 1 } }
  let landed (c : Core) (a : Nat) (bs : List Byte) (x : Option Applying) : Core :=
    { c.landBytes a bs with latch := true, applying := x }
  (∀ (s : State) (a n : Nat), 0 < n →
    let k := s.pieceCut a n
    0 < k ∧ k ≤ n ∧ (k < n → (a + k) % 8 = 0)) ∧
  (∀ (s : State) (k : Nat) (p : Packet), s.arrives k p → pkgOf p.src = s.pkg →
    let c := s.core
    (∀ a bs, p.kind = .write a bs → s.refuses p = none →
      let n := s.pieceCut a bs.length
      (bs.length ≤ n → exec .niApply s = .next (s.serves k p (landed c a bs none) .ack)) ∧
      (n < bs.length → exec .niApply s = .next { s with
        net := s.net.eraseIdx k
        core := landed c a (bs.take n) (some ⟨p.src, p.ctx, p.tag, a + n, bs.drop n, none, none⟩) })) ∧
    (∀ a bs w, p.kind = .copy a bs w → s.refuses p = none →
      let n := s.pieceCut a bs.length
      (bs.length ≤ n → exec .niApply s =
        .next (s.serves k p (landed c a bs none) (if w.lost = true then .nack causeLost else .ack))) ∧
      (n < bs.length → exec .niApply s = .next { s with
        net := s.net.set k { p with kind := .copy (a + n) (bs.drop n) w }
        core := landed c a (bs.take n) none })) ∧
    (∀ h ws q, p.kind = .msg h ws (some q) → s.refuses p = none →
      let a := q.landing.toNat
      let bs := q.landed ws
      let m : Msg := ⟨p.src, p.ctx, h, ws, some bs.length, p.pc, p.afaddr⟩
      let n := s.pieceCut a bs.length
      (bs.length ≤ n → exec .messageAccept s = .next (s.serves k p (took (landed c a bs none) m) .ack)) ∧
      (n < bs.length → exec .messageAccept s = .next { s with
        net := s.net.eraseIdx k
        core := landed c a (bs.take n) (some ⟨p.src, p.ctx, p.tag, a + n, bs.drop n, some m, none⟩) })) ∧
    (∀ a n, p.kind = .read a n → s.refuses p = none →
      exec .niRemoteRead s = .next (s.serves k p c (.value (BitVec.ofNat 64 (c.ls.readN a n))))) ∧
    (∀ f a n v new ret, p.kind = .amo f a n v new ret → s.refuses p = none →
      exec .niRemoteAtomic s = .next (s.serves k p
        (match amoNew f n (c.ls.readN a n) v new with
          | some x => { c.landBytes a (toBytesLE n x) with latch := true }
          | none => c)
        (if ret then .value (BitVec.ofNat 64 (c.ls.readN a n)) else .ack))) ∧
    (∀ h ws, p.kind = .msg h ws none → s.refuses p = none →
      exec .messageAccept s = .next (s.serves k p (took c ⟨p.src, p.ctx, h, ws, none, p.pc, p.afaddr⟩) .ack)) ∧
    (∀ b : Fin 6, p.kind = .mint b → s.refuses p = none →
      exec .mintApply s = .next (s.serves k p
        { c with
          latch := c.latch || !c.trap.ipend.getLsbD b.val
          trap := { c.trap with
            ipend := c.trap.ipend ||| BitVec.ofNat 6 (2 ^ b.val)
            meshSender := if b = 2 then BitVec.ofNat 24 p.src else c.trap.meshSender
            wdSrc := if b = 5 then c.trap.wdSrc ||| 4 else c.trap.wdSrc } } .ack)) ∧
    (p.kind = .bfree → c.copy.mcasts = [] →
      ∃ t, exec .bfreeCredit s = .next t ∧ t.net = s.net.eraseIdx k ∧ t.core.copy.mbox = c.copy.mbox ∧
        ∀ j : Fin 16, (t.core.copy.credits.get j).toNat =
          if j.val = p.src % 16 then min 255 ((c.copy.credits.get j).toNat + 1) else (c.copy.credits.get j).toNat) ∧
    (∀ cause, s.refuses p = some cause →
      ((∃ a bs, p.kind = .write a bs ∨ ∃ w, p.kind = .copy a bs w) →
        exec .niApply s = .next (s.serves k p c (.nack cause))) ∧
      ((∃ a n, p.kind = .read a n) → exec .niRemoteRead s = .next (s.serves k p c (.nack cause))) ∧
      ((∃ f a n v new ret, p.kind = .amo f a n v new ret) →
        exec .niRemoteAtomic s = .next (s.serves k p c (.nack cause))) ∧
      ((∃ h ws q, p.kind = .msg h ws q) → exec .messageAccept s = .next (s.serves k p c (.nack cause))) ∧
      ((∃ b, p.kind = .mint b) → exec .mintApply s = .next (s.serves k p c (.nack cause))))) ∧
  (∀ (s : State) (x : Applying), s.core.applying = some x → x.sound = none → pkgOf x.src = s.pkg →
    let c := s.core
    let n := s.pieceCut x.addr x.bytes.length
    (n < x.bytes.length → exec .niApply s = .next { s with
      core := landed c x.addr (x.bytes.take n) (some { x with addr := x.addr + n, bytes := x.bytes.drop n }) }) ∧
    (x.bytes.length ≤ n →
      let done (c : Core) : State := { s with core := c, back := s.back ++ [⟨x.src, x.ctx, x.tag, .ack⟩] }
      (x.msg = none → exec .niApply s = .next (done (landed c x.addr x.bytes none))) ∧
      ∀ m, x.msg = some m → exec .niApply s = .next (done (took (landed c x.addr x.bytes none) m)))) ∧
  ∀ (s : State) (p : Packet),
    let c := s.coreAt p.dst
    let mine := c.bound = .never ∨ c.ids.ctx.toNat = p.ctx
    let inside (a n : Nat) := a + n ≤ 0x140000 ∧ c.trap.ubase.toNat ≤ a ∧ a + n ≤ c.trap.ulimit.toNat
    (∀ a bs, p.kind = .write a bs →
      (s.storeReady p.dst = false → s.refuses p = some 0x19) ∧
      (s.storeReady p.dst = true → (¬ mine ∨ ¬ inside a bs.length) → s.refuses p = some 0x10) ∧
      (s.storeReady p.dst = true → mine → inside a bs.length → s.windowHeld p.dst a bs.length = false →
        c.bad = [] → s.refuses p = none)) ∧
    (∀ a n, p.kind = .read a n →
      (s.storeReady p.dst = false → s.refuses p = some 0x19) ∧
      (s.storeReady p.dst = true → (¬ mine ∨ ¬ inside a n) → s.refuses p = some 0x11) ∧
      (s.storeReady p.dst = true → mine → inside a n → c.bad = [] → s.refuses p = none)) ∧
    (∀ h ws, p.kind = .msg h ws none →
      (s.refuses p = none ↔ mine ∧ c.inbox.closed = false ∧
        ((c.inbox.arrival.length < 64 ∧ c.inbox.spill = []) ∨ c.inbox.spill.length < c.inbox.spillCap)) ∧
      (s.refuses p ≠ none → s.refuses p = some 0x12)) ∧
    ∀ b, p.kind = .mint b → s.refuses p = if c.bound = .never ∨ c.ids.ctx.toNat = p.ctx then none else some 0x10

/-- R225, R228, R381 and R382: what the issuer does with an answer; R234: the spill queue. The model's choices: a refused load
writes 0 whatever the cause (log entry 38, DEDUCED), a reply lets the next `isync` drop older versions of code (`observe` and
`settled`, log entry 14), and a replay keeps each failure for the record that may name it (`told`, log entry 23). -/
def Obligations.AnswersEndOperations : Prop :=
  let told (c : Core) (f : Failure) : Transcript :=
    if c.trans.mode = 2 then { c.trans with fails := c.trans.fails ++ [f] } else c.trans
  (∀ (s : State) (k : Nat) (r : Reply) (o : OutOp), s.answers k r → s.core.findOut r.tag = some o →
    let c := s.core
    (r.kind = .ack → o.kind = .store ∨ o.kind = .msg ∨ o.kind = .mint →
      exec .ackArrival s = .next (s.takes k (c.closeOut o.tag))) ∧
    (∀ cause, r.kind = .nack cause → cause < 256 → o.kind = .store ∨ o.kind = .msg ∨ o.kind = .mint →
      c.afault.getLsbD 8 = false →
      exec .ackArrival s = .next (s.takes k { c.closeOut o.tag with
        afault := BitVec.ofNat 64 (cause + 2 ^ 8 + 2 ^ 12), afpc := o.pc, afaddr := o.afaddr, afFar := false
        trans := told c (Failure.plain .st cause o.pc o.afaddr) })) ∧
    (∀ x d size u, r.kind = .value x → o.kind = .load d size u →
      let n := 8 * size.bytes
      exec .replyArrival s = .next (s.takes k ((c.wrS d (if u then BitVec.ofNat 64 x.toNat
        else BitVec.ofInt 64 (toSigned n (x.toNat % 2 ^ n)))).closeOut o.tag).observe)) ∧
    (∀ cause d size u, r.kind = .nack cause → o.kind = .load d size u → cause < 256 → c.afault.getLsbD 8 = false →
      exec .replyArrival s = .next (s.takes k { (c.wrS d 0).closeOut o.tag with
        afault := BitVec.ofNat 64 (cause + 2 ^ 8), afpc := o.pc, afaddr := o.afaddr, afFar := false
        trans := told c (Failure.plain .ld cause o.pc o.afaddr) }))) ∧
  (∀ c : Core, c.observe = { c with stale := c.stale.map fun x => { x with settled := true } }) ∧
  (∀ (c : Core) (tag : Nat) (o : OutOp), c.findOut tag = some o → o.kind.isCopy = false →
    let t := c.closeOut tag
    t.outst = c.outst.filter (fun o => o.tag != tag) ∧
    t.cnt.ld = c.cnt.ld - (if o.kind.isLoad then 1 else 0) ∧
    t.cnt.stcl = c.cnt.stcl - (if ¬ o.kind.isLoad ∧ o.reach = .cluster then 1 else 0) ∧
    t.cnt.stpk = c.cnt.stpk - (if ¬ o.kind.isLoad ∧ o.reach = .package then 1 else 0) ∧
    t.cnt.stfb = c.cnt.stfb - (if ¬ o.kind.isLoad ∧ o.reach = .fabric then 1 else 0) ∧
    t = { c with outst := t.outst, cnt := t.cnt }) ∧
  (∀ (s : State) (m : Msg) (rest : List Msg), s.core.inbox.spill = m :: rest → s.core.inbox.arrival.length < 64 →
    exec .spillMove s = .next (s.mapCore fun c => { c with
      inbox := { c.inbox with arrival := c.inbox.arrival ++ [m], spill := rest }, latch := true })) ∧
  ∀ (s : State) (base cap : Nat), s.inp = .three s.cid base cap →
    exec .spillQueueConfig s = .next (s.mapCore fun c => { c with
      inbox := { c.inbox with spillBase := base, spillCap := cap } })

/-! ## The steps of the copy engine and of global memory -/

/-- R311, R328, R349, R350, R351, R353, R363 and R418: a request begins, reads the index word of a row and its chunks,
transforms their bytes, which leave for their VA, for another package or for the stores of its targets, lands them there, and
ends. That a good second copy counts the chunk as corrected is the model's reading (log entry 51), as are the order in which
bytes land and the reason of a bad index word, which is left out here (log entry 74); the spending of tokens is R364's. -/
def Obligations.CopyStepsMoveTheirRequest : Prop :=
  (∀ (s : State) (ch : Chan), s.inp = .idx ch.val → s.core.mayBegin ch = true →
    exec .copyBegin s = .next (s.mapCore fun c => c.onXfer ch fun x => { x with phase := .active })) ∧
  (∀ (s : State) (ch : Chan) (x : Xfer), s.runs ch x →
    let va := x.va s.core
    let ports := s.portsOf s.cid x va
    let cost := s.gmem.costAt x.ctx va
    let piece (bs : List Byte) : List Byte := x.buf ++ (bs.drop (va % 4096)).take (x.pieceLen s.core)
    let index := x.indexList + 4 * (x.pos / x.pa)
    let reads (bs : List Byte) (y : Xfer) : Xfer :=
      { y with buf := piece bs, acc := if x.kind = 3 ∧ (piece bs).length ≠ x.pa then .none else .have_ }
    (x.kind = 3 → x.acc = .none → x.index = none → s.core.badIn index 4 = none →
      exec .chunkAccess s = .next (s.mapCore fun c => c.onXfer ch fun y => { y with index := some (c.ls.readN index 4) })) ∧
    (∀ w, x.kind = 3 → x.index = some w → (va : Nat) = (x.src + w * x.stride + x.buf.length) % 2 ^ 56) ∧
    (x.reading = true → (x.kind = 3 → x.index ≠ none) → x.acc = .none →
      (∀ r, s.gmem.readChunk x.ctx va s.hitR = .fault r →
        exec .chunkAccess s = .next (s.mapCore fun c => c.onXfer ch fun x => x.stop r va)) ∧
      ∀ g bs t, s.gmem.readChunk x.ctx va s.hitR = .done g bs →
        ({ s with gmem := g, core := s.core.onXfer ch (reads bs) }).charge ports x.ctx cost = some t →
        exec .chunkAccess s = .next t) ∧
    (∀ g p t, x.acc = .again → x.replicaVa = none → s.gmem.readChunk x.ctx va s.hitR = .bad g p →
      ({ s with gmem := g, core := s.core.onXfer ch fun y => y.failGlobal va (if p then 6 else 5) }).charge
        ports x.ctx cost = some t →
      exec .chunkRefetch s = .next t) ∧
    (∀ g bs t, x.acc = .again → s.gmem.readChunk x.ctx va s.hitR = .done g bs →
      ({ s with gmem := g.correctAt x.ctx va, core := s.core.onXfer ch (reads bs) }).charge ports x.ctx cost = some t →
      exec .chunkRefetch s = .next t) ∧
    (∀ g bs t, x.kind = 1 → x.acc = .put → s.gmem.writeChunk x.ctx va x.buf s.hitR s.hitW = .done g bs →
      s.injWatches (s.path s.cid x va) = false →
      ({ s with gmem := g, core := s.core.onXfer ch fun y => { y with
          pos := x.pos + x.buf.length, acc := .none, buf := x.ahead, ahead := [], landed := 0, carry := [], index := none
          fromReplica := false, carryFrom := if x.carry = [] ∨ x.buf ≠ [] then x.doneb else x.carryFrom
          phase := if x.outTotal ≤ x.pos + x.buf.length then .ended else x.phase } }).charge
        ports x.ctx (g.costAt x.ctx va) = some t →
      exec .chunkAccess s = .next t) ∧
    (let b := (x.supply s.core).1 + x.buf.length
      let k := s.pieceCut b (min (((x.supply s.core).1 + (x.supply s.core).2 + 7) / 8 * 8) (x.src + x.len) - b)
      let y : Xfer := { x with buf := x.buf ++ s.core.ls.readBytes b k }
      let u := s.mapCore fun c => c.onXfer ch fun _ => y
      x.gathers s.core = true → s.core.badIn b k = none →
        exec .copyChunk s = if y.gathers s.core then .next u else exec .copyChunk u) ∧
    (∀ bs u t, x.acc ≠ .land → x.gathers s.core = false → s.pieceReady x = some bs →
      s.crossBeats true (legBeats (s.legsOf x bs)) = some u → u.sendTokens x bs = some t →
      let out := x.carry ++ x.form.apply (if x.kind = 1 then va else x.landing) bs
      let x1 : Xfer := { x with buf := out, ahead := x.buf.drop bs.length, landed := 0 }
      let lands := t.mapCore fun c => c.onXfer ch fun _ => { x1 with acc := .land }
      let target := remoteCid x.w1
      let tval := remoteAddr target (x.landFrom % 2 ^ 21)
      let o : OutOp := ⟨t.tags, .copy ch, .core target, .fabric, x.pc, tval⟩
      (x.kind = 1 → exec .copyChunk s = .next (t.mapCore fun c => c.onXfer ch fun _ => { x1 with acc := .put })) ∧
      (x.kind ≠ 1 → (x.kind = 2 → pkgOf target = s.pkg) → exec .copyChunk s = exec .copyChunk lands) ∧
      (x.kind = 2 → s.exists_ target = true → pkgOf target ≠ s.pkg → x1.landLen s.core ≠ 0 →
        exec .copyChunk s = .next (({ t with
          core := { (t.core.onXfer ch fun _ => { x1 with acc := .put }) with outst := t.core.outst ++ [o] }
          tags := t.tags + 1 }).send
            ⟨t.cid, target, x.ctx, t.tags, true, x.pc, tval, .copy x.landFrom (out.take (x1.landLen s.core))
              ⟨beatsOf 0 bs.length, x.carry.length, x.beatOut, false⟩⟩))) ∧
    (∀ bs, ¬ (x.kind = 1 ∧ x.acc = .put) → s.pieceReady x = some bs →
      s.host.inj.after.toNat < s.host.inj.beats + legBeats (s.legsOf x bs) →
      ∃ t, exec .lfinjFire s = .next t ∧ t.host.inj.arm = false ∧ t.host.inj.fired = true ∧ t.host.inj.beats = 0)) ∧
  (∀ (s : State) (ch : Chan) (x : Xfer) (cid : Nat), s.runs ch x → x.acc = .land →
    let n := x.landLen s.core
    let off := x.landed % n
    let a := x.landFrom + off
    let k := s.pieceCut a (n - off)
    0 < n → (x.targets s.cid)[x.landed / n]? = some cid → cid ∉ x.refused →
    (x.own = false → (s.coreAt cid).applying = none) → s.landRefusal x cid a k = none →
      0 < k ∧ off + k ≤ n ∧
      ∃ t, exec .copyChunk s = .next t ∧
        (t.coreAt cid).ls = (s.coreAt cid).ls.writeBytes a ((x.buf.drop off).take k) ∧
        (∀ c, c ≠ cid → (t.coreAt c).ls = (s.coreAt c).ls) ∧
        t.core.oldest ch = some (if x.landed + k = n * (x.targets s.cid).length then { x with
            pos := x.pos + x.stepLen s.core, acc := .none, buf := x.ahead, ahead := [], landed := 0
            carry := x.buf.drop n, index := none, fromReplica := false
            carryFrom := if x.carry = [] ∨ (x.buf.drop n).length ≠ x.buf.length then x.doneb else x.carryFrom
            phase := if x.total ≤ x.pos + x.stepLen s.core then .ended else x.phase }
          else { x with landed := x.landed + k })) ∧
  ∀ (s : State) (ch : Chan) (x : Xfer), s.inp = .idx ch.val → s.core.oldest ch = some x → x.phase = .ended →
    x.acc ≠ .put → x.carry = [] → x.follow = none → x.refused = [] → (x.fail ≠ none → x.fol = false) →
    ∃ t, exec .copyComplete s = .next t ∧ t.core.cnt.cp = s.core.cnt.cp - 1 ∧ t.core.latch = true ∧
      t.core.copy.fifo.filterMap FifoItem.xfer? = (dropOldest ch s.core.copy.fifo).filterMap FifoItem.xfer? ∧
      t.core.regs = s.core.regs ∧ t.core.ls = s.core.ls ∧
      (x.fail = none → t.core.afault = s.core.afault) ∧
      ∀ f, x.fail = some f → s.core.afault.getLsbD 8 = false → t.core.afpc = x.pc ∧ t.core.afaddr = f.afaddr ∧
        t.core.afault.getLsbD 8 = true ∧ (t.core.afault.extractLsb' 0 8).toNat = f.cause % 256

/-- R312, R315, R318 and R319: firmware's writes of table entries. Writes that R312, R315 or R319 forbid change nothing, and
with those that stay no two mappings of one frame are writable; a shootdown removes the translations of its range and of
every leaf that it changes. -/
def Obligations.FirmwareKeepsTheTables : Prop :=
  (∀ (s : State) (ctx va len : Nat) (es : List (Nat × Word)), s.inp = .shoot ctx va len es →
    (s.gmem.firmwareSet [] es = none → exec .shootdown s = .next s) ∧
    ∀ g, s.gmem.firmwareSet [] es = some g →
      (∀ m ∈ s.gmem.changed g, m.ctx = ctx ∧ m.va < va + len ∧ va < m.va + pageSize m.lvl) →
      ∃ t, exec .shootdown s = .next t ∧ t.gmem.tables = (s.gmem.setEntries es).tables ∧
        t.gmem.chunks = s.gmem.chunks ∧
        ∀ x, x ∈ t.gmem.tlb ↔ x ∈ s.gmem.tlb ∧
          ¬ (x.ctx = ctx ∧ x.page < va + len ∧ va < x.page + pageSize x.level) ∧
          ∀ m ∈ s.gmem.changed g,
            ¬ (x.ctx = m.ctx ∧ x.page < m.va + pageSize m.lvl ∧ m.va < x.page + pageSize x.level)) ∧
  (∀ (s t : State) (i : Instr), i ∈ [Instr.shootdown, .firmwareFaultResolve] → s.gmem.mapOk = true →
    exec i s = .next t → t.gmem.mapOk = true) ∧
  ∀ g : Gmem, g.mapOk = true →
    (∀ x ∈ g.mapped.1, x.pa % tableSize x.lvl = 0 ∧ x.pa / 65536 < g.ni) ∧
    ∀ (i j : Nat) (m n : Mapping), g.mapped.2[i]? = some m → g.mapped.2[j]? = some n → i < j →
      m.frames.1 < n.frames.1 + n.frames.2 → n.frames.1 < m.frames.1 + m.frames.2 →
      m.entry.getLsbD 2 = false ∧ n.entry.getLsbD 2 = false

/-- R331 to R335, R364, R385 and R402: firmware's and the host's steps on global memory. The places of a record's fields are
the model's (log entry 65), as are the list that keeps the host's answers (log entry 57) and the buckets that the first
write of a share sets up (log entry 33). -/
def Obligations.GlobalMemoryStepsComplete : Prop :=
  (∀ (s : State) (ctx va record pa lvl : Nat) (e : Word), s.inp = .evict ctx va record →
    let page := va / 65536 * 65536
    s.gmem.leaf ctx page = some (pa, lvl, e) → e.getLsbD 5 = false → (ctx, page) ∉ s.gmem.evicting →
      (e.getLsbD 6 = true → ∃ t, exec .pageEvict s = .next t ∧
        t.gmem.tables = (s.gmem.setEntry pa (e &&& 0xFFFFFFFFFFFFFFBF)).tables ∧
        ∀ x ∈ t.gmem.tlb, ¬ (x.ctx = ctx ∧ x.page < pageOf page lvl + pageSize lvl ∧
          pageOf page lvl < x.page + pageSize x.level)) ∧
      (e.getLsbD 6 = false → lvl ≠ 0 ∨ s.pinned ctx page = true → exec .pageEvict s = .next s) ∧
      (e.getLsbD 6 = false → lvl = 0 → s.pinned ctx page = false →
        exec .pageEvict s = .next { s with gmem := { s.gmem with
          evicting := s.gmem.evicting ++ [(ctx, page)] } })) ∧
  (∀ (s : State) (ctx va record frame pa lvl len : Nat) (e : Word) (ks : List (BitVec 8 × List Byte)),
    s.inp = .expand ctx va record frame →
    let page := va / 65536 * 65536
    s.gmem.leaf ctx page = some (pa, lvl, e) → s.gmem.zoneAt record = some len → e.getLsbD 5 = true →
    (e.extractLsb' 16 36).toNat = record → s.gmem.unpack record len page ctx = some ks →
    s.gmem.framePool (expanded e frame) frame = true → s.gmem.hintOk (expanded e frame) = true →
    s.gmem.unused (frame * 65536) 65536 = true → s.gmem.wf = true →
    ∃ t, exec .zoneExpand s = .next t ∧ t.gmem.zoneAt record = none ∧
      t.gmem.entry pa = expanded e frame ∧
      ∀ k (h : k < ks.length), t.gmem.chunk (16 * frame + k) =
        ⟨ks[k].1, (s.gmem.chunk (16 * frame + k)).slot.writeBytes 0 ks[k].2, false, false⟩) ∧
  (∀ (s : State) (ctx va len : Nat), s.inp = .three ctx va len → va % 65536 = 0 → len % 65536 = 0 →
    let code (k : Nat) : Option Word := (s.gmem.mdAt ctx (va + k * 4096)).map fun md => md.setWidth 64
    exec .exportMd s =
      .next { s with host := { s.host with answer := (List.range (len / 4096)).filterMap code } }) ∧
  (∀ (s : State) (ctx va n : Nat), s.gmem.chunkNo ctx va = some n →
    s.gmem.mdAt ctx va = some (s.gmem.chunk n).md) ∧
  (∀ (s : State) (ctx va pa lvl : Nat) (e : Word), s.gmem.leaf ctx va = some (pa, lvl, e) → e.getLsbD 5 = true →
    s.gmem.mdAt ctx va = some (s.gmem.slotByte (64 * (e.extractLsb' 16 36).toNat + 16 + va / 4096 % 16))) ∧
  (∀ (s : State) (ctx va n : Nat) (md : BitVec 8), s.inp = .mds ctx va [md] →
    s.gmem.chunkNo ctx va = some n → s.gmem.wf = true →
    ∃ t, exec .importMd s = .next t ∧ t.gmem.chunk n = { s.gmem.chunk n with md := md }) ∧
  (∀ (s : State) (ctx va pa lvl len : Nat) (e : Word) (md : BitVec 8), s.inp = .mds ctx va [md] →
    s.gmem.leaf ctx va = some (pa, lvl, e) → e.getLsbD 5 = true →
    let record := (e.extractLsb' 16 36).toNat
    let a := 64 * record + 16 + va / 4096 % 16
    s.gmem.zoneAt record = some len → s.gmem.inTable a = false → s.gmem.wf = true →
    ∃ t, exec .importMd s = .next t ∧ t.gmem.tables = s.gmem.tables ∧ t.gmem.slotByte a = md) ∧
  (∀ (s : State) (off len : Nat), s.inp = .hostMem off none len → off + len ≤ 2 ^ 36 →
    ∃ t, exec .hostMemoryAccess s = .next t ∧ t = { s with host := { s.host with answer := t.host.answer } } ∧
      t.host.answer = if s.host.ready
        then (s.gmem.readSlots (s.host.bar4 + off) len).map fun b => b.setWidth 64
        else List.replicate len 0xFF) ∧
  (∀ (s : State) (off : Nat) (bs : List Byte), s.inp = .hostMem off (some bs) bs.length → off + bs.length ≤ 2 ^ 36 →
    (s.host.ready = false → exec .hostMemoryAccess s = .next s) ∧
    (s.host.ready = true → exec .hostMemoryAccess s =
      .next { s with gmem := s.gmem.writeSlots (s.host.bar4 + off) bs })) ∧
  (∀ (s : State) (off len : Nat), s.inp = .hostBar 2 off len → off + len ≤ 2 ^ 18 →
    ∃ t, exec .hostMemoryAccess s = .next t ∧ t = { s with host := { s.host with answer := t.host.answer } } ∧
      (s.host.ready = false → t.host.answer = List.replicate len 0xFF)) ∧
  (∀ (s : State) (roots : List (Nat × Nat)) (es : List (Nat × Word)) (cid : Nat) (v : Word) (g : Gmem),
    s.inp = .tables roots es (.touch cid false) → s.gmem.firmwareSet roots es = some g →
    (s.coreAt cid).hubWait = .touchSent v →
    ∃ t, exec .firmwareFaultResolve s = .next t ∧ t.gmem = g ∧
      (t.coreAt cid).hubWait = .touchDone v false ∧
      ∀ x ∈ (t.coreAt cid).copy.fifo.filterMap FifoItem.xfer?, ∀ r f gone, x.phase = .stopped r f gone →
        f / 65536 = v.toNat / 65536 → gone = true) ∧
  (∀ (s : State) (k : Nat) (p : TokenPort), s.inp = .idx k → s.host.ports[k]? = some p → p.last + 1024 ≤ s.now →
    exec .tokenRefill s = .next { s with host := { s.host with
      ports := s.host.ports.set k (refill p (s.activeAt k) s.shareOf s.now) } }) ∧
  ∀ (s : State) (ctx share : Nat), s.inp = .two ctx share → s.host.shares = [] → share ≤ 256 →
    ∃ t, exec .contextShareWrite s = .next t ∧ t.shareOf ctx = share ∧
      (s.host.ports = [] → t.host.ports.length = 120 ∧ ∀ p ∈ t.host.ports, p.last = s.now)

/-! ## The steps of the worklist -/

/-- R264, R265, R266, R270, R271: counts, floors, dispatch and the moves of tasks within a package. -/
def Obligations.WorklistStepsCountAndMoveTasks : Prop :=
  (∀ (s : State) (k : Nat) (x : WlInc), s.inp = .idx k → s.wl.incs[k]? = some x →
    ∃ t, exec .wlCountIncrement s = .next t ∧
      (∀ b, countOf t.wl.counts b = countOf s.wl.counts b + (if b = x.bucket then 1 else 0)) ∧
      t.wl.incs = s.wl.incs.eraseIdx k ∧ ⟨x.cluster, t.wl.floor, some x.seq, s.now⟩ ∈ t.wl.floorMsgs ∧
      ∀ y ∈ t.wl.slices.toList.flatMap (·.tasks) ++ t.wl.spill, y.seq = x.seq → y.pending = false) ∧
  (∀ (s : State) (k : Nat) (d : WlDec), s.inp = .idx k → s.wl.decs[k]? = some d →
    (∀ x ∈ s.wl.incs, x.cluster = d.cluster → d.after ≤ x.seq) →
    ∃ t, exec .wlCountDecrement s = .next t ∧ t.wl.decs = s.wl.decs.eraseIdx k ∧
      ∀ j, countOf t.wl.counts j = countOf s.wl.counts j - (if j = d.bucket then 1 else 0)) ∧
  (∀ (s : State) (cluster : Nat) (m : FloorMsg), s.inp = .idx cluster → cluster < 96 →
    s.wl.floorMsgs.find? (fun m => m.cluster == cluster) = some m →
    ∃ t, exec .wlFloorReceive s = .next t ∧ t.wl.slice cluster = { s.wl.slice cluster with floor := m.floor } ∧
      t.wl.floorMsgs = s.wl.floorMsgs.erase m) ∧
  (∀ (s : State) (cluster cid : Nat) (x : Task), s.inp = .idx cluster → cluster < 96 →
    s.nextServed cluster = some (cid, s.coreAt cid, x) → (s.coreAt cid).handlerOk x.handler = true →
    (s.coreAt cid).trans.mode = 0 → (s.coreAt cid).inError handlerReads = false →
    ∃ t, exec .wlDispatch s = .next t ∧
      (t.coreAt cid).Entered (s.coreAt cid) x.handler
        (x.words ++ [x.prio.setWidth 64, BitVec.ofNat 64 (s.wl.bucket x), 0, 0]) x.pcid (s.coreAt cid).pc ∧
      (t.coreAt cid).wl.running = some x ∧
      (t.wl.slice cluster).tasks = (s.wl.slice cluster).tasks.filter fun y => y.seq != x.seq) ∧
  (∀ (s : State) (cluster : Nat) (x : Task), s.inp = .idx cluster → cluster < 96 →
    448 < (s.wl.slice cluster).tasks.length → s.wl.spillRoom = true →
    s.wl.spillVictim ((s.wl.slice cluster).tasks.filter fun y =>
      (s.wl.seen cluster).isSome && !s.wl.within (s.wl.seen cluster) y) = some x →
    ∃ t, exec .wlSliceSpill s = .next t ∧ t.wl.spill = s.wl.spill ++ [{ x with slot := s.wl.freeSlot }] ∧
      (t.wl.slice cluster).tasks = (s.wl.slice cluster).tasks.filter fun y => y.seq != x.seq) ∧
  (∀ (s : State) (cluster : Nat), s.inp = .idx cluster → s.nextRefill = some cluster →
    let ts := s.wl.lowest 64 (s.wl.eligible s.wl.spill)
    cluster < 96 ∧ s.takesPart cluster = true ∧ (s.wl.slice cluster).tasks.length < 64 ∧
      (ts ≠ [] → ∃ t, exec .wlRefill s = .next t ∧ t.wl.spill = without s.wl.spill ts ∧
        t.wl.refillTurn = (cluster + 1) % 96 ∧
        (t.wl.slice cluster).tasks = (s.wl.slice cluster).tasks ++ ts)) ∧
  ∀ (s : State) (cluster : Nat), s.inp = .idx cluster → cluster < 96 → s.takesPart cluster = true →
    s.servingIn cluster ≠ [] → s.wl.offer cluster = none → s.wl.offerable s.wl.spill = [] →
    s.fullest cluster ≠ cluster → (s.wl.slice cluster).tasks.length ≤ 512 →
    let k := s.fullest cluster
    let ts := s.wl.lowest (min 16 (512 - (s.wl.slice cluster).tasks.length)) (s.wl.movable k)
    ∃ t, exec .wlMove s = .next t ∧ (t.wl.slice cluster).tasks = (s.wl.slice cluster).tasks ++ ts ∧
      (t.wl.slice cluster).tasks.length ≤ 512 ∧
      (t.wl.slice k).tasks = without (s.wl.slice k).tasks ts

/-- R272 to R277, R280 and R415: the fabric worklist, termination, the watchdog, and firmware. That a package never heard
from is silent from the enabling on is log entry 37, which stolen tasks leave and where they stand log entry 77, and that
the enabling begins a new count of epochs log entry 84. -/
def Obligations.WorklistStepsEndAndShareWork : Prop :=
  (∀ s : State, s.wl.enabled = true → s.wl.sharing ≠ [] → s.wl.lastExchange + s.wl.xint.toNat ≤ s.hubNow →
    let a : WlAnnounce := ⟨s.pkg, s.wl.floor, min 65535 s.wl.load.length, 0⟩
    exec .wlFloorExchange s = .next ((s.wl.sharing.filter fun p => p != s.pkg).foldl
      (fun u p => (u.transmit p true (.announce a)).getD u) { s with wl := { s.wl with lastExchange := s.hubNow } })) ∧
  (∀ (s : State) (k : Nat) (a : WlAnnounce), s.inp = .idx k → s.fabric.inbox[k]? = some (.announce a) →
    exec .wlAnnounceReceive s = .next { s with
      fabric := { s.fabric with inbox := s.fabric.inbox.eraseIdx k }
      wl := { s.wl with
        announced := (s.wl.announced.filter fun x => x.pkg != a.pkg) ++ [{ a with at_ := s.hubNow }] } }) ∧
  (∀ (s : State) (k : Nat), s.inp = .idx k → s.fabric.inbox[k]? = some (.wlArm s.wl.epoch) → s.wl.armed = false →
    s.wl.enabled = true →
    ∃ t, exec .wlAnnounceReceive s = .next t ∧ t.wl.armed = true ∧ t.wl.waveOn = false ∧ t.wl.lastWave = none ∧
      ∀ cid ∈ s.ownerCores, (t.coreAt cid).wl.term = false) ∧
  (∀ (s t : State) (a : WlAnnounce), s.serving ≠ [] → s.wl.stealable = [] → s.wl.stealFrom = none →
    s.wl.victim = some a → s.transmit a.pkg true (.stealAsk s.pkg) = some t →
    exec .wlStealRequest s = .next { t with wl := { t.wl with stealFrom := some a.pkg } }) ∧
  (∀ (s : State) (pkg : Nat) (rest : List Nat), s.wl.stealAsked = pkg :: rest →
    let n := s.wl.batch.length
    n ≤ 64 ∧ 2 * n ≤ s.wl.stealable.length ∧
      ((s.wl.stealable.map (·.seq)).Nodup → n = min 64 (s.wl.stealable.length / 2)) ∧
      ((s.transmit pkg true (.steal s.wl.batch)).isSome = true →
        ∃ t, exec .wlStealAnswer s = .next t ∧ t.wl.stealAsked = rest ∧ t.wl.sent = s.wl.sent + n)) ∧
  (∀ (s : State) (cluster : Nat) (ts : List Task) (rest : List (List Task)), s.inp = .idx cluster →
    s.wl.stealIn = ts :: rest → s.nextRefill = some cluster →
    cluster < 96 ∧ s.takesPart cluster = true ∧ (s.wl.slice cluster).tasks.length < 64 ∧
    ∃ t, exec .wlStealReceive s = .next t ∧ t.wl.stealIn = rest ∧ t.wl.refillTurn = (cluster + 1) % 96 ∧
      (t.wl.slice cluster).tasks = (s.wl.slice cluster).tasks ++ ts) ∧
  (∀ (s : State) (ts : List Task), ts ≠ [] →
    let w := (s.stealArrive ts).wl
    w.recv = s.wl.recv + ts.length ∧ w.nextSeq = s.wl.nextSeq + ts.length ∧
      ∃ us, w.stealIn = s.wl.stealIn ++ [us] ∧ us.length = ts.length ∧ ∀ u ∈ us, u.inv = false ∧ u.pending = false) ∧
  (∀ (s : State) (pkg : Nat), s.inp = .idx pkg → pkg ≠ s.pkg → pkg ∈ s.wl.sharing →
    s.wl.heard pkg + 16 * s.wl.xint.toNat ≤ s.hubNow →
    ∃ t, exec .wlFabricLeave s = .next t ∧ t.wl.sharing = s.wl.sharing.filter fun p => p != pkg) ∧
  (∀ s : State, s.inp = .none → s.wl.sharing = [] → s.wl.enabled = true → s.wl.armed = true →
    s.wl.quiescent = true →
    ∃ t, exec .wlTermination s = .next t ∧ t.wl.armed = false ∧
      (∀ m ∈ t.saved, m.core.ids.ctx.toNat = s.wl.owner → m.core.wl.term = true) ∧
      ∀ cid ∈ s.ownerCores, (t.coreAt cid).wl.term = true ∧ (t.coreAt cid).trap.ipend.getLsbD 4 = true ∧
        ((s.coreAt cid).trap.ipend.getLsbD 4 = false → (t.coreAt cid).latch = true)) ∧
  (∀ s : State, s.inp = .none → s.wl.sharing ≠ [] →
    (s.wl.coordinator ≠ s.pkg ∨ s.wl.armed = false ∨ s.wl.wavesAgree = false → exec .wlTermination s = .next s) ∧
    (s.wl.coordinator = s.pkg → s.wl.armed = true → s.wl.wavesAgree = true → s.wl.quiescent = true → s.wl.ahead = false →
      ∃ t, exec .wlTermination s = .next t ∧ t.wl.armed = false ∧ t.wl.epoch = s.wl.epoch + 1 ∧ t.wl.waveOn = false ∧
        ∀ cid ∈ s.ownerCores, (t.coreAt cid).wl.term = true)) ∧
  (∀ s : State, s.inp = .none → s.wl.sharing ≠ [] → s.wl.coordinator = s.pkg →
    (s.wl.waveDue = none → s.wl.waveOn = false → ∃ t, exec .wlTerminationWave s = .next t ∧ t.wl.waveOn = true ∧
      t.wl.wave = [] ∧ t.wl.waveNo = s.wl.waveNo + 1 ∧ t.wl.waveDue = some t.wl.waveNo) ∧
    (s.wl.waveOn = true → s.wl.waveDue = some s.wl.waveNo → s.wl.quiescent = true →
      (∀ a ∈ s.wl.wave, a.pkg ≠ s.pkg) →
      exec .wlTerminationWave s = .next { s with wl := { s.wl with
        waveDue := none
        wave := s.wl.wave ++ [⟨s.pkg, s.wl.waveNo, s.wl.sent, s.wl.recv⟩] } })) ∧
  (∀ s : State, s.wl.stallLimit ≠ 0 → s.wl.stallLimit.toNat ≤ s.wl.stallAcc → s.stalling = true →
    ∃ t, exec .wlStallExpiry s = .next t ∧ t.wl.stallAcc = 0 ∧
      (∀ cid ∈ s.ownerCores, (t.coreAt cid).wl.stall = true) ∧
      (∀ m ∈ t.saved, s.wl.enabled = true → m.core.ids.ctx.toNat = s.wl.owner → m.core.wl.stall = true) ∧
      ∀ cid ∈ s.stallTargets, (t.coreAt cid).trap.ipend.getLsbD 5 = true ∧
        (t.coreAt cid).trap.wdSrc.getLsbD 1 = true) ∧
  (∀ (s : State) (d : WorklistIn), s.inp = .worklist d → 256 ≤ d.xint.toNat →
    ∃ t, exec .worklistEnable s = .next t ∧ t.wl.enabled = true ∧ t.wl.owner = d.owner ∧ t.wl.bound = d.bound ∧
      t.wl.shift = d.shift ∧ t.wl.xint = d.xint ∧ t.wl.stallLimit = d.stallLimit ∧ t.wl.sharing = d.sharing ∧
      t.wl.armed = false ∧ t.wl.epoch = 0 ∧ t.wl.waveOn = false ∧ t.wl.slices = s.wl.slices ∧ t.core = s.core) ∧
  ∀ s : State, ∃ t, exec .worklistEmpty s = .next t ∧ t.wl.allTasks = [] ∧ t.wl.incs = [] ∧
    t = { s with wl := t.wl }

/-! ## The steps of Sound groups and of populations -/

/-- R284, R285 and R288 to R291: stamping, applying, answering, completing, and changing a group's members. The size of the
pieces in which a store's bytes are written is log entry 63, and that the indices stay 0 to `NMEM` − 1 when a member leaves
log entry 76. -/
def Obligations.SoundStepsReplicateAndComplete : Prop :=
  (∀ (s : State) (k : Nat) (r : SoundReq), s.inp = .idx k → s.sound.toHome[k]? = some r →
    inIssueOrder s.sound.toHome k r = true →
    (s.homeRefuses r = true → ∃ t, exec .soundStamp s = .next t ∧ t.sound.toHome = s.sound.toHome.eraseIdx k ∧
      t.sound.copies = s.sound.copies ∧ t.sound.groups = s.sound.groups ∧
      t.sound.sums = s.sound.sums ++ [⟨r.handle, 0, r.issuer, r.ctx, r.tag, 0, [], 0, none, true⟩]) ∧
    ∀ g, s.homeRefuses r = false → s.group (handleIdx r.handle) = some g → (∀ m ∈ g.members, pkgOf m.cid = s.pkg) →
      ∃ t, exec .soundStamp s = .next t ∧
        t.group (handleIdx r.handle) = some { g with nextSeq := g.nextSeq + 1 } ∧
        t.sound.copies = s.sound.copies ++ (g.members.map fun m => ⟨m.cid,
          ⟨r.handle, g.nextSeq.toNat, r.off, r.bytes, r.issuer, r.tag, g.ctx, g.born, m.idx, none⟩, false⟩) ∧
        t.sound.sums = s.sound.sums ++
          [⟨r.handle, g.nextSeq.toNat, r.issuer, r.ctx, r.tag, g.born, g.members.map (·.cid), 0, none, false⟩]) ∧
  (∀ (s : State) (k : Nat) (c : SoundCopy) (m : Membership), s.inp = .idx k → s.sound.copies[k]? = some c →
    c.refused = false → (s.coreAt c.dest).applying = none → c.st.seq ≠ 0 →
    (s.coreAt c.dest).membership c.st.handle = some m → m.born = c.st.born → c.st.seq = m.applied + 1 →
    c.st.change = none → s.divertsTo c.dest c.st.ctx = none →
    let refuses := m.revoked = true ∨ (s.coreAt c.dest).accepts c.st.ctx = false ∨
      s.writeRefused c.dest (m.base + c.st.off) c.st.bytes.length = true
    (¬ refuses → ∃ t, exec .soundMemberApply s = .next t ∧ t.sound.copies = s.sound.copies.eraseIdx k ∧
      t.coreAt c.dest = { s.coreAt c.dest with
        applying := some ⟨0, c.st.ctx, 0, m.base + c.st.off, c.st.bytes, none, some c.st⟩ }) ∧
    (refuses → (s.coreAt c.dest).heldStores = 0 → ∃ t, exec .soundMemberApply s = .next t ∧
      t.sound.copies = s.sound.copies.eraseIdx k ∧
      (t.coreAt c.dest).ls = (s.coreAt c.dest).ls ∧
      (t.coreAt c.dest).membership c.st.handle = some { m with applied := c.st.seq } ∧
      (handlePkg c.st.handle = s.pkg → t.sound.sums = s.sound.sums.map fun x =>
        x.answer ⟨c.st.handle, c.st.born, c.st.seq, c.st.idx, c.dest, false⟩))) ∧
  (∀ (s : State) (cid n : Nat) (x : Applying) (st : Stamped) (m : Membership), s.inp = .two cid n →
    (s.coreAt cid).applying = some x → x.sound = some st → x.bytes ≠ [] →
    (s.coreAt cid).membership st.handle = some m →
    let k := s.pieceCut x.addr x.bytes.length
    0 < k ∧ ∃ t, exec .soundMemberApply s = .next t ∧
      (m.held = [] → (t.coreAt cid).latch = true ∧
        (t.coreAt cid).ls = (s.coreAt cid).ls.writeBytes x.addr (x.bytes.take k)) ∧
      (k < x.bytes.length → (t.coreAt cid).membership st.handle = some m ∧
        (t.coreAt cid).applying = some { x with addr := x.addr + k, bytes := x.bytes.drop k }) ∧
      (k = x.bytes.length → m.held = [] → (t.coreAt cid).applying = none ∧
        (t.coreAt cid).membership st.handle = some { m with applied := st.seq } ∧
        (handlePkg st.handle = s.pkg → t.sound.sums = s.sound.sums.map fun y =>
          y.answer ⟨st.handle, st.born, st.seq, st.idx, cid, true⟩))) ∧
  (∀ (x : SoundSum) (r : SoundAns), x.homeref = false → x.handle = r.handle → x.born = r.born → x.seq = r.seq →
    (r.cid ∉ x.waiting → x.answer r = x) ∧
    (r.cid ∈ x.waiting → (x.answer r).waiting = x.waiting.erase r.cid ∧
      (r.ok = true → (x.answer r).nackn = x.nackn ∧ (x.answer r).first = x.first) ∧
      (r.ok = false → (x.answer r).nackn = x.nackn + 1 ∧
        (x.answer r).first = match x.first with
          | some f => if r.idx < f.1 then some (r.idx, r.cid) else some f
          | none => some (r.idx, r.cid)))) ∧
  (∀ (s : State) (k : Nat) (c : SoundCopy), s.inp = .idx k → s.sound.copies[k]? = some c →
    exec .soundRetry s = .next { s with sound := { s.sound with
      copies := s.sound.copies.set k { c with refused := false } } }) ∧
  (∀ (s : State) (k : Nat) (x : SoundSum) (o : OutOp), s.inp = .idx k → s.sound.sums[k]? = some x → x.waiting = [] →
    pkgOf x.issuer = s.pkg → (s.coreAt x.issuer).findOut x.tag = some o → x.homeref = false →
    ∃ t, exec .soundCompletion s = .next t ∧ t.sound.sums = s.sound.sums.eraseIdx k ∧
      (t.coreAt x.issuer).cnt = ((s.coreAt x.issuer).closeOut x.tag).cnt ∧
      (x.nackn = 0 → t.coreAt x.issuer = (s.coreAt x.issuer).closeOut x.tag) ∧
      (x.nackn ≠ 0 → (t.coreAt x.issuer).snd.deg = true)) ∧
  (∀ (s : State) (gidx : Nat) (g : Group) (x : SoundChange), s.inp = .change gidx x → s.group gidx = some g →
    (g.state = .active ∨ g.state = .degraded) → s.changeOk g x = true → g.nextSeq ≠ 0 →
    ∃ t, exec .membershipChange s = .next t ∧ t.group gidx = some { g.change x with nextSeq := g.nextSeq + 1 }) ∧
  (∀ (g : Group) (cid : Nat) (gone : GroupMember), g.members.find? (fun m => m.cid == cid) = some gone →
    (g.change (.remove cid)).members = (g.members.filter fun m => m.cid != cid).map fun m =>
      { m with idx := if gone.idx < m.idx then m.idx - 1 else m.idx }) ∧
  ∀ (s : State) (gidx : Nat) (g : Group), s.inp = .group gidx (some g) → s.group gidx = none → gidx < 1024 →
    s.groupOk g = true → (∀ m ∈ g.members, pkgOf m.cid = s.pkg → (s.coreAt m.cid).heldStores = 0) →
    let h : Word := BitVec.ofNat 64 (s.pkg * 2 ^ 12 + gidx)
    ∃ t, exec .groupTableWrite s = .next t ∧ t.group gidx = some { g with
        state := .active, nextSeq := 1, born := s.sound.created + 1, unclosed := [], unleft := [] } ∧
      ∀ m ∈ g.members, pkgOf m.cid = s.pkg → (s.coreAt m.cid).membership h = none →
        (t.coreAt m.cid).membership h = some ⟨h, m.base, g.ctx, s.sound.created + 1, m.revoked, 0, []⟩

/-- R365 and R368 to R374: a generation's arrivals, close, copies and release. -/
def Obligations.GenerationsCloseAndRelease : Prop :=
  (∀ (s : State) (k : Nat) (m : SceMsg) (p : Population), s.inp = .idx k → s.sce.msgs[k]? = some m →
    s.population m.slot = some p → p.closed = none → p.has m.arr.cid = true → m.note = .arrive →
    ∃ t, exec .sceArrival s = .next t ∧ t.sce.msgs = s.sce.msgs.eraseIdx k ∧
      t.population m.slot = some { p with
        arrivals := (p.arrivals.filter fun a => a.cid != m.arr.cid) ++ [m.arr] }) ∧
  (∀ (s : State) (slot : Nat) (p : Population), s.inp = .idx slot → s.population slot = some p → p.home = s.pkg →
    p.closed = none → p.arrivals ≠ [] → (∀ m ∈ p.members, ∃ a ∈ p.arrivals, a.cid = m.2) →
    ∃ t k, exec .generationClose s = .next t ∧ t.population slot = some { p with closed := some k } ∧
      k.logged = 0 ∧ k.losers.length = p.l ∧ k.ranking.length = p.members.length ∧
      (∀ m ∈ p.members, ∃ a ∈ k.ranking, a.cid = m.2) ∧
      ∀ m ∈ p.members, pkgOf m.2 = s.pkg → (s.coreAt m.2).sce.phase = .arrived →
        (t.coreAt m.2).sce.phase = .closed) ∧
  (∀ (s : State) (slot j : Nat) (p : Population) (k : Closed) (l : Loser), s.inp = .two slot j →
    s.population slot = some p → p.closed = some k → k.losers[j]? = some l → l.done = false → l.asked = false →
    p.home = s.pkg → pkgOf l.winner = s.pkg →
    ∃ t, exec .sceLoserCopy s = .next t ∧ t.sce.jobs = s.sce.jobs ++ [⟨p.home, slot, p.gen, j, l, 0, false⟩]) ∧
  (∀ (s : State) (i a b n : Nat) (x : SceJob) (p : Population), s.inp = .three i a b → s.sce.jobs[i]? = some x →
    s.popOf x.home x.slot = some (n, p) → x.waits = false → x.pos < p.gl → p.gl ≤ 0x140000 → p.xf = 0 →
    pkgOf x.l.cid = s.pkg → s.storeReady x.l.cid = true → s.storeReady x.l.winner = true →
    (s.coreAt x.l.winner).bad = [] → (s.coreAt x.l.cid).applying = none → s.host.inj.arm = false → s.host.ports = [] →
    let k := s.pieceCut 0 (min (4096 - x.pos % 4096) (p.gl - x.pos))
    0 < k ∧ x.pos + k ≤ p.gl ∧
    ∃ t, exec .sceLoserCopy s = .next t ∧
      (t.coreAt x.l.cid).ls = (s.coreAt x.l.cid).ls.writeBytes ((s.coreAt x.l.cid).sce.gbase.toNat + x.pos)
        ((s.coreAt x.l.winner).ls.readBytes ((s.coreAt x.l.winner).sce.gbase.toNat + x.pos) k) ∧
      (x.pos + k = p.gl → ∀ y ∈ t.sce.jobs, y.same x = false)) ∧
  (∀ (s : State) (slot : Nat) (p : Population) (k : Closed), s.inp = .idx slot → s.population slot = some p →
    p.closed = some k → k.losers.length ≤ k.logged →
    ∃ t, exec .generationRelease s = .next t ∧
      t.population slot = some { p with
        gen := p.gen + 1, lcount := p.lcount + BitVec.ofNat 64 k.logged, replaced := p.replaced + p.l
        arrivals := [], closed := none } ∧
      ∀ m ∈ p.members, pkgOf m.2 = s.pkg → s.divertsTo m.2 p.ctx = none →
        (t.coreAt m.2).trap.ipend.getLsbD 3 = true ∧
        ((s.coreAt m.2).sce.phase = .closed → (t.coreAt m.2).sce.phase = p.releaseOf k m.2 ∧
          (t.coreAt m.2).sce.genno = p.gen + 1)) ∧
  ∀ (s : State) (slot : Nat) (p : Population), s.inp = .pop slot (some p) → s.population slot = none →
    s.popOk slot p = true →
    ∃ t, exec .populationDescriptorWrite s = .next t ∧ t.population slot = some { p with
      gen := 0, lcount := 0, replaced := 0, arrivals := [], closed := none, away := [], told := [], held := false }

/-! ## The hub's launch queues, binding and starts -/

/-- R206 to R215, R403 and R425: continuations, templates, submissions and the queues of the hub. The number of the
interrupt that firmware has of a long wait is the model's (log entry 52), as is the order of the rotation (log entry 73). -/
def Obligations.LaunchQueuesServeTheirEntries : Prop :=
  (∀ (s : State) (k : Nat) (g : ExitGroup) (h : Hub), s.inp = .idx k → s.hub.groups[k]? = some g →
    (∀ x ∈ g.conts, (s.hub.queue x.queue).owner = some g.ctx) →
    ∀ ov, ({ s.hub with groups := s.hub.groups.eraseIdx k } : Hub).placeAll g.conts = .ok (h, ov) →
    ∃ t, exec .continuationArrival s = .next t ∧ t.hub.entries = h.entries ∧ t.hub.pending = h.pending ∧
      (t.coreAt g.cid).run = (s.coreAt g.cid).leavesFor ∧
      (t.coreAt g.cid).pc = (s.coreAt g.cid).pc + 8 ∧ (t.coreAt g.cid).regs = (s.coreAt g.cid).regs ∧
      (t.coreAt g.cid).ls = (s.coreAt g.cid).ls) ∧
  (∀ (s : State) (k i : Nat) (g : ExitGroup), s.inp = .idx k → s.hub.groups[k]? = some g →
    s.hub.refusedContext g = some i →
    ∃ t, exec .continuationArrival s = .next t ∧ t.hub.entries = s.hub.entries ∧ (t.coreAt g.cid).run = .run ∧
      (t.coreAt g.cid).hubWait = .exitRefused 0x03 (g.addr + BitVec.ofNat 64 (32 * i))) ∧
  (∀ (s : State) (k q : Nat) (g : ExitGroup), s.inp = .idx k → s.hub.groups[k]? = some g →
    s.hub.refusedContext g = none →
    ({ s.hub with groups := s.hub.groups.eraseIdx k } : Hub).placeAll g.conts = .error q →
    ∃ t, exec .continuationArrival s = .next t ∧ t.hub = { s.hub with groups := s.hub.groups.eraseIdx k } ∧
      (t.coreAt g.cid).run = .run ∧ (t.coreAt g.cid).hubWait = .exitRefused causeLaunchFull (BitVec.ofNat 64 q)) ∧
  (∀ h : Hub, (h.handled ≠ none ∨ h.pending = [] → h.settle = h) ∧
    ∀ k rest, h.handled = none → h.pending = k :: rest → h.settle = (({ h with pending := rest } : Hub).handle k).settle) ∧
  (∀ (h : Hub) (k : Cont),
    (∀ e n, h.openFor k = some e → e.state = .open_ n →
      h.handle k = { h with entries := h.entries.map fun x => if x.id = e.id then { x with
        count := x.count + 1
        lowcid := min x.lowcid k.sender
        arg0 := if k.sender < x.lowcid then k.arg0 else x.arg0
        arg1 := if k.sender < x.lowcid then k.arg1 else x.arg1
        state := if x.count + 1 = x.openJoin.getD 0 then .joined else .open_ (x.openJoin.getD 0) } else x }) ∧
    (h.openFor k = none → h.handle k = { h with
      nextId := h.nextId + 1
      entries := h.entries ++
        [⟨h.nextId, k.ctx, k.queue, k.clrec, k.jkey, 1, k.sender, k.arg0, k.arg1, false, .reading⟩] })) ∧
  (∀ (s : State) (id : Nat) (e : LaunchEntry) (g : Gmem) (bs : List Byte), s.inp = .idx id →
    s.hub.readingEntry id = some e → s.readGlobal e.ctx e.clrec.toNat 64 = .done g bs →
    (s.charge (s.readPorts e.ctx e.clrec.toNat hubDie) e.ctx (s.gmem.costAt e.ctx e.clrec.toNat)).isSome = true →
    (e.state ≠ .reading → recordFault (ofBytesLE bs) e.host (s.hub.queue e.queue).owner = none →
      ∃ t, exec .templateRead s = .next t ∧ t.gmem = g ∧ t.hub = ({ s.hub with
        nextId := s.hub.nextId + 1
        entries := s.hub.entries.map fun x => if x.id = id
          then { x with id := s.hub.nextId, state := .ready (ClauseRec.parse (ofBytesLE bs)) s.hubNow } else x } : Hub).settle) ∧
    (e.state = .reading → fieldOf (ofBytesLE bs) 352 16 ≠ 0 →
      let n := fieldOf (ofBytesLE bs) 352 16
      ∃ t, exec .templateRead s = .next t ∧ t.gmem = g ∧ t.hub = ({ s.hub with
        entries := s.hub.entries.map fun x => if x.id = id
          then { x with state := if n = 1 then .joined else .open_ n } else x } : Hub).settle)) ∧
  (∀ (s : State) (k : Nat) (g : Gmem) (bs : List Byte) (c : Cont), s.inp = .none → s.hub.nextSource = some k → k < 64 →
    let q := s.hub.queue k
    let ctx := q.owner.getD 0
    let va := (q.ovbase.toNat + 64 * ((q.ovNext - q.ovCount) % q.ovcap)) % 2 ^ 56
    s.gmem.unwritten ctx va 64 = false → s.readGlobal ctx va 64 = .done g bs → Cont.parse bs = some c →
    c.queue = k → c.ctx = ctx →
    ∃ t, exec .overflowDrain s = .next t ∧ t.gmem = g ∧ t.core = s.core ∧
      t.hub = (({ s.hub with turn := (k + 1) % 128 } : Hub).onQueue k fun q => { q with ovCount := q.ovCount - 1 }).arrive c) ∧
  (∀ (s : State) (q : Nat), s.hub.nextSource = some (64 + q) → q < 64 → (s.hub.queue q).frozen = false →
    let x := s.hub.queue q
    let w := (x.slots.toList.getD (x.cons % 63) 0).toNat
    let n := s.hub.nextId
    let e : LaunchEntry := ⟨n, x.owner.getD 0, q, 0, 0, 1, 0, 0, 0, true, .joined⟩
    recordFault w true x.owner = none →
    ∃ t, exec .submissionConsume s = .next t ∧ t.core = s.core ∧ t.hub =
      ({ s.hub.onQueue q fun x => { x with cons := (x.cons + 1) % 4032 } with
        turn := (64 + q + 1) % 128
        nextId := n + 2
        entries := (s.hub.entries ++ [e]).map fun x => if x.id = n
          then { x with id := n + 1, state := .ready (ClauseRec.parse w) s.hubNow } else x } : Hub).settle) ∧
  (∀ (s : State) (q prod : Nat), s.inp = .submit q prod [] → s.host.ready = true → q < 64 →
    (prod < 4032 → (prod + 4032 - (s.hub.queue q).cons) % 4032 ≤ 63 →
      ∃ t, exec .producerIndexWrite s = .next t ∧ (t.hub.queue q).prod = prod ∧ t.host = s.host) ∧
    (4032 ≤ prod → ∃ t, exec .producerIndexWrite s = .next t ∧ t.host.suberr = true ∧
      (t.hub.queue q).prod = (s.hub.queue q).prod)) ∧
  (∀ (s : State) (q : Nat), s.inp = .idx q → q < 64 →
    ∃ t, exec .queueThaw s = .next t ∧ (t.hub.queue q).frozen = false ∧ (t.hub.queue q).cancelled = 0 ∧
      (t.hub.queue q).fault = none ∧ (t.hub.queue q).ovCount = (s.hub.queue q).ovCount ∧ t.hub.entries = s.hub.entries) ∧
  (∀ (s : State) (q : Nat) (d : QueueIn), s.inp = .queue q d → q < 64 →
    ∃ t, exec .queueDescriptorWrite s = .next t ∧ (t.hub.queue q).owner = some d.owner ∧
      (t.hub.queue q).opened = d.opened ∧ (t.hub.queue q).ovcap = d.ovcap ∧ (t.hub.queue q).bindwd = d.bindwd ∧
      (t.hub.queue q).qwait = d.qwait ∧ (t.hub.queue q).tvec = d.tvec &&& 0xFFFFFFFFFFFFFFE0 ∧
      (t.hub.queue q).ubase = d.ubase &&& 0xFFFFFFFFFFFFFFC0 ∧ (t.hub.queue q).frozen = (s.hub.queue q).frozen) ∧
  ∀ (s : State) (q prio since : Nat) (e : LaunchEntry) (r : ClauseRec), s.inp = .two q prio →
    s.hub.head q prio = some (e, r, since) → (s.hub.queue q).qwait ≠ 0 →
    since + (s.hub.queue q).qwait < s.hubNow →
    ∃ t, exec .qwaitExpiry s = .next t ∧ t.host.fwIrq = s.host.fwIrq ++ [2] ∧ t.hub.queues = s.hub.queues

/-- R204, R216 to R218, R220, R221 and R427: binds, loads, starts and watchdogs. The `EPC` of the watchdog's fault record is
the model's (log entry 82), and that a sent `exit` is answered before the watchdog ends the clause is log entry 40. -/
def Obligations.ClausesAreBoundAndStarted : Prop :=
  (∀ (s : State) (q prio cluster org since : Nat) (e : LaunchEntry) (r : ClauseRec) (ms : List GangMember),
    s.inp = .bind q prio cluster org → q < 64 → s.hub.head q prio = some (e, r, since) →
    placement s.pkg r cluster org = some ms → (s.hub.queue q).frozen = false →
    (∀ m ∈ ms, s.reserved m.cid = false) →
    ∃ t b, exec .bindRecord s = .next t ∧ t.hub.binds = s.hub.binds ++ [b] ∧ b.members = ms ∧ b.record = r ∧
      b.started = false ∧ b.lseq = (s.hub.queue q).lseq ∧ (t.hub.queue q).lseq = (s.hub.queue q).lseq + 1) ∧
  (∀ (s t : State) (k : Nat) (b : Bind) (ms : List GangMember), s.inp = .idx k → s.hub.binds[k]? = some b →
    s.host.ready = true → s.host.tripped = false → b.started = false →
    (∀ m ∈ b.members, (s.coreAt m.cid).run = .idle) → s.loadAll b false = (t, ms) → (∀ m ∈ ms, m.load = .done) →
    exec .clauseLoadDone s = .next (t.startGang b)) ∧
  (∀ (c : Core) (b : Bind) (m : GangMember) (q : LaunchQueue) (now : Nat),
    let t := c.startClause b m q now
    t.pc = BitVec.ofNat 64 b.record.entry ∧ t.run = .run ∧ t.status.ie = false ∧ t.status.hnd = false ∧
    t.status.pl = (if b.record.kstart then .kernel else .user) ∧
    t.rdS 3 = BitVec.ofNat 64 (if b.record.args = 0 then 0 else b.record.argdst) ∧ t.rdS 4 = b.entry.arg0 ∧
    t.rdS 5 = b.entry.arg1 ∧ t.rdS 6 = BitVec.ofNat 64 b.entry.jkey ∧ t.rdS 11 = BitVec.ofNat 64 b.entry.lowcid ∧
    (∀ r : SReg, (r.val < 3 ∨ 11 < r.val ∨ (6 < r.val ∧ r.val < 11)) → t.rdS r = c.rdS r) ∧
    t.ids.clause = BitVec.ofNat 64 b.clause ∧ t.ids.ctx = BitVec.ofNat 12 b.record.ctx ∧ t.fp.ctl = 0 ∧
    t.fp.flags = 0 ∧ t.trap.tvec = q.tvec ∧ t.trap.ubase = q.ubase ∧ t.trap.ulimit = q.ulimit ∧
    t.trap.ienable = q.ienable ∧ t.trap.ipend = 0 ∧ t.trap.epc = 0 ∧ t.trap.cause = 0 ∧ t.trap.tval = 0 ∧
    t.latch = false ∧ t.ls = c.ls) ∧
  (∀ (s : State) (ctx : Nat) (pc : Word) (kernel : Bool) (regs : List HaltedWrite),
    s.inp = .hostStart ctx pc kernel regs → ctx < 4096 → s.host.ready = true → s.host.tripped = false →
    s.core.run = .idle → s.core.applying = none →
    ∃ t, exec .hostStart s = .next t ∧ t.core.pc = pc ∧ t.core.run = .run ∧
      t.core.status.pl = (if kernel then .kernel else .user) ∧ t.core.ids.ctx = BitVec.ofNat 12 ctx ∧
      ∀ xs : List (SReg × Word), regs = xs.map (fun x => .s x.1 x.2) →
        t.core.regs = (xs.foldl (fun c x => c.wrS x.1 x.2) s.core).regs ∧ t.core.ls = s.core.ls) ∧
  (∀ s : State, s.bindLimit ≠ 0 → s.bindLimit ≤ s.core.wdCount s.now → s.core.wdFired = false →
    exec .bindWatchdogFirst s = .next (s.mapCore fun c => { c with
      trap := { c.trap with ipend := c.trap.ipend ||| 32, wdSrc := c.trap.wdSrc ||| 1 }
      latch := c.latch || !c.trap.ipend.getLsbD 5, wdFired := true })) ∧
  ∀ (s : State) (b : Bind), s.bindOf s.cid = some b → b.entry.queue < 64 →
    (s.hub.queue b.entry.queue).frozen = false → s.bindLimit ≠ 0 → 2 * s.bindLimit ≤ s.core.wdCount s.now →
    s.core.wdFired = true → s.core.hubWait ≠ .exitSent →
    ∃ t, exec .bindWatchdogSecond s = .next t ∧ t.core.run = s.core.leavesFor ∧ t.core.vec.seq = [] ∧
      (t.hub.queue b.entry.queue).frozen = true ∧
      (t.hub.queue b.entry.queue).fault = some ⟨s.cid, 0x85, s.core.pc, 1, BitVec.ofNat 64 b.clause⟩

/-! ## Boundaries, the shared units, and the host -/

/-- R14, R28, R30, R67, R171, R245, R246, R379, R380, R384, R387 and R389: what a core takes at a boundary, fetch faults,
registers that are read in error, and the units that its cluster shares. The `EPC` of an end by a register error is the
model's reading (log entry 51), and that the SFU's result for a discarded request is dropped is log entry 27. -/
def Obligations.BoundariesAndSharedUnits : Prop :=
  let ready (c : Core) : Prop := (c.status.pl = .user ∨ (c.status.pl = .kernel ∧ c.status.ie = true)) ∧
    (c.run = .run ∨ c.run = .wait) ∧ c.waitsAt .wfe = false ∧ c.haltReq = false ∧ c.preemptReq = false ∧
    c.hubWait = .none ∧ c.sce.phase = .none ∧ c.trapHeld = false ∧ c.vec.seq = [] ∧ c.trans.mode = 0
  let on (c : Core) (j : Fin 6) : Bool := (c.trap.ipend &&& c.trap.ienable).getLsbD j.val
  (∀ (s : State) (i : Fin 6), ready s.core → s.core.copyFault = none → on s.core i = true →
    (∀ j < i, on s.core j = false) →
    exec .interruptTake s = .next (s.mapCore fun c => { c.enter (0x80 + i.val)
        (if i = 2 then c.trap.meshSender.setWidth 64 else if i = 5 then c.trap.wdSrc.setWidth 64 else 0) c.pc with
      trap := { (c.enter (0x80 + i.val) (if i = 2 then c.trap.meshSender.setWidth 64
          else if i = 5 then c.trap.wdSrc.setWidth 64 else 0) c.pc).trap with
        ipend := c.trap.ipend &&& ~~~(BitVec.ofNat 6 (2 ^ i.val))
        wdSrc := if i = 5 then 0 else c.trap.wdSrc } })) ∧
  (∀ (s : State) (ch : Chan) (reason va : Nat), ready s.core → s.core.copyFault = some (ch, reason, va) →
    exec .copypfTake s = .next (s.mapCore fun c => c.enter 0x13
      (BitVec.ofNat 64 (reason * 2 ^ 58 + ch.val * 2 ^ 56 + va % 2 ^ 56)) c.pc)) ∧
  (∀ s : State, exec .timer s = .next (s.mapCore fun c => { c with
    trap := { c.trap with ipend := c.trap.ipend ||| 2 }, latch := c.latch || !c.trap.ipend.getLsbD 1 })) ∧
  (∀ s : State, s.core.run = .wait → s.wakes = true →
    exec .waitConditionMet s = .next (s.mapCore fun c => { c with run := .run })) ∧
  (∀ (s : State) (x : Trap), s.fetched = .illegal x → s.core.trapHeld = false →
    exec .illegalEncoding s = .next (s.traps x.cause x.tval)) ∧
  (∀ s : State, (s.core.pc.toNat % 4 ≠ 0 ∨ s.core.okAccess s.core.pc.toNat 8 = false) → s.core.trapHeld = false →
    exec .fetchFault s = .next (s.traps 0x07 s.core.pc)) ∧
  (∀ (s : State) (e : SeqEntry) (op : SeqOp) (rest : List SeqEntry) (r : RotState), s.heads e op rest →
    e.rot = some r → s.core.missing ≠ 0 → 1048576 ≤ s.rotTime s.cid s.core r → e.follow = none →
    s.core.pendingRegs = [] → s.core.status.pl ≠ .debug →
    ∃ t, exec .linktimeout s = .next t ∧ t.core.pc = s.core.trap.tvec ∧ t.core.trap.cause = 0x18 ∧
      t.core.trap.tval = BitVec.ofNat 64 s.core.missing ∧ t.core.trap.epc = op.pc ∧ t.core.vec.seq = [] ∧
      t.core.regs = s.core.regs ∧ t.core.ls = s.core.ls ∧ t.core.fp = s.core.fp) ∧
  (∀ s : State, s.bindOf s.cid = none →
    let ended (pc : Word) (t : State) : Prop := t.core.run = s.core.leavesFor ∧ t.core.trap.cause = 0x1A ∧ t.core.trap.epc = pc ∧
      t.core.trap.tval = 0xFFFFFFFFFFFFFFFF ∧ t.core.vec.seq = [] ∧ t.core.regs = s.core.regs ∧ t.core.ls = s.core.ls
    (∀ e op rest, s.heads e op rest → e.fresh = true → s.core.vec.sfuOut = [] →
      s.core.performError op.ins = true →
      ∃ t, exec .sequencerPerform s = .next t ∧ ended op.pc t) ∧
    ∀ i, ((∃ f, s.core.ir = some f ∧ f.ins = i) ∨ s.core.ir = none ∧ s.fetched = .instr i) → s.core.interlocked i = false →
      s.core.inError (s.readsAtIssue i) = true →
      ∃ t, s.move s.fetchMove = .next t ∧ ended s.core.pc t) ∧
  (∀ (s : State) (r : SfuReq), s.sfuBusy (clusterOf s.cid) = false → nextSfu s.sfu (clusterOf s.cid) = some r →
    exec .sfuAccept s = .next { s with
      sfu := s.sfu.map fun x => if x = r then { x with accepted := some s.now } else x }) ∧
  (∀ (s : State) (r : SfuReq) (e : SeqEntry) (op : SeqOp) (rest : List SeqEntry) (c : Core),
    s.sfu.find? (fun r => r.due s.cid s.now) = some r → s.heads e op rest → s.core.vec.sfuOut.head? = some r.no →
    s.core.perform (e.ctx s.cid 0) op = .done c →
    ∃ t, exec .sfuReturn s = .next t ∧ t.sfu = s.sfu.filter (fun x => x != r) ∧
      t.core = { c.advance e op.ins with vec := { (c.advance e op.ins).vec with sfuOut := s.core.vec.sfuOut.tail } }) ∧
  (∀ (s : State) (r : SfuReq), s.sfu.find? (fun r => r.due s.cid s.now) = some r →
    s.core.vec.sfuOut.head? ≠ some r.no →
    exec .sfuReturn s = .next { s with sfu := s.sfu.filter fun x => x != r }) ∧
  (∀ (s : State) (m : TileMsg), s.inp = .idx 0 → s.core.tile.fromEast = none →
    (s.coreAt (eastOf s.cid)).tile.sendWest = some m → s.core.sameClause (s.coreAt (eastOf s.cid)) = true →
    ∃ t, exec .tmrotTileReceive s = .next t ∧ t.core.tile.fromEast = some m ∧
      (t.coreAt (eastOf s.cid)).tile.sendWest = none) ∧
  ∀ (s : State) (m : TileMsg), s.inp = .idx 1 → s.core.tile.fromSouth = none →
    (s.coreAt (southOf s.cid)).tile.sendNorth = some m → s.core.sameClause (s.coreAt (southOf s.cid)) = true →
    ∃ t, exec .tmrotTileReceive s = .next t ∧ t.core.tile.fromSouth = some m ∧
      (t.coreAt (southOf s.cid)).tile.sendNorth = none

/-- R31 and R390 to R393: the host's requests to a core, and pre-emption. Where the sidecars' bytes lie in the save area is the
model's (log entry 25). -/
def Obligations.HostAndPreemptionStepsComplete : Prop :=
  (∀ s : State, s.core.mayHalt = true → s.core.stepping = false → s.core.sce.phase ≠ .arrived → s.saved = [] →
    ∃ t, exec .hostHalt s = .next t ∧ t.core.run = .halt ∧ t.core.status.pl = .debug ∧ t.core.haltReq = false ∧
      t.core.halted = ⟨s.core.status.pl, if s.core.run = .idle then .idle else .run⟩ ∧
      t.core.pc = s.core.pc ∧ t.core.regs = s.core.regs ∧ t.core.ls = s.core.ls ∧ t.core.trap = s.core.trap) ∧
  (∀ s : State, s.core.run = .halt →
    exec .hostStep s = .next (s.mapCore fun c => { c with run := .run, stepping := true })) ∧
  (∀ (s : State) (level : Option Bool), s.core.run = .halt → s.inp = .resume level →
    exec .hostResume s = .next (s.mapCore fun c => { c with
      status := { c.status with pl := match level with
        | some true => .kernel
        | some false => .user
        | none => c.halted.level }
      run := c.halted.state, wdFrom := s.now })) ∧
  (∀ s : State, s.core.run = .halt → s.bindOf s.cid = none →
    ∃ t, exec .hostStop s = .next t ∧ t.core.run = s.core.leavesFor ∧ t.core.trap.cause = 0x0A ∧ t.core.trap.epc = s.core.pc ∧
      t.core.trap.tval = 0xFFFFFFFFFFFFFFFC ∧ t.core.regs = s.core.regs ∧ t.core.ls = s.core.ls) ∧
  (∀ (s : State) (w : HaltedWrite), s.core.run = .halt → s.inp = .write w →
    (∀ x, w = .pc x → exec .hostHaltedWrite s = .next (s.mapCore fun c => { c with pc := x, entering := false })) ∧
    (∀ r x, w = .s r x → exec .hostHaltedWrite s = .next (s.mapCore fun c => c.wrS r x)) ∧
    (∀ r x, w = .f r x → exec .hostHaltedWrite s = .next (s.mapCore fun c => c.wrF r x)) ∧
    (∀ r x, w = .q r x → exec .hostHaltedWrite s = .next (s.mapCore fun c => c.wrQ r x)) ∧
    (∀ r x, w = .t r x → exec .hostHaltedWrite s = .next (s.mapCore fun c => c.wrT r x)) ∧
    (∀ r x, w = .z r x → exec .hostHaltedWrite s = .next (s.mapCore fun c => c.wrZ r x)) ∧
    ∀ a bs, w = .store a bs → a + bs.length ≤ 0x140000 →
      exec .hostHaltedWrite s = .next (s.mapCore fun c => c.landBytes a bs)) ∧
  (∀ s : State, s.core.run ≠ .idle →
    exec .preemptRequest s = .next (s.mapCore fun c => { c with preemptReq := true })) ∧
  (∀ (s : State) (a : Nat), s.core.maySave = true → s.sfuFree → s.core.badRegs = [] → s.core.sce.phase ≠ .arrived →
    s.areaAt = some a →
    ∃ t m, exec .contextSave s = .next t ∧ t.saved = s.saved ++ [m] ∧ m.cid = s.cid ∧ m.held = [] ∧ m.area = a ∧
      t.gmem = s.gmem.saveArea a s.steps s.core ∧
      m.core.regs = s.core.regs ∧ m.core.ls = s.core.ls ∧ m.core.pc = s.core.pc ∧ m.core.status = s.core.status ∧
      m.core.trap = s.core.trap ∧ m.core.vec = s.core.vec ∧ m.core.copy = s.core.copy ∧ t.core.run = .idle ∧
      t.core.ids = s.core.ids ∧ t.core.bound = .saved) ∧
  (∀ s : State, s.core.maySave = false ∨ ¬ s.sfuFree → exec .contextSave s = .next s) ∧
  (∀ (s : State) (k : Nat) (p : Packet) (m : SavedMember) (a : Nat) (bs : List Byte), s.inp = .idx k →
    s.net[k]? = some p → p.dst = s.cid → mayArrive s.net k p = true → s.divertsTo p.dst p.ctx = some m →
    p.kind = .write a bs → m.room = true → s.refusesBy m.core false p = none → pkgOf p.src = s.pkg →
    ∃ t, exec .preemptDivert s = .next t ∧ t.net = s.net.eraseIdx k ∧ t.core = s.core ∧
      t.back = s.back ++ [⟨p.src, p.ctx, p.tag, .ack⟩] ∧
      ∃ y ∈ t.saved, y.cid = m.cid ∧ y.held = m.held ++ [.pkt p]) ∧
  ∀ (s : State) (k : Nat) (m : SavedMember), s.inp = .idx k → s.saved[k]? = some m → m.cid = s.cid →
    s.core.run = .idle → m.held = [] → s.gmem.areaGood m.area = true →
    let tiles (j : Nat) : List Byte := s.gmem.areaBytes m.area (320 + j)
    let vectors := s.gmem.areaBytes m.area 352
    ∃ t, exec .contextResume s = .next t ∧ m ∉ t.saved ∧ t.core.ls = s.gmem.areaStore m.area ∧
      t.core.regs.s = m.core.regs.s ∧ t.core.regs.f = m.core.regs.f ∧
      (∀ k : Fin 48, (t.core.regs.v.get k).bits = BitVec.ofNat 512 (ofBytesLE ((vectors.drop (64 * k)).take 64)) ∧
        ∀ i : Fin 4, (t.core.regs.v.get k).scales.get i =
          BitVec.ofNat 20 (ofBytesLE ((vectors.drop (3072 + 16 * k + 4 * i)).take 4))) ∧
      (∀ k : Fin 8, t.core.regs.q.get k = BitVec.ofNat 128 (ofBytesLE ((vectors.drop (3840 + 16 * k)).take 16)) ∧
        t.core.regs.t.get k = BitVec.ofNat 65536 (ofBytesLE (tiles (2 * k) ++ tiles (2 * k + 1)))) ∧
      (∀ k : Fin 4, t.core.regs.z.get k = BitVec.ofNat 131072 (ofBytesLE (tiles (16 + 4 * k) ++ tiles (17 + 4 * k) ++
        tiles (18 + 4 * k) ++ tiles (19 + 4 * k)))) ∧
      t.core.pc = m.core.pc ∧ t.core.status = m.core.status ∧ t.core.vec = m.core.vec ∧ t.core.copy = m.core.copy ∧
      t.core.haltReq = m.haltReq ∧ t.core.trap.ipend = m.core.trap.ipend ||| 1

/-! ## The fabric, bring-up and management -/

/-- R407 and R410 to R414: flits, replays, keys, routes and training. The head of a body, the seals and the numbers from 0
after training are the model's (log entry 71), as is the number of the interrupt at a bank's limit (log entry 52). -/
def Obligations.FabricStepsComplete : Prop :=
  (∀ (s : State) (k : Nat) (f : Flit) (r : Reply), k < 18 → s.inp = .flit k f → (s.port k).up = true →
    f.lcrc = BitVec.ofNat 32 (crc32c f.covered) → (bankOf (s.port k).rx f.kg).loaded = true →
    f.sealed = (bankOf (s.port k).rx f.kg).protect f.header → f.seq = (s.port k).rxSeq →
    f.dpkg = s.pkg → f.body = .reply r →
    ∃ t, exec .flitReceive s = .next t ∧ t.back = (if f.left = 0 then s.back ++ [r] else s.back) ∧
      (t.port k).rxSeq = f.seq + 1 ∧ (t.port k).asked = none ∧
      (bankOf (t.port k).rx f.kg).count = (bankOf (s.port k).rx f.kg).count + 1) ∧
  (∀ (s t : State) (pkg : Nat) (ordered : Bool) (b : FlitBody) (k : Nat), k < 18 → s.portTo pkg ordered = some k →
    s.transmit pkg ordered b = some t →
    let n := (64 + b.dataLen + 227) / 228
    ∃ fs, (t.port k).queue = (s.port k).queue ++ fs ∧ fs.length = n ∧
      ∀ j f, fs[j]? = some f → f.body = b ∧ f.dpkg = pkg ∧ f.left = n - 1 - j) ∧
  (∀ (s : State) (k n : Nat), k < 18 → s.inp = .two k n →
    ∃ t, exec .flitReceive s = .next t ∧ (t.port k).queue = (s.port k).queue ∧
      (∀ f, f ∈ (t.port k).replay ↔ f ∈ (s.port k).replay ∧ (f.seq - BitVec.ofNat 32 n).toNat < 2 ^ 31) ∧
      ((∃ f ∈ (t.port k).replay, (s.port k).replayed = some f.seq) → (t.port k).fails = (s.port k).fails)) ∧
  (∀ (s : State) (k : Nat) (f : Flit), k < 18 → s.inp = .flit k f → (s.port k).accepts f = false →
    ∃ t, exec .flitReceive s = .next t ∧ t = { s with fabric := t.fabric } ∧ t.fabric.inbox = s.fabric.inbox ∧
      (t.port k).rxSeq = (s.port k).rxSeq ∧ (t.port k).asked = some (s.port k).rxSeq) ∧
  (∀ (s : State) (k : Nat) (f : Flit), k < 18 → s.inp = .idx k →
    let p := s.port k
    let b := bankOf p.tx p.kg
    p.queue.find? (fun f => !p.stops.getLsbD f.vc.toNat && !p.held.getLsbD f.vc.toNat) = some f →
    (p.up = true → p.replay.length < 256 → b.loaded = true → b.count < 2 ^ 40 →
      ∃ t, exec .flitReceive s = .next t ∧ (t.port k).queue = p.queue.erase f ∧ (t.port k).txSeq = p.txSeq + 1 ∧
        (t.port k).replay = p.replay ++ [b.sealFlit { f with seq := p.txSeq, kg := p.kg }] ∧
        (bankOf (t.port k).tx p.kg).count = b.count + 1) ∧
    (2 ^ 40 ≤ b.count → ∃ t, exec .flitReceive s = .next t ∧ t.port k = p)) ∧
  (∀ (s : State) (k vc n : Nat), k < 18 → vc < 16 → s.inp = .three k vc n →
    ∃ t, exec .flitReceive s = .next t ∧ (∀ j < 16, (t.port k).held.getLsbD j =
      if j = vc then decide (n = 1) else (s.port k).held.getLsbD j) ∧ (t.port k).queue = (s.port k).queue) ∧
  (∀ (s : State) (k n : Nat), k < 18 → s.inp = .two k n → (s.port k).up = true →
    (∃ f ∈ (s.port k).replay, f.seq = BitVec.ofNat 32 n) → (s.port k).replayed ≠ some (BitVec.ofNat 32 n) →
    ∃ t, exec .flitReplay s = .next t ∧ (t.port k).replayed = some (BitVec.ofNat 32 n) ∧ (t.port k).fails = 0) ∧
  (∀ (s : State) (k : Nat), s.inp = .idx k → (s.port k).up = false →
    ∃ t, exec .routeRemoval s = .next t ∧ (∀ r ∈ t.fabric.routes, k ∉ r.2) ∧ ∀ r ∈ t.fabric.ordered, r.2 ≠ k) ∧
  (∀ (s : State) (k n : Nat), k < 18 → s.inp = .two k n →
    let p := s.port k
    (∀ r, n = 2 → p.rekeying = some r → r.loaded = false →
      ∃ t, exec .rekey s = .next t ∧ (t.port k).kg = p.kg ∧ (t.port k).rkg = p.rkg ∧
        (bankOf (t.port k).tx (!p.kg)).loaded = true ∧ (bankOf (t.port k).tx (!p.kg)).count = 0 ∧
        (bankOf (t.port k).rx (!p.rkg)).loaded = true ∧ (bankOf (t.port k).rx (!p.rkg)).count = 0 ∧
        bankOf (t.port k).tx p.kg = bankOf p.tx p.kg ∧ bankOf (t.port k).rx p.rkg = bankOf p.rx p.rkg) ∧
    (∀ r, n = 4 → p.rekeying = some r → r.confirmed = true → r.switched = false →
      ∃ t, exec .rekey s = .next t ∧ (t.port k).kg = !p.kg ∧ (t.port k).stops = 0 ∧ (t.port k).tx = p.tx ∧
        (t.port k).replay = p.replay) ∧
    (∀ r, n = 6 → p.rekeying = some r → r.switched = true → r.txDone = false → (∀ f ∈ p.replay, f.kg = p.kg) →
      ∃ t, exec .rekey s = .next t ∧ (bankOf (t.port k).tx (!p.kg)).loaded = false ∧
        bankOf (t.port k).tx p.kg = bankOf p.tx p.kg) ∧
    (∀ r, n = 4 → p.rekeying = some r → r.confirmed = false → ∃ t, exec .rekey s = .next t ∧ t.port k = p) ∧
    ∀ r f, n = 6 → p.rekeying = some r → f ∈ p.replay → f.kg ≠ p.kg → ∃ t, exec .rekey s = .next t ∧ t.port k = p) ∧
  (∀ (s : State) (k : Nat), k < 18 → s.inp = .idx k → (s.port k).stops ≠ BitVec.allOnes 16 →
    2 ^ 40 ≤ (bankOf (s.port k).tx (s.port k).kg).count →
    ∃ t, exec .keyCounterLimit s = .next t ∧ (t.port k).stops = BitVec.allOnes 16 ∧
      t.host.fwIrq = s.host.fwIrq ++ [3]) ∧
  (∀ (s : State) (k own other r : Nat), k < 18 → s.inp = .three k own other → s.host.ready = true → r < 16 →
    own.testBit r = true → other.testBit r = true →
    (∀ j < 16, r < j → (own.testBit j && other.testBit j) = false) →
    ∃ t, exec .limdinLinkTraining s = .next t ∧ (t.port k).up = true ∧ (t.port k).rev = r ∧
      (bankOf (t.port k).tx false).loaded = true ∧ (t.port k).txSeq = 0 ∧ (t.port k).rxSeq = 0) ∧
  ∀ (s : State) (table : List (Nat × List Nat)) (ordered : List (Nat × Nat)), s.inp = .routes table ordered →
    s.fabric.parked = [] →
    exec .routingTableWrite s = .next { s with fabric := { s.fabric with routes := table, ordered := ordered } }

/-- R402, R404 to R409, R416 and R417: mailbox commands, attestation, bring-up and power. The list of answers and the count
of refused writes are the model's (log entry 57), as is the byte that stands for version 1.4 (log entry 83). -/
def Obligations.ManagementStepsComplete : Prop :=
  (∀ (s : State) (x : Word), s.inp = .inj x →
    (s.host.dbgen = true → x.toNat % 32 < 24 → exec .lfinjWrite s = .next { s with host := { s.host with
      inj := ⟨x.extractLsb' 16 32, if x.getLsbD 8 then false else s.host.inj.fired, x.getLsbD 8, x.getLsbD 7,
        x.setWidth 5, 0⟩ } }) ∧
    (s.host.dbgen = false ∨ 24 ≤ x.toNat % 32 →
      exec .lfinjWrite s = .next { s with host := { s.host with refused := s.host.refused + 1 } }) ∧
    exec .hubstatWrite s =
      .next { s with host := { s.host with suberr := s.host.suberr && !x.getLsbD 2 } }) ∧
  (∀ s : State, exec .dbgenSet s = .next { s with host := { s.host with dbgen := true } }) ∧
  (∀ s : State, exec .dbgenClear s = .next { s with host := { s.host with
    dbgen := false, inj := { s.host.inj with arm := false } } }) ∧
  (∀ (s : State) (die : Fin 7) (v : Nat), s.inp = .two die.val v →
    ∃ t, exec .fusedMinimumRaise s = .next t ∧
      (t.host.dies.get die).fusedMin.toNat = max (s.host.dies.get die).fusedMin.toNat (v % 65536)) ∧
  (∀ (s : State) (off : Nat), s.inp = .idx off →
    exec .bar4WindowPlace s = .next { s with host := { s.host with bar4 := off } }) ∧
  (∀ s : State, exec .getVersion s = .next { s with host := { s.host with answer := [0x14] } }) ∧
  (∀ s : State, ∀ i ∈ [Instr.getCapabilities, .negotiateAlgorithms, .getDigests, .getCertificate, .challenge],
    ∃ ws, exec i s = .next { s with host := { s.host with answer := ws } }) ∧
  (∀ (s : State) (n : Nat), s.inp = .idx n → ∃ t, exec .getMeasurements s = .next t ∧
    (∀ d, 1 ≤ n → n ≤ 7 → s.host.dies.toList[(n + 5) % 7]? = some d →
      t.host.answer = hashWords (sha256 d.image)) ∧
    (n = 8 → t.host.answer = s.host.dies.toList.map fun d => d.fusedMin.setWidth 64) ∧
    (n = 9 → t.host.answer = [s.host.protrev.setWidth 64]) ∧
    (n = 10 → t.host.answer = [if s.host.dbgen then 1 else 0])) ∧
  (∀ (s : State) (p : PowerIn), s.inp = .power p → p.ok = true →
    ∃ t, exec .powerUp s = .next t ∧ t.host.powered = true ∧ t.host.ready = false ∧ t.host.step = 1 ∧
      t.core = Core.reset ∧ t.others = [] ∧ t.pkg = p.pkg.toNat ∧ t.gmem.ni = p.ni ∧ t.gmem.chunks = [] ∧
      t.gmem.sliceDie = p.sliceDie ∧ t.gmem.stackDie = p.stackDie ∧ t.gmem.clusterDie = p.clusterDie ∧
      ∀ k : Fin 7, (t.host.dies.get k).fusedMin = (s.host.dies.get k).fusedMin ∧
        (t.host.dies.get k).keyHashes = (s.host.dies.get k).keyHashes ∧
        (t.host.dies.get k).revoked = (s.host.dies.get k).revoked) ∧
  (∀ (s : State) (k : Fin 7), s.inp = .idx k.val → s.host.powered = true → s.host.ready = false →
    s.host.fail = false → s.host.step = 5 →
    let d := s.host.dies.get k
    let fails (code : BitVec 8) : Prop := ∃ t, exec .bringupStepDone s = .next t ∧ t.host.fail = true ∧
      t.host.code = code ∧ t.host.ready = false
    ((d.sigOk = false ∨ ∀ j : Fin 4, d.revoked.getLsbD j.val = false →
      d.keyHashes.get j ≠ sha256 (toBytesLE 32 d.pubKey.toNat).reverse) → fails 0x51) ∧
    (d.signed = true → d.secver < d.fusedMin → fails 0x52)) ∧
  (∀ (s : State) (k : Fin 7), s.inp = .idx k.val → s.host.powered = true → s.host.ready = false →
    s.host.fail = false → s.host.step = 6 → (∀ j : Fin 7, j ≠ k → (s.host.dies.get j).stepDone = true) →
    ∃ t, exec .bringupStepDone s = .next t ∧ t.host.ready = true ∧ t.core = Core.reset ∧ t.others = []) ∧
  (∀ s : State, s.host.powered = true → s.host.ready = false → s.host.fail = false →
    ∃ t, exec .bringupStepLimit s = .next t ∧ t.host.fail = true ∧ t.core = s.core) ∧
  (∀ (s : State) (w : Nat), s.inp = .idx w → ∃ t, exec .powerSample s = .next t ∧ t.core = s.core ∧
    t.host.clock = if 2500 < w then max 1200 (s.host.clock - 100)
      else if w < 2500 then min 2000 (s.host.clock + 100) else s.host.clock) ∧
  ∀ s : State, ∃ t, exec .thermalTrip s = .next t ∧ t.host.tripped = true ∧
    let ends (b : Bind) : Prop := (t.hub.queue b.entry.queue).frozen = true ∧
      ((s.hub.queue b.entry.queue).frozen = false → ∃ f, (t.hub.queue b.entry.queue).fault = some f ∧
        f.cause = 0x1A ∧ f.tval = 0xFFFFFFFFFFFFFFFD)
    (∀ cid ∈ s.busyCores, ((t.coreAt cid).run = .idle ∨ (s.coreAt cid).haltReq = true ∧ (t.coreAt cid).run = .halt) ∧
      (s.bindOf cid = none → (t.coreAt cid).trap.cause = 0x1A ∧ (t.coreAt cid).trap.epc = (s.coreAt cid).pc ∧
        (t.coreAt cid).trap.tval = 0xFFFFFFFFFFFFFFFD) ∧
      ∀ b, s.bindOf cid = some b → b.entry.queue < 64 → ends b) ∧
    ∀ b m, s.busyCores = [] → b ∈ s.hub.binds → b.started = true → b.faulted = false → b.entry.queue < 64 →
      s.saved.find? (fun m => m.core.inClause b.clause) = some m → ends b

/-! ## The whole machine -/

/-- R33 to R67: the bytes of every well-formed instruction decode to it, with every operand at every value. -/
def Obligations.DecodingUndoesEncoding : Prop :=
  ∀ (i : Instr) (bs rest : List Byte), i.wf = true → encodeBytes i = some bs → decode (bs ++ rest) = .ok (i, rest)

/-- R33 and R67: what the decoder reads has bytes of its own, and is well-formed. -/
def Obligations.DecodedInstructionsAreWellFormed : Prop :=
  ∀ (bs rest : List Byte) (i : Instr), decode bs = .ok (i, rest) →
    i.wf = true ∧ ∃ own, encodeBytes i = some own ∧ bs = own ++ rest

/-- Words that the spec gives for instructions of several families. -/
def Obligations.WordsOfTheSpecDecode : Prop :=
  ∀ (w : Nat) (i : Instr), (w, i) ∈ [
    (0x0000220C0A210145, Instr.rst ⟨33, .b8, ⟨40, 0, false, 8, .none⟩, true⟩),
    (0x0000008C0A620021, .ld ⟨34, .b8, false, ⟨41, 0, false, 0, .st⟩⟩),
    (0x000000080A000E09, .exit 40 2), (0x000000FFF03F0151, .wait ⟨63, 0, 63, 63⟩),
    (0x0000000000000D55, .fencePackage), (0x0000000000000C51, .yield 0), (0x0000001400000159, .barGang 5),
    (0x000000870A0001A1, .wlpush ⟨40, 48, 33, .none⟩), (0x00000000000009A1, .wlwait),
    (0x0000030000000189, .cpfence 3), (0x000002000A000185, .cpwait 40 2), (0x000000000840015D, .bfree 33),
    (0x000000000880055D, .mbwait 34), (0x00000000002801E1, .gend 40), (0x000000000A001209, .ptouch 40),
    (0x000001000000018D, .cpresume 1), (0x000002080A001609, .mint 40 2)] →
    decodeTableWord 64 w = some i

/-- R14, R30 and R67: a core that runs at an instruction boundary without a pending item executes the instruction that
the bytes at its `pc` decode to, or goes on with the one that it has fetched; time passes, the step is counted, and its
turn leaves the schedule. The rows of registers with a rule of their own are what `mfsr` and `mtsr` do. -/
def Obligations.StepRunsTheDecodedInstruction : Prop :=
  (∀ (s : State) (i : Instr) (tail : List Byte) (turn : Turn) (turns : List Turn),
    let c := s.core
    let a := c.pc.toNat
    s.turns = turn :: turns → turn.core = s.cid → turn.ev = none → s.host.tripped = false →
    c.run = .run → (c.status.pl = .debug → c.stepping = true) → (s.bindOf s.cid).any (·.faulted) = false →
    c.haltReq = false → c.preemptReq = false → c.items = [] → c.trans.mode ≠ 2 →
    (s.listed.all fun x => x.2.transSettled) = true → s.host.sram.clean = true → s.gmem.writes = [] → c.stale = [] →
    ((∃ f, c.ir = some f ∧ f.ins = i) ∨ c.ir = none ∧ a % 4 = 0 ∧ c.okAccess a 8 = true ∧ decode (c.ls.readBytes a 16) = .ok (i, tail) ∧
      a % 32 + lenOf i ≤ 32 ∧ (c.status.pl = .user → i.kernelOnly = false) ∧ i.comboOk = true) →
    c.pendingRegs = [] → c.vec.seq = [] → c.badRegs = [] →
    step s = exec i { s with
      now := s.now + Config.elapsed s.steps
      hubNow := s.hubNow + Config.elapsedHub s.steps
      wl := { s.wl with stallAcc := if s.stalling then s.wl.stallAcc + Config.elapsed s.steps else 0 }
      steps := s.steps + 1
      turns := turns
      core := { c with entering := false, ir := some (c.ir.getD (s.fetching i)) }
      inp := (rowOf i).2 }) ∧
  ∀ (i : Instr) (s : State), s.inp = (rowOf i).2 → exec (rowOf i).1 s = exec i s

/-- No step stops the machine, and every step keeps the canonical form of memory. -/
def Obligations.StepsKeepMemoryCanonical : Prop :=
  ∀ s : State, s.memOk = true → ∃ t, step s = .next t ∧ t.memOk = true

/-- R17, R24, R25, R30 and R31: the values that the spec gives for a cold reset, in the register files and the system
registers, and the canonical form of memory. -/
def Obligations.ResetHoldsTheValuesOfTheSpec : Prop :=
  let s := State.reset
  let c := s.core
  c.run = .idle ∧ s.others = [] ∧ s.memOk = true ∧ (∀ a, c.ls.read a = 0) ∧
    (∀ r, c.rdS r = 0) ∧ (∀ r, c.rdF r = 0) ∧ (∀ r, (c.rdV r).bits = 0 ∧ ∀ k, (c.rdV r).scales.get k = 0) ∧
    (∀ r, c.rdQ r = if r = 0 then BitVec.allOnes 128 else 0) ∧ (∀ r, c.rdT r = 0) ∧ (∀ r, c.rdZ r = 0) ∧
    s.readSys .status = 1 ∧ s.readSys .ulimit = 0x140000 ∧ s.readSys .ibctl = 16 ∧ s.readSys .wlxint = 0x1000 ∧
    s.readSys .wlstall = 0x100000 ∧
    (∀ r ∈ [SysReg.epc, .cause, .tval, .tvec, .kscratch, .ienable, .ipend, .ubase, .fpctl, .fpflags, .stage, .clause,
      .gangpos, .gangshape, .ctx, .seqpos, .cycle, .instret, .cntld, .cntst, .cntcp, .cnttl, .stcl, .stpk, .stfb,
      .afault, .afpc, .afaddr, .mbox, .rngkey, .rngstep, .fit, .gbase, .glen, .genno, .gstat, .wlbound, .wlshift,
      .wlstat, .sndstat, .ibcount, .trctl], s.readSys r = 0) ∧
    (∀ ch, s.readSys (.xdone ch) = 0 ∧ s.readSys (.xnext ch) = 0) ∧ ∀ t, s.readSys (.tshp t) = 0

/-- What the scalar instructions leave unchanged: registers, flags, every byte of memory, and the rest of the state. -/
def Obligations.ScalarInstructionsKeepTheRest : Prop :=
  (∀ o : AluOp, ∀ i ∈ [Instr.add o, .sub o, .and o, .or o, .xor o, .andn o, .orn o, .shl o, .shr o, .sra o, .rol o,
    .ror o, .min o, .max o, .minu o, .maxu o, .mul o, .div o, .divu o, .rem o, .remu o],
    Frame i (some o.d) none false nowhere) ∧
  (∀ o : CmpOp, ∀ i ∈ [Instr.seq o, .sne o, .slt o, .sltu o, .sle o, .sleu o, .mulh o, .mulhu o, .mulhsu o],
    Frame i (some o.d) none false nowhere) ∧
  (∀ o : Imm30Op, ∀ i ∈ [Instr.addi64 o, .andi64 o, .ori64 o, .xori64 o, .seqi o, .slti o, .sltui o],
    Frame i (some o.d) none false nowhere) ∧
  (∀ o : UnOp, ∀ i ∈ [Instr.clz o, .ctz o, .popc o, .brev o, .bswap o], Frame i (some o.d) none false nowhere) ∧
  (∀ o : BrOp, ∀ i ∈ [Instr.beq o, .bne o, .blt o, .bge o, .bltu o, .bgeu o], Frame i none none false nowhere) ∧
  (∀ o : LdOp, Frame (.ld o) (some o.d) none false nowhere) ∧
  (∀ o : FMemOp, Frame (.fld o) none (some o.d) false nowhere ∧
    Frame (.fst o) none none false fun c => ((c.ea o.m 8).toNat, 8)) ∧
  (∀ o : StOp, Frame (.st o) none none false fun c => ((c.ea o.m o.size.bytes).toNat, o.size.bytes)) ∧
  (∀ o : LamoOp, ∀ i ∈ [Instr.lamoAdd o, .lamoAnd o, .lamoOr o, .lamoXor o, .lamoMin o, .lamoMax o, .lamoMinu o,
    .lamoMaxu o, .lamoSwp o, .lamoCas o],
    Frame i (some o.d) none false fun c => ((c.rdS o.a + o.off.signExtend 64).toNat, o.size.bytes)) ∧
  (∀ o : FOp3, ∀ i ∈ [Instr.fadd o, .fsub o, .fmul o, .fdiv o], Frame i none (some o.d) true nowhere) ∧
  (∀ o : FOp4, ∀ i ∈ [Instr.fma o, .fms o, .fnma o, .fnms o], Frame i none (some o.d) true nowhere) ∧
  (∀ o : FBit3, ∀ i ∈ [Instr.fmin o, .fmax o, .fminm o, .fmaxm o], Frame i none (some o.d) true nowhere) ∧
  ∀ o : FCmpOp, ∀ i ∈ [Instr.feq o, .flt o, .fle o, .funord o], Frame i (some o.d) none true nowhere
end

