-- ==== Sys2Proof/Laws/Exec.lean ====
section
/-! SUPPORT. What `exec` calls for each constructor, and the length of each encoded instruction. -/

namespace Sys2Proof.Machine

@[simp] theorem exec_add o s : exec (.add o) s = execAdd o s := rfl
@[simp] theorem exec_sub o s : exec (.sub o) s = execSub o s := rfl
@[simp] theorem exec_and o s : exec (.and o) s = execAnd o s := rfl
@[simp] theorem exec_or o s : exec (.or o) s = execOr o s := rfl
@[simp] theorem exec_xor o s : exec (.xor o) s = execXor o s := rfl
@[simp] theorem exec_andn o s : exec (.andn o) s = execAndn o s := rfl
@[simp] theorem exec_orn o s : exec (.orn o) s = execOrn o s := rfl
@[simp] theorem exec_shl o s : exec (.shl o) s = execShl o s := rfl
@[simp] theorem exec_shr o s : exec (.shr o) s = execShr o s := rfl
@[simp] theorem exec_sra o s : exec (.sra o) s = execSra o s := rfl
@[simp] theorem exec_rol o s : exec (.rol o) s = execRol o s := rfl
@[simp] theorem exec_ror o s : exec (.ror o) s = execRor o s := rfl
@[simp] theorem exec_min o s : exec (.min o) s = execMin o s := rfl
@[simp] theorem exec_max o s : exec (.max o) s = execMax o s := rfl
@[simp] theorem exec_minu o s : exec (.minu o) s = execMinu o s := rfl
@[simp] theorem exec_maxu o s : exec (.maxu o) s = execMaxu o s := rfl
@[simp] theorem exec_seq o s : exec (.seq o) s = execSeq o s := rfl
@[simp] theorem exec_sne o s : exec (.sne o) s = execSne o s := rfl
@[simp] theorem exec_slt o s : exec (.slt o) s = execSlt o s := rfl
@[simp] theorem exec_sltu o s : exec (.sltu o) s = execSltu o s := rfl
@[simp] theorem exec_sle o s : exec (.sle o) s = execSle o s := rfl
@[simp] theorem exec_sleu o s : exec (.sleu o) s = execSleu o s := rfl
@[simp] theorem exec_csel o s : exec (.csel o) s = execCsel o s := rfl
@[simp] theorem exec_addi64 o s : exec (.addi64 o) s = execAddi64 o s := rfl
@[simp] theorem exec_addi96 o s : exec (.addi96 o) s = execAddi96 o s := rfl
@[simp] theorem exec_andi64 o s : exec (.andi64 o) s = execAndi64 o s := rfl
@[simp] theorem exec_andi96 o s : exec (.andi96 o) s = execAndi96 o s := rfl
@[simp] theorem exec_ori64 o s : exec (.ori64 o) s = execOri64 o s := rfl
@[simp] theorem exec_ori96 o s : exec (.ori96 o) s = execOri96 o s := rfl
@[simp] theorem exec_xori64 o s : exec (.xori64 o) s = execXori64 o s := rfl
@[simp] theorem exec_xori96 o s : exec (.xori96 o) s = execXori96 o s := rfl
@[simp] theorem exec_shli o s : exec (.shli o) s = execShli o s := rfl
@[simp] theorem exec_shri o s : exec (.shri o) s = execShri o s := rfl
@[simp] theorem exec_srai o s : exec (.srai o) s = execSrai o s := rfl
@[simp] theorem exec_roli o s : exec (.roli o) s = execRoli o s := rfl
@[simp] theorem exec_seqi o s : exec (.seqi o) s = execSeqi o s := rfl
@[simp] theorem exec_slti o s : exec (.slti o) s = execSlti o s := rfl
@[simp] theorem exec_sltui o s : exec (.sltui o) s = execSltui o s := rfl
@[simp] theorem exec_li64 d imm s : exec (.li64 d imm) s = execLi64 d imm s := rfl
@[simp] theorem exec_li96 d imm s : exec (.li96 d imm) s = execLi96 d imm s := rfl
@[simp] theorem exec_li128 d imm s : exec (.li128 d imm) s = execLi128 d imm s := rfl
@[simp] theorem exec_mul o s : exec (.mul o) s = execMul o s := rfl
@[simp] theorem exec_mulh o s : exec (.mulh o) s = execMulh o s := rfl
@[simp] theorem exec_mulhu o s : exec (.mulhu o) s = execMulhu o s := rfl
@[simp] theorem exec_mulhsu o s : exec (.mulhsu o) s = execMulhsu o s := rfl
@[simp] theorem exec_madd o s : exec (.madd o) s = execMadd o s := rfl
@[simp] theorem exec_div o s : exec (.div o) s = execDiv o s := rfl
@[simp] theorem exec_divu o s : exec (.divu o) s = execDivu o s := rfl
@[simp] theorem exec_rem o s : exec (.rem o) s = execRem o s := rfl
@[simp] theorem exec_remu o s : exec (.remu o) s = execRemu o s := rfl
@[simp] theorem exec_clz o s : exec (.clz o) s = execClz o s := rfl
@[simp] theorem exec_ctz o s : exec (.ctz o) s = execCtz o s := rfl
@[simp] theorem exec_popc o s : exec (.popc o) s = execPopc o s := rfl
@[simp] theorem exec_brev o s : exec (.brev o) s = execBrev o s := rfl
@[simp] theorem exec_bswap o s : exec (.bswap o) s = execBswap o s := rfl
@[simp] theorem exec_sext o s : exec (.sext o) s = execSext o s := rfl
@[simp] theorem exec_zext o s : exec (.zext o) s = execZext o s := rfl
@[simp] theorem exec_bext o s : exec (.bext o) s = execBext o s := rfl
@[simp] theorem exec_bins o s : exec (.bins o) s = execBins o s := rfl
@[simp] theorem exec_lea o s : exec (.lea o) s = execLea o s := rfl
@[simp] theorem exec_ld o s : exec (.ld o) s = execLd o s := rfl
@[simp] theorem exec_st o s : exec (.st o) s = execSt o s := rfl
@[simp] theorem exec_lamoAdd o s : exec (.lamoAdd o) s = execLamoAdd o s := rfl
@[simp] theorem exec_lamoAnd o s : exec (.lamoAnd o) s = execLamoAnd o s := rfl
@[simp] theorem exec_lamoOr o s : exec (.lamoOr o) s = execLamoOr o s := rfl
@[simp] theorem exec_lamoXor o s : exec (.lamoXor o) s = execLamoXor o s := rfl
@[simp] theorem exec_lamoMin o s : exec (.lamoMin o) s = execLamoMin o s := rfl
@[simp] theorem exec_lamoMax o s : exec (.lamoMax o) s = execLamoMax o s := rfl
@[simp] theorem exec_lamoMinu o s : exec (.lamoMinu o) s = execLamoMinu o s := rfl
@[simp] theorem exec_lamoMaxu o s : exec (.lamoMaxu o) s = execLamoMaxu o s := rfl
@[simp] theorem exec_lamoSwp o s : exec (.lamoSwp o) s = execLamoSwp o s := rfl
@[simp] theorem exec_lamoCas o s : exec (.lamoCas o) s = execLamoCas o s := rfl
@[simp] theorem exec_fld o s : exec (.fld o) s = execFld o s := rfl
@[simp] theorem exec_fst o s : exec (.fst o) s = execFst o s := rfl
@[simp] theorem exec_beq o s : exec (.beq o) s = execBeq o s := rfl
@[simp] theorem exec_bne o s : exec (.bne o) s = execBne o s := rfl
@[simp] theorem exec_blt o s : exec (.blt o) s = execBlt o s := rfl
@[simp] theorem exec_bge o s : exec (.bge o) s = execBge o s := rfl
@[simp] theorem exec_bltu o s : exec (.bltu o) s = execBltu o s := rfl
@[simp] theorem exec_bgeu o s : exec (.bgeu o) s = execBgeu o s := rfl
@[simp] theorem exec_jal64 d off s : exec (.jal64 d off) s = execJal64 d off s := rfl
@[simp] theorem exec_jalAbs d imm s : exec (.jalAbs d imm) s = execJalAbs d imm s := rfl
@[simp] theorem exec_jalr o s : exec (.jalr o) s = execJalr o s := rfl
@[simp] theorem exec_yield n s : exec (.yield n) s = execYield n s := rfl
@[simp] theorem exec_fadd o s : exec (.fadd o) s = execFadd o s := rfl
@[simp] theorem exec_fsub o s : exec (.fsub o) s = execFsub o s := rfl
@[simp] theorem exec_fmul o s : exec (.fmul o) s = execFmul o s := rfl
@[simp] theorem exec_fdiv o s : exec (.fdiv o) s = execFdiv o s := rfl
@[simp] theorem exec_fsqrt o s : exec (.fsqrt o) s = execFsqrt o s := rfl
@[simp] theorem exec_fmin o s : exec (.fmin o) s = execFmin o s := rfl
@[simp] theorem exec_fmax o s : exec (.fmax o) s = execFmax o s := rfl
@[simp] theorem exec_fminm o s : exec (.fminm o) s = execFminm o s := rfl
@[simp] theorem exec_fmaxm o s : exec (.fmaxm o) s = execFmaxm o s := rfl
@[simp] theorem exec_fsgnj o s : exec (.fsgnj o) s = execFsgnj o s := rfl
@[simp] theorem exec_fsgnjn o s : exec (.fsgnjn o) s = execFsgnjn o s := rfl
@[simp] theorem exec_fsgnjx o s : exec (.fsgnjx o) s = execFsgnjx o s := rfl
@[simp] theorem exec_fma o s : exec (.fma o) s = execFma o s := rfl
@[simp] theorem exec_fms o s : exec (.fms o) s = execFms o s := rfl
@[simp] theorem exec_fnma o s : exec (.fnma o) s = execFnma o s := rfl
@[simp] theorem exec_fnms o s : exec (.fnms o) s = execFnms o s := rfl
@[simp] theorem exec_feq o s : exec (.feq o) s = execFeq o s := rfl
@[simp] theorem exec_flt o s : exec (.flt o) s = execFlt o s := rfl
@[simp] theorem exec_fle o s : exec (.fle o) s = execFle o s := rfl
@[simp] theorem exec_funord o s : exec (.funord o) s = execFunord o s := rfl
@[simp] theorem exec_fclass d a s : exec (.fclass d a) s = execFclass d a s := rfl
@[simp] theorem exec_fcvtLD o s : exec (.fcvtLD o) s = execFcvtLD o s := rfl
@[simp] theorem exec_fcvtLuD o s : exec (.fcvtLuD o) s = execFcvtLuD o s := rfl
@[simp] theorem exec_fcvtDL o s : exec (.fcvtDL o) s = execFcvtDL o s := rfl
@[simp] theorem exec_fcvtDLu o s : exec (.fcvtDLu o) s = execFcvtDLu o s := rfl
@[simp] theorem exec_fcvtSD o s : exec (.fcvtSD o) s = execFcvtSD o s := rfl
@[simp] theorem exec_fmvSF d a s : exec (.fmvSF d a) s = execFmvSF d a s := rfl
@[simp] theorem exec_fmvFS d a s : exec (.fmvFS d a) s = execFmvFS d a s := rfl
@[simp] theorem exec_fround o s : exec (.fround o) s = execFround o s := rfl
@[simp] theorem exec_vld o s : exec (.vld o) s = execVld o s := rfl
@[simp] theorem exec_vldB o s : exec (.vldB o) s = execVldB o s := rfl
@[simp] theorem exec_vlds o s : exec (.vlds o) s = execVlds o s := rfl
@[simp] theorem exec_vst o s : exec (.vst o) s = execVst o s := rfl
@[simp] theorem exec_vstB o s : exec (.vstB o) s = execVstB o s := rfl
@[simp] theorem exec_vgather o s : exec (.vgather o) s = execVgather o s := rfl
@[simp] theorem exec_vscatter o s : exec (.vscatter o) s = execVscatter o s := rfl
@[simp] theorem exec_vmov o s : exec (.vmov o) s = execVmov o s := rfl
@[simp] theorem exec_vbcs o s : exec (.vbcs o) s = execVbcs o s := rfl
@[simp] theorem exec_vbcf o s : exec (.vbcf o) s = execVbcf o s := rfl
@[simp] theorem exec_vmvs o s : exec (.vmvs o) s = execVmvs o s := rfl
@[simp] theorem exec_vmvf o s : exec (.vmvf o) s = execVmvf o s := rfl
@[simp] theorem exec_vsel o s : exec (.vsel o) s = execVsel o s := rfl
@[simp] theorem exec_vslide o s : exec (.vslide o) s = execVslide o s := rfl
@[simp] theorem exec_vperm o s : exec (.vperm o) s = execVperm o s := rfl
@[simp] theorem exec_vpack o s : exec (.vpack o) s = execVpack o s := rfl
@[simp] theorem exec_vunpack o s : exec (.vunpack o) s = execVunpack o s := rfl
@[simp] theorem exec_vadd o s : exec (.vadd o) s = execVadd o s := rfl
@[simp] theorem exec_vsub o s : exec (.vsub o) s = execVsub o s := rfl
@[simp] theorem exec_vmul o s : exec (.vmul o) s = execVmul o s := rfl
@[simp] theorem exec_vmulh o s : exec (.vmulh o) s = execVmulh o s := rfl
@[simp] theorem exec_vdiv o s : exec (.vdiv o) s = execVdiv o s := rfl
@[simp] theorem exec_vsqrt o s : exec (.vsqrt o) s = execVsqrt o s := rfl
@[simp] theorem exec_vmin o s : exec (.vmin o) s = execVmin o s := rfl
@[simp] theorem exec_vmax o s : exec (.vmax o) s = execVmax o s := rfl
@[simp] theorem exec_vabs o s : exec (.vabs o) s = execVabs o s := rfl
@[simp] theorem exec_vneg o s : exec (.vneg o) s = execVneg o s := rfl
@[simp] theorem exec_vfma o s : exec (.vfma o) s = execVfma o s := rfl
@[simp] theorem exec_vfms o s : exec (.vfms o) s = execVfms o s := rfl
@[simp] theorem exec_vfnma o s : exec (.vfnma o) s = execVfnma o s := rfl
@[simp] theorem exec_vclamp o s : exec (.vclamp o) s = execVclamp o s := rfl
@[simp] theorem exec_vadds o s : exec (.vadds o) s = execVadds o s := rfl
@[simp] theorem exec_vsubs o s : exec (.vsubs o) s = execVsubs o s := rfl
@[simp] theorem exec_vand o s : exec (.vand o) s = execVand o s := rfl
@[simp] theorem exec_vor o s : exec (.vor o) s = execVor o s := rfl
@[simp] theorem exec_vxor o s : exec (.vxor o) s = execVxor o s := rfl
@[simp] theorem exec_vnot o s : exec (.vnot o) s = execVnot o s := rfl
@[simp] theorem exec_vshl o s : exec (.vshl o) s = execVshl o s := rfl
@[simp] theorem exec_vshr o s : exec (.vshr o) s = execVshr o s := rfl
@[simp] theorem exec_vsra o s : exec (.vsra o) s = execVsra o s := rfl
@[simp] theorem exec_vshli o s : exec (.vshli o) s = execVshli o s := rfl
@[simp] theorem exec_vshri o s : exec (.vshri o) s = execVshri o s := rfl
@[simp] theorem exec_vsrai o s : exec (.vsrai o) s = execVsrai o s := rfl
@[simp] theorem exec_vpopc o s : exec (.vpopc o) s = execVpopc o s := rfl
@[simp] theorem exec_vclz o s : exec (.vclz o) s = execVclz o s := rfl
@[simp] theorem exec_vceq o s : exec (.vceq o) s = execVceq o s := rfl
@[simp] theorem exec_vcne o s : exec (.vcne o) s = execVcne o s := rfl
@[simp] theorem exec_vclt o s : exec (.vclt o) s = execVclt o s := rfl
@[simp] theorem exec_vcle o s : exec (.vcle o) s = execVcle o s := rfl
@[simp] theorem exec_vcun o s : exec (.vcun o) s = execVcun o s := rfl
@[simp] theorem exec_qand o s : exec (.qand o) s = execQand o s := rfl
@[simp] theorem exec_qor o s : exec (.qor o) s = execQor o s := rfl
@[simp] theorem exec_qxor o s : exec (.qxor o) s = execQxor o s := rfl
@[simp] theorem exec_qnot o s : exec (.qnot o) s = execQnot o s := rfl
@[simp] theorem exec_qset o s : exec (.qset o) s = execQset o s := rfl
@[simp] theorem exec_qget o s : exec (.qget o) s = execQget o s := rfl
@[simp] theorem exec_qpopc o s : exec (.qpopc o) s = execQpopc o s := rfl
@[simp] theorem exec_vcvt o s : exec (.vcvt o) s = execVcvt o s := rfl
@[simp] theorem exec_vrsum o s : exec (.vrsum o) s = execVrsum o s := rfl
@[simp] theorem exec_vrmax o s : exec (.vrmax o) s = execVrmax o s := rfl
@[simp] theorem exec_vrmin o s : exec (.vrmin o) s = execVrmin o s := rfl
@[simp] theorem exec_vdot o s : exec (.vdot o) s = execVdot o s := rfl
@[simp] theorem exec_vsclset o s : exec (.vsclset o) s = execVsclset o s := rfl
@[simp] theorem exec_vsclget o s : exec (.vsclget o) s = execVsclget o s := rfl
@[simp] theorem exec_vrenorm o s : exec (.vrenorm o) s = execVrenorm o s := rfl
@[simp] theorem exec_vdeq o s : exec (.vdeq o) s = execVdeq o s := rfl
@[simp] theorem exec_vquant o s : exec (.vquant o) s = execVquant o s := rfl
@[simp] theorem exec_vexp2 o s : exec (.vexp2 o) s = execVexp2 o s := rfl
@[simp] theorem exec_vlog2 o s : exec (.vlog2 o) s = execVlog2 o s := rfl
@[simp] theorem exec_vrcp o s : exec (.vrcp o) s = execVrcp o s := rfl
@[simp] theorem exec_vrsqrt o s : exec (.vrsqrt o) s = execVrsqrt o s := rfl
@[simp] theorem exec_vsin o s : exec (.vsin o) s = execVsin o s := rfl
@[simp] theorem exec_vcos o s : exec (.vcos o) s = execVcos o s := rfl
@[simp] theorem exec_vtanh o s : exec (.vtanh o) s = execVtanh o s := rfl
@[simp] theorem exec_vsigm o s : exec (.vsigm o) s = execVsigm o s := rfl
@[simp] theorem exec_verf o s : exec (.verf o) s = execVerf o s := rfl
@[simp] theorem exec_vrng o s : exec (.vrng o) s = execVrng o s := rfl
@[simp] theorem exec_vrngu o s : exec (.vrngu o) s = execVrngu o s := rfl
@[simp] theorem exec_vdrop o s : exec (.vdrop o) s = execVdrop o s := rfl
@[simp] theorem exec_vsetsh slot a s : exec (.vsetsh slot a) s = execVsetsh slot a s := rfl
@[simp] theorem exec_vloop o s : exec (.vloop o) s = execVloop o s := rfl
@[simp] theorem exec_vitr d slot s : exec (.vitr d slot) s = execVitr d slot s := rfl
@[simp] theorem exec_vshget d slot f s : exec (.vshget d slot f) s = execVshget d slot f s := rfl
@[simp] theorem exec_tld o s : exec (.tld o) s = execTld o s := rfl
@[simp] theorem exec_tst o s : exec (.tst o) s = execTst o s := rfl
@[simp] theorem exec_tzero d s : exec (.tzero d) s = execTzero d s := rfl
@[simp] theorem exec_ttr o s : exec (.ttr o) s = execTtr o s := rfl
@[simp] theorem exec_zzero d tz s : exec (.zzero d tz) s = execZzero d tz s := rfl
@[simp] theorem exec_zst o s : exec (.zst o) s = execZst o s := rfl
@[simp] theorem exec_tmma o s : exec (.tmma o) s = execTmma o s := rfl
@[simp] theorem exec_tmmo o s : exec (.tmmo o) s = execTmmo o s := rfl
@[simp] theorem exec_tsacc o s : exec (.tsacc o) s = execTsacc o s := rfl
@[simp] theorem exec_tepi o s : exec (.tepi o) s = execTepi o s := rfl
@[simp] theorem exec_tmrot o s : exec (.tmrot o) s = execTmrot o s := rfl
@[simp] theorem exec_tfol ch op s : exec (.tfol ch op) s = execTfol ch op s := rfl
@[simp] theorem exec_amsg o s : exec (.amsg o) s = execAmsg o s := rfl
@[simp] theorem exec_amsgl o s : exec (.amsgl o) s = execAmsgl o s := rfl
@[simp] theorem exec_amsgp o s : exec (.amsgp o) s = execAmsgp o s := rfl
@[simp] theorem exec_rst o s : exec (.rst o) s = execRst o s := rfl
@[simp] theorem exec_rstv o s : exec (.rstv o) s = execRstv o s := rfl
@[simp] theorem exec_rld o s : exec (.rld o) s = execRld o s := rfl
@[simp] theorem exec_ramo o s : exec (.ramo o) s = execRamo o s := rfl
@[simp] theorem exec_wait o s : exec (.wait o) s = execWait o s := rfl
@[simp] theorem exec_barGang n s : exec (.barGang n) s = execBarGang n s := rfl
@[simp] theorem exec_barCluster n s : exec (.barCluster n) s = execBarCluster n s := rfl
@[simp] theorem exec_barPackage n s : exec (.barPackage n) s = execBarPackage n s := rfl
@[simp] theorem exec_barFabric n s : exec (.barFabric n) s = execBarFabric n s := rfl
@[simp] theorem exec_bfree a s : exec (.bfree a) s = execBfree a s := rfl
@[simp] theorem exec_mbwait a s : exec (.mbwait a) s = execMbwait a s := rfl
@[simp] theorem exec_cpush o s : exec (.cpush o) s = execCpush o s := rfl
@[simp] theorem exec_cpushb o s : exec (.cpushb o) s = execCpushb o s := rfl
@[simp] theorem exec_cpwait a ch s : exec (.cpwait a ch) s = execCpwait a ch s := rfl
@[simp] theorem exec_cpfence mask s : exec (.cpfence mask) s = execCpfence mask s := rfl
@[simp] theorem exec_cpresume ch s : exec (.cpresume ch) s = execCpresume ch s := rfl
@[simp] theorem exec_wlpush o s : exec (.wlpush o) s = execWlpush o s := rfl
@[simp] theorem exec_sst o s : exec (.sst o) s = execSst o s := rfl
@[simp] theorem exec_sstv o s : exec (.sstv o) s = execSstv o s := rfl
@[simp] theorem exec_sstl o s : exec (.sstl o) s = execSstl o s := rfl
@[simp] theorem exec_sndseq d a s : exec (.sndseq d a) s = execSndseq d a s := rfl
@[simp] theorem exec_sndwait a b s : exec (.sndwait a b) s = execSndwait a b s := rfl
@[simp] theorem exec_gend d s : exec (.gend d) s = execGend d s := rfl
@[simp] theorem exec_mfsr d r s : exec (.mfsr d r) s = execMfsr d r s := rfl
@[simp] theorem exec_mtsr r a s : exec (.mtsr r a) s = execMtsr r a s := rfl
@[simp] theorem exec_scall code s : exec (.scall code) s = execScall code s := rfl
@[simp] theorem exec_brk code s : exec (.brk code) s = execBrk code s := rfl
@[simp] theorem exec_exit a n s : exec (.exit a n) s = execExit a n s := rfl
@[simp] theorem exec_ptouch a s : exec (.ptouch a) s = execPtouch a s := rfl
@[simp] theorem exec_mint a cause s : exec (.mint a cause) s = execMint a cause s := rfl
@[simp] theorem exec_nop64 s : exec (.nop64) s = execNop64 s := rfl
@[simp] theorem exec_nop96 s : exec (.nop96) s = execNop96 s := rfl
@[simp] theorem exec_nop128 s : exec (.nop128) s = execNop128 s := rfl
@[simp] theorem exec_isync s : exec (.isync) s = execIsync s := rfl
@[simp] theorem exec_wfe s : exec (.wfe) s = execWfe s := rfl
@[simp] theorem exec_serve s : exec (.serve) s = execServe s := rfl
@[simp] theorem exec_hret s : exec (.hret) s = execHret s := rfl
@[simp] theorem exec_vsync s : exec (.vsync) s = execVsync s := rfl
@[simp] theorem exec_fenceCore s : exec (.fenceCore) s = execFenceCore s := rfl
@[simp] theorem exec_fenceCluster s : exec (.fenceCluster) s = execFenceCluster s := rfl
@[simp] theorem exec_fenceDie s : exec (.fenceDie) s = execFenceDie s := rfl
@[simp] theorem exec_fencePackage s : exec (.fencePackage) s = execFencePackage s := rfl
@[simp] theorem exec_fenceFabric s : exec (.fenceFabric) s = execFenceFabric s := rfl
@[simp] theorem exec_wlwait s : exec (.wlwait) s = execWlwait s := rfl
@[simp] theorem exec_kret s : exec (.kret) s = execKret s := rfl
@[simp] theorem exec_mfsrFpflags s : exec (.mfsrFpflags) s = execMfsrFpflags s := rfl
@[simp] theorem exec_mtsrFpctl s : exec (.mtsrFpctl) s = execMtsrFpctl s := rfl
@[simp] theorem exec_mtsrTshp s : exec (.mtsrTshp) s = execMtsrTshp s := rfl
@[simp] theorem exec_mtsrWlshift s : exec (.mtsrWlshift) s = execMtsrWlshift s := rfl
@[simp] theorem exec_mtsrWlbound s : exec (.mtsrWlbound) s = execMtsrWlbound s := rfl
@[simp] theorem exec_mtsrTrctl s : exec (.mtsrTrctl) s = execMtsrTrctl s := rfl
@[simp] theorem exec_mtsrAfault s : exec (.mtsrAfault) s = execMtsrAfault s := rfl
@[simp] theorem exec_mtsrSndstat s : exec (.mtsrSndstat) s = execMtsrSndstat s := rfl
@[simp] theorem exec_mtsrIbctl s : exec (.mtsrIbctl) s = execMtsrIbctl s := rfl
@[simp] theorem exec_sequencerPerform s : exec (.sequencerPerform) s = execSequencerPerform s := rfl
@[simp] theorem exec_sfuAccept s : exec (.sfuAccept) s = execSfuAccept s := rfl
@[simp] theorem exec_sfuReturn s : exec (.sfuReturn) s = execSfuReturn s := rfl
@[simp] theorem exec_tmrotTileReceive s : exec (.tmrotTileReceive) s = execTmrotTileReceive s := rfl
@[simp] theorem exec_linktimeout s : exec (.linktimeout) s = execLinktimeout s := rfl
@[simp] theorem exec_barrierArrivalSum s : exec (.barrierArrivalSum) s = execBarrierArrivalSum s := rfl
@[simp] theorem exec_barrierRelease s : exec (.barrierRelease) s = execBarrierRelease s := rfl
@[simp] theorem exec_niApply s : exec (.niApply) s = execNiApply s := rfl
@[simp] theorem exec_niRemoteRead s : exec (.niRemoteRead) s = execNiRemoteRead s := rfl
@[simp] theorem exec_niRemoteAtomic s : exec (.niRemoteAtomic) s = execNiRemoteAtomic s := rfl
@[simp] theorem exec_messageAccept s : exec (.messageAccept) s = execMessageAccept s := rfl
@[simp] theorem exec_spillMove s : exec (.spillMove) s = execSpillMove s := rfl
@[simp] theorem exec_ackArrival s : exec (.ackArrival) s = execAckArrival s := rfl
@[simp] theorem exec_replyArrival s : exec (.replyArrival) s = execReplyArrival s := rfl
@[simp] theorem exec_waitConditionMet s : exec (.waitConditionMet) s = execWaitConditionMet s := rfl
@[simp] theorem exec_copyBegin s : exec (.copyBegin) s = execCopyBegin s := rfl
@[simp] theorem exec_copyChunk s : exec (.copyChunk) s = execCopyChunk s := rfl
@[simp] theorem exec_copyComplete s : exec (.copyComplete) s = execCopyComplete s := rfl
@[simp] theorem exec_bfreeCredit s : exec (.bfreeCredit) s = execBfreeCredit s := rfl
@[simp] theorem exec_tokenRefill s : exec (.tokenRefill) s = execTokenRefill s := rfl
@[simp] theorem exec_chunkAccess s : exec (.chunkAccess) s = execChunkAccess s := rfl
@[simp] theorem exec_chunkRefetch s : exec (.chunkRefetch) s = execChunkRefetch s := rfl
@[simp] theorem exec_shootdown s : exec (.shootdown) s = execShootdown s := rfl
@[simp] theorem exec_pageEvict s : exec (.pageEvict) s = execPageEvict s := rfl
@[simp] theorem exec_zoneExpand s : exec (.zoneExpand) s = execZoneExpand s := rfl
@[simp] theorem exec_exportMd s : exec (.exportMd) s = execExportMd s := rfl
@[simp] theorem exec_importMd s : exec (.importMd) s = execImportMd s := rfl
@[simp] theorem exec_hostMemoryAccess s : exec (.hostMemoryAccess) s = execHostMemoryAccess s := rfl
@[simp] theorem exec_wlCountIncrement s : exec (.wlCountIncrement) s = execWlCountIncrement s := rfl
@[simp] theorem exec_wlCountDecrement s : exec (.wlCountDecrement) s = execWlCountDecrement s := rfl
@[simp] theorem exec_wlFloorReceive s : exec (.wlFloorReceive) s = execWlFloorReceive s := rfl
@[simp] theorem exec_wlDispatch s : exec (.wlDispatch) s = execWlDispatch s := rfl
@[simp] theorem exec_wlSliceSpill s : exec (.wlSliceSpill) s = execWlSliceSpill s := rfl
@[simp] theorem exec_wlRefill s : exec (.wlRefill) s = execWlRefill s := rfl
@[simp] theorem exec_wlMove s : exec (.wlMove) s = execWlMove s := rfl
@[simp] theorem exec_wlFloorExchange s : exec (.wlFloorExchange) s = execWlFloorExchange s := rfl
@[simp] theorem exec_wlAnnounceReceive s : exec (.wlAnnounceReceive) s = execWlAnnounceReceive s := rfl
@[simp] theorem exec_wlStealRequest s : exec (.wlStealRequest) s = execWlStealRequest s := rfl
@[simp] theorem exec_wlStealAnswer s : exec (.wlStealAnswer) s = execWlStealAnswer s := rfl
@[simp] theorem exec_wlStealReceive s : exec (.wlStealReceive) s = execWlStealReceive s := rfl
@[simp] theorem exec_wlTermination s : exec (.wlTermination) s = execWlTermination s := rfl
@[simp] theorem exec_wlTerminationWave s : exec (.wlTerminationWave) s = execWlTerminationWave s := rfl
@[simp] theorem exec_wlStallExpiry s : exec (.wlStallExpiry) s = execWlStallExpiry s := rfl
@[simp] theorem exec_wlFabricLeave s : exec (.wlFabricLeave) s = execWlFabricLeave s := rfl
@[simp] theorem exec_worklistEnable s : exec (.worklistEnable) s = execWorklistEnable s := rfl
@[simp] theorem exec_worklistEmpty s : exec (.worklistEmpty) s = execWorklistEmpty s := rfl
@[simp] theorem exec_soundStamp s : exec (.soundStamp) s = execSoundStamp s := rfl
@[simp] theorem exec_soundMemberApply s : exec (.soundMemberApply) s = execSoundMemberApply s := rfl
@[simp] theorem exec_soundRetry s : exec (.soundRetry) s = execSoundRetry s := rfl
@[simp] theorem exec_soundCompletion s : exec (.soundCompletion) s = execSoundCompletion s := rfl
@[simp] theorem exec_membershipChange s : exec (.membershipChange) s = execMembershipChange s := rfl
@[simp] theorem exec_groupTableWrite s : exec (.groupTableWrite) s = execGroupTableWrite s := rfl
@[simp] theorem exec_sceArrival s : exec (.sceArrival) s = execSceArrival s := rfl
@[simp] theorem exec_generationClose s : exec (.generationClose) s = execGenerationClose s := rfl
@[simp] theorem exec_sceLoserCopy s : exec (.sceLoserCopy) s = execSceLoserCopy s := rfl
@[simp] theorem exec_generationRelease s : exec (.generationRelease) s = execGenerationRelease s := rfl
@[simp] theorem exec_populationDescriptorWrite s : exec (.populationDescriptorWrite) s = execPopulationDescriptorWrite s := rfl
@[simp] theorem exec_mintApply s : exec (.mintApply) s = execMintApply s := rfl
@[simp] theorem exec_interruptTake s : exec (.interruptTake) s = execInterruptTake s := rfl
@[simp] theorem exec_copypfTake s : exec (.copypfTake) s = execCopypfTake s := rfl
@[simp] theorem exec_timer s : exec (.timer) s = execTimer s := rfl
@[simp] theorem exec_hostHalt s : exec (.hostHalt) s = execHostHalt s := rfl
@[simp] theorem exec_hostStep s : exec (.hostStep) s = execHostStep s := rfl
@[simp] theorem exec_hostResume s : exec (.hostResume) s = execHostResume s := rfl
@[simp] theorem exec_hostStop s : exec (.hostStop) s = execHostStop s := rfl
@[simp] theorem exec_hostStart s : exec (.hostStart) s = execHostStart s := rfl
@[simp] theorem exec_continuationArrival s : exec (.continuationArrival) s = execContinuationArrival s := rfl
@[simp] theorem exec_templateRead s : exec (.templateRead) s = execTemplateRead s := rfl
@[simp] theorem exec_overflowDrain s : exec (.overflowDrain) s = execOverflowDrain s := rfl
@[simp] theorem exec_producerIndexWrite s : exec (.producerIndexWrite) s = execProducerIndexWrite s := rfl
@[simp] theorem exec_submissionConsume s : exec (.submissionConsume) s = execSubmissionConsume s := rfl
@[simp] theorem exec_bindRecord s : exec (.bindRecord) s = execBindRecord s := rfl
@[simp] theorem exec_clauseLoadDone s : exec (.clauseLoadDone) s = execClauseLoadDone s := rfl
@[simp] theorem exec_queueThaw s : exec (.queueThaw) s = execQueueThaw s := rfl
@[simp] theorem exec_queueDescriptorWrite s : exec (.queueDescriptorWrite) s = execQueueDescriptorWrite s := rfl
@[simp] theorem exec_qwaitExpiry s : exec (.qwaitExpiry) s = execQwaitExpiry s := rfl
@[simp] theorem exec_bindWatchdogFirst s : exec (.bindWatchdogFirst) s = execBindWatchdogFirst s := rfl
@[simp] theorem exec_bindWatchdogSecond s : exec (.bindWatchdogSecond) s = execBindWatchdogSecond s := rfl
@[simp] theorem exec_preemptRequest s : exec (.preemptRequest) s = execPreemptRequest s := rfl
@[simp] theorem exec_contextSave s : exec (.contextSave) s = execContextSave s := rfl
@[simp] theorem exec_preemptDivert s : exec (.preemptDivert) s = execPreemptDivert s := rfl
@[simp] theorem exec_contextResume s : exec (.contextResume) s = execContextResume s := rfl
@[simp] theorem exec_flitReceive s : exec (.flitReceive) s = execFlitReceive s := rfl
@[simp] theorem exec_flitReplay s : exec (.flitReplay) s = execFlitReplay s := rfl
@[simp] theorem exec_routeRemoval s : exec (.routeRemoval) s = execRouteRemoval s := rfl
@[simp] theorem exec_rekey s : exec (.rekey) s = execRekey s := rfl
@[simp] theorem exec_keyCounterLimit s : exec (.keyCounterLimit) s = execKeyCounterLimit s := rfl
@[simp] theorem exec_lfinjWrite s : exec (.lfinjWrite) s = execLfinjWrite s := rfl
@[simp] theorem exec_lfinjFire s : exec (.lfinjFire) s = execLfinjFire s := rfl
@[simp] theorem exec_dbgenSet s : exec (.dbgenSet) s = execDbgenSet s := rfl
@[simp] theorem exec_dbgenClear s : exec (.dbgenClear) s = execDbgenClear s := rfl
@[simp] theorem exec_fusedMinimumRaise s : exec (.fusedMinimumRaise) s = execFusedMinimumRaise s := rfl
@[simp] theorem exec_bar4WindowPlace s : exec (.bar4WindowPlace) s = execBar4WindowPlace s := rfl
@[simp] theorem exec_hubstatWrite s : exec (.hubstatWrite) s = execHubstatWrite s := rfl
@[simp] theorem exec_getVersion s : exec (.getVersion) s = execGetVersion s := rfl
@[simp] theorem exec_getCapabilities s : exec (.getCapabilities) s = execGetCapabilities s := rfl
@[simp] theorem exec_negotiateAlgorithms s : exec (.negotiateAlgorithms) s = execNegotiateAlgorithms s := rfl
@[simp] theorem exec_getDigests s : exec (.getDigests) s = execGetDigests s := rfl
@[simp] theorem exec_getCertificate s : exec (.getCertificate) s = execGetCertificate s := rfl
@[simp] theorem exec_challenge s : exec (.challenge) s = execChallenge s := rfl
@[simp] theorem exec_getMeasurements s : exec (.getMeasurements) s = execGetMeasurements s := rfl
@[simp] theorem exec_powerUp s : exec (.powerUp) s = execPowerUp s := rfl
@[simp] theorem exec_bringupStepDone s : exec (.bringupStepDone) s = execBringupStepDone s := rfl
@[simp] theorem exec_bringupStepLimit s : exec (.bringupStepLimit) s = execBringupStepLimit s := rfl
@[simp] theorem exec_powerSample s : exec (.powerSample) s = execPowerSample s := rfl
@[simp] theorem exec_thermalTrip s : exec (.thermalTrip) s = execThermalTrip s := rfl
@[simp] theorem exec_illegalEncoding s : exec (.illegalEncoding) s = execIllegalEncoding s := rfl
@[simp] theorem exec_fetchFault s : exec (.fetchFault) s = execFetchFault s := rfl
@[simp] theorem exec_hostHaltedWrite s : exec (.hostHaltedWrite) s = execHostHaltedWrite s := rfl
@[simp] theorem exec_firmwareFaultResolve s : exec (.firmwareFaultResolve) s = execFirmwareFaultResolve s := rfl
@[simp] theorem exec_limdinLinkTraining s : exec (.limdinLinkTraining) s = execLimdinLinkTraining s := rfl
@[simp] theorem exec_routingTableWrite s : exec (.routingTableWrite) s = execRoutingTableWrite s := rfl
@[simp] theorem exec_barrierEntryConfig s : exec (.barrierEntryConfig) s = execBarrierEntryConfig s := rfl
@[simp] theorem exec_contextShareWrite s : exec (.contextShareWrite) s = execContextShareWrite s := rfl
@[simp] theorem exec_spillQueueConfig s : exec (.spillQueueConfig) s = execSpillQueueConfig s := rfl

@[simp] theorem lenOf_add o : lenOf (.add o) = 8 := rfl
@[simp] theorem lenOf_sub o : lenOf (.sub o) = 8 := rfl
@[simp] theorem lenOf_and o : lenOf (.and o) = 8 := rfl
@[simp] theorem lenOf_or o : lenOf (.or o) = 8 := rfl
@[simp] theorem lenOf_xor o : lenOf (.xor o) = 8 := rfl
@[simp] theorem lenOf_andn o : lenOf (.andn o) = 8 := rfl
@[simp] theorem lenOf_orn o : lenOf (.orn o) = 8 := rfl
@[simp] theorem lenOf_shl o : lenOf (.shl o) = 8 := rfl
@[simp] theorem lenOf_shr o : lenOf (.shr o) = 8 := rfl
@[simp] theorem lenOf_sra o : lenOf (.sra o) = 8 := rfl
@[simp] theorem lenOf_rol o : lenOf (.rol o) = 8 := rfl
@[simp] theorem lenOf_ror o : lenOf (.ror o) = 8 := rfl
@[simp] theorem lenOf_min o : lenOf (.min o) = 8 := rfl
@[simp] theorem lenOf_max o : lenOf (.max o) = 8 := rfl
@[simp] theorem lenOf_minu o : lenOf (.minu o) = 8 := rfl
@[simp] theorem lenOf_maxu o : lenOf (.maxu o) = 8 := rfl
@[simp] theorem lenOf_seq o : lenOf (.seq o) = 8 := rfl
@[simp] theorem lenOf_sne o : lenOf (.sne o) = 8 := rfl
@[simp] theorem lenOf_slt o : lenOf (.slt o) = 8 := rfl
@[simp] theorem lenOf_sltu o : lenOf (.sltu o) = 8 := rfl
@[simp] theorem lenOf_sle o : lenOf (.sle o) = 8 := rfl
@[simp] theorem lenOf_sleu o : lenOf (.sleu o) = 8 := rfl
@[simp] theorem lenOf_csel o : lenOf (.csel o) = 8 := rfl
@[simp] theorem lenOf_addi64 o : lenOf (.addi64 o) = 8 := rfl
@[simp] theorem lenOf_addi96 o : lenOf (.addi96 o) = 12 := rfl
@[simp] theorem lenOf_andi64 o : lenOf (.andi64 o) = 8 := rfl
@[simp] theorem lenOf_andi96 o : lenOf (.andi96 o) = 12 := rfl
@[simp] theorem lenOf_ori64 o : lenOf (.ori64 o) = 8 := rfl
@[simp] theorem lenOf_ori96 o : lenOf (.ori96 o) = 12 := rfl
@[simp] theorem lenOf_xori64 o : lenOf (.xori64 o) = 8 := rfl
@[simp] theorem lenOf_xori96 o : lenOf (.xori96 o) = 12 := rfl
@[simp] theorem lenOf_shli o : lenOf (.shli o) = 8 := rfl
@[simp] theorem lenOf_shri o : lenOf (.shri o) = 8 := rfl
@[simp] theorem lenOf_srai o : lenOf (.srai o) = 8 := rfl
@[simp] theorem lenOf_roli o : lenOf (.roli o) = 8 := rfl
@[simp] theorem lenOf_seqi o : lenOf (.seqi o) = 8 := rfl
@[simp] theorem lenOf_slti o : lenOf (.slti o) = 8 := rfl
@[simp] theorem lenOf_sltui o : lenOf (.sltui o) = 8 := rfl
@[simp] theorem lenOf_li64 d imm : lenOf (.li64 d imm) = 8 := rfl
@[simp] theorem lenOf_li96 d imm : lenOf (.li96 d imm) = 12 := rfl
@[simp] theorem lenOf_li128 d imm : lenOf (.li128 d imm) = 16 := rfl
@[simp] theorem lenOf_mul o : lenOf (.mul o) = 8 := rfl
@[simp] theorem lenOf_mulh o : lenOf (.mulh o) = 8 := rfl
@[simp] theorem lenOf_mulhu o : lenOf (.mulhu o) = 8 := rfl
@[simp] theorem lenOf_mulhsu o : lenOf (.mulhsu o) = 8 := rfl
@[simp] theorem lenOf_madd o : lenOf (.madd o) = 8 := rfl
@[simp] theorem lenOf_div o : lenOf (.div o) = 8 := rfl
@[simp] theorem lenOf_divu o : lenOf (.divu o) = 8 := rfl
@[simp] theorem lenOf_rem o : lenOf (.rem o) = 8 := rfl
@[simp] theorem lenOf_remu o : lenOf (.remu o) = 8 := rfl
@[simp] theorem lenOf_clz o : lenOf (.clz o) = 8 := rfl
@[simp] theorem lenOf_ctz o : lenOf (.ctz o) = 8 := rfl
@[simp] theorem lenOf_popc o : lenOf (.popc o) = 8 := rfl
@[simp] theorem lenOf_brev o : lenOf (.brev o) = 8 := rfl
@[simp] theorem lenOf_bswap o : lenOf (.bswap o) = 8 := rfl
@[simp] theorem lenOf_sext o : lenOf (.sext o) = 8 := rfl
@[simp] theorem lenOf_zext o : lenOf (.zext o) = 8 := rfl
@[simp] theorem lenOf_bext o : lenOf (.bext o) = 8 := rfl
@[simp] theorem lenOf_bins o : lenOf (.bins o) = 8 := rfl
@[simp] theorem lenOf_lea o : lenOf (.lea o) = 8 := rfl
@[simp] theorem lenOf_ld o : lenOf (.ld o) = 8 := rfl
@[simp] theorem lenOf_st o : lenOf (.st o) = 8 := rfl
@[simp] theorem lenOf_lamoAdd o : lenOf (.lamoAdd o) = 8 := rfl
@[simp] theorem lenOf_lamoAnd o : lenOf (.lamoAnd o) = 8 := rfl
@[simp] theorem lenOf_lamoOr o : lenOf (.lamoOr o) = 8 := rfl
@[simp] theorem lenOf_lamoXor o : lenOf (.lamoXor o) = 8 := rfl
@[simp] theorem lenOf_lamoMin o : lenOf (.lamoMin o) = 8 := rfl
@[simp] theorem lenOf_lamoMax o : lenOf (.lamoMax o) = 8 := rfl
@[simp] theorem lenOf_lamoMinu o : lenOf (.lamoMinu o) = 8 := rfl
@[simp] theorem lenOf_lamoMaxu o : lenOf (.lamoMaxu o) = 8 := rfl
@[simp] theorem lenOf_lamoSwp o : lenOf (.lamoSwp o) = 8 := rfl
@[simp] theorem lenOf_lamoCas o : lenOf (.lamoCas o) = 8 := rfl
@[simp] theorem lenOf_fld o : lenOf (.fld o) = 8 := rfl
@[simp] theorem lenOf_fst o : lenOf (.fst o) = 8 := rfl
@[simp] theorem lenOf_beq o : lenOf (.beq o) = 8 := rfl
@[simp] theorem lenOf_bne o : lenOf (.bne o) = 8 := rfl
@[simp] theorem lenOf_blt o : lenOf (.blt o) = 8 := rfl
@[simp] theorem lenOf_bge o : lenOf (.bge o) = 8 := rfl
@[simp] theorem lenOf_bltu o : lenOf (.bltu o) = 8 := rfl
@[simp] theorem lenOf_bgeu o : lenOf (.bgeu o) = 8 := rfl
@[simp] theorem lenOf_jal64 d off : lenOf (.jal64 d off) = 8 := rfl
@[simp] theorem lenOf_jalAbs d imm : lenOf (.jalAbs d imm) = 12 := rfl
@[simp] theorem lenOf_jalr o : lenOf (.jalr o) = 8 := rfl
@[simp] theorem lenOf_yield n : lenOf (.yield n) = 8 := rfl
@[simp] theorem lenOf_fadd o : lenOf (.fadd o) = 8 := rfl
@[simp] theorem lenOf_fsub o : lenOf (.fsub o) = 8 := rfl
@[simp] theorem lenOf_fmul o : lenOf (.fmul o) = 8 := rfl
@[simp] theorem lenOf_fdiv o : lenOf (.fdiv o) = 8 := rfl
@[simp] theorem lenOf_fsqrt o : lenOf (.fsqrt o) = 8 := rfl
@[simp] theorem lenOf_fmin o : lenOf (.fmin o) = 8 := rfl
@[simp] theorem lenOf_fmax o : lenOf (.fmax o) = 8 := rfl
@[simp] theorem lenOf_fminm o : lenOf (.fminm o) = 8 := rfl
@[simp] theorem lenOf_fmaxm o : lenOf (.fmaxm o) = 8 := rfl
@[simp] theorem lenOf_fsgnj o : lenOf (.fsgnj o) = 8 := rfl
@[simp] theorem lenOf_fsgnjn o : lenOf (.fsgnjn o) = 8 := rfl
@[simp] theorem lenOf_fsgnjx o : lenOf (.fsgnjx o) = 8 := rfl
@[simp] theorem lenOf_fma o : lenOf (.fma o) = 8 := rfl
@[simp] theorem lenOf_fms o : lenOf (.fms o) = 8 := rfl
@[simp] theorem lenOf_fnma o : lenOf (.fnma o) = 8 := rfl
@[simp] theorem lenOf_fnms o : lenOf (.fnms o) = 8 := rfl
@[simp] theorem lenOf_feq o : lenOf (.feq o) = 8 := rfl
@[simp] theorem lenOf_flt o : lenOf (.flt o) = 8 := rfl
@[simp] theorem lenOf_fle o : lenOf (.fle o) = 8 := rfl
@[simp] theorem lenOf_funord o : lenOf (.funord o) = 8 := rfl
@[simp] theorem lenOf_fclass d a : lenOf (.fclass d a) = 8 := rfl
@[simp] theorem lenOf_fcvtLD o : lenOf (.fcvtLD o) = 8 := rfl
@[simp] theorem lenOf_fcvtLuD o : lenOf (.fcvtLuD o) = 8 := rfl
@[simp] theorem lenOf_fcvtDL o : lenOf (.fcvtDL o) = 8 := rfl
@[simp] theorem lenOf_fcvtDLu o : lenOf (.fcvtDLu o) = 8 := rfl
@[simp] theorem lenOf_fcvtSD o : lenOf (.fcvtSD o) = 8 := rfl
@[simp] theorem lenOf_fmvSF d a : lenOf (.fmvSF d a) = 8 := rfl
@[simp] theorem lenOf_fmvFS d a : lenOf (.fmvFS d a) = 8 := rfl
@[simp] theorem lenOf_fround o : lenOf (.fround o) = 8 := rfl
@[simp] theorem lenOf_vld o : lenOf (.vld o) = 8 := rfl
@[simp] theorem lenOf_vldB o : lenOf (.vldB o) = 8 := rfl
@[simp] theorem lenOf_vlds o : lenOf (.vlds o) = 8 := rfl
@[simp] theorem lenOf_vst o : lenOf (.vst o) = 8 := rfl
@[simp] theorem lenOf_vstB o : lenOf (.vstB o) = 8 := rfl
@[simp] theorem lenOf_vgather o : lenOf (.vgather o) = 8 := rfl
@[simp] theorem lenOf_vscatter o : lenOf (.vscatter o) = 8 := rfl
@[simp] theorem lenOf_vmov o : lenOf (.vmov o) = 8 := rfl
@[simp] theorem lenOf_vbcs o : lenOf (.vbcs o) = 8 := rfl
@[simp] theorem lenOf_vbcf o : lenOf (.vbcf o) = 8 := rfl
@[simp] theorem lenOf_vmvs o : lenOf (.vmvs o) = 8 := rfl
@[simp] theorem lenOf_vmvf o : lenOf (.vmvf o) = 8 := rfl
@[simp] theorem lenOf_vsel o : lenOf (.vsel o) = 8 := rfl
@[simp] theorem lenOf_vslide o : lenOf (.vslide o) = 8 := rfl
@[simp] theorem lenOf_vperm o : lenOf (.vperm o) = 8 := rfl
@[simp] theorem lenOf_vpack o : lenOf (.vpack o) = 8 := rfl
@[simp] theorem lenOf_vunpack o : lenOf (.vunpack o) = 8 := rfl
@[simp] theorem lenOf_vadd o : lenOf (.vadd o) = 8 := rfl
@[simp] theorem lenOf_vsub o : lenOf (.vsub o) = 8 := rfl
@[simp] theorem lenOf_vmul o : lenOf (.vmul o) = 8 := rfl
@[simp] theorem lenOf_vmulh o : lenOf (.vmulh o) = 8 := rfl
@[simp] theorem lenOf_vdiv o : lenOf (.vdiv o) = 8 := rfl
@[simp] theorem lenOf_vsqrt o : lenOf (.vsqrt o) = 8 := rfl
@[simp] theorem lenOf_vmin o : lenOf (.vmin o) = 8 := rfl
@[simp] theorem lenOf_vmax o : lenOf (.vmax o) = 8 := rfl
@[simp] theorem lenOf_vabs o : lenOf (.vabs o) = 8 := rfl
@[simp] theorem lenOf_vneg o : lenOf (.vneg o) = 8 := rfl
@[simp] theorem lenOf_vfma o : lenOf (.vfma o) = 8 := rfl
@[simp] theorem lenOf_vfms o : lenOf (.vfms o) = 8 := rfl
@[simp] theorem lenOf_vfnma o : lenOf (.vfnma o) = 8 := rfl
@[simp] theorem lenOf_vclamp o : lenOf (.vclamp o) = 8 := rfl
@[simp] theorem lenOf_vadds o : lenOf (.vadds o) = 8 := rfl
@[simp] theorem lenOf_vsubs o : lenOf (.vsubs o) = 8 := rfl
@[simp] theorem lenOf_vand o : lenOf (.vand o) = 8 := rfl
@[simp] theorem lenOf_vor o : lenOf (.vor o) = 8 := rfl
@[simp] theorem lenOf_vxor o : lenOf (.vxor o) = 8 := rfl
@[simp] theorem lenOf_vnot o : lenOf (.vnot o) = 8 := rfl
@[simp] theorem lenOf_vshl o : lenOf (.vshl o) = 8 := rfl
@[simp] theorem lenOf_vshr o : lenOf (.vshr o) = 8 := rfl
@[simp] theorem lenOf_vsra o : lenOf (.vsra o) = 8 := rfl
@[simp] theorem lenOf_vshli o : lenOf (.vshli o) = 8 := rfl
@[simp] theorem lenOf_vshri o : lenOf (.vshri o) = 8 := rfl
@[simp] theorem lenOf_vsrai o : lenOf (.vsrai o) = 8 := rfl
@[simp] theorem lenOf_vpopc o : lenOf (.vpopc o) = 8 := rfl
@[simp] theorem lenOf_vclz o : lenOf (.vclz o) = 8 := rfl
@[simp] theorem lenOf_vceq o : lenOf (.vceq o) = 8 := rfl
@[simp] theorem lenOf_vcne o : lenOf (.vcne o) = 8 := rfl
@[simp] theorem lenOf_vclt o : lenOf (.vclt o) = 8 := rfl
@[simp] theorem lenOf_vcle o : lenOf (.vcle o) = 8 := rfl
@[simp] theorem lenOf_vcun o : lenOf (.vcun o) = 8 := rfl
@[simp] theorem lenOf_qand o : lenOf (.qand o) = 8 := rfl
@[simp] theorem lenOf_qor o : lenOf (.qor o) = 8 := rfl
@[simp] theorem lenOf_qxor o : lenOf (.qxor o) = 8 := rfl
@[simp] theorem lenOf_qnot o : lenOf (.qnot o) = 8 := rfl
@[simp] theorem lenOf_qset o : lenOf (.qset o) = 8 := rfl
@[simp] theorem lenOf_qget o : lenOf (.qget o) = 8 := rfl
@[simp] theorem lenOf_qpopc o : lenOf (.qpopc o) = 8 := rfl
@[simp] theorem lenOf_vcvt o : lenOf (.vcvt o) = 8 := rfl
@[simp] theorem lenOf_vrsum o : lenOf (.vrsum o) = 8 := rfl
@[simp] theorem lenOf_vrmax o : lenOf (.vrmax o) = 8 := rfl
@[simp] theorem lenOf_vrmin o : lenOf (.vrmin o) = 8 := rfl
@[simp] theorem lenOf_vdot o : lenOf (.vdot o) = 8 := rfl
@[simp] theorem lenOf_vsclset o : lenOf (.vsclset o) = 8 := rfl
@[simp] theorem lenOf_vsclget o : lenOf (.vsclget o) = 8 := rfl
@[simp] theorem lenOf_vrenorm o : lenOf (.vrenorm o) = 8 := rfl
@[simp] theorem lenOf_vdeq o : lenOf (.vdeq o) = 8 := rfl
@[simp] theorem lenOf_vquant o : lenOf (.vquant o) = 8 := rfl
@[simp] theorem lenOf_vexp2 o : lenOf (.vexp2 o) = 8 := rfl
@[simp] theorem lenOf_vlog2 o : lenOf (.vlog2 o) = 8 := rfl
@[simp] theorem lenOf_vrcp o : lenOf (.vrcp o) = 8 := rfl
@[simp] theorem lenOf_vrsqrt o : lenOf (.vrsqrt o) = 8 := rfl
@[simp] theorem lenOf_vsin o : lenOf (.vsin o) = 8 := rfl
@[simp] theorem lenOf_vcos o : lenOf (.vcos o) = 8 := rfl
@[simp] theorem lenOf_vtanh o : lenOf (.vtanh o) = 8 := rfl
@[simp] theorem lenOf_vsigm o : lenOf (.vsigm o) = 8 := rfl
@[simp] theorem lenOf_verf o : lenOf (.verf o) = 8 := rfl
@[simp] theorem lenOf_vrng o : lenOf (.vrng o) = 8 := rfl
@[simp] theorem lenOf_vrngu o : lenOf (.vrngu o) = 8 := rfl
@[simp] theorem lenOf_vdrop o : lenOf (.vdrop o) = 8 := rfl
@[simp] theorem lenOf_vsetsh slot a : lenOf (.vsetsh slot a) = 8 := rfl
@[simp] theorem lenOf_vloop o : lenOf (.vloop o) = 8 := rfl
@[simp] theorem lenOf_vitr d slot : lenOf (.vitr d slot) = 8 := rfl
@[simp] theorem lenOf_vshget d slot f : lenOf (.vshget d slot f) = 8 := rfl
@[simp] theorem lenOf_tld o : lenOf (.tld o) = 8 := rfl
@[simp] theorem lenOf_tst o : lenOf (.tst o) = 8 := rfl
@[simp] theorem lenOf_tzero d : lenOf (.tzero d) = 8 := rfl
@[simp] theorem lenOf_ttr o : lenOf (.ttr o) = 8 := rfl
@[simp] theorem lenOf_zzero d tz : lenOf (.zzero d tz) = 8 := rfl
@[simp] theorem lenOf_zst o : lenOf (.zst o) = 8 := rfl
@[simp] theorem lenOf_tmma o : lenOf (.tmma o) = 8 := rfl
@[simp] theorem lenOf_tmmo o : lenOf (.tmmo o) = 8 := rfl
@[simp] theorem lenOf_tsacc o : lenOf (.tsacc o) = 8 := rfl
@[simp] theorem lenOf_tepi o : lenOf (.tepi o) = 8 := rfl
@[simp] theorem lenOf_tmrot o : lenOf (.tmrot o) = 8 := rfl
@[simp] theorem lenOf_tfol ch op : lenOf (.tfol ch op) = 16 := rfl
@[simp] theorem lenOf_amsg o : lenOf (.amsg o) = 8 := rfl
@[simp] theorem lenOf_amsgl o : lenOf (.amsgl o) = 8 := rfl
@[simp] theorem lenOf_amsgp o : lenOf (.amsgp o) = 12 := rfl
@[simp] theorem lenOf_rst o : lenOf (.rst o) = 8 := rfl
@[simp] theorem lenOf_rstv o : lenOf (.rstv o) = 8 := rfl
@[simp] theorem lenOf_rld o : lenOf (.rld o) = 8 := rfl
@[simp] theorem lenOf_ramo o : lenOf (.ramo o) = 8 := rfl
@[simp] theorem lenOf_wait o : lenOf (.wait o) = 8 := rfl
@[simp] theorem lenOf_barGang n : lenOf (.barGang n) = 8 := rfl
@[simp] theorem lenOf_barCluster n : lenOf (.barCluster n) = 8 := rfl
@[simp] theorem lenOf_barPackage n : lenOf (.barPackage n) = 8 := rfl
@[simp] theorem lenOf_barFabric n : lenOf (.barFabric n) = 8 := rfl
@[simp] theorem lenOf_bfree a : lenOf (.bfree a) = 8 := rfl
@[simp] theorem lenOf_mbwait a : lenOf (.mbwait a) = 8 := rfl
@[simp] theorem lenOf_cpush o : lenOf (.cpush o) = 8 := rfl
@[simp] theorem lenOf_cpushb o : lenOf (.cpushb o) = 8 := rfl
@[simp] theorem lenOf_cpwait a ch : lenOf (.cpwait a ch) = 8 := rfl
@[simp] theorem lenOf_cpfence mask : lenOf (.cpfence mask) = 8 := rfl
@[simp] theorem lenOf_cpresume ch : lenOf (.cpresume ch) = 8 := rfl
@[simp] theorem lenOf_wlpush o : lenOf (.wlpush o) = 8 := rfl
@[simp] theorem lenOf_sst o : lenOf (.sst o) = 8 := rfl
@[simp] theorem lenOf_sstv o : lenOf (.sstv o) = 8 := rfl
@[simp] theorem lenOf_sstl o : lenOf (.sstl o) = 12 := rfl
@[simp] theorem lenOf_sndseq d a : lenOf (.sndseq d a) = 8 := rfl
@[simp] theorem lenOf_sndwait a b : lenOf (.sndwait a b) = 8 := rfl
@[simp] theorem lenOf_gend d : lenOf (.gend d) = 8 := rfl
@[simp] theorem lenOf_mfsr d r : lenOf (.mfsr d r) = 8 := rfl
@[simp] theorem lenOf_mtsr r a : lenOf (.mtsr r a) = 8 := rfl
@[simp] theorem lenOf_scall code : lenOf (.scall code) = 8 := rfl
@[simp] theorem lenOf_brk code : lenOf (.brk code) = 8 := rfl
@[simp] theorem lenOf_exit a n : lenOf (.exit a n) = 8 := rfl
@[simp] theorem lenOf_ptouch a : lenOf (.ptouch a) = 8 := rfl
@[simp] theorem lenOf_mint a cause : lenOf (.mint a cause) = 8 := rfl
@[simp] theorem lenOf_nop64 : lenOf (.nop64) = 8 := rfl
@[simp] theorem lenOf_nop96 : lenOf (.nop96) = 12 := rfl
@[simp] theorem lenOf_nop128 : lenOf (.nop128) = 16 := rfl
@[simp] theorem lenOf_isync : lenOf (.isync) = 8 := rfl
@[simp] theorem lenOf_wfe : lenOf (.wfe) = 8 := rfl
@[simp] theorem lenOf_serve : lenOf (.serve) = 8 := rfl
@[simp] theorem lenOf_hret : lenOf (.hret) = 8 := rfl
@[simp] theorem lenOf_vsync : lenOf (.vsync) = 8 := rfl
@[simp] theorem lenOf_fenceCore : lenOf (.fenceCore) = 8 := rfl
@[simp] theorem lenOf_fenceCluster : lenOf (.fenceCluster) = 8 := rfl
@[simp] theorem lenOf_fenceDie : lenOf (.fenceDie) = 8 := rfl
@[simp] theorem lenOf_fencePackage : lenOf (.fencePackage) = 8 := rfl
@[simp] theorem lenOf_fenceFabric : lenOf (.fenceFabric) = 8 := rfl
@[simp] theorem lenOf_wlwait : lenOf (.wlwait) = 8 := rfl
@[simp] theorem lenOf_kret : lenOf (.kret) = 8 := rfl

end Sys2Proof.Machine
end

