-- ==== Sys2Proof/Laws/State.lean ====
section
/-! SUPPORT. What each update of a core or of the state leaves in each field. -/

namespace Sys2Proof.Machine

/-! ## The core in focus -/

@[simp] theorem State.mapCore_cid (s : State) (f : Core → Core) : (s.mapCore f).cid = s.cid := rfl
@[simp] theorem State.mapCore_core (s : State) (f : Core → Core) : (s.mapCore f).core = f s.core := rfl
@[simp] theorem State.mapCore_others (s : State) (f : Core → Core) : (s.mapCore f).others = s.others := rfl
@[simp] theorem State.mapCore_net (s : State) (f : Core → Core) : (s.mapCore f).net = s.net := rfl
@[simp] theorem State.mapCore_back (s : State) (f : Core → Core) : (s.mapCore f).back = s.back := rfl
@[simp] theorem State.mapCore_sfu (s : State) (f : Core → Core) : (s.mapCore f).sfu = s.sfu := rfl
@[simp] theorem State.mapCore_bars (s : State) (f : Core → Core) : (s.mapCore f).bars = s.bars := rfl
@[simp] theorem State.mapCore_barConfigs (s : State) (f : Core → Core) : (s.mapCore f).barConfigs = s.barConfigs := rfl
@[simp] theorem State.mapCore_hub (s : State) (f : Core → Core) : (s.mapCore f).hub = s.hub := rfl
@[simp] theorem State.mapCore_wl (s : State) (f : Core → Core) : (s.mapCore f).wl = s.wl := rfl
@[simp] theorem State.mapCore_sound (s : State) (f : Core → Core) : (s.mapCore f).sound = s.sound := rfl
@[simp] theorem State.mapCore_sce (s : State) (f : Core → Core) : (s.mapCore f).sce = s.sce := rfl
@[simp] theorem State.mapCore_gmem (s : State) (f : Core → Core) : (s.mapCore f).gmem = s.gmem := rfl
@[simp] theorem State.mapCore_fabric (s : State) (f : Core → Core) : (s.mapCore f).fabric = s.fabric := rfl
@[simp] theorem State.mapCore_host (s : State) (f : Core → Core) : (s.mapCore f).host = s.host := rfl
@[simp] theorem State.mapCore_saved (s : State) (f : Core → Core) : (s.mapCore f).saved = s.saved := rfl
@[simp] theorem State.mapCore_turns (s : State) (f : Core → Core) : (s.mapCore f).turns = s.turns := rfl
@[simp] theorem State.mapCore_inp (s : State) (f : Core → Core) : (s.mapCore f).inp = s.inp := rfl
@[simp] theorem State.mapCore_now (s : State) (f : Core → Core) : (s.mapCore f).now = s.now := rfl
@[simp] theorem State.mapCore_hubNow (s : State) (f : Core → Core) : (s.mapCore f).hubNow = s.hubNow := rfl
@[simp] theorem State.mapCore_steps (s : State) (f : Core → Core) : (s.mapCore f).steps = s.steps := rfl
@[simp] theorem State.mapCore_tags (s : State) (f : Core → Core) : (s.mapCore f).tags = s.tags := rfl

/-! ## Writes of `f` registers -/

@[simp] theorem Core.wrF_run (c : Core) (r : FReg) (x : Word) : (c.wrF r x).run = c.run := rfl
@[simp] theorem Core.wrF_halted (c : Core) (r : FReg) (x : Word) : (c.wrF r x).halted = c.halted := rfl
@[simp] theorem Core.wrF_stepping (c : Core) (r : FReg) (x : Word) : (c.wrF r x).stepping = c.stepping := rfl
@[simp] theorem Core.wrF_haltReq (c : Core) (r : FReg) (x : Word) : (c.wrF r x).haltReq = c.haltReq := rfl
@[simp] theorem Core.wrF_preemptReq (c : Core) (r : FReg) (x : Word) : (c.wrF r x).preemptReq = c.preemptReq := rfl
@[simp] theorem Core.wrF_pc (c : Core) (r : FReg) (x : Word) : (c.wrF r x).pc = c.pc := rfl
@[simp] theorem Core.wrF_status (c : Core) (r : FReg) (x : Word) : (c.wrF r x).status = c.status := rfl
@[simp] theorem Core.wrF_trap (c : Core) (r : FReg) (x : Word) : (c.wrF r x).trap = c.trap := rfl
@[simp] theorem Core.wrF_fp (c : Core) (r : FReg) (x : Word) : (c.wrF r x).fp = c.fp := rfl
@[simp] theorem Core.wrF_ids (c : Core) (r : FReg) (x : Word) : (c.wrF r x).ids = c.ids := rfl
@[simp] theorem Core.wrF_cnt (c : Core) (r : FReg) (x : Word) : (c.wrF r x).cnt = c.cnt := rfl
@[simp] theorem Core.wrF_outst (c : Core) (r : FReg) (x : Word) : (c.wrF r x).outst = c.outst := rfl
@[simp] theorem Core.wrF_ls (c : Core) (r : FReg) (x : Word) : (c.wrF r x).ls = c.ls := rfl
@[simp] theorem Core.wrF_bad (c : Core) (r : FReg) (x : Word) : (c.wrF r x).bad = c.bad := rfl
@[simp] theorem Core.wrF_badRegs (c : Core) (r : FReg) (x : Word) : (c.wrF r x).badRegs = c.clean (.f r) := rfl
@[simp] theorem Core.wrF_stale (c : Core) (r : FReg) (x : Word) : (c.wrF r x).stale = c.stale := rfl
@[simp] theorem Core.wrF_ir (c : Core) (r : FReg) (x : Word) : (c.wrF r x).ir = c.ir := rfl
@[simp] theorem Core.wrF_cycOff (c : Core) (r : FReg) (x : Word) : (c.wrF r x).cycOff = c.cycOff := rfl
@[simp] theorem Core.wrF_instret (c : Core) (r : FReg) (x : Word) : (c.wrF r x).instret = c.instret := rfl
@[simp] theorem Core.wrF_latch (c : Core) (r : FReg) (x : Word) : (c.wrF r x).latch = c.latch := rfl
@[simp] theorem Core.wrF_shadow (c : Core) (r : FReg) (x : Word) : (c.wrF r x).shadow = c.shadow := rfl
@[simp] theorem Core.wrF_hres (c : Core) (r : FReg) (x : Word) : (c.wrF r x).hres = c.hres := rfl
@[simp] theorem Core.wrF_yleft (c : Core) (r : FReg) (x : Word) : (c.wrF r x).yleft = c.yleft := rfl
@[simp] theorem Core.wrF_vec (c : Core) (r : FReg) (x : Word) : (c.wrF r x).vec = c.vec := rfl
@[simp] theorem Core.wrF_tile (c : Core) (r : FReg) (x : Word) : (c.wrF r x).tile = c.tile := rfl
@[simp] theorem Core.wrF_copy (c : Core) (r : FReg) (x : Word) : (c.wrF r x).copy = c.copy := rfl
@[simp] theorem Core.wrF_applying (c : Core) (r : FReg) (x : Word) : (c.wrF r x).applying = c.applying := rfl
@[simp] theorem Core.wrF_inbox (c : Core) (r : FReg) (x : Word) : (c.wrF r x).inbox = c.inbox := rfl
@[simp] theorem Core.wrF_bars (c : Core) (r : FReg) (x : Word) : (c.wrF r x).bars = c.bars := rfl
@[simp] theorem Core.wrF_afault (c : Core) (r : FReg) (x : Word) : (c.wrF r x).afault = c.afault := rfl
@[simp] theorem Core.wrF_afpc (c : Core) (r : FReg) (x : Word) : (c.wrF r x).afpc = c.afpc := rfl
@[simp] theorem Core.wrF_afaddr (c : Core) (r : FReg) (x : Word) : (c.wrF r x).afaddr = c.afaddr := rfl
@[simp] theorem Core.wrF_afFar (c : Core) (r : FReg) (x : Word) : (c.wrF r x).afFar = c.afFar := rfl
@[simp] theorem Core.wrF_wl (c : Core) (r : FReg) (x : Word) : (c.wrF r x).wl = c.wl := rfl
@[simp] theorem Core.wrF_snd (c : Core) (r : FReg) (x : Word) : (c.wrF r x).snd = c.snd := rfl
@[simp] theorem Core.wrF_sce (c : Core) (r : FReg) (x : Word) : (c.wrF r x).sce = c.sce := rfl
@[simp] theorem Core.wrF_trans (c : Core) (r : FReg) (x : Word) : (c.wrF r x).trans = c.trans := rfl
@[simp] theorem Core.wrF_bound (c : Core) (r : FReg) (x : Word) : (c.wrF r x).bound = c.bound := rfl
@[simp] theorem Core.wrF_hubWait (c : Core) (r : FReg) (x : Word) : (c.wrF r x).hubWait = c.hubWait := rfl
@[simp] theorem Core.wrF_entering (c : Core) (r : FReg) (x : Word) : (c.wrF r x).entering = c.entering := rfl
@[simp] theorem Core.wrF_lastLoad (c : Core) (r : FReg) (x : Word) : (c.wrF r x).lastLoad = c.lastLoad := rfl
@[simp] theorem Core.wrF_wdAcc (c : Core) (r : FReg) (x : Word) : (c.wrF r x).wdAcc = c.wdAcc := rfl
@[simp] theorem Core.wrF_wdFrom (c : Core) (r : FReg) (x : Word) : (c.wrF r x).wdFrom = c.wdFrom := rfl
@[simp] theorem Core.wrF_wdFired (c : Core) (r : FReg) (x : Word) : (c.wrF r x).wdFired = c.wdFired := rfl

/-! ## Writes of vector registers -/

@[simp] theorem Core.wrV_run (c : Core) (r : VReg) (x : VecReg) : (c.wrV r x).run = c.run := rfl
@[simp] theorem Core.wrV_halted (c : Core) (r : VReg) (x : VecReg) : (c.wrV r x).halted = c.halted := rfl
@[simp] theorem Core.wrV_stepping (c : Core) (r : VReg) (x : VecReg) : (c.wrV r x).stepping = c.stepping := rfl
@[simp] theorem Core.wrV_haltReq (c : Core) (r : VReg) (x : VecReg) : (c.wrV r x).haltReq = c.haltReq := rfl
@[simp] theorem Core.wrV_preemptReq (c : Core) (r : VReg) (x : VecReg) : (c.wrV r x).preemptReq = c.preemptReq := rfl
@[simp] theorem Core.wrV_pc (c : Core) (r : VReg) (x : VecReg) : (c.wrV r x).pc = c.pc := rfl
@[simp] theorem Core.wrV_status (c : Core) (r : VReg) (x : VecReg) : (c.wrV r x).status = c.status := rfl
@[simp] theorem Core.wrV_trap (c : Core) (r : VReg) (x : VecReg) : (c.wrV r x).trap = c.trap := rfl
@[simp] theorem Core.wrV_fp (c : Core) (r : VReg) (x : VecReg) : (c.wrV r x).fp = c.fp := rfl
@[simp] theorem Core.wrV_ids (c : Core) (r : VReg) (x : VecReg) : (c.wrV r x).ids = c.ids := rfl
@[simp] theorem Core.wrV_cnt (c : Core) (r : VReg) (x : VecReg) : (c.wrV r x).cnt = c.cnt := rfl
@[simp] theorem Core.wrV_outst (c : Core) (r : VReg) (x : VecReg) : (c.wrV r x).outst = c.outst := rfl
@[simp] theorem Core.wrV_ls (c : Core) (r : VReg) (x : VecReg) : (c.wrV r x).ls = c.ls := rfl
@[simp] theorem Core.wrV_bad (c : Core) (r : VReg) (x : VecReg) : (c.wrV r x).bad = c.bad := rfl
@[simp] theorem Core.wrV_badRegs (c : Core) (r : VReg) (x : VecReg) : (c.wrV r x).badRegs = c.clean (.v r) := rfl
@[simp] theorem Core.wrV_stale (c : Core) (r : VReg) (x : VecReg) : (c.wrV r x).stale = c.stale := rfl
@[simp] theorem Core.wrV_ir (c : Core) (r : VReg) (x : VecReg) : (c.wrV r x).ir = c.ir := rfl
@[simp] theorem Core.wrV_cycOff (c : Core) (r : VReg) (x : VecReg) : (c.wrV r x).cycOff = c.cycOff := rfl
@[simp] theorem Core.wrV_instret (c : Core) (r : VReg) (x : VecReg) : (c.wrV r x).instret = c.instret := rfl
@[simp] theorem Core.wrV_latch (c : Core) (r : VReg) (x : VecReg) : (c.wrV r x).latch = c.latch := rfl
@[simp] theorem Core.wrV_shadow (c : Core) (r : VReg) (x : VecReg) : (c.wrV r x).shadow = c.shadow := rfl
@[simp] theorem Core.wrV_hres (c : Core) (r : VReg) (x : VecReg) : (c.wrV r x).hres = c.hres := rfl
@[simp] theorem Core.wrV_yleft (c : Core) (r : VReg) (x : VecReg) : (c.wrV r x).yleft = c.yleft := rfl
@[simp] theorem Core.wrV_vec (c : Core) (r : VReg) (x : VecReg) : (c.wrV r x).vec = c.vec := rfl
@[simp] theorem Core.wrV_tile (c : Core) (r : VReg) (x : VecReg) : (c.wrV r x).tile = c.tile := rfl
@[simp] theorem Core.wrV_copy (c : Core) (r : VReg) (x : VecReg) : (c.wrV r x).copy = c.copy := rfl
@[simp] theorem Core.wrV_applying (c : Core) (r : VReg) (x : VecReg) : (c.wrV r x).applying = c.applying := rfl
@[simp] theorem Core.wrV_inbox (c : Core) (r : VReg) (x : VecReg) : (c.wrV r x).inbox = c.inbox := rfl
@[simp] theorem Core.wrV_bars (c : Core) (r : VReg) (x : VecReg) : (c.wrV r x).bars = c.bars := rfl
@[simp] theorem Core.wrV_afault (c : Core) (r : VReg) (x : VecReg) : (c.wrV r x).afault = c.afault := rfl
@[simp] theorem Core.wrV_afpc (c : Core) (r : VReg) (x : VecReg) : (c.wrV r x).afpc = c.afpc := rfl
@[simp] theorem Core.wrV_afaddr (c : Core) (r : VReg) (x : VecReg) : (c.wrV r x).afaddr = c.afaddr := rfl
@[simp] theorem Core.wrV_afFar (c : Core) (r : VReg) (x : VecReg) : (c.wrV r x).afFar = c.afFar := rfl
@[simp] theorem Core.wrV_wl (c : Core) (r : VReg) (x : VecReg) : (c.wrV r x).wl = c.wl := rfl
@[simp] theorem Core.wrV_snd (c : Core) (r : VReg) (x : VecReg) : (c.wrV r x).snd = c.snd := rfl
@[simp] theorem Core.wrV_sce (c : Core) (r : VReg) (x : VecReg) : (c.wrV r x).sce = c.sce := rfl
@[simp] theorem Core.wrV_trans (c : Core) (r : VReg) (x : VecReg) : (c.wrV r x).trans = c.trans := rfl
@[simp] theorem Core.wrV_bound (c : Core) (r : VReg) (x : VecReg) : (c.wrV r x).bound = c.bound := rfl
@[simp] theorem Core.wrV_hubWait (c : Core) (r : VReg) (x : VecReg) : (c.wrV r x).hubWait = c.hubWait := rfl
@[simp] theorem Core.wrV_entering (c : Core) (r : VReg) (x : VecReg) : (c.wrV r x).entering = c.entering := rfl
@[simp] theorem Core.wrV_lastLoad (c : Core) (r : VReg) (x : VecReg) : (c.wrV r x).lastLoad = c.lastLoad := rfl
@[simp] theorem Core.wrV_wdAcc (c : Core) (r : VReg) (x : VecReg) : (c.wrV r x).wdAcc = c.wdAcc := rfl
@[simp] theorem Core.wrV_wdFrom (c : Core) (r : VReg) (x : VecReg) : (c.wrV r x).wdFrom = c.wdFrom := rfl
@[simp] theorem Core.wrV_wdFired (c : Core) (r : VReg) (x : VecReg) : (c.wrV r x).wdFired = c.wdFired := rfl

/-! ## Writes of tile registers -/

@[simp] theorem Core.wrT_run (c : Core) (r : TReg) (x : BitVec 65536) : (c.wrT r x).run = c.run := rfl
@[simp] theorem Core.wrT_halted (c : Core) (r : TReg) (x : BitVec 65536) : (c.wrT r x).halted = c.halted := rfl
@[simp] theorem Core.wrT_stepping (c : Core) (r : TReg) (x : BitVec 65536) : (c.wrT r x).stepping = c.stepping := rfl
@[simp] theorem Core.wrT_haltReq (c : Core) (r : TReg) (x : BitVec 65536) : (c.wrT r x).haltReq = c.haltReq := rfl
@[simp] theorem Core.wrT_preemptReq (c : Core) (r : TReg) (x : BitVec 65536) :
    (c.wrT r x).preemptReq = c.preemptReq := rfl
@[simp] theorem Core.wrT_pc (c : Core) (r : TReg) (x : BitVec 65536) : (c.wrT r x).pc = c.pc := rfl
@[simp] theorem Core.wrT_status (c : Core) (r : TReg) (x : BitVec 65536) : (c.wrT r x).status = c.status := rfl
@[simp] theorem Core.wrT_trap (c : Core) (r : TReg) (x : BitVec 65536) : (c.wrT r x).trap = c.trap := rfl
@[simp] theorem Core.wrT_fp (c : Core) (r : TReg) (x : BitVec 65536) : (c.wrT r x).fp = c.fp := rfl
@[simp] theorem Core.wrT_ids (c : Core) (r : TReg) (x : BitVec 65536) : (c.wrT r x).ids = c.ids := rfl
@[simp] theorem Core.wrT_cnt (c : Core) (r : TReg) (x : BitVec 65536) : (c.wrT r x).cnt = c.cnt := rfl
@[simp] theorem Core.wrT_outst (c : Core) (r : TReg) (x : BitVec 65536) : (c.wrT r x).outst = c.outst := rfl
@[simp] theorem Core.wrT_ls (c : Core) (r : TReg) (x : BitVec 65536) : (c.wrT r x).ls = c.ls := rfl
@[simp] theorem Core.wrT_bad (c : Core) (r : TReg) (x : BitVec 65536) : (c.wrT r x).bad = c.bad := rfl
@[simp] theorem Core.wrT_badRegs (c : Core) (r : TReg) (x : BitVec 65536) :
    (c.wrT r x).badRegs = c.clean (.t r) := rfl
@[simp] theorem Core.wrT_stale (c : Core) (r : TReg) (x : BitVec 65536) : (c.wrT r x).stale = c.stale := rfl
@[simp] theorem Core.wrT_ir (c : Core) (r : TReg) (x : BitVec 65536) : (c.wrT r x).ir = c.ir := rfl
@[simp] theorem Core.wrT_cycOff (c : Core) (r : TReg) (x : BitVec 65536) : (c.wrT r x).cycOff = c.cycOff := rfl
@[simp] theorem Core.wrT_instret (c : Core) (r : TReg) (x : BitVec 65536) : (c.wrT r x).instret = c.instret := rfl
@[simp] theorem Core.wrT_latch (c : Core) (r : TReg) (x : BitVec 65536) : (c.wrT r x).latch = c.latch := rfl
@[simp] theorem Core.wrT_shadow (c : Core) (r : TReg) (x : BitVec 65536) : (c.wrT r x).shadow = c.shadow := rfl
@[simp] theorem Core.wrT_hres (c : Core) (r : TReg) (x : BitVec 65536) : (c.wrT r x).hres = c.hres := rfl
@[simp] theorem Core.wrT_yleft (c : Core) (r : TReg) (x : BitVec 65536) : (c.wrT r x).yleft = c.yleft := rfl
@[simp] theorem Core.wrT_vec (c : Core) (r : TReg) (x : BitVec 65536) : (c.wrT r x).vec = c.vec := rfl
@[simp] theorem Core.wrT_tile (c : Core) (r : TReg) (x : BitVec 65536) : (c.wrT r x).tile = c.tile := rfl
@[simp] theorem Core.wrT_copy (c : Core) (r : TReg) (x : BitVec 65536) : (c.wrT r x).copy = c.copy := rfl
@[simp] theorem Core.wrT_applying (c : Core) (r : TReg) (x : BitVec 65536) : (c.wrT r x).applying = c.applying := rfl
@[simp] theorem Core.wrT_inbox (c : Core) (r : TReg) (x : BitVec 65536) : (c.wrT r x).inbox = c.inbox := rfl
@[simp] theorem Core.wrT_bars (c : Core) (r : TReg) (x : BitVec 65536) : (c.wrT r x).bars = c.bars := rfl
@[simp] theorem Core.wrT_afault (c : Core) (r : TReg) (x : BitVec 65536) : (c.wrT r x).afault = c.afault := rfl
@[simp] theorem Core.wrT_afpc (c : Core) (r : TReg) (x : BitVec 65536) : (c.wrT r x).afpc = c.afpc := rfl
@[simp] theorem Core.wrT_afaddr (c : Core) (r : TReg) (x : BitVec 65536) : (c.wrT r x).afaddr = c.afaddr := rfl
@[simp] theorem Core.wrT_afFar (c : Core) (r : TReg) (x : BitVec 65536) : (c.wrT r x).afFar = c.afFar := rfl
@[simp] theorem Core.wrT_wl (c : Core) (r : TReg) (x : BitVec 65536) : (c.wrT r x).wl = c.wl := rfl
@[simp] theorem Core.wrT_snd (c : Core) (r : TReg) (x : BitVec 65536) : (c.wrT r x).snd = c.snd := rfl
@[simp] theorem Core.wrT_sce (c : Core) (r : TReg) (x : BitVec 65536) : (c.wrT r x).sce = c.sce := rfl
@[simp] theorem Core.wrT_trans (c : Core) (r : TReg) (x : BitVec 65536) : (c.wrT r x).trans = c.trans := rfl
@[simp] theorem Core.wrT_bound (c : Core) (r : TReg) (x : BitVec 65536) : (c.wrT r x).bound = c.bound := rfl
@[simp] theorem Core.wrT_hubWait (c : Core) (r : TReg) (x : BitVec 65536) : (c.wrT r x).hubWait = c.hubWait := rfl
@[simp] theorem Core.wrT_entering (c : Core) (r : TReg) (x : BitVec 65536) : (c.wrT r x).entering = c.entering := rfl
@[simp] theorem Core.wrT_lastLoad (c : Core) (r : TReg) (x : BitVec 65536) : (c.wrT r x).lastLoad = c.lastLoad := rfl
@[simp] theorem Core.wrT_wdAcc (c : Core) (r : TReg) (x : BitVec 65536) : (c.wrT r x).wdAcc = c.wdAcc := rfl
@[simp] theorem Core.wrT_wdFrom (c : Core) (r : TReg) (x : BitVec 65536) : (c.wrT r x).wdFrom = c.wdFrom := rfl
@[simp] theorem Core.wrT_wdFired (c : Core) (r : TReg) (x : BitVec 65536) : (c.wrT r x).wdFired = c.wdFired := rfl

/-! ## Writes of accumulators -/

@[simp] theorem Core.wrZ_run (c : Core) (r : ZReg) (x : BitVec 131072) : (c.wrZ r x).run = c.run := rfl
@[simp] theorem Core.wrZ_halted (c : Core) (r : ZReg) (x : BitVec 131072) : (c.wrZ r x).halted = c.halted := rfl
@[simp] theorem Core.wrZ_stepping (c : Core) (r : ZReg) (x : BitVec 131072) : (c.wrZ r x).stepping = c.stepping := rfl
@[simp] theorem Core.wrZ_haltReq (c : Core) (r : ZReg) (x : BitVec 131072) : (c.wrZ r x).haltReq = c.haltReq := rfl
@[simp] theorem Core.wrZ_preemptReq (c : Core) (r : ZReg) (x : BitVec 131072) :
    (c.wrZ r x).preemptReq = c.preemptReq := rfl
@[simp] theorem Core.wrZ_pc (c : Core) (r : ZReg) (x : BitVec 131072) : (c.wrZ r x).pc = c.pc := rfl
@[simp] theorem Core.wrZ_status (c : Core) (r : ZReg) (x : BitVec 131072) : (c.wrZ r x).status = c.status := rfl
@[simp] theorem Core.wrZ_trap (c : Core) (r : ZReg) (x : BitVec 131072) : (c.wrZ r x).trap = c.trap := rfl
@[simp] theorem Core.wrZ_fp (c : Core) (r : ZReg) (x : BitVec 131072) : (c.wrZ r x).fp = c.fp := rfl
@[simp] theorem Core.wrZ_ids (c : Core) (r : ZReg) (x : BitVec 131072) : (c.wrZ r x).ids = c.ids := rfl
@[simp] theorem Core.wrZ_cnt (c : Core) (r : ZReg) (x : BitVec 131072) : (c.wrZ r x).cnt = c.cnt := rfl
@[simp] theorem Core.wrZ_outst (c : Core) (r : ZReg) (x : BitVec 131072) : (c.wrZ r x).outst = c.outst := rfl
@[simp] theorem Core.wrZ_ls (c : Core) (r : ZReg) (x : BitVec 131072) : (c.wrZ r x).ls = c.ls := rfl
@[simp] theorem Core.wrZ_bad (c : Core) (r : ZReg) (x : BitVec 131072) : (c.wrZ r x).bad = c.bad := rfl
@[simp] theorem Core.wrZ_badRegs (c : Core) (r : ZReg) (x : BitVec 131072) :
    (c.wrZ r x).badRegs = c.clean (.z r) := rfl
@[simp] theorem Core.wrZ_stale (c : Core) (r : ZReg) (x : BitVec 131072) : (c.wrZ r x).stale = c.stale := rfl
@[simp] theorem Core.wrZ_ir (c : Core) (r : ZReg) (x : BitVec 131072) : (c.wrZ r x).ir = c.ir := rfl
@[simp] theorem Core.wrZ_cycOff (c : Core) (r : ZReg) (x : BitVec 131072) : (c.wrZ r x).cycOff = c.cycOff := rfl
@[simp] theorem Core.wrZ_instret (c : Core) (r : ZReg) (x : BitVec 131072) : (c.wrZ r x).instret = c.instret := rfl
@[simp] theorem Core.wrZ_latch (c : Core) (r : ZReg) (x : BitVec 131072) : (c.wrZ r x).latch = c.latch := rfl
@[simp] theorem Core.wrZ_shadow (c : Core) (r : ZReg) (x : BitVec 131072) : (c.wrZ r x).shadow = c.shadow := rfl
@[simp] theorem Core.wrZ_hres (c : Core) (r : ZReg) (x : BitVec 131072) : (c.wrZ r x).hres = c.hres := rfl
@[simp] theorem Core.wrZ_yleft (c : Core) (r : ZReg) (x : BitVec 131072) : (c.wrZ r x).yleft = c.yleft := rfl
@[simp] theorem Core.wrZ_vec (c : Core) (r : ZReg) (x : BitVec 131072) : (c.wrZ r x).vec = c.vec := rfl
@[simp] theorem Core.wrZ_tile (c : Core) (r : ZReg) (x : BitVec 131072) : (c.wrZ r x).tile = c.tile := rfl
@[simp] theorem Core.wrZ_copy (c : Core) (r : ZReg) (x : BitVec 131072) : (c.wrZ r x).copy = c.copy := rfl
@[simp] theorem Core.wrZ_applying (c : Core) (r : ZReg) (x : BitVec 131072) : (c.wrZ r x).applying = c.applying := rfl
@[simp] theorem Core.wrZ_inbox (c : Core) (r : ZReg) (x : BitVec 131072) : (c.wrZ r x).inbox = c.inbox := rfl
@[simp] theorem Core.wrZ_bars (c : Core) (r : ZReg) (x : BitVec 131072) : (c.wrZ r x).bars = c.bars := rfl
@[simp] theorem Core.wrZ_afault (c : Core) (r : ZReg) (x : BitVec 131072) : (c.wrZ r x).afault = c.afault := rfl
@[simp] theorem Core.wrZ_afpc (c : Core) (r : ZReg) (x : BitVec 131072) : (c.wrZ r x).afpc = c.afpc := rfl
@[simp] theorem Core.wrZ_afaddr (c : Core) (r : ZReg) (x : BitVec 131072) : (c.wrZ r x).afaddr = c.afaddr := rfl
@[simp] theorem Core.wrZ_afFar (c : Core) (r : ZReg) (x : BitVec 131072) : (c.wrZ r x).afFar = c.afFar := rfl
@[simp] theorem Core.wrZ_wl (c : Core) (r : ZReg) (x : BitVec 131072) : (c.wrZ r x).wl = c.wl := rfl
@[simp] theorem Core.wrZ_snd (c : Core) (r : ZReg) (x : BitVec 131072) : (c.wrZ r x).snd = c.snd := rfl
@[simp] theorem Core.wrZ_sce (c : Core) (r : ZReg) (x : BitVec 131072) : (c.wrZ r x).sce = c.sce := rfl
@[simp] theorem Core.wrZ_trans (c : Core) (r : ZReg) (x : BitVec 131072) : (c.wrZ r x).trans = c.trans := rfl
@[simp] theorem Core.wrZ_bound (c : Core) (r : ZReg) (x : BitVec 131072) : (c.wrZ r x).bound = c.bound := rfl
@[simp] theorem Core.wrZ_hubWait (c : Core) (r : ZReg) (x : BitVec 131072) : (c.wrZ r x).hubWait = c.hubWait := rfl
@[simp] theorem Core.wrZ_entering (c : Core) (r : ZReg) (x : BitVec 131072) : (c.wrZ r x).entering = c.entering := rfl
@[simp] theorem Core.wrZ_lastLoad (c : Core) (r : ZReg) (x : BitVec 131072) : (c.wrZ r x).lastLoad = c.lastLoad := rfl
@[simp] theorem Core.wrZ_wdAcc (c : Core) (r : ZReg) (x : BitVec 131072) : (c.wrZ r x).wdAcc = c.wdAcc := rfl
@[simp] theorem Core.wrZ_wdFrom (c : Core) (r : ZReg) (x : BitVec 131072) : (c.wrZ r x).wdFrom = c.wdFrom := rfl
@[simp] theorem Core.wrZ_wdFired (c : Core) (r : ZReg) (x : BitVec 131072) : (c.wrZ r x).wdFired = c.wdFired := rfl

/-! ## Writes of `s` registers -/

@[simp] theorem Core.wrS_run (c : Core) (r : SReg) (x : Word) :
    (c.wrS r x).run = c.run := by unfold Core.wrS; split <;> rfl
@[simp] theorem Core.wrS_halted (c : Core) (r : SReg) (x : Word) :
    (c.wrS r x).halted = c.halted := by unfold Core.wrS; split <;> rfl
@[simp] theorem Core.wrS_stepping (c : Core) (r : SReg) (x : Word) :
    (c.wrS r x).stepping = c.stepping := by unfold Core.wrS; split <;> rfl
@[simp] theorem Core.wrS_haltReq (c : Core) (r : SReg) (x : Word) :
    (c.wrS r x).haltReq = c.haltReq := by unfold Core.wrS; split <;> rfl
@[simp] theorem Core.wrS_preemptReq (c : Core) (r : SReg) (x : Word) :
    (c.wrS r x).preemptReq = c.preemptReq := by unfold Core.wrS; split <;> rfl
@[simp] theorem Core.wrS_pc (c : Core) (r : SReg) (x : Word) :
    (c.wrS r x).pc = c.pc := by unfold Core.wrS; split <;> rfl
@[simp] theorem Core.wrS_status (c : Core) (r : SReg) (x : Word) :
    (c.wrS r x).status = c.status := by unfold Core.wrS; split <;> rfl
@[simp] theorem Core.wrS_trap (c : Core) (r : SReg) (x : Word) :
    (c.wrS r x).trap = c.trap := by unfold Core.wrS; split <;> rfl
@[simp] theorem Core.wrS_fp (c : Core) (r : SReg) (x : Word) :
    (c.wrS r x).fp = c.fp := by unfold Core.wrS; split <;> rfl
@[simp] theorem Core.wrS_ids (c : Core) (r : SReg) (x : Word) :
    (c.wrS r x).ids = c.ids := by unfold Core.wrS; split <;> rfl
@[simp] theorem Core.wrS_cnt (c : Core) (r : SReg) (x : Word) :
    (c.wrS r x).cnt = c.cnt := by unfold Core.wrS; split <;> rfl
@[simp] theorem Core.wrS_outst (c : Core) (r : SReg) (x : Word) :
    (c.wrS r x).outst = c.outst := by unfold Core.wrS; split <;> rfl
@[simp] theorem Core.wrS_ls (c : Core) (r : SReg) (x : Word) :
    (c.wrS r x).ls = c.ls := by unfold Core.wrS; split <;> rfl
@[simp] theorem Core.wrS_bad (c : Core) (r : SReg) (x : Word) :
    (c.wrS r x).bad = c.bad := by unfold Core.wrS; split <;> rfl
@[simp] theorem Core.wrS_stale (c : Core) (r : SReg) (x : Word) :
    (c.wrS r x).stale = c.stale := by unfold Core.wrS; split <;> rfl
@[simp] theorem Core.wrS_ir (c : Core) (r : SReg) (x : Word) :
    (c.wrS r x).ir = c.ir := by unfold Core.wrS; split <;> rfl
@[simp] theorem Core.wrS_cycOff (c : Core) (r : SReg) (x : Word) :
    (c.wrS r x).cycOff = c.cycOff := by unfold Core.wrS; split <;> rfl
@[simp] theorem Core.wrS_instret (c : Core) (r : SReg) (x : Word) :
    (c.wrS r x).instret = c.instret := by unfold Core.wrS; split <;> rfl
@[simp] theorem Core.wrS_latch (c : Core) (r : SReg) (x : Word) :
    (c.wrS r x).latch = c.latch := by unfold Core.wrS; split <;> rfl
@[simp] theorem Core.wrS_shadow (c : Core) (r : SReg) (x : Word) :
    (c.wrS r x).shadow = c.shadow := by unfold Core.wrS; split <;> rfl
@[simp] theorem Core.wrS_hres (c : Core) (r : SReg) (x : Word) :
    (c.wrS r x).hres = c.hres := by unfold Core.wrS; split <;> rfl
@[simp] theorem Core.wrS_yleft (c : Core) (r : SReg) (x : Word) :
    (c.wrS r x).yleft = c.yleft := by unfold Core.wrS; split <;> rfl
@[simp] theorem Core.wrS_vec (c : Core) (r : SReg) (x : Word) :
    (c.wrS r x).vec = c.vec := by unfold Core.wrS; split <;> rfl
@[simp] theorem Core.wrS_tile (c : Core) (r : SReg) (x : Word) :
    (c.wrS r x).tile = c.tile := by unfold Core.wrS; split <;> rfl
@[simp] theorem Core.wrS_copy (c : Core) (r : SReg) (x : Word) :
    (c.wrS r x).copy = c.copy := by unfold Core.wrS; split <;> rfl
@[simp] theorem Core.wrS_applying (c : Core) (r : SReg) (x : Word) :
    (c.wrS r x).applying = c.applying := by unfold Core.wrS; split <;> rfl
@[simp] theorem Core.wrS_inbox (c : Core) (r : SReg) (x : Word) :
    (c.wrS r x).inbox = c.inbox := by unfold Core.wrS; split <;> rfl
@[simp] theorem Core.wrS_bars (c : Core) (r : SReg) (x : Word) :
    (c.wrS r x).bars = c.bars := by unfold Core.wrS; split <;> rfl
@[simp] theorem Core.wrS_afault (c : Core) (r : SReg) (x : Word) :
    (c.wrS r x).afault = c.afault := by unfold Core.wrS; split <;> rfl
@[simp] theorem Core.wrS_afpc (c : Core) (r : SReg) (x : Word) :
    (c.wrS r x).afpc = c.afpc := by unfold Core.wrS; split <;> rfl
@[simp] theorem Core.wrS_afaddr (c : Core) (r : SReg) (x : Word) :
    (c.wrS r x).afaddr = c.afaddr := by unfold Core.wrS; split <;> rfl
@[simp] theorem Core.wrS_afFar (c : Core) (r : SReg) (x : Word) :
    (c.wrS r x).afFar = c.afFar := by unfold Core.wrS; split <;> rfl
@[simp] theorem Core.wrS_wl (c : Core) (r : SReg) (x : Word) :
    (c.wrS r x).wl = c.wl := by unfold Core.wrS; split <;> rfl
@[simp] theorem Core.wrS_snd (c : Core) (r : SReg) (x : Word) :
    (c.wrS r x).snd = c.snd := by unfold Core.wrS; split <;> rfl
@[simp] theorem Core.wrS_sce (c : Core) (r : SReg) (x : Word) :
    (c.wrS r x).sce = c.sce := by unfold Core.wrS; split <;> rfl
@[simp] theorem Core.wrS_trans (c : Core) (r : SReg) (x : Word) :
    (c.wrS r x).trans = c.trans := by unfold Core.wrS; split <;> rfl
@[simp] theorem Core.wrS_bound (c : Core) (r : SReg) (x : Word) :
    (c.wrS r x).bound = c.bound := by unfold Core.wrS; split <;> rfl
@[simp] theorem Core.wrS_hubWait (c : Core) (r : SReg) (x : Word) :
    (c.wrS r x).hubWait = c.hubWait := by unfold Core.wrS; split <;> rfl
@[simp] theorem Core.wrS_entering (c : Core) (r : SReg) (x : Word) :
    (c.wrS r x).entering = c.entering := by unfold Core.wrS; split <;> rfl
@[simp] theorem Core.wrS_lastLoad (c : Core) (r : SReg) (x : Word) :
    (c.wrS r x).lastLoad = c.lastLoad := by unfold Core.wrS; split <;> rfl
@[simp] theorem Core.wrS_wdAcc (c : Core) (r : SReg) (x : Word) :
    (c.wrS r x).wdAcc = c.wdAcc := by unfold Core.wrS; split <;> rfl
@[simp] theorem Core.wrS_wdFrom (c : Core) (r : SReg) (x : Word) :
    (c.wrS r x).wdFrom = c.wdFrom := by unfold Core.wrS; split <;> rfl
@[simp] theorem Core.wrS_wdFired (c : Core) (r : SReg) (x : Word) :
    (c.wrS r x).wdFired = c.wdFired := by unfold Core.wrS; split <;> rfl

/-! ## Writes of masks -/

@[simp] theorem Core.wrQ_run (c : Core) (r : QReg) (x : BitVec 128) :
    (c.wrQ r x).run = c.run := by unfold Core.wrQ; split <;> rfl
@[simp] theorem Core.wrQ_halted (c : Core) (r : QReg) (x : BitVec 128) :
    (c.wrQ r x).halted = c.halted := by unfold Core.wrQ; split <;> rfl
@[simp] theorem Core.wrQ_stepping (c : Core) (r : QReg) (x : BitVec 128) :
    (c.wrQ r x).stepping = c.stepping := by unfold Core.wrQ; split <;> rfl
@[simp] theorem Core.wrQ_haltReq (c : Core) (r : QReg) (x : BitVec 128) :
    (c.wrQ r x).haltReq = c.haltReq := by unfold Core.wrQ; split <;> rfl
@[simp] theorem Core.wrQ_preemptReq (c : Core) (r : QReg) (x : BitVec 128) :
    (c.wrQ r x).preemptReq = c.preemptReq := by unfold Core.wrQ; split <;> rfl
@[simp] theorem Core.wrQ_pc (c : Core) (r : QReg) (x : BitVec 128) :
    (c.wrQ r x).pc = c.pc := by unfold Core.wrQ; split <;> rfl
@[simp] theorem Core.wrQ_status (c : Core) (r : QReg) (x : BitVec 128) :
    (c.wrQ r x).status = c.status := by unfold Core.wrQ; split <;> rfl
@[simp] theorem Core.wrQ_trap (c : Core) (r : QReg) (x : BitVec 128) :
    (c.wrQ r x).trap = c.trap := by unfold Core.wrQ; split <;> rfl
@[simp] theorem Core.wrQ_fp (c : Core) (r : QReg) (x : BitVec 128) :
    (c.wrQ r x).fp = c.fp := by unfold Core.wrQ; split <;> rfl
@[simp] theorem Core.wrQ_ids (c : Core) (r : QReg) (x : BitVec 128) :
    (c.wrQ r x).ids = c.ids := by unfold Core.wrQ; split <;> rfl
@[simp] theorem Core.wrQ_cnt (c : Core) (r : QReg) (x : BitVec 128) :
    (c.wrQ r x).cnt = c.cnt := by unfold Core.wrQ; split <;> rfl
@[simp] theorem Core.wrQ_outst (c : Core) (r : QReg) (x : BitVec 128) :
    (c.wrQ r x).outst = c.outst := by unfold Core.wrQ; split <;> rfl
@[simp] theorem Core.wrQ_ls (c : Core) (r : QReg) (x : BitVec 128) :
    (c.wrQ r x).ls = c.ls := by unfold Core.wrQ; split <;> rfl
@[simp] theorem Core.wrQ_bad (c : Core) (r : QReg) (x : BitVec 128) :
    (c.wrQ r x).bad = c.bad := by unfold Core.wrQ; split <;> rfl
@[simp] theorem Core.wrQ_stale (c : Core) (r : QReg) (x : BitVec 128) :
    (c.wrQ r x).stale = c.stale := by unfold Core.wrQ; split <;> rfl
@[simp] theorem Core.wrQ_ir (c : Core) (r : QReg) (x : BitVec 128) :
    (c.wrQ r x).ir = c.ir := by unfold Core.wrQ; split <;> rfl
@[simp] theorem Core.wrQ_cycOff (c : Core) (r : QReg) (x : BitVec 128) :
    (c.wrQ r x).cycOff = c.cycOff := by unfold Core.wrQ; split <;> rfl
@[simp] theorem Core.wrQ_instret (c : Core) (r : QReg) (x : BitVec 128) :
    (c.wrQ r x).instret = c.instret := by unfold Core.wrQ; split <;> rfl
@[simp] theorem Core.wrQ_latch (c : Core) (r : QReg) (x : BitVec 128) :
    (c.wrQ r x).latch = c.latch := by unfold Core.wrQ; split <;> rfl
@[simp] theorem Core.wrQ_shadow (c : Core) (r : QReg) (x : BitVec 128) :
    (c.wrQ r x).shadow = c.shadow := by unfold Core.wrQ; split <;> rfl
@[simp] theorem Core.wrQ_hres (c : Core) (r : QReg) (x : BitVec 128) :
    (c.wrQ r x).hres = c.hres := by unfold Core.wrQ; split <;> rfl
@[simp] theorem Core.wrQ_yleft (c : Core) (r : QReg) (x : BitVec 128) :
    (c.wrQ r x).yleft = c.yleft := by unfold Core.wrQ; split <;> rfl
@[simp] theorem Core.wrQ_vec (c : Core) (r : QReg) (x : BitVec 128) :
    (c.wrQ r x).vec = c.vec := by unfold Core.wrQ; split <;> rfl
@[simp] theorem Core.wrQ_tile (c : Core) (r : QReg) (x : BitVec 128) :
    (c.wrQ r x).tile = c.tile := by unfold Core.wrQ; split <;> rfl
@[simp] theorem Core.wrQ_copy (c : Core) (r : QReg) (x : BitVec 128) :
    (c.wrQ r x).copy = c.copy := by unfold Core.wrQ; split <;> rfl
@[simp] theorem Core.wrQ_applying (c : Core) (r : QReg) (x : BitVec 128) :
    (c.wrQ r x).applying = c.applying := by unfold Core.wrQ; split <;> rfl
@[simp] theorem Core.wrQ_inbox (c : Core) (r : QReg) (x : BitVec 128) :
    (c.wrQ r x).inbox = c.inbox := by unfold Core.wrQ; split <;> rfl
@[simp] theorem Core.wrQ_bars (c : Core) (r : QReg) (x : BitVec 128) :
    (c.wrQ r x).bars = c.bars := by unfold Core.wrQ; split <;> rfl
@[simp] theorem Core.wrQ_afault (c : Core) (r : QReg) (x : BitVec 128) :
    (c.wrQ r x).afault = c.afault := by unfold Core.wrQ; split <;> rfl
@[simp] theorem Core.wrQ_afpc (c : Core) (r : QReg) (x : BitVec 128) :
    (c.wrQ r x).afpc = c.afpc := by unfold Core.wrQ; split <;> rfl
@[simp] theorem Core.wrQ_afaddr (c : Core) (r : QReg) (x : BitVec 128) :
    (c.wrQ r x).afaddr = c.afaddr := by unfold Core.wrQ; split <;> rfl
@[simp] theorem Core.wrQ_afFar (c : Core) (r : QReg) (x : BitVec 128) :
    (c.wrQ r x).afFar = c.afFar := by unfold Core.wrQ; split <;> rfl
@[simp] theorem Core.wrQ_wl (c : Core) (r : QReg) (x : BitVec 128) :
    (c.wrQ r x).wl = c.wl := by unfold Core.wrQ; split <;> rfl
@[simp] theorem Core.wrQ_snd (c : Core) (r : QReg) (x : BitVec 128) :
    (c.wrQ r x).snd = c.snd := by unfold Core.wrQ; split <;> rfl
@[simp] theorem Core.wrQ_sce (c : Core) (r : QReg) (x : BitVec 128) :
    (c.wrQ r x).sce = c.sce := by unfold Core.wrQ; split <;> rfl
@[simp] theorem Core.wrQ_trans (c : Core) (r : QReg) (x : BitVec 128) :
    (c.wrQ r x).trans = c.trans := by unfold Core.wrQ; split <;> rfl
@[simp] theorem Core.wrQ_bound (c : Core) (r : QReg) (x : BitVec 128) :
    (c.wrQ r x).bound = c.bound := by unfold Core.wrQ; split <;> rfl
@[simp] theorem Core.wrQ_hubWait (c : Core) (r : QReg) (x : BitVec 128) :
    (c.wrQ r x).hubWait = c.hubWait := by unfold Core.wrQ; split <;> rfl
@[simp] theorem Core.wrQ_entering (c : Core) (r : QReg) (x : BitVec 128) :
    (c.wrQ r x).entering = c.entering := by unfold Core.wrQ; split <;> rfl
@[simp] theorem Core.wrQ_lastLoad (c : Core) (r : QReg) (x : BitVec 128) :
    (c.wrQ r x).lastLoad = c.lastLoad := by unfold Core.wrQ; split <;> rfl
@[simp] theorem Core.wrQ_wdAcc (c : Core) (r : QReg) (x : BitVec 128) :
    (c.wrQ r x).wdAcc = c.wdAcc := by unfold Core.wrQ; split <;> rfl
@[simp] theorem Core.wrQ_wdFrom (c : Core) (r : QReg) (x : BitVec 128) :
    (c.wrQ r x).wdFrom = c.wdFrom := by unfold Core.wrQ; split <;> rfl
@[simp] theorem Core.wrQ_wdFired (c : Core) (r : QReg) (x : BitVec 128) :
    (c.wrQ r x).wdFired = c.wdFired := by unfold Core.wrQ; split <;> rfl

/-! ## Raised flags -/

@[simp] theorem Core.orFlags_run (c : Core) (x : Flags) : (c.orFlags x).run = c.run := rfl
@[simp] theorem Core.orFlags_halted (c : Core) (x : Flags) : (c.orFlags x).halted = c.halted := rfl
@[simp] theorem Core.orFlags_stepping (c : Core) (x : Flags) : (c.orFlags x).stepping = c.stepping := rfl
@[simp] theorem Core.orFlags_haltReq (c : Core) (x : Flags) : (c.orFlags x).haltReq = c.haltReq := rfl
@[simp] theorem Core.orFlags_preemptReq (c : Core) (x : Flags) : (c.orFlags x).preemptReq = c.preemptReq := rfl
@[simp] theorem Core.orFlags_pc (c : Core) (x : Flags) : (c.orFlags x).pc = c.pc := rfl
@[simp] theorem Core.orFlags_regs (c : Core) (x : Flags) : (c.orFlags x).regs = c.regs := rfl
@[simp] theorem Core.orFlags_status (c : Core) (x : Flags) : (c.orFlags x).status = c.status := rfl
@[simp] theorem Core.orFlags_trap (c : Core) (x : Flags) : (c.orFlags x).trap = c.trap := rfl
@[simp] theorem Core.orFlags_fp (c : Core) (x : Flags) :
    (c.orFlags x).fp = { c.fp with flags := c.fp.flags ||| x } := rfl
@[simp] theorem Core.orFlags_ids (c : Core) (x : Flags) : (c.orFlags x).ids = c.ids := rfl
@[simp] theorem Core.orFlags_cnt (c : Core) (x : Flags) : (c.orFlags x).cnt = c.cnt := rfl
@[simp] theorem Core.orFlags_outst (c : Core) (x : Flags) : (c.orFlags x).outst = c.outst := rfl
@[simp] theorem Core.orFlags_ls (c : Core) (x : Flags) : (c.orFlags x).ls = c.ls := rfl
@[simp] theorem Core.orFlags_bad (c : Core) (x : Flags) : (c.orFlags x).bad = c.bad := rfl
@[simp] theorem Core.orFlags_badRegs (c : Core) (x : Flags) : (c.orFlags x).badRegs = c.badRegs := rfl
@[simp] theorem Core.orFlags_stale (c : Core) (x : Flags) : (c.orFlags x).stale = c.stale := rfl
@[simp] theorem Core.orFlags_ir (c : Core) (x : Flags) : (c.orFlags x).ir = c.ir := rfl
@[simp] theorem Core.orFlags_cycOff (c : Core) (x : Flags) : (c.orFlags x).cycOff = c.cycOff := rfl
@[simp] theorem Core.orFlags_instret (c : Core) (x : Flags) : (c.orFlags x).instret = c.instret := rfl
@[simp] theorem Core.orFlags_latch (c : Core) (x : Flags) : (c.orFlags x).latch = c.latch := rfl
@[simp] theorem Core.orFlags_shadow (c : Core) (x : Flags) : (c.orFlags x).shadow = c.shadow := rfl
@[simp] theorem Core.orFlags_hres (c : Core) (x : Flags) : (c.orFlags x).hres = c.hres := rfl
@[simp] theorem Core.orFlags_yleft (c : Core) (x : Flags) : (c.orFlags x).yleft = c.yleft := rfl
@[simp] theorem Core.orFlags_vec (c : Core) (x : Flags) : (c.orFlags x).vec = c.vec := rfl
@[simp] theorem Core.orFlags_tile (c : Core) (x : Flags) : (c.orFlags x).tile = c.tile := rfl
@[simp] theorem Core.orFlags_copy (c : Core) (x : Flags) : (c.orFlags x).copy = c.copy := rfl
@[simp] theorem Core.orFlags_applying (c : Core) (x : Flags) : (c.orFlags x).applying = c.applying := rfl
@[simp] theorem Core.orFlags_inbox (c : Core) (x : Flags) : (c.orFlags x).inbox = c.inbox := rfl
@[simp] theorem Core.orFlags_bars (c : Core) (x : Flags) : (c.orFlags x).bars = c.bars := rfl
@[simp] theorem Core.orFlags_afault (c : Core) (x : Flags) : (c.orFlags x).afault = c.afault := rfl
@[simp] theorem Core.orFlags_afpc (c : Core) (x : Flags) : (c.orFlags x).afpc = c.afpc := rfl
@[simp] theorem Core.orFlags_afaddr (c : Core) (x : Flags) : (c.orFlags x).afaddr = c.afaddr := rfl
@[simp] theorem Core.orFlags_afFar (c : Core) (x : Flags) : (c.orFlags x).afFar = c.afFar := rfl
@[simp] theorem Core.orFlags_wl (c : Core) (x : Flags) : (c.orFlags x).wl = c.wl := rfl
@[simp] theorem Core.orFlags_snd (c : Core) (x : Flags) : (c.orFlags x).snd = c.snd := rfl
@[simp] theorem Core.orFlags_sce (c : Core) (x : Flags) : (c.orFlags x).sce = c.sce := rfl
@[simp] theorem Core.orFlags_trans (c : Core) (x : Flags) : (c.orFlags x).trans = c.trans := rfl
@[simp] theorem Core.orFlags_bound (c : Core) (x : Flags) : (c.orFlags x).bound = c.bound := rfl
@[simp] theorem Core.orFlags_hubWait (c : Core) (x : Flags) : (c.orFlags x).hubWait = c.hubWait := rfl
@[simp] theorem Core.orFlags_entering (c : Core) (x : Flags) : (c.orFlags x).entering = c.entering := rfl
@[simp] theorem Core.orFlags_lastLoad (c : Core) (x : Flags) : (c.orFlags x).lastLoad = c.lastLoad := rfl
@[simp] theorem Core.orFlags_wdAcc (c : Core) (x : Flags) : (c.orFlags x).wdAcc = c.wdAcc := rfl
@[simp] theorem Core.orFlags_wdFrom (c : Core) (x : Flags) : (c.orFlags x).wdFrom = c.wdFrom := rfl
@[simp] theorem Core.orFlags_wdFired (c : Core) (x : Flags) : (c.orFlags x).wdFired = c.wdFired := rfl

/-! ## Stores -/

@[simp] theorem Core.storeBytes_run (c : Core) (a : Nat) (bs : List Byte) : (c.storeBytes a bs).run = c.run := rfl
@[simp] theorem Core.storeBytes_halted (c : Core) (a : Nat) (bs : List Byte) :
    (c.storeBytes a bs).halted = c.halted := rfl
@[simp] theorem Core.storeBytes_stepping (c : Core) (a : Nat) (bs : List Byte) :
    (c.storeBytes a bs).stepping = c.stepping := rfl
@[simp] theorem Core.storeBytes_haltReq (c : Core) (a : Nat) (bs : List Byte) :
    (c.storeBytes a bs).haltReq = c.haltReq := rfl
@[simp] theorem Core.storeBytes_preemptReq (c : Core) (a : Nat) (bs : List Byte) :
    (c.storeBytes a bs).preemptReq = c.preemptReq := rfl
@[simp] theorem Core.storeBytes_pc (c : Core) (a : Nat) (bs : List Byte) : (c.storeBytes a bs).pc = c.pc := rfl
@[simp] theorem Core.storeBytes_regs (c : Core) (a : Nat) (bs : List Byte) : (c.storeBytes a bs).regs = c.regs := rfl
@[simp] theorem Core.storeBytes_status (c : Core) (a : Nat) (bs : List Byte) :
    (c.storeBytes a bs).status = c.status := rfl
@[simp] theorem Core.storeBytes_trap (c : Core) (a : Nat) (bs : List Byte) : (c.storeBytes a bs).trap = c.trap := rfl
@[simp] theorem Core.storeBytes_fp (c : Core) (a : Nat) (bs : List Byte) : (c.storeBytes a bs).fp = c.fp := rfl
@[simp] theorem Core.storeBytes_ids (c : Core) (a : Nat) (bs : List Byte) : (c.storeBytes a bs).ids = c.ids := rfl
@[simp] theorem Core.storeBytes_cnt (c : Core) (a : Nat) (bs : List Byte) : (c.storeBytes a bs).cnt = c.cnt := rfl
@[simp] theorem Core.storeBytes_outst (c : Core) (a : Nat) (bs : List Byte) :
    (c.storeBytes a bs).outst = c.outst := rfl
@[simp] theorem Core.storeBytes_ls (c : Core) (a : Nat) (bs : List Byte) :
    (c.storeBytes a bs).ls = c.ls.writeBytes a bs := rfl
@[simp] theorem Core.storeBytes_bad (c : Core) (a : Nat) (bs : List Byte) :
    (c.storeBytes a bs).bad = clearBad c.bad a bs.length := rfl
@[simp] theorem Core.storeBytes_badRegs (c : Core) (a : Nat) (bs : List Byte) :
    (c.storeBytes a bs).badRegs = c.badRegs := rfl
@[simp] theorem Core.storeBytes_stale (c : Core) (a : Nat) (bs : List Byte) :
    (c.storeBytes a bs).stale = c.staleWith true a bs := rfl
@[simp] theorem Core.storeBytes_ir (c : Core) (a : Nat) (bs : List Byte) : (c.storeBytes a bs).ir = c.ir := rfl
@[simp] theorem Core.storeBytes_cycOff (c : Core) (a : Nat) (bs : List Byte) :
    (c.storeBytes a bs).cycOff = c.cycOff := rfl
@[simp] theorem Core.storeBytes_instret (c : Core) (a : Nat) (bs : List Byte) :
    (c.storeBytes a bs).instret = c.instret := rfl
@[simp] theorem Core.storeBytes_latch (c : Core) (a : Nat) (bs : List Byte) :
    (c.storeBytes a bs).latch = c.latch := rfl
@[simp] theorem Core.storeBytes_shadow (c : Core) (a : Nat) (bs : List Byte) :
    (c.storeBytes a bs).shadow = c.shadow := rfl
@[simp] theorem Core.storeBytes_hres (c : Core) (a : Nat) (bs : List Byte) : (c.storeBytes a bs).hres = c.hres := rfl
@[simp] theorem Core.storeBytes_yleft (c : Core) (a : Nat) (bs : List Byte) :
    (c.storeBytes a bs).yleft = c.yleft := rfl
@[simp] theorem Core.storeBytes_vec (c : Core) (a : Nat) (bs : List Byte) : (c.storeBytes a bs).vec = c.vec := rfl
@[simp] theorem Core.storeBytes_tile (c : Core) (a : Nat) (bs : List Byte) : (c.storeBytes a bs).tile = c.tile := rfl
@[simp] theorem Core.storeBytes_copy (c : Core) (a : Nat) (bs : List Byte) : (c.storeBytes a bs).copy = c.copy := rfl
@[simp] theorem Core.storeBytes_applying (c : Core) (a : Nat) (bs : List Byte) :
    (c.storeBytes a bs).applying = c.applying := rfl
@[simp] theorem Core.storeBytes_inbox (c : Core) (a : Nat) (bs : List Byte) :
    (c.storeBytes a bs).inbox = c.inbox := rfl
@[simp] theorem Core.storeBytes_bars (c : Core) (a : Nat) (bs : List Byte) : (c.storeBytes a bs).bars = c.bars := rfl
@[simp] theorem Core.storeBytes_afault (c : Core) (a : Nat) (bs : List Byte) :
    (c.storeBytes a bs).afault = c.afault := rfl
@[simp] theorem Core.storeBytes_afpc (c : Core) (a : Nat) (bs : List Byte) : (c.storeBytes a bs).afpc = c.afpc := rfl
@[simp] theorem Core.storeBytes_afaddr (c : Core) (a : Nat) (bs : List Byte) :
    (c.storeBytes a bs).afaddr = c.afaddr := rfl
@[simp] theorem Core.storeBytes_afFar (c : Core) (a : Nat) (bs : List Byte) :
    (c.storeBytes a bs).afFar = c.afFar := rfl
@[simp] theorem Core.storeBytes_wl (c : Core) (a : Nat) (bs : List Byte) : (c.storeBytes a bs).wl = c.wl := rfl
@[simp] theorem Core.storeBytes_snd (c : Core) (a : Nat) (bs : List Byte) : (c.storeBytes a bs).snd = c.snd := rfl
@[simp] theorem Core.storeBytes_sce (c : Core) (a : Nat) (bs : List Byte) : (c.storeBytes a bs).sce = c.sce := rfl
@[simp] theorem Core.storeBytes_trans (c : Core) (a : Nat) (bs : List Byte) :
    (c.storeBytes a bs).trans = c.trans := rfl
@[simp] theorem Core.storeBytes_bound (c : Core) (a : Nat) (bs : List Byte) :
    (c.storeBytes a bs).bound = c.bound := rfl
@[simp] theorem Core.storeBytes_hubWait (c : Core) (a : Nat) (bs : List Byte) :
    (c.storeBytes a bs).hubWait = c.hubWait := rfl
@[simp] theorem Core.storeBytes_entering (c : Core) (a : Nat) (bs : List Byte) :
    (c.storeBytes a bs).entering = c.entering := rfl
@[simp] theorem Core.storeBytes_lastLoad (c : Core) (a : Nat) (bs : List Byte) :
    (c.storeBytes a bs).lastLoad = c.lastLoad := rfl
@[simp] theorem Core.storeBytes_wdAcc (c : Core) (a : Nat) (bs : List Byte) :
    (c.storeBytes a bs).wdAcc = c.wdAcc := rfl
@[simp] theorem Core.storeBytes_wdFrom (c : Core) (a : Nat) (bs : List Byte) :
    (c.storeBytes a bs).wdFrom = c.wdFrom := rfl
@[simp] theorem Core.storeBytes_wdFired (c : Core) (a : Nat) (bs : List Byte) :
    (c.storeBytes a bs).wdFired = c.wdFired := rfl

@[simp] theorem Core.landBytes_run (c : Core) (a : Nat) (bs : List Byte) : (c.landBytes a bs).run = c.run := rfl
@[simp] theorem Core.landBytes_halted (c : Core) (a : Nat) (bs : List Byte) :
    (c.landBytes a bs).halted = c.halted := rfl
@[simp] theorem Core.landBytes_stepping (c : Core) (a : Nat) (bs : List Byte) :
    (c.landBytes a bs).stepping = c.stepping := rfl
@[simp] theorem Core.landBytes_haltReq (c : Core) (a : Nat) (bs : List Byte) :
    (c.landBytes a bs).haltReq = c.haltReq := rfl
@[simp] theorem Core.landBytes_preemptReq (c : Core) (a : Nat) (bs : List Byte) :
    (c.landBytes a bs).preemptReq = c.preemptReq := rfl
@[simp] theorem Core.landBytes_pc (c : Core) (a : Nat) (bs : List Byte) : (c.landBytes a bs).pc = c.pc := rfl
@[simp] theorem Core.landBytes_regs (c : Core) (a : Nat) (bs : List Byte) : (c.landBytes a bs).regs = c.regs := rfl
@[simp] theorem Core.landBytes_status (c : Core) (a : Nat) (bs : List Byte) :
    (c.landBytes a bs).status = c.status := rfl
@[simp] theorem Core.landBytes_trap (c : Core) (a : Nat) (bs : List Byte) : (c.landBytes a bs).trap = c.trap := rfl
@[simp] theorem Core.landBytes_fp (c : Core) (a : Nat) (bs : List Byte) : (c.landBytes a bs).fp = c.fp := rfl
@[simp] theorem Core.landBytes_ids (c : Core) (a : Nat) (bs : List Byte) : (c.landBytes a bs).ids = c.ids := rfl
@[simp] theorem Core.landBytes_cnt (c : Core) (a : Nat) (bs : List Byte) : (c.landBytes a bs).cnt = c.cnt := rfl
@[simp] theorem Core.landBytes_outst (c : Core) (a : Nat) (bs : List Byte) : (c.landBytes a bs).outst = c.outst := rfl
@[simp] theorem Core.landBytes_ls (c : Core) (a : Nat) (bs : List Byte) :
    (c.landBytes a bs).ls = c.ls.writeBytes a bs := rfl
@[simp] theorem Core.landBytes_bad (c : Core) (a : Nat) (bs : List Byte) :
    (c.landBytes a bs).bad = clearBad c.bad a bs.length := rfl
@[simp] theorem Core.landBytes_badRegs (c : Core) (a : Nat) (bs : List Byte) :
    (c.landBytes a bs).badRegs = c.badRegs := rfl
@[simp] theorem Core.landBytes_stale (c : Core) (a : Nat) (bs : List Byte) :
    (c.landBytes a bs).stale = c.staleWith false a bs := rfl
@[simp] theorem Core.landBytes_ir (c : Core) (a : Nat) (bs : List Byte) : (c.landBytes a bs).ir = c.ir := rfl
@[simp] theorem Core.landBytes_cycOff (c : Core) (a : Nat) (bs : List Byte) :
    (c.landBytes a bs).cycOff = c.cycOff := rfl
@[simp] theorem Core.landBytes_instret (c : Core) (a : Nat) (bs : List Byte) :
    (c.landBytes a bs).instret = c.instret := rfl
@[simp] theorem Core.landBytes_latch (c : Core) (a : Nat) (bs : List Byte) : (c.landBytes a bs).latch = c.latch := rfl
@[simp] theorem Core.landBytes_shadow (c : Core) (a : Nat) (bs : List Byte) :
    (c.landBytes a bs).shadow = c.shadow := rfl
@[simp] theorem Core.landBytes_hres (c : Core) (a : Nat) (bs : List Byte) : (c.landBytes a bs).hres = c.hres := rfl
@[simp] theorem Core.landBytes_yleft (c : Core) (a : Nat) (bs : List Byte) : (c.landBytes a bs).yleft = c.yleft := rfl
@[simp] theorem Core.landBytes_vec (c : Core) (a : Nat) (bs : List Byte) : (c.landBytes a bs).vec = c.vec := rfl
@[simp] theorem Core.landBytes_tile (c : Core) (a : Nat) (bs : List Byte) : (c.landBytes a bs).tile = c.tile := rfl
@[simp] theorem Core.landBytes_copy (c : Core) (a : Nat) (bs : List Byte) : (c.landBytes a bs).copy = c.copy := rfl
@[simp] theorem Core.landBytes_applying (c : Core) (a : Nat) (bs : List Byte) :
    (c.landBytes a bs).applying = c.applying := rfl
@[simp] theorem Core.landBytes_inbox (c : Core) (a : Nat) (bs : List Byte) : (c.landBytes a bs).inbox = c.inbox := rfl
@[simp] theorem Core.landBytes_bars (c : Core) (a : Nat) (bs : List Byte) : (c.landBytes a bs).bars = c.bars := rfl
@[simp] theorem Core.landBytes_afault (c : Core) (a : Nat) (bs : List Byte) :
    (c.landBytes a bs).afault = c.afault := rfl
@[simp] theorem Core.landBytes_afpc (c : Core) (a : Nat) (bs : List Byte) : (c.landBytes a bs).afpc = c.afpc := rfl
@[simp] theorem Core.landBytes_afaddr (c : Core) (a : Nat) (bs : List Byte) :
    (c.landBytes a bs).afaddr = c.afaddr := rfl
@[simp] theorem Core.landBytes_afFar (c : Core) (a : Nat) (bs : List Byte) : (c.landBytes a bs).afFar = c.afFar := rfl
@[simp] theorem Core.landBytes_wl (c : Core) (a : Nat) (bs : List Byte) : (c.landBytes a bs).wl = c.wl := rfl
@[simp] theorem Core.landBytes_snd (c : Core) (a : Nat) (bs : List Byte) : (c.landBytes a bs).snd = c.snd := rfl
@[simp] theorem Core.landBytes_sce (c : Core) (a : Nat) (bs : List Byte) : (c.landBytes a bs).sce = c.sce := rfl
@[simp] theorem Core.landBytes_trans (c : Core) (a : Nat) (bs : List Byte) : (c.landBytes a bs).trans = c.trans := rfl
@[simp] theorem Core.landBytes_bound (c : Core) (a : Nat) (bs : List Byte) : (c.landBytes a bs).bound = c.bound := rfl
@[simp] theorem Core.landBytes_hubWait (c : Core) (a : Nat) (bs : List Byte) :
    (c.landBytes a bs).hubWait = c.hubWait := rfl
@[simp] theorem Core.landBytes_entering (c : Core) (a : Nat) (bs : List Byte) :
    (c.landBytes a bs).entering = c.entering := rfl
@[simp] theorem Core.landBytes_lastLoad (c : Core) (a : Nat) (bs : List Byte) :
    (c.landBytes a bs).lastLoad = c.lastLoad := rfl
@[simp] theorem Core.landBytes_wdAcc (c : Core) (a : Nat) (bs : List Byte) : (c.landBytes a bs).wdAcc = c.wdAcc := rfl
@[simp] theorem Core.landBytes_wdFrom (c : Core) (a : Nat) (bs : List Byte) :
    (c.landBytes a bs).wdFrom = c.wdFrom := rfl
@[simp] theorem Core.landBytes_wdFired (c : Core) (a : Nat) (bs : List Byte) :
    (c.landBytes a bs).wdFired = c.wdFired := rfl

@[simp] theorem Core.storeN_run (c : Core) (a n x : Nat) : (c.storeN a n x).run = c.run := rfl
@[simp] theorem Core.storeN_halted (c : Core) (a n x : Nat) : (c.storeN a n x).halted = c.halted := rfl
@[simp] theorem Core.storeN_stepping (c : Core) (a n x : Nat) : (c.storeN a n x).stepping = c.stepping := rfl
@[simp] theorem Core.storeN_haltReq (c : Core) (a n x : Nat) : (c.storeN a n x).haltReq = c.haltReq := rfl
@[simp] theorem Core.storeN_preemptReq (c : Core) (a n x : Nat) : (c.storeN a n x).preemptReq = c.preemptReq := rfl
@[simp] theorem Core.storeN_pc (c : Core) (a n x : Nat) : (c.storeN a n x).pc = c.pc := rfl
@[simp] theorem Core.storeN_regs (c : Core) (a n x : Nat) : (c.storeN a n x).regs = c.regs := rfl
@[simp] theorem Core.storeN_status (c : Core) (a n x : Nat) : (c.storeN a n x).status = c.status := rfl
@[simp] theorem Core.storeN_trap (c : Core) (a n x : Nat) : (c.storeN a n x).trap = c.trap := rfl
@[simp] theorem Core.storeN_fp (c : Core) (a n x : Nat) : (c.storeN a n x).fp = c.fp := rfl
@[simp] theorem Core.storeN_ids (c : Core) (a n x : Nat) : (c.storeN a n x).ids = c.ids := rfl
@[simp] theorem Core.storeN_cnt (c : Core) (a n x : Nat) : (c.storeN a n x).cnt = c.cnt := rfl
@[simp] theorem Core.storeN_outst (c : Core) (a n x : Nat) : (c.storeN a n x).outst = c.outst := rfl
@[simp] theorem Core.storeN_ls (c : Core) (a n x : Nat) : (c.storeN a n x).ls = c.ls.writeN a n x := rfl
@[simp] theorem Core.storeN_bad (c : Core) (a n x : Nat) :
    (c.storeN a n x).bad = clearBad c.bad a (toBytesLE n x).length := rfl
@[simp] theorem Core.storeN_badRegs (c : Core) (a n x : Nat) : (c.storeN a n x).badRegs = c.badRegs := rfl
@[simp] theorem Core.storeN_stale (c : Core) (a n x : Nat) :
    (c.storeN a n x).stale = c.staleWith true a (toBytesLE n x) := rfl
@[simp] theorem Core.storeN_ir (c : Core) (a n x : Nat) : (c.storeN a n x).ir = c.ir := rfl
@[simp] theorem Core.storeN_cycOff (c : Core) (a n x : Nat) : (c.storeN a n x).cycOff = c.cycOff := rfl
@[simp] theorem Core.storeN_instret (c : Core) (a n x : Nat) : (c.storeN a n x).instret = c.instret := rfl
@[simp] theorem Core.storeN_latch (c : Core) (a n x : Nat) : (c.storeN a n x).latch = c.latch := rfl
@[simp] theorem Core.storeN_shadow (c : Core) (a n x : Nat) : (c.storeN a n x).shadow = c.shadow := rfl
@[simp] theorem Core.storeN_hres (c : Core) (a n x : Nat) : (c.storeN a n x).hres = c.hres := rfl
@[simp] theorem Core.storeN_yleft (c : Core) (a n x : Nat) : (c.storeN a n x).yleft = c.yleft := rfl
@[simp] theorem Core.storeN_vec (c : Core) (a n x : Nat) : (c.storeN a n x).vec = c.vec := rfl
@[simp] theorem Core.storeN_tile (c : Core) (a n x : Nat) : (c.storeN a n x).tile = c.tile := rfl
@[simp] theorem Core.storeN_copy (c : Core) (a n x : Nat) : (c.storeN a n x).copy = c.copy := rfl
@[simp] theorem Core.storeN_applying (c : Core) (a n x : Nat) : (c.storeN a n x).applying = c.applying := rfl
@[simp] theorem Core.storeN_inbox (c : Core) (a n x : Nat) : (c.storeN a n x).inbox = c.inbox := rfl
@[simp] theorem Core.storeN_bars (c : Core) (a n x : Nat) : (c.storeN a n x).bars = c.bars := rfl
@[simp] theorem Core.storeN_afault (c : Core) (a n x : Nat) : (c.storeN a n x).afault = c.afault := rfl
@[simp] theorem Core.storeN_afpc (c : Core) (a n x : Nat) : (c.storeN a n x).afpc = c.afpc := rfl
@[simp] theorem Core.storeN_afaddr (c : Core) (a n x : Nat) : (c.storeN a n x).afaddr = c.afaddr := rfl
@[simp] theorem Core.storeN_afFar (c : Core) (a n x : Nat) : (c.storeN a n x).afFar = c.afFar := rfl
@[simp] theorem Core.storeN_wl (c : Core) (a n x : Nat) : (c.storeN a n x).wl = c.wl := rfl
@[simp] theorem Core.storeN_snd (c : Core) (a n x : Nat) : (c.storeN a n x).snd = c.snd := rfl
@[simp] theorem Core.storeN_sce (c : Core) (a n x : Nat) : (c.storeN a n x).sce = c.sce := rfl
@[simp] theorem Core.storeN_trans (c : Core) (a n x : Nat) : (c.storeN a n x).trans = c.trans := rfl
@[simp] theorem Core.storeN_bound (c : Core) (a n x : Nat) : (c.storeN a n x).bound = c.bound := rfl
@[simp] theorem Core.storeN_hubWait (c : Core) (a n x : Nat) : (c.storeN a n x).hubWait = c.hubWait := rfl
@[simp] theorem Core.storeN_entering (c : Core) (a n x : Nat) : (c.storeN a n x).entering = c.entering := rfl
@[simp] theorem Core.storeN_lastLoad (c : Core) (a n x : Nat) : (c.storeN a n x).lastLoad = c.lastLoad := rfl
@[simp] theorem Core.storeN_wdAcc (c : Core) (a n x : Nat) : (c.storeN a n x).wdAcc = c.wdAcc := rfl
@[simp] theorem Core.storeN_wdFrom (c : Core) (a n x : Nat) : (c.storeN a n x).wdFrom = c.wdFrom := rfl
@[simp] theorem Core.storeN_wdFired (c : Core) (a n x : Nat) : (c.storeN a n x).wdFired = c.wdFired := rfl

/-! ## Waiting, retiring, traps -/

@[simp] theorem Core.waitHere_run (c : Core) : c.waitHere.run = .wait := rfl
@[simp] theorem Core.waitHere_halted (c : Core) : c.waitHere.halted = c.halted := rfl
@[simp] theorem Core.waitHere_stepping (c : Core) : c.waitHere.stepping = c.stepping := rfl
@[simp] theorem Core.waitHere_haltReq (c : Core) : c.waitHere.haltReq = c.haltReq := rfl
@[simp] theorem Core.waitHere_preemptReq (c : Core) : c.waitHere.preemptReq = c.preemptReq := rfl
@[simp] theorem Core.waitHere_pc (c : Core) : c.waitHere.pc = c.pc := rfl
@[simp] theorem Core.waitHere_regs (c : Core) : c.waitHere.regs = c.regs := rfl
@[simp] theorem Core.waitHere_status (c : Core) : c.waitHere.status = c.status := rfl
@[simp] theorem Core.waitHere_trap (c : Core) : c.waitHere.trap = c.trap := rfl
@[simp] theorem Core.waitHere_fp (c : Core) : c.waitHere.fp = c.fp := rfl
@[simp] theorem Core.waitHere_ids (c : Core) : c.waitHere.ids = c.ids := rfl
@[simp] theorem Core.waitHere_cnt (c : Core) : c.waitHere.cnt = c.cnt := rfl
@[simp] theorem Core.waitHere_outst (c : Core) : c.waitHere.outst = c.outst := rfl
@[simp] theorem Core.waitHere_ls (c : Core) : c.waitHere.ls = c.ls := rfl
@[simp] theorem Core.waitHere_bad (c : Core) : c.waitHere.bad = c.bad := rfl
@[simp] theorem Core.waitHere_badRegs (c : Core) : c.waitHere.badRegs = c.badRegs := rfl
@[simp] theorem Core.waitHere_stale (c : Core) : c.waitHere.stale = c.stale := rfl
@[simp] theorem Core.waitHere_ir (c : Core) : c.waitHere.ir = c.ir := rfl
@[simp] theorem Core.waitHere_cycOff (c : Core) : c.waitHere.cycOff = c.cycOff := rfl
@[simp] theorem Core.waitHere_instret (c : Core) : c.waitHere.instret = c.instret := rfl
@[simp] theorem Core.waitHere_latch (c : Core) : c.waitHere.latch = c.latch := rfl
@[simp] theorem Core.waitHere_shadow (c : Core) : c.waitHere.shadow = c.shadow := rfl
@[simp] theorem Core.waitHere_hres (c : Core) : c.waitHere.hres = c.hres := rfl
@[simp] theorem Core.waitHere_yleft (c : Core) : c.waitHere.yleft = c.yleft := rfl
@[simp] theorem Core.waitHere_vec (c : Core) : c.waitHere.vec = c.vec := rfl
@[simp] theorem Core.waitHere_tile (c : Core) : c.waitHere.tile = c.tile := rfl
@[simp] theorem Core.waitHere_copy (c : Core) : c.waitHere.copy = c.copy := rfl
@[simp] theorem Core.waitHere_applying (c : Core) : c.waitHere.applying = c.applying := rfl
@[simp] theorem Core.waitHere_inbox (c : Core) : c.waitHere.inbox = c.inbox := rfl
@[simp] theorem Core.waitHere_bars (c : Core) : c.waitHere.bars = c.bars := rfl
@[simp] theorem Core.waitHere_afault (c : Core) : c.waitHere.afault = c.afault := rfl
@[simp] theorem Core.waitHere_afpc (c : Core) : c.waitHere.afpc = c.afpc := rfl
@[simp] theorem Core.waitHere_afaddr (c : Core) : c.waitHere.afaddr = c.afaddr := rfl
@[simp] theorem Core.waitHere_afFar (c : Core) : c.waitHere.afFar = c.afFar := rfl
@[simp] theorem Core.waitHere_wl (c : Core) : c.waitHere.wl = c.wl := rfl
@[simp] theorem Core.waitHere_snd (c : Core) : c.waitHere.snd = c.snd := rfl
@[simp] theorem Core.waitHere_sce (c : Core) : c.waitHere.sce = c.sce := rfl
@[simp] theorem Core.waitHere_trans (c : Core) : c.waitHere.trans = c.trans := rfl
@[simp] theorem Core.waitHere_bound (c : Core) : c.waitHere.bound = c.bound := rfl
@[simp] theorem Core.waitHere_hubWait (c : Core) : c.waitHere.hubWait = c.hubWait := rfl
@[simp] theorem Core.waitHere_entering (c : Core) : c.waitHere.entering = c.entering := rfl
@[simp] theorem Core.waitHere_lastLoad (c : Core) : c.waitHere.lastLoad = c.lastLoad := rfl
@[simp] theorem Core.waitHere_wdAcc (c : Core) : c.waitHere.wdAcc = c.wdAcc := rfl
@[simp] theorem Core.waitHere_wdFrom (c : Core) : c.waitHere.wdFrom = c.wdFrom := rfl
@[simp] theorem Core.waitHere_wdFired (c : Core) : c.waitHere.wdFired = c.wdFired := rfl

@[simp] theorem Core.syncFetch_run (c : Core) : c.syncFetch.run = c.run := rfl
@[simp] theorem Core.syncFetch_halted (c : Core) : c.syncFetch.halted = c.halted := rfl
@[simp] theorem Core.syncFetch_stepping (c : Core) : c.syncFetch.stepping = c.stepping := rfl
@[simp] theorem Core.syncFetch_haltReq (c : Core) : c.syncFetch.haltReq = c.haltReq := rfl
@[simp] theorem Core.syncFetch_preemptReq (c : Core) : c.syncFetch.preemptReq = c.preemptReq := rfl
@[simp] theorem Core.syncFetch_pc (c : Core) : c.syncFetch.pc = c.pc := rfl
@[simp] theorem Core.syncFetch_regs (c : Core) : c.syncFetch.regs = c.regs := rfl
@[simp] theorem Core.syncFetch_status (c : Core) : c.syncFetch.status = c.status := rfl
@[simp] theorem Core.syncFetch_trap (c : Core) : c.syncFetch.trap = c.trap := rfl
@[simp] theorem Core.syncFetch_fp (c : Core) : c.syncFetch.fp = c.fp := rfl
@[simp] theorem Core.syncFetch_ids (c : Core) : c.syncFetch.ids = c.ids := rfl
@[simp] theorem Core.syncFetch_cnt (c : Core) : c.syncFetch.cnt = c.cnt := rfl
@[simp] theorem Core.syncFetch_outst (c : Core) : c.syncFetch.outst = c.outst := rfl
@[simp] theorem Core.syncFetch_ls (c : Core) : c.syncFetch.ls = c.ls := rfl
@[simp] theorem Core.syncFetch_bad (c : Core) : c.syncFetch.bad = c.bad := rfl
@[simp] theorem Core.syncFetch_badRegs (c : Core) : c.syncFetch.badRegs = c.badRegs := rfl
@[simp] theorem Core.syncFetch_stale (c : Core) :
    c.syncFetch.stale = (c.stale.filter fun x => !x.settled).map fun x => { x with bytes := x.synced } := rfl
@[simp] theorem Core.syncFetch_ir (c : Core) : c.syncFetch.ir = c.ir := rfl
@[simp] theorem Core.syncFetch_cycOff (c : Core) : c.syncFetch.cycOff = c.cycOff := rfl
@[simp] theorem Core.syncFetch_instret (c : Core) : c.syncFetch.instret = c.instret := rfl
@[simp] theorem Core.syncFetch_latch (c : Core) : c.syncFetch.latch = c.latch := rfl
@[simp] theorem Core.syncFetch_shadow (c : Core) : c.syncFetch.shadow = c.shadow := rfl
@[simp] theorem Core.syncFetch_hres (c : Core) : c.syncFetch.hres = c.hres := rfl
@[simp] theorem Core.syncFetch_yleft (c : Core) : c.syncFetch.yleft = c.yleft := rfl
@[simp] theorem Core.syncFetch_vec (c : Core) : c.syncFetch.vec = c.vec := rfl
@[simp] theorem Core.syncFetch_tile (c : Core) : c.syncFetch.tile = c.tile := rfl
@[simp] theorem Core.syncFetch_copy (c : Core) : c.syncFetch.copy = c.copy := rfl
@[simp] theorem Core.syncFetch_applying (c : Core) : c.syncFetch.applying = c.applying := rfl
@[simp] theorem Core.syncFetch_inbox (c : Core) : c.syncFetch.inbox = c.inbox := rfl
@[simp] theorem Core.syncFetch_bars (c : Core) : c.syncFetch.bars = c.bars := rfl
@[simp] theorem Core.syncFetch_afault (c : Core) : c.syncFetch.afault = c.afault := rfl
@[simp] theorem Core.syncFetch_afpc (c : Core) : c.syncFetch.afpc = c.afpc := rfl
@[simp] theorem Core.syncFetch_afaddr (c : Core) : c.syncFetch.afaddr = c.afaddr := rfl
@[simp] theorem Core.syncFetch_afFar (c : Core) : c.syncFetch.afFar = c.afFar := rfl
@[simp] theorem Core.syncFetch_wl (c : Core) : c.syncFetch.wl = c.wl := rfl
@[simp] theorem Core.syncFetch_snd (c : Core) : c.syncFetch.snd = c.snd := rfl
@[simp] theorem Core.syncFetch_sce (c : Core) : c.syncFetch.sce = c.sce := rfl
@[simp] theorem Core.syncFetch_trans (c : Core) : c.syncFetch.trans = c.trans := rfl
@[simp] theorem Core.syncFetch_bound (c : Core) : c.syncFetch.bound = c.bound := rfl
@[simp] theorem Core.syncFetch_hubWait (c : Core) : c.syncFetch.hubWait = c.hubWait := rfl
@[simp] theorem Core.syncFetch_entering (c : Core) : c.syncFetch.entering = c.entering := rfl
@[simp] theorem Core.syncFetch_lastLoad (c : Core) : c.syncFetch.lastLoad = c.lastLoad := rfl
@[simp] theorem Core.syncFetch_wdAcc (c : Core) : c.syncFetch.wdAcc = c.wdAcc := rfl
@[simp] theorem Core.syncFetch_wdFrom (c : Core) : c.syncFetch.wdFrom = c.wdFrom := rfl
@[simp] theorem Core.syncFetch_wdFired (c : Core) : c.syncFetch.wdFired = c.wdFired := rfl

@[simp] theorem Core.keepRead_run (c : Core) (i : Instr) (bs : List Byte) : (c.keepRead i bs).run = c.run := rfl
@[simp] theorem Core.keepRead_halted (c : Core) (i : Instr) (bs : List Byte) :
    (c.keepRead i bs).halted = c.halted := rfl
@[simp] theorem Core.keepRead_stepping (c : Core) (i : Instr) (bs : List Byte) :
    (c.keepRead i bs).stepping = c.stepping := rfl
@[simp] theorem Core.keepRead_haltReq (c : Core) (i : Instr) (bs : List Byte) :
    (c.keepRead i bs).haltReq = c.haltReq := rfl
@[simp] theorem Core.keepRead_preemptReq (c : Core) (i : Instr) (bs : List Byte) :
    (c.keepRead i bs).preemptReq = c.preemptReq := rfl
@[simp] theorem Core.keepRead_pc (c : Core) (i : Instr) (bs : List Byte) : (c.keepRead i bs).pc = c.pc := rfl
@[simp] theorem Core.keepRead_regs (c : Core) (i : Instr) (bs : List Byte) : (c.keepRead i bs).regs = c.regs := rfl
@[simp] theorem Core.keepRead_status (c : Core) (i : Instr) (bs : List Byte) :
    (c.keepRead i bs).status = c.status := rfl
@[simp] theorem Core.keepRead_trap (c : Core) (i : Instr) (bs : List Byte) : (c.keepRead i bs).trap = c.trap := rfl
@[simp] theorem Core.keepRead_fp (c : Core) (i : Instr) (bs : List Byte) : (c.keepRead i bs).fp = c.fp := rfl
@[simp] theorem Core.keepRead_ids (c : Core) (i : Instr) (bs : List Byte) : (c.keepRead i bs).ids = c.ids := rfl
@[simp] theorem Core.keepRead_cnt (c : Core) (i : Instr) (bs : List Byte) : (c.keepRead i bs).cnt = c.cnt := rfl
@[simp] theorem Core.keepRead_outst (c : Core) (i : Instr) (bs : List Byte) : (c.keepRead i bs).outst = c.outst := rfl
@[simp] theorem Core.keepRead_ls (c : Core) (i : Instr) (bs : List Byte) : (c.keepRead i bs).ls = c.ls := rfl
@[simp] theorem Core.keepRead_bad (c : Core) (i : Instr) (bs : List Byte) : (c.keepRead i bs).bad = c.bad := rfl
@[simp] theorem Core.keepRead_badRegs (c : Core) (i : Instr) (bs : List Byte) :
    (c.keepRead i bs).badRegs = c.badRegs := rfl
@[simp] theorem Core.keepRead_stale (c : Core) (i : Instr) (bs : List Byte) : (c.keepRead i bs).stale = c.stale := rfl
@[simp] theorem Core.keepRead_ir (c : Core) (i : Instr) (bs : List Byte) :
    (c.keepRead i bs).ir = some { c.ir.getD (Fetching.of i) with read := bs } := rfl
@[simp] theorem Core.keepRead_cycOff (c : Core) (i : Instr) (bs : List Byte) :
    (c.keepRead i bs).cycOff = c.cycOff := rfl
@[simp] theorem Core.keepRead_instret (c : Core) (i : Instr) (bs : List Byte) :
    (c.keepRead i bs).instret = c.instret := rfl
@[simp] theorem Core.keepRead_latch (c : Core) (i : Instr) (bs : List Byte) : (c.keepRead i bs).latch = c.latch := rfl
@[simp] theorem Core.keepRead_shadow (c : Core) (i : Instr) (bs : List Byte) :
    (c.keepRead i bs).shadow = c.shadow := rfl
@[simp] theorem Core.keepRead_hres (c : Core) (i : Instr) (bs : List Byte) : (c.keepRead i bs).hres = c.hres := rfl
@[simp] theorem Core.keepRead_yleft (c : Core) (i : Instr) (bs : List Byte) : (c.keepRead i bs).yleft = c.yleft := rfl
@[simp] theorem Core.keepRead_vec (c : Core) (i : Instr) (bs : List Byte) : (c.keepRead i bs).vec = c.vec := rfl
@[simp] theorem Core.keepRead_tile (c : Core) (i : Instr) (bs : List Byte) : (c.keepRead i bs).tile = c.tile := rfl
@[simp] theorem Core.keepRead_copy (c : Core) (i : Instr) (bs : List Byte) : (c.keepRead i bs).copy = c.copy := rfl
@[simp] theorem Core.keepRead_applying (c : Core) (i : Instr) (bs : List Byte) :
    (c.keepRead i bs).applying = c.applying := rfl
@[simp] theorem Core.keepRead_inbox (c : Core) (i : Instr) (bs : List Byte) : (c.keepRead i bs).inbox = c.inbox := rfl
@[simp] theorem Core.keepRead_bars (c : Core) (i : Instr) (bs : List Byte) : (c.keepRead i bs).bars = c.bars := rfl
@[simp] theorem Core.keepRead_afault (c : Core) (i : Instr) (bs : List Byte) :
    (c.keepRead i bs).afault = c.afault := rfl
@[simp] theorem Core.keepRead_afpc (c : Core) (i : Instr) (bs : List Byte) : (c.keepRead i bs).afpc = c.afpc := rfl
@[simp] theorem Core.keepRead_afaddr (c : Core) (i : Instr) (bs : List Byte) :
    (c.keepRead i bs).afaddr = c.afaddr := rfl
@[simp] theorem Core.keepRead_afFar (c : Core) (i : Instr) (bs : List Byte) : (c.keepRead i bs).afFar = c.afFar := rfl
@[simp] theorem Core.keepRead_wl (c : Core) (i : Instr) (bs : List Byte) : (c.keepRead i bs).wl = c.wl := rfl
@[simp] theorem Core.keepRead_snd (c : Core) (i : Instr) (bs : List Byte) : (c.keepRead i bs).snd = c.snd := rfl
@[simp] theorem Core.keepRead_sce (c : Core) (i : Instr) (bs : List Byte) : (c.keepRead i bs).sce = c.sce := rfl
@[simp] theorem Core.keepRead_trans (c : Core) (i : Instr) (bs : List Byte) : (c.keepRead i bs).trans = c.trans := rfl
@[simp] theorem Core.keepRead_bound (c : Core) (i : Instr) (bs : List Byte) : (c.keepRead i bs).bound = c.bound := rfl
@[simp] theorem Core.keepRead_hubWait (c : Core) (i : Instr) (bs : List Byte) :
    (c.keepRead i bs).hubWait = c.hubWait := rfl
@[simp] theorem Core.keepRead_entering (c : Core) (i : Instr) (bs : List Byte) :
    (c.keepRead i bs).entering = c.entering := rfl
@[simp] theorem Core.keepRead_lastLoad (c : Core) (i : Instr) (bs : List Byte) :
    (c.keepRead i bs).lastLoad = c.lastLoad := rfl
@[simp] theorem Core.keepRead_wdAcc (c : Core) (i : Instr) (bs : List Byte) : (c.keepRead i bs).wdAcc = c.wdAcc := rfl
@[simp] theorem Core.keepRead_wdFrom (c : Core) (i : Instr) (bs : List Byte) :
    (c.keepRead i bs).wdFrom = c.wdFrom := rfl
@[simp] theorem Core.keepRead_wdFired (c : Core) (i : Instr) (bs : List Byte) :
    (c.keepRead i bs).wdFired = c.wdFired := rfl

@[simp] theorem Core.retireTo_halted (c : Core) (pc : Word) : (c.retireTo pc).halted = c.halted := by
  unfold Core.retireTo Core.settleStep; split <;> rfl
@[simp] theorem Core.retireTo_stepping (c : Core) (pc : Word) : (c.retireTo pc).stepping = false := by
  unfold Core.retireTo Core.settleStep; split <;> rfl
@[simp] theorem Core.retireTo_haltReq (c : Core) (pc : Word) : (c.retireTo pc).haltReq = c.haltReq := by
  unfold Core.retireTo Core.settleStep; split <;> rfl
@[simp] theorem Core.retireTo_preemptReq (c : Core) (pc : Word) : (c.retireTo pc).preemptReq = c.preemptReq := by
  unfold Core.retireTo Core.settleStep; split <;> rfl
@[simp] theorem Core.retireTo_pc (c : Core) (pc : Word) : (c.retireTo pc).pc = pc := by
  unfold Core.retireTo Core.settleStep; split <;> rfl
@[simp] theorem Core.retireTo_regs (c : Core) (pc : Word) : (c.retireTo pc).regs = c.regs := by
  unfold Core.retireTo Core.settleStep; split <;> rfl
@[simp] theorem Core.retireTo_status (c : Core) (pc : Word) : (c.retireTo pc).status = c.status := by
  unfold Core.retireTo Core.settleStep; split <;> rfl
@[simp] theorem Core.retireTo_trap (c : Core) (pc : Word) : (c.retireTo pc).trap = c.trap := by
  unfold Core.retireTo Core.settleStep; split <;> rfl
@[simp] theorem Core.retireTo_fp (c : Core) (pc : Word) : (c.retireTo pc).fp = c.fp := by
  unfold Core.retireTo Core.settleStep; split <;> rfl
@[simp] theorem Core.retireTo_ids (c : Core) (pc : Word) : (c.retireTo pc).ids = c.ids := by
  unfold Core.retireTo Core.settleStep; split <;> rfl
@[simp] theorem Core.retireTo_cnt (c : Core) (pc : Word) : (c.retireTo pc).cnt = c.cnt := by
  unfold Core.retireTo Core.settleStep; split <;> rfl
@[simp] theorem Core.retireTo_outst (c : Core) (pc : Word) : (c.retireTo pc).outst = c.outst := by
  unfold Core.retireTo Core.settleStep; split <;> rfl
@[simp] theorem Core.retireTo_ls (c : Core) (pc : Word) : (c.retireTo pc).ls = c.ls := by
  unfold Core.retireTo Core.settleStep; split <;> rfl
@[simp] theorem Core.retireTo_bad (c : Core) (pc : Word) : (c.retireTo pc).bad = c.bad := by
  unfold Core.retireTo Core.settleStep; split <;> rfl
@[simp] theorem Core.retireTo_badRegs (c : Core) (pc : Word) : (c.retireTo pc).badRegs = c.badRegs := by
  unfold Core.retireTo Core.settleStep; split <;> rfl
@[simp] theorem Core.retireTo_stale (c : Core) (pc : Word) : (c.retireTo pc).stale = c.stale := by
  unfold Core.retireTo Core.settleStep; split <;> rfl
@[simp] theorem Core.retireTo_ir (c : Core) (pc : Word) : (c.retireTo pc).ir = none := by
  unfold Core.retireTo Core.settleStep; split <;> rfl
@[simp] theorem Core.retireTo_cycOff (c : Core) (pc : Word) : (c.retireTo pc).cycOff = c.cycOff := by
  unfold Core.retireTo Core.settleStep; split <;> rfl
@[simp] theorem Core.retireTo_instret (c : Core) (pc : Word) : (c.retireTo pc).instret = c.instret + 1 := by
  unfold Core.retireTo Core.settleStep; split <;> rfl
@[simp] theorem Core.retireTo_latch (c : Core) (pc : Word) : (c.retireTo pc).latch = c.latch := by
  unfold Core.retireTo Core.settleStep; split <;> rfl
@[simp] theorem Core.retireTo_shadow (c : Core) (pc : Word) : (c.retireTo pc).shadow = c.shadow := by
  unfold Core.retireTo Core.settleStep; split <;> rfl
@[simp] theorem Core.retireTo_hres (c : Core) (pc : Word) : (c.retireTo pc).hres = c.hres := by
  unfold Core.retireTo Core.settleStep; split <;> rfl
@[simp] theorem Core.retireTo_yleft (c : Core) (pc : Word) : (c.retireTo pc).yleft = c.yleft := by
  unfold Core.retireTo Core.settleStep; split <;> rfl
@[simp] theorem Core.retireTo_vec (c : Core) (pc : Word) : (c.retireTo pc).vec = c.vec := by
  unfold Core.retireTo Core.settleStep; split <;> rfl
@[simp] theorem Core.retireTo_tile (c : Core) (pc : Word) : (c.retireTo pc).tile = c.tile := by
  unfold Core.retireTo Core.settleStep; split <;> rfl
@[simp] theorem Core.retireTo_copy (c : Core) (pc : Word) : (c.retireTo pc).copy = c.copy := by
  unfold Core.retireTo Core.settleStep; split <;> rfl
@[simp] theorem Core.retireTo_applying (c : Core) (pc : Word) : (c.retireTo pc).applying = c.applying := by
  unfold Core.retireTo Core.settleStep; split <;> rfl
@[simp] theorem Core.retireTo_inbox (c : Core) (pc : Word) : (c.retireTo pc).inbox = c.inbox := by
  unfold Core.retireTo Core.settleStep; split <;> rfl
@[simp] theorem Core.retireTo_bars (c : Core) (pc : Word) : (c.retireTo pc).bars = c.bars := by
  unfold Core.retireTo Core.settleStep; split <;> rfl
@[simp] theorem Core.retireTo_afault (c : Core) (pc : Word) : (c.retireTo pc).afault = c.afault := by
  unfold Core.retireTo Core.settleStep; split <;> rfl
@[simp] theorem Core.retireTo_afpc (c : Core) (pc : Word) : (c.retireTo pc).afpc = c.afpc := by
  unfold Core.retireTo Core.settleStep; split <;> rfl
@[simp] theorem Core.retireTo_afaddr (c : Core) (pc : Word) : (c.retireTo pc).afaddr = c.afaddr := by
  unfold Core.retireTo Core.settleStep; split <;> rfl
@[simp] theorem Core.retireTo_afFar (c : Core) (pc : Word) : (c.retireTo pc).afFar = c.afFar := by
  unfold Core.retireTo Core.settleStep; split <;> rfl
@[simp] theorem Core.retireTo_wl (c : Core) (pc : Word) : (c.retireTo pc).wl = c.wl := by
  unfold Core.retireTo Core.settleStep; split <;> rfl
@[simp] theorem Core.retireTo_snd (c : Core) (pc : Word) : (c.retireTo pc).snd = c.snd := by
  unfold Core.retireTo Core.settleStep; split <;> rfl
@[simp] theorem Core.retireTo_sce (c : Core) (pc : Word) : (c.retireTo pc).sce = c.sce := by
  unfold Core.retireTo Core.settleStep; split <;> rfl
@[simp] theorem Core.retireTo_trans (c : Core) (pc : Word) :
    (c.retireTo pc).trans = { c.trans with i := c.trans.i + 1 } := by
  unfold Core.retireTo Core.settleStep; split <;> rfl
@[simp] theorem Core.retireTo_bound (c : Core) (pc : Word) : (c.retireTo pc).bound = c.bound := by
  unfold Core.retireTo Core.settleStep; split <;> rfl
@[simp] theorem Core.retireTo_hubWait (c : Core) (pc : Word) : (c.retireTo pc).hubWait = c.hubWait := by
  unfold Core.retireTo Core.settleStep; split <;> rfl
@[simp] theorem Core.retireTo_entering (c : Core) (pc : Word) : (c.retireTo pc).entering = c.entering := by
  unfold Core.retireTo Core.settleStep; split <;> rfl
@[simp] theorem Core.retireTo_lastLoad (c : Core) (pc : Word) : (c.retireTo pc).lastLoad = c.lastLoad := by
  unfold Core.retireTo Core.settleStep; split <;> rfl
@[simp] theorem Core.retireTo_wdAcc (c : Core) (pc : Word) : (c.retireTo pc).wdAcc = c.wdAcc := by
  unfold Core.retireTo Core.settleStep; split <;> rfl
@[simp] theorem Core.retireTo_wdFrom (c : Core) (pc : Word) : (c.retireTo pc).wdFrom = c.wdFrom := by
  unfold Core.retireTo Core.settleStep; split <;> rfl
@[simp] theorem Core.retireTo_wdFired (c : Core) (pc : Word) : (c.retireTo pc).wdFired = c.wdFired := by
  unfold Core.retireTo Core.settleStep; split <;> rfl

@[simp] theorem Core.enter_run (c : Core) (cause : Nat) (v epc : Word) : (c.enter cause v epc).run = .run := rfl
@[simp] theorem Core.enter_halted (c : Core) (cause : Nat) (v epc : Word) :
    (c.enter cause v epc).halted = c.halted := rfl
@[simp] theorem Core.enter_stepping (c : Core) (cause : Nat) (v epc : Word) :
    (c.enter cause v epc).stepping = c.stepping := rfl
@[simp] theorem Core.enter_haltReq (c : Core) (cause : Nat) (v epc : Word) :
    (c.enter cause v epc).haltReq = c.haltReq := rfl
@[simp] theorem Core.enter_preemptReq (c : Core) (cause : Nat) (v epc : Word) :
    (c.enter cause v epc).preemptReq = c.preemptReq := rfl
@[simp] theorem Core.enter_pc (c : Core) (cause : Nat) (v epc : Word) : (c.enter cause v epc).pc = c.trap.tvec := rfl
@[simp] theorem Core.enter_regs (c : Core) (cause : Nat) (v epc : Word) : (c.enter cause v epc).regs = c.regs := rfl
@[simp] theorem Core.enter_status (c : Core) (cause : Nat) (v epc : Word) :
    (c.enter cause v epc).status = { c.status with
      pl := .kernel, ppl := c.status.pl == .kernel, pie := c.status.ie, ie := false } := rfl
@[simp] theorem Core.enter_trap (c : Core) (cause : Nat) (v epc : Word) :
    (c.enter cause v epc).trap = { c.trap with epc := epc, cause := BitVec.ofNat 64 cause, tval := v } := rfl
@[simp] theorem Core.enter_fp (c : Core) (cause : Nat) (v epc : Word) : (c.enter cause v epc).fp = c.fp := rfl
@[simp] theorem Core.enter_ids (c : Core) (cause : Nat) (v epc : Word) : (c.enter cause v epc).ids = c.ids := rfl
@[simp] theorem Core.enter_cnt (c : Core) (cause : Nat) (v epc : Word) : (c.enter cause v epc).cnt = c.cnt := rfl
@[simp] theorem Core.enter_outst (c : Core) (cause : Nat) (v epc : Word) :
    (c.enter cause v epc).outst = c.outst := rfl
@[simp] theorem Core.enter_ls (c : Core) (cause : Nat) (v epc : Word) : (c.enter cause v epc).ls = c.ls := rfl
@[simp] theorem Core.enter_bad (c : Core) (cause : Nat) (v epc : Word) : (c.enter cause v epc).bad = c.bad := rfl
@[simp] theorem Core.enter_badRegs (c : Core) (cause : Nat) (v epc : Word) :
    (c.enter cause v epc).badRegs = c.badRegs := rfl
@[simp] theorem Core.enter_stale (c : Core) (cause : Nat) (v epc : Word) :
    (c.enter cause v epc).stale = c.stale := rfl
@[simp] theorem Core.enter_ir (c : Core) (cause : Nat) (v epc : Word) : (c.enter cause v epc).ir = none := rfl
@[simp] theorem Core.enter_cycOff (c : Core) (cause : Nat) (v epc : Word) :
    (c.enter cause v epc).cycOff = c.cycOff := rfl
@[simp] theorem Core.enter_instret (c : Core) (cause : Nat) (v epc : Word) :
    (c.enter cause v epc).instret = c.instret := rfl
@[simp] theorem Core.enter_latch (c : Core) (cause : Nat) (v epc : Word) :
    (c.enter cause v epc).latch = c.latch := rfl
@[simp] theorem Core.enter_shadow (c : Core) (cause : Nat) (v epc : Word) :
    (c.enter cause v epc).shadow = c.shadow := rfl
@[simp] theorem Core.enter_hres (c : Core) (cause : Nat) (v epc : Word) : (c.enter cause v epc).hres = c.hres := rfl
@[simp] theorem Core.enter_yleft (c : Core) (cause : Nat) (v epc : Word) :
    (c.enter cause v epc).yleft = if c.status.hnd then c.yleft else none := rfl
@[simp] theorem Core.enter_vec (c : Core) (cause : Nat) (v epc : Word) : (c.enter cause v epc).vec = c.vec := rfl
@[simp] theorem Core.enter_tile (c : Core) (cause : Nat) (v epc : Word) : (c.enter cause v epc).tile = c.tile := rfl
@[simp] theorem Core.enter_copy (c : Core) (cause : Nat) (v epc : Word) : (c.enter cause v epc).copy = c.copy := rfl
@[simp] theorem Core.enter_applying (c : Core) (cause : Nat) (v epc : Word) :
    (c.enter cause v epc).applying = c.applying := rfl
@[simp] theorem Core.enter_inbox (c : Core) (cause : Nat) (v epc : Word) :
    (c.enter cause v epc).inbox = c.inbox := rfl
@[simp] theorem Core.enter_bars (c : Core) (cause : Nat) (v epc : Word) : (c.enter cause v epc).bars = c.bars := rfl
@[simp] theorem Core.enter_afault (c : Core) (cause : Nat) (v epc : Word) :
    (c.enter cause v epc).afault = c.afault := rfl
@[simp] theorem Core.enter_afpc (c : Core) (cause : Nat) (v epc : Word) : (c.enter cause v epc).afpc = c.afpc := rfl
@[simp] theorem Core.enter_afaddr (c : Core) (cause : Nat) (v epc : Word) :
    (c.enter cause v epc).afaddr = c.afaddr := rfl
@[simp] theorem Core.enter_afFar (c : Core) (cause : Nat) (v epc : Word) :
    (c.enter cause v epc).afFar = c.afFar := rfl
@[simp] theorem Core.enter_wl (c : Core) (cause : Nat) (v epc : Word) : (c.enter cause v epc).wl = c.wl := rfl
@[simp] theorem Core.enter_snd (c : Core) (cause : Nat) (v epc : Word) : (c.enter cause v epc).snd = c.snd := rfl
@[simp] theorem Core.enter_sce (c : Core) (cause : Nat) (v epc : Word) : (c.enter cause v epc).sce = c.sce := rfl
@[simp] theorem Core.enter_trans (c : Core) (cause : Nat) (v epc : Word) :
    (c.enter cause v epc).trans = c.trans := rfl
@[simp] theorem Core.enter_bound (c : Core) (cause : Nat) (v epc : Word) :
    (c.enter cause v epc).bound = c.bound := rfl
@[simp] theorem Core.enter_hubWait (c : Core) (cause : Nat) (v epc : Word) :
    (c.enter cause v epc).hubWait = c.hubWait := rfl
@[simp] theorem Core.enter_entering (c : Core) (cause : Nat) (v epc : Word) :
    (c.enter cause v epc).entering = true := rfl
@[simp] theorem Core.enter_lastLoad (c : Core) (cause : Nat) (v epc : Word) :
    (c.enter cause v epc).lastLoad = c.lastLoad := rfl
@[simp] theorem Core.enter_wdAcc (c : Core) (cause : Nat) (v epc : Word) :
    (c.enter cause v epc).wdAcc = c.wdAcc := rfl
@[simp] theorem Core.enter_wdFrom (c : Core) (cause : Nat) (v epc : Word) :
    (c.enter cause v epc).wdFrom = c.wdFrom := rfl
@[simp] theorem Core.enter_wdFired (c : Core) (cause : Nat) (v epc : Word) :
    (c.enter cause v epc).wdFired = c.wdFired := rfl

@[simp] theorem Core.restore_run (c : Core) : c.restore.run = c.run := rfl
@[simp] theorem Core.restore_halted (c : Core) : c.restore.halted = c.halted := rfl
@[simp] theorem Core.restore_stepping (c : Core) : c.restore.stepping = c.stepping := rfl
@[simp] theorem Core.restore_haltReq (c : Core) : c.restore.haltReq = c.haltReq := rfl
@[simp] theorem Core.restore_preemptReq (c : Core) : c.restore.preemptReq = c.preemptReq := rfl
@[simp] theorem Core.restore_pc (c : Core) : c.restore.pc = c.trap.epc := rfl
@[simp] theorem Core.restore_regs (c : Core) : c.restore.regs = c.regs := rfl
@[simp] theorem Core.restore_status (c : Core) :
    c.restore.status = { c.status with pl := if c.status.ppl then .kernel else .user, ie := c.status.pie } := rfl
@[simp] theorem Core.restore_trap (c : Core) : c.restore.trap = c.trap := rfl
@[simp] theorem Core.restore_fp (c : Core) : c.restore.fp = c.fp := rfl
@[simp] theorem Core.restore_ids (c : Core) : c.restore.ids = c.ids := rfl
@[simp] theorem Core.restore_cnt (c : Core) : c.restore.cnt = c.cnt := rfl
@[simp] theorem Core.restore_outst (c : Core) : c.restore.outst = c.outst := rfl
@[simp] theorem Core.restore_ls (c : Core) : c.restore.ls = c.ls := rfl
@[simp] theorem Core.restore_bad (c : Core) : c.restore.bad = c.bad := rfl
@[simp] theorem Core.restore_badRegs (c : Core) : c.restore.badRegs = c.badRegs := rfl
@[simp] theorem Core.restore_stale (c : Core) : c.restore.stale = c.stale := rfl
@[simp] theorem Core.restore_ir (c : Core) : c.restore.ir = c.ir := rfl
@[simp] theorem Core.restore_cycOff (c : Core) : c.restore.cycOff = c.cycOff := rfl
@[simp] theorem Core.restore_instret (c : Core) : c.restore.instret = c.instret := rfl
@[simp] theorem Core.restore_latch (c : Core) : c.restore.latch = c.latch := rfl
@[simp] theorem Core.restore_shadow (c : Core) : c.restore.shadow = c.shadow := rfl
@[simp] theorem Core.restore_hres (c : Core) : c.restore.hres = c.hres := rfl
@[simp] theorem Core.restore_yleft (c : Core) : c.restore.yleft = c.yleft := rfl
@[simp] theorem Core.restore_vec (c : Core) : c.restore.vec = c.vec := rfl
@[simp] theorem Core.restore_tile (c : Core) : c.restore.tile = c.tile := rfl
@[simp] theorem Core.restore_copy (c : Core) : c.restore.copy = c.copy := rfl
@[simp] theorem Core.restore_applying (c : Core) : c.restore.applying = c.applying := rfl
@[simp] theorem Core.restore_inbox (c : Core) : c.restore.inbox = c.inbox := rfl
@[simp] theorem Core.restore_bars (c : Core) : c.restore.bars = c.bars := rfl
@[simp] theorem Core.restore_afault (c : Core) : c.restore.afault = c.afault := rfl
@[simp] theorem Core.restore_afpc (c : Core) : c.restore.afpc = c.afpc := rfl
@[simp] theorem Core.restore_afaddr (c : Core) : c.restore.afaddr = c.afaddr := rfl
@[simp] theorem Core.restore_afFar (c : Core) : c.restore.afFar = c.afFar := rfl
@[simp] theorem Core.restore_wl (c : Core) : c.restore.wl = c.wl := rfl
@[simp] theorem Core.restore_snd (c : Core) : c.restore.snd = c.snd := rfl
@[simp] theorem Core.restore_sce (c : Core) : c.restore.sce = c.sce := rfl
@[simp] theorem Core.restore_trans (c : Core) : c.restore.trans = c.trans := rfl
@[simp] theorem Core.restore_bound (c : Core) : c.restore.bound = c.bound := rfl
@[simp] theorem Core.restore_hubWait (c : Core) : c.restore.hubWait = c.hubWait := rfl
@[simp] theorem Core.restore_entering (c : Core) : c.restore.entering = c.entering := rfl
@[simp] theorem Core.restore_lastLoad (c : Core) : c.restore.lastLoad = c.lastLoad := rfl
@[simp] theorem Core.restore_wdAcc (c : Core) : c.restore.wdAcc = c.wdAcc := rfl
@[simp] theorem Core.restore_wdFrom (c : Core) : c.restore.wdFrom = c.wdFrom := rfl
@[simp] theorem Core.restore_wdFired (c : Core) : c.restore.wdFired = c.wdFired := rfl

@[simp] theorem Core.pend_run (c : Core) (i : Fin 6) : (c.pend i).run = c.run := rfl
@[simp] theorem Core.pend_halted (c : Core) (i : Fin 6) : (c.pend i).halted = c.halted := rfl
@[simp] theorem Core.pend_stepping (c : Core) (i : Fin 6) : (c.pend i).stepping = c.stepping := rfl
@[simp] theorem Core.pend_haltReq (c : Core) (i : Fin 6) : (c.pend i).haltReq = c.haltReq := rfl
@[simp] theorem Core.pend_preemptReq (c : Core) (i : Fin 6) : (c.pend i).preemptReq = c.preemptReq := rfl
@[simp] theorem Core.pend_pc (c : Core) (i : Fin 6) : (c.pend i).pc = c.pc := rfl
@[simp] theorem Core.pend_regs (c : Core) (i : Fin 6) : (c.pend i).regs = c.regs := rfl
@[simp] theorem Core.pend_status (c : Core) (i : Fin 6) : (c.pend i).status = c.status := rfl
@[simp] theorem Core.pend_trap (c : Core) (i : Fin 6) :
    (c.pend i).trap = { c.trap with ipend := c.trap.ipend ||| bit6 i } := rfl
@[simp] theorem Core.pend_fp (c : Core) (i : Fin 6) : (c.pend i).fp = c.fp := rfl
@[simp] theorem Core.pend_ids (c : Core) (i : Fin 6) : (c.pend i).ids = c.ids := rfl
@[simp] theorem Core.pend_cnt (c : Core) (i : Fin 6) : (c.pend i).cnt = c.cnt := rfl
@[simp] theorem Core.pend_outst (c : Core) (i : Fin 6) : (c.pend i).outst = c.outst := rfl
@[simp] theorem Core.pend_ls (c : Core) (i : Fin 6) : (c.pend i).ls = c.ls := rfl
@[simp] theorem Core.pend_bad (c : Core) (i : Fin 6) : (c.pend i).bad = c.bad := rfl
@[simp] theorem Core.pend_badRegs (c : Core) (i : Fin 6) : (c.pend i).badRegs = c.badRegs := rfl
@[simp] theorem Core.pend_stale (c : Core) (i : Fin 6) : (c.pend i).stale = c.stale := rfl
@[simp] theorem Core.pend_ir (c : Core) (i : Fin 6) : (c.pend i).ir = c.ir := rfl
@[simp] theorem Core.pend_cycOff (c : Core) (i : Fin 6) : (c.pend i).cycOff = c.cycOff := rfl
@[simp] theorem Core.pend_instret (c : Core) (i : Fin 6) : (c.pend i).instret = c.instret := rfl
@[simp] theorem Core.pend_latch (c : Core) (i : Fin 6) :
    (c.pend i).latch = (c.latch || c.trap.ipend &&& bit6 i == 0) := rfl
@[simp] theorem Core.pend_shadow (c : Core) (i : Fin 6) : (c.pend i).shadow = c.shadow := rfl
@[simp] theorem Core.pend_hres (c : Core) (i : Fin 6) : (c.pend i).hres = c.hres := rfl
@[simp] theorem Core.pend_yleft (c : Core) (i : Fin 6) : (c.pend i).yleft = c.yleft := rfl
@[simp] theorem Core.pend_vec (c : Core) (i : Fin 6) : (c.pend i).vec = c.vec := rfl
@[simp] theorem Core.pend_tile (c : Core) (i : Fin 6) : (c.pend i).tile = c.tile := rfl
@[simp] theorem Core.pend_copy (c : Core) (i : Fin 6) : (c.pend i).copy = c.copy := rfl
@[simp] theorem Core.pend_applying (c : Core) (i : Fin 6) : (c.pend i).applying = c.applying := rfl
@[simp] theorem Core.pend_inbox (c : Core) (i : Fin 6) : (c.pend i).inbox = c.inbox := rfl
@[simp] theorem Core.pend_bars (c : Core) (i : Fin 6) : (c.pend i).bars = c.bars := rfl
@[simp] theorem Core.pend_afault (c : Core) (i : Fin 6) : (c.pend i).afault = c.afault := rfl
@[simp] theorem Core.pend_afpc (c : Core) (i : Fin 6) : (c.pend i).afpc = c.afpc := rfl
@[simp] theorem Core.pend_afaddr (c : Core) (i : Fin 6) : (c.pend i).afaddr = c.afaddr := rfl
@[simp] theorem Core.pend_afFar (c : Core) (i : Fin 6) : (c.pend i).afFar = c.afFar := rfl
@[simp] theorem Core.pend_wl (c : Core) (i : Fin 6) : (c.pend i).wl = c.wl := rfl
@[simp] theorem Core.pend_snd (c : Core) (i : Fin 6) : (c.pend i).snd = c.snd := rfl
@[simp] theorem Core.pend_sce (c : Core) (i : Fin 6) : (c.pend i).sce = c.sce := rfl
@[simp] theorem Core.pend_trans (c : Core) (i : Fin 6) : (c.pend i).trans = c.trans := rfl
@[simp] theorem Core.pend_bound (c : Core) (i : Fin 6) : (c.pend i).bound = c.bound := rfl
@[simp] theorem Core.pend_hubWait (c : Core) (i : Fin 6) : (c.pend i).hubWait = c.hubWait := rfl
@[simp] theorem Core.pend_entering (c : Core) (i : Fin 6) : (c.pend i).entering = c.entering := rfl
@[simp] theorem Core.pend_lastLoad (c : Core) (i : Fin 6) : (c.pend i).lastLoad = c.lastLoad := rfl
@[simp] theorem Core.pend_wdAcc (c : Core) (i : Fin 6) : (c.pend i).wdAcc = c.wdAcc := rfl
@[simp] theorem Core.pend_wdFrom (c : Core) (i : Fin 6) : (c.pend i).wdFrom = c.wdFrom := rfl
@[simp] theorem Core.pend_wdFired (c : Core) (i : Fin 6) : (c.pend i).wdFired = c.wdFired := rfl

/-! ## Operations that end -/

@[simp] theorem Core.noteFailure_run (c : Core) (x : Failure) : (c.noteFailure x).run = c.run := by
  unfold Core.noteFailure; split <;> rfl
@[simp] theorem Core.noteFailure_halted (c : Core) (x : Failure) : (c.noteFailure x).halted = c.halted := by
  unfold Core.noteFailure; split <;> rfl
@[simp] theorem Core.noteFailure_stepping (c : Core) (x : Failure) : (c.noteFailure x).stepping = c.stepping := by
  unfold Core.noteFailure; split <;> rfl
@[simp] theorem Core.noteFailure_haltReq (c : Core) (x : Failure) : (c.noteFailure x).haltReq = c.haltReq := by
  unfold Core.noteFailure; split <;> rfl
@[simp] theorem Core.noteFailure_preemptReq (c : Core) (x : Failure) :
    (c.noteFailure x).preemptReq = c.preemptReq := by
  unfold Core.noteFailure; split <;> rfl
@[simp] theorem Core.noteFailure_pc (c : Core) (x : Failure) : (c.noteFailure x).pc = c.pc := by
  unfold Core.noteFailure; split <;> rfl
@[simp] theorem Core.noteFailure_regs (c : Core) (x : Failure) : (c.noteFailure x).regs = c.regs := by
  unfold Core.noteFailure; split <;> rfl
@[simp] theorem Core.noteFailure_status (c : Core) (x : Failure) : (c.noteFailure x).status = c.status := by
  unfold Core.noteFailure; split <;> rfl
@[simp] theorem Core.noteFailure_trap (c : Core) (x : Failure) : (c.noteFailure x).trap = c.trap := by
  unfold Core.noteFailure; split <;> rfl
@[simp] theorem Core.noteFailure_fp (c : Core) (x : Failure) : (c.noteFailure x).fp = c.fp := by
  unfold Core.noteFailure; split <;> rfl
@[simp] theorem Core.noteFailure_ids (c : Core) (x : Failure) : (c.noteFailure x).ids = c.ids := by
  unfold Core.noteFailure; split <;> rfl
@[simp] theorem Core.noteFailure_cnt (c : Core) (x : Failure) : (c.noteFailure x).cnt = c.cnt := by
  unfold Core.noteFailure; split <;> rfl
@[simp] theorem Core.noteFailure_outst (c : Core) (x : Failure) : (c.noteFailure x).outst = c.outst := by
  unfold Core.noteFailure; split <;> rfl
@[simp] theorem Core.noteFailure_ls (c : Core) (x : Failure) : (c.noteFailure x).ls = c.ls := by
  unfold Core.noteFailure; split <;> rfl
@[simp] theorem Core.noteFailure_bad (c : Core) (x : Failure) : (c.noteFailure x).bad = c.bad := by
  unfold Core.noteFailure; split <;> rfl
@[simp] theorem Core.noteFailure_badRegs (c : Core) (x : Failure) : (c.noteFailure x).badRegs = c.badRegs := by
  unfold Core.noteFailure; split <;> rfl
@[simp] theorem Core.noteFailure_stale (c : Core) (x : Failure) : (c.noteFailure x).stale = c.stale := by
  unfold Core.noteFailure; split <;> rfl
@[simp] theorem Core.noteFailure_ir (c : Core) (x : Failure) : (c.noteFailure x).ir = c.ir := by
  unfold Core.noteFailure; split <;> rfl
@[simp] theorem Core.noteFailure_cycOff (c : Core) (x : Failure) : (c.noteFailure x).cycOff = c.cycOff := by
  unfold Core.noteFailure; split <;> rfl
@[simp] theorem Core.noteFailure_instret (c : Core) (x : Failure) : (c.noteFailure x).instret = c.instret := by
  unfold Core.noteFailure; split <;> rfl
@[simp] theorem Core.noteFailure_latch (c : Core) (x : Failure) : (c.noteFailure x).latch = c.latch := by
  unfold Core.noteFailure; split <;> rfl
@[simp] theorem Core.noteFailure_shadow (c : Core) (x : Failure) : (c.noteFailure x).shadow = c.shadow := by
  unfold Core.noteFailure; split <;> rfl
@[simp] theorem Core.noteFailure_hres (c : Core) (x : Failure) : (c.noteFailure x).hres = c.hres := by
  unfold Core.noteFailure; split <;> rfl
@[simp] theorem Core.noteFailure_yleft (c : Core) (x : Failure) : (c.noteFailure x).yleft = c.yleft := by
  unfold Core.noteFailure; split <;> rfl
@[simp] theorem Core.noteFailure_vec (c : Core) (x : Failure) : (c.noteFailure x).vec = c.vec := by
  unfold Core.noteFailure; split <;> rfl
@[simp] theorem Core.noteFailure_tile (c : Core) (x : Failure) : (c.noteFailure x).tile = c.tile := by
  unfold Core.noteFailure; split <;> rfl
@[simp] theorem Core.noteFailure_copy (c : Core) (x : Failure) : (c.noteFailure x).copy = c.copy := by
  unfold Core.noteFailure; split <;> rfl
@[simp] theorem Core.noteFailure_applying (c : Core) (x : Failure) : (c.noteFailure x).applying = c.applying := by
  unfold Core.noteFailure; split <;> rfl
@[simp] theorem Core.noteFailure_inbox (c : Core) (x : Failure) : (c.noteFailure x).inbox = c.inbox := by
  unfold Core.noteFailure; split <;> rfl
@[simp] theorem Core.noteFailure_bars (c : Core) (x : Failure) : (c.noteFailure x).bars = c.bars := by
  unfold Core.noteFailure; split <;> rfl
@[simp] theorem Core.noteFailure_wl (c : Core) (x : Failure) : (c.noteFailure x).wl = c.wl := by
  unfold Core.noteFailure; split <;> rfl
@[simp] theorem Core.noteFailure_snd (c : Core) (x : Failure) : (c.noteFailure x).snd = c.snd := by
  unfold Core.noteFailure; split <;> rfl
@[simp] theorem Core.noteFailure_sce (c : Core) (x : Failure) : (c.noteFailure x).sce = c.sce := by
  unfold Core.noteFailure; split <;> rfl
@[simp] theorem Core.noteFailure_trans (c : Core) (x : Failure) : (c.noteFailure x).trans = c.trans := by
  unfold Core.noteFailure; split <;> rfl
@[simp] theorem Core.noteFailure_bound (c : Core) (x : Failure) : (c.noteFailure x).bound = c.bound := by
  unfold Core.noteFailure; split <;> rfl
@[simp] theorem Core.noteFailure_hubWait (c : Core) (x : Failure) : (c.noteFailure x).hubWait = c.hubWait := by
  unfold Core.noteFailure; split <;> rfl
@[simp] theorem Core.noteFailure_entering (c : Core) (x : Failure) : (c.noteFailure x).entering = c.entering := by
  unfold Core.noteFailure; split <;> rfl
@[simp] theorem Core.noteFailure_lastLoad (c : Core) (x : Failure) : (c.noteFailure x).lastLoad = c.lastLoad := by
  unfold Core.noteFailure; split <;> rfl
@[simp] theorem Core.noteFailure_wdAcc (c : Core) (x : Failure) : (c.noteFailure x).wdAcc = c.wdAcc := by
  unfold Core.noteFailure; split <;> rfl
@[simp] theorem Core.noteFailure_wdFrom (c : Core) (x : Failure) : (c.noteFailure x).wdFrom = c.wdFrom := by
  unfold Core.noteFailure; split <;> rfl
@[simp] theorem Core.noteFailure_wdFired (c : Core) (x : Failure) : (c.noteFailure x).wdFired = c.wdFired := by
  unfold Core.noteFailure; split <;> rfl

@[simp] theorem Core.recordFailure_run (c : Core) (x : Failure) : (c.recordFailure x).run = c.run := by
  simp only [Core.recordFailure]; split <;> simp
@[simp] theorem Core.recordFailure_halted (c : Core) (x : Failure) : (c.recordFailure x).halted = c.halted := by
  simp only [Core.recordFailure]; split <;> simp
@[simp] theorem Core.recordFailure_stepping (c : Core) (x : Failure) : (c.recordFailure x).stepping = c.stepping := by
  simp only [Core.recordFailure]; split <;> simp
@[simp] theorem Core.recordFailure_haltReq (c : Core) (x : Failure) : (c.recordFailure x).haltReq = c.haltReq := by
  simp only [Core.recordFailure]; split <;> simp
@[simp] theorem Core.recordFailure_preemptReq (c : Core) (x : Failure) :
    (c.recordFailure x).preemptReq = c.preemptReq := by
  simp only [Core.recordFailure]; split <;> simp
@[simp] theorem Core.recordFailure_pc (c : Core) (x : Failure) : (c.recordFailure x).pc = c.pc := by
  simp only [Core.recordFailure]; split <;> simp
@[simp] theorem Core.recordFailure_regs (c : Core) (x : Failure) : (c.recordFailure x).regs = c.regs := by
  simp only [Core.recordFailure]; split <;> simp
@[simp] theorem Core.recordFailure_status (c : Core) (x : Failure) : (c.recordFailure x).status = c.status := by
  simp only [Core.recordFailure]; split <;> simp
@[simp] theorem Core.recordFailure_trap (c : Core) (x : Failure) : (c.recordFailure x).trap = c.trap := by
  simp only [Core.recordFailure]; split <;> simp
@[simp] theorem Core.recordFailure_fp (c : Core) (x : Failure) : (c.recordFailure x).fp = c.fp := by
  simp only [Core.recordFailure]; split <;> simp
@[simp] theorem Core.recordFailure_ids (c : Core) (x : Failure) : (c.recordFailure x).ids = c.ids := by
  simp only [Core.recordFailure]; split <;> simp
@[simp] theorem Core.recordFailure_cnt (c : Core) (x : Failure) : (c.recordFailure x).cnt = c.cnt := by
  simp only [Core.recordFailure]; split <;> simp
@[simp] theorem Core.recordFailure_outst (c : Core) (x : Failure) : (c.recordFailure x).outst = c.outst := by
  simp only [Core.recordFailure]; split <;> simp
@[simp] theorem Core.recordFailure_ls (c : Core) (x : Failure) : (c.recordFailure x).ls = c.ls := by
  simp only [Core.recordFailure]; split <;> simp
@[simp] theorem Core.recordFailure_bad (c : Core) (x : Failure) : (c.recordFailure x).bad = c.bad := by
  simp only [Core.recordFailure]; split <;> simp
@[simp] theorem Core.recordFailure_badRegs (c : Core) (x : Failure) : (c.recordFailure x).badRegs = c.badRegs := by
  simp only [Core.recordFailure]; split <;> simp
@[simp] theorem Core.recordFailure_stale (c : Core) (x : Failure) : (c.recordFailure x).stale = c.stale := by
  simp only [Core.recordFailure]; split <;> simp
@[simp] theorem Core.recordFailure_ir (c : Core) (x : Failure) : (c.recordFailure x).ir = c.ir := by
  simp only [Core.recordFailure]; split <;> simp
@[simp] theorem Core.recordFailure_cycOff (c : Core) (x : Failure) : (c.recordFailure x).cycOff = c.cycOff := by
  simp only [Core.recordFailure]; split <;> simp
@[simp] theorem Core.recordFailure_instret (c : Core) (x : Failure) : (c.recordFailure x).instret = c.instret := by
  simp only [Core.recordFailure]; split <;> simp
@[simp] theorem Core.recordFailure_latch (c : Core) (x : Failure) : (c.recordFailure x).latch = c.latch := by
  simp only [Core.recordFailure]; split <;> simp
@[simp] theorem Core.recordFailure_shadow (c : Core) (x : Failure) : (c.recordFailure x).shadow = c.shadow := by
  simp only [Core.recordFailure]; split <;> simp
@[simp] theorem Core.recordFailure_hres (c : Core) (x : Failure) : (c.recordFailure x).hres = c.hres := by
  simp only [Core.recordFailure]; split <;> simp
@[simp] theorem Core.recordFailure_yleft (c : Core) (x : Failure) : (c.recordFailure x).yleft = c.yleft := by
  simp only [Core.recordFailure]; split <;> simp
@[simp] theorem Core.recordFailure_vec (c : Core) (x : Failure) : (c.recordFailure x).vec = c.vec := by
  simp only [Core.recordFailure]; split <;> simp
@[simp] theorem Core.recordFailure_tile (c : Core) (x : Failure) : (c.recordFailure x).tile = c.tile := by
  simp only [Core.recordFailure]; split <;> simp
@[simp] theorem Core.recordFailure_copy (c : Core) (x : Failure) : (c.recordFailure x).copy = c.copy := by
  simp only [Core.recordFailure]; split <;> simp
@[simp] theorem Core.recordFailure_applying (c : Core) (x : Failure) : (c.recordFailure x).applying = c.applying := by
  simp only [Core.recordFailure]; split <;> simp
@[simp] theorem Core.recordFailure_inbox (c : Core) (x : Failure) : (c.recordFailure x).inbox = c.inbox := by
  simp only [Core.recordFailure]; split <;> simp
@[simp] theorem Core.recordFailure_bars (c : Core) (x : Failure) : (c.recordFailure x).bars = c.bars := by
  simp only [Core.recordFailure]; split <;> simp
@[simp] theorem Core.recordFailure_wl (c : Core) (x : Failure) : (c.recordFailure x).wl = c.wl := by
  simp only [Core.recordFailure]; split <;> simp
@[simp] theorem Core.recordFailure_snd (c : Core) (x : Failure) : (c.recordFailure x).snd = c.snd := by
  simp only [Core.recordFailure]; split <;> simp
@[simp] theorem Core.recordFailure_sce (c : Core) (x : Failure) : (c.recordFailure x).sce = c.sce := by
  simp only [Core.recordFailure]; split <;> simp
@[simp] theorem Core.recordFailure_bound (c : Core) (x : Failure) : (c.recordFailure x).bound = c.bound := by
  simp only [Core.recordFailure]; split <;> simp
@[simp] theorem Core.recordFailure_hubWait (c : Core) (x : Failure) : (c.recordFailure x).hubWait = c.hubWait := by
  simp only [Core.recordFailure]; split <;> simp
@[simp] theorem Core.recordFailure_entering (c : Core) (x : Failure) : (c.recordFailure x).entering = c.entering := by
  simp only [Core.recordFailure]; split <;> simp
@[simp] theorem Core.recordFailure_lastLoad (c : Core) (x : Failure) : (c.recordFailure x).lastLoad = c.lastLoad := by
  simp only [Core.recordFailure]; split <;> simp
@[simp] theorem Core.recordFailure_wdAcc (c : Core) (x : Failure) : (c.recordFailure x).wdAcc = c.wdAcc := by
  simp only [Core.recordFailure]; split <;> simp
@[simp] theorem Core.recordFailure_wdFrom (c : Core) (x : Failure) : (c.recordFailure x).wdFrom = c.wdFrom := by
  simp only [Core.recordFailure]; split <;> simp
@[simp] theorem Core.recordFailure_wdFired (c : Core) (x : Failure) : (c.recordFailure x).wdFired = c.wdFired := by
  simp only [Core.recordFailure]; split <;> simp

@[simp] theorem Core.issueOut_run (c : Core) (x : OutOp) : (c.issueOut x).run = c.run := rfl
@[simp] theorem Core.issueOut_halted (c : Core) (x : OutOp) : (c.issueOut x).halted = c.halted := rfl
@[simp] theorem Core.issueOut_stepping (c : Core) (x : OutOp) : (c.issueOut x).stepping = c.stepping := rfl
@[simp] theorem Core.issueOut_haltReq (c : Core) (x : OutOp) : (c.issueOut x).haltReq = c.haltReq := rfl
@[simp] theorem Core.issueOut_preemptReq (c : Core) (x : OutOp) : (c.issueOut x).preemptReq = c.preemptReq := rfl
@[simp] theorem Core.issueOut_pc (c : Core) (x : OutOp) : (c.issueOut x).pc = c.pc := rfl
@[simp] theorem Core.issueOut_regs (c : Core) (x : OutOp) : (c.issueOut x).regs = c.regs := rfl
@[simp] theorem Core.issueOut_status (c : Core) (x : OutOp) : (c.issueOut x).status = c.status := rfl
@[simp] theorem Core.issueOut_trap (c : Core) (x : OutOp) : (c.issueOut x).trap = c.trap := rfl
@[simp] theorem Core.issueOut_fp (c : Core) (x : OutOp) : (c.issueOut x).fp = c.fp := rfl
@[simp] theorem Core.issueOut_ids (c : Core) (x : OutOp) : (c.issueOut x).ids = c.ids := rfl
@[simp] theorem Core.issueOut_outst (c : Core) (x : OutOp) : (c.issueOut x).outst = c.outst ++ [x] := rfl
@[simp] theorem Core.issueOut_ls (c : Core) (x : OutOp) : (c.issueOut x).ls = c.ls := rfl
@[simp] theorem Core.issueOut_bad (c : Core) (x : OutOp) : (c.issueOut x).bad = c.bad := rfl
@[simp] theorem Core.issueOut_badRegs (c : Core) (x : OutOp) : (c.issueOut x).badRegs = c.badRegs := rfl
@[simp] theorem Core.issueOut_stale (c : Core) (x : OutOp) : (c.issueOut x).stale = c.stale := rfl
@[simp] theorem Core.issueOut_ir (c : Core) (x : OutOp) : (c.issueOut x).ir = c.ir := rfl
@[simp] theorem Core.issueOut_cycOff (c : Core) (x : OutOp) : (c.issueOut x).cycOff = c.cycOff := rfl
@[simp] theorem Core.issueOut_instret (c : Core) (x : OutOp) : (c.issueOut x).instret = c.instret := rfl
@[simp] theorem Core.issueOut_latch (c : Core) (x : OutOp) : (c.issueOut x).latch = c.latch := rfl
@[simp] theorem Core.issueOut_shadow (c : Core) (x : OutOp) : (c.issueOut x).shadow = c.shadow := rfl
@[simp] theorem Core.issueOut_hres (c : Core) (x : OutOp) : (c.issueOut x).hres = c.hres := rfl
@[simp] theorem Core.issueOut_yleft (c : Core) (x : OutOp) : (c.issueOut x).yleft = c.yleft := rfl
@[simp] theorem Core.issueOut_vec (c : Core) (x : OutOp) : (c.issueOut x).vec = c.vec := rfl
@[simp] theorem Core.issueOut_tile (c : Core) (x : OutOp) : (c.issueOut x).tile = c.tile := rfl
@[simp] theorem Core.issueOut_copy (c : Core) (x : OutOp) : (c.issueOut x).copy = c.copy := rfl
@[simp] theorem Core.issueOut_applying (c : Core) (x : OutOp) : (c.issueOut x).applying = c.applying := rfl
@[simp] theorem Core.issueOut_inbox (c : Core) (x : OutOp) : (c.issueOut x).inbox = c.inbox := rfl
@[simp] theorem Core.issueOut_bars (c : Core) (x : OutOp) : (c.issueOut x).bars = c.bars := rfl
@[simp] theorem Core.issueOut_afault (c : Core) (x : OutOp) : (c.issueOut x).afault = c.afault := rfl
@[simp] theorem Core.issueOut_afpc (c : Core) (x : OutOp) : (c.issueOut x).afpc = c.afpc := rfl
@[simp] theorem Core.issueOut_afaddr (c : Core) (x : OutOp) : (c.issueOut x).afaddr = c.afaddr := rfl
@[simp] theorem Core.issueOut_afFar (c : Core) (x : OutOp) : (c.issueOut x).afFar = c.afFar := rfl
@[simp] theorem Core.issueOut_wl (c : Core) (x : OutOp) : (c.issueOut x).wl = c.wl := rfl
@[simp] theorem Core.issueOut_snd (c : Core) (x : OutOp) : (c.issueOut x).snd = c.snd := rfl
@[simp] theorem Core.issueOut_sce (c : Core) (x : OutOp) : (c.issueOut x).sce = c.sce := rfl
@[simp] theorem Core.issueOut_trans (c : Core) (x : OutOp) : (c.issueOut x).trans = c.trans := rfl
@[simp] theorem Core.issueOut_bound (c : Core) (x : OutOp) : (c.issueOut x).bound = c.bound := rfl
@[simp] theorem Core.issueOut_hubWait (c : Core) (x : OutOp) : (c.issueOut x).hubWait = c.hubWait := rfl
@[simp] theorem Core.issueOut_entering (c : Core) (x : OutOp) : (c.issueOut x).entering = c.entering := rfl
@[simp] theorem Core.issueOut_lastLoad (c : Core) (x : OutOp) : (c.issueOut x).lastLoad = c.lastLoad := rfl
@[simp] theorem Core.issueOut_wdAcc (c : Core) (x : OutOp) : (c.issueOut x).wdAcc = c.wdAcc := rfl
@[simp] theorem Core.issueOut_wdFrom (c : Core) (x : OutOp) : (c.issueOut x).wdFrom = c.wdFrom := rfl
@[simp] theorem Core.issueOut_wdFired (c : Core) (x : OutOp) : (c.issueOut x).wdFired = c.wdFired := rfl

@[simp] theorem Core.closeOut_run (c : Core) (tag : Nat) : (c.closeOut tag).run = c.run := by
  unfold Core.closeOut; split <;> rfl
@[simp] theorem Core.closeOut_halted (c : Core) (tag : Nat) : (c.closeOut tag).halted = c.halted := by
  unfold Core.closeOut; split <;> rfl
@[simp] theorem Core.closeOut_stepping (c : Core) (tag : Nat) : (c.closeOut tag).stepping = c.stepping := by
  unfold Core.closeOut; split <;> rfl
@[simp] theorem Core.closeOut_haltReq (c : Core) (tag : Nat) : (c.closeOut tag).haltReq = c.haltReq := by
  unfold Core.closeOut; split <;> rfl
@[simp] theorem Core.closeOut_preemptReq (c : Core) (tag : Nat) : (c.closeOut tag).preemptReq = c.preemptReq := by
  unfold Core.closeOut; split <;> rfl
@[simp] theorem Core.closeOut_pc (c : Core) (tag : Nat) : (c.closeOut tag).pc = c.pc := by
  unfold Core.closeOut; split <;> rfl
@[simp] theorem Core.closeOut_regs (c : Core) (tag : Nat) : (c.closeOut tag).regs = c.regs := by
  unfold Core.closeOut; split <;> rfl
@[simp] theorem Core.closeOut_status (c : Core) (tag : Nat) : (c.closeOut tag).status = c.status := by
  unfold Core.closeOut; split <;> rfl
@[simp] theorem Core.closeOut_trap (c : Core) (tag : Nat) : (c.closeOut tag).trap = c.trap := by
  unfold Core.closeOut; split <;> rfl
@[simp] theorem Core.closeOut_fp (c : Core) (tag : Nat) : (c.closeOut tag).fp = c.fp := by
  unfold Core.closeOut; split <;> rfl
@[simp] theorem Core.closeOut_ids (c : Core) (tag : Nat) : (c.closeOut tag).ids = c.ids := by
  unfold Core.closeOut; split <;> rfl
@[simp] theorem Core.closeOut_ls (c : Core) (tag : Nat) : (c.closeOut tag).ls = c.ls := by
  unfold Core.closeOut; split <;> rfl
@[simp] theorem Core.closeOut_bad (c : Core) (tag : Nat) : (c.closeOut tag).bad = c.bad := by
  unfold Core.closeOut; split <;> rfl
@[simp] theorem Core.closeOut_badRegs (c : Core) (tag : Nat) : (c.closeOut tag).badRegs = c.badRegs := by
  unfold Core.closeOut; split <;> rfl
@[simp] theorem Core.closeOut_stale (c : Core) (tag : Nat) : (c.closeOut tag).stale = c.stale := by
  unfold Core.closeOut; split <;> rfl
@[simp] theorem Core.closeOut_ir (c : Core) (tag : Nat) : (c.closeOut tag).ir = c.ir := by
  unfold Core.closeOut; split <;> rfl
@[simp] theorem Core.closeOut_cycOff (c : Core) (tag : Nat) : (c.closeOut tag).cycOff = c.cycOff := by
  unfold Core.closeOut; split <;> rfl
@[simp] theorem Core.closeOut_instret (c : Core) (tag : Nat) : (c.closeOut tag).instret = c.instret := by
  unfold Core.closeOut; split <;> rfl
@[simp] theorem Core.closeOut_latch (c : Core) (tag : Nat) : (c.closeOut tag).latch = c.latch := by
  unfold Core.closeOut; split <;> rfl
@[simp] theorem Core.closeOut_shadow (c : Core) (tag : Nat) : (c.closeOut tag).shadow = c.shadow := by
  unfold Core.closeOut; split <;> rfl
@[simp] theorem Core.closeOut_hres (c : Core) (tag : Nat) : (c.closeOut tag).hres = c.hres := by
  unfold Core.closeOut; split <;> rfl
@[simp] theorem Core.closeOut_yleft (c : Core) (tag : Nat) : (c.closeOut tag).yleft = c.yleft := by
  unfold Core.closeOut; split <;> rfl
@[simp] theorem Core.closeOut_vec (c : Core) (tag : Nat) : (c.closeOut tag).vec = c.vec := by
  unfold Core.closeOut; split <;> rfl
@[simp] theorem Core.closeOut_tile (c : Core) (tag : Nat) : (c.closeOut tag).tile = c.tile := by
  unfold Core.closeOut; split <;> rfl
@[simp] theorem Core.closeOut_copy (c : Core) (tag : Nat) : (c.closeOut tag).copy = c.copy := by
  unfold Core.closeOut; split <;> rfl
@[simp] theorem Core.closeOut_applying (c : Core) (tag : Nat) : (c.closeOut tag).applying = c.applying := by
  unfold Core.closeOut; split <;> rfl
@[simp] theorem Core.closeOut_inbox (c : Core) (tag : Nat) : (c.closeOut tag).inbox = c.inbox := by
  unfold Core.closeOut; split <;> rfl
@[simp] theorem Core.closeOut_bars (c : Core) (tag : Nat) : (c.closeOut tag).bars = c.bars := by
  unfold Core.closeOut; split <;> rfl
@[simp] theorem Core.closeOut_afault (c : Core) (tag : Nat) : (c.closeOut tag).afault = c.afault := by
  unfold Core.closeOut; split <;> rfl
@[simp] theorem Core.closeOut_afpc (c : Core) (tag : Nat) : (c.closeOut tag).afpc = c.afpc := by
  unfold Core.closeOut; split <;> rfl
@[simp] theorem Core.closeOut_afaddr (c : Core) (tag : Nat) : (c.closeOut tag).afaddr = c.afaddr := by
  unfold Core.closeOut; split <;> rfl
@[simp] theorem Core.closeOut_afFar (c : Core) (tag : Nat) : (c.closeOut tag).afFar = c.afFar := by
  unfold Core.closeOut; split <;> rfl
@[simp] theorem Core.closeOut_wl (c : Core) (tag : Nat) : (c.closeOut tag).wl = c.wl := by
  unfold Core.closeOut; split <;> rfl
@[simp] theorem Core.closeOut_snd (c : Core) (tag : Nat) : (c.closeOut tag).snd = c.snd := by
  unfold Core.closeOut; split <;> rfl
@[simp] theorem Core.closeOut_sce (c : Core) (tag : Nat) : (c.closeOut tag).sce = c.sce := by
  unfold Core.closeOut; split <;> rfl
@[simp] theorem Core.closeOut_trans (c : Core) (tag : Nat) : (c.closeOut tag).trans = c.trans := by
  unfold Core.closeOut; split <;> rfl
@[simp] theorem Core.closeOut_bound (c : Core) (tag : Nat) : (c.closeOut tag).bound = c.bound := by
  unfold Core.closeOut; split <;> rfl
@[simp] theorem Core.closeOut_hubWait (c : Core) (tag : Nat) : (c.closeOut tag).hubWait = c.hubWait := by
  unfold Core.closeOut; split <;> rfl
@[simp] theorem Core.closeOut_entering (c : Core) (tag : Nat) : (c.closeOut tag).entering = c.entering := by
  unfold Core.closeOut; split <;> rfl
@[simp] theorem Core.closeOut_lastLoad (c : Core) (tag : Nat) : (c.closeOut tag).lastLoad = c.lastLoad := by
  unfold Core.closeOut; split <;> rfl
@[simp] theorem Core.closeOut_wdAcc (c : Core) (tag : Nat) : (c.closeOut tag).wdAcc = c.wdAcc := by
  unfold Core.closeOut; split <;> rfl
@[simp] theorem Core.closeOut_wdFrom (c : Core) (tag : Nat) : (c.closeOut tag).wdFrom = c.wdFrom := by
  unfold Core.closeOut; split <;> rfl
@[simp] theorem Core.closeOut_wdFired (c : Core) (tag : Nat) : (c.closeOut tag).wdFired = c.wdFired := by
  unfold Core.closeOut; split <;> rfl

end Sys2Proof.Machine
end

