-- ==== Sys2Proof/Laws/Memory.lean ====
section
/-! SUPPORT. Memory as a list of cells: what a write leaves to be read, and that it keeps the canonical form. -/

namespace Sys2Proof.Machine

/-! ## Reading through a prefix -/

/-- Cells below an address are passed over. -/
theorem Memory.read_append_below (p m : Memory) (b : Nat) (h : ∀ c ∈ p, c.1 < b) :
    Memory.read (p ++ m) b = Memory.read m b := by
  induction p with
  | nil => rfl
  | cons c p ih =>
    obtain ⟨k, v⟩ := c
    have hk : k < b := h (k, v) (by simp)
    simp only [List.cons_append, Memory.read]
    rw [if_neg (by omega), if_neg (by omega), ih fun c hc => h c (by simp [hc])]

/-- A list that begins above an address reads as zero there. -/
theorem Memory.read_above (m : Memory) (b : Nat) (h : ∀ c ∈ m.head?, b < c.1) : Memory.read m b = 0 := by
  cases m with
  | nil => rfl
  | cons c m =>
    obtain ⟨k, v⟩ := c
    have : b < k := h (k, v) (by simp)
    simp [Memory.read, this]

/-- What stands behind a prefix does not matter where both tails begin above the address. -/
theorem Memory.read_append_congr (p m m' : Memory) (b : Nat) (h : Memory.read m b = Memory.read m' b) :
    Memory.read (p ++ m) b = Memory.read (p ++ m') b := by
  induction p with
  | nil => exact h
  | cons c p ih => simp only [List.cons_append, Memory.read, ih]

theorem Memory.below_append_seek (m : Memory) (a : Nat) : m.below a ++ m.seek a = m :=
  List.takeWhile_append_dropWhile

theorem Memory.below_lt (m : Memory) (a : Nat) : ∀ c ∈ m.below a, c.1 < a := by
  intro c hc
  induction m with
  | nil => simp [Memory.below] at hc
  | cons d m ih =>
    simp only [Memory.below, List.takeWhile_cons] at hc
    split at hc
    · rcases List.mem_cons.1 hc with rfl | hc
      · simpa using ‹decide (_ < a) = true›
      · exact ih hc
    · simp at hc

theorem Memory.seek_head (m : Memory) (a : Nat) : ∀ c ∈ (m.seek a).head?, a ≤ c.1 := by
  intro c hc
  induction m with
  | nil => simp [Memory.seek] at hc
  | cons d m ih =>
    simp only [Memory.seek, List.dropWhile_cons] at hc
    split at hc
    · exact ih hc
    · simp only [List.head?_cons, Option.mem_some_iff] at hc
      subst hc
      simpa using ‹¬decide (_ < a) = true›

/-- Seeking does not change what is read from there on. -/
theorem Memory.read_seek (m : Memory) (a b : Nat) (h : a ≤ b) : (m.seek a).read b = m.read b := by
  conv => rhs; rw [← m.below_append_seek a]
  exact (Memory.read_append_below _ _ _ fun c hc => Nat.lt_of_lt_of_le (m.below_lt a c hc) h).symm

/-! ## Cells of bytes -/

theorem cellsAt_lt (a : Nat) (bs : List Byte) : ∀ c ∈ cellsAt a bs, a ≤ c.1 ∧ c.1 < a + bs.length := by
  induction bs generalizing a with
  | nil => simp [cellsAt]
  | cons b bs ih =>
    intro c hc
    simp only [cellsAt] at hc
    rw [List.length_cons]
    split at hc
    · have := ih (a + 1) c hc; omega
    · rcases List.mem_cons.1 hc with rfl | hc
      · simp
      · have := ih (a + 1) c hc; omega

theorem cellsAt_read (a : Nat) (bs : List Byte) (m : Memory) (b : Nat) (h : a ≤ b) (h' : b < a + bs.length) :
    (cellsAt a bs ++ m.seek (a + bs.length)).read b = bs.getD (b - a) 0 := by
  induction bs generalizing a with
  | nil => simp at h'; omega
  | cons x bs ih =>
    have e : a + (x :: bs).length = a + 1 + bs.length := by simp; omega
    by_cases hb : a = b
    · subst hb
      have hz : (cellsAt (a + 1) bs ++ m.seek (a + (x :: bs).length)).read a = 0 := by
        apply Memory.read_above
        intro c hc
        rw [List.head?_append] at hc
        cases hn : (cellsAt (a + 1) bs).head? with
        | some d =>
          rw [hn] at hc; simp at hc; subst hc
          have := cellsAt_lt (a + 1) bs d (List.mem_of_mem_head? (by simp [hn]))
          omega
        | none =>
          rw [hn] at hc
          have := m.seek_head (a + (x :: bs).length) c (by simpa using hc)
          rw [e] at this; omega
      simp only [cellsAt]
      split
      · simp_all
      · simp [Memory.read]
    · have hlt : a + 1 ≤ b := by omega
      have hi := ih (a + 1) hlt (by simp at h'; omega)
      rw [← e] at hi
      have hd : (x :: bs).getD (b - a) 0 = bs.getD (b - (a + 1)) 0 := by
        have : b - a = (b - (a + 1)) + 1 := by omega
        rw [this]; simp
      rw [hd, ← hi]
      simp only [cellsAt]
      split
      · rfl
      · have h1 : ¬b < a := by omega
        have h2 : ¬b = a := by omega
        simp [Memory.read, h1, h2]

/-! ## Writing -/

/-- A written byte reads as written. -/
theorem Memory.read_writeBytes_in (m : Memory) (a : Nat) (bs : List Byte) (b : Nat) (h : a ≤ b)
    (h' : b < a + bs.length) : (m.writeBytes a bs).read b = bs.getD (b - a) 0 := by
  unfold Memory.writeBytes
  rw [List.append_assoc, Memory.read_append_below _ _ _ fun c hc => Nat.lt_of_lt_of_le (m.below_lt a c hc) h]
  exact cellsAt_read a bs m b h h'

/-- Every other byte reads as before. -/
theorem Memory.read_writeBytes_out (m : Memory) (a : Nat) (bs : List Byte) (b : Nat)
    (h : b < a ∨ a + bs.length ≤ b) : (m.writeBytes a bs).read b = m.read b := by
  unfold Memory.writeBytes
  rw [List.append_assoc]
  rcases h with h | h
  · conv => rhs; rw [← m.below_append_seek a]
    apply Memory.read_append_congr
    rw [Memory.read_above, Memory.read_above]
    · exact fun c hc => Nat.lt_of_lt_of_le h (m.seek_head a c hc)
    · intro c hc
      rw [List.head?_append] at hc
      cases hn : (cellsAt a bs).head? with
      | some d =>
        rw [hn] at hc; simp at hc; subst hc
        have := cellsAt_lt a bs d (List.mem_of_mem_head? (by simp [hn]))
        omega
      | none =>
        rw [hn] at hc
        have := m.seek_head (a + bs.length) c (by simpa using hc)
        omega
  · rw [Memory.read_append_below, Memory.read_append_below, Memory.read_seek _ _ _ h]
    · intro c hc
      have := cellsAt_lt a bs c hc
      omega
    · intro c hc
      have := m.below_lt a c hc
      omega

theorem Memory.read_writeBytes (m : Memory) (a : Nat) (bs : List Byte) (b : Nat) :
    (m.writeBytes a bs).read b = if a ≤ b ∧ b < a + bs.length then bs.getD (b - a) 0 else m.read b := by
  split
  · next h => exact m.read_writeBytes_in a bs b h.1 h.2
  · next h => exact m.read_writeBytes_out a bs b (by omega)

/-! ## The canonical form -/

theorem Memory.wfFrom_mono {lo lo' : Nat} {m : Memory} (h : lo' ≤ lo) (hm : Memory.wfFrom lo m = true) :
    Memory.wfFrom lo' m = true := by
  cases m with
  | nil => rfl
  | cons c m =>
    obtain ⟨k, v⟩ := c
    simp only [Memory.wfFrom, Bool.and_eq_true, decide_eq_true_eq] at hm ⊢
    exact ⟨⟨by omega, hm.1.2⟩, hm.2⟩

/-- Two canonical parts in order are canonical. -/
theorem Memory.wfFrom_append {lo hi : Nat} {p m : Memory} (hp : Memory.wfFrom lo p = true) (hlt : ∀ c ∈ p, c.1 < hi)
    (hlo : lo ≤ hi) (hm : Memory.wfFrom hi m = true) : Memory.wfFrom lo (p ++ m) = true := by
  induction p generalizing lo with
  | nil => exact Memory.wfFrom_mono hlo hm
  | cons c p ih =>
    obtain ⟨k, v⟩ := c
    have hk : k < hi := hlt (k, v) (by simp)
    simp only [List.cons_append, Memory.wfFrom, Bool.and_eq_true, decide_eq_true_eq] at hp ⊢
    exact ⟨hp.1, ih hp.2 (fun c hc => hlt c (by simp [hc])) (by omega)⟩

theorem Memory.wfFrom_below {lo : Nat} {m : Memory} (a : Nat) (hm : Memory.wfFrom lo m = true) :
    Memory.wfFrom lo (m.below a) = true := by
  induction m generalizing lo with
  | nil => rfl
  | cons c m ih =>
    obtain ⟨k, v⟩ := c
    simp only [Memory.wfFrom, Bool.and_eq_true, decide_eq_true_eq] at hm
    unfold Memory.below
    rw [List.takeWhile_cons]
    split
    · simp only [Memory.wfFrom, Bool.and_eq_true, decide_eq_true_eq]
      exact ⟨hm.1, ih hm.2⟩
    · rfl

theorem Memory.wfFrom_seek {lo : Nat} {m : Memory} (a : Nat) (hm : Memory.wfFrom lo m = true) :
    Memory.wfFrom a (m.seek a) = true := by
  induction m generalizing lo with
  | nil => rfl
  | cons c m ih =>
    obtain ⟨k, v⟩ := c
    have h := hm
    simp only [Memory.wfFrom, Bool.and_eq_true, decide_eq_true_eq] at hm
    unfold Memory.seek
    rw [List.dropWhile_cons]
    split
    · exact ih hm.2
    · next hk =>
      simp only [decide_eq_true_eq] at hk
      simp only [Memory.wfFrom, Bool.and_eq_true, decide_eq_true_eq]
      exact ⟨⟨by omega, hm.1.2⟩, hm.2⟩

theorem cellsAt_wfFrom (a : Nat) (bs : List Byte) : Memory.wfFrom a (cellsAt a bs) = true := by
  induction bs generalizing a with
  | nil => rfl
  | cons b bs ih =>
    simp only [cellsAt]
    split
    · exact Memory.wfFrom_mono (by omega) (ih (a + 1))
    · next hb =>
      simp only [Memory.wfFrom, Bool.and_eq_true, decide_eq_true_eq]
      exact ⟨⟨by omega, by simpa using hb⟩, ih (a + 1)⟩

/-- A write of bytes keeps the canonical form. -/
theorem Memory.wf_writeBytes {m : Memory} (a : Nat) (bs : List Byte) (hm : m.wf = true) :
    (m.writeBytes a bs).wf = true := by
  unfold Memory.wf Memory.writeBytes
  refine Memory.wfFrom_append (hi := a + bs.length) ?_ ?_ (by omega) (Memory.wfFrom_seek _ hm)
  · exact Memory.wfFrom_append (Memory.wfFrom_below a hm) (m.below_lt a) (by omega) (cellsAt_wfFrom a bs)
  · intro c hc
    rcases List.mem_append.1 hc with hc | hc
    · have := m.below_lt a c hc; omega
    · exact (cellsAt_lt a bs c hc).2

theorem Memory.wf_write {m : Memory} (a : Nat) (b : Byte) (hm : m.wf = true) : (m.write a b).wf = true :=
  m.wf_writeBytes a [b] hm

theorem Memory.wf_writeN {m : Memory} (a n x : Nat) (hm : m.wf = true) : (m.writeN a n x).wf = true :=
  m.wf_writeBytes a _ hm

theorem Core.wf_storeBytes {c : Core} (a : Nat) (bs : List Byte) (hc : c.ls.wf = true) :
    (c.storeBytes a bs).ls.wf = true := Memory.wf_writeBytes a bs hc

/-- After reset every core's memory has the canonical form. -/
theorem Core.wf_reset : Core.reset.ls.wf = true := rfl

/-! ## Little-endian numbers -/

@[simp] theorem toBytesLE_length (n x : Nat) : (toBytesLE n x).length = n := by
  induction n generalizing x with
  | zero => rfl
  | succ n ih => simp [toBytesLE, ih]

theorem toBytesLE_getD (n x i : Nat) (h : i < n) : (toBytesLE n x).getD i 0 = BitVec.ofNat 8 (x / 256 ^ i) := by
  induction n generalizing x i with
  | zero => omega
  | succ n ih =>
    cases i with
    | zero => simp [toBytesLE]
    | succ i =>
      have := ih (x / 256) i (by omega)
      rw [Nat.div_div_eq_div_mul, ← Nat.pow_succ'] at this
      simpa [toBytesLE] using this

/-- A number is read back from its bytes, modulo their width. -/
theorem ofBytesLE_toBytesLE (n x : Nat) : ofBytesLE (toBytesLE n x) = x % 256 ^ n := by
  induction n generalizing x with
  | zero => simp [toBytesLE, ofBytesLE, Nat.mod_one]
  | succ n ih =>
    simp only [toBytesLE, ofBytesLE, ih, BitVec.toNat_ofNat, Nat.pow_succ']
    have := Nat.mod_mul (x := x) (a := 256) (b := 256 ^ n)
    omega

theorem ofBytesLE_lt (bs : List Byte) : ofBytesLE bs < 256 ^ bs.length := by
  induction bs with
  | nil => simp [ofBytesLE]
  | cons b bs ih =>
    have := b.isLt
    simp only [ofBytesLE, List.length_cons, Nat.pow_succ']
    omega

theorem Memory.readBytes_length (m : Memory) (a n : Nat) : (m.readBytes a n).length = n := by
  induction n generalizing m a with
  | zero => rfl
  | succ n ih => simp [Memory.readBytes, ih]

/-- Each byte of a range is the byte at its address. -/
theorem Memory.readBytes_getD (m : Memory) (a n i : Nat) (h : i < n) :
    (m.readBytes a n).getD i 0 = m.read (a + i) := by
  induction n generalizing m a i with
  | zero => omega
  | succ n ih =>
    cases i with
    | zero => simp [Memory.readBytes, Memory.read_seek]
    | succ i =>
      have := ih (m.seek a) (a + 1) i (by omega)
      rw [Memory.read_seek _ _ _ (by omega)] at this
      simp only [Memory.readBytes, List.getD_cons_succ, this]
      congr 1; omega

/-- What a store of `n` bytes leaves at an address (R4, R114). -/
theorem Memory.read_writeN (m : Memory) (a n x b : Nat) :
    (m.writeN a n x).read b =
      if a ≤ b ∧ b < a + n then BitVec.ofNat 8 (x / 256 ^ (b - a)) else m.read b := by
  unfold Memory.writeN
  rw [Memory.read_writeBytes, toBytesLE_length]
  split
  · exact toBytesLE_getD n x (b - a) (by omega)
  · rfl

end Sys2Proof.Machine
end

