-- ==== Sys2Proof/Laws/Encoding.lean ====
section
/-! SUPPORT. Encoding: the fields of a word that the encoder makes, and the operand groups that the decoder reads
back from them. -/

namespace Sys2Proof

/-! ## Fields and words (R33, R34) -/

/-- The fields of an instruction have their widths. -/
def Raw.fits (r : Raw) : Prop :=
  (r.len = 8 ∨ r.len = 12 ∨ r.len = 16) ∧ r.opc < 2 ^ 8 ∧ r.fn < 2 ^ 6 ∧ r.d < 2 ^ 6 ∧ r.a < 2 ^ 6 ∧
    r.b < 2 ^ 6 ∧ r.hi < 2 ^ 30 ∧ r.ext < 2 ^ (8 * r.len - 64)

/-- The fields are read back from the word. -/
theorem Raw.ofWord_toWord (r : Raw) (h : r.fits) : Raw.ofWord r.toWord = r := by
  obtain ⟨len, opc, fn, d, a, b, hi, ext⟩ := r
  obtain ⟨hl, h1, h2, h3, h4, h5, h6, h7⟩ := h
  simp only at hl h1 h2 h3 h4 h5 h6 h7
  have hw : fieldOf (Raw.toWord ⟨len, opc, fn, d, a, b, hi, ext⟩) 0 2 = len / 4 - 1 := by
    simp only [fieldOf, Raw.toWord]
    rcases hl with rfl | rfl | rfl <;> omega
  have hlen : lenBytes (len / 4 - 1) = len := by rcases hl with rfl | rfl | rfl <;> rfl
  simp only [Raw.ofWord, hw, hlen, Raw.mk.injEq, true_and]
  simp only [fieldOf, Raw.toWord]
  rcases hl with rfl | rfl | rfl <;> (refine ⟨?_, ?_, ?_, ?_, ?_, ?_, ?_⟩ <;> omega)

theorem Raw.toWord_lt (r : Raw) (h : r.fits) : r.toWord < 256 ^ r.len := by
  obtain ⟨len, opc, fn, d, a, b, hi, ext⟩ := r
  obtain ⟨hl, h1, h2, h3, h4, h5, h6, h7⟩ := h
  simp only at hl h1 h2 h3 h4 h5 h6 h7
  simp only [Raw.toWord]
  rcases hl with rfl | rfl | rfl <;> omega

theorem toBytesLE_take (n k x : Nat) (h : k ≤ n) : (toBytesLE n x).take k = toBytesLE k x := by
  induction k generalizing n x with
  | zero => simp [toBytesLE]
  | succ k ih =>
    cases n with
    | zero => omega
    | succ n => simp only [toBytesLE, List.take_succ_cons, ih n (x / 256) (by omega)]

/-- Decoding the bytes of fields that the decoder reads as `i` gives `i` and the bytes after it. -/
theorem decode_of_raw (i : Instr) (r : Raw) (rest : List Byte) (hr : r.fits) (hb : decodeRaw r = .ok i) :
    decode (toBytesLE r.len r.toWord ++ rest) = .ok (i, rest) := by
  have hl : 8 ≤ r.len := by rcases hr.1 with h | h | h <;> omega
  have hlen : (toBytesLE r.len r.toWord).length = r.len := Machine.toBytesLE_length _ _
  have h8 : (toBytesLE r.len r.toWord ++ rest).take 8 = toBytesLE 8 r.toWord := by
    rw [List.take_append_of_le_length (by omega), toBytesLE_take _ _ _ hl]
  have hlt := r.toWord_lt hr
  have hf : lenBytes (ofBytesLE (toBytesLE 8 r.toWord) % 4) = r.len := by
    rw [Machine.ofBytesLE_toBytesLE]
    have h1 : r.toWord % 256 ^ 8 % 4 = r.toWord % 4 := by omega
    have h2 : fieldOf r.toWord 0 2 = r.toWord % 4 := by simp [fieldOf]
    have h3 := congrArg Raw.len (r.ofWord_toWord hr)
    simp only [Raw.ofWord] at h3
    rw [h1, ← h2, h3]
  have ht : (toBytesLE r.len r.toWord ++ rest).take r.len = toBytesLE r.len r.toWord := by
    rw [List.take_append_of_le_length (by omega), List.take_of_length_le (by omega)]
  have hd : (toBytesLE r.len r.toWord ++ rest).drop r.len = rest := by
    rw [List.drop_append_of_le_length (by omega), List.drop_of_length_le (by omega), List.nil_append]
  have hz : (r.len == 0 || decide ((toBytesLE r.len r.toWord ++ rest).length < r.len)) = false := by
    simp [hlen]; omega
  have hv : ofBytesLE (toBytesLE r.len r.toWord) = r.toWord := by
    rw [Machine.ofBytesLE_toBytesLE, Nat.mod_eq_of_lt hlt]
  simp only [decode, h8, hf, hz, ht, hd, hv, r.ofWord_toWord hr, hb]
  rfl

/-- The decoder's checks on fields that the instruction encodes to. -/
theorem decodeRaw_of_build (i : Instr) (r : Raw) (hr : r.fits) (hb : build r = .ok i) (hw : i.wf = true)
    (he : encodeRaw i = some r) : decodeRaw r = .ok i := by
  have hl : (r.len == 0) = false := by rcases hr.1 with h | h | h <;> simp [h]
  simp only [decodeRaw, hl, hb, bind, Except.bind, hw, he]
  simp

/-- What the decoder accepts is well-formed, and encodes to the fields that it was read from. -/
theorem decodeRaw_ok (i : Instr) (r : Raw) (h : decodeRaw r = .ok i) : i.wf = true ∧ encodeRaw i = some r := by
  unfold decodeRaw at h
  split at h
  · cases h
  · cases hb : build r with
    | error e => rw [hb] at h; cases h
    | ok j =>
      rw [hb] at h
      simp only [bind, Except.bind] at h
      split at h
      · cases h
      · split at h
        · next hw he =>
          cases h
          exact ⟨by simpa using hw, by simpa using he⟩
        · cases h

/-! ## Codes -/

@[simp] theorem regS_val (r : SReg) : regS r.val = r := by simp [regS]
@[simp] theorem regF_val (r : FReg) : regF r.val = .ok r := by simp [regF]
@[simp] theorem regV_val (r : VReg) : regV r.val = .ok r := by simp [regV]
@[simp] theorem regQ_val (r : QReg) : regQ r.val = .ok r := by simp [regQ]
@[simp] theorem regT_val (r : TReg) : regT r.val = .ok r := by simp [regT]
@[simp] theorem regZ_val (r : ZReg) : regZ r.val = .ok r := by simp [regZ]
@[simp] theorem codeN_val (k : Nat) (x : Fin k) : codeN k x.val = .ok x := by simp [codeN]
@[simp] theorem etOf_code (t : EType) : etOf t.code = .ok t := by cases t <;> rfl
@[simp] theorem rmOf_code (m : RMode) : rmOf m.code = .ok m := by cases m <;> rfl
@[simp] theorem sizeOf4_code (z : Size) : sizeOf4 z.code = .ok z := by cases z <;> rfl
@[simp] theorem waitOf_code (w : WaitSel) : waitOf w.code = w := by cases w <;> rfl
@[simp] theorem tzOf_code (z : TZ) : tzOf z.code = .ok z := by cases z <;> rfl
@[simp] theorem epiOf_code (e : Epi) : epiOf e.code = .ok e := by cases e <;> rfl
@[simp] theorem amoOf_code (k : AmoKind) : amoOf k.code = .ok k := by cases k <;> rfl

theorem EType.code_lt (t : EType) : t.code < 2 ^ 4 := by cases t <;> decide
theorem RMode.code_lt (m : RMode) : m.code < 2 ^ 3 := by cases m <;> decide
theorem Size.code_lt (z : Size) : z.code < 2 ^ 2 := by cases z <;> decide
theorem WaitSel.code_lt (w : WaitSel) : w.code < 2 ^ 2 := by cases w <;> decide
theorem TZ.code_lt (z : TZ) : z.code < 2 ^ 2 := by cases z <;> decide
theorem Epi.code_lt (e : Epi) : e.code < 2 ^ 3 := by cases e <;> decide
theorem AmoKind.code_lt (k : AmoKind) : k.code < 2 ^ 4 := by cases k <;> decide
theorem bit_lt (b : Bool) : bit b < 2 := by cases b <;> decide
@[simp] theorem bit_eq_one (b : Bool) : (bit b == 1) = b := by cases b <;> rfl

/-- Every system register is read from its number. -/
@[simp] theorem sysRegOf_number (r : SysReg) : sysRegOf r.number = .ok r := by
  cases r with
  | xdone ch => rcases ch with ⟨_ | _ | _ | _ | n, h⟩ <;> first | rfl | omega
  | xnext ch => rcases ch with ⟨_ | _ | _ | _ | n, h⟩ <;> first | rfl | omega
  | tshp t => rcases t with ⟨_ | _ | _ | _ | _ | _ | _ | _ | n, h⟩ <;> first | rfl | omega
  | _ => rfl

theorem SysReg.number_lt (r : SysReg) : r.number < 2 ^ 12 := by
  cases r with
  | xdone ch => revert ch; decide
  | xnext ch => revert ch; decide
  | tshp t => revert t; decide
  | _ => decide

/-! ## The packed fields of each format (R37 to R48) -/

/-- M format: the fields of what `packM` packs. -/
theorem packM_fields (m : MemArg) (sz : Nat) (u o : Bool) (h : sz < 8) :
    fieldOf (packM m sz u o) 0 3 = sz ∧ fieldOf (packM m sz u o) 3 1 = bit u ∧
      fieldOf (packM m sz u o) 4 1 = bit m.x ∧ fieldOf (packM m sz u o) 5 2 = m.wt.code ∧
      fieldOf (packM m sz u o) 7 1 = bit o ∧ fieldOf (packM m sz u o) 8 22 = m.off.toNat ∧
      packM m sz u o < 2 ^ 30 := by
  have h1 := bit_lt u
  have h2 := bit_lt m.x
  have h3 := m.wt.code_lt
  have h4 := bit_lt o
  have h5 := m.off.isLt
  simp only [fieldOf, packM]
  refine ⟨?_, ?_, ?_, ?_, ?_, ?_, ?_⟩ <;> omega

theorem packF_fields (c : Nat) (rm : RMode) (w : Bool) (h : c < 64) :
    fieldOf (packF c rm w) 0 6 = c ∧ fieldOf (packF c rm w) 6 3 = rm.code ∧ fieldOf (packF c rm w) 9 1 = bit w ∧
      packF c rm w < 2 ^ 30 := by
  have h1 := rm.code_lt
  have h2 := bit_lt w
  simp only [fieldOf, packF]
  refine ⟨?_, ?_, ?_, ?_⟩ <;> omega

theorem packV_fields (c : Nat) (k : VCtl) (h : c < 64) :
    fieldOf (packV c k) 0 6 = c ∧ fieldOf (packV c k) 6 3 = k.q.val ∧ fieldOf (packV c k) 9 3 = k.hld.toNat ∧
      fieldOf (packV c k) 12 4 = k.et.code ∧ fieldOf (packV c k) 16 3 = k.rm.code ∧
      fieldOf (packV c k) 19 1 = bit k.sat ∧ fieldOf (packV c k) 20 1 = bit k.sr ∧ packV c k < 2 ^ 30 := by
  have h1 := k.q.isLt
  have h2 := k.hld.isLt
  have h3 := k.et.code_lt
  have h4 := k.rm.code_lt
  have h5 := bit_lt k.sat
  have h6 := bit_lt k.sr
  simp only [fieldOf, packV]
  refine ⟨?_, ?_, ?_, ?_, ?_, ?_, ?_, ?_⟩ <;> omega

theorem packVM_fields (k : VMemCtl) :
    fieldOf (packVM k) 0 6 = 0 ∧ fieldOf (packVM k) 6 3 = k.q.val ∧ fieldOf (packVM k) 9 3 = k.hld.toNat ∧
      fieldOf (packVM k) 12 4 = k.et.code ∧ fieldOf (packVM k) 16 2 = k.wt.code ∧ packVM k < 2 ^ 30 := by
  have h1 := k.q.isLt
  have h2 := k.hld.isLt
  have h3 := k.et.code_lt
  have h4 := k.wt.code_lt
  simp only [fieldOf, packVM]
  refine ⟨?_, ?_, ?_, ?_, ?_, ?_⟩ <;> omega

theorem packX_fields (c e : Nat) (wt : WaitSel) (o : Bool) (h : c < 64) (h' : e < 64) :
    fieldOf (packX c e wt o) 0 6 = c ∧ fieldOf (packX c e wt o) 6 6 = e ∧
      fieldOf (packX c e wt o) 12 2 = wt.code ∧ fieldOf (packX c e wt o) 14 1 = bit o ∧
      packX c e wt o < 2 ^ 30 := by
  have h1 := wt.code_lt
  have h2 := bit_lt o
  simp only [fieldOf, packX]
  refine ⟨?_, ?_, ?_, ?_, ?_⟩ <;> omega

/-! ## The row that each group of fields selects -/

@[simp] theorem rawI_len (fn opc d a b hi : Nat) : (rawI fn opc d a b hi).len = 8 := rfl
@[simp] theorem rawI_opc (fn opc d a b hi : Nat) : (rawI fn opc d a b hi).opc = opc := rfl
@[simp] theorem rawI_fn (fn opc d a b hi : Nat) : (rawI fn opc d a b hi).fn = fn := rfl
@[simp] theorem rawAlu_len (opc fn : Nat) (o : AluOp) : (rawAlu opc fn o).len = 8 := rfl
@[simp] theorem rawAlu_opc (opc fn : Nat) (o : AluOp) : (rawAlu opc fn o).opc = opc := rfl
@[simp] theorem rawAlu_fn (opc fn : Nat) (o : AluOp) : (rawAlu opc fn o).fn = fn := rfl
@[simp] theorem rawCmp_len (opc fn : Nat) (o : CmpOp) : (rawCmp opc fn o).len = 8 := rfl
@[simp] theorem rawCmp_opc (opc fn : Nat) (o : CmpOp) : (rawCmp opc fn o).opc = opc := rfl
@[simp] theorem rawCmp_fn (opc fn : Nat) (o : CmpOp) : (rawCmp opc fn o).fn = fn := rfl
@[simp] theorem rawImm30_len (fn : Nat) (o : Imm30Op) : (rawImm30 fn o).len = 8 := rfl
@[simp] theorem rawImm30_opc (fn : Nat) (o : Imm30Op) : (rawImm30 fn o).opc = 0x02 := rfl
@[simp] theorem rawImm30_fn (fn : Nat) (o : Imm30Op) : (rawImm30 fn o).fn = fn := rfl
@[simp] theorem rawImm62_len (fn : Nat) (o : Imm62Op) : (rawImm62 fn o).len = 12 := rfl
@[simp] theorem rawImm62_opc (fn : Nat) (o : Imm62Op) : (rawImm62 fn o).opc = 0x02 := rfl
@[simp] theorem rawImm62_fn (fn : Nat) (o : Imm62Op) : (rawImm62 fn o).fn = fn := rfl
@[simp] theorem rawShift_len (fn : Nat) (o : ShiftOp) : (rawShift fn o).len = 8 := rfl
@[simp] theorem rawShift_opc (fn : Nat) (o : ShiftOp) : (rawShift fn o).opc = 0x02 := rfl
@[simp] theorem rawShift_fn (fn : Nat) (o : ShiftOp) : (rawShift fn o).fn = fn := rfl
@[simp] theorem rawUn_len (fn : Nat) (o : UnOp) : (rawUn fn o).len = 8 := rfl
@[simp] theorem rawUn_opc (fn : Nat) (o : UnOp) : (rawUn fn o).opc = 0x04 := rfl
@[simp] theorem rawUn_fn (fn : Nat) (o : UnOp) : (rawUn fn o).fn = fn := rfl
@[simp] theorem rawLamo_len (fn : Nat) (o : LamoOp) : (rawLamo fn o).len = 8 := rfl
@[simp] theorem rawLamo_opc (fn : Nat) (o : LamoOp) : (rawLamo fn o).opc = 0x0A := rfl
@[simp] theorem rawLamo_fn (fn : Nat) (o : LamoOp) : (rawLamo fn o).fn = fn := rfl
@[simp] theorem rawMem_len (opc fn d sz : Nat) (u : Bool) (m : MemArg) (o : Bool) :
    (rawMem opc fn d sz u m o).len = 8 := rfl
@[simp] theorem rawMem_opc (opc fn d sz : Nat) (u : Bool) (m : MemArg) (o : Bool) :
    (rawMem opc fn d sz u m o).opc = opc := rfl
@[simp] theorem rawMem_fn (opc fn d sz : Nat) (u : Bool) (m : MemArg) (o : Bool) :
    (rawMem opc fn d sz u m o).fn = fn := rfl
@[simp] theorem rawBr_len (fn : Nat) (o : BrOp) : (rawBr fn o).len = 8 := rfl
@[simp] theorem rawBr_opc (fn : Nat) (o : BrOp) : (rawBr fn o).opc = 0x10 := rfl
@[simp] theorem rawBr_fn (fn : Nat) (o : BrOp) : (rawBr fn o).fn = fn := rfl
@[simp] theorem rawF3_len (fn : Nat) (o : FOp3) : (rawF3 fn o).len = 8 := rfl
@[simp] theorem rawF3_opc (fn : Nat) (o : FOp3) : (rawF3 fn o).opc = 0x18 := rfl
@[simp] theorem rawF3_fn (fn : Nat) (o : FOp3) : (rawF3 fn o).fn = fn := rfl
@[simp] theorem rawF4_len (fn : Nat) (o : FOp4) : (rawF4 fn o).len = 8 := rfl
@[simp] theorem rawF4_opc (fn : Nat) (o : FOp4) : (rawF4 fn o).opc = 0x18 := rfl
@[simp] theorem rawF4_fn (fn : Nat) (o : FOp4) : (rawF4 fn o).fn = fn := rfl
@[simp] theorem rawFBit_len (fn : Nat) (o : FBit3) : (rawFBit fn o).len = 8 := rfl
@[simp] theorem rawFBit_opc (fn : Nat) (o : FBit3) : (rawFBit fn o).opc = 0x18 := rfl
@[simp] theorem rawFBit_fn (fn : Nat) (o : FBit3) : (rawFBit fn o).fn = fn := rfl
@[simp] theorem rawFCmp_len (fn : Nat) (o : FCmpOp) : (rawFCmp fn o).len = 8 := rfl
@[simp] theorem rawFCmp_opc (fn : Nat) (o : FCmpOp) : (rawFCmp fn o).opc = 0x19 := rfl
@[simp] theorem rawFCmp_fn (fn : Nat) (o : FCmpOp) : (rawFCmp fn o).fn = fn := rfl
@[simp] theorem rawVV_len (opc fn : Nat) (o : VV) : (rawVV opc fn o).len = 8 := rfl
@[simp] theorem rawVV_opc (opc fn : Nat) (o : VV) : (rawVV opc fn o).opc = opc := rfl
@[simp] theorem rawVV_fn (opc fn : Nat) (o : VV) : (rawVV opc fn o).fn = fn := rfl
@[simp] theorem rawVVV_len (opc fn : Nat) (o : VVV) : (rawVVV opc fn o).len = 8 := rfl
@[simp] theorem rawVVV_opc (opc fn : Nat) (o : VVV) : (rawVVV opc fn o).opc = opc := rfl
@[simp] theorem rawVVV_fn (opc fn : Nat) (o : VVV) : (rawVVV opc fn o).fn = fn := rfl
@[simp] theorem rawVVVV_len (opc fn : Nat) (o : VVVV) : (rawVVVV opc fn o).len = 8 := rfl
@[simp] theorem rawVVVV_opc (opc fn : Nat) (o : VVVV) : (rawVVVV opc fn o).opc = opc := rfl
@[simp] theorem rawVVVV_fn (opc fn : Nat) (o : VVVV) : (rawVVVV opc fn o).fn = fn := rfl
@[simp] theorem rawVVn_len (opc fn : Nat) (o : VVn) : (rawVVn opc fn o).len = 8 := rfl
@[simp] theorem rawVVn_opc (opc fn : Nat) (o : VVn) : (rawVVn opc fn o).opc = opc := rfl
@[simp] theorem rawVVn_fn (opc fn : Nat) (o : VVn) : (rawVVn opc fn o).fn = fn := rfl
@[simp] theorem rawQVV_len (fn : Nat) (o : QVV) : (rawQVV fn o).len = 8 := rfl
@[simp] theorem rawQVV_opc (fn : Nat) (o : QVV) : (rawQVV fn o).opc = 0x26 := rfl
@[simp] theorem rawQVV_fn (fn : Nat) (o : QVV) : (rawQVV fn o).fn = fn := rfl
@[simp] theorem rawQQQ_len (fn : Nat) (o : QQQ) : (rawQQQ fn o).len = 8 := rfl
@[simp] theorem rawQQQ_opc (fn : Nat) (o : QQQ) : (rawQQQ fn o).opc = 0x27 := rfl
@[simp] theorem rawQQQ_fn (fn : Nat) (o : QQQ) : (rawQQQ fn o).fn = fn := rfl
@[simp] theorem rawTProd_len (opc ow : Nat) (o : TProd) : (rawTProd opc ow o).len = 8 := rfl
@[simp] theorem rawTProd_opc (opc ow : Nat) (o : TProd) : (rawTProd opc ow o).opc = opc := rfl
@[simp] theorem rawTProd_fn (opc ow : Nat) (o : TProd) : (rawTProd opc ow o).fn = 0 := rfl
@[simp] theorem rawMsg_len (fn : Nat) (o : MsgOp) : (rawMsg fn o).len = 8 := rfl
@[simp] theorem rawMsg_opc (fn : Nat) (o : MsgOp) : (rawMsg fn o).opc = 0x50 := rfl
@[simp] theorem rawMsg_fn (fn : Nat) (o : MsgOp) : (rawMsg fn o).fn = fn := rfl
@[simp] theorem rawI_d (fn opc d a b hi : Nat) : (rawI fn opc d a b hi).d = d := rfl
@[simp] theorem rawI_a (fn opc d a b hi : Nat) : (rawI fn opc d a b hi).a = a := rfl
@[simp] theorem rawI_b (fn opc d a b hi : Nat) : (rawI fn opc d a b hi).b = b := rfl
@[simp] theorem rawI_hi (fn opc d a b hi : Nat) : (rawI fn opc d a b hi).hi = hi := rfl

/-! ## Operand groups, read back from their fields -/

theorem ofNat_fin {n : Nat} [NeZero n] (x : Fin n) : Fin.ofNat n x.val = x := by simp

@[simp] theorem Raw.alu_raw (opc fn : Nat) (o : AluOp) : (rawAlu opc fn o).alu = o := by
  obtain ⟨d, a, b, w⟩ := o
  cases w <;> simp [rawAlu, rawI, Raw.alu, Raw.wBit, fieldOf, bit]

@[simp] theorem Raw.cmp_raw (opc fn : Nat) (o : CmpOp) : (rawCmp opc fn o).cmp = o := by
  simp [rawCmp, rawI, Raw.cmp]

@[simp] theorem Raw.imm30_raw (fn : Nat) (o : Imm30Op) : (rawImm30 fn o).imm30 = o := by
  simp [rawImm30, rawI, Raw.imm30]

theorem val62_of (len opc fn d a b : Nat) (x : BitVec 62) :
    (Raw.mk len opc fn d a b (x.toNat % 2 ^ 30) (x.toNat / 2 ^ 30)).val62 = x := by
  apply BitVec.eq_of_toNat_eq
  have := x.isLt
  simp only [Raw.val62, BitVec.toNat_ofNat]
  omega

@[simp] theorem Raw.imm62_raw (fn : Nat) (o : Imm62Op) : (rawImm62 fn o).imm62 = o := by
  simp only [rawImm62, Raw.imm62, val62_of, regS_val]

@[simp] theorem Raw.shift_raw (fn : Nat) (o : ShiftOp) : (rawShift fn o).shift = o := by
  simp [rawShift, rawI, Raw.shift]

@[simp] theorem Raw.un_raw (fn : Nat) (o : UnOp) : (rawUn fn o).un = o := by simp [rawUn, rawI, Raw.un]

/-- The address part of a memory row. -/
theorem Raw.mem_raw (opc fn d sz : Nat) (u : Bool) (m : MemArg) (o : Bool) (h : sz < 8) :
    (rawMem opc fn d sz u m o).mem = m ∧ (rawMem opc fn d sz u m o).sz = sz ∧
      (rawMem opc fn d sz u m o).uBit = u ∧ (rawMem opc fn d sz u m o).oBitM = o := by
  obtain ⟨h1, h2, h3, h4, h5, h6, -⟩ := packM_fields m sz u o h
  simp [rawMem, rawI, Raw.mem, Raw.sz, Raw.uBit, Raw.oBitM, h1, h2, h3, h4, h5, h6]

@[simp] theorem Raw.lamo_raw (fn : Nat) (o : LamoOp) : (rawLamo fn o).lamo = .ok o := by
  have h := o.size.code_lt
  obtain ⟨h1, h2, h3, h4, h5, h6, -⟩ :=
    packM_fields ⟨o.a, o.b, false, o.off, o.wt⟩ o.size.code false false (by omega)
  simp only at h4 h6
  simp only [rawLamo, rawI, Raw.lamo, Raw.mem, Raw.sz, h1, h4, h6, sizeOf4_code, waitOf_code, regS_val,
    BitVec.ofNat_toNat, BitVec.setWidth_eq]
  rfl

@[simp] theorem Raw.br_raw (fn : Nat) (o : BrOp) : (rawBr fn o).br = o := by simp [rawBr, rawI, Raw.br]

theorem Raw.f_of (fn opc d a b c : Nat) (rm : RMode) (w : Bool) (h : c < 64) :
    (rawI fn opc d a b (packF c rm w)).c = c ∧ (rawI fn opc d a b (packF c rm w)).rmF = .ok rm ∧
      (rawI fn opc d a b (packF c rm w)).wF = w := by
  obtain ⟨h1, h2, h3, -⟩ := packF_fields c rm w h
  simp [rawI, Raw.c, Raw.rmF, Raw.wF, h1, h2, h3]

@[simp] theorem Raw.f2_raw (fn opc : Nat) (o : FOp2) :
    (rawI fn opc o.d o.a 0 (packF 0 o.rm o.w)).f2 = .ok o := by
  obtain ⟨-, h2, h3⟩ := Raw.f_of fn opc o.d o.a 0 0 o.rm o.w (by omega)
  simp only [Raw.f2, h2, h3]
  simp [rawI, pure, Except.pure, bind, Except.bind]

@[simp] theorem Raw.f3_raw (fn : Nat) (o : FOp3) : (rawF3 fn o).f3 = .ok o := by
  obtain ⟨-, h2, h3⟩ := Raw.f_of fn 0x18 o.d o.a o.b 0 o.rm o.w (by omega)
  simp only [rawF3, Raw.f3, h2, h3]
  simp [rawI, pure, Except.pure, bind, Except.bind]

@[simp] theorem Raw.f4_raw (fn : Nat) (o : FOp4) : (rawF4 fn o).f4 = .ok o := by
  obtain ⟨h1, h2, h3⟩ := Raw.f_of fn 0x18 o.d o.a o.b o.c o.rm o.w (by omega)
  simp only [rawF4, Raw.f4, h1, h2, h3]
  simp [rawI, pure, Except.pure, bind, Except.bind]

@[simp] theorem Raw.fbit_raw (fn : Nat) (o : FBit3) : (rawFBit fn o).fbit = .ok o := by
  simp [rawFBit, rawI, Raw.fbit, pure, Except.pure, bind, Except.bind]

@[simp] theorem Raw.fcmp_raw (fn : Nat) (o : FCmpOp) : (rawFCmp fn o).fcmp = .ok o := by
  simp [rawFCmp, rawI, Raw.fcmp, pure, Except.pure, bind, Except.bind]

@[simp] theorem Raw.ftoi_raw (fn opc : Nat) (o : FToInt) :
    (rawI fn opc o.d o.a 0 (packF 0 o.rm false)).ftoi = .ok o := by
  obtain ⟨-, h2, -⟩ := Raw.f_of fn opc o.d o.a 0 0 o.rm false (by omega)
  simp only [Raw.ftoi, h2]
  simp [rawI, pure, Except.pure, bind, Except.bind]

@[simp] theorem Raw.itof_raw (fn opc : Nat) (o : IntToF) :
    (rawI fn opc o.d o.a 0 (packF 0 o.rm o.w)).itof = .ok o := by
  obtain ⟨-, h2, h3⟩ := Raw.f_of fn opc o.d o.a 0 0 o.rm o.w (by omega)
  simp only [Raw.itof, h2, h3]
  simp [rawI, pure, Except.pure, bind, Except.bind]

/-- The control fields of the V format. -/
theorem Raw.vctl_of (r : Raw) (k : VCtl) (h2 : fieldOf r.hi 6 3 = k.q.val) (h3 : fieldOf r.hi 9 3 = k.hld.toNat)
    (h4 : fieldOf r.hi 12 4 = k.et.code) (h5 : fieldOf r.hi 16 3 = k.rm.code)
    (h6 : fieldOf r.hi 19 1 = bit k.sat) (h7 : fieldOf r.hi 20 1 = bit k.sr) : r.vctl = .ok k := by
  simp [Raw.vctl, h2, h3, h4, h5, h6, h7, pure, Except.pure, bind, Except.bind]

theorem Raw.v_of (fn opc d a b c : Nat) (k : VCtl) (h : c < 64) :
    (rawI fn opc d a b (packV c k)).c = c ∧ (rawI fn opc d a b (packV c k)).vctl = .ok k := by
  obtain ⟨h1, h2, h3, h4, h5, h6, h7, -⟩ := packV_fields c k h
  exact ⟨h1, Raw.vctl_of _ k h2 h3 h4 h5 h6 h7⟩

theorem Raw.vm_of (fn opc d a b : Nat) (k : VMemCtl) : (rawI fn opc d a b (packVM k)).vmctl = .ok k := by
  obtain ⟨-, h2, h3, h4, h5, -⟩ := packVM_fields k
  simp [rawI, Raw.vmctl, h2, h3, h4, h5, pure, Except.pure, bind, Except.bind]

@[simp] theorem Raw.vv_raw (opc fn : Nat) (o : VV) : (rawVV opc fn o).vv = .ok o := by
  simp only [rawVV, Raw.vv, (Raw.v_of fn opc o.d o.a 0 0 o.k (by omega)).2]
  simp [rawI, pure, Except.pure, bind, Except.bind]

@[simp] theorem Raw.vvv_raw (opc fn : Nat) (o : VVV) : (rawVVV opc fn o).vvv = .ok o := by
  simp only [rawVVV, Raw.vvv, (Raw.v_of fn opc o.d o.a o.b 0 o.k (by omega)).2]
  simp [rawI, pure, Except.pure, bind, Except.bind]

@[simp] theorem Raw.vvvv_raw (opc fn : Nat) (o : VVVV) : (rawVVVV opc fn o).vvvv = .ok o := by
  simp only [rawVVVV, Raw.vvvv, (Raw.v_of fn opc o.d o.a o.b o.c o.k (by omega)).1,
    (Raw.v_of fn opc o.d o.a o.b o.c o.k (by omega)).2]
  simp [rawI, pure, Except.pure, bind, Except.bind]

@[simp] theorem Raw.vvn_raw (opc fn : Nat) (o : VVn) : (rawVVn opc fn o).vvn = .ok o := by
  simp only [rawVVn, Raw.vvn, (Raw.v_of fn opc o.d o.a o.n 0 o.k (by omega)).2]
  simp [rawI, pure, Except.pure, bind, Except.bind]

@[simp] theorem Raw.qvv_raw (fn : Nat) (o : QVV) : (rawQVV fn o).qvv = .ok o := by
  simp only [rawQVV, Raw.qvv, (Raw.v_of fn 0x26 o.d o.a o.b 0 o.k (by omega)).2]
  simp [rawI, pure, Except.pure, bind, Except.bind]

@[simp] theorem Raw.qqq_raw (fn : Nat) (o : QQQ) : (rawQQQ fn o).qqq = .ok o := by
  simp only [rawQQQ, Raw.qqq, (Raw.v_of fn 0x27 o.d o.a o.b 0 o.k (by omega)).2]
  simp [rawI, pure, Except.pure, bind, Except.bind]

@[simp] theorem Raw.vslot_raw (fn opc : Nat) (o : VSlotOp) :
    (rawI fn opc o.d o.slot 0 (packVM o.k)).vslot = .ok o := by
  simp only [Raw.vslot, Raw.vm_of]
  simp [rawI, pure, Except.pure, bind, Except.bind]

@[simp] theorem Raw.vbase_raw (fn opc : Nat) (o : VBaseOp) :
    (rawI fn opc o.d o.a o.b (packVM o.k)).vbase = .ok o := by
  simp only [Raw.vbase, Raw.vm_of]
  simp [rawI, pure, Except.pure, bind, Except.bind]

@[simp] theorem Raw.vidx_raw (fn opc : Nat) (o : VIdxOp) :
    (rawI fn opc o.d o.a o.b (packVM o.k)).vidx = .ok o := by
  simp only [Raw.vidx, Raw.vm_of]
  simp [rawI, pure, Except.pure, bind, Except.bind]

@[simp] theorem Raw.vrng_raw (fn opc : Nat) (o : VRngOp) :
    (rawI fn opc o.d o.n 0 (packV 0 o.k)).vrng = .ok o := by
  simp only [Raw.vrng, (Raw.v_of fn opc o.d o.n 0 0 o.k (by omega)).2]
  simp [rawI, pure, Except.pure, bind, Except.bind]

/-- A reduction's destination is read back from the file that its type names (R165). -/
theorem scalarDst_index (d : ScalarDst) (t : EType) (h : d.okFor t = true) : scalarDst t d.index = .ok d := by
  cases d <;> simp [ScalarDst.okFor] at h <;> simp [scalarDst, h, ScalarDst.index, Except.map]

theorem Raw.vred_raw (fn opc : Nat) (o : VRed) (h : o.d.okFor o.k.et = true) :
    (rawI fn opc o.d.index o.a 0 (packV 0 o.k)).vred = .ok o := by
  simp only [Raw.vred, (Raw.v_of fn opc o.d.index o.a 0 0 o.k (by omega)).2]
  simp [rawI, pure, Except.pure, bind, Except.bind, scalarDst_index _ _ h]

@[simp] theorem Raw.tprod_raw (opc ow : Nat) (o : TProd) : (rawTProd opc ow o).tprod = .ok o := by
  have h1 := o.ta.code_lt
  have h2 := o.tb.code_lt
  have h3 := o.tz.code_lt
  have e1 : fieldOf (o.ta.code + o.tb.code * 2 ^ 4 + o.tz.code * 2 ^ 8 + ow * 2 ^ 10) 0 4 = o.ta.code := by
    simp only [fieldOf]; omega
  have e2 : fieldOf (o.ta.code + o.tb.code * 2 ^ 4 + o.tz.code * 2 ^ 8 + ow * 2 ^ 10) 4 4 = o.tb.code := by
    simp only [fieldOf]; omega
  have e3 : fieldOf (o.ta.code + o.tb.code * 2 ^ 4 + o.tz.code * 2 ^ 8 + ow * 2 ^ 10) 8 2 = o.tz.code := by
    simp only [fieldOf]; omega
  simp only [rawTProd, rawI, Raw.tprod, Raw.tz, e1, e2, e3]
  simp [pure, Except.pure, bind, Except.bind]

@[simp] theorem Raw.tepi_raw (o : TEpi) : (TileOp.tepi o).raw.tepi = .ok o := by
  obtain ⟨d, a, b, ta, tz, epi, rm, sat⟩ := o
  have h1 := ta.code_lt
  have h2 := tz.code_lt
  have h3 := epi.code_lt
  have h4 := rm.code_lt
  have h5 := bit_lt sat
  let x := ta.code + tz.code * 2 ^ 8 + epi.code * 2 ^ 11 + rm.code * 2 ^ 14 + bit sat * 2 ^ 17
  have e1 : fieldOf x 0 4 = ta.code := by simp only [fieldOf, x]; omega
  have e2 : fieldOf x 8 2 = tz.code := by simp only [fieldOf, x]; omega
  have e3 : fieldOf x 11 3 = epi.code := by simp only [fieldOf, x]; omega
  have e4 : fieldOf x 14 3 = rm.code := by simp only [fieldOf, x]; omega
  have e5 : fieldOf x 17 1 = bit sat := by simp only [fieldOf, x]; omega
  simp only [x] at e1 e2 e3 e4 e5
  simp only [TileOp.raw, rawI, Raw.tepi, Raw.tz, e1, e2, e3, e4, e5]
  simp [pure, Except.pure, bind, Except.bind]

@[simp] theorem Raw.msg_raw (fn : Nat) (o : MsgOp) : (rawMsg fn o).msg = o := by
  obtain ⟨-, -, h3, h4, -⟩ := packX_fields 0 0 o.wt o.o (by omega) (by omega)
  simp [rawMsg, rawI, Raw.msg, Raw.wtX, Raw.oX, h3, h4]

@[simp] theorem Raw.cpush_raw (fn opc : Nat) (o : CpushOp) :
    (rawI fn opc o.d o.a 0 (packX 0 o.ch o.wt false)).cpush = .ok o := by
  obtain ⟨-, h2, h3, -, -⟩ := packX_fields 0 o.ch o.wt false (by omega) (by omega)
  simp [rawI, Raw.cpush, Raw.e, Raw.wtX, h2, h3, pure, Except.pure, bind, Except.bind]

end Sys2Proof
end

