-- ==== Sys2Proof/Laws/Gmem.lean ====
section
/-! SUPPORT. Global memory: lists by rising key, and the writes that keep their canonical form. -/

namespace Sys2Proof.Machine

/-! ## Lists by rising key -/

theorem keysRise_mono {α : Type} {p : α → Bool} {lo lo' : Nat} {l : List (Nat × α)} (h : lo' ≤ lo)
    (hl : keysRise p lo l = true) : keysRise p lo' l = true := by
  cases l with
  | nil => rfl
  | cons x l =>
    obtain ⟨k, y⟩ := x
    simp only [keysRise, Bool.and_eq_true, decide_eq_true_eq] at hl ⊢
    exact ⟨⟨by omega, hl.1.2⟩, hl.2⟩

theorem keysRise_insertKey {α : Type} {p : α → Bool} {lo k : Nat} {x : α} {l : List (Nat × α)} (hp : p x = true)
    (hk : lo ≤ k) (hl : keysRise p lo l = true) : keysRise p lo (insertKey k x l) = true := by
  induction l generalizing lo with
  | nil => simp [insertKey, keysRise, hk, hp]
  | cons y l ih =>
    obtain ⟨j, z⟩ := y
    simp only [keysRise, Bool.and_eq_true, decide_eq_true_eq] at hl
    simp only [insertKey]
    split
    · next h =>
      simp only [keysRise, Bool.and_eq_true, decide_eq_true_eq]
      exact ⟨⟨hk, hp⟩, ⟨by omega, hl.1.2⟩, hl.2⟩
    · split
      · next h =>
        subst h
        simp only [keysRise, Bool.and_eq_true, decide_eq_true_eq]
        exact ⟨⟨hk, hp⟩, hl.2⟩
      · simp only [keysRise, Bool.and_eq_true, decide_eq_true_eq]
        exact ⟨hl.1, ih (by omega) hl.2⟩

theorem keysRise_eraseKey {α : Type} {p : α → Bool} {lo k : Nat} {l : List (Nat × α)}
    (hl : keysRise p lo l = true) : keysRise p lo (eraseKey k l) = true := by
  induction l generalizing lo with
  | nil => rfl
  | cons y l ih =>
    obtain ⟨j, z⟩ := y
    simp only [keysRise, Bool.and_eq_true, decide_eq_true_eq] at hl
    simp only [eraseKey]
    split
    · exact keysRise_mono (by omega) hl.2
    · simp only [keysRise, Bool.and_eq_true, decide_eq_true_eq]
      exact ⟨hl.1, ih hl.2⟩

theorem keysRise_mem {α : Type} {p : α → Bool} {lo : Nat} {l : List (Nat × α)} (hl : keysRise p lo l = true) :
    ∀ x ∈ l, lo ≤ x.1 ∧ p x.2 = true := by
  induction l generalizing lo with
  | nil => simp
  | cons y l ih =>
    obtain ⟨j, z⟩ := y
    simp only [keysRise, Bool.and_eq_true, decide_eq_true_eq] at hl
    intro x hx
    rcases List.mem_cons.1 hx with rfl | hx
    · exact ⟨hl.1.1, hl.1.2⟩
    · have := ih hl.2 x hx
      exact ⟨by omega, this.2⟩

/-! ## Looking up a key -/

theorem find_insertKey {α : Type} (k j : Nat) (x : α) (l : List (Nat × α)) :
    (insertKey k x l).find? (fun y => y.1 == j) = if j = k then some (k, x) else l.find? fun y => y.1 == j := by
  induction l with
  | nil =>
    by_cases h : j = k
    · simp [insertKey, h]
    · simp [insertKey, h, Ne.symm h]
  | cons y l ih =>
    obtain ⟨i, z⟩ := y
    simp only [insertKey]
    split
    · next h =>
      by_cases hj : j = k
      · simp [hj]
      · simp [hj, Ne.symm hj]
    · split
      · next h =>
        subst h
        by_cases hj : j = i
        · simp [hj]
        · simp [hj, Ne.symm hj]
      · next h h' =>
        by_cases hi : i = j
        · subst hi; simp [h']
        · simp only [List.find?_cons, beq_eq_false_iff_ne.2 hi, ih]

/-- In a list by rising key an erased key is gone, and the others stand. -/
theorem find_eraseKey {α : Type} {p : α → Bool} {lo : Nat} (k j : Nat) (l : List (Nat × α))
    (hl : keysRise p lo l = true) :
    (eraseKey k l).find? (fun y => y.1 == j) = if j = k then none else l.find? fun y => y.1 == j := by
  induction l generalizing lo with
  | nil => simp [eraseKey]
  | cons y l ih =>
    obtain ⟨i, z⟩ := y
    simp only [keysRise, Bool.and_eq_true, decide_eq_true_eq] at hl
    simp only [eraseKey]
    split
    · next h =>
      subst h
      by_cases hj : j = i
      · subst hj
        rw [if_pos rfl]
        apply List.find?_eq_none.2
        intro x hx
        have := (keysRise_mem hl.2 x hx).1
        simp; omega
      · simp [hj, Ne.symm hj]
    · next h =>
      by_cases hi : i = j
      · subst hi; simp [h]
      · simp only [List.find?_cons, beq_eq_false_iff_ne.2 hi, ih hl.2]

/-! ## Chunks and table entries -/

theorem Gmem.wf_iff (g : Gmem) : g.wf = true ↔
    keysRise (fun k => k != Chunk.zero && k.slot.wf) 0 g.chunks = true ∧
      keysRise (fun e => e != 0) 0 g.tables = true := by simp [Gmem.wf]

theorem Gmem.chunk_setChunk (g : Gmem) (hg : g.wf = true) (n j : Nat) (k : Chunk) :
    (g.setChunk n k).chunk j = if j = n then k else g.chunk j := by
  unfold Gmem.setChunk Gmem.chunk
  split
  · next h =>
    have hk : k = Chunk.zero := by simpa using h
    rw [find_eraseKey _ _ _ ((Gmem.wf_iff g).1 hg).1]
    split <;> simp [hk]
  · rw [find_insertKey]
    split <;> simp

theorem Gmem.wf_setChunk (g : Gmem) (hg : g.wf = true) (n : Nat) (k : Chunk) (hk : k.slot.wf = true) :
    (g.setChunk n k).wf = true := by
  have h := (Gmem.wf_iff g).1 hg
  apply (Gmem.wf_iff _).2
  refine ⟨?_, h.2⟩
  unfold Gmem.setChunk
  split
  · exact keysRise_eraseKey h.1
  · next hz => exact keysRise_insertKey (by simpa [hk] using hz) (by omega) h.1

/-- A chunk's slot is canonical. -/
theorem Gmem.wf_chunk (g : Gmem) (hg : g.wf = true) (n : Nat) : (g.chunk n).slot.wf = true := by
  unfold Gmem.chunk
  cases h : g.chunks.find? fun x => x.1 == n with
  | none => rfl
  | some x =>
    have := (keysRise_mem ((Gmem.wf_iff g).1 hg).1 x (List.mem_of_find?_eq_some h)).2
    simp at this
    exact this.2

theorem Chunk.wf_store (k : Chunk) (bs : List Byte) (hk : k.slot.wf = true) : (k.store bs).slot.wf = true := by
  unfold Chunk.store
  dsimp only
  split
  · exact hk
  · exact Memory.wf_writeBytes _ _ hk

theorem Gmem.entry_setEntry (g : Gmem) (hg : g.wf = true) (pa j : Nat) (e : Word) :
    (g.setEntry pa e).entry j = if j = pa then e else g.entry j := by
  unfold Gmem.setEntry Gmem.entry
  split
  · next h =>
    have he : e = 0 := by simpa using h
    rw [find_eraseKey _ _ _ ((Gmem.wf_iff g).1 hg).2]
    split <;> simp [he]
  · rw [find_insertKey]
    split <;> simp

theorem Gmem.wf_setEntry (g : Gmem) (hg : g.wf = true) (pa : Nat) (e : Word) : (g.setEntry pa e).wf = true := by
  have h := (Gmem.wf_iff g).1 hg
  apply (Gmem.wf_iff _).2
  refine ⟨h.1, ?_⟩
  unfold Gmem.setEntry
  split
  · exact keysRise_eraseKey h.2
  · next hz => exact keysRise_insertKey (by simpa using hz) (by omega) h.2

theorem Gmem.wf_setEntries (g : Gmem) (hg : g.wf = true) (es : List (Nat × Word)) : (g.setEntries es).wf = true := by
  unfold Gmem.setEntries
  induction es generalizing g with
  | nil => exact hg
  | cons x es ih => exact ih _ (g.wf_setEntry hg x.1 x.2)

/-- Removing translations keeps the contents. -/
theorem Gmem.wf_shoot (g : Gmem) (hg : g.wf = true) (ctx va len : Nat) : (g.shoot ctx va len).wf = true := hg

theorem Gmem.count_parts (g : Gmem) (va f c : Nat) (w z h : Bool) :
    (g.count va f c w z h).chunks = g.chunks ∧ (g.count va f c w z h).tables = g.tables ∧
      (g.count va f c w z h).zone = g.zone := by
  unfold Gmem.count
  split
  · exact ⟨rfl, rfl, rfl⟩
  · dsimp only
    split <;> exact ⟨rfl, rfl, rfl⟩

theorem Gmem.wf_count (g : Gmem) (hg : g.wf = true) (va f c : Nat) (w z h : Bool) :
    (g.count va f c w z h).wf = true := by
  have e := g.count_parts va f c w z h
  rw [Gmem.wf_iff, e.1, e.2.1]
  exact (Gmem.wf_iff g).1 hg

theorem Gmem.correct_parts (g : Gmem) (n : Nat) :
    (g.correct n).chunks = g.chunks ∧ (g.correct n).tables = g.tables ∧ (g.correct n).zone = g.zone := by
  unfold Gmem.correct; split <;> exact ⟨rfl, rfl, rfl⟩

theorem Gmem.wf_correct (g : Gmem) (hg : g.wf = true) (n : Nat) : (g.correct n).wf = true := by
  have e := g.correct_parts n
  rw [Gmem.wf_iff, e.1, e.2.1]
  exact (Gmem.wf_iff g).1 hg

/-- A repair changes a mark and a count. -/
theorem Gmem.wf_repair (g : Gmem) (hg : g.wf = true) (f c : Nat) (hit : Bool) : (g.repair f c hit).wf = true := by
  unfold Gmem.repair
  dsimp only
  split
  · exact Gmem.wf_correct _ (g.wf_setChunk hg _ { g.chunk (16 * f + c) with soft := false } (g.wf_chunk hg _)) _
  · exact hg

theorem Gmem.wf_correctAt (g : Gmem) (hg : g.wf = true) (ctx va : Nat) : (g.correctAt ctx va).wf = true := by
  unfold Gmem.correctAt
  split
  · exact g.wf_correct hg _
  · exact hg

/-- A translation keeps the canonical form. -/
theorem Gmem.wf_translate (g g' : Gmem) (hg : g.wf = true) (ctx va : Nat) (w : Bool) (f : Nat)
    (h : g.translate ctx va w = .frame g' f) : g'.wf = true := by
  unfold Gmem.translate at h
  split at h
  · cases h
  · split at h
    · cases h; exact hg
    · split at h
      · cases h
      · cases h
      · cases h; exact g.wf_setEntry hg _ _

theorem Gmem.wf_readChunk (g g' : Gmem) (hg : g.wf = true) (ctx va : Nat) (hit : Bool) (bs : List Byte)
    (h : g.readChunk ctx va hit = .done g' bs) : g'.wf = true := by
  unfold Gmem.readChunk at h
  split at h
  · cases h
  · cases h
  · cases h
  · next g1 f ht =>
    have h1 := g.wf_translate g1 hg ctx va false f ht
    dsimp only at h
    split at h
    · cases h; exact Gmem.wf_repair _ (g1.wf_count h1 _ _ _ _ _ _) _ _ _
    · cases h

/-- What a fetch does once or twice keeps the canonical form. -/
theorem Gmem.wf_fetchTwice (g : Gmem) (hg : g.wf = true) (va f : Nat) (k : Chunk) (hit : Bool) :
    (g.fetchTwice va f k hit).1.wf = true := by
  have once (g : Gmem) (h : g.wf = true) :
      ((g.count va f (vaChunk va) false (!k.read) hit).repair f (vaChunk va) hit).wf = true :=
    Gmem.wf_repair _ (g.wf_count h _ _ _ _ _ _) _ _ _
  unfold Gmem.fetchTwice
  dsimp only
  split
  · exact once g hg
  · exact once _ (once g hg)

/-- A chunk of a frame takes new contents, and the access is counted. -/
theorem Gmem.wf_putChunk (g : Gmem) (hg : g.wf = true) (va f n : Nat) (k : Chunk) (hk : k.slot.wf = true)
    (all : List Byte) (z hit : Bool) :
    ((g.count va f (vaChunk va) true z hit).setChunk n (k.store all)).wf = true :=
  Gmem.wf_setChunk _ (g.wf_count hg _ _ _ _ _ _) _ _ (Chunk.wf_store _ _ hk)

theorem Gmem.wf_writeChunk (g g' : Gmem) (hg : g.wf = true) (ctx va : Nat) (bs : List Byte) (hit hitW : Bool)
    (out : List Byte) (h : g.writeChunk ctx va bs hit hitW = .done g' out) : g'.wf = true := by
  unfold Gmem.writeChunk at h
  cases ht : g.translate ctx va true with
  | fault r => rw [ht] at h; cases h
  | fail r => rw [ht] at h; cases h
  | held => rw [ht] at h; cases h
  | frame g1 f =>
    have h1 := g.wf_translate g1 hg ctx va true f ht
    have hk := g1.wf_chunk h1 (16 * f + vaChunk va)
    rw [ht] at h
    dsimp only at h
    generalize hc : g1.chunk (16 * f + vaChunk va) = k at h hk
    by_cases hb : (bs.length == chunkSize) = true
    · rw [if_pos hb] at h
      injection h with h
      rw [← h]
      exact Gmem.wf_putChunk g1 h1 _ _ _ k hk _ _ _
    · rw [if_neg hb] at h
      have h2 := Gmem.wf_fetchTwice g1 h1 va f k hit
      generalize g1.fetchTwice va f k hit = r at h h2
      obtain ⟨g2, o⟩ := r
      cases o with
      | none => cases h
      | some old =>
        dsimp only at h
        injection h with h
        rw [← h]
        exact Gmem.wf_putChunk g2 h2 _ _ _ k hk _ _ _

theorem Gmem.wf_setSlotByte (g : Gmem) (hg : g.wf = true) (a : Nat) (b : Byte) :
    (g.setSlotByte a b).wf = true := by
  unfold Gmem.setSlotByte
  split
  · exact g.wf_setEntry hg _ _
  · exact g.wf_setChunk hg _ _ (Memory.wf_write _ _ (g.wf_chunk hg _))

theorem Gmem.wf_writeSlots (g : Gmem) (hg : g.wf = true) (a : Nat) (bs : List Byte) :
    (g.writeSlots a bs).wf = true := by
  induction bs generalizing g a with
  | nil => exact hg
  | cons b bs ih =>
    simp only [Gmem.writeSlots]
    exact ih _ (g.wf_setSlotByte hg a b) _

/-- Global memory after reset has the canonical form. -/
theorem Gmem.wf_reset : Gmem.reset.wf = true := rfl

end Sys2Proof.Machine
end

