-- ==== Sys2Proof/Laws/Ops.lean ====
section
/-! SUPPORT. How the shared operations of the scalar instructions end: with a retirement, a wait, or a trap. -/

namespace Sys2Proof.Machine

/-! ## Ending an instruction -/

theorem done_eq (i : Instr) (s : State) (f : Core → Core) : done i s f = .next (s.retires (lenOf i) f) := rfl
theorem doneIn_eq (i : Instr) (s : State) : doneIn i s = .next (s.retires (lenOf i) id) := rfl
theorem waiting_eq (s : State) : waiting s = .next s.waits := rfl
theorem stalled_eq (s : State) : stalled s = .next s := rfl

theorem putS_eq (i : Instr) (s : State) (d : SReg) (f : Core → Word) :
    putS i s d f = .next (s.puts d (f s.core) (lenOf i)) := rfl

/-- A trap is taken once no reply is owed (R27, R228). -/
theorem raise_eq (x : Trap) (s : State) (h : s.core.trapHeld = false) :
    raise x s = .next (s.traps x.cause x.tval) := by simp [raise, State.traps, State.mapCore, h]

/-- A trap waits while a reply is owed: nothing changes. -/
theorem raise_owed (x : Trap) (s : State) (h : s.core.trapHeld = true) : raise x s = .next s := by
  simp [raise, State.mapCore, h]

/-- A trap's end in any state. -/
theorem raise_cases (x : Trap) (s t : State) (h : raise x s = .next t) :
    t = s ∨ t = s.traps x.cause x.tval := by
  cases ho : s.core.trapHeld
  · rw [raise_eq x s ho] at h; cases h; exact .inr rfl
  · rw [raise_owed x s ho] at h; cases h; exact .inl rfl

/-- Everything that a retirement changes (R30 to R32). -/
theorem Core.retireTo_eq (c : Core) (pc : Word) :
    c.retireTo pc = { c with
      pc := pc, instret := c.instret + 1, stepping := false, ir := none, trans := { c.trans with i := c.trans.i + 1 }
      run := if c.status.pl = .debug ∧ c.vec.seq = [] then .halt else .run } := by
  by_cases h1 : c.status.pl = .debug <;> by_cases h2 : c.vec.seq = [] <;>
    simp [Core.retireTo, Core.settleStep, Core.isDebug, h1, h2]

/-! ## The trap of a level (R29) -/

theorem Core.takeTrap_debug (c : Core) (x : Trap) (epc : Word) (h : c.status.pl = .debug) :
    c.takeTrap x epc = c.debugStop x.cause x.tval epc := by simp [Core.takeTrap, Core.isDebug, h]

theorem Core.takeTrap_enter (c : Core) (x : Trap) (epc : Word) (h : c.status.pl ≠ .debug) :
    c.takeTrap x epc = c.enter x.cause x.tval epc := by simp [Core.takeTrap, Core.isDebug, h]

/-! ## ALU rows (R107 to R111) -/

theorem alu_eq (i : Instr) (o : AluOp) (f g : Word → Word → Word) (s : State) :
    alu i o f g s = .next (s.puts o.d
      (if o.w then sext32 (g (s.core.rdS o.a) (s.core.rdS o.b)) else f (s.core.rdS o.a) (s.core.rdS o.b))
      (lenOf i)) := rfl

theorem aluShift_eq (i : Instr) (o : AluOp) (f : Nat → Word → Nat → Word) (s : State) :
    aluShift i o f s = .next (s.puts o.d
      (if o.w then sext32 (f 32 (s.core.rdS o.a) ((s.core.rdS o.b).toNat % 32))
        else f 64 (s.core.rdS o.a) ((s.core.rdS o.b).toNat % 64)) (lenOf i)) := by
  rw [aluShift, putS_eq]
  congr 2
  cases o.w <;> simp [byWidth, shiftCount]

theorem compare_eq (i : Instr) (o : CmpOp) (f : Word → Word → Bool) (s : State) :
    compare i o f s =
      .next (s.puts o.d (if f (s.core.rdS o.a) (s.core.rdS o.b) then 1 else 0) (lenOf i)) := rfl

theorem immOp_eq (i : Instr) (d a : SReg) (x : Word) (f : Word → Word → Word) (s : State) :
    immOp i d a x f s = .next (s.puts d (f (s.core.rdS a) x) (lenOf i)) := rfl

theorem unary_eq (i : Instr) (o : UnOp) (f : Word → Word) (s : State) :
    unary i o f s = .next (s.puts o.d (f (s.core.rdS o.a)) (lenOf i)) := rfl

theorem divOperand_eq (sgn w : Bool) (x : Word) : divOperand sgn w x = readAs sgn w x := by
  cases sgn <;> cases w <;> rfl

/-- A division by zero raises the trap of R111. -/
theorem divide_zero (i : Instr) (o : AluOp) (sgn quot : Bool) (s : State)
    (h : readAs sgn o.w (s.core.rdS o.b) = 0) : divide i o sgn quot s = raise ⟨causeIntDiv0, 0⟩ s := by
  simp [divide, divOperand_eq, h]

/-- A division by anything else gives its quotient or its remainder. -/
theorem divide_eq (i : Instr) (o : AluOp) (sgn quot : Bool) (s : State)
    (h : readAs sgn o.w (s.core.rdS o.b) ≠ 0) :
    let p := readAs sgn o.w (s.core.rdS o.a)
    let d := readAs sgn o.w (s.core.rdS o.b)
    let q := Int.tdiv p d
    let x := BitVec.ofInt 64 (if quot then q else p - q * d)
    divide i o sgn quot s = .next (s.puts o.d (if o.w then sext32 x else x) (lenOf i)) := by
  simp [divide, divOperand_eq, h]
  rfl

/-! ## Accesses to the local store (R113 to R117) -/

theorem afterWait_met (w : WaitSel) (s : State) (k : Result) (h : s.core.waitOk w = true) : afterWait w s k = k := by
  simp [afterWait, h]

theorem afterWait_unmet (w : WaitSel) (s : State) (k : Result) (h : s.core.waitOk w = false) :
    afterWait w s k = .next s.waits := by simp [afterWait, h, waiting_eq]

theorem Core.loadTrap_none (c : Core) (ea : Word) (n : Nat) :
    c.loadTrap ea n = none ↔ c.okAccess ea.toNat n = true ∧ ea.toNat % n = 0 ∧ c.badIn ea.toNat n = none := by
  unfold Core.loadTrap
  cases h1 : c.okAccess ea.toNat n <;> by_cases h2 : ea.toNat % n = 0 <;> cases h3 : c.badIn ea.toNat n <;>
    simp_all

theorem Core.storeTrap_none (c : Core) (ea : Word) (n : Nat) :
    c.storeTrap ea n = none ↔
      c.okAccess ea.toNat n = true ∧ ea.toNat % n = 0 ∧ c.mergesBad ea.toNat n = false := by
  unfold Core.storeTrap
  cases h1 : c.okAccess ea.toNat n <;> by_cases h2 : ea.toNat % n = 0 <;> cases h3 : c.mergesBad ea.toNat n <;>
    simp_all

/-- The three traps of an access in their order: bounds, alignment, and a granule with an error. -/
theorem Core.loadTrap_some (c : Core) (ea : Word) (n : Nat) :
    (c.okAccess ea.toNat n = false → c.loadTrap ea n = some ⟨causeLdBounds, ea⟩) ∧
    (c.okAccess ea.toNat n = true → ea.toNat % n ≠ 0 → c.loadTrap ea n = some ⟨causeMisalign, ea⟩) ∧
    (c.okAccess ea.toNat n = true → ea.toNat % n = 0 → (c.badIn ea.toNat n).isSome = true →
      c.loadTrap ea n = some ⟨causeEccLocal, ea⟩) := by
  unfold Core.loadTrap
  refine ⟨fun h => ?_, fun h h' => ?_, fun h h' h'' => ?_⟩ <;> simp_all

theorem Core.storeTrap_some (c : Core) (ea : Word) (n : Nat) :
    (c.okAccess ea.toNat n = false → c.storeTrap ea n = some ⟨causeStBounds, ea⟩) ∧
    (c.okAccess ea.toNat n = true → ea.toNat % n ≠ 0 → c.storeTrap ea n = some ⟨causeMisalign, ea⟩) ∧
    (c.okAccess ea.toNat n = true → ea.toNat % n = 0 → c.mergesBad ea.toNat n = true →
      c.storeTrap ea n = some ⟨causeEccLocal, ea &&& ~~~7#64⟩) := by
  unfold Core.storeTrap
  refine ⟨fun h => ?_, fun h h' => ?_, fun h h' h'' => ?_⟩ <;> simp_all

theorem loadWith_eq (i : Instr) (ea : Word) (n : Nat) (s : State) (w : Nat → Core → Core)
    (h : s.core.loadTrap ea n = none) :
    loadWith i ea n s w = .next (s.retires (lenOf i) fun c => w (c.ls.readN ea.toNat n) c) := by
  simp [loadWith, h]; rfl

theorem loadWith_trap (i : Instr) (ea : Word) (n : Nat) (s : State) (w : Nat → Core → Core) (x : Trap)
    (h : s.core.loadTrap ea n = some x) : loadWith i ea n s w = raise x s := by simp [loadWith, h]

theorem storeWith_eq (i : Instr) (ea : Word) (n : Nat) (x : Word) (s : State)
    (h : s.core.storeTrap ea n = none) :
    storeWith i ea n x s = .next (s.retires (lenOf i) fun c => c.storeN ea.toNat n x.toNat) := by
  simp [storeWith, h]; rfl

theorem storeWith_trap (i : Instr) (ea : Word) (n : Nat) (x : Word) (s : State) (t : Trap)
    (h : s.core.storeTrap ea n = some t) : storeWith i ea n x s = raise t s := by simp [storeWith, h]

/-- A local atomic that passes its checks (R117). -/
theorem lamo_eq (i : Instr) (k : AmoKind) (o : LamoOp) (s : State) (hw : s.core.waitOk o.wt = true)
    (h : s.core.loadTrap (s.core.eaOff o.a o.off) o.size.bytes = none) :
    let n := o.size.bytes
    let a := (s.core.eaOff o.a o.off).toNat
    let m := s.core.ls.readN a n
    lamo i k o s = .next (s.retires (lenOf i) fun c =>
      (match amoNew k n m ((s.core.rdS o.b).toNat % 2 ^ (8 * n)) ((s.core.rdS o.d).toNat % 2 ^ (8 * n)) with
        | some x => c.storeN a n x
        | none => c).wrS o.d (amoResult n m)) := by
  simp only [lamo, afterWait_met _ _ _ hw, h]
  rfl

/-! ## Scalar floating point (R92) -/

theorem commitF_eq (i : Instr) (s : State) (x : Flags) (w : Core → Core) (h : x &&& s.core.fpEnables = 0) :
    commitF i s x w = .next (s.retires (lenOf i) fun c => (w c).orFlags x) := by
  simp [commitF, h]; rfl

theorem commitF_trap (i : Instr) (s : State) (x : Flags) (w : Core → Core) (h : x &&& s.core.fpEnables ≠ 0)
    (ho : s.core.trapHeld = false) :
    commitF i s x w = .next ((s.mapCore fun c => c.orFlags x).traps causeFpTrap (x.setWidth 64)) := by
  have e : (s.mapCore fun c => c.orFlags x).core.trapHeld = false := ho
  have z : BitVec.ofNat 64 x.toNat = x.setWidth 64 := by
    apply BitVec.eq_of_toNat_eq; simp
  have hn : (x &&& s.core.fpEnables != 0) = true := by simpa using h
  simp only [commitF, hn, ho, if_true, raise_eq _ _ e, z]
  rfl

/-- An enabled flag's trap waits for replies: nothing changes. -/
theorem commitF_owed (i : Instr) (s : State) (x : Flags) (w : Core → Core) (h : x &&& s.core.fpEnables ≠ 0)
    (ho : s.core.trapHeld = true) : commitF i s x w = .next s := by
  have hn : (x &&& s.core.fpEnables != 0) = true := by simpa using h
  simp only [commitF, hn, ho, if_true]

/-! ## Branches and jumps (R129, R130) -/

theorem branch_eq (o : BrOp) (f : Word → Word → Bool) (s : State) :
    branch o f s = .next (s.mapCore fun c =>
      c.retireTo (if f (c.rdS o.a) (c.rdS o.b) then c.pc + (imm30 o.off <<< 2) else c.pc + 8)) := by
  simp only [branch, Core.retire]
  congr 2
  funext c
  split <;> rfl

theorem jump_eq (d : SReg) (len : Nat) (target : Core → Word) (s : State) :
    jump d len target s =
      .next (s.mapCore fun c => (c.wrS d (c.pc + BitVec.ofNat 64 len)).retireTo (target c)) := rfl

/-! ## Registers -/

theorem Core.rdS_zero (c : Core) : c.rdS 0 = 0 := rfl
theorem Core.wrS_zero (c : Core) (x : Word) : c.wrS 0 x = c := rfl

theorem Core.rdS_wrS (c : Core) (r r' : SReg) (x : Word) :
    (c.wrS r x).rdS r' = if r' = 0 then 0 else if r' = r then x else c.rdS r' := by
  unfold Core.rdS Core.wrS
  by_cases h : r' = 0
  · simp [h]
  · by_cases hr : r = 0
    · have : r' ≠ r := by rw [hr]; exact h
      simp [h, hr]
    · by_cases e : r' = r
      · subst e
        simp only [h, if_false, if_true]
        exact Vector.getElem_set_self r'.isLt
      · have hne : r.val ≠ r'.val := fun x => e (Fin.ext x.symm)
        simp only [h, hr, e, if_false]
        exact Vector.getElem_set_ne r.isLt r'.isLt hne

theorem Core.rdF_wrF (c : Core) (r r' : FReg) (x : Word) :
    (c.wrF r x).rdF r' = if r' = r then x else c.rdF r' := by
  unfold Core.rdF Core.wrF
  split
  · next h => subst h; exact Vector.getElem_set_self r'.isLt
  · next h => exact Vector.getElem_set_ne r.isLt r'.isLt fun x => h (Fin.ext x.symm)

theorem Core.rdV_wrV (c : Core) (r r' : VReg) (x : VecReg) :
    (c.wrV r x).rdV r' = if r' = r then x else c.rdV r' := by
  unfold Core.rdV Core.wrV
  split
  · next h => subst h; exact Vector.getElem_set_self r'.isLt
  · next h => exact Vector.getElem_set_ne r.isLt r'.isLt fun x => h (Fin.ext x.symm)

@[simp] theorem Core.rdF_wrS (c : Core) (r : SReg) (x : Word) (r' : FReg) : (c.wrS r x).rdF r' = c.rdF r' := by
  unfold Core.wrS; split <;> rfl
@[simp] theorem Core.rdS_wrF (c : Core) (r : FReg) (x : Word) (r' : SReg) : (c.wrF r x).rdS r' = c.rdS r' := rfl
@[simp] theorem Core.rdS_orFlags (c : Core) (x : Flags) (r : SReg) : (c.orFlags x).rdS r = c.rdS r := rfl
@[simp] theorem Core.rdF_orFlags (c : Core) (x : Flags) (r : FReg) : (c.orFlags x).rdF r = c.rdF r := rfl
@[simp] theorem Core.rdS_storeBytes (c : Core) (a : Nat) (bs : List Byte) (r : SReg) :
    (c.storeBytes a bs).rdS r = c.rdS r := rfl
@[simp] theorem Core.rdF_storeBytes (c : Core) (a : Nat) (bs : List Byte) (r : FReg) :
    (c.storeBytes a bs).rdF r = c.rdF r := rfl

/-! ## Cores by number -/

@[simp] theorem State.coreAt_self (s : State) : s.coreAt s.cid = s.core := by simp [State.coreAt]

theorem coreIn_setCoreIn (l : List (Nat × Core)) (k j : Nat) (c : Core) :
    coreIn (setCoreIn l k c) j = if j = k then c else coreIn l j := by
  induction l with
  | nil => by_cases h : k = j <;> simp [setCoreIn, coreIn, h, eq_comm]
  | cons x l ih =>
    obtain ⟨n, y⟩ := x
    unfold setCoreIn
    by_cases h : n = k
    · subst h
      by_cases h' : n = j
      · simp [coreIn, h']
      · simp [coreIn, h', Ne.symm h']
    · by_cases h' : n = j
      · subst h'; simp [coreIn, h]
      · simp [coreIn, h, h', ih]

theorem State.coreAt_setCore (s : State) (k j : Nat) (c : Core) :
    (s.setCore k c).coreAt j = if j = k then c else s.coreAt j := by
  unfold State.setCore State.coreAt
  by_cases hk : k = s.cid
  · subst hk; by_cases h : j = s.cid <;> simp [h]
  · simp only [hk, if_false, coreIn_setCoreIn]
    by_cases h : j = s.cid
    · subst h; simp [Ne.symm hk]
    · simp [h]

theorem State.coreAt_onCore (s : State) (k j : Nat) (f : Core → Core) :
    (s.onCore k f).coreAt j = if j = k then f (s.coreAt k) else s.coreAt j := s.coreAt_setCore k j _

end Sys2Proof.Machine
end

