-- ==== Sys2Proof/Laws/Perform.lean ====
section
/-! SUPPORT. What performing an instruction of the sequencer leaves (R137 to R144, R184). -/

namespace Sys2Proof.Machine

/-! ## Ending a performance -/

theorem Core.advance_seq (c : Core) (e : SeqEntry) (i : Instr) :
    (c.advance e i).vec.seq = e.next.toList ++ c.vec.seq.tail := by
  cases h : e.isTile <;> simp [Core.advance, h] <;> unfold Core.settleStep <;> split <;> rfl

theorem Core.advance_regs (c : Core) (e : SeqEntry) (i : Instr) : (c.advance e i).regs = c.regs := by
  cases h : e.isTile <;> simp [Core.advance, h] <;> unfold Core.settleStep <;> split <;> rfl

theorem Core.advance_ls (c : Core) (e : SeqEntry) (i : Instr) : (c.advance e i).ls = c.ls := by
  cases h : e.isTile <;> simp [Core.advance, h] <;> unfold Core.settleStep <;> split <;> rfl

theorem Core.advance_fp (c : Core) (e : SeqEntry) (i : Instr) : (c.advance e i).fp = c.fp := by
  cases h : e.isTile <;> simp [Core.advance, h] <;> unfold Core.settleStep <;> split <;> rfl

theorem Core.advance_tshp (c : Core) (e : SeqEntry) (i : Instr) : (c.advance e i).tile.tshp = c.tile.tshp := by
  cases h : e.isTile <;> simp [Core.advance, h] <;> unfold Core.settleStep <;> split <;> rfl

/-- A precise trap of a performed instruction discards the entries, and enters with its cause (R143). -/
theorem Core.preciseTrap_trapsAt (c : Core) (e : SeqEntry) (op : SeqOp) (t : Trap) :
    c.trapsAt (c.preciseTrap e op t) e op t.cause ∧ (c.preciseTrap e op t).trap.tval = t.tval ∧
      (c.preciseTrap e op t).fp = c.fp := by
  cases h : c.isDebug <;>
    simp_all [Core.trapsAt, Core.preciseTrap, Core.takeTrap, Core.isDebug, Core.discardAll, Core.tlDown, Core.debugStop,
      Core.enter]

/-- A deferred trap does so as well (R144). -/
theorem Core.deferredTrap_trapsAt (c : Core) (e : SeqEntry) (op : SeqOp) (t : Trap) :
    c.trapsAt (c.deferredTrap e op t) e op t.cause ∧ (c.deferredTrap e op t).trap.tval = t.tval ∧
      (c.deferredTrap e op t).fp = c.fp := by
  cases h : c.isDebug <;>
    simp_all [Core.trapsAt, Core.deferredTrap, Core.takeTrap, Core.isDebug, Core.discardAll, Core.tlDown, Core.debugStop,
      Core.enter]

/-- The sequencer's step on an instruction that neither needs the SFU nor rotates. -/
theorem execSequencerPerform_eq (s : State) (e : SeqEntry) (op : SeqOp) (rest : List SeqEntry) (h : s.heads e op rest)
    (hb : s.core.badRegs = []) (hs : sfuOp op.ins = none) (hr : e.rotOp = none) :
    execSequencerPerform s =
      .next { s with core := s.core.finishPerform e op (s.core.perform (s.ctxOf e) op) } := by
  obtain ⟨h1, h2⟩ := h
  simp [execSequencerPerform, h1, h2, SeqEntry.isSfu, hs, hr, State.ctxOf, Core.performError, Core.inError, hb]

/-- The end of a performance by an enabled flag, where no trap is owed. -/
theorem Core.finishPerform_fptrap (c : Core) (e : SeqEntry) (op : SeqOp) (f : Flags) (v : Word) (hf : e.follow = none)
    (ho : c.owed = false) : c.finishPerform e op (.fptrap f v) = (c.orFlags f).preciseTrap e op ⟨causeFpTrap, v⟩ := by
  simp [Core.finishPerform, hf, ho]

/-! ## Flags -/

theorem orAll_getLsbD (l : List Flags) (b : Nat) :
    (orAll l).getLsbD b = true ↔ ∃ x ∈ l, x.getLsbD b = true := by
  suffices h : ∀ a : Flags, (l.foldl (· ||| ·) a).getLsbD b = true ↔ a.getLsbD b = true ∨ ∃ x ∈ l, x.getLsbD b = true by
    simpa [orAll] using h 0
  induction l with
  | nil => simp
  | cons x xs ih => intro a; simp [ih, or_assoc]

/-- No enabled flag is in the whole raised set just where none is in a part. -/
theorem orAll_and (l : List Flags) (m : Flags) : orAll l &&& m = 0 ↔ ∀ x ∈ l, x &&& m = 0 := by
  have key (x : Flags) : x &&& m = 0 ↔ ∀ b, ¬ (x.getLsbD b = true ∧ m.getLsbD b = true) := by
    constructor
    · intro h b hb
      have := congrArg (fun f : Flags => f.getLsbD b) h
      simp [hb.1, hb.2] at this
    · intro h
      apply BitVec.eq_of_getLsbD_eq
      intro b _
      have := h b
      simp only [BitVec.getLsbD_and]
      cases hx : x.getLsbD b <;> cases hm : m.getLsbD b <;> simp_all
  rw [key]
  simp only [orAll_getLsbD, key]
  constructor
  · intro h x hx b hb; exact h b ⟨⟨x, hx, hb.1⟩, hb.2⟩
  · rintro h b ⟨⟨x, hx, hb⟩, hm⟩; exact h x hx b ⟨hb, hm⟩

/-! ## Elements -/

theorem elemAt_packElems (w : Nat) (xs : List Nat) (j : Nat) :
    elemAt (packElems w xs) w j = xs.getD j 0 % 2 ^ w := by
  have pos (n : Nat) : 0 < 2 ^ n := Nat.pow_pos (by decide)
  induction xs generalizing j with
  | nil => simp [packElems, elemAt]
  | cons x xs ih =>
    cases j with
    | zero => simp [packElems, elemAt]
    | succ j =>
      have h := ih j
      simp only [packElems, elemAt, List.getD_cons_succ] at *
      rw [← h, Nat.mul_add, Nat.mul_one, Nat.add_comm (w * j), Nat.pow_add, ← Nat.div_div_eq_div_mul,
        Nat.add_mul_div_left _ _ (pos w), Nat.div_eq_of_lt (Nat.mod_lt _ (pos w)), Nat.zero_add]

theorem packElems_lt (w : Nat) (xs : List Nat) : packElems w xs < 2 ^ (w * xs.length) := by
  induction xs with
  | nil => simp [packElems]
  | cons x xs ih =>
    have h := Nat.mod_lt x (Nat.pow_pos (n := w) (show 0 < 2 by decide))
    have h2 := Nat.mul_le_mul_left (2 ^ w) (Nat.succ_le_of_lt ih)
    simp only [packElems, List.length_cons, Nat.mul_add, Nat.mul_one, Nat.pow_add]
    rw [Nat.mul_comm (2 ^ (w * xs.length))]
    rw [Nat.mul_succ] at h2
    omega

/-- Writing a register's elements gives each of them its low bits (R18, R19). -/
theorem Core.elem_wrElems (c : Core) (d : VReg) (t : EType) (xs : List Nat) (hl : xs.length = t.count) (j : Nat)
    (hj : j < t.count) : (c.wrElems d t xs).elem d t j = xs.getD j 0 % 2 ^ t.width := by
  have hw : t.width * t.count ≤ 512 := by cases t <;> decide
  have hlt := packElems_lt t.width xs
  rw [hl] at hlt
  have hlt : packElems t.width xs < 2 ^ 512 := Nat.lt_of_lt_of_le hlt (Nat.pow_le_pow_right (by decide) hw)
  have hb : ((c.wrElems d t xs).rdV d).bits.toNat = packElems t.width xs := by
    simp only [Core.wrElems, Core.wrVBits, Core.rdV_wrV]
    exact Nat.mod_eq_of_lt hlt
  simp only [Core.elem, VecReg.elems, unpackElems, hb]
  rw [List.getD_eq_getElem?_getD]
  simp [hj, elemAt_packElems]

/-! ## Lanes (R143, R153) -/

/-- The bits of a mask built by an or of powers of two. -/
theorem foldl_or_bit (l : List Nat) (a b : Nat) :
    (l.foldl (· ||| ·) a).testBit b = true ↔ a.testBit b = true ∨ ∃ x ∈ l, x.testBit b = true := by
  induction l generalizing a with
  | nil => simp
  | cons x xs ih => simp [ih, or_assoc]

/-- Bit `b` of the lane mask: an element of that lane raises an enabled flag (R143). -/
theorem laneMask_bit (en : Flags) (fls : List Flags) (b : Nat) (hb : b < 64) :
    (laneMask en fls).getLsbD b = true ↔
      ∃ j, ∃ h : j < fls.length, fls[j] &&& en ≠ 0 ∧ j / (if fls.length ≤ 64 then 1 else 2) = b := by
  simp only [laneMask, BitVec.getLsbD_ofNat, hb, decide_true, Bool.true_and, foldl_or_bit, Nat.zero_testBit,
    Bool.false_eq_true, false_or, List.mem_map, Prod.exists]
  constructor
  · rintro ⟨x, ⟨f, j, hm, rfl⟩, ht⟩
    obtain ⟨hj, hf⟩ := List.mem_zipIdx' hm
    refine ⟨j, hj, ?_⟩
    rw [← hf]
    split at ht
    · simp at ht
    · rename_i hne
      simp only [Nat.testBit_two_pow] at ht
      exact ⟨by simpa using hne, by simpa using ht⟩
  · rintro ⟨j, hj, hne, hdiv⟩
    refine ⟨2 ^ (j / (if fls.length ≤ 64 then 1 else 2)), ⟨fls[j], j, ?_, ?_⟩, by rw [hdiv]; simp⟩
    · simp [List.mem_zipIdx_iff_getElem?, hj]
    · exact if_neg (by simpa using hne)

theorem EType.lanes_le (t : EType) : t.count ≤ 128 := by cases t <;> decide

theorem EType.per_lane (t : EType) : (if t.count ≤ 64 then 1 else 2) = (if t.count = 128 then 2 else 1) := by
  cases t <;> decide

theorem Core.elem_lt (c : Core) (d : VReg) (t : EType) (j : Nat) : c.elem d t j < 2 ^ t.width := by
  unfold Core.elem VecReg.elems unpackElems
  rw [List.getD_eq_getElem?_getD, List.getElem?_map]
  cases h : (List.range t.count)[j]? with
  | none => simpa using Nat.pow_pos (by decide)
  | some k => simpa [elemAt] using Nat.mod_lt _ (Nat.pow_pos (by decide : 0 < 2))

/-- The elements of a result before it is written: 0 from `n` on, the new ones where `q` enables them, and the old. -/
def Core.laneResults (c : Core) (q : QReg) (d : VReg) (t : EType) (n : Nat) (f : Nat → Nat × Flags) : List (Nat × Flags) :=
  ((c.rdV d).elems t).zipIdx.map fun (o, j) => if n ≤ j then (0, 0) else if maskBit (c.rdQ q) j then f j else (o, 0)

theorem Core.laneResults_length (c : Core) (q : QReg) (d : VReg) (t : EType) (n : Nat) (f : Nat → Nat × Flags) :
    (c.laneResults q d t n f).length = t.count := by
  simp [Core.laneResults, VecReg.elems, unpackElems]

theorem Core.laneResults_get (c : Core) (q : QReg) (d : VReg) (t : EType) (n : Nat) (f : Nat → Nat × Flags) (j : Nat)
    (hj : j < (c.laneResults q d t n f).length) : (c.laneResults q d t n f)[j] =
      if n ≤ j then (0, 0) else if (c.rdQ q).getLsbD j then f j else (c.elem d t j, 0) := by
  have hj' : j < t.count := c.laneResults_length q d t n f ▸ hj
  simp [Core.laneResults, Core.elem, VecReg.elems, unpackElems, maskBit, hj']

/-- A property of flags that no raised set of none has holds of a result's just where it holds of an enabled element's. -/
theorem Core.laneResults_flags (c : Core) (q : QReg) (d : VReg) (t : EType) (n : Nat) (f : Nat → Nat × Flags)
    (hn : n ≤ t.count) (P : Flags → Prop) (h0 : ¬ P 0) :
    (∃ x ∈ (c.laneResults q d t n f).map (·.2), P x) ↔
      ∃ j, (j < n ∧ (c.rdQ q).getLsbD j = true) ∧ P (f j).2 := by
  have hlen := c.laneResults_length q d t n f
  constructor
  · rintro ⟨x, hx, hP⟩
    obtain ⟨y, hy, rfl⟩ := List.mem_map.1 hx
    obtain ⟨j, hj, rfl⟩ := List.getElem_of_mem hy
    rw [c.laneResults_get] at hP
    split at hP
    · exact absurd hP h0
    · split at hP
      · exact ⟨j, ⟨by omega, by assumption⟩, hP⟩
      · exact absurd hP h0
  · rintro ⟨j, ⟨hj, hq⟩, hP⟩
    have hjl : j < (c.laneResults q d t n f).length := by omega
    refine ⟨_, List.mem_map_of_mem (List.getElem_mem hjl), ?_⟩
    rw [c.laneResults_get, if_neg (by omega), if_pos hq]
    exact hP

/-- What committing such a result does: the elements are written and their flags raised, or an enabled flag traps with the
mask of the lanes that raise one (R92, R143, R153). -/
theorem Core.commitV_lanes (c : Core) (q : QReg) (d : VReg) (t : EType) (n : Nat) (f : Nat → Nat × Flags)
    (hn : n ≤ t.count) :
    let on (j : Nat) : Prop := j < n ∧ (c.rdQ q).getLsbD j = true
    let trapping (j : Nat) : Prop := on j ∧ (f j).2 &&& c.fpEnables ≠ 0
    let raised (b : Nat) : Prop := ∃ j, on j ∧ (f j).2.getLsbD b = true
    let r := c.commitV d t (c.laneResults q d t n f)
    ((∀ j, ¬ trapping j) → ∃ u, r = .done u ∧ u.vec = c.vec ∧
      (∀ j < t.count, u.elem d t j =
        if n ≤ j then 0 else if (c.rdQ q).getLsbD j then (f j).1 % 2 ^ t.width else c.elem d t j) ∧
      (u.rdV d).scales = (c.rdV d).scales ∧ (∀ v, v ≠ d → u.rdV v = c.rdV v) ∧
      u.regs = { c.regs with v := u.regs.v } ∧ u.ls = c.ls ∧ c.raises u raised) ∧
    ((∃ j, trapping j) → ∃ fl mask, r = .fptrap fl mask ∧ (∀ b, fl.getLsbD b = true ↔ raised b) ∧
      ∀ b < 64, mask.getLsbD b = true ↔ ∃ j, trapping j ∧ j / (if t.count = 128 then 2 else 1) = b) := by
  intro on trapping raised
  dsimp only
  have hlen := c.laneResults_length q d t n f
  have hget := c.laneResults_get q d t n f
  have hfl := c.laneResults_flags q d t n f hn
  generalize c.laneResults q d t n f = r at *
  have hcond : orAll (r.map (·.2)) &&& c.fpEnables = 0 ↔ ∀ j, ¬ trapping j := by
    rw [orAll_and]
    have := hfl (fun x => x &&& c.fpEnables ≠ 0) (by simp)
    constructor
    · intro h j hj
      obtain ⟨x, hx, hx2⟩ := this.2 ⟨j, hj.1, hj.2⟩
      exact hx2 (h x hx)
    · intro h x hx
      refine Classical.byContradiction fun hc => ?_
      obtain ⟨j, h1, h2⟩ := this.1 ⟨x, hx, hc⟩
      exact h j ⟨h1, h2⟩
  have hbits (b : Nat) := (orAll_getLsbD (r.map (·.2)) b).trans (hfl (fun x => x.getLsbD b = true) (by simp))
  constructor
  · intro hno
    have h0 := hcond.2 hno
    refine ⟨(c.wrElems d t (r.map (·.1))).orFlags (orAll (r.map (·.2))), ?_, rfl, ?_, ?_, ?_, rfl, rfl, rfl, ?_⟩
    · simp [Core.commitV, Core.commit, h0]
    · intro j hj
      have hjl : j < r.length := by omega
      have h1 := Core.elem_wrElems c d t (r.map (·.1)) (by simp [hlen]) j hj
      refine h1.trans ?_
      simp only [List.getD_eq_getElem?_getD, List.getElem?_map, List.getElem?_eq_getElem hjl, Option.map_some,
        Option.getD_some, hget]
      split
      · simp
      · split
        · rfl
        · exact Nat.mod_eq_of_lt (c.elem_lt d t j)
    · have h := Core.rdV_wrV c d d { c.rdV d with bits := BitVec.ofNat 512 (packElems t.width (r.map (·.1))) }
      exact (congrArg VecReg.scales h).trans (by rw [if_pos rfl])
    · intro v hv
      exact (Core.rdV_wrV c d v _).trans (if_neg hv)
    · intro b
      simp only [Core.orFlags, BitVec.getLsbD_or, Bool.or_eq_true, hbits]
      rfl
  · intro hex
    have h0 : orAll (r.map (·.2)) &&& c.fpEnables ≠ 0 := fun h => by
      obtain ⟨j, hj⟩ := hex
      exact hcond.1 h j hj
    refine ⟨_, laneMask c.fpEnables (r.map (·.2)), by unfold Core.commitV Core.commit; exact if_pos (by simpa using h0), hbits, fun b hb => ?_⟩
    rw [laneMask_bit _ _ _ hb]
    simp only [List.length_map, hlen, List.getElem_map, EType.per_lane]
    constructor
    · rintro ⟨j, hj, h4, h5⟩
      refine ⟨j, ?_, h5⟩
      rw [hget j (by omega)] at h4
      split at h4
      · simp at h4
      · split at h4
        · exact ⟨⟨by omega, by assumption⟩, h4⟩
        · simp at h4
    · rintro ⟨j, ⟨⟨h6, h7⟩, h4⟩, h5⟩
      refine ⟨j, by omega, ?_, h5⟩
      rw [hget, if_neg (by omega), if_pos h7]
      exact h4

/-- An element-wise instruction commits such a result. -/
theorem Core.mapV_eq (c : Core) (k : VCtl) (d : VReg) (f : Nat → Nat × Flags) :
    c.mapV k d f = c.commitV d k.et (c.laneResults k.q d k.et k.et.count f) := by
  unfold Core.mapV lanes Core.laneResults
  congr 1
  apply List.map_congr_left
  rintro ⟨o, j⟩ hm
  have := (List.mem_zipIdx' hm).1
  have hj : j < k.et.count := by simpa [VecReg.elems, unpackElems] using this
  simp [Nat.not_le.2 hj]

/-! ## The steps that perform lanes -/

/-- Only `tmrot` is performed with its transfers. -/
theorem SeqEntry.rotOp_none {e : SeqEntry} {op : SeqOp} (h : e.op? = some op) (hi : ∀ o, op.ins ≠ .tmrot o) :
    e.rotOp = none := by
  simp only [SeqEntry.rotOp, SeqEntry.tile, h, Option.bind_some]
  cases ht : tileOf op.ins with
  | none => rfl
  | some x =>
    cases x <;> try rfl
    exfalso
    generalize op.ins = i at ht hi
    cases i <;> simp_all [tileOf]

/-- Where performing commits such a result, the sequencer's step gives the lanes. -/
theorem lanesGive_sequencer (i : Instr) (q : QReg) (d : VReg) (t : EType) (n : Nat)
    (f : Core → PerfCtx → SeqOp → Nat → Nat × Flags) (hs : sfuOp i = none)
    (hr : ∀ o, i ≠ .tmrot o) (hn : n ≤ t.count)
    (hp : ∀ (c : Core) (x : PerfCtx) (op : SeqOp), op.ins = i →
      c.perform x op = c.commitV d t (c.laneResults q d t n (f c x op))) :
    LanesGive .sequencerPerform (fun s => s.core.badRegs = []) i q d t n f := by
  intro s e op rest hi hh hb
  have he : exec .sequencerPerform s = _ := execSequencerPerform_eq s e op rest hh hb (hi ▸ hs) (SeqEntry.rotOp_none hh.2 (hi ▸ hr))
  dsimp only
  rw [he, hp _ _ _ hi]
  obtain ⟨h1, h2⟩ := s.core.commitV_lanes q d t n (f s.core (s.ctxOf e) op) hn
  constructor
  · intro hno
    obtain ⟨u, hu, hv, ha, hb, hc, hd, hl, hf⟩ := h1 hno
    refine ⟨_, rfl, ?_, ?_, ?_, ?_, ?_, ?_, ?_⟩
    all_goals simp only [hu, Core.finishPerform]
    · rw [Core.advance_seq, hv, hh.1]; rfl
    · simpa only [Core.elem, Core.rdV, Core.advance_regs] using ha
    · simpa only [Core.rdV, Core.advance_regs] using hb
    · simpa only [Core.rdV, Core.advance_regs] using hc
    · simpa only [Core.advance_regs] using hd
    · rw [Core.advance_ls, hl]
    · simpa only [Core.raises, Core.advance_fp] using hf
  · intro hex hf ho
    obtain ⟨fl, mask, hu, hbit, hm⟩ := h2 hex
    refine ⟨_, rfl, ?_⟩
    simp only [hu]
    rw [Core.finishPerform_fptrap _ _ _ _ _ hf ho]
    obtain ⟨h3, h4, h5⟩ := (s.core.orFlags fl).preciseTrap_trapsAt e op ⟨causeFpTrap, mask⟩
    refine ⟨h3, ⟨?_, fun b => ?_⟩, fun b hb => ?_⟩
    · rw [h5]; rfl
    · rw [h5]
      simp only [Core.orFlags, BitVec.getLsbD_or, Bool.or_eq_true, hbit]
    · rw [h4]
      exact hm b hb

/-- Where the performance commits such a result, the SFU's return gives the lanes. -/
theorem lanesGive_sfu (i : Instr) (q : QReg) (d : VReg) (t : EType) (n : Nat)
    (f : Core → PerfCtx → SeqOp → Nat → Nat × Flags) (hn : n ≤ t.count)
    (hp : ∀ (c : Core) (x y : PerfCtx) (op : SeqOp), op.ins = i →
      c.perform x op = c.commitV d t (c.laneResults q d t n (f c y op))) :
    LanesGive .sfuReturn State.sfuReturns i q d t n f := by
  intro s e op rest hi hh hb
  obtain ⟨r, outs, hr, ho⟩ := hb
  have he : exec .sfuReturn s = execSfuReturn s := rfl
  dsimp only
  rw [he]
  unfold execSfuReturn
  simp only [hr, ho, hh.1, hh.2, hp s.core _ (s.ctxOf e) op hi]
  obtain ⟨h1, h2⟩ := s.core.commitV_lanes q d t n (f s.core (s.ctxOf e) op) hn
  constructor
  · intro hno
    obtain ⟨u, hu, hv, ha, hb, hc, hd, hl, hf⟩ := h1 hno
    simp only [hu, bne_self_eq_false, Bool.false_eq_true, if_false]
    refine ⟨_, rfl, ?_, ?_, ?_, ?_, ?_, ?_, ?_⟩
    · change (u.advance e op.ins).vec.seq = _
      rw [Core.advance_seq, hv, hh.1]; rfl
    · simpa only [Core.elem, Core.rdV, Core.advance_regs] using ha
    · simpa only [Core.rdV, Core.advance_regs] using hb
    · simpa only [Core.rdV, Core.advance_regs] using hc
    · simpa only [Core.advance_regs] using hd
    · simpa only [Core.advance_ls] using hl
    · simpa only [Core.raises, Core.advance_fp] using hf
  · intro hex hf ho
    obtain ⟨fl, mask, hu, hbit, hm⟩ := h2 hex
    simp only [hu, bne_self_eq_false, Bool.false_eq_true, if_false, ho, Bool.false_and]
    refine ⟨_, rfl, ?_⟩
    rw [Core.finishPerform_fptrap _ _ _ _ _ hf ho]
    obtain ⟨h3, h4, h5⟩ := (s.core.orFlags fl).preciseTrap_trapsAt e op ⟨causeFpTrap, mask⟩
    refine ⟨h3, ⟨?_, fun b => ?_⟩, fun b hb => ?_⟩
    · rw [h5]; rfl
    · rw [h5]
      simp only [Core.orFlags, BitVec.getLsbD_or, Bool.or_eq_true, hbit]
    · rw [h4]
      exact hm b hb

/-! ## Accesses one after another (R140, R149) -/

/-- A step performs at least one access, and no more than are left. -/
theorem PerfCtx.next_bounds (x : PerfCtx) (left : Nat) : x.next left ≤ left ∧ (0 < left → 0 < x.next left) := by
  unfold PerfCtx.next
  refine ⟨Nat.sub_le _ _, fun h => ?_⟩
  have := Nat.mod_lt x.free h
  omega

theorem Core.firstBad_none (c : Core) (l : List MemItem) (h : ∀ it ∈ l, c.badIn it.range.1 it.range.2 = none) :
    c.firstBad (l.map MemItem.range) = none := by
  simpa [Core.firstBad, List.findSome?_eq_none_iff] using h

/-- The end of a performance by a bad granule, where no trap is owed. -/
theorem Core.finishPerform_ecc (c : Core) (e : SeqEntry) (op : SeqOp) (g : Nat) (hf : e.follow = none)
    (ho : c.owed = false) :
    let u := c.finishPerform e op (.ecc g)
    c.trapsAt u e op 0x1A ∧ u.trap.tval = BitVec.ofNat 64 g ∧ u.fp = c.fp := by
  simp only [Core.finishPerform, hf, ho]
  cases h : c.precise
  · exact Core.deferredTrap_trapsAt c e op ⟨causeEccLocal, BitVec.ofNat 64 g⟩
  · exact Core.preciseTrap_trapsAt c e op ⟨causeEccLocal, BitVec.ofNat 64 g⟩

/-- Where performing reads the next of `items` and at the last writes what they read, the step loads them. -/
theorem loadsItems_of (i : Instr) (need : State → SeqEntry → SeqOp → Prop) (items : Core → SeqEntry → SeqOp → List MemItem)
    (w : Nat) (after : Core → SeqEntry → SeqOp → List Nat → Core → Prop)
    (wr : Core → PerfCtx → SeqOp → List (MemItem × Nat) → Core) (hs : sfuOp i = none) (hr : ∀ o, i ≠ .tmrot o)
    (hp : ∀ (s : State) (e : SeqEntry) (op : SeqOp), op.ins = i → need s e op → s.core.perform (s.ctxOf e) op =
      s.core.readNext (s.ctxOf e) w (items s.core e op) (wr s.core (s.ctxOf e) op))
    (hw : ∀ (s : State) (e : SeqEntry) (op : SeqOp) (vals : List Nat), op.ins = i → need s e op →
      vals.length = (items s.core e op).length →
      let u := wr s.core (s.ctxOf e) op ((items s.core e op).zip vals)
      u.vec.seq = s.core.vec.seq ∧ u.ls = s.core.ls ∧ u.fp = s.core.fp ∧ after s.core e op vals (u.advance e op.ins)) :
    LoadsItems i need items w after := by
  intro s e op rest hi hh hb hn hl hc
  have he : exec .sequencerPerform s = _ :=
    execSequencerPerform_eq s e op rest hh hb (hi ▸ hs) (SeqEntry.rotOp_none hh.2 (hi ▸ hr))
  rw [he, hp s e op hi hn]
  dsimp only
  have hpart : (s.ctxOf e).part = e.part := rfl
  obtain ⟨b1, b2⟩ := (s.ctxOf e).next_bounds ((items s.core e op).length - e.part.count)
  refine ⟨e.part.count + (s.ctxOf e).next ((items s.core e op).length - e.part.count), by omega, by omega, by omega,
    ?_, ?_⟩
  · intro hno
    have hno := s.core.firstBad_none _ hno
    unfold Core.readNext
    simp only [hpart, hno] at *
    constructor
    · intro hlt
      simp [hlt, Core.finishPerform]
    · intro heq
      refine ⟨_, rfl, ?_⟩
      rw [if_neg (by omega)]
      simp only [Core.finishPerform]
      obtain ⟨h1, h2, h3, h4⟩ := hw s e op (e.part.vals ++
        ((items s.core e op).take (e.part.count +
          (s.ctxOf e).next ((items s.core e op).length - e.part.count)) |>.drop e.part.count).map (s.core.readItem w)) hi hn
        (by simp [hl]; omega)
      refine ⟨?_, ?_, ?_, h4⟩
      · rw [Core.advance_seq, h1, hh.1]; rfl
      · rw [Core.advance_ls, h2]
      · rw [Core.advance_fp, h3]
  · intro g hg hf ho
    unfold Core.readNext
    simp only [hpart, hg] at *
    exact ⟨_, rfl, by simpa using s.core.finishPerform_ecc e op g hf ho⟩

/-- Putting accesses one after another keeps what each of them keeps. -/
theorem foldl_put (put : Core → MemItem → Core)
    (hk : ∀ c it, (put c it).regs = c.regs ∧ (put c it).fp = c.fp ∧ (put c it).vec = c.vec ∧
      ∀ a, (a < it.range.1 ∨ it.range.1 + it.range.2 ≤ a) → (put c it).ls.read a = c.ls.read a)
    (l : List MemItem) (c : Core) :
    let u := l.foldl put c
    u.regs = c.regs ∧ u.fp = c.fp ∧ u.vec = c.vec ∧
      ∀ a, (∀ it ∈ l, a < it.range.1 ∨ it.range.1 + it.range.2 ≤ a) → u.ls.read a = c.ls.read a := by
  induction l generalizing c with
  | nil => simp
  | cons x xs ih =>
    obtain ⟨h1, h2, h3, h4⟩ := ih (put c x)
    obtain ⟨k1, k2, k3, k4⟩ := hk c x
    refine ⟨h1.trans k1, h2.trans k2, h3.trans k3, fun a ha => ?_⟩
    rw [List.foldl_cons, h4 a (fun it hit => ha it (List.mem_cons_of_mem _ hit)), k4 a (ha x List.mem_cons_self)]

/-- Where performing checks the flags and then puts the next of `items`, the step stores them. -/
theorem storesItems_of (i : Instr) (need : State → SeqEntry → SeqOp → Prop)
    (items : Core → SeqEntry → SeqOp → List MemItem) (put : Core → SeqOp → Core → MemItem → Core) (fl : Core → Flags)
    (hs : sfuOp i = none) (hr : ∀ o, i ≠ .tmrot o)
    (hp : ∀ (s : State) (e : SeqEntry) (op : SeqOp), op.ins = i → need s e op → s.core.perform (s.ctxOf e) op =
      if fl s.core &&& s.core.fpEnables != 0 then .fptrap (fl s.core) ((fl s.core).setWidth 64)
      else match s.core.storeNext (s.ctxOf e) (items s.core e op) (put s.core op) with
        | .done c => .done (c.orFlags (fl s.core))
        | r => r)
    (hk : ∀ c op c' it, (put c op c' it).regs = c'.regs ∧ (put c op c' it).fp = c'.fp ∧ (put c op c' it).vec = c'.vec ∧
      ∀ a, (a < it.range.1 ∨ it.range.1 + it.range.2 ≤ a) → (put c op c' it).ls.read a = c'.ls.read a) :
    StoresItems i need items put fl := by
  intro s e op rest hi hh hb hn hc
  have he : exec .sequencerPerform s = _ :=
    execSequencerPerform_eq s e op rest hh hb (hi ▸ hs) (SeqEntry.rotOp_none hh.2 (hi ▸ hr))
  rw [he, hp s e op hi hn]
  have fk (l : List MemItem) := foldl_put (put s.core op) (hk s.core op) l s.core
  have hpart : (s.ctxOf e).part = e.part := rfl
  dsimp only
  constructor
  · intro hne hf ho
    rw [if_pos (by simpa using hne), Core.finishPerform_fptrap _ _ _ _ _ hf ho]
    obtain ⟨h1, h2, h3⟩ := (s.core.orFlags (fl s.core)).preciseTrap_trapsAt e op
      ⟨causeFpTrap, (fl s.core).setWidth 64⟩
    exact ⟨_, rfl, h1, h2, h3⟩
  · intro h0
    rw [if_neg (by simpa using h0)]
    unfold Core.storeNext
    simp only [hpart]
    constructor
    · intro g hg hf ho
      simp only [hg]
      obtain ⟨h1, h2, h3⟩ := s.core.finishPerform_ecc e op g hf ho
      exact ⟨_, rfl, h1, h2, by rw [h3]; simp⟩
    · intro hno
      simp only [hno]
      obtain ⟨b1, b2⟩ := (s.ctxOf e).next_bounds ((items s.core e op).drop e.part.count).length
      refine ⟨(s.ctxOf e).next ((items s.core e op).drop e.part.count).length, b1,
        fun h => b2 (List.length_pos_iff.2 h), (fk _).2.2.2, fun hlt => ?_, fun heq => ?_⟩
      · rw [if_pos hlt]
        rfl
      · rw [if_neg (by omega)]
        obtain ⟨h1, h2, h3, _⟩ := fk (((items s.core e op).drop e.part.count).take
          ((s.ctxOf e).next ((items s.core e op).drop e.part.count).length))
        refine ⟨_, rfl, ?_⟩
        simp only [Core.finishPerform, Core.advance_seq, Core.advance_ls, Core.advance_regs, Core.advance_fp, Core.orFlags]
        exact ⟨by rw [h3, hh.1]; rfl, trivial, h1, by rw [h2]⟩

end Sys2Proof.Machine
end

