-- ==== Sys2Proof/Laws/Remote.lean ====
section
/-! SUPPORT. The fields and the checks of remote addresses, and the reports of recorded failures. -/

namespace Sys2Proof.Machine

/-! ## Fields of a word -/

/-- A field of a word is its slice. -/
theorem fieldOf_ext (x : Word) (s l : Nat) : fieldOf x.toNat s l = (x.extractLsb' s l).toNat := by
  simp [fieldOf, BitVec.extractLsb'_toNat, Nat.shiftRight_eq_div_pow]

theorem remoteCid_eq (x : Word) : remoteCid x = targetOf x := by simp [remoteCid, targetOf, fieldOf_ext]
theorem remoteLocal_eq (x : Word) : remoteLocal x = offsetOf x := by simp [remoteLocal, offsetOf, fieldOf_ext]

theorem eq0_iff {w} (x : BitVec w) : x = 0 ↔ x.toNat = 0 := by
  constructor
  · intro h; simp [h]
  · intro h; apply BitVec.eq_of_toNat_eq; simpa using h

/-- A bit is clear where its field is zero. -/
theorem bit_iff (x : Word) (k : Nat) : x.getLsbD k = false ↔ fieldOf x.toNat k 1 = 0 := by
  simp only [BitVec.getLsbD, Nat.testBit, fieldOf, Nat.shiftRight_eq_div_pow, Nat.one_and_eq_mod_two]
  rcases Nat.mod_two_eq_zero_or_one (x.toNat / 2^k) with h | h <;> simp [h]

/-! ## Checks (R222, R231) -/

theorem remoteZeros_iff (x : Word) : remoteZeros x = true ↔ ZeroFields x := by
  unfold ZeroFields
  rw [eq0_iff, eq0_iff, bit_iff, ← fieldOf_ext, ← fieldOf_ext]
  simp [remoteZeros, and_assoc]

theorem remoteTrap_ok {c ea n} (h : RemoteOk ea n) : remoteTrap c ea n = none := by
  obtain ⟨h1, h2, h3⟩ := h
  have := (remoteZeros_iff ea).2 h1
  simp [remoteTrap, this, remoteLocal_eq, lsSize, h3]; omega

theorem cidZeros_iff (x : Word) : cidZeros x = true ↔ NamesCore x := by
  unfold NamesCore
  rw [eq0_iff, bit_iff, ← fieldOf_ext]
  have : fieldOf x.toNat 24 40 = x.toNat / 2^24 := by
    have := x.isLt; simp only [fieldOf]; omega
  simp [cidZeros, this]

theorem remoteAddr0 (x : Word) : remoteAddr x.toNat 0 = x <<< 32 := by
  apply BitVec.eq_of_toNat_eq; simp [remoteAddr, Nat.shiftLeft_eq]

/-- An instruction that begins with its wait field and the checks of R222 traps as they say. -/
theorem checksRemote_of (i : Instr) (w : WaitSel) (ea : Word) (n bounds : Nat) (s : State) (k : Result)
    (he : exec i s = afterWait w s (match remoteTrap bounds ea n with
      | some t => raise t s
      | none => k)) : ChecksRemote i w ea n bounds s := by
  intro hw ho
  rw [he]; rw [afterWait_met _ _ _ hw]
  constructor
  · intro h
    have : remoteTrap bounds ea n = some ⟨bounds, ea⟩ := by
      unfold remoteTrap
      rcases h with h | h
      · have : remoteZeros ea ≠ true := fun x => h ((remoteZeros_iff _).1 x)
        simp [this]
      · by_cases hz : remoteZeros ea = true
        · simp [hz, remoteLocal_eq, lsSize]; omega
        · simp [hz]
    rw [this]; exact raise_eq _ _ ho
  · intro h1 h2 h3
    have : remoteTrap bounds ea n = some ⟨0x06, ea⟩ := by
      unfold remoteTrap
      have := (remoteZeros_iff _).2 h1
      simp [this, remoteLocal_eq, lsSize, h3, causeMisalign]; omega
    rw [this]; exact raise_eq _ _ ho

/-! ## Reports (R383) -/

theorem Core.covered_iff (c : Core) (cls : OpClass → Bool) (dest : Bool) :
    c.covered cls dest = true ↔ c.failureIn (fun k => cls k = true ∧ dest = true) (fun k => cls k = true) := by
  have h4 : afClass c.afault = (c.afault.extractLsb' 12 2).toNat := by simp [afClass, fieldOf_ext]
  have hp : ∀ k : OpClass, (afPend c.afault / 2 ^ k.code % 2 == 1) = c.afault.getLsbD (28 + k.code) := by
    intro k
    simp only [afPend, fieldOf, BitVec.getLsbD, Nat.testBit, Nat.shiftRight_eq_div_pow, Nat.one_and_eq_mod_two]
    cases k <;> simp [OpClass.code] <;> first | omega | (rw [Bool.eq_iff_iff]; simp; omega)
  simp only [Core.covered, Core.failureIn, Bool.and_eq_true, Bool.or_eq_true, afValid, h4, hp]
  apply and_congr_right; intro _
  constructor
  · rintro (⟨h1, h2⟩ | h2)
    · simp at h2; rcases h2 with h | h | h | h
      · exact ⟨.ld, .inl ⟨⟨h.1, h1⟩, h.2⟩⟩
      · exact ⟨.st, .inl ⟨⟨h.1, h1⟩, h.2⟩⟩
      · exact ⟨.cp, .inl ⟨⟨h.1, h1⟩, h.2⟩⟩
      · exact ⟨.tl, .inl ⟨⟨h.1, h1⟩, h.2⟩⟩
    · simp only [List.any_cons, List.any_nil, Bool.or_eq_true, Bool.and_eq_true] at h2
      rcases h2 with h | h | h | h | h
      · exact ⟨.ld, .inr ⟨h.1, h.2⟩⟩
      · exact ⟨.st, .inr ⟨h.1, h.2⟩⟩
      · exact ⟨.cp, .inr ⟨h.1, h.2⟩⟩
      · exact ⟨.tl, .inr ⟨h.1, h.2⟩⟩
      · simp at h
  · rintro ⟨k, (⟨⟨h1, h2⟩, h3⟩ | ⟨h1, h2⟩)⟩
    · left; refine ⟨h2, ?_⟩; cases k <;> simp [h1, h3]
    · right; cases k <;> simp_all

/-- An instruction that ends in `reportOr` reports what it covers, and otherwise ends as `k`. -/
theorem reports_of (i : Instr) (s : State) (cls : OpClass → Bool) (dest : Bool) (P Q : Prop) (k : Result)
    (he : exec i s = reportOr (s.core.covered cls dest) s k)
    (hP : P ↔ s.core.failureIn (fun k => cls k = true ∧ dest = true) (fun k => cls k = true))
    (hQ : exec i s = k → Q) : Reports i s P Q := by
  rw [← Core.covered_iff] at hP
  constructor
  · intro hm hn
    have : s.core.replaying = false := by simp [Core.replaying]; exact hm
    apply hQ; rw [he]; simp only [reportOr, this, reportLive]
    have : s.core.covered cls dest = false := Bool.eq_false_iff.2 fun h => hn (hP.2 h)
    simp [this]
  · intro hm hc ho
    have : s.core.replaying = false := by simp [Core.replaying, hm]
    rw [he]; simp only [reportOr, this, reportLive, hP.1 hc, ho]
    have hr : (s.mapCore fun c => c.record 5 0 c.afault) = s := by
      simp [State.mapCore, Core.record, Core.recording, hm]
    simp only [hr]
    simp [Core.report, raise_eq _ _ ho, afCause, fieldOf_ext]

theorem State.fenceMet_iff (s : State) (sc : FenceScope) : s.fenceMet sc = true ↔ s.fenceDone sc := by
  simp only [State.fenceMet, State.fenceDone, Bool.and_eq_true, List.all_eq_true]
  apply and_congr
  · apply forall_congr'; intro o; apply forall_congr'; intro ho
    cases hk : o.kind <;> simp [OutKind.fenced]
  · constructor
    · intro h x hx d hd
      have := h x (List.mem_filterMap.2 ⟨_, hx, rfl⟩)
      simp at this; exact this d hd
    · intro h x hx
      obtain ⟨y, hy, e⟩ := List.mem_filterMap.1 hx
      cases y <;> simp [FifoItem.xfer?] at e
      subst e; simp; exact h _ hy

/-! ## Tokens (R364) -/

/-- While firmware has set up no port, no access waits for tokens. -/
theorem State.charge_noPorts (s : State) (ports : List Nat) (ctx cost : Nat) (h : s.host.ports = []) :
    s.charge ports ctx cost = some s := by
  have hs : { s with host := { s.host with ports := [] } } = s := by rw [← h]
  simp [State.charge, h, hs]

end Sys2Proof.Machine
end

