-- ==== Sys2Proof/Laws/SysRegs.lean ====
section
/-! SUPPORT. How `mfsr` and `mtsr` end, from what reading and writing a register gives (R133, R134). -/

namespace Sys2Proof.Machine

/-- Outside a transcript, and after what it waits for, a read gives `s[d]` the register's value. -/
theorem readReg_eq (i : Instr) (d : SReg) (r : SysReg) (s : State) (hm : s.core.trans.mode = 0)
    (hq : r = .fpflags → s.core.vec.seq = []) :
    readReg i d r s = .next (s.puts d (s.readSys r) (lenOf i)) := by
  have hw : (r.readWaits && !s.core.seqEmpty) = false := by
    by_cases h : r = .fpflags
    · simp [Core.seqEmpty, hq h]
    · simp [SysReg.readWaits, h]
  have hr : ∀ n x, s.core.record 3 n x = s.core := by simp [Core.record, Core.recording, hm]
  have hp : s.core.replaying = false := by simp [Core.replaying, hm]
  simp only [readReg, hw, Core.transcribe, hp, hr]
  simp
  rfl

/-- A write that the register takes changes the state as `writeSys` says and retires. -/
theorem writeReg_eq (i : Instr) (r : SysReg) (a : SReg) (s : State) (f : Core → Core) (hr : r ≠ .trctl)
    (hq : r.writeWaits = true → s.core.vec.seq = [])
    (hw : s.writeSys r (s.core.rdS a) = .ok (s.mapCore f)) :
    writeReg i r a s = .next (s.retires (lenOf i) f) := by
  have h : (r.writeWaits && !s.core.seqEmpty) = false := by
    by_cases h : r.writeWaits = true
    · simp [Core.seqEmpty, hq h]
    · simp at h; simp [h]
  simp only [writeReg, h, hw]
  simp [Core.startCount, hr, State.mapCore, State.retires]

/-- A write that the register refuses traps with `ILLEGAL`. -/
theorem writeReg_illegal (i : Instr) (r : SysReg) (a : SReg) (s : State)
    (hq : r.writeWaits = true → s.core.vec.seq = []) (hw : s.writeSys r (s.core.rdS a) = .illegal) :
    writeReg i r a s = raise (illegalOf (.mtsr r a)) s := by
  have h : (r.writeWaits && !s.core.seqEmpty) = false := by
    by_cases h : r.writeWaits = true
    · simp [Core.seqEmpty, hq h]
    · simp at h; simp [h]
  simp [writeReg, h, hw]

/-- A register without read-only fields takes every value of them. -/
theorem State.keepsRo_of (s : State) (r : SysReg) (x : Word) (h : roMask r = 0) : s.keepsRo r x = true := by
  simp [State.keepsRo, h]

end Sys2Proof.Machine
end

