-- ==== Sys2Proof/Tests/Slice0.lean ====
section
/-! SUPPORT. Tests: ill-formed instructions that the checks refuse, words written out from the encodings of file 02,
and single steps on small states, with results computed by hand from the rules. -/

open Sys2Proof Sys2Proof.Machine

section
set_option Elab.async false

/-! ## Helpers: small states -/

/-- The machine after reset with a change of the core in focus. -/
def onReset (f : Core → Core) : State := State.reset.mapCore f

/-- The core that an instruction leaves, or the core after reset where it gives no next state. -/
def coreAfter (i : Instr) (s : State) : Core :=
  match exec i s with
  | .next t => t.core
  | _ => Core.reset

/-- `s1` and `s2` hold two values. -/
def twoRegs (x y : Word) : State := onReset fun c => (c.wrS 1 x).wrS 2 y

/-- `s3` after an ALU row on `s1` and `s2`. -/
def aluOf (mk : AluOp → Instr) (w : Bool) (x y : Word) : Word := (coreAfter (mk ⟨3, 1, 2, w⟩) (twoRegs x y)).rdS 3

/-- `s3` after a row without W. -/
def cmpOf (mk : CmpOp → Instr) (x y : Word) : Word := (coreAfter (mk ⟨3, 1, 2⟩) (twoRegs x y)).rdS 3

/-- `s3` after a row with one operand. -/
def unOf (mk : UnOp → Instr) (x : Word) : Word := (coreAfter (mk ⟨3, 1⟩) (twoRegs x 0)).rdS 3

/-- `f1` and `f2` hold two values, under `FPCTL`. -/
def twoF (ctl : BitVec 8) (x y : Word) : State :=
  onReset fun c => { (c.wrF 1 x).wrF 2 y with fp := ⟨ctl, 0⟩ }

/-- Why the decoder refuses bytes. -/
def refusal (bs : List Byte) : Option DecodeError :=
  match decode bs with
  | .error e => some e
  | .ok _ => none

/-- The plain control fields of a vector row. -/
def plainCtl (t : EType) : VCtl := ⟨t, 0, 0, .rne, false, false⟩

/-- An address without an index. -/
def atReg (r : SReg) (off : BitVec 22) : MemArg := ⟨r, 0, false, off, .none⟩


/-! ## Ill-formed instructions (checks 3 to 5 of R67) -/

theorem test_wf_yield_limit : (Instr.yield 65).wf = false := by decide

theorem test_wf_sext_width_zero : (Instr.sext ⟨1, 2, 0⟩).wf = false := by decide

theorem test_wf_zext_width : (Instr.zext ⟨1, 2, 65⟩).wf = false := by decide

theorem test_wf_bext_past_end : (Instr.bext ⟨1, 2, 63, 2⟩).wf = false := by decide

theorem test_wf_bins_width_zero : (Instr.bins ⟨1, 2, 3, 0⟩).wf = false := by decide

theorem test_wf_ld_unsigned_8 : (Instr.ld ⟨1, .b8, true, ⟨2, 0, false, 0, .none⟩⟩).wf = false := by decide

theorem test_wf_st_index_without_x : (Instr.st ⟨1, .b8, ⟨2, 3, false, 0, .none⟩⟩).wf = false := by decide

theorem test_wf_fld_index_without_x : (Instr.fld ⟨1, ⟨2, 3, false, 0, .none⟩⟩).wf = false := by decide

theorem test_wf_lamo_size : (Instr.lamoAdd ⟨1, 2, 3, .b2, 0, .none⟩).wf = false := by decide

theorem test_wf_vld_hold : (Instr.vld ⟨1, 0, ⟨.i8, 0, 1, .none⟩⟩).wf = false := by decide

theorem test_wf_vlds_type : (Instr.vlds ⟨1, 2, ⟨.e2m1, 0, 0, .none⟩⟩).wf = false := by decide

theorem test_wf_vgather_type : (Instr.vgather ⟨1, 2, 3, ⟨.i16, 0, 0, .none⟩⟩).wf = false := by decide

theorem test_wf_vmov_type : (Instr.vmov ⟨1, 2, ⟨.i8, 0, 0, .rne, false, false⟩⟩).wf = false := by decide

theorem test_wf_vmov_predicate : (Instr.vmov ⟨1, 2, ⟨.i4, 1, 0, .rne, false, false⟩⟩).wf = false := by decide

theorem test_wf_vbcs_rounding : (Instr.vbcs ⟨1, 2, ⟨.i8, 0, 0, .rtz, false, false⟩⟩).wf = false := by decide

theorem test_wf_vbcf_type : (Instr.vbcf ⟨1, 2, ⟨.i8, 0, 0, .rne, false, false⟩⟩).wf = false := by decide

theorem test_wf_vmvs_element : (Instr.vmvs ⟨1, 2, 64, ⟨.i8, 0, 0, .rne, false, false⟩⟩).wf = false := by decide

theorem test_wf_vmvf_element : (Instr.vmvf ⟨1, 2, 8, ⟨.fp64, 0, 0, .rne, false, false⟩⟩).wf = false := by decide

theorem test_wf_vsel_hold : (Instr.vsel ⟨1, 2, 3, ⟨.i8, 0, 4, .rne, false, false⟩⟩).wf = false := by decide

theorem test_wf_vslide_hold : (Instr.vslide ⟨1, 2, 3, ⟨.i8, 0, 2, .rne, false, false⟩⟩).wf = false := by decide

theorem test_wf_vperm_type : (Instr.vperm ⟨1, 2, 3, ⟨.i4, 0, 0, .rne, false, false⟩⟩).wf = false := by decide

theorem test_wf_vadd_type : (Instr.vadd ⟨1, 2, 3, ⟨.i4, 0, 0, .rne, false, false⟩⟩).wf = false := by decide

theorem test_wf_vadd_integer_rounding : (Instr.vadd ⟨1, 2, 3, ⟨.i8, 0, 0, .rup, false, false⟩⟩).wf = false := by decide

theorem test_wf_vadd_random_fp32 : (Instr.vadd ⟨1, 2, 3, ⟨.fp32, 0, 0, .rne, false, true⟩⟩).wf = false := by decide

theorem test_wf_vadd_random_rounding : (Instr.vadd ⟨1, 2, 3, ⟨.fp16, 0, 0, .rup, false, true⟩⟩).wf = false := by decide

theorem test_wf_vmulh_type : (Instr.vmulh ⟨1, 2, 3, ⟨.fp16, 0, 0, .rne, false, false⟩⟩).wf = false := by decide

theorem test_wf_vsqrt_type : (Instr.vsqrt ⟨1, 2, ⟨.i32, 0, 0, .rne, false, false⟩⟩).wf = false := by decide

theorem test_wf_vabs_hold : (Instr.vabs ⟨1, 2, ⟨.i32, 0, 2, .rne, false, false⟩⟩).wf = false := by decide

theorem test_wf_vfma_type : (Instr.vfma ⟨1, 2, 3, 4, ⟨.e4m3, 0, 0, .rne, false, false⟩⟩).wf = false := by decide

theorem test_wf_vclamp_saturate : (Instr.vclamp ⟨1, 2, 3, 4, ⟨.i8, 0, 0, .rne, true, false⟩⟩).wf = false := by decide

theorem test_wf_vadds_type : (Instr.vadds ⟨1, 2, 3, ⟨.fp32, 0, 0, .rne, false, false⟩⟩).wf = false := by decide

theorem test_wf_vand_rounding : (Instr.vand ⟨1, 2, 3, ⟨.i8, 0, 0, .rtz, false, false⟩⟩).wf = false := by decide

theorem test_wf_vnot_hold : (Instr.vnot ⟨1, 2, ⟨.i8, 0, 2, .rne, false, false⟩⟩).wf = false := by decide

theorem test_wf_vshl_type : (Instr.vshl ⟨1, 2, 3, ⟨.fp16, 0, 0, .rne, false, false⟩⟩).wf = false := by decide

theorem test_wf_vshli_count : (Instr.vshli ⟨1, 2, 8, ⟨.i8, 0, 0, .rne, false, false⟩⟩).wf = false := by decide

theorem test_wf_vpopc_type : (Instr.vpopc ⟨1, 2, ⟨.fp16, 0, 0, .rne, false, false⟩⟩).wf = false := by decide

theorem test_wf_vceq_type : (Instr.vceq ⟨1, 2, 3, ⟨.i4, 0, 0, .rne, false, false⟩⟩).wf = false := by decide

theorem test_wf_vcun_type : (Instr.vcun ⟨1, 2, 3, ⟨.i8, 0, 0, .rne, false, false⟩⟩).wf = false := by decide

theorem test_wf_qand_type : (Instr.qand ⟨1, 2, 3, ⟨.i8, 0, 0, .rne, false, false⟩⟩).wf = false := by decide

theorem test_wf_qset_predicate : (Instr.qset ⟨1, 2, 3, ⟨.i4, 1, 0, .rne, false, false⟩⟩).wf = false := by decide

theorem test_wf_qpopc_predicate : (Instr.qpopc ⟨1, 2, ⟨.i8, 1, 0, .rne, false, false⟩⟩).wf = false := by decide

theorem test_wf_vcvt_random_integer : (Instr.vcvt ⟨.i8, 1, 2, ⟨.fp32, 0, 0, .rne, false, true⟩⟩).wf = false := by decide

theorem test_wf_vrsum_file : (Instr.vrsum ⟨.f 1, 2, ⟨.i32, 0, 0, .rne, false, false⟩⟩).wf = false := by decide

theorem test_wf_vdot_file : (Instr.vdot ⟨.s 1, 2, 3, ⟨.fp32, 0, 0, .rne, false, false⟩⟩).wf = false := by decide

theorem test_wf_vsclset_predicate : (Instr.vsclset ⟨1, 2, 3, ⟨.i4, 2, 0, .rne, false, false⟩⟩).wf = false := by decide

theorem test_wf_vrenorm_type : (Instr.vrenorm ⟨1, 2, ⟨.fp32, 0, 0, .rne, false, false⟩⟩).wf = false := by decide

theorem test_wf_vdeq_run : (Instr.vdeq ⟨1, 2, ⟨.e4m3, 0, 0, .rne, false, false⟩⟩).wf = false := by decide

theorem test_wf_vquant_run : (Instr.vquant ⟨1, 2, ⟨.e2m1, 0, 0, .rne, false, false⟩⟩).wf = false := by decide

theorem test_wf_vexp2_type : (Instr.vexp2 ⟨1, 2, ⟨.i32, 0, 0, .rne, false, false⟩⟩).wf = false := by decide

theorem test_wf_vrng_type : (Instr.vrng ⟨1, 2, ⟨.fp32, 0, 0, .rne, false, false⟩⟩).wf = false := by decide

theorem test_wf_vrngu_type : (Instr.vrngu ⟨1, 2, ⟨.i32, 0, 0, .rne, false, false⟩⟩).wf = false := by decide

theorem test_wf_vdrop_type : (Instr.vdrop ⟨1, 2, 3, 4, ⟨.i32, 0, 0, .rne, false, false⟩⟩).wf = false := by decide

theorem test_wf_vloop_body : (Instr.vloop ⟨17, 1, 0⟩).wf = false := by decide

theorem test_wf_tmma_type : (Instr.tmma ⟨1, 2, 3, .i16, .i8, .int32⟩).wf = false := by decide

theorem test_wf_tsacc_group : (Instr.tsacc ⟨1, 2, 5, 8, .fp32⟩).wf = false := by decide

theorem test_wf_tepi_bias : (Instr.tepi ⟨1, 2, 4, .bf16, .fp32, .cvt, .rne, false⟩).wf = false := by decide

theorem test_wf_tepi_integer_rounding : (Instr.tepi ⟨1, 2, 0, .i8, .int32, .cvt, .rup, false⟩).wf = false := by decide

theorem test_wf_tfol_combination : (Instr.tfol 1 (.tmma ⟨1, 2, 3, .i8, .i4, .int32⟩)).wf = false := by decide

theorem test_wf_amsg_run : (Instr.amsg ⟨1, 2, 61, .none, false⟩).wf = false := by decide

theorem test_wf_amsgl_run : (Instr.amsgl ⟨1, 2, 57, .none, false⟩).wf = false := by decide

theorem test_wf_amsgp_length : (Instr.amsgp ⟨1, 2, 3, 4, 4097, 0, .none, false⟩).wf = false := by decide

theorem test_wf_rld_unsigned_8 : (Instr.rld ⟨1, .b8, true, ⟨2, 0, false, 0, .none⟩, false⟩).wf = false := by decide

theorem test_wf_ramo_nr_cas : (Instr.ramo ⟨.cas, true, 0, 2, 3, .b8, 0, .none, false⟩).wf = false := by decide

theorem test_wf_cpush_run : (Instr.cpush ⟨1, 61, 0, .none⟩).wf = false := by decide

theorem test_wf_cpfence_empty : (Instr.cpfence 0).wf = false := by decide

theorem test_wf_wlpush_run : (Instr.wlpush ⟨1, 61, 2, .none⟩).wf = false := by decide

theorem test_wf_sstl_length : (Instr.sstl ⟨1, 2, 3, 257, .none⟩).wf = false := by decide

theorem test_wf_mtsr_read_only : (Instr.mtsr .cid 1).wf = false := by decide

theorem test_kernel_only : (Instr.mfsr 1 .tvec).kernelOnly = true ∧ (Instr.mfsr 1 .instret).kernelOnly = false ∧
    (Instr.mtsr .instret 1).kernelOnly = true ∧ (Instr.mtsr .fpctl 1).kernelOnly = false := by decide

theorem test_combination : (Instr.tmma ⟨1, 2, 3, .i8, .i4, .int32⟩).comboOk = false ∧
    (Instr.tmma ⟨1, 2, 3, .ds8, .bf16, .fp32⟩).comboOk = true := by decide

/-! ## Words that no instruction has -/

theorem test_refused_len_zero :
    refusal (toBytesLE 16 0b000000000000000000000000000000_000010_000001_000011_000000_00000001_00) =
      some .length := by decide +kernel

theorem test_refused_opcode :
    refusal (toBytesLE 16 0b000000000000000000000000000000_000010_000001_000011_000000_11111111_01) =
      some .opcode := by decide +kernel

theorem test_refused_function :
    refusal (toBytesLE 16 0b000000000000000000000000000000_000010_000001_000011_010111_00000001_01) =
      some .function := by decide +kernel

theorem test_refused_register :
    refusal (toBytesLE 16 0b000000000000000000000_000_000000_000010_000001_100000_000000_00011000_01) =
      some .register := by decide +kernel

theorem test_refused_rounding_code :
    refusal (toBytesLE 16 0b000000000000000000000_101_000000_000010_000001_000000_000000_00011000_01) =
      some .code := by decide +kernel

theorem test_refused_unused_field :
    refusal (toBytesLE 16 0b00000000000000000000000_0_000001_000010_000001_000011_000000_00000001_01) =
      some .unused := by decide +kernel

theorem test_refused_short :
    refusal (toBytesLE 11 0b000010_000001_000011_000000_00000010_10) = some .length := by decide +kernel

/-! ## Words of every family, bit by bit from file 02 -/

theorem test_word_add_w :
    decodeTableWord 64 0b00000000000000000000000_1_000000_011110_010100_001010_000000_00000001_01 =
      some (.add ⟨10, 20, 30, true⟩) := by decide +kernel

theorem test_word_csel :
    decodeTableWord 64 0b00000000000000000000000_0_001001_000011_000010_000001_010110_00000001_01 =
      some (.csel ⟨1, 2, 3, 9⟩) := by decide +kernel

theorem test_word_addi64 :
    decodeTableWord 64 0b111111111111111111111111111111_000000_000101_000100_000000_00000010_01 =
      some (.addi64 ⟨4, 5, -1⟩) := by decide +kernel

theorem test_word_addi96 :
    decodeTableWord 96 (0b11111111111111111111111111111111 * 2 ^ 64 +
      0b000000000000000000000000000101_000000_000101_000100_000000_00000010_10) =
      some (.addi96 ⟨4, 5, -(2 ^ 30) + 5⟩) := by decide +kernel

theorem test_word_li128 :
    decodeTableWord 128 (0b1000000000000000000000000000000000000000000000000000000000000001 * 2 ^ 64 +
      0b000000000000000000000000000000_000000_000000_000111_100000_00000010_11) =
      some (.li128 7 0x8000000000000001) := by decide +kernel

theorem test_word_shli :
    decodeTableWord 64 0b000000000000000000000000000000_111111_000101_000100_000111_00000010_01 =
      some (.shli ⟨4, 5, 63⟩) := by decide +kernel

theorem test_word_madd_w :
    decodeTableWord 64 0b00000000000000000000000_1_111111_111110_111101_111100_001000_00000011_01 =
      some (.madd ⟨60, 61, 62, 63, true⟩) := by decide +kernel

theorem test_word_bins :
    decodeTableWord 64 0b000000000000000000000000011000_101000_001000_000111_001000_00000100_01 =
      some (.bins ⟨7, 8, 40, 24⟩) := by decide +kernel

theorem test_word_lea :
    decodeTableWord 64 0b11111111111111111111110_0_000011_000110_000101_000100_000000_00000101_01 =
      some (.lea ⟨4, 5, 6, 3, -2⟩) := by decide +kernel

theorem test_word_ld :
    decodeTableWord 64 0b1111111111111111111000_0_01_1_1_010_000111_000110_000101_000000_00001000_01 =
      some (.ld ⟨5, .b4, true, ⟨6, 7, true, -8, .st⟩⟩) := by decide +kernel

theorem test_word_st :
    decodeTableWord 64 0b0000000000000000010000_0_11_0_0_000_000000_000110_000101_000000_00001001_01 =
      some (.st ⟨5, .b1, ⟨6, 0, false, 16, .all⟩⟩) := by decide +kernel

theorem test_word_lamo_cas :
    decodeTableWord 64 0b0000000000000000001000_0_00_0_0_011_000111_000110_000101_001001_00001010_01 =
      some (.lamoCas ⟨5, 6, 7, .b8, 8, .none⟩) := by decide +kernel

theorem test_word_fst :
    decodeTableWord 64 0b1111111111111111111111_0_10_0_0_011_000000_000110_011111_000001_00001011_01 =
      some (.fst ⟨31, ⟨6, 0, false, -1, .cp⟩⟩) := by decide +kernel

theorem test_word_bge :
    decodeTableWord 64 0b111111111111111111111111111110_001001_001000_000000_000011_00010000_01 =
      some (.bge ⟨8, 9, -2⟩) := by decide +kernel

theorem test_word_jal64 :
    decodeTableWord 64 0b000000000000000000000000000100_000000_000000_000001_000000_00010010_01 =
      some (.jal64 1 4) := by decide +kernel

theorem test_word_jal_abs :
    decodeTableWord 96 (0b00000000000000000000000000000001 * 2 ^ 64 +
      0b000000000000000000000000001000_000000_000000_000001_000000_00010010_10) =
      some (.jalAbs 1 (2 ^ 30 + 8)) := by decide +kernel

theorem test_word_jalr :
    decodeTableWord 64 0b000000000000000000000000001100_000000_000010_000001_000000_00010011_01 =
      some (.jalr ⟨1, 2, 12⟩) := by decide +kernel

theorem test_word_yield :
    decodeTableWord 64 0b000000000000000000000001000000_000000_000000_000000_000011_00010100_01 =
      some (.yield 64) := by decide +kernel

theorem test_word_nop128 :
    decodeTableWord 128 (0b0000000000000000000000000000000000000000000000000000000000000000 * 2 ^ 64 +
      0b000000000000000000000000000000_000000_000000_000000_000000_00010100_11) =
      some (.nop128) := by decide +kernel

theorem test_word_fma :
    decodeTableWord 64 0b00000000000000000000_1_111_000100_000011_000010_000001_010000_00011000_01 =
      some (.fma ⟨1, 2, 3, 4, true, .dyn⟩) := by decide +kernel

theorem test_word_fcvt_lu_d :
    decodeTableWord 64 0b00000000000000000000_0_011_000000_000000_011111_111111_001010_00011001_01 =
      some (.fcvtLuD ⟨63, 31, .rup⟩) := by decide +kernel

theorem test_word_vld_b :
    decodeTableWord 64 0b000000000000_01_1101_000_011_000000_001010_001001_101111_000001_00100000_01 =
      some (.vldB ⟨47, 9, 10, ⟨.fp32, 3, 0, .st⟩⟩) := by decide +kernel

theorem test_word_vst :
    decodeTableWord 64 0b000000000000_10_0000_000_000_000000_000000_000011_000101_000000_00100001_01 =
      some (.vst ⟨5, 3, ⟨.i4, 0, 0, .cp⟩⟩) := by decide +kernel

theorem test_word_vscatter :
    decodeTableWord 64 0b000000000000_00_0100_010_001_000000_000111_000110_000101_000001_00100010_01 =
      some (.vscatter ⟨5, 6, 7, ⟨.i64, 1, 2, .none⟩⟩) := by decide +kernel

theorem test_word_vmvs :
    decodeTableWord 64 0b000000000_0_0_000_0001_001_000_000000_111111_000110_000101_000011_00100011_01 =
      some (.vmvs ⟨5, 6, 63, ⟨.i8, 0, 1, .rne, false, false⟩⟩) := by decide +kernel

theorem test_word_vfma :
    decodeTableWord 64 0b000000000_1_1_000_1100_111_010_001000_000111_000110_000101_001010_00100100_01 =
      some (.vfma ⟨5, 6, 7, 8, ⟨.fp16, 2, 7, .rne, true, true⟩⟩) := by decide +kernel

theorem test_word_vshri :
    decodeTableWord 64 0b000000000_0_0_000_0011_001_000_000000_011111_000110_000101_001000_00100101_01 =
      some (.vshri ⟨5, 6, 31, ⟨.i32, 0, 1, .rne, false, false⟩⟩) := by decide +kernel

theorem test_word_vcun :
    decodeTableWord 64 0b000000000_0_0_000_1110_011_000_000000_000111_000110_000101_000100_00100110_01 =
      some (.vcun ⟨5, 6, 7, ⟨.fp64, 0, 3, .rne, false, false⟩⟩) := by decide +kernel

theorem test_word_qget :
    decodeTableWord 64 0b000000000_0_0_000_0000_000_000_000000_000001_000111_000101_000101_00100111_01 =
      some (.qget ⟨5, 7, 1, ⟨.i4, 0, 0, .rne, false, false⟩⟩) := by decide +kernel

theorem test_word_vcvt :
    decodeTableWord 64 0b000000000_1_1_000_1101_001_000_000000_000000_000110_000101_001000_00101000_01 =
      some (.vcvt ⟨.e4m3, 5, 6, ⟨.fp32, 0, 1, .rne, true, true⟩⟩) := by decide +kernel

theorem test_word_vdot_f :
    decodeTableWord 64 0b000000000_0_0_010_1011_011_000_000000_000111_000110_011111_000011_00101001_01 =
      some (.vdot ⟨.f 31, 6, 7, ⟨.bf16, 0, 3, .rdn, false, false⟩⟩) := by decide +kernel

theorem test_word_vrsum_s :
    decodeTableWord 64 0b000000000_0_0_000_0100_000_000_000000_000000_000110_111111_000000_00101001_01 =
      some (.vrsum ⟨.s 63, 6, ⟨.i64, 0, 0, .rne, false, false⟩⟩) := by decide +kernel

theorem test_word_vsclget :
    decodeTableWord 64 0b000000000_0_0_000_0000_001_000_000000_000011_000110_000101_000001_00101010_01 =
      some (.vsclget ⟨5, 6, 3, ⟨.i4, 0, 1, .rne, false, false⟩⟩) := by decide +kernel

theorem test_word_vquant :
    decodeTableWord 64 0b000000000_0_1_100_0101_000_000_000000_000000_000000_000101_000100_00101010_01 =
      some (.vquant ⟨5, 0, ⟨.e2m1, 0, 0, .rmm, true, false⟩⟩) := by decide +kernel

theorem test_word_vtanh :
    decodeTableWord 64 0b000000000_0_0_000_1100_001_110_000000_000000_000110_000101_000110_00101011_01 =
      some (.vtanh ⟨5, 6, ⟨.fp16, 6, 1, .rne, false, false⟩⟩) := by decide +kernel

theorem test_word_vdrop :
    decodeTableWord 64 0b000000000_0_0_000_1101_001_000_000100_000111_000110_000101_000010_00101100_01 =
      some (.vdrop ⟨5, 6, 7, 4, ⟨.fp32, 0, 1, .rne, false, false⟩⟩) := by decide +kernel

theorem test_word_vloop :
    decodeTableWord 64 0b000000000000000000000001100100_000000_000101_010000_000001_00101101_01 =
      some (.vloop ⟨16, 5, 100⟩) := by decide +kernel

theorem test_word_vshget :
    decodeTableWord 64 0b000000000000000000000000000000_000111_000011_000101_000100_00101101_01 =
      some (.vshget 5 3 7) := by decide +kernel

theorem test_word_zst :
    decodeTableWord 64 0b0000000000000000_000_0_10_0000_0000_000000_000110_000011_000101_01000000_01 =
      some (.zst ⟨3, 6, .int32⟩) := by decide +kernel

theorem test_word_tmmo :
    decodeTableWord 64 0b0000000000000000_000_1_00_1001_1000_000111_000110_000011_000000_01000001_01 =
      some (.tmmo ⟨3, 6, 7, .e4m3, .e5m2, .fp32⟩) := by decide +kernel

theorem test_word_tsacc :
    decodeTableWord 64 0b0000000000000000_000_0_01_00_101110_101100_000010_000011_000000_01000010_01 =
      some (.tsacc ⟨3, 2, 44, 46, .fp64⟩) := by decide +kernel

theorem test_word_tepi :
    decodeTableWord 64 0b0000000000001010_011_0_00_0000_1011_001000_000110_000011_000000_01000011_01 =
      some (.tepi ⟨3, 6, 8, .bf16, .fp32, .biasRelu, .rdn, true⟩) := by decide +kernel

theorem test_word_tmrot :
    decodeTableWord 64 0b0000000000000000_000_0_10_0001_0001_000111_000110_000011_000000_01000100_01 =
      some (.tmrot ⟨3, 6, 7, .i8, .i8, .int32⟩) := by decide +kernel

theorem test_word_tfol :
    decodeTableWord 128 (0b000000000000000000000000000000_000000_000000_000110_000010_01000000_01 * 2 ^ 64 +
      0b000000000000000000000000000000_000000_000000_000011_000000_01000110_11) =
      some (.tfol 3 (.tzero 6)) := by decide +kernel

theorem test_word_amsgp :
    decodeTableWord 96 (0b000000000000_0010_000_1000000000000 * 2 ^ 64 +
      0b000000000000000_1_10_000000_001001_001000_000111_000110_000010_01010000_10) =
      some (.amsgp ⟨6, 7, 8, 9, 4096, 2, .cp, true⟩) := by decide +kernel

theorem test_word_rstv :
    decodeTableWord 64 0b0000000000000001000000_1_00_0_0_110_000000_000110_101111_000001_01010001_01 =
      some (.rstv ⟨47, ⟨6, 0, false, 64, .none⟩, true⟩) := by decide +kernel

theorem test_word_rld :
    decodeTableWord 64 0b0000000000000000000100_0_00_1_1_010_000111_000110_000101_000000_01010010_01 =
      some (.rld ⟨5, .b4, true, ⟨6, 7, true, 4, .none⟩, false⟩) := by decide +kernel

theorem test_word_ramo_nr :
    decodeTableWord 64 0b0000000000000000000100_1_00_0_0_010_000111_000110_000000_011000_01010011_01 =
      some (.ramo ⟨.swp, true, 0, 6, 7, .b4, 4, .none, true⟩) := by decide +kernel

theorem test_word_wait :
    decodeTableWord 64 0b000000000000000000000000_000100_000011_000010_000001_000000_01010100_01 =
      some (.wait ⟨1, 2, 3, 4⟩) := by decide +kernel

theorem test_word_fence_fabric :
    decodeTableWord 64 0b000000000000000000000000000000_000000_000000_000000_000100_01010101_01 =
      some (.fenceFabric) := by decide +kernel

theorem test_word_bar_package :
    decodeTableWord 64 0b000000000000000000000011111111_000000_000000_000000_000011_01010110_01 =
      some (.barPackage 255) := by decide +kernel

theorem test_word_mbwait :
    decodeTableWord 64 0b000000000000000000000000000000_000000_000101_000000_000001_01010111_01 =
      some (.mbwait 5) := by decide +kernel

theorem test_word_cpush :
    decodeTableWord 64 0b000000000000000_0_01_000011_000000_000000_111100_000101_000000_01100000_01 =
      some (.cpush ⟨5, 60, 3, .st⟩) := by decide +kernel

theorem test_word_cpwait :
    decodeTableWord 64 0b000000000000000_0_00_000010_000000_000000_000101_000000_000000_01100001_01 =
      some (.cpwait 5 2) := by decide +kernel

theorem test_word_cpfence :
    decodeTableWord 64 0b000000000000000_0_00_001111_000000_000000_000000_000000_000000_01100010_01 =
      some (.cpfence 15) := by decide +kernel

theorem test_word_cpresume :
    decodeTableWord 64 0b000000000000000_0_00_000001_000000_000000_000000_000000_000000_01100011_01 =
      some (.cpresume 1) := by decide +kernel

theorem test_word_wlpush :
    decodeTableWord 64 0b000000000000000_0_11_000000_001001_111100_000111_000000_000000_01101000_01 =
      some (.wlpush ⟨7, 60, 9, .all⟩) := by decide +kernel

theorem test_word_sst :
    decodeTableWord 64 0b000000000000000_0_01_000010_000000_001000_000111_000110_000000_01110000_01 =
      some (.sst ⟨6, 7, 8, .b4, .st⟩) := by decide +kernel

theorem test_word_sstl :
    decodeTableWord 96 (0b00000000000000000000000_100000000 * 2 ^ 64 +
      0b000000000000000_0_00_000000_000000_001000_000111_000110_000010_01110000_10) =
      some (.sstl ⟨6, 7, 8, 256, .none⟩) := by decide +kernel

theorem test_word_gend :
    decodeTableWord 64 0b000000000000000_0_00_000000_000000_000000_000000_101000_000000_01111000_01 =
      some (.gend 40) := by decide +kernel

theorem test_word_mfsr :
    decodeTableWord 64 0b000000000000000000_000011000001_000000_000000_000101_000000_10000000_01 =
      some (.mfsr 5 .ibcount) := by decide +kernel

theorem test_word_mtsr :
    decodeTableWord 64 0b000000000000000000_000001110111_000000_000101_000000_000000_10000001_01 =
      some (.mtsr (.tshp 7) 5) := by decide +kernel

theorem test_word_exit :
    decodeTableWord 64 0b000000000000000000000000000100_000000_000101_000000_000011_10000010_01 =
      some (.exit 5 4) := by decide +kernel

theorem test_word_mint :
    decodeTableWord 64 0b000000000000000000000010000101_000000_000101_000000_000101_10000010_01 =
      some (.mint 5 5) := by decide +kernel

theorem test_word_brk :
    decodeTableWord 64 0b011111111111111111111111111111_000000_000000_000000_000001_10000010_01 =
      some (.brk 0x1FFFFFFF) := by decide +kernel

/-! ## Single steps: scalar integers -/

theorem test_add_wraps : aluOf .add false (-1) 2 = 1 := by decide +kernel
theorem test_add_w_extends : aluOf .add true 0x7FFFFFFF 1 = 0xFFFFFFFF80000000 := by decide +kernel
theorem test_sub_order : aluOf .sub false 3 5 = -2 := by decide +kernel
theorem test_andn : aluOf .andn false 0xFF 0x0F = 0xF0 := by decide +kernel
theorem test_orn : aluOf .orn false 0 (-2) = 1 := by decide +kernel
theorem test_shl_count : aluOf .shl false 1 65 = 2 := by decide +kernel
theorem test_shl_w_count : aluOf .shl true 1 63 = 0xFFFFFFFF80000000 := by decide +kernel
theorem test_shr_w_reads_low : aluOf .shr true 0xFFFFFFFF00000010 4 = 1 := by decide +kernel
theorem test_sra_sign : aluOf .sra false (-16) 2 = -4 := by decide +kernel
theorem test_rol_w : aluOf .rol true 0x80000001 4 = 0x18 := by decide +kernel
theorem test_ror_zero : aluOf .ror false 0x123 64 = 0x123 := by decide +kernel
theorem test_min_signed : aluOf .min false (-1) 1 = -1 := by decide +kernel
theorem test_maxu_w : aluOf .maxu true 0x180000000 1 = 0xFFFFFFFF80000000 := by decide +kernel
theorem test_sltu : cmpOf .sltu (-1) 1 = 0 := by decide +kernel
theorem test_slt : cmpOf .slt (-1) 1 = 1 := by decide +kernel
theorem test_mulh : cmpOf .mulh (-1) 2 = -1 := by decide +kernel
theorem test_mulhu : cmpOf .mulhu (-1) 2 = 1 := by decide +kernel
theorem test_mulhsu : cmpOf .mulhsu (-1) (-1) = -1 := by decide +kernel
theorem test_div_toward_zero : aluOf .div false (-7) 2 = -3 := by decide +kernel
theorem test_div_overflow : aluOf .div false 0x8000000000000000 (-1) = 0x8000000000000000 := by decide +kernel
theorem test_rem_sign : aluOf .rem false (-7) 2 = -1 := by decide +kernel
theorem test_remu_w : aluOf .remu true 0xFFFFFFFF 16 = 15 := by decide +kernel
theorem test_clz_zero : unOf .clz 0 = 64 := by decide +kernel
theorem test_ctz : unOf .ctz 0x100 = 8 := by decide +kernel
theorem test_popc : unOf .popc 0xF000000000000001 = 5 := by decide +kernel
theorem test_brev : unOf .brev 3 = 0xC000000000000000 := by decide +kernel
theorem test_bswap : unOf .bswap 0x0102030405060708 = 0x0807060504030201 := by decide +kernel
theorem test_sext : (coreAfter (.sext ⟨3, 1, 4⟩) (twoRegs 0x18 0)).rdS 3 = -8 := by decide +kernel
theorem test_bext : (coreAfter (.bext ⟨3, 1, 60, 4⟩) (twoRegs 0xA000000000000000 0)).rdS 3 = 10 := by decide +kernel
theorem test_bins : (coreAfter (.bins ⟨2, 1, 8, 4⟩) (twoRegs 0x25 0xFFFF)).rdS 2 = 0xF5FF := by decide +kernel
theorem test_lea : (coreAfter (.lea ⟨3, 1, 2, 3, -1⟩) (twoRegs 100 2)).rdS 3 = 115 := by decide +kernel
theorem test_li96 : (coreAfter (.li96 0 (-1)) State.reset).rdS 0 = 0 ∧
    (coreAfter (.li96 1 (-1)) State.reset).rdS 1 = -1 ∧ (coreAfter (.li96 1 (-1)) State.reset).pc = 12 := by
  decide +kernel
theorem test_madd_same_register :
    (coreAfter (.madd ⟨1, 1, 2, 1, false⟩) (twoRegs 5 6)).rdS 1 = 35 := by decide +kernel
theorem test_division_by_zero :
    (coreAfter (.div ⟨3, 1, 2, false⟩) (twoRegs 5 0)).trap.cause = 9 ∧
      (coreAfter (.div ⟨3, 1, 2, false⟩) (twoRegs 5 0)).instret = 0 := by decide +kernel

/-! ## Single steps: the local store -/

/-- A core whose byte 8 is 0x80. -/
def withByte : State := onReset fun c => (c.wrS 1 8).storeN 8 8 0x80

theorem test_ld_sign : (coreAfter (.ld ⟨3, .b1, false, atReg 1 0⟩) withByte).rdS 3 = -128 := by decide +kernel
theorem test_ld_unsigned : (coreAfter (.ld ⟨3, .b1, true, atReg 1 0⟩) withByte).rdS 3 = 0x80 := by decide +kernel
theorem test_ld_index_scales :
    (coreAfter (.ld ⟨3, .b4, false, ⟨1, 2, true, 0, .none⟩⟩) (onReset fun c =>
      ((c.wrS 1 8).wrS 2 2).storeN 16 4 7)).rdS 3 = 7 := by decide +kernel
theorem test_st_low_bytes :
    (coreAfter (.st ⟨2, .b2, atReg 1 2⟩) (twoRegs 6 0x11223344)).ls = [(8, 0x44), (9, 0x33)] := by decide +kernel
theorem test_st_misaligned :
    (coreAfter (.st ⟨2, .b4, atReg 1 2⟩) (twoRegs 8 1)).trap.cause = 6 := by decide +kernel
theorem test_ld_end_of_store :
    (coreAfter (.ld ⟨3, .b8, false, atReg 1 0⟩) (twoRegs 0x140000 0)).trap.tval = 0x140000 := by decide +kernel
theorem test_lamo_min_signed :
    (coreAfter (.lamoMin ⟨3, 1, 2, .b4, 0, .none⟩) (onReset fun c => (c.wrS 2 (-1)).storeN 0 4 5)).ls =
      [(0, 0xFF), (1, 0xFF), (2, 0xFF), (3, 0xFF)] := by decide +kernel
theorem test_lamo_cas_other :
    let c := coreAfter (.lamoCas ⟨3, 1, 2, .b4, 0, .none⟩) (onReset fun c => (c.wrS 2 4).storeN 0 4 5)
    c.ls = [(0, 5)] ∧ c.rdS 3 = 5 := by decide +kernel

/-! ## Single steps: control, traps and returns -/

theorem test_branch_backwards : (coreAfter (.beq ⟨1, 2, -2⟩) (onReset fun c => { c with pc := 32 })).pc = 24 := by
  decide +kernel
theorem test_branch_not_taken : (coreAfter (.bne ⟨1, 2, -2⟩) State.reset).pc = 8 := by decide +kernel
theorem test_jalr_link_is_source :
    let c := coreAfter (.jalr ⟨1, 1, 4⟩) (twoRegs 0x100 0)
    c.pc = 0x104 ∧ c.rdS 1 = 8 := by decide +kernel
theorem test_scall_enters :
    let c := coreAfter (.scall 7) (onReset fun c => { c with
      pc := 0x40, trap := { c.trap with tvec := 0x1000 }, status := ⟨.user, false, false, true, false⟩ })
    c.pc = 0x1000 ∧ c.trap.epc = 0x40 ∧ c.trap.cause = 0xB ∧ c.trap.tval = 7 ∧
      c.status = ⟨.kernel, false, true, false, false⟩ := by decide +kernel
theorem test_kret :
    let c := coreAfter .kret (onReset fun c => { c with
      trap := { c.trap with epc := 0x88 }, status := ⟨.kernel, false, true, false, false⟩ })
    c.pc = 0x88 ∧ c.status = ⟨.user, false, true, true, false⟩ := by decide +kernel
theorem test_wfe_waits : (coreAfter .wfe State.reset).run = .wait ∧ (coreAfter .wfe State.reset).pc = 0 := by
  decide +kernel

/-! ## Single steps: scalar floating point -/

/-- `f3` and the flags after `fadd` of `f1` and `f2`. -/
def faddOf (x y : Word) (w : Bool) (m : RMode) : Word × BitVec 5 :=
  let c := coreAfter (.fadd ⟨3, 1, 2, w, m⟩) (twoF 0 x y)
  (c.rdF 3, c.fp.flags)

/-- 1 + 2 = 3. -/
theorem test_fadd : faddOf 0x3FF0000000000000 0x4000000000000000 false .rne = (0x4008000000000000, 0) := by
  decide +kernel
/-- 1 − 1 = +0 under `rne` and −0 under `rdn` (R86). -/
theorem test_fadd_cancel : (faddOf 0x3FF0000000000000 0xBFF0000000000000 false .rne).1 = 0 ∧
    (faddOf 0x3FF0000000000000 0xBFF0000000000000 false .rdn).1 = 0x8000000000000000 := by decide +kernel
/-- 1 + 2^-60 is inexact and rounds to 1. -/
theorem test_fadd_inexact : faddOf 0x3FF0000000000000 0x3C30000000000000 false .rne = (0x3FF0000000000000, 1) := by
  decide +kernel
theorem test_fdiv_by_zero :
    (coreAfter (.fdiv ⟨3, 1, 2, false, .rne⟩) (twoF 0 0x3FF0000000000000 0)).rdF 3 = 0x7FF0000000000000 := by
  decide +kernel
theorem test_fclass_minus_zero : (coreAfter (.fclass 3 1) (twoF 0 0x8000000000000000 0)).rdS 3 = 8 := by decide +kernel
theorem test_fcvt_to_integer :
    (coreAfter (.fcvtLD ⟨3, 1, .rtz⟩) (twoF 0 0xC004000000000000 0)).rdS 3 = -2 := by decide +kernel

/-! ## Single steps: the vector and tile units, and registers -/

theorem test_vadd_enters :
    (coreAfter (.vadd ⟨3, 1, 2, plainCtl .i8⟩) State.reset).vec.seq.length = 1 := by decide +kernel

/-- An instruction has read all but the last 8 of `n` bytes from `a`. -/
def readingFrom (i : Instr) (a n : Nat) (c : Core) : Core := c.keepRead i (c.ls.readBytes a (n - 8))

/-- The SFU holds a request of the core in focus. -/
def owing : State := { State.reset with sfu := [⟨State.reset.cid, 0, none, 7⟩] }

/-- An entry of one instruction at the head of the sequencer. -/
def headed (i : Instr) (c : Core) : State :=
  { State.reset with core := { c with vec := { c.vec with seq := [c.entryFor (c.capture i c.pc)] } } }

theorem test_vadd_wraps_per_element :
    (coreAfter .sequencerPerform (headed (.vadd ⟨3, 1, 2, plainCtl .i8⟩)
      ((Core.reset.wrV 1 ⟨0x01FF, Vector.replicate 4 0⟩).wrV 2 ⟨0x0102, Vector.replicate 4 0⟩))).rdV 3 =
      ⟨0x0201, Vector.replicate 4 0⟩ := by decide +kernel
theorem test_zzero :
    (coreAfter .sequencerPerform (headed (.zzero 1 .fp32) (Core.reset.wrZ 1 5))).rdZ 1 = 0 := by decide +kernel
theorem test_mfsr_status : (coreAfter (.mfsr 1 .status) State.reset).rdS 1 = 1 := by decide +kernel
theorem test_mtsr_tvec_aligns :
    (coreAfter (.mtsr .tvec 1) (twoRegs 0x101F 0)).trap.tvec = 0x1000 := by decide +kernel

/-! ## Single steps: other cores -/

/-- Core 1's local store from core 0. -/
def toCore1 : State := twoRegs 0x100000040 0xAB

theorem test_rst_counts :
    let c := coreAfter (.rst ⟨2, .b1, atReg 1 0, false⟩) toCore1
    c.cnt.stcl = 1 ∧ c.outst.length = 1 ∧ c.pc = 8 := by decide +kernel
theorem test_rld_marks_pending :
    (coreAfter (.rld ⟨3, .b8, false, atReg 1 0, false⟩) toCore1).pendingRegs = [3] := by decide +kernel
theorem test_wait_holds :
    (coreAfter (.wait ⟨63, 0, 63, 63⟩) (onReset fun c => { c with
      cnt := { c.cnt with stcl := 1 } })).run = .wait := by decide +kernel
theorem test_rst_reserved_bits :
    (coreAfter (.rst ⟨2, .b1, atReg 1 0, false⟩) (twoRegs 0x0100000100000040 0)).trap.cause = 5 := by decide +kernel

/-! ## Fetch, decode and run -/

/-- `addi s3, s1, -1` placed where the next step fetches. -/
theorem test_step_runs_the_word :
    (match step ((twoRegs 8 0).withFetchWord 64
        0b111111111111111111111111111111_000000_000001_000011_000000_00000010_01) with
      | .next t => (t.core.rdS 3, t.core.pc)
      | _ => (0, 0)) = (7, 8) := by decide +kernel

end
end

