-- ==== Sys2Proof/Tests/Remote.lean ====
section
/-! SUPPORT. Witnesses for the hypotheses of the statements about other cores, waits, fences and barriers. -/

open Sys2Proof Sys2Proof.Machine

section
set_option Elab.async false

/-! ## Issuing -/

/-- A remote address: the last `n` bytes of the store of core 5 of cluster 2. -/
def lastOf (n : Nat) : Word := BitVec.ofNat 64 (0x25 * 2 ^ 32 + 0x140000 - n)

/-- The core with its counters given. -/
def counting (f : Counters → Counters) (s : State) : State := s.mapCore fun c => { c with cnt := f c.cnt }

/-- `st`, `ld`, `ramo`: the last place of the store, the last place of the counter. -/
theorem witness_RemoteOperationsAreIssued : ∀ n ∈ [1, 8],
    let s := counting (fun k => { k with stcl := 500, stpk := 11, ld := 31 }) (twoRegs (lastOf n) 0)
    s.core.waitOk .cp = true ∧ RemoteOk (s.core.ea (atReg 1 0) n) n ∧ s.core.cnt.st < 512 ∧ s.core.cnt.ld < 32 := by
  unfold RemoteOk ZeroFields; decide +kernel

theorem witness_RemoteOperationsAreIssued_amo :
    let s := twoRegs (lastOf 4 - 8) 0
    RemoteOk (s.core.rdS 1 + (8 : BitVec 22).signExtend 64) 4 := by unfold RemoteOk ZeroFields; decide +kernel

theorem witness_RemoteOperationsAreIssued_vector :
    let s := twoRegs (lastOf 64) 0
    RemoteOk (s.core.ea (atReg 1 0) 64) 64 ∧ s.core.vec.seq = [] := by unfold RemoteOk ZeroFields; decide +kernel

/-- The last core that a word can name; and one of the same cluster. -/
theorem witness_RemoteOperationsAreIssued_message :
    (NamesCore 0xFFF7FF ∧ State.reset.core.openMsgs < State.reset.core.inbox.spawnlim.toNat) ∧
      (NamesCore 15 ∧ (15 : Word).toNat / 16 = State.reset.cid / 16) := by unfold NamesCore; decide +kernel

/-- A payload of the last 8 bytes of the store, moved as it is and through a conversion of int8 to fp32. -/
theorem witness_RemoteOperationsAreIssued_payload :
    let s := twoRegs 0x13FFF8 0
    s.core.okAccess (s.core.rdS 1).toNat 8 = true ∧ s.core.badIn (s.core.rdS 1).toNat 8 = none ∧
      msgXformOk 1 8 [0, BitVec.ofNat 64 (1 + 0x0F * 16), 0, 8] = true := by decide +kernel

/-! ## The checks -/

/-- A bit that must be zero; past the end; misaligned; in place and the counter full. -/
theorem witness_RemoteChecksTrapOrWait :
    (State.reset.core.waitOk .none = true ∧ State.reset.core.trapHeld = false) ∧ ¬ ZeroFields (2 ^ 56) ∧
      ¬ ZeroFields (2 ^ 43) ∧ ¬ ZeroFields (2 ^ 21) ∧ 0x140000 < offsetOf (lastOf 7) + 8 ∧
      (ZeroFields (lastOf 9) ∧ offsetOf (lastOf 9) + 8 ≤ 0x140000 ∧ offsetOf (lastOf 9) % 8 ≠ 0) := by
  unfold ZeroFields; decide +kernel

theorem witness_RemoteChecksTrapOrWait_full :
    let s := counting (fun k => { k with stfb := 512, ld := 32 }) (twoRegs (lastOf 8) 0)
    (RemoteOk (s.core.ea (atReg 1 0) 8) 8 ∧ 512 ≤ s.core.cnt.st ∧ 32 ≤ s.core.cnt.ld) ∧
      s.core.waitOk .st = false := by unfold RemoteOk ZeroFields; decide +kernel

theorem witness_RemoteChecksTrapOrWait_names :
    ¬ NamesCore (2 ^ 24) ∧ ¬ NamesCore (2 ^ 11) ∧
      ¬ (NamesCore 16 ∧ (16 : Word).toNat / 16 = State.reset.cid / 16) := by unfold NamesCore; decide +kernel

/-- A core of the package, the first cluster that does not exist, and another package. -/
theorem witness_IssuingCountsAndSends :
    OutKind.msg.isCopy = false ∧ (State.reset.exists_ 0x5FF = true ∧ State.reset.cid / 4096 = 0x5FF / 4096) ∧
      State.reset.exists_ 0x600 = false ∧ State.reset.exists_ 0x1000 = false := by decide +kernel

/-! ## Waits and fences -/

/-- Counters at their limits, and one above. -/
theorem witness_WaitsAndFencesEndWhenMet :
    let s := counting (fun k => { k with stcl := 62 }) State.reset
    let met (lim : Fin 64) (n : Nat) : Prop := lim = 63 ∨ n ≤ lim.val
    (met 62 s.core.cnt.st ∧ met 0 s.core.cnt.ld ∧ met 63 100) ∧ ¬ met 61 s.core.cnt.st ∧
      (s.core.trans.mode ≠ 2 ∧ s.core.trans.mode = 0 ∧ s.core.trapHeld = false) := by decide +kernel

/-- A failed store to core 0x25 is recorded, with a failed copy pending. -/
def failed : State := onReset fun c => { c with
  afault := BitVec.ofNat 64 (0x10 + 2 ^ 8 + 2 ^ 12 + 2 ^ 30), afaddr := lastOf 8 }

theorem witness_WaitsAndFencesEndWhenMet_failures :
    failed.core.failureIn (fun k => k = .st) (fun k => k = .st) ∧
      failed.core.failureIn (fun k => k = .cp) (fun k => k = .cp) ∧
      ¬ failed.core.failureIn (fun k => k = .ld) (fun k => k = .ld) ∧
      failed.fenceFails .core ∧ failed.fenceFails .fabric := by
  refine ⟨⟨by decide +kernel, .st, .inl ?_⟩, ⟨by decide +kernel, .cp, .inr ?_⟩, ?_,
    ⟨by decide +kernel, .cp, .inr ?_⟩, ⟨by decide +kernel, .st, .inl ?_⟩⟩
  · decide +kernel
  · decide +kernel
  · rintro ⟨-, k, h | h⟩
    · exact absurd h (by cases k <;> decide +kernel)
    · exact absurd h (by cases k <;> decide +kernel)
  · decide +kernel
  · decide +kernel

/-- One store outstanding to core 0x25. -/
def storing : State := onReset fun c => { c with outst := [⟨7, .store, .core 0x25, .package, 0, lastOf 8⟩] }

theorem witness_WaitsAndFencesEndWhenMet_fences :
    storing.fenceDone .cluster ∧ ¬ storing.fenceDone .package ∧ State.reset.fenceDone .fabric := by
  refine ⟨⟨?_, ?_⟩, ?_, ⟨?_, ?_⟩⟩
  · intro o h _
    obtain rfl : o = ⟨7, .store, .core 0x25, .package, 0, lastOf 8⟩ := by simpa [storing, onReset, State.mapCore] using h
    decide +kernel
  · intro x h
    simp [storing, onReset, State.mapCore, State.reset, Core.reset] at h
  · rintro ⟨h, -⟩
    have := h ⟨7, .store, .core 0x25, .package, 0, lastOf 8⟩ (by simp [storing, onReset, State.mapCore]) (.inl rfl)
    revert this
    decide +kernel
  · intro o h
    simp [State.reset, Core.reset] at h
  · intro x h
    simp [State.reset, Core.reset] at h

/-- A mailbox count that has passed, across the wrap, and one that has not. -/
theorem witness_WaitsAndFencesEndWhenMet_mailbox :
    ((0x7FFFFFFF : BitVec 32) - 0).toNat < 2 ^ 31 ∧ ¬ ((0x7FFFFFFF : BitVec 32) - 0xFFFFFFFF).toNat < 2 ^ 31 := by
  decide

/-! ## Barriers -/

/-- The core has arrived at an instance of cluster scope. -/
def atBar (released : Bool) : State := onReset fun c => { c with bars := [⟨⟨.cluster, (0, 0), 63⟩, released, false⟩] }

theorem witness_BarriersArriveAndRelease :
    (let s := atBar true
     s.core.bars.find? (fun a => a.inst == s.barInst .cluster 63) = some ⟨s.barInst .cluster 63, true, false⟩) ∧
    (let s := atBar false
     s.core.bars.find? (fun a => a.inst == s.barInst .cluster 63) = some ⟨s.barInst .cluster 63, false, false⟩) ∧
    (let s := State.reset
     s.core.bars.find? (fun a => a.inst == s.barInst .package 255) = none ∧
       (s.barConfigOf (s.barInst .package 255)).isSome = false ∧ s.core.trapHeld = false) ∧
    (let s := State.reset
     s.core.bars.find? (fun a => a.inst == s.barInst .gang 0) = none ∧ s.barRoom (s.barInst .gang 0) = true ∧
       s.core.barFence .gang = .cluster) := by decide +kernel

theorem witness_BarriersArriveAndRelease_fence : ¬ storing.fenceDone .fabric ∧
    storing.core.bars.find? (fun a => a.inst == storing.barInst .fabric 0) = none := by
  refine ⟨?_, by decide +kernel⟩
  rintro ⟨h, -⟩
  have := h ⟨7, .store, .core 0x25, .package, 0, lastOf 8⟩ (by simp [storing, onReset, State.mapCore]) (.inl rfl)
  revert this
  decide +kernel

/-- An instance of package scope that two cores of die 5 complete. -/
def atPackageBar (inp : Inp) (summed : List Nat) : State := { State.reset with
  inp := inp
  bars := [⟨⟨.package, (0, 0), 255⟩, [0x50F, 0x5F0], [], summed⟩]
  barConfigs := [⟨.package, 255, 0, [(5, 2), (0, 0)], 0⟩] }

theorem witness_BarriersAreSummedAndReleased_sum :
    let s := atPackageBar (.two 0 5) []
    let b : BarState := ⟨⟨.package, (0, 0), 255⟩, [0x50F, 0x5F0], [], []⟩
    let cfg : BarConfig := ⟨.package, 255, 0, [(5, 2), (0, 0)], 0⟩
    s.inp = .two 0 5 ∧ s.bars[0]? = some b ∧ s.barConfigOf b.inst = some cfg ∧ cfg.scope = .package ∧
      5 ∉ b.summed ∧ (5, 2) ∈ cfg.counts ∧ 2 ≤ (b.arrived.filter fun c => s.dieOf c == 5).length := by decide +kernel

theorem witness_BarriersAreSummedAndReleased_package :
    let s := atPackageBar (.two 0 0) [5]
    s.saved = [] ∧ s.barConfigOf ⟨.package, (0, 0), 255⟩ = some ⟨.package, 255, 0, [(5, 2), (0, 0)], 0⟩ ∧
      ∀ x ∈ [(5, 2), (0, 0)], x.2 ≠ 0 → x.1 ∈ [5] := by decide +kernel

/-- An instance of cluster scope at which all 16 cores have arrived. -/
theorem witness_BarriersAreSummedAndReleased_cluster :
    let s := { State.reset with
      inp := .two 0 0, bars := [⟨⟨.cluster, (0, 95), 0⟩, (List.range 16).map fun j => 95 * 16 + j, [], []⟩] }
    (s.bars.map fun b => b.inst.scope) = [.cluster] ∧
      ∀ b ∈ s.bars, ∀ j < 16, cidOf s.pkg b.inst.ident.2 j ∈ b.arrived := by decide +kernel

/-- A gang instance of a host-started core, which belongs to no bind. -/
theorem witness_BarriersAreSummedAndReleased_gang :
    let s := { State.reset with inp := .two 0 0, bars := [⟨⟨.gang, (2 ^ 64, 1), 5⟩, [0], [], []⟩] }
    (s.bars.map fun b => b.inst.scope) = [.gang] ∧
      ∀ b ∈ s.bars, s.hub.binds.find? (fun x => x.clause == b.inst.ident.1) = none := by decide +kernel

theorem witness_BarriersAreSummedAndReleased_config :
    let k : BarConfig := ⟨.fabric, 63, 4095, [(0, 1)], 0⟩
    { State.reset with inp := .barConfig k }.inp = .barConfig k ∧
      ((k.scope = .package ∧ k.n < 256) ∨ (k.scope = .fabric ∧ k.n < 64)) := by decide +kernel

end
end

