-- ==== Sys2Proof/Tests/Engines.lean ====
section
/-! SUPPORT. Witnesses for the hypotheses of the statements about the copy engine, the worklist and Sound groups as
programs use them, `gend`, `exit`, and system registers. -/

open Sys2Proof Sys2Proof.Machine

section
set_option Elab.async false

/-! ## The copy engine -/

/-- A change of the focused core at kernel level, where the instructions of this file run. -/
def withWords (w0 w1 w2 w3 : Word) : State :=
  onReset fun c => (((c.wrS 20 w0).wrS 21 w1).wrS 22 w2).wrS 23 w3

/-- The whole local store, from the last addresses of global memory. -/
def wholeStore : State := withWords (2 ^ 56 - 1) 0 0x140000 0

def pushOp : CpushOp := ⟨5, 20, 3, .none⟩

/-- The FIFO holds `n` requests of channel 3 in a phase. -/
def queued (n : Nat) (phase : XPhase) (s : State) : State := s.mapCore fun c =>
  let x := { c.request pushOp with phase := phase }
  { c with copy := { c.copy with
      fifo := (List.range n).map fun k => .req { x with id := BitVec.ofNat 32 (2 ^ 32 - n + k) }
      xnext := c.copy.xnext.set 3 0 } }

/-- Room, the last place, a full FIFO, and a request that fails a check: its address passes 2 ^ 56. -/
theorem witness_CopyInstructionsComplete_push :
    (let s := queued 31 .queued wholeStore
     s.core.status.pl ≠ .debug ∧ s.core.waitOk .none = true ∧ s.core.copyTrap (s.core.request pushOp) = none ∧
       s.core.fifoFull = false ∧ s.core.copy.mcasts.length < 32) ∧
    (let s := queued 32 .queued wholeStore
     s.core.copyTrap (s.core.request pushOp) = none ∧ s.core.fifoFull = true) ∧
    (let s := withWords (2 ^ 56) 0 0x140000 0
     s.core.copyTrap (s.core.request pushOp) = some ⟨0x04, 2 ^ 56⟩ ∧ s.core.trapHeld = false) := by decide +kernel

/-- Two requests are in progress, 0xFFFFFFFE and 0xFFFFFFFF; the next is 0. -/
theorem witness_CopyInstructionsComplete_wait :
    let s := queued 2 .queued wholeStore
    let before (i n : BitVec 32) : Prop := 0 < (n - i).toNat ∧ (n - i).toNat < 2 ^ 31
    let next := s.core.copy.xnext.get 3
    let oldest := ((s.core.xfers 3).head?.map fun x => x.id).getD next
    (¬ before 0 next ∧ s.core.trapHeld = false) ∧ (before 0xFFFFFFFD next ∧ before 0xFFFFFFFD oldest) ∧
      (before 0xFFFFFFFE next ∧ ¬ before 0xFFFFFFFE oldest) := by decide +kernel

theorem witness_CopyInstructionsComplete_resume :
    (∃ x, (queued 1 (.stopped 1 0x10000 true) wholeStore).core.oldest 3 = some x ∧ x.phase = .stopped 1 0x10000 true) ∧
      (queued 1 (.stopped 1 0x10000 true) wholeStore).core.oldest 2 = none := by
  exact ⟨⟨_, rfl, rfl⟩, rfl⟩

/-- Context 0's first page is mapped to frame 2, readable and writable. -/
def mapped : State := { State.reset with gmem := { Gmem.reset with
  roots := [(0, 0)]
  tables := [(0, 0x8001), (0x8000, 0x10001), (0x10000, 0x18001), (0x18000, 0x20007)] } }

theorem witness_CopyInstructionsComplete_touch :
    ((2 : Nat) ^ 56 ≤ (2 ^ 56 : Word).toNat ∧ State.reset.core.trapHeld = false) ∧
      ((0xFFFF : Word).toNat < 2 ^ 56 ∧ mapped.core.hubWait = .none ∧ mapped.accessible mapped.core 0xFFFF = true) ∧
      mapped.accessible mapped.core 0x10000 = false ∧
      ∀ ok ∈ [true, false], (onReset fun c => { c with hubWait := .touchDone 0xFFFF ok }).core.hubWait =
        .touchDone 0xFFFF ok := by decide +kernel

/-! ## The worklist and Sound groups -/

/-- The worklist is enabled for context 0, and slice 0 has `n` tasks. -/
def listing (n : Nat) : State := { State.reset with wl := { Worklist.reset with
  enabled := true
  slices := Worklist.reset.slices.set 0 ⟨List.replicate n ⟨0, [0, 0, 0, 0], 0, 0, false, 0, false, 0⟩, none⟩ } }

/-- The slice's last place. -/
theorem witness_WorklistInstructionsComplete :
    (let s := listing 511
     s.core.waitOk .none = true ∧ s.wl.enabled = true ∧ s.core.ids.ctx.toNat = s.wl.owner ∧ clusterOf s.cid < 96 ∧
       (s.wl.slice (clusterOf s.cid)).tasks.length < 512) ∧
    (¬ (State.reset.wl.enabled = true ∧ State.reset.core.ids.ctx.toNat = State.reset.wl.owner) ∧
      State.reset.core.trapHeld = false) := by decide +kernel

theorem witness_WorklistInstructionsComplete_wait : ∀ b ∈ [true, false],
    let s := (listing 0).mapCore fun c => { c with wl := { c.wl with term := b } }
    s.wl.enabled = true ∧ s.core.ids.ctx.toNat = s.wl.owner ∧ s.core.status.hnd = false ∧ s.core.wl.term = b ∧
      s.core.status.pl ≠ .debug := by decide +kernel

/-- The core is a member of group 1023 of package 0, with 2 ^ 48 − 1 stores applied. -/
def inGroup : State := onReset fun c => { c with
  snd := { c.snd with members := [⟨0x3FF, 0x13FFC0, 0, 0, false, 2 ^ 48 - 1, []⟩] } }

/-- The last bytes of the largest range, and a whole line of the local store's end. -/
theorem witness_SoundInstructionsComplete :
    let c := (counting (fun k => { k with stfb := 511 }) State.reset).core
    let handleOk (h : Word) : Prop := h.extractLsb' 24 40 = 0 ∧ h.extractLsb' 10 2 = 0
    let room (h o : Word) (n m : Nat) : Prop :=
      handleOk h ∧ o.toNat + n ≤ 0x140000 ∧ o.toNat % m = 0 ∧ c.cnt.st < 512
    room 0xFFF3FF 0x13FFF8 8 8 ∧ room 0 0x13FFC0 64 64 ∧ room 0 0x13FF00 256 8 ∧
      (c.okAccess 0x13FF00 256 = true ∧ c.badIn 0x13FF00 256 = none) := by decide +kernel

theorem witness_SoundInstructionsComplete_member :
    (∃ m, inGroup.core.membership 0x3FF = some m ∧ (0xFFFFFFFFFFFF : Word).toNat % 2 ^ 48 ≤ m.applied ∧
      (inGroup.core.trans.mode = 0 ∧ inGroup.core.status.pl ≠ .debug)) ∧
    (inGroup.core.membership 0 = none ∧ inGroup.core.trapHeld = false) ∧
    (∃ m : Membership, m.applied < (1 : Word).toNat % 2 ^ 48) :=
  ⟨⟨_, rfl, by decide +kernel⟩, by decide +kernel, ⟨⟨0, 0, 0, 0, false, 0, []⟩, by decide⟩⟩

/-! ## The end of a generation and of a clause -/

/-- A core waits in `gend` in a phase, as a member of population 15. -/
def evolving (phase : GendPhase) : State :=
  let s := onReset fun c => { c with
    sce := { c.sce with phase := phase, member := true, pop := 15, glen := 0x140000 - 64, gbase := 64 } }
  { s with sce := ⟨[(15, ⟨0, 0, 15, [(0, 0), (1, 1)], 0x140000 - 64, false, 0, 1, 2, 1, 0, 0, 0, 0, 0, 0, 0, 0, 0, 0, [],
    none, [], [], false⟩)], [], []⟩ }

theorem witness_still : Core.reset.still ∧ State.reset.sfuFree ∧ ¬ owing.sfuFree ∧ owing.core.still := by
  unfold Core.still State.sfuFree; decide +kernel

/-- Released with each result, ready to arrive, arrived, and closed. -/
theorem witness_GendAndExitComplete :
    (∀ r ≤ 2, (evolving (.released r 7 [] true)).core.sce.phase = .released r 7 [] true) ∧
      (evolving .arrived).core.sce.phase = .arrived ∧ (evolving .closed).core.sce.phase = .closed ∧
      (let s := evolving .none
       s.core.sce.phase = .none ∧ s.core.status.pl ≠ .debug ∧ s.core.status.hnd = false ∧ s.core.sce.member = true ∧
         (s.population s.core.sce.pop.toNat).any (fun p => p.gl == s.core.sce.glen.toNat && p.home == s.pkg) = true ∧
         s.core.sce.gbase.toNat + s.core.sce.glen.toNat ≤ 0x140000) := by decide +kernel

theorem witness_GendAndExitComplete_reports : State.reset.core.trans.mode ≠ 2 ∧ State.reset.core.trans.mode = 0 ∧
    failed.core.trapHeld = false ∧ failed.core.failureIn (fun _ => True) (fun _ => True) ∧
    ¬ State.reset.core.failureIn (fun _ => True) (fun _ => True) := by
  refine ⟨by decide +kernel, by decide +kernel, by decide +kernel, ⟨by decide +kernel, .st, .inl ⟨trivial, ?_⟩⟩, ?_⟩
  · decide +kernel
  · rintro ⟨h, -⟩
    exact absurd h (by decide +kernel)

/-- Four blocks at the end of the store, whose zero bytes are well-formed. -/
theorem witness_GendAndExitComplete_exit :
    let s := twoRegs 0x13FF80 0
    (s.core.status.pl ≠ .debug ∧ s.core.hubWait = .none ∧ s.core.okAccess (s.core.rdS 1).toNat (32 * 4) = true ∧
      (s.core.rdS 1).toNat % 32 = 0 ∧ s.core.badIn (s.core.rdS 1).toNat (32 * 4) = none) ∧
    (s.core.accessPending = false ∧ s.core.readSoFar = [] ∧
      (s.core.readPiece 0x13FF80 128 s.core.readSoFar).length < 128) ∧
    (let c := readingFrom (.exit 1 4) 0x13FF80 128 s.core
     c.readSoFar ≠ [] ∧ 128 ≤ (c.readPiece 0x13FF80 128 c.readSoFar).length ∧
       (match parseConts (c.readPiece 0x13FF80 128 c.readSoFar) s.cid c.ids.ctx.toNat 4 with
         | .ok _ => true
         | .error _ => false) = true) ∧
    (let d := onReset fun c => { c with status := { c.status with pl := .debug } }
     d.core.trapHeld = false ∧ d.core.status.pl = .debug) ∧
    ∀ w ∈ [HubWait.exitWait, .exitSent], (onReset fun c => { c with hubWait := w }).core.hubWait = w := by
  decide +kernel

/-! ## System registers -/

theorem witness_SystemRegistersAreRead :
    let s := { State.reset with inp := .reg .fpflags 5 }
    s.inp = .reg .fpflags 5 ∧ s.core.trans.mode = 0 ∧ s.core.vec.seq = [] := by decide +kernel

/-- Values that the checks of the writes accept, at their ends, and refuse. -/
theorem witness_SystemRegistersAreWritten :
    let c := Core.reset
    ((0x1C : Word).getLsbD 0 = decide (c.status.pl = .debug) ∧ (0x1 : Word).getLsbD 0 = decide (c.status.pl = .kernel) ∧
      (0x1C : Word).getLsbD 5 = c.status.hnd ∧ (0x1C : Word).getLsbD 8 = decide (c.fp.ctl.toNat / 8 ≠ 0)) ∧
      ((0xFC : Word).toNat % 8 ≠ 5 ∧ (0xFC : Word).toNat % 8 ≠ 6) ∧
      (c.sndstat ^^^ 0xD) &&& 0xFFFFFF001FFF0000 = 0 ∧
      (0x13FFC0 : Word).toNat % 64 = 0 ∧ (1 ≤ (64 : Word).toNat % 128 ∧ (64 : Word).toNat % 128 ≤ 64) ∧
      ((c.trctl ^^^ 2) &&& 0xFFFFFFFF00000000 = 0 ∧ (2 : Word).toNat % 4 ≠ 3) ∧
      (c.writeTshp 7 (1 + 63 * 16 + 127 * 1024)).isSome = true := by decide +kernel

/-- Writes of `STATUS`, `SNDSTAT`, `TRCTL` and `TSHP` that change an RO field or give an illegal value. -/
theorem witness_SystemRegistersAreWritten_illegal :
    let c := Core.reset
    (1 : Word).getLsbD 1 = decide (c.status.pl = .debug) ∧ (2 : Word).getLsbD 1 ≠ decide (c.status.pl = .debug) ∧
      (c.sndstat ^^^ 0x10000) &&& 0xFFFFFF001FFF0000 ≠ 0 ∧ (c.trctl ^^^ (1 <<< 32)) &&& 0xFFFFFFFF00000000 ≠ 0 ∧
      (3 : Word).toNat % 4 = 3 ∧ c.writeTshp 0 15 = none ∧ c.vec.seq = [] ∧ c.trapHeld = false := by decide +kernel

theorem witness_SystemRegistersAreWritten_refused :
    ((5 : Word).toNat % 8 = 5 ∧ (0xFE : Word).toNat % 8 = 6) ∧ (0x13FFE0 : Word).toNat % 64 ≠ 0 ∧ ((0x80 : Word).toNat % 128 = 0 ∧
      64 < (65 : Word).toNat % 128) ∧ (State.reset.core.trapHeld = false ∧ State.reset.core.vec.seq = []) :=
  ⟨by decide, by decide, by decide, by decide +kernel⟩

theorem witness_SystemRegistersAreWritten_worklist :
    let s := { listing 0 with inp := .reg .wlshift 1 }
    (s.wl.enabled = true ∧ s.core.ids.ctx.toNat = s.wl.owner ∧ s.wl.quiescent = true) ∧
      writerOf .wlshift 1 [.mtsrWlshift] .mtsrWlshift s ∧ writerOf .wlshift 1 [.mtsrWlshift] (.mtsr .wlshift 1) s ∧
      ((256 : Word).toNat % 2 ^ 32 = 256 ∧ (255 : Word).toNat % 2 ^ 32 < 256) ∧ ({ (listing 0).wl with stealFrom := some 1 } : Worklist).quiescent = false ∧
      ¬ (State.reset.wl.enabled = true ∧ State.reset.core.ids.ctx.toNat = State.reset.wl.owner) :=
  ⟨by decide +kernel, .inr ⟨by simp, rfl⟩, .inl rfl, by decide, by decide +kernel, by decide +kernel⟩

/-- `kret`, a legal word, and an illegal combination of types. -/
theorem witness_LevelsAndTypesAreChecked :
    (match decodeRaw (Raw.ofWord (word64 .kret).toNat) with
      | .ok i => decide (i = .kret) && i.kernelOnly
      | .error _ => false) = true ∧
    (let i : Instr := .vpack ⟨3, 1, 2, plainCtl .i8⟩
     i.kernelOnly = false ∧ i.comboOk = true) ∧ (Instr.tmma ⟨0, 1, 3, .i8, .fp16, .int32⟩).comboOk = false := by
  decide +kernel

end
end

