-- ==== Sys2Proof/Tests/Interfaces.lean ====
section
/-! SUPPORT. Witnesses for the hypotheses of the statements about the steps of the network interfaces, the copy engine
and global memory. -/

open Sys2Proof Sys2Proof.Machine

section
set_option Elab.async false

/-! ## Arrivals -/

/-- A die that has ended its step, with its stores initialised. -/
def readyDie : Die := ⟨1, 0, 0, Vector.replicate 4 0, 0, 0, true, [], true, true⟩

/-- The package's stores are initialised. -/
def readyHost : HostSide := { HostSide.reset with ready := true, powered := true, dies := Vector.replicate 7 readyDie }

/-- One operation from core 5 has arrived at core 0, and an earlier one of another pair stands before it. -/
def arrived (k : PktKind) (f : Core → Core) : State := { onReset f with
  host := readyHost
  inp := .idx 1
  net := [⟨6, 0, 0, 0, true, 0, 0, .mint 0⟩, ⟨5, 0, 0, 1, true, 0, 0, k⟩] }

/-- Whether the interface refuses the operation, and that it may arrive. -/
def refusal? (k : PktKind) (f : Core → Core) : Option (Option Nat) :=
  let s := arrived k f
  let p : Packet := ⟨5, 0, 0, 1, true, 0, 0, k⟩
  if s.inp = .idx 1 ∧ s.net[1]? = some p ∧ p.dst = s.cid ∧ mayArrive s.net 1 p = true ∧
      s.divertsTo p.dst p.ctx = none ∧ s.core.applying = none ∧ pkgOf p.src = s.pkg then
    some (s.refuses p)
  else none

/-- Each kind of operation, accepted, at the ends of the store. -/
theorem witness_ArrivingOperationsAreServed :
    refusal? (.write 0x13FFF8 (List.replicate 8 1)) id = some none ∧ refusal? (.copy 0 [1] ⟨1, 0, 64, false⟩) id = some none ∧
      refusal? (.read 0x13FFFF 1) id = some none ∧ refusal? (.amo .add 0x13FFF8 8 1 0 true) id = some none ∧
      refusal? (.msg 0x100 [1, 2, 3, 4] none) id = some none ∧ refusal? (.mint 5) id = some none ∧
      refusal? (.msg 0x100 [1, 2, 3, 4] (some ⟨0x13FFF8, List.replicate 8 1, 0⟩)) id = some none ∧
      refusal? .bfree id = some none := by decide +kernel

/-- Each kind, refused: one byte past the end, and a core of another context. -/
theorem witness_ArrivingOperationsAreServed_refused :
    let other (c : Core) : Core := { c with bound := .host, ids := { c.ids with ctx := 9 } }
    refusal? (.write 0x13FFF9 (List.replicate 8 1)) id = some (some 0x10) ∧
      refusal? (.read 0x140000 1) id = some (some 0x11) ∧ refusal? (.amo .add 0 8 1 0 true) other = some (some 0x11) ∧
      refusal? (.msg 0x100 [1, 2, 3, 4] none) other = some (some 0x12) ∧ refusal? (.mint 5) other = some (some 0x10) :=
  by decide +kernel

/-- The last place of the arrival queue; a full one, with room in the spill queue. -/
theorem witness_ArrivingOperationsAreServed_queues :
    let m : Msg := ⟨5, 0, 0x100, [1, 2, 3, 4], none, 0, 0⟩
    let holds (n : Nat) (c : Core) : Core := { c with
      inbox := { c.inbox with arrival := List.replicate n m, spillCap := 1 } }
    (refusal? (.msg 0x100 [1, 2, 3, 4] none) (holds 63) = some none ∧ (holds 63 Core.reset).inbox.arrival.length < 64 ∧
      (holds 63 Core.reset).inbox.spill = []) ∧
    (refusal? (.msg 0x100 [1, 2, 3, 4] none) (holds 64) = some none ∧
      64 ≤ (holds 64 Core.reset).inbox.arrival.length) := by decide +kernel

theorem witness_ArrivingOperationsAreServed_credit :
    (Core.reset.copy.mcasts = []) ∧ (State.reset.storeReady 0 = false) ∧
      ((arrived .bfree id).storeReady 0 = true ∧ (arrived .bfree id).core.bound = .never ∧
        (arrived .bfree id).windowHeld 0 0x13FFF8 8 = false ∧ (arrived .bfree id).core.bad = []) := by decide +kernel

/-- One piece is left of a write, and of the payload of a message: a step applies it, whatever the free value is. -/
theorem witness_ArrivingOperationsAreServed_pieces : ∀ m ∈ [none, some (⟨5, 0, 0x100, [1, 2, 3, 4], some 8, 0, 0⟩ : Msg)],
    let x : Applying := ⟨5, 0, 1, 0x13FFF8, List.replicate 8 1, m, none⟩
    let s := onReset fun c => { c with applying := some x }
    s.core.applying = some x ∧ x.sound = none ∧ pkgOf x.src = s.pkg ∧ x.msg = m ∧
      x.addr = 0x13FFF8 ∧ x.bytes.length = 8 ∧ ∀ t : State, 8 ≤ t.pieceCut 0x13FFF8 8 := by
  have h (t : State) : 8 ≤ t.pieceCut 0x13FFF8 8 := by simp [State.pieceCut, State.pieceBytes, Nat.mod_one]
  have hp : pkgOf 5 = State.reset.pkg := by decide +kernel
  intro m _
  exact ⟨rfl, rfl, hp, rfl, rfl, rfl, h⟩

/-! ## Answers -/

/-- An operation is outstanding under tag 7, and its answer has come. -/
def answered (k : OutKind) (r : ReplyKind) : State := { onReset fun c => { c with
      outst := [⟨6, .store, .core 3, .cluster, 0, 0⟩, ⟨7, k, .core 5, .cluster, 0x40, 0x500000000⟩] } with
  inp := .idx 1, back := [⟨0, 0, 6, .ack⟩, ⟨0, 0, 7, r⟩] }

/-- The hypotheses common to the answers. -/
def answersIn (k : OutKind) (r : ReplyKind) : Bool :=
  let s := answered k r
  decide (s.inp = .idx 1 ∧ s.back[1]? = some ⟨0, 0, 7, r⟩ ∧ s.divertsTo 0 0 = none ∧
    (s.core.findOut 7).map OutOp.kind = some k ∧ s.core.afault.getLsbD 8 = false)

theorem witness_AnswersEndOperations :
    answersIn .store .ack = true ∧ answersIn .msg (.nack 255) = true ∧ answersIn .mint .ack = true ∧
      answersIn (.load 3 .b1 false) (.value 0xFF) = true ∧ answersIn (.load 0 .b8 true) (.nack 0x11) = true := by
  decide +kernel

theorem witness_AnswersEndOperations_spill :
    let m : Msg := ⟨5, 0, 0x100, [1, 2, 3, 4], none, 0, 0⟩
    let c := { Core.reset with inbox := { Core.reset.inbox with arrival := List.replicate 63 m, spill := [m] } }
    c.inbox.spill = m :: [] ∧ c.inbox.arrival.length < 64 := by decide +kernel

/-! ## The copy engine's steps -/

/-- A request of channel 3 with its words, a phase and an access, at the head of the FIFO. -/
def copying (w0 w1 w2 w3 : Word) (phase : XPhase) (acc : XAccess) (buf : List Byte) : State :=
  let s := withWords w0 w1 w2 w3
  let x := { s.core.request pushOp with phase := phase, acc := acc, buf := buf }
  { s.mapCore fun c => { c with copy := { c.copy with fifo := [.req x] } } with
    host := readyHost, gmem := mapped.gmem, inp := .idx 3 }

/-- The request that `copying` makes. -/
def copyOf (s : State) : Option Xfer := s.core.oldest 3

theorem witness_CopyStepsMoveTheirRequest_begin : (copying 0 0 64 0 .queued .none []).core.mayBegin 3 = true := by
  decide +kernel

/-- The index word of row 0 lies at 0, and row 0 is the row that it names. -/
theorem witness_CopyStepsMoveTheirRequest_index :
    let s := copying 0 0 (3 * 2 ^ 24 + 64 + 8 * 2 ^ 32) 0 .active .none []
    (copyOf s).any (fun x => x.phase == .active && x.kind == 3 && x.acc == .none && x.index.isNone &&
      (s.core.badIn (x.indexList + 4 * (x.pos / x.pa)) 4).isNone) = true ∧
    (copyOf (s.mapCore fun c => c.onXfer 3 fun x => { x with index := some 7 })).any (fun x =>
      x.kind == 3 && x.index == some 7) = true := by decide +kernel

/-- A kind-1 piece is written at its VA. -/
theorem witness_CopyStepsMoveTheirRequest_put :
    let s := copying 0 0 0x1000040 0 .active .put (List.replicate 64 7)
    (copyOf s).any (fun x => x.phase == .active && x.kind == 1 && x.acc == .put &&
      (!s.injWatches (s.path s.cid x (x.va s.core))) && ([true, false].all fun hit =>
        match s.gmem.writeChunk x.ctx (x.va s.core) x.buf hit hit with
        | .done _ _ => true
        | _ => false)) = true := by decide +kernel

/-- The request still lacks source bytes of its own store. -/
theorem witness_CopyStepsMoveTheirRequest_gather :
    let s := copying 0 0x8000 0x1000040 0 .active .none []
    (copyOf s).any (fun x => x.phase == .active && x.gathers s.core && (s.core.badIn ((x.supply s.core).1 + x.buf.length)
      64).isNone) = true := by decide +kernel

/-- The first byte that is not mapped. -/
theorem witness_CopyStepsMoveTheirRequest_fault :
    let s := copying 0x10000 0 64 0 .active .none []
    (copyOf s).any (fun x => x.phase == .active && x.reading && x.kind != 3 && x.acc == .none &&
      match s.gmem.readChunk x.ctx (x.va s.core) s.hitR with
      | .fault r => decide (r = 1)
      | _ => false) = true := by decide +kernel

/-- No port limits a request of these states. -/
theorem witness_CopyStepsMoveTheirRequest_tokens (t : State) (ports : List Nat) (cost : Nat)
    (h : t.host.ports = (copying 0 0 64 0 .active .none []).host.ports) : t.charge ports 0 cost = some t :=
  t.charge_noPorts ports 0 cost (h.trans rfl)

/-- The last byte of the mapped page. -/
theorem witness_CopyStepsMoveTheirRequest_read :
    let s := copying 0xFFFF 0 1 0 .active .none []
    (copyOf s).any (fun x => x.phase == .active && x.reading && x.kind != 3 && x.acc == .none &&
      match s.gmem.readChunk x.ctx (x.va s.core) s.hitR with
      | .done _ _ => true
      | _ => false) = true := by decide +kernel

/-- A chunk whose `MD` no encoder writes is malformed at its second fetch. -/
theorem witness_CopyStepsMoveTheirRequest_refetch :
    let s := copying 0 0 64 0 .active .again []
    let s := { s with gmem := { s.gmem with chunks := [(32, ⟨0x81, [], false, false⟩)] } }
    (copyOf s).any (fun x => x.acc == .again && x.replicaVa.isNone && ([true, false].all fun hit =>
      match s.gmem.readChunk x.ctx (x.va s.core) hit with
      | .bad _ p => !p
      | _ => false)) = true := by decide +kernel

/-- The second fetch of the last byte of the mapped page is good. -/
theorem witness_CopyStepsMoveTheirRequest_corrected :
    let s := copying 0xFFFF 0 1 0 .active .again []
    (copyOf s).any (fun x => x.phase == .active && x.kind != 3 && x.acc == .again &&
      match s.gmem.readChunk x.ctx (x.va s.core) s.hitR with
      | .done _ _ => true
      | _ => false) = true := by decide +kernel

/-- The corrected count of a stack saturates; a poisoned table entry fails the walk until it is written. -/
theorem test_corrected_and_poisoned_tables :
    (let g := { Gmem.reset with corrected := Vector.replicate 12 0xFFFFFFFF }
     (g.correct 11).corrected.get 11 = 0xFFFFFFFF ∧ (Gmem.reset.correct 11).corrected.get 11 = 1) ∧
    (let g := { mapped.gmem with badTables := [0x18000] }
     g.walk 0 0 false = .fail 6 ∧ (g.setEntry 0x18000 (g.entry 0x18000)).badTables = []) := by decide +kernel

/-- A chunk has been read whole, and its tokens cost nothing more. -/
theorem witness_CopyStepsMoveTheirRequest_piece :
    let s := copying 0 0x13FFC0 64 0 .active .have_ (List.replicate 64 7)
    (copyOf s).any (fun x => x.phase == .active && x.acc == .have_ && !x.gathers s.core &&
      decide (s.pieceReady x = some (List.replicate 64 7)) &&
      (s.crossBeats true (legBeats (s.legsOf x x.buf))).isSome && (s.sendTokens x x.buf).isSome) = true := by
  decide +kernel

/-- A kind-1 request has gathered its bytes, and a kind-2 request names a core of another package to which a route leads. -/
theorem witness_CopyStepsMoveTheirRequest_leaves :
    (let s := copying 0 0 0x1000040 0 .active .none (List.replicate 64 7)
     (copyOf s).any (fun x => x.kind == 1 && x.acc != .land && !x.gathers s.core &&
       decide (s.pieceReady x = some (List.replicate 64 7)) && x.carry.isEmpty) = true) ∧
    (let s := copying 0 (0x1000 * 2 ^ 32) 0x2000040 0 .active .none (List.replicate 64 7)
     let s := { s with fabric := { s.fabric with routes := [(1, [0])] } }
     (copyOf s).any (fun x => x.kind == 2 && x.acc != .land && !x.gathers s.core && s.exists_ (remoteCid x.w1) &&
       decide (pkgOf (remoteCid x.w1) ≠ s.pkg) && decide (x.landLen s.core ≠ 0) &&
       (s.sendTokens x x.buf).isSome) = true) := by decide +kernel

/-- The last 8 bytes of the store land. -/
theorem witness_CopyStepsMoveTheirRequest_land :
    let s := copying 0 0x13FFF8 8 0 .active .land (List.replicate 8 7)
    (copyOf s).any (fun x => x.phase == .active && x.kind == 0 && x.acc == .land && x.refused.isEmpty &&
      decide (x.landed < x.buf.length) && decide (x.landing = 0x13FFF8)) = true ∧
      (∀ k ≤ 8, (copyOf s).all fun x => (s.landRefusal x s.cid 0x13FFF8 k).isNone) ∧
      ∀ t : State, t.pieceCut 0x13FFF8 8 ≤ 8 :=
  ⟨by decide +kernel, by decide +kernel, fun _ => Nat.min_le_left _ _⟩

/-- The armed injection fails the first beat of a copy from a core of die 0 to one of die 1. -/
theorem witness_CopyStepsMoveTheirRequest_injected :
    let s := copying 0 (0x100 * 2 ^ 32) 0x2000040 0 .active .none (List.replicate 64 0)
    let s := { s with host := { s.host with inj := ⟨0, false, true, true, 1, 0⟩ } }
    (copyOf s).any (fun x => x.kind == 2 && decide (s.pieceReady x = some (List.replicate 64 0)) &&
      decide (s.host.inj.after.toNat < s.host.inj.beats + legBeats (s.legsOf x (List.replicate 64 0)))) = true := by
  decide +kernel

theorem witness_CopyStepsMoveTheirRequest_complete :
    let s := copying 0 0 64 0 .ended .none []
    (copyOf s).any (fun x => x.phase == .ended && x.follow.isNone && x.refused.isEmpty && x.fail.isNone) = true ∧
      s.core.copy.mcasts = [] := by decide +kernel

theorem witness_CopyStepsMoveTheirRequest_failed :
    let s := (copying 0 0 64 0 .active .none []).mapCore fun c => c.onXfer 3 fun x => x.failGlobal 0x10000 6
    (copyOf s).any (fun x => x.phase == .ended && x.fail.isSome && !x.fol) = true ∧
      s.core.afault.getLsbD 8 = false := by decide +kernel

/-! ## Global memory's steps -/

/-- The mapped page with its leaf entry given. -/
def mappedAs (e : Word) (inp : Inp) : State := { mapped with
  inp := inp, gmem := { mapped.gmem with tables := [(0, 0x8001), (0x8000, 0x10001), (0x10000, 0x18001), (0x18000, e)] } }

/-- A new mapping of another frame is written; one of the same frame, or outside the range, is not. -/
theorem witness_FirmwareKeepsTheTables :
    (mapped.gmem.firmwareSet [] [(0x18008, 0x30007)]).isSome = true ∧ mapped.gmem.mapOk = true ∧
      mapped.gmem.firmwareSet [] [(0x18008, 0x20007)] = none ∧
      (mapped.gmem.firmwareSet [] [(0x18000, 0)]).any (fun g => (mapped.gmem.changed g).all fun m =>
        m.ctx == 0 && decide (m.va < 0 + 65536) && decide (0 < m.va + pageSize m.lvl)) = true := by decide +kernel

/-- Two read-only mappings of one frame. -/
theorem witness_FirmwareKeepsTheTables_alias :
    let g := { mapped.gmem with tables := [(0, 0x8001), (0x8000, 0x10001), (0x10000, 0x18001), (0x18000, 0x20003),
      (0x18008, 0x20003)] }
    g.mapOk = true ∧ (g.mapped.2.map fun m => (m.va, m.frames)) = [(0, (2, 1)), (0x10000, (2, 1))] := by decide +kernel

/-- The steps that change tables answer a next state. -/
theorem witness_FirmwareKeepsTheTables_steps :
    let runs (i : Instr) (inp : Inp) : Bool := match exec i { mapped with inp := inp } with
      | .next _ => true
      | _ => false
    runs .shootdown (.shoot 0 0 65536 [(0x18000, 0)]) = true ∧
      runs .firmwareFaultResolve (.tables [] [(0x18008, 0x30007)] .map) = true := by decide +kernel

/-- An accessed page, a pinned cold one, and a cold one that nothing pins. -/
theorem witness_GlobalMemoryStepsComplete_evict :
    ((mappedAs 0x20047 (.evict 0 0xFFFF 0)).gmem.leaf 0 (0xFFFF / 65536 * 65536) = some (0x18000, 0, 0x20047) ∧
      (mappedAs 0x20007 (.evict 0 0xFFFF 0)).gmem.leaf 0 (0xFFFF / 65536 * 65536) = some (0x18000, 0, 0x20007)) ∧
    ((0x20047 : Word).getLsbD 5 = false ∧ (0x20007 : Word).getLsbD 5 = false ∧ mapped.gmem.evicting = []) ∧
    ((0x20047 : Word).getLsbD 6 = true ∧ (0x20007 : Word).getLsbD 6 = false) ∧ mapped.pinned 0 0 = false ∧
    (copying 0 0 64 0 .active .again []).pinned 0 0 = true :=
  ⟨by decide +kernel, by decide +kernel, by decide, by decide +kernel, by decide +kernel⟩

/-- A page of one non-zero chunk lies in record 0x5000 of the zone. -/
def zoned (inp : Inp) : State :=
  let s := mappedAs 0x50000027 inp
  let bs := zoneBytes 0 0 (⟨0x01, [⟨0, 1⟩], false, false⟩ :: List.replicate 15 Chunk.zero)
  { s with gmem := { s.gmem.writeSlots (recordAt 0x5000) bs with zone := [(0x5000, bs.length)] } }

theorem witness_GlobalMemoryStepsComplete_expand :
    let s := zoned (.expand 0 0xFFFF 0x5000 0x2FFFF)
    (s.gmem.leaf 0 (0xFFFF / 65536 * 65536) = some (0x18000, 0, 0x50000027) ∧ (0x50000027 : Word).getLsbD 5 = true ∧
      ((0x50000027 : Word).extractLsb' 16 36).toNat = 0x5000) ∧ s.gmem.zoneAt 0x5000 = some 96 ∧
      (s.gmem.unpack 0x5000 96 0 0).isSome = true ∧ s.gmem.mdAt 0 0 = some 1 ∧
      s.gmem.framePool (expanded 0x50000027 0x2FFFF) 0x2FFFF = true ∧ s.gmem.hintOk (expanded 0x50000027 0x2FFFF) = true ∧
      s.gmem.unused (0x2FFFF * 65536) 65536 = true ∧ s.gmem.wf = true := by decide +kernel

theorem witness_GlobalMemoryStepsComplete_codes :
    (0x10000 % 65536 = 0 ∧ 0 % 65536 = 0) ∧
      (mapped.gmem.chunkNo 0 0 = some 32 ∧ mapped.gmem.wf = true) := by decide +kernel

theorem witness_GlobalMemoryStepsComplete_host :
    (State.reset.host.ready = false ∧ readyHost.ready = true) ∧ 0x3FFFF + 1 ≤ 0x40000 ∧ (0xFFFFFFFFF + 1 ≤ 0x1000000000 ∧ [(0 : Byte)].length = 1) := by
  decide +kernel

theorem witness_GlobalMemoryStepsComplete_resolve :
    let s := { (onReset fun c => { c with hubWait := .touchSent 0x10000 }) with
      gmem := mapped.gmem, inp := .tables [] [(0x18008, 0x30007)] (.touch 0 false) }
    (s.gmem.firmwareSet [] [(0x18008, 0x30007)]).isSome = true ∧ (s.coreAt 0).hubWait = .touchSent 0x10000 := by
  decide +kernel

/-- A port last refilled 1024 cycles ago. -/
def portDue : State := { State.reset with now := 1024, host := { HostSide.reset with ports := [⟨96, [], 0⟩] } }

/-- A port is due exactly 1024 cycles after its last refill; the first share set up the ports. -/
theorem witness_GlobalMemoryStepsComplete_tokens :
    (portDue.host.ports.map fun p => p.last) = [0] ∧ 0 + 1024 = portDue.now ∧
      (State.reset.host.shares = [] ∧ State.reset.host.ports = []) := ⟨rfl, rfl, rfl, rfl⟩

end
end

