-- ==== Sys2Proof/Tests/Groups.lean ====
section
/-! SUPPORT. Witnesses for the hypotheses of the statements about the steps of the worklist, Sound groups and
populations. -/

open Sys2Proof Sys2Proof.Machine

section
set_option Elab.async false

/-! ## The worklist -/

/-- A task of bucket `p`, accepted as number `n`. -/
def task (p : BitVec 32) (n : Nat) : Task := ⟨0x100, [1, 2, 3, 4], p, 0, false, n, false, 0⟩

/-- The focused core waits in `serve` for the owner, in a clause-less start; slice 0 holds `ts`. -/
def serving (ts : List Task) (inp : Inp) : State :=
  let s := onReset fun c =>
    { c with ir := some (.of .serve), run := .wait, bound := .host }
  { s with
    inp := inp
    wl := { Worklist.reset with
      enabled := true, spillCap := 64, slices := Worklist.reset.slices.set 0 ⟨ts, some 3⟩ } }

/-- `serving` with a change of the worklist. -/
def servingWith (f : Worklist → Worklist) (ts : List Task) (inp : Inp) : State :=
  let s := serving ts inp
  { s with wl := f s.wl }

theorem witness_WorklistStepsCountAndMoveTasks_counts :
    let s := servingWith (fun w => { w with
      incs := [⟨0, 7, 3⟩], decs := [⟨0, 3, 7⟩], floorMsgs := [⟨95, some 4, none, 0⟩] }) [] (.idx 0)
    s.inp = .idx 0 ∧ s.wl.incs[0]? = some ⟨0, 7, 3⟩ ∧ s.wl.decs[0]? = some ⟨0, 3, 7⟩ ∧
      (∀ x ∈ s.wl.incs, x.cluster = 0 → 7 ≤ x.seq) ∧
      s.wl.floorMsgs.find? (fun m => m.cluster == 95) = some ⟨95, some 4, none, 0⟩ := by decide +kernel

/-- The task at the bound of the floor is offered. -/
theorem witness_WorklistStepsCountAndMoveTasks_dispatch :
    let s := serving [task 3 1] (.idx 0)
    (s.nextServed 0).any (fun x => x.1 == 0 && decide (x.2.2 = task 3 1)) = true ∧
      s.core.handlerOk (task 3 1).handler = true ∧ s.core.trans.mode = 0 ∧ s.core.inError handlerReads = false := by
  decide +kernel

/-- One task above the high mark of a slice, beyond the floor. -/
theorem witness_WorklistStepsCountAndMoveTasks_spill :
    let s := serving ((List.range 449).map fun k => task 4 k) (.idx 0)
    448 < (s.wl.slice 0).tasks.length ∧ s.wl.spillRoom = true ∧
      (s.wl.spillVictim ((s.wl.slice 0).tasks.filter fun y =>
        (s.wl.seen 0).isSome && !s.wl.within (s.wl.seen 0) y)).isSome = true := by decide +kernel

theorem witness_WorklistStepsCountAndMoveTasks_refill :
    let s := servingWith (fun w => { w with counts := [(3, 1)], spill := [task 3 1] }) ((List.range 63).map fun k => task 4 k) (.idx 0)
    s.nextRefill = some 0 ∧ s.wl.lowest 64 (s.wl.eligible s.wl.spill) = [task 3 1] := by decide +kernel

/-- A core of cluster 1 runs for the owner too. -/
theorem witness_WorklistStepsCountAndMoveTasks_move :
    let s := { serving [] (.idx 0) with others := [(16, { Core.reset with run := .run, bound := .host })] }
    s.takesPart 0 = true ∧ (s.servingIn 0).isEmpty = false ∧ s.wl.offer 0 = none ∧ s.wl.offerable s.wl.spill = [] ∧
      s.fullest 0 ≠ 0 ∧ (s.wl.slice 0).tasks.length ≤ 512 := by decide +kernel

/-- Two packages share the worklist; the exchange is due exactly now. -/
def sharing (f : Worklist → Worklist) (inp : Inp) : State :=
  { servingWith (fun w => f { w with sharing := [0, 1], coordinator := 0, xint := 0x100 }) [] inp with hubNow := 0x1000 }

theorem witness_WorklistStepsEndAndShareWork_exchange :
    let s := sharing (fun w => { w with lastExchange := 0xF00 }) (.idx 1)
    (s.wl.enabled = true ∧ s.wl.sharing ≠ [] ∧ s.wl.lastExchange + s.wl.xint.toNat ≤ s.hubNow) ∧
      (1 ≠ s.pkg ∧ 1 ∈ s.wl.sharing ∧ s.wl.heard 1 + 16 * s.wl.xint.toNat ≤ s.hubNow) := by decide +kernel

theorem witness_WorklistStepsEndAndShareWork_announce :
    let a : WlAnnounce := ⟨1, some 3, 9, 0⟩
    let s := { sharing id (.idx 0) with fabric := { State.reset.fabric with inbox := [.announce a] } }
    s.inp = .idx 0 ∧ s.fabric.inbox[0]? = some (.announce a) := by decide +kernel

/-- Package 1 can be reached through port 0. -/
def linked (s : State) : State :=
  { s with fabric := { s.fabric with
      routes := [(1, [0])], ordered := [(1, 0)]
      ports := s.fabric.ports.set 0 { Port.reset with trained := true, up := true } } }

theorem witness_WorklistStepsEndAndShareWork_steal :
    let a : WlAnnounce := ⟨1, some 3, 9, 0⟩
    let s := linked (sharing (fun w => { w with announced := [a] }) .none)
    s.serving.isEmpty = false ∧ s.wl.stealable = [] ∧ s.wl.stealFrom = none ∧ s.wl.victim = some a ∧
      (s.transmit a.pkg true (.stealAsk s.pkg)).isSome = true := by decide +kernel

theorem witness_WorklistStepsEndAndShareWork_answer :
    let s := sharing (fun w => { w with stealAsked := [1], stealIn := [[task 3 1]] }) (.idx 0)
    s.wl.stealAsked = 1 :: [] ∧ s.wl.stealIn = [task 3 1] :: [] ∧ s.nextRefill = some 0 := by decide +kernel

/-- Three tasks, of which one is given. -/
theorem witness_WorklistStepsEndAndShareWork_batch :
    let s := linked (sharing (fun w => { w with
      stealAsked := [1], counts := [(3, 3)], spill := [task 3 1, task 3 2, task 3 3] }) .none)
    s.wl.stealable = [task 3 1, task 3 2, task 3 3] ∧ s.wl.batch.length = 1 ∧
      (s.transmit 1 true (.steal s.wl.batch)).isSome = true := by decide +kernel

/-- Another package has armed the epoch that this one is in. -/
theorem witness_WorklistStepsEndAndShareWork_arm :
    let s := { sharing id (.idx 0) with fabric := { State.reset.fabric with inbox := [.wlArm 0] } }
    s.inp = .idx 0 ∧ s.fabric.inbox[0]? = some (.wlArm s.wl.epoch) ∧ s.wl.armed = false ∧ s.wl.enabled = true := by
  decide +kernel

/-- A package on its own, and the coordinator of two. -/
theorem witness_WorklistStepsEndAndShareWork_termination :
    (let s := servingWith (fun w => { w with armed := true }) [] .none
     s.inp = .none ∧ s.wl.sharing = [] ∧ s.wl.enabled = true ∧ s.wl.armed = true ∧ s.wl.quiescent = true) ∧
    (let s := sharing id .none
     s.inp = .none ∧ s.wl.sharing ≠ [] ∧ s.wl.coordinator = s.pkg ∧ s.wl.waveDue = none ∧ s.wl.waveOn = false ∧
       s.wl.armed = false) ∧
    (let ws : List WaveAnswer := [⟨0, 2, 3, 1⟩, ⟨1, 2, 0, 2⟩]
     let s := sharing (fun w => { w with
       armed := true, waveNo := 2, waveOn := true, wave := ws, lastWave := some (ws.map fun a => { a with no := 1 }) }) .none
     s.wl.coordinator = s.pkg ∧ s.wl.armed = true ∧ s.wl.wavesAgree = true ∧ s.wl.quiescent = true ∧ s.wl.ahead = false) ∧
    (let s := sharing (fun w => { w with waveNo := 1, waveOn := true, waveDue := some 1 }) .none
     s.wl.coordinator = s.pkg ∧ s.wl.waveOn = true ∧ s.wl.waveDue = some s.wl.waveNo ∧ s.wl.quiescent = true ∧
       s.wl.wave = []) := by decide +kernel

theorem witness_WorklistStepsEndAndShareWork_stall :
    let s := servingWith (fun w => { w with counts := [(3, 1)], stallLimit := 8, stallAcc := 8 }) [] .none
    s.wl.stallLimit ≠ 0 ∧ s.wl.stallLimit.toNat ≤ s.wl.stallAcc ∧ s.stalling = true := by decide +kernel

theorem witness_WorklistStepsEndAndShareWork_enable : 256 ≤ (0x100 : BitVec 32).toNat := by decide

/-! ## Sound groups -/

/-- A group of core 0 and core 16 with a range of 64 bytes at the end of their stores. -/
def group (next : BitVec 48) : Group := ⟨.active, 0, 64, next, [⟨0, 0, 0x13FFC0, 64, false⟩, ⟨1, 16, 0x13FFC0, 64, false⟩],
  3, [], []⟩

/-- Group 1023 is at home here; a store of `n` bytes at offset 56 is on its way. -/
def sounding (n : Nat) (inp : Inp) : State :=
  { inGroup with
    host := readyHost
    inp := inp
    sound := ⟨[(1023, group 1)], [⟨0x3FF, 56, List.replicate n 1, 0, 0, 7⟩], [], [], 3⟩ }

/-- The last bytes of the range, and one byte past it. -/
theorem witness_SoundStepsReplicateAndComplete_stamp :
    (let s := sounding 8 (.idx 0)
     (s.sound.toHome[0]?).any (fun r => inIssueOrder s.sound.toHome 0 r && !s.homeRefuses r &&
       decide (s.group (handleIdx r.handle) = some (group 1))) = true ∧ ∀ m ∈ (group 1).members, pkgOf m.cid = s.pkg) ∧
    (let s := sounding 9 (.idx 0)
     (s.sound.toHome[0]?).any (fun r => inIssueOrder s.sound.toHome 0 r && s.homeRefuses r) = true) := by decide +kernel

/-- Core 0 is a member of group 1023's third creation and has applied store 4; `f` changes it. Store 5 of 8 bytes at offset
56 is on its way to it. -/
def member (f : Core → Core) (revoked : Bool) : State :=
  { (onReset fun c => f { c with snd := { c.snd with members := [⟨0x3FF, 0x13FFC0, 0, 3, revoked, 4, []⟩] } }) with
    inp := .idx 0
    host := readyHost
    sound := ⟨[], [], [⟨0, ⟨0x3FF, 5, 56, List.replicate 8 1, 0, 7, 0, 3, 0, none⟩, false⟩], [], 3⟩ }

/-- The next store of a member, which it takes, and one that a revoked member refuses. -/
theorem witness_SoundStepsReplicateAndComplete_apply : ∀ revoked ∈ [false, true],
    let s := member id revoked
    (s.sound.copies[0]?).any (fun c => !c.refused && c.st.change.isNone && decide (c.st.seq ≠ 0) &&
      (s.divertsTo c.dest c.st.ctx).isNone && (s.coreAt c.dest).applying.isNone &&
      (s.coreAt c.dest).accepts c.st.ctx && ((s.coreAt c.dest).membership c.st.handle).any (fun m =>
        c.st.seq == m.applied + 1 && m.born == c.st.born && m.revoked == revoked &&
          !s.writeRefused c.dest (m.base + c.st.off) c.st.bytes.length)) = true ∧
      (s.coreAt 0).heldStores = 0 := by decide +kernel

/-- The last piece of a group store, with nothing held behind it. -/
theorem witness_SoundStepsReplicateAndComplete_piece :
    let st : Stamped := ⟨0x3FF, 5, 56, List.replicate 8 1, 0, 7, 0, 3, 0, none⟩
    let s := { member (fun c => { c with applying := some ⟨0, 0, 0, 0x13FFF8, List.replicate 8 1, none, some st⟩ }) false with
      inp := .two 0 0 }
    s.inp = .two 0 0 ∧ (s.coreAt 0).applying.any (fun x => x.sound == some st && !x.bytes.isEmpty) = true ∧
      ((s.coreAt 0).membership st.handle).any (fun m => m.held.isEmpty) = true ∧
      ∀ t : State, t.pieceCut 0x13FFF8 8 = 8 := by
  refine ⟨rfl, by decide +kernel, by decide +kernel, fun t => ?_⟩
  simp [State.pieceCut, State.pieceBytes, Nat.mod_one]

/-- Two answers: of a member that is awaited, and of one that has answered before. -/
theorem witness_SoundStepsReplicateAndComplete_answer :
    let x : SoundSum := ⟨0x3FF, 5, 0, 0, 7, 3, [0, 16], 0, none, false⟩
    let r (cid : Nat) : SoundAns := ⟨0x3FF, 3, 5, 1, cid, false⟩
    x.homeref = false ∧ x.handle = (r 16).handle ∧ x.born = (r 16).born ∧ x.seq = (r 16).seq ∧ (r 16).cid ∈ x.waiting ∧
      (r 1).cid ∉ x.waiting := by decide

theorem witness_SoundStepsReplicateAndComplete_sum :
    let o : OutOp := ⟨7, .sound, .group 0x3FF false, .package, 0, 0x3FF⟩
    let s := { (onReset fun c => { c with outst := [o] }) with
      inp := .idx 1
      sound := ⟨[], [], [],
        [⟨0x3FF, 4, 0, 0, 6, 3, [16], 1, some (0, 16), false⟩, ⟨0x3FF, 5, 0, 0, 7, 3, [], 0, none, false⟩], 3⟩ }
    (s.sound.sums[1]?).any (fun (x : SoundSum) => x.waiting.isEmpty && pkgOf x.issuer == s.pkg && !x.homeref &&
      x.nackn == 0 && (s.coreAt x.issuer).findOut x.tag == some o) = true := by decide +kernel

theorem witness_SoundStepsReplicateAndComplete_negative :
    let o : OutOp := ⟨6, .sound, .group 0x3FF false, .package, 0, 0x3FF⟩
    let s := { (onReset fun c => { c with outst := [o] }) with
      inp := .idx 0, sound := ⟨[], [], [], [⟨0x3FF, 4, 0, 0, 6, 3, [], 1, some (0, 16), false⟩], 3⟩ }
    (s.sound.sums[0]?).any (fun (x : SoundSum) => x.waiting.isEmpty && !x.homeref && x.nackn != 0 &&
      (s.coreAt x.issuer).findOut x.tag == some o) = true := by decide +kernel

/-- Each change, on a group of two members, and a new group at the end of the table. -/
theorem witness_SoundStepsReplicateAndComplete_change :
    let s := sounding 8 .none
    s.group 1023 = some (group 1) ∧ (group 1).state = .active ∧ (group 1).nextSeq ≠ 0 ∧
      (∀ x ∈ [SoundChange.add 32 2 0x13FFC0 64 false, .remove 16, .revoke 16 true, .close], s.changeOk (group 1) x = true) ∧
      (s.group 1022 = none ∧ s.groupOk (group 0) = true) ∧
      ((group 1).members.find? (fun m => m.cid == 16)).isSome = true ∧ (s.coreAt 16).heldStores = 0 ∧
      (s.coreAt 16).membership 1022 = none := by decide +kernel

/-! ## Populations -/

/-- Population 15 of this package: cores 0 and 1 with genomes of 64 bytes. -/
def population (arrivals : List Arrival) (closed : Option Closed) : Population :=
  ⟨0, 0, 15, [(0, 0), (1, 1)], 64, false, 1, 1, 2, 1, 0, 0, 0, 0, 0, 0, 0, 1, 0, 0, arrivals, closed, [], [], false⟩

def populated (p : Population) (msgs : List SceMsg) (inp : Inp) : State :=
  { State.reset with host := readyHost, inp := inp, sce := ⟨[(15, p)], msgs, []⟩ }

theorem witness_GenerationsCloseAndRelease_arrival :
    let s := populated (population [] none) [⟨15, ⟨1, 9, 0⟩, .arrive⟩] (.idx 0)
    s.inp = .idx 0 ∧ s.sce.msgs[0]? = some ⟨15, ⟨1, 9, 0⟩, .arrive⟩ ∧ s.population 15 = some (population [] none) ∧
      (population [] none).closed = none ∧ (population [] none).has 1 = true := by decide +kernel

theorem witness_GenerationsCloseAndRelease_close :
    let p := population [⟨0, 5, 0⟩, ⟨1, 9, 0⟩] none
    let s := populated p [] (.idx 15)
    s.population 15 = some p ∧ p.home = s.pkg ∧ p.closed = none ∧ p.arrivals ≠ [] ∧
      ∀ m ∈ p.members, ∃ a ∈ p.arrivals, a.cid = m.2 := by decide +kernel

def loser : Loser := ⟨1, 0, 0, 5, 9, false, false, none, 0⟩

def closedOf (logged : Nat) : Closed := ⟨[⟨0, 9, 0⟩, ⟨1, 5, 0⟩], [loser], logged⟩

theorem witness_GenerationsCloseAndRelease_copy :
    let p := population [] (some (closedOf 0))
    let s := populated p [] (.two 15 0)
    s.population 15 = some p ∧ p.closed = some (closedOf 0) ∧ (closedOf 0).losers[0]? = some loser ∧
      loser.done = false ∧ loser.asked = false ∧ p.home = s.pkg ∧ pkgOf loser.winner = s.pkg := by decide +kernel

/-- The last 8 bytes of a loser's window are left. -/
theorem witness_GenerationsCloseAndRelease_job :
    let p := population [] (some (closedOf 0))
    let x : SceJob := ⟨0, 15, 0, 0, loser, 56, false⟩
    let s := { populated p [] (.three 0 0 0) with sce := ⟨[(15, p)], [], [x]⟩ }
    s.sce.jobs[0]? = some x ∧ (s.popOf x.home x.slot).any (fun y => y == (15, p)) = true ∧ x.waits = false ∧
      x.pos < p.gl ∧ p.gl ≤ 0x140000 ∧ p.xf = 0 ∧ pkgOf x.l.cid = s.pkg ∧ s.storeReady x.l.cid = true ∧
      s.storeReady x.l.winner = true ∧ (s.coreAt x.l.winner).bad = [] ∧ (s.coreAt x.l.cid).applying = none ∧ s.host.inj.arm = false ∧ s.host.ports = [] := by
  decide +kernel

/-- The last record is written; a member waits in `gend`. -/
theorem witness_GenerationsCloseAndRelease_release :
    let p := population [] (some (closedOf 1))
    let s := (populated p [] (.idx 15)).mapCore fun c => { c with sce := { c.sce with phase := .closed } }
    s.population 15 = some p ∧ p.closed = some (closedOf 1) ∧ (closedOf 1).losers.length ≤ (closedOf 1).logged ∧
      (∀ m ∈ p.members, pkgOf m.2 = s.pkg ∧ s.divertsTo m.2 p.ctx = none) ∧ (s.coreAt 0).sce.phase = .closed := by
  decide +kernel

theorem witness_GenerationsCloseAndRelease_descriptor :
    let s := { State.reset with inp := .pop 15 (some (population [] none)) }
    s.population 15 = none ∧ s.popOk 15 (population [] none) = true := by decide +kernel

end
end

