-- ==== Sys2Proof/Tests/Vector.lean ====
section
/-! SUPPORT. Witnesses for the hypotheses of the statements about the vector and tile units. -/

open Sys2Proof Sys2Proof.Machine

section
set_option Elab.async false

/-- A record for 64 elements of 8 bits at 0x1000. -/
def rec8 : ShapeRec :=
  ⟨0x1000, .i8, 0, false, false, ⟨#[64, 0, 0, 0], rfl⟩, ⟨#[1, 0, 0, 0], rfl⟩, 0, 0⟩

/-- Slot 0 is bound, and a base address for gathers lies in `s1`. -/
def slotted : State := onReset fun c =>
  { c.wrS 1 0x1000 with vec := { c.vec with slots := c.vec.slots.set 0 ⟨some rec8, 0⟩ } }

def memCtl (t : EType) : VMemCtl := ⟨t, 0, 0, .none⟩

/-- The hypotheses of `EntersChecked` hold in `slotted`. -/
def entersIn (i : Instr) : Bool :=
  let c := slotted.core
  decide (c.vec.seq.length < 16) && c.waitOk (vecWait i) && c.vec.seq.isEmpty &&
    (slotTrap c.vec.slots i).isNone && (c.boundsTrap c.vec.slots 0 (c.capture i c.pc)).isNone

/-- An empty sequencer, and one with room for one more entry. -/
theorem witness_VectorRegisterInstructionsEnter :
    State.reset.core.vec.seq.length < 16 ∧
      (let c := Core.reset
       let e := c.entryFor (c.capture (.vmov ⟨1, 2, plainCtl .i4⟩) 0)
       (onReset fun c => { c with vec := { c.vec with seq := List.replicate 15 e } }).core.vec.seq.length < 16) := by
  decide +kernel

theorem witness_VectorRegisterInstructionsEnter_rows (o : VV) : Instr.verf o ∈ [Instr.vmov o, .vsqrt o, .vabs o,
    .vneg o, .vnot o, .vpopc o, .vclz o, .vrenorm o, .vdeq o, .vquant o, .vexp2 o, .vlog2 o, .vrcp o, .vrsqrt o,
    .vsin o, .vcos o, .vtanh o, .vsigm o, .verf o] := by simp

theorem witness_VectorMemoryInstructionsEnter :
    entersIn (.vld ⟨3, 0, memCtl .i8⟩) = true ∧ entersIn (.vst ⟨3, 0, memCtl .i8⟩) = true ∧
      entersIn (.vldB ⟨3, 1, 0, memCtl .i8⟩) = true ∧ entersIn (.vstB ⟨3, 1, 0, memCtl .i8⟩) = true ∧
      entersIn (.vlds ⟨3, 1, memCtl .i64⟩) = true ∧ entersIn (.vgather ⟨3, 1, 2, memCtl .i32⟩) = true ∧
      entersIn (.vscatter ⟨3, 1, 2, memCtl .fp64⟩) = true ∧ entersIn (.vrng ⟨3, 0, plainCtl .i8⟩) = true ∧
      entersIn (.vrngu ⟨3, 4, plainCtl .fp32⟩) = true ∧ entersIn (.vdrop ⟨3, 2, 1, 0, plainCtl .fp32⟩) = true := by
  decide +kernel

/-! ## Performing -/

/-- The entry of an instruction at the head of `headed`'s sequencer. -/
def headEntry (i : Instr) : SeqEntry := Core.reset.entryFor (Core.reset.capture i 0)

/-- A sequencer with one entry whose next instruction is `i`, for the rows that the statements name. -/
theorem witness_heads (i : Instr) (h : (headEntry i).op? = some (Core.reset.capture i 0)) :
    (headed i Core.reset).heads (headEntry i) (Core.reset.capture i 0) [] := ⟨rfl, h⟩

theorem witness_VectorLanesGiveTheirResults :
    (plainCtl .i4).et.isInt = true ∧ (plainCtl .i64).sat = false ∧
      (Core.reset.capture (.vadd ⟨3, 1, 2, plainCtl .i64⟩) 0).ins = .vadd ⟨3, 1, 2, plainCtl .i64⟩ ∧
      (headed (.vadd ⟨3, 1, 2, plainCtl .i64⟩) Core.reset).heads (headEntry (.vadd ⟨3, 1, 2, plainCtl .i64⟩))
        (Core.reset.capture (.vadd ⟨3, 1, 2, plainCtl .i64⟩) 0) [] ∧
      (headed (.vadd ⟨3, 1, 2, plainCtl .i64⟩) Core.reset).core.badRegs = [] :=
  ⟨by decide, by decide, rfl, witness_heads _ rfl, rfl⟩

/-- The last element of a register of 4-bit elements, and a predicate that leaves element 0 out. -/
theorem witness_VectorLanesGiveTheirResults_lanes : 127 < (plainCtl .i4).et.count ∧
    (Core.reset.rdQ 0).getLsbD 127 = true ∧ (Core.reset.rdQ 1).getLsbD 0 = false := by decide +kernel

theorem witness_RegisterMovesArePerformed :
    (Core.reset.capture (.zzero 1 .fp32) 0).ins = .zzero 1 .fp32 ∧
      (headed (.zzero 1 .fp32) Core.reset).heads (headEntry (.zzero 1 .fp32))
        (Core.reset.capture (.zzero 1 .fp32) 0) [] ∧
      (headed (.qnot ⟨1, 2, plainCtl .i4⟩) Core.reset).heads (headEntry (.qnot ⟨1, 2, plainCtl .i4⟩))
        (Core.reset.capture (.qnot ⟨1, 2, plainCtl .i4⟩) 0) [] ∧ Core.reset.badRegs = [] :=
  ⟨rfl, witness_heads _ rfl, witness_heads _ rfl, rfl⟩

/-! ### Flags, traps and memory -/

/-- An instruction at the head of a core whose `v1` holds a signalling NaN in each element of a type, with NV enabled or
not. -/
def nanHeaded (i : Instr) (bits : BitVec 512) (enabled : Bool) : State :=
  headed i { Core.reset.wrV 1 ⟨bits, Vector.replicate 4 0x7F000⟩ with fp := ⟨if enabled then 0x80 else 0, 0⟩ }

/-- FP32 and BF16 signalling NaNs in the low elements. -/
def snan32 : BitVec 512 := 0x7F800001
def snan16 : BitVec 512 := 0x7F81

/-- An enabled element traps, and with NV off none does: `vadd`, a compare, `vquant` and `vdeq`. -/
theorem witness_VectorLanesGiveTheirResults_trap :
    let k := plainCtl .fp32
    let s := nanHeaded (.vadd ⟨3, 1, 2, k⟩) snan32 true
    ((s.core.rdQ 0).getLsbD 0 = true ∧ s.core.owed = false ∧ s.core.badRegs = [] ∧
      (headEntry (.vadd ⟨3, 1, 2, k⟩)).follow = none ∧
      (fAdd false (EType.fp32.read (s.core.elem 1 .fp32 0)) (EType.fp32.read (s.core.elem 2 .fp32 0))).2 &&&
        s.core.fpEnables ≠ 0) ∧
      (fCompare .eq (EType.fp32.read (s.core.elem 1 .fp32 0)) (EType.fp32.read (s.core.elem 2 .fp32 0))).2 &&&
        s.core.fpEnables ≠ 0 ∧
      (nanHeaded (.vadd ⟨3, 1, 2, k⟩) snan32 false).core.fpEnables = 0 := by decide +kernel

theorem witness_VectorLanesGiveTheirResults_blocks :
    let s := nanHeaded (.vquant ⟨3, 1, plainCtl .e4m3⟩) snan16 true
    32 ≤ EType.e4m3.count ∧ 64 = EType.e4m3.count ∧
      chooseScale .e4m3 [EType.bf16.read (s.core.elem (vecAt 1 0) .bf16 0)] = 0xFF000 ∧
      (EType.bf16.read (s.core.elem (vecAt 1 0) .bf16 0)).isSNaN = true ∧ flagNV &&& s.core.fpEnables ≠ 0 := by
  decide +kernel

theorem witness_VectorLanesGiveTheirResults_group :
    let s := nanHeaded (.vdeq ⟨4, 1, plainCtl .e5m2⟩) 0x7D true
    (scaled (Scale.ofBits ((s.core.rdV 1).scales.get 0)) (EType.e5m2.read (s.core.elem 1 .e5m2 0))).2 &&&
      s.core.fpEnables ≠ 0 ∧ 32 ≤ EType.e5m2.count ∧ 1 < EType.e5m2.count / 32 := by decide +kernel

/-- A request at the SFU returns to the entry that waits for it. -/
def returning : State :=
  let s := headed (.vrcp ⟨3, 1, plainCtl .fp32⟩) Core.reset
  { s with
    now := 100
    sfu := [⟨s.cid, 0, some 76, 7⟩]
    core := { s.core with vec := { s.core.vec with sfuOut := [7] } } }

theorem witness_VectorLanesGiveTheirResults_sfu : returning.sfuReturns ∧
    returning.heads (headEntry (.vrcp ⟨3, 1, plainCtl .fp32⟩)) (Core.reset.capture (.vrcp ⟨3, 1, plainCtl .fp32⟩) 0) [] :=
  ⟨⟨⟨returning.cid, 0, some 76, 7⟩, [], by decide +kernel, rfl⟩, rfl, rfl⟩

/-- The first access, one that is not the last, and a bad granule among those to come. -/
theorem witness_RegisterMovesArePerformed_accesses :
    let i : Instr := .vldB ⟨3, 1, 0, memCtl .i64⟩
    let e := headEntry i
    let all := memItems (Core.reset.rdQ 0) (baseLocs .i64 0 8 e.iter) []
    let bad : Core := { Core.reset with bad := [0] }
    e.part.vals.length = e.part.count ∧ e.part.count < all.length ∧
      (∀ it ∈ all, Core.reset.badIn it.range.1 it.range.2 = none) ∧
      (∀ it ∈ all.take 1, bad.firstBad ([it].map MemItem.range) = some 0) ∧ e.follow = none ∧ bad.owed = false ∧
      (bad.firstBad (([MemItem.elem 0 ⟨0, 4, 0⟩].map MemItem.range).filter fun a => bad.mergesBad a.1 a.2) = some 0) := by
  decide +kernel

/-- The last access of a load: the others have been read, or the predicate enables none. -/
theorem witness_RegisterMovesArePerformed_last :
    let all := memItems (Core.reset.rdQ 1) (baseLocs .i64 0 8 0) []
    Sys2Proof.Machine.Part.none.count = all.length := by decide +kernel

/-- A scale word stands before its block (R149, R155). -/
theorem witness_RegisterMovesArePerformed_scale :
    let r : ShapeRec := { rec8 with table := true, scalebase := 0x100 }
    (memItems (Core.reset.rdQ 0) (slotLocs ⟨some r, 0⟩) (scaleAddrs ⟨some r, 0⟩))[0]? = some (.scale 0 0x100) ∧
      (memItems (Core.reset.rdQ 0) (slotLocs ⟨some r, 0⟩) (scaleAddrs ⟨some r, 0⟩))[33]? = some (.scale 1 0x104) := by
  decide +kernel

theorem witness_VectorToScalarCompletes :
    let c := Core.reset
    c.vec.seq = [] ∧ (elemToF .fp32 (c.elem 1 .fp32 15)).2 &&& c.fpEnables = 0 ∧
      (c.reduceSum (plainCtl .fp32) ((c.rdV 1).elems .fp32) none).2 &&& c.fpEnables = 0 ∧
      (c.reduceMinMax (plainCtl .fp64) ((c.rdV 1).elems .fp64) true).2 &&& c.fpEnables = 0 ∧
      (c.reduceSum (plainCtl .i64) ((c.rdV 1).elems .i64) (some ((c.rdV 2).elems .i64))).2 &&& c.fpEnables = 0 := by
  decide +kernel

/-- `vsync` retires after reset, and stays while the SFU holds a request of the core. -/
theorem witness_VectorToScalarCompletes_vsync :
    State.reset.sfuFree ∧ State.reset.core.vec.seq = [] ∧ ¬ returning.sfuFree := by
  unfold State.sfuFree
  decide +kernel

/-! ## Slots and loops -/

/-- The record of `rec8` in memory: base, type and rank, dimensions, strides. -/
def recWord : Nat := 0x1000 + 0x1 * 2 ^ 32 + 64 * 2 ^ 64 + 1 * 2 ^ 128

/-- The record is read with the last piece; with none read yet, one piece does not reach its end. -/
theorem witness_SlotsAndLoopsAreSetUp_record :
    let c := (Core.reset.storeN 0x80 64 recWord).wrS 1 0x80
    let r := readingFrom (.vsetsh 0 1) 0x80 64 c
    (c.accessPending = false ∧ c.shapeTrap 0x80 = none ∧ (c.readPiece 0x80 64 c.readSoFar).length < 64) ∧
      r.accessPending = false ∧ r.shapeTrap 0x80 = none ∧ 64 ≤ (r.readPiece 0x80 64 r.readSoFar).length ∧
      (match shapeOf (ofBytesLE (r.readPiece 0x80 64 r.readSoFar)) (word64 (.vsetsh 0 1)) with
        | .ok x => decide (x = rec8)
        | .error _ => false) = true := by decide +kernel

/-- `vmov v1, v2` follows a `vloop` at 0. -/
def beforeLoop (n : Word) : State := onReset fun c =>
  { (c.wrS 1 n).storeN 8 8 0b000000000000000000000000000000_000000_000010_000001_000000_00100011_01 with stale := [] }

/-- The hypotheses of the clause about `vloop` hold in `beforeLoop`. -/
def loopIn (n : Word) : Bool :=
  let s := beforeLoop n
  let body : List SeqOp := [⟨.vmov ⟨1, 2, plainCtl .i4⟩, 8, 0, 0, 0, none⟩]
  decide ((s.core.rdS 1 + (0 : BitVec 30).signExtend 64).toNat ≤ 0xFFFFFFFF) &&
    (match s.loopIn ⟨1, 0, 1⟩ with
      | .ok (b, after) => decide (b = body ∧ after = 16)
      | .error _ => false) &&
    (body.all fun op => !s.core.regsPending op.ins) && s.core.bodyWaitsOk body &&
    (match bodySlots body s.core.vec.slots with
      | .ok _ => true
      | .error _ => false) && decide (s.core.vec.seq.length < 16) &&
    (match s.core.loopBounds body n.toNat 0 s.core.vec.slots with
      | .ok _ => true
      | .error _ => false)

/-- No iteration, and two. -/
theorem witness_SlotsAndLoopsAreSetUp_loop : loopIn 0 = true ∧ loopIn 2 = true := by decide +kernel

/-! ## The tile unit -/

/-- `t1` and `t2` are shaped 2 × 4 of 8 bits, `t3` 4 × 2; records of that shape, and of one word, lie in memory. -/
def tiled : State := onReset fun c =>
  let shapes := ((c.tile.tshp.set 1 (1 + 1 * 16 + 3 * 1024)).set 2 (1 + 1 * 16 + 3 * 1024)).set 3 (1 + 3 * 16 + 1 * 1024)
  let c := { c with tile := { c.tile with tshp := shapes }, ids := { c.ids with gangshape := 4 } }
  let c := c.storeN 0x80 64 (0x1000 + 0x11 * 2 ^ 32 + 4 * 2 ^ 64 + 2 * 2 ^ 80 + 1 * 2 ^ 128 + 4 * 2 ^ 160)
  let c := c.storeN 0xC0 64 (0x1000 + 0x13 * 2 ^ 32 + 4 * 2 ^ 64 + 2 * 2 ^ 80 + 4 * 2 ^ 128 + 16 * 2 ^ 160)
  (c.wrS 1 0x80).wrS 2 0xC0

/-- The hypotheses of `EntersTile` hold in `tiled`, a record form having read all but its last piece. -/
def entersTileIn (op : TileOp) : Bool :=
  let c := match recordReg op with
    | some r => readingFrom op.toInstr (tiled.core.rdS r).toNat 64 tiled.core
    | none => tiled.core
  let (placed, bs) := match recordReg op with
    | some r => (c.shapeTrap (c.rdS r) == none, c.readPiece (c.rdS r).toNat 64 c.readSoFar)
    | none => (true, [])
  decide (c.vec.seq.length < 16) && c.vec.seq.isEmpty && placed && (bs.isEmpty || decide (64 ≤ bs.length)) &&
    match c.tileCheck op (ofBytesLE bs) with
    | .ok _ => true
    | .error _ => false

theorem witness_TileInstructionsEnter :
    entersTileIn (.tld ⟨1, 1⟩) = true ∧ entersTileIn (.tst ⟨1, 1⟩) = true ∧ entersTileIn (.tzero 7) = true ∧
      entersTileIn (.ttr ⟨3, 1⟩) = true ∧ entersTileIn (.zzero 3 .fp64) = true ∧
      entersTileIn (.zst ⟨0, 2, .int32⟩) = true ∧ entersTileIn (.tmma ⟨0, 1, 3, .i8, .i8, .int32⟩) = true ∧
      entersTileIn (.tmmo ⟨0, 1, 3, .i8, .i8, .int32⟩) = true ∧ entersTileIn (.tsacc ⟨0, 1, 4, 8, .fp32⟩) = true ∧
      entersTileIn (.tepi ⟨0, 1, 0, .i8, .int32, .cvt, .rne, false⟩) = true ∧
      entersTileIn (.tmrot ⟨0, 1, 3, .i8, .i8, .int32⟩) = true := by decide +kernel

/-- The record of `tiled` for `tld` and `tst` has the shape of `t1`, which fits, and that of `zst` the columns of its
accumulator; `ttr` goes from `t1` into `t3`. -/
theorem witness_RegisterMovesArePerformed_tiles :
    let c := tiled.core
    (match shapeOf (c.loadN 0x80 64) 0 with
      | .ok r => decide (c.tshape 1 = ⟨r.et, r.rows, r.cols⟩)
      | .error _ => false) = true ∧ (c.tshape 1).fits = true ∧
      c.tshape 3 = ⟨(c.tshape 1).et, (c.tshape 1).cols, (c.tshape 1).rows⟩ ∧ (c.tshape 3).fits = true ∧
      1 < (c.tshape 1).rows ∧ 1 < (c.tshape 3).cols := by decide +kernel

/-- A product whose element raises an enabled flag, and one that raises none. -/
theorem witness_RegisterMovesArePerformed_flags :
    let c : Core := { tiled.core with fp := ⟨0x80, 0⟩ }
    let nan := (treeSum (level1Of .fp32 .fp32) .fp32 .rne (EType.fp32.read 0)
      [(EType.fp32.read 0x7F800001, EType.fp32.read 0)]).2
    nan &&& c.fpEnables ≠ 0 ∧ nan &&& tiled.core.fpEnables = 0 := by decide +kernel

end
end

