-- ==== Sys2Proof/Tests/Launching.lean ====
section
/-! SUPPORT. Witnesses for the hypotheses of the statements about the hub, clauses, boundaries, the host's requests
and pre-emption. -/

open Sys2Proof Sys2Proof.Machine

section
set_option Elab.async false

/-! ## Launch queues -/

/-- A clause record of queue 63: 32 bytes of code, loaded and entered at 0, a gang of one core, join count `join`. -/
def clauseRecord (join : Nat) : Nat := 32 * 2 ^ 64 + 63 * 2 ^ 344 + join * 2 ^ 352

/-- Queue 63 belongs to context 0, with a change. -/
def hubWith (f : LaunchQueue → LaunchQueue) : Hub :=
  { Hub.reset with queues := Hub.reset.queues.set 63 (f { LaunchQueue.reset with owner := some 0, opened := true }) }

def cont : Cont := ⟨0, 63, 0, 1, 2, 0, 0⟩

/-- A group of one block that names queue `q` has arrived. -/
def exiting (q : Nat) : State :=
  { State.reset with inp := .idx 0, hub := { hubWith id with groups := [⟨0, 0, 0x100, [{ cont with queue := q }]⟩] } }

theorem witness_LaunchQueuesServeTheirEntries_arrival :
    (let s := exiting 63
     (s.hub.groups[0]?).any (fun g => (g.conts.all fun x => (s.hub.queue x.queue).owner == some g.ctx) &&
       match ({ s.hub with groups := s.hub.groups.eraseIdx 0 } : Hub).placeAll g.conts with
       | .ok _ => true
       | .error _ => false) = true) ∧
    (let s := exiting 62
     (s.hub.groups[0]?).any (fun g => s.hub.refusedContext g == some 0) = true) ∧
    (let h := { (exiting 63).hub with queues := (hubWith fun q => { q with ovCount := 1, ovcap := 1 }).queues }
     (h.groups[0]?).any (fun g => h.refusedContext g == none &&
       match ({ h with groups := h.groups.eraseIdx 0 } : Hub).placeAll g.conts with
       | .ok _ => false
       | .error q => q == 63) = true) := by decide +kernel

/-- An entry whose record stands at address 0 of the mapped page. -/
def reading (join : Nat) (st : EntryState) : State := { mapped with
  inp := .idx 9
  gmem := { mapped.gmem with chunks := [(32, ⟨0, Memory.writeBytes [] 0 (toBytesLE 64 (clauseRecord join)), false, false⟩)] }
  hub := { hubWith id with entries := [⟨9, 0, 63, 0, 0, 1, 0, 0, 0, false, st⟩], nextId := 10 } }

/-- No port limits the read. -/
theorem witness_LaunchQueuesServeTheirEntries_tokens (ports : List Nat) (cost : Nat) :
    ((reading 1 .joined).charge ports 0 cost).isSome = true := by
  rw [State.charge_noPorts _ _ _ _ (by rfl)]; rfl

/-- What the read of the entry's record gives, as a number. -/
def recordRead (s : State) : Option Nat :=
  match s.readGlobal 0 0 64 with
  | .done _ bs => some (ofBytesLE bs)
  | _ => none

theorem witness_LaunchQueuesServeTheirEntries_template :
    (let s := reading 1 .joined
     (s.hub.readingEntry 9).any (fun e => e.state == .joined) = true ∧ recordRead s = some (clauseRecord 1) ∧
       recordFault (clauseRecord 1) false (s.hub.queue 63).owner = none) ∧
    (let s := reading 0xFFFF .reading
     (s.hub.readingEntry 9).any (fun e => e.state == .reading) = true ∧ recordRead s = some (clauseRecord 0xFFFF) ∧
       fieldOf (clauseRecord 0xFFFF) 352 16 ≠ 0) := by decide +kernel

/-- The hub handles nothing, one arrival waits, and an entry of its identity is open or is not. -/
theorem witness_LaunchQueuesServeTheirEntries_settle :
    let h (st : EntryState) : Hub :=
      { (reading 2 st).hub with pending := [cont], entries := [⟨9, 0, 63, 0, 0, 1, 1, 0, 0, false, st⟩] }
    (h .reading).handled ≠ none ∧ Hub.reset.pending = [] ∧
      ((h (.open_ 2)).handled = none ∧ (h (.open_ 2)).pending = cont :: []) ∧
      (h (.open_ 2)).openFor cont = some ⟨9, 0, 63, 0, 0, 1, 1, 0, 0, false, .open_ 2⟩ ∧
      Hub.reset.openFor cont = none := by decide +kernel

/-- The overflow region of queue 63, of 2 records at 64, holds its record 3 at its second place. -/
theorem witness_LaunchQueuesServeTheirEntries_overflow :
    let s : State := { mapped with
      inp := .none
      gmem := { mapped.gmem with
        chunks := [(32, ⟨0, Memory.writeBytes [] 128 cont.record, false, false⟩)] }
      hub := hubWith fun q => { q with ovbase := 64, ovcap := 2, ovCount := 1, ovNext := 4 } }
    let q := s.hub.queue 63
    let va := (q.ovbase.toNat + 64 * ((q.ovNext - q.ovCount) % q.ovcap)) % 2 ^ 56
    s.hub.nextSource = some 63 ∧ s.gmem.unwritten 0 va 64 = false ∧
      (match s.readGlobal 0 va 64 with
        | .done _ bs => Cont.parse bs
        | _ => none) = some cont ∧ cont.queue = 63 ∧ cont.ctx = q.owner.getD 0 := by decide +kernel

/-- The last page with one record, whose consumer index is about to wrap. -/
theorem witness_LaunchQueuesServeTheirEntries_consume :
    let h := hubWith fun q => { q with slots := q.slots.set 62 (BitVec.ofNat 512 (clauseRecord 1)), cons := 4031 }
    h.nextSource = some (64 + 63) ∧ (h.queue 63).frozen = false ∧
      recordFault ((h.queue 63).slots.toList.getD (4031 % 63) 0).toNat true (h.queue 63).owner = none := by decide +kernel

theorem witness_LaunchQueuesServeTheirEntries_submit :
    let s := { State.reset with host := readyHost, inp := .submit 63 63 [] }
    (s.inp = .submit 63 63 [] ∧ s.host.ready = true) ∧ (63 < 4032 ∧ (63 + 4032 - (s.hub.queue 63).cons) % 4032 ≤ 63) := by
  decide +kernel

/-- An entry is ready at the head of priority 7. -/
def readyEntry (f : LaunchQueue → LaunchQueue) : Hub := { hubWith f with
  entries := [⟨9, 0, 63, 0, 0, 1, 0, 0, 0, true,
    .ready { ClauseRec.parse (clauseRecord 1) with prio := 7, res := true } 5⟩] }

theorem witness_LaunchQueuesServeTheirEntries_wait :
    let h := readyEntry fun q => { q with qwait := 4 }
    (h.head 63 7).any (fun x => x.2.2 == 5) = true ∧ (h.queue 63).qwait ≠ 0 ∧ 5 + (h.queue 63).qwait < 10 := by
  decide +kernel

/-! ## Clauses -/

theorem witness_ClausesAreBoundAndStarted_bind :
    let s := { State.reset with hub := readyEntry id, inp := .bind 63 7 95 15 }
    (s.hub.head 63 7).any (fun x => (placement s.pkg x.2.1 95 15).any fun ms =>
      ms.length == 1 && ms.all fun m => !s.reserved m.cid) = true ∧ (s.hub.queue 63).frozen = false := by decide +kernel

/-- A bind of core 0, accepted as the first of queue 63. -/
def bindOf0 (r : ClauseRec) (started : Bool) : Bind :=
  ⟨⟨9, 0, 63, 0, 0, 1, 0, 0, 0, true, .ready r 5⟩, r, 0, 0, 0, [⟨0, 0, 0, 0, 0, false, .from_ 0⟩], started, false⟩

/-- The code of 32 bytes is resident: the last load of the core was of the same image. -/
theorem witness_ClausesAreBoundAndStarted_load :
    let b := bindOf0 { ClauseRec.parse (clauseRecord 1) with res := true } false
    let s := { (onReset fun c => { c with lastLoad := some ⟨0, 32, 0⟩ }) with
      host := readyHost, inp := .idx 0, hub := { hubWith id with binds := [b] } }
    s.hub.binds[0]? = some b ∧ s.host.ready = true ∧ s.host.tripped = false ∧ b.started = false ∧
      (∀ m ∈ b.members, (s.coreAt m.cid).run = .idle) ∧ (s.loadAll b false).2.map (·.load) = [.done] := by
  decide +kernel

theorem witness_ClausesAreBoundAndStarted_host :
    let s := { State.reset with host := readyHost, inp := .hostStart 4095 0x40 false [.s 3 7] }
    s.host.ready = true ∧ s.host.tripped = false ∧ s.core.run = .idle ∧ s.core.applying = none ∧ 4095 < 4096 := by decide +kernel

/-- Core 0 has run its clause for `n` cycles, with a watchdog of 8. -/
def watched (n : Nat) (fired : Bool) : State :=
  let b := bindOf0 (ClauseRec.parse (clauseRecord 1)) true
  let s := onReset fun c => { c with
    run := .run, bound := .clause 0 32, wdFired := fired, ids := { c.ids with clause := BitVec.ofNat 64 b.clause } }
  { s with now := n, hub := { hubWith fun q => { q with bindwd := 8 } with binds := [b] } }

theorem witness_ClausesAreBoundAndStarted_watchdogs :
    (let s := watched 8 false
     s.bindLimit ≠ 0 ∧ s.bindLimit ≤ s.core.wdCount s.now ∧ s.core.wdFired = false) ∧
    (let s := watched 16 true
     (s.bindOf s.cid).any (fun b => b.entry.queue == 63) = true ∧ (s.hub.queue 63).frozen = false ∧ s.bindLimit ≠ 0 ∧
       2 * s.bindLimit ≤ s.core.wdCount s.now ∧ s.core.wdFired = true ∧ s.core.hubWait ≠ .exitSent) := by decide +kernel

/-! ## Boundaries and shared units -/

/-- A core that runs at user level with every interrupt enabled and some pending. -/
def pendingAt (bits : BitVec 6) : State := onReset fun c => { c with
  run := .run, status := { c.status with pl := .user }, trap := { c.trap with ipend := bits, ienable := 0x3F } }

/-- Bit 5 alone, and bit 0 before the others. -/
theorem witness_BoundariesAndSharedUnits_interrupt :
    let ready (c : Core) : Bool := c.status.pl == .user && c.run == .run && !c.waitsAt .wfe && !c.haltReq &&
      !c.preemptReq && c.hubWait == .none && c.sce.phase == .none && !c.trapHeld && c.vec.seq.isEmpty && c.trans.mode == 0 &&
      c.copyFault.isNone
    let on (c : Core) (j : Fin 6) : Bool := (c.trap.ipend &&& c.trap.ienable).getLsbD j.val
    (ready (pendingAt 0x20).core = true ∧ on (pendingAt 0x20).core 5 = true ∧ ∀ j < 5, on (pendingAt 0x20).core j = false) ∧
      (ready (pendingAt 0x3F).core = true ∧ on (pendingAt 0x3F).core 0 = true) := by decide +kernel

theorem witness_BoundariesAndSharedUnits_copypf :
    let s := (queued 1 (.stopped 2 0x10000 false) wholeStore).mapCore fun c => { c with
      run := .run
      status := { c.status with ie := true }
      copy := { c.copy with fifo := setOldest 3 (fun x => { x with pend := true }) c.copy.fifo } }
    s.core.copyFault = some (3, 2, 0x10000) ∧ s.core.status.pl = .kernel ∧ s.core.status.ie = true ∧
      s.core.run = .run := by decide +kernel

/-- A core waits at `mbwait` and its count has come; at `pc` 0 it finds a word without an opcode; its `pc` is misaligned,
or past the store. -/
theorem witness_BoundariesAndSharedUnits_fetch :
    (let s := onReset fun c => { c with run := .wait, ir := some (.of (.mbwait 5)) }
     s.core.run = .wait ∧ s.wakes = true) ∧
    (match (onReset fun c => { c.storeN 0 8 0x1FD with stale := [] }).fetched with
      | .illegal x => decide (x = ⟨0x01, 0x1FD⟩)
      | _ => false) = true ∧
    ((onReset fun c => { c with pc := 2 }).core.pc.toNat % 4 ≠ 0 ∧
      (onReset fun c => { c with pc := 0x140000 }).core.okAccess 0x140000 8 = false ∧
      State.reset.core.trapHeld = false) := by decide +kernel

/-- A `tmrot` of a 4 × 4 gang that waits for both neighbours since cycle 0. -/
def rotating : State :=
  let i : Instr := .tmrot ⟨0, 1, 3, .i8, .i8, .int32⟩
  let e : SeqEntry := { Core.reset.entryFor ⟨i, 0x40, 0, 0, 0, none⟩ with rot := some ⟨0, 0, 0⟩ }
  { (onReset fun c => { c with ids := { c.ids with gangshape := 4 }, vec := { c.vec with seq := [e] } }) with
    now := 1048576 }

theorem witness_BoundariesAndSharedUnits_linktimeout :
    (rotating.core.vec.seq.head?.bind SeqEntry.op?).isSome = true ∧
      (rotating.core.vec.seq.head?.map SeqEntry.rot) = some (some ⟨0, 0, 0⟩) ∧ rotating.core.missing ≠ 0 ∧
      1048576 ≤ rotating.rotTime rotating.cid rotating.core ⟨0, 0, 0⟩ ∧
      (rotating.core.vec.seq.head?.bind SeqEntry.follow) = none ∧
      rotating.core.pendingRegs = [] ∧ rotating.core.status.pl ≠ .debug := by decide +kernel

/-- A sum performed with its first source in error, and a scalar store of a register in error at the end of a block. -/
theorem witness_BoundariesAndSharedUnits_errors :
    (let i : Instr := .vadd ⟨3, 1, 2, plainCtl .i8⟩
     let s := headed i { Core.reset with badRegs := [.v 1] }
     s.bindOf s.cid = none ∧ s.core.vec.seq = [headEntry i] ∧ (headEntry i).fresh = true ∧ s.core.vec.sfuOut = [] ∧
       s.core.performError i = true) ∧
    (let i : Instr := .st ⟨5, .b8, atReg 1 0⟩
     let s := onReset fun c => { c.storeN 24 8 (word64 i).toNat with pc := 24, stale := [], badRegs := [.s 5] }
     s.bindOf s.cid = none ∧ (s.core.ir = none ∧ s.fetched = .instr i) ∧ s.core.interlocked i = false ∧
       s.core.inError (s.readsAtIssue i) = true) ∧
    (let i : Instr := .mbwait 5
     let s := onReset fun c => { c with ir := some (.of i), badRegs := [.s 5] }
     (s.core.ir.any fun f => f.ins == i) = true ∧ s.core.interlocked i = false ∧ s.core.inError (s.readsAtIssue i) = true) := by
  decide +kernel

/-- An error of `s0` or of a register that is written only is not read. -/
theorem test_register_errors :
    ({ Core.reset with badRegs := [.s 0, .s 3, .q 0] }).inError (sources (.add ⟨3, 0, 2, false⟩)) = false ∧
      ({ Core.reset with badRegs := [.z 1] }).performError (.tmmo ⟨1, 0, 1, .i8, .i8, .int32⟩) = false ∧
      ({ Core.reset with badRegs := [.z 1] }).performError (.tmma ⟨1, 0, 1, .i8, .i8, .int32⟩) = true ∧
      (({ Core.reset with badRegs := [.s 3] }).wrS 3 1).badRegs = [] := by decide +kernel

/-- A request of core 0 at its cluster's unit: 4 cycles after another was accepted, and 24 after it was. -/
theorem witness_BoundariesAndSharedUnits_sfu :
    (let s := { State.reset with now := 24, sfu := [⟨1, 0, some 20, 0⟩, ⟨0, 3, none, 1⟩] }
     s.sfuBusy (clusterOf s.cid) = false ∧ nextSfu s.sfu (clusterOf s.cid) = some ⟨0, 3, none, 1⟩) ∧
    (let s := { headed (.vsin ⟨1, 2, plainCtl .fp32⟩) Core.reset with now := 24, sfu := [⟨0, 0, some 0, 5⟩] }
     s.sfu.find? (fun r => r.due s.cid s.now) = some ⟨0, 0, some 0, 5⟩ ∧ s.core.vec.sfuOut.head? ≠ some 5) := by
  decide +kernel

theorem witness_BoundariesAndSharedUnits_sfu_result :
    let i : Instr := .vsin ⟨1, 2, plainCtl .fp32⟩
    let s := { headed i { Core.reset with vec := { Core.reset.vec with sfuOut := [5] } } with
      now := 24, sfu := [⟨0, 0, some 0, 5⟩] }
    s.core.vec.sfuOut.head? = some 5 ∧
    (match s.core.perform ((headEntry i).ctx s.cid 0) (Core.reset.capture i 0) with
      | .done _ => true
      | _ => false) = true := by decide +kernel

/-- Neighbours of one gang. -/
theorem witness_BoundariesAndSharedUnits_tiles :
    let m : TileMsg := ⟨1, 1⟩
    let inGang : Core := { Core.reset with bound := .clause 0 32 }
    let give : Core := { inGang with tile := { Core.reset.tile with sendWest := some m, sendNorth := some m } }
    let s := { State.reset with core := inGang, others := [(eastOf 0, give), (southOf 0, give)] }
    s.core.tile.fromEast = none ∧ (s.coreAt (eastOf s.cid)).tile.sendWest = some m ∧ s.core.tile.fromSouth = none ∧
      (s.coreAt (southOf s.cid)).tile.sendNorth = some m ∧ s.core.sameClause (s.coreAt (eastOf s.cid)) = true ∧
      s.core.sameClause (s.coreAt (southOf s.cid)) = true := by decide +kernel

/-! ## The host's requests and pre-emption -/

/-- A core in a run state. -/
def inRun (r : RunState) : State := onReset fun c => { c with run := r }

theorem witness_HostAndPreemptionStepsComplete_halt :
    ((inRun .idle).core.mayHalt = true ∧ (inRun .run).core.mayHalt = true ∧ (inRun .wait).core.mayHalt = true) ∧
      ((inRun .run).core.stepping = false ∧ (inRun .run).core.sce.phase ≠ .arrived ∧ (inRun .run).saved = []) ∧
      ((inRun .halt).core.run = .halt ∧ (inRun .halt).bindOf (inRun .halt).cid = none) ∧
      (inRun .wait).core.run ≠ .idle := by decide +kernel

theorem witness_HostAndPreemptionStepsComplete_writes :
    let w : HaltedWrite := .store 0x13FFFF [1]
    let s := { inRun .halt with inp := .write w }
    s.core.run = .halt ∧ s.inp = .write w ∧ 0x13FFFF + [(1 : Byte)].length ≤ 0x140000 := by decide +kernel

theorem witness_HostAndPreemptionStepsComplete_save :
    let s := onReset fun c => { c with run := .run, preemptReq := true }
    s.core.maySave = true ∧ s.sfuOwes s.cid = false ∧ s.core.badRegs = [] ∧ s.core.sce.phase ≠ .arrived ∧ s.areaAt.isSome = true ∧
      State.reset.core.maySave = false ∧ owing.sfuOwes owing.cid = true := by decide +kernel

/-- Core 0 has a saved member of context 0, with room for one more operation. -/
def savedAt (held : List Held) : SavedMember := ⟨0, Core.reset, held, 1, 0, false, 0⟩

theorem witness_HostAndPreemptionStepsComplete_divert :
    let p : Packet := ⟨5, 0, 0, 1, true, 0, 0, .write 0x13FFF8 (List.replicate 8 1)⟩
    let s := { State.reset with host := readyHost, inp := .idx 0, net := [p], saved := [savedAt []] }
    s.net[0]? = some p ∧ p.dst = s.cid ∧ mayArrive s.net 0 p = true ∧ s.divertsTo p.dst p.ctx = some (savedAt []) ∧
      (savedAt []).room = true ∧ s.refusesBy (savedAt []).core false p = none ∧ pkgOf p.src = s.pkg := by decide +kernel

/-- A save area of zeros at the pool's first chunks, with its CRC-32C in its last 8 bytes. -/
def zeroArea : Gmem := { Gmem.reset with
  chunks := [(383, ⟨0, Memory.writeBytes [] 4088 (toBytesLE 8 1470508459), false, false⟩)], areas := [0] }

theorem witness_HostAndPreemptionStepsComplete_resume :
    let s := { State.reset with inp := .idx 0, saved := [savedAt []], gmem := zeroArea }
    s.saved[0]? = some (savedAt []) ∧ (savedAt []).cid = s.cid ∧ s.core.run = .idle ∧ (savedAt []).held = [] ∧
      s.gmem.areaGood (savedAt []).area = true := by
  decide +kernel

end
end

