-- ==== Sys2Proof/Tests/Package.lean ====
section
/-! SUPPORT. Witnesses for the hypotheses of the statements about the fabric, management, decoding and the step. -/

open Sys2Proof Sys2Proof.Machine

section
set_option Elab.async false

/-! ## The fabric -/

/-- A loaded bank whose counter stands at `n`. -/
def banks (n : Nat) : Vector Bank 2 := Vector.replicate 2 ⟨true, 0, 0, n⟩

/-- A port that is up, with a change. -/
def upPort (f : Port → Port) : Port := f { Port.reset with
  trained := true, up := true, tx := banks 0, rx := banks 0, rxSeq := 0xFFFFFFFF, txSeq := 0xFFFFFFFF }

/-- Port 17 is up. -/
def withPort (f : Port → Port) (inp : Inp) : State := { State.reset with
  inp := inp, host := readyHost, fabric := { State.reset.fabric with ports := State.reset.fabric.ports.set 17 (upPort f) } }

/-- An acknowledgement in the flit of the last sequence number before the wrap. -/
def ackFlit (seq : BitVec 32) : Flit := ⟨0, 0, false, seq, 0, [], 0, .reply ⟨0, 0, 7, .ack⟩, 0, 0⟩

/-- What a bank seals has the checksum and the bytes that the receiver's checks ask for. -/
theorem test_sealed_flit (b : Bank) (f : Flit) :
    let g := b.sealFlit f
    g.lcrc = BitVec.ofNat 32 (crc32c g.covered) ∧ g.sealed = b.protect g.header := by
  simp [Bank.sealFlit, Flit.covered, Flit.header]

theorem witness_FabricStepsComplete_receive :
    let f := (⟨true, 0, 0, 0⟩ : Bank).sealFlit (ackFlit 0xFFFFFFFF)
    let s := withPort id (.flit 17 f)
    s.inp = .flit 17 f ∧ (s.port 17).up = true ∧ f.lcrc = BitVec.ofNat 32 (crc32c f.covered) ∧
      (bankOf (s.port 17).rx f.kg).loaded = true ∧ f.sealed = (bankOf (s.port 17).rx f.kg).protect f.header ∧
      f.seq = (s.port 17).rxSeq ∧ f.dpkg = s.pkg ∧ f.body = .reply ⟨0, 0, 7, .ack⟩ :=
  ⟨rfl, rfl, (test_sealed_flit _ _).1, rfl, (test_sealed_flit _ _).2, rfl, rfl, rfl⟩

/-- A flit that is damaged, and one for a link that is down. -/
theorem witness_FabricStepsComplete_refuse :
    ((withPort id .none).port 17).accepts (ackFlit 0xFFFFFFFF) = false ∧
      ((withPort id .none).port 0).accepts (ackFlit 0) = false := by decide +kernel

/-- The last flit that a bank may protect, and the first that it may not. -/
theorem witness_FabricStepsComplete_send : ∀ n ∈ [2 ^ 40 - 1, 2 ^ 40],
    let p := (withPort (fun p => { p with
      tx := banks n, queue := [ackFlit 0], replay := List.replicate 255 (ackFlit 1) }) (.idx 17)).port 17
    p.queue.find? (fun f => !p.stops.getLsbD f.vc.toNat && !p.held.getLsbD f.vc.toNat) = some (ackFlit 0) ∧
      p.up = true ∧ p.replay.length < 256 ∧ (bankOf p.tx p.kg).loaded = true ∧ (bankOf p.tx p.kg).count = n := by
  decide +kernel

theorem witness_FabricStepsComplete_replay :
    let s := withPort (fun p => { p with replay := [ackFlit 0xFFFFFFFF] }) (.two 17 0xFFFFFFFF)
    (s.port 17).up = true ∧ (∃ f ∈ (s.port 17).replay, f.seq = BitVec.ofNat 32 0xFFFFFFFF) ∧
      (s.port 17).replayed ≠ some (BitVec.ofNat 32 0xFFFFFFFF) := by decide +kernel

/-- A body of 165 bytes after its head takes two flits. -/
theorem witness_FabricStepsComplete_transmit :
    let b : FlitBody := .packet ⟨0, 160, 0, 1, true, 0, 0, .write 0 (List.replicate 165 1)⟩
    let s := { withPort id .none with
      fabric := { (withPort id .none).fabric with routes := [(1, [17])], ordered := [(1, 17)] } }
    s.portTo 1 true = some 17 ∧ (s.transmit 1 true b).isSome = true ∧ (64 + b.dataLen + 227) / 228 = 2 := by
  decide +kernel

/-- An acknowledgement of what precedes flit 0, which has been replayed. -/
theorem witness_FabricStepsComplete_acknowledge :
    let s := withPort (fun p => { p with replay := [ackFlit 0xFFFFFFFF, ackFlit 0], replayed := some 0 }) (.two 17 0)
    s.inp = .two 17 0 ∧ ackFlit 0 ∈ (s.port 17).replay ∧ (s.port 17).replayed = some (ackFlit 0).seq ∧
      ((ackFlit 0).seq - BitVec.ofNat 32 0).toNat < 2 ^ 31 := by decide +kernel

theorem witness_FabricStepsComplete_down :
    let s := { withPort (fun p => { p with up := false }) (.idx 17) with
      fabric := { State.reset.fabric with routes := [(1, [17])], ordered := [(1, 17)] } }
    s.inp = .idx 17 ∧ (s.port 17).up = false := by decide +kernel

/-- The load of new banks, the switch before and after the confirmation, and the retirement of the old bank behind its
last flit and before it. -/
theorem witness_FabricStepsComplete_keys :
    (let at_ (p : Port) (r : Rekey) : Port := { p with rekeying := some r }
     let p (r : Rekey) (fs : List Flit) : Port :=
       (withPort (fun p => at_ { p with kg := r.switched, replay := fs } r) (.two 17 2)).port 17
     (p ⟨false, false, false, false, false⟩ []).rekeying = some ⟨false, false, false, false, false⟩ ∧
       (p ⟨true, true, false, false, false⟩ []).rekeying = some ⟨true, true, false, false, false⟩ ∧
       (p ⟨true, false, false, false, false⟩ []).rekeying = some ⟨true, false, false, false, false⟩ ∧
       ((p ⟨true, true, true, false, false⟩ []).rekeying = some ⟨true, true, true, false, false⟩ ∧
         (p ⟨true, true, true, false, false⟩ []).replay = []) ∧
       (p ⟨true, true, true, false, false⟩ [ackFlit 0]).kg ≠ (ackFlit 0).kg) ∧
    (let s := withPort (fun p => { p with tx := banks 1099511627776 }) (.idx 17)
     (s.port 17).stops ≠ BitVec.allOnes 16 ∧ 1099511627776 ≤ (bankOf (s.port 17).tx (s.port 17).kg).count) := by
  decide +kernel

theorem witness_FabricStepsComplete_routes : State.reset.fabric.parked = [] := rfl

/-- The highest revision that both ends support is 3. -/
theorem witness_FabricStepsComplete_train :
    let s := withPort id (.three 17 0x9 0x4A)
    s.host.ready = true ∧ (0x9 : Nat).testBit 3 = true ∧ (0x4A : Nat).testBit 3 = true ∧
      ∀ j < 16, 3 < j → ((0x9 : Nat).testBit j && (0x4A : Nat).testBit j) = false := by decide +kernel

/-! ## Management -/

/-- The last link, allowed and not; the first that does not exist. -/
theorem witness_ManagementStepsComplete_inject :
    ({ readyHost with dbgen := true }.dbgen = true ∧ (0x97 : Word).toNat % 32 < 24) ∧
      (readyHost.dbgen = false ∧ 24 ≤ (0x98 : Word).toNat % 32) := by decide +kernel

/-- What firmware assigns as the reset state has it. -/
theorem witness_ManagementStepsComplete_assigned :
    (⟨[], 4095, Gmem.reset.ni, Gmem.reset.sliceDie, Gmem.reset.stackDie, Gmem.reset.clusterDie⟩ : PowerIn).ok = true := by
  decide +kernel

/-- A bring-up in a step, in which every die but die 6 has ended it. -/
def bringing (step : Nat) (last : Die) : State := { State.reset with
  inp := .idx (6 : Fin 7).val
  host := { HostSide.reset with powered := true, step := step, dies := (Vector.replicate 7 readyDie).set 6 last } }

theorem witness_ManagementStepsComplete_step :
    let s := bringing 6 { readyDie with stepDone := false }
    s.host.powered = true ∧ s.host.ready = false ∧ s.host.fail = false ∧ s.host.step = 6 ∧
      ∀ j : Fin 7, j ≠ 6 → (s.host.dies.get j).stepDone = true := by decide +kernel

/-- A signature that does not verify, and one of a version below the fused minimum. -/
theorem witness_ManagementStepsComplete_image :
    (let s := bringing 5 { readyDie with sigOk := false }
     s.host.step = 5 ∧ (s.host.dies.get 6).sigOk = false) ∧
    (let d := { readyDie with
      fusedMin := 1, keyHashes := Vector.replicate 4 (sha256 (toBytesLE 32 (0 : BitVec 256).toNat).reverse) }
     (bringing 5 d).host.dies.get 6 = d ∧ d.signed = true ∧ d.secver < d.fusedMin) := by
  refine ⟨by decide +kernel, rfl, ?_, by decide⟩
  simp [Die.signed, readyDie]

/-- Above the limit, below it, and at it. -/
theorem witness_ManagementStepsComplete_power : 2500 < 2501 ∧ 2499 < 2500 ∧ ¬ 2500 < 2500 := by decide

/-- A clause whose only member is saved, and a core that runs no clause. -/
theorem witness_ManagementStepsComplete_trip :
    (let b := bindOf0 (ClauseRec.parse (clauseRecord 1)) true
     let m := { savedAt [] with core := { Core.reset with
       bound := .clause b.clause 32, ids := { Core.reset.ids with clause := BitVec.ofNat 64 b.clause } } }
     let s := { State.reset with saved := [m], hub := { hubWith id with binds := [b] } }
     s.busyCores = [] ∧ b ∈ s.hub.binds ∧ b.started = true ∧ b.faulted = false ∧ b.entry.queue < 64 ∧
       s.saved.find? (fun m => m.core.inClause b.clause) = some m) ∧
    (let s := onReset fun c => { c with run := .run }
     State.reset.cid ∈ s.busyCores ∧ s.bindOf s.cid = none) ∧
    (let s := watched 8 false
     s.cid ∈ s.busyCores ∧ (s.bindOf s.cid).any (fun b => decide (b.entry.queue < 64)) = true) := by decide +kernel

/-! ## Decoding and the step -/

/-- The longest form, 16 bytes, and the shortest, 8. -/
theorem witness_DecodingUndoesEncoding :
    ((Instr.nop128.wf && (encodeBytes .nop128).isSome) = true ∧
      ((Instr.jalr ⟨63, 1, 0x1FFFFFFF⟩).wf && (encodeBytes (.jalr ⟨63, 1, 0x1FFFFFFF⟩)).isSome) = true) := by
  decide +kernel

theorem witness_DecodedInstructionsAreWellFormed :
    (match decode (toBytesLE 8 0x0000000000000D55 ++ [1, 2]) with
      | .ok (i, rest) => decide (i = .fencePackage ∧ rest = [1, 2])
      | .error _ => false) = true := by decide +kernel

/-- A core that runs `fence` of package scope at the last address at which it fits in its block and in the store. -/
def stepping : State :=
  let s := onReset fun c =>
    { c.storeN 0x13FFF8 8 0x0000000000000D55 with run := .run, pc := 0x13FFF8, stale := [] }
  { s with turns := [⟨0, none, .none⟩] }

theorem witness_StepRunsTheDecodedInstruction :
    let s := stepping
    let c := s.core
    (s.turns = ⟨0, none, .none⟩ :: [] ∧ s.host.tripped = false ∧ c.run = .run ∧ c.status.pl = .kernel ∧
      (s.bindOf s.cid).any (·.faulted) = false ∧ c.haltReq = false ∧ c.preemptReq = false ∧ c.items = [] ∧
      c.trans.mode ≠ 2 ∧ c.stale = [] ∧ c.ir = none ∧ (s.listed.all fun x => x.2.transSettled) = true ∧
      s.host.sram.clean = true ∧ s.gmem.writes = []) ∧
    (c.pc.toNat % 4 = 0 ∧ c.okAccess c.pc.toNat 8 = true ∧ c.pc.toNat % 32 + lenOf .fencePackage ≤ 32 ∧
      Instr.fencePackage.comboOk = true ∧ c.pendingRegs = [] ∧ c.vec.seq = [] ∧ c.badRegs = []) ∧
    (match decode (c.ls.readBytes c.pc.toNat 16) with
      | .ok (i, _) => decide (i = .fencePackage)
      | .error _ => false) = true ∧
    (s.mapCore fun c => { c with ir := some (.of .fencePackage) }).core.ir = some (.of .fencePackage) := by decide +kernel

theorem witness_StepRunsTheDecodedInstruction_rows :
    { State.reset with inp := .reg .wlshift 1 }.inp = (rowOf (.mtsr .wlshift 1)).2 ∧
      State.reset.inp = (rowOf .nop64).2 := by decide +kernel

theorem witness_StepsKeepMemoryCanonical : State.reset.memOk = true ∧ (reading 1 .joined).memOk = true := by
  decide +kernel

/-- Each group of the frames has an instruction that ends in a next state. -/
theorem witness_ScalarInstructionsKeepTheRest :
    let next (i : Instr) : Bool := match exec i (twoRegs 0x13FFF8 7) with
      | .next _ => true
      | _ => false
    next (.div ⟨3, 1, 2, false⟩) = true ∧ next (.mulh ⟨3, 1, 2⟩) = true ∧ next (.addi64 ⟨3, 1, 5⟩) = true ∧
      next (.bswap ⟨3, 1⟩) = true ∧ next (.beq ⟨1, 2, 5⟩) = true ∧ next (.ld ⟨3, .b8, false, atReg 1 0⟩) = true ∧
      next (.fst ⟨3, atReg 1 0⟩) = true ∧ next (.st ⟨3, .b8, atReg 1 0⟩) = true ∧
      next (.lamoCas ⟨3, 1, 2, .b8, 0, .none⟩) = true ∧ next (.fadd ⟨3, 1, 2, false, .rne⟩) = true ∧
      next (.fma ⟨3, 1, 2, 2, false, .rne⟩) = true ∧ next (.fmin ⟨3, 1, 2⟩) = true ∧ next (.feq ⟨3, 1, 2⟩) = true := by
  decide +kernel

end
end

