-- ==== Sys2Proof/Tests/Scalar.lean ====
section
/-! SUPPORT. Witnesses for the hypotheses of the statements about scalar instructions, local memory, control and
floating point: small states that meet them, at the ends of the ranges. -/

open Sys2Proof Sys2Proof.Machine

section
set_option Elab.async false

/-! ## Integers -/

/-- A divisor that is not zero in 64 bits and is zero in 32, and one that is zero in both. -/
theorem witness_DivisionsGiveQuotientAndRemainder :
    readAs true false 0x100000000 ≠ 0 ∧ readAs true true 0x100000000 = 0 ∧ readAs false true 0x100000001 ≠ 0 ∧
      readAs false false ((twoRegs 1 0).core.rdS 2) = 0 ∧ (twoRegs 1 0).core.trapHeld = false := by decide +kernel

theorem witness_BitFieldRowsGiveTheirBits :
    (1 ≤ (WidthOp.mk 3 1 1).width ∧ (WidthOp.mk 3 1 64).width ≤ 64) ∧
      (FieldOp.mk 3 1 63 1).pos.val + (FieldOp.mk 3 1 63 1).width ≤ 64 ∧
      (FieldOp.mk 3 1 0 64).pos.val + (FieldOp.mk 3 1 0 64).width ≤ 64 := by decide

/-! ## The local store -/

/-- `s1` holds an address, at user level between 0x40 and 0x80; granule 3 has an error. -/
def userAt (a : Word) : State := onReset fun c =>
  { c.wrS 1 a with
    status := { c.status with pl := .user }, trap := { c.trap with ubase := 0x40, ulimit := 0x80 }, bad := [3] }

/-- The last 8 bytes of the store, at kernel level. -/
theorem witness_LoadsGiveTheirBytes :
    let s := twoRegs 0x13FFF8 0
    s.core.accessOk .none (s.core.ea (atReg 1 0) 8) 8 ∧ s.core.badIn (s.core.ea (atReg 1 0) 8).toNat 8 = none := by
  refine ⟨⟨?_, ?_, ?_⟩, ?_⟩ <;> decide +kernel

/-- The last 8 bytes that a user may write. -/
theorem witness_StoresWriteTheirBytes :
    let s := userAt 0x78
    s.core.accessOk .none (s.core.ea (atReg 1 0) 8) 8 ∧
      s.core.mergesBad (s.core.ea (atReg 1 0) 8).toNat 8 = false := by
  refine ⟨⟨?_, ?_, ?_⟩, ?_⟩ <;> decide +kernel

theorem witness_StoredBytesAreReadBack : (7 : Nat) < 8 ∧ (8 ≤ 15 ∧ 15 < 8 + 8) ∧ ¬ (8 ≤ 16 ∧ 16 < 8 + 8) := by decide

theorem witness_LocalAtomicsReadAndWrite :
    let s := twoRegs 0x13FFFC 0
    s.core.accessOk .none (s.core.rdS 1 + (0 : BitVec 22).signExtend 64) 4 ∧
      s.core.badIn (s.core.rdS 1 + (0 : BitVec 22).signExtend 64).toNat 4 = none := by
  refine ⟨⟨?_, ?_, ?_⟩, ?_⟩ <;> decide +kernel

/-- The bounds, the alignment and a granule with an error, each the first check that fails. -/
theorem witness_AccessChecksTrapInOrder :
    ((userAt 0x7C).core.waitOk .none = true ∧ (userAt 0x7C).core.trapHeld = false) ∧
      (userAt 0x7C).core.okAccess 0x7C 8 = false ∧
      ((userAt 0x44).core.okAccess 0x44 8 = true ∧ (0x44#64).toNat % 8 ≠ 0) ∧
      ((twoRegs 0x13FFFC 0).core.okAccess 0x13FFFD 4 = false ∧ (twoRegs 0 0).core.okAccess 0x13FFFC 4 = true) ∧
      (let c := { (twoRegs 0 0).core with bad := [3] }
       c.okAccess 24 4 = true ∧ 24 % 4 = 0 ∧ (c.badIn 24 4).isSome = true ∧ c.mergesBad 24 4 = true) := by
  decide +kernel

theorem witness_AccessChecksTrapInOrder_atomics : Instr.lamoCas ∈ [Instr.lamoAdd, .lamoAnd, .lamoOr, .lamoXor,
    .lamoMin, .lamoMax, .lamoMinu, .lamoMaxu, .lamoSwp, .lamoCas] := by simp

/-! ## Control -/

/-- Values that meet each condition, and values that do not. -/
theorem witness_BranchesAndJumpsSetThePc :
    let x : Word := -1
    let y : Word := 1
    (x = x ∧ x ≠ y) ∧ (x.toInt < y.toInt ∧ ¬ y.toInt < x.toInt) ∧ (x.toInt ≤ x.toInt ∧ ¬ y.toInt ≤ x.toInt) ∧
      (y.toNat < x.toNat ∧ ¬ x.toNat < y.toNat) ∧ (x.toNat ≤ x.toNat ∧ ¬ x.toNat ≤ y.toNat) := by decide

/-- A core at a level, with its event latch. -/
def atLevel (l : Level) (latch : Bool) : State := onReset fun c =>
  { c with status := { c.status with pl := l }, latch := latch }

theorem witness_NopIsyncAndWfe :
    State.reset.core.storesPending = false ∧
      ((atLevel .user true).core.status.pl ≠ .debug ∧ (atLevel .user true).core.latch = true) ∧
      ((atLevel .kernel false).core.status.pl ≠ .debug ∧ (atLevel .kernel false).core.latch = false) ∧
      (atLevel .debug true).core.status.pl = .debug := by decide +kernel

theorem witness_RequestedTrapsAreTaken :
    (atLevel .user false).core.trapHeld = false ∧ (atLevel .debug false).core.trapHeld = false := by decide +kernel

theorem witness_TrapEntrySavesAndRedirects :
    (atLevel .user false).core.status.pl ≠ .debug ∧ (atLevel .kernel false).core.status.pl ≠ .debug ∧
      (atLevel .debug false).core.status.pl = .debug := by decide +kernel

/-- A loop's record whose trapping instruction is at 0x100. -/
def loopRec : ResumeRec :=
  ⟨0xF8, 0x100, 4, 1, 0, [⟨.vadd ⟨3, 1, 2, plainCtl .i8⟩, 0x100, 0, 0, 0, none⟩], Vector.replicate 4 SlotState.reset⟩

/-- A core in the handler of a trap in a loop, about to return to `epc`. -/
def interrupted (epc : Word) : State := onReset fun c => { c with
  trap := { c.trap with epc := epc }, vec := { c.vec with resume := some loopRec } }

/-- No record; a record that the return resumes; and one that it leaves. -/
theorem witness_KretRestores :
    (State.reset.core.status.pl = .kernel ∧ State.reset.core.resumeBlocked = false ∧
      State.reset.core.vec.resume = none) ∧
    ((interrupted 0x100).core.status.pl = .kernel ∧ (interrupted 0x100).core.resumeBlocked = false ∧
      (interrupted 0x100).core.vec.resume.any (fun r => r.at_ == (interrupted 0x100).core.trap.epc) = true) ∧
    ((interrupted 0x200).core.resumeBlocked = false ∧
      (interrupted 0x200).core.vec.resume.any (fun r => r.at_ == (interrupted 0x200).core.trap.epc) = false) ∧
    ((atLevel .user false).core.status.pl = .user ∧ (atLevel .user false).core.trapHeld = false) ∧
    ((atLevel .debug false).core.status.pl = .debug ∧ (atLevel .debug false).core.trapHeld = false) := by decide +kernel

/-- A message waits for a handler at the last word of the store. -/
def withMsg (left : Option Nat) : State := onReset fun c => { c with
  inbox := { c.inbox with arrival := [⟨5, 0, 0x13FFF8, [1, 2, 3, 4], none, 0, 0⟩] }, yleft := left }

theorem witness_HandlersAreEnteredAndLeft :
    let s := withMsg none
    let m : Msg := ⟨5, 0, 0x13FFF8, [1, 2, 3, 4], none, 0, 0⟩
    s.core.status.pl ≠ .debug ∧ s.core.status.hnd = false ∧ s.core.replaying = false ∧
      s.core.inbox.arrival = m :: [] ∧ s.core.handlerOk m.handler = true := by decide +kernel

/-- The last message of a `yield`, one of several, and one without a limit. -/
theorem witness_HandlersAreEnteredAndLeft_yield :
    ((1 : Nat) ≠ 0 ∧ (withMsg none).core.yleft.getD 1 ≤ 1) ∧
      ((64 : Nat) ≠ 0 ∧ (withMsg (some 1)).core.yleft.getD 64 ≤ 1) ∧
      ¬ ((withMsg (some 2)).core.yleft.getD 64 ≤ 1) := by decide +kernel

theorem witness_HandlersAreEnteredAndLeft_empty :
    let s := onReset fun c => { c with wl := { c.wl with term := true } }
    s.core.status.pl ≠ .debug ∧ s.core.status.hnd = false ∧ s.core.replaying = false ∧
      s.core.inbox.arrival = [] ∧ s.core.inbox.spill = [] ∧ s.core.wl.term = true ∧
      s.offered (clusterOf s.cid) = none := by decide +kernel

theorem witness_HandlersAreEnteredAndLeft_hret :
    (onReset fun c => { c with status := { c.status with hnd := true } }).core.status.hnd = true := by decide +kernel

/-! ## Scalar floating point -/

/-- A signalling NaN in FP64. -/
def snan : Word := 0x7FF0000000000001

/-- Every row that reads an `f` register raises `NV` for a signalling NaN: enabled (bit 3 of `FPCTL` + the position of
`NV`), and not. -/
theorem witness_FloatArithmeticRoundsOnce :
    let r (ctl : BitVec 8) : Flags :=
      let c := (twoF ctl snan 0).core
      (c.fop3 ⟨3, 1, 2, false, .rne⟩ fun r a b => fAdd r.isDown a b).2 &&& c.fpEnables
    r 0xF8 ≠ 0 ∧ r 0 = 0 ∧ (twoF 0xF8 snan 0).core.trapHeld = false := by decide +kernel

theorem witness_FloatArithmeticRoundsOnce_rows :
    let c := (twoF 0xF8 snan 0x3FF0000000000000).core
    let x (f : Word × Flags) : Bool := decide (f.2 &&& c.fpEnables ≠ 0)
    x (c.fop3 ⟨3, 1, 2, false, .rne⟩ fun _ a b => fMul a b) = true ∧
      x (c.fop3 ⟨3, 1, 2, false, .rne⟩ fun _ a b => fDiv a b) = true ∧
      x (c.fop4 ⟨3, 1, 2, 2, false, .rne⟩ true false) = true ∧
      x (c.fsqrt ⟨3, 1, false, .rne⟩) = true ∧ x (c.fround ⟨3, 1, false, .rne⟩) = true ∧
      x (c.ftoi ⟨3, 1, .rne⟩ (-(2 ^ 63)) (2 ^ 63 - 1)) = true ∧ x (c.ftoi ⟨3, 1, .rne⟩ 0 (2 ^ 64 - 1)) = true ∧
      x (c.fnarrow ⟨3, 1, .rne⟩) = true ∧ x (c.itof ⟨3, 1, false, .rne⟩ (2 ^ 63 - 1)) = true ∧
      x (c.itof ⟨3, 1, false, .rne⟩ (2 ^ 64 - 1)) = true := by decide +kernel

theorem witness_FloatSelectionsAreExact :
    let c := (twoF 0xF8 snan 0x3FF0000000000000).core
    let x (f : Word × Flags) : Bool := decide (f.2 &&& c.fpEnables ≠ 0)
    (∀ mx ∈ [true, false], ∀ q ∈ [true, false], x (c.fminmax ⟨3, 1, 2⟩ mx q) = true) ∧
      (∀ k ∈ [CmpKind.eq, .lt, .le, .un], x (c.fcmp ⟨3, 1, 2⟩ k) = true) ∧ c.trapHeld = false ∧
      (c.fcmp ⟨3, 2, 2⟩ .eq).2 &&& c.fpEnables = 0 ∧ (c.fminmax ⟨3, 2, 2⟩ true true).2 &&& c.fpEnables = 0 := by
  decide +kernel

theorem witness_FloatSelectionsAreExact_class : (63 : Nat) < 64 ∧ (0 : Nat) < 64 := by decide

end
end

section
/-! PROOF. The integer rows of R107, R110 and R111, and the requested traps of R135. -/

namespace Sys2Proof.Machine

/-! ## Words of `n` bits inside words of 64 -/

/-- The value that W writes depends on the low half of the intermediate alone (R105). -/
theorem sext32_eq_of_setWidth_eq {x : Word} {y : BitVec 32} (h : x.setWidth 32 = y) :
    sext32 x = sext32 (y.setWidth 64) := by
  subst h
  rw [sext32, sext32, BitVec.setWidth_setWidth_of_le _ (by decide), BitVec.setWidth_eq]

theorem natCast_toNat_ofInt (n : Nat) (z : Int) : ((BitVec.ofInt n z).toNat : Int) = z % (2 ^ n : Nat) := by
  have hn : ((2 ^ n : Nat) : Int) ≠ 0 := Int.ofNat_ne_zero.mpr (Nat.ne_of_gt (Nat.two_pow_pos n))
  rw [BitVec.toNat_ofInt, Int.toNat_of_nonneg (Int.emod_nonneg _ hn)]

theorem setWidth_ofInt {m n : Nat} (h : n ≤ m) (z : Int) : (BitVec.ofInt m z).setWidth n = BitVec.ofInt n z := by
  have hd : ((2 ^ n : Nat) : Int) ∣ (2 ^ m : Nat) := Int.ofNat_dvd.mpr (Nat.pow_dvd_pow 2 h)
  apply BitVec.eq_of_toNat_eq
  apply Int.ofNat_inj.mp
  rw [BitVec.toNat_setWidth, Int.natCast_emod, natCast_toNat_ofInt, natCast_toNat_ofInt, Int.emod_emod_of_dvd z hd]

theorem toSigned_mod_eq_toInt {n : Nat} (hn : 0 < n) (x : Word) :
    toSigned n (x.toNat % 2 ^ n) = (x.setWidth n).toInt := by
  obtain ⟨n, rfl⟩ := Nat.exists_eq_succ_of_ne_zero (Nat.ne_of_gt hn)
  simp only [toSigned, BitVec.toInt_eq_toNat_cond, BitVec.toNat_setWidth, Nat.mod_mod, Nat.succ_eq_add_one,
    Nat.add_sub_cancel]
  congr 1
  rw [eq_iff_iff, Nat.pow_succ]
  omega

/-! ## Shifts and rotations of `n` bits (R107) -/

theorem setWidth_shrN {n : Nat} (h : n ≤ 64) (x : Word) (k : Nat) : (shrN n x k).setWidth n = x.setWidth n >>> k := by
  have hv : x.toNat % 2 ^ n / 2 ^ k < 2 ^ n :=
    Nat.lt_of_le_of_lt (Nat.div_le_self _ _) (Nat.mod_lt _ (Nat.two_pow_pos n))
  have hw : 2 ^ n ≤ 2 ^ 64 := Nat.pow_le_pow_right (by decide) h
  apply BitVec.eq_of_toNat_eq
  simp only [shrN, BitVec.toNat_setWidth, BitVec.toNat_ofNat, BitVec.toNat_ushiftRight, Nat.shiftRight_eq_div_pow,
    Nat.mod_eq_of_lt hv, Nat.mod_eq_of_lt (Nat.lt_of_lt_of_le hv hw)]

theorem setWidth_sraN {n : Nat} (hn : 0 < n) (h : n ≤ 64) (x : Word) (k : Nat) :
    (sraN n x k).setWidth n = (x.setWidth n).sshiftRight k := by
  rw [sraN, setWidth_ofInt h, toSigned_mod_eq_toInt hn, BitVec.sshiftRight, Int.shiftRight_eq_div_pow]

/-- The two parts of a rotation by `k` share no bit, so that their sum is their disjunction. -/
theorem shifted_out_add_eq_or {n k : Nat} (hk : k ≤ n) {v : Nat} (hv : v < 2 ^ n) :
    v * 2 ^ k % 2 ^ n + v / 2 ^ (n - k) = v * 2 ^ k % 2 ^ n ||| v / 2 ^ (n - k) := by
  have hn : 2 ^ n = 2 ^ (n - k) * 2 ^ k := by rw [← Nat.pow_add, Nat.sub_add_cancel hk]
  have hlow : v / 2 ^ (n - k) < 2 ^ k := Nat.div_lt_of_lt_mul (hn ▸ hv)
  rw [hn, Nat.mul_mod_mul_right, Nat.mul_comm, Nat.two_pow_add_eq_or_of_lt hlow]

theorem setWidth_rotl {n : Nat} (h : n ≤ 64) (x : Word) {k : Nat} (hk : k ≤ n) :
    (rotl n x k).setWidth n = x.setWidth n <<< k ||| x.setWidth n >>> (n - k) := by
  apply BitVec.eq_of_toNat_eq
  have hv : x.toNat % 2 ^ n < 2 ^ n := Nat.mod_lt _ (Nat.two_pow_pos n)
  simp only [rotl, shifted_out_add_eq_or hk hv, BitVec.toNat_setWidth, BitVec.toNat_ofNat, BitVec.toNat_or,
    BitVec.toNat_shiftLeft, BitVec.toNat_ushiftRight, Nat.shiftLeft_eq, Nat.shiftRight_eq_div_pow]
  rw [Nat.mod_mod_of_dvd _ (Nat.pow_dvd_pow 2 h), Nat.mod_eq_of_lt]
  exact Nat.or_lt_two_pow (Nat.mod_lt _ (Nat.two_pow_pos n)) (Nat.lt_of_le_of_lt (Nat.div_le_self _ _) hv)

theorem setWidth_rotl_eq_rotateLeft {n : Nat} (h : n ≤ 64) (x : Word) {k : Nat} (hk : k < n) :
    (rotl n x k).setWidth n = (x.setWidth n).rotateLeft k := by
  rw [setWidth_rotl h x (Nat.le_of_lt hk), BitVec.rotateLeft_def, Nat.mod_eq_of_lt hk]

theorem setWidth_rorN {n : Nat} (h : n ≤ 64) (x : Word) {k : Nat} (hk : k < n) :
    (rorN n x k).setWidth n = (x.setWidth n).rotateRight k := by
  rw [rorN, setWidth_rotl h x (Nat.sub_le n k), BitVec.rotateRight_def, Nat.mod_eq_of_lt hk,
    Nat.sub_sub_self (Nat.le_of_lt hk), BitVec.or_comm]

/-! ## The rows of R107 -/

theorem pickBy_false (rd : Word → Int) : pickBy rd false = fun a b => if rd a ≤ rd b then a else b := by
  funext a b; simp only [pickBy, Bool.false_eq_true, if_false, decide_eq_true_eq]

theorem pickBy_true (rd : Word → Int) : pickBy rd true = fun a b => if rd b ≤ rd a then a else b := by
  funext a b; simp only [pickBy, if_true, decide_eq_true_eq]

/-- A row that `exec` hands to `alu` gives the functions handed over. -/
theorem givesAlu_of_alu {mk : AluOp → Instr} {full half : Word → Word → Word} (hl : ∀ o, lenOf (mk o) = 8)
    (he : ∀ o s, exec (mk o) s = alu (mk o) o full half s) : GivesAlu mk full half := by
  intro o s
  rw [he, alu_eq, hl]

/-- A row that `exec` hands to `aluShift` with `f` gives what `f` gives in 64 bits and, with W, in 32, once `g n` is
`f` within `n` bits. -/
theorem givesAlu_of_aluShift {mk : AluOp → Instr} {f : Nat → Word → Nat → Word}
    {g : (n : Nat) → BitVec n → Nat → BitVec n}
    (hl : ∀ o, lenOf (mk o) = 8) (he : ∀ o s, exec (mk o) s = aluShift (mk o) o f s)
    (hf : ∀ n x k, 0 < n → n ≤ 64 → k < n → (f n x k).setWidth n = g n (x.setWidth n) k) :
    GivesAlu mk (fun a b => g 64 a (b.toNat % 64)) (fun a b => (g 32 (a.setWidth 32) (b.toNat % 32)).setWidth 64) := by
  intro o s
  rw [he, aluShift_eq, hl]
  have full (x : Word) {k : Nat} (hk : k < 64) : f 64 x k = g 64 x k := by
    simpa only [BitVec.setWidth_eq] using hf 64 x k (by decide) (Nat.le_refl 64) hk
  have half (x : Word) {k : Nat} (hk : k < 32) : sext32 (f 32 x k) = sext32 ((g 32 (x.setWidth 32) k).setWidth 64) :=
    sext32_eq_of_setWidth_eq (hf 32 x k (by decide) (by decide) hk)
  rw [full _ (Nat.mod_lt _ (by decide)), half _ (Nat.mod_lt _ (by decide))]

/-- Settles O1: each row is its function of `alu`, or of `aluShift` within its width. -/
theorem aluRowsGiveTheirResults : Obligations.AluRowsGiveTheirResults := by
  unfold Obligations.AluRowsGiveTheirResults
  refine ⟨?add, ?sub, ?and, ?or, ?xor, ?andn, ?orn, ?shl, ?shr, ?sra, ?rol, ?ror, ?min, ?max, ?minu, ?maxu⟩
  case add => exact givesAlu_of_alu lenOf_add exec_add
  case sub => exact givesAlu_of_alu lenOf_sub exec_sub
  case and => exact givesAlu_of_alu lenOf_and exec_and
  case or => exact givesAlu_of_alu lenOf_or exec_or
  case xor => exact givesAlu_of_alu lenOf_xor exec_xor
  case andn => exact givesAlu_of_alu lenOf_andn exec_andn
  case orn => exact givesAlu_of_alu lenOf_orn exec_orn
  case shl => intro o s; rw [exec_shl, execShl, aluShift_eq]; rfl
  case shr =>
    exact givesAlu_of_aluShift (g := fun _ x k => x >>> k) lenOf_shr exec_shr fun _ x k _ h _ => setWidth_shrN h x k
  case sra =>
    exact givesAlu_of_aluShift (g := fun _ x k => x.sshiftRight k) lenOf_sra exec_sra
      fun _ x k h0 h _ => setWidth_sraN h0 h x k
  case rol =>
    exact givesAlu_of_aluShift (g := fun _ x k => x.rotateLeft k) lenOf_rol exec_rol
      fun _ x _ _ h hk => setWidth_rotl_eq_rotateLeft h x hk
  case ror =>
    exact givesAlu_of_aluShift (g := fun _ x k => x.rotateRight k) lenOf_ror exec_ror
      fun _ x _ _ h hk => setWidth_rorN h x hk
  case min =>
    have h := givesAlu_of_alu lenOf_min exec_min
    rwa [pickBy_false, pickBy_false] at h
  case max =>
    have h := givesAlu_of_alu lenOf_max exec_max
    rwa [pickBy_true, pickBy_true] at h
  case minu => simpa only [pickBy_false, rdU64, rdU32, Int.ofNat_le] using givesAlu_of_alu lenOf_minu exec_minu
  case maxu => simpa only [pickBy_true, rdU64, rdU32, Int.ofNat_le] using givesAlu_of_alu lenOf_maxu exec_maxu

/-! ## Products (R110) -/

/-- Bits 127 to 64 of an integer are those of its pattern in 128 bits. -/
theorem highWord_eq (z : Int) : highWord z = (BitVec.ofInt 128 z >>> 64).setWidth 64 := by
  apply BitVec.eq_of_toNat_eq
  simp only [highWord, BitVec.toNat_ofInt, BitVec.toNat_setWidth, BitVec.toNat_ushiftRight, Nat.shiftRight_eq_div_pow]
  omega

/-- The high word of a product from the patterns of its factors. -/
theorem highWord_mul {x y : Int} {a b : BitVec 128} (hx : BitVec.ofInt 128 x = a) (hy : BitVec.ofInt 128 y = b) :
    highWord (x * y) = ((a * b) >>> 64).setWidth 64 := by
  rw [highWord_eq, BitVec.ofInt_mul, hx, hy]

theorem ofInt_toInt_eq_signExtend (a : Word) : BitVec.ofInt 128 a.toInt = a.signExtend 128 := rfl

theorem ofInt_toNat_eq_setWidth (a : Word) : BitVec.ofInt 128 a.toNat = a.setWidth 128 := by
  rw [BitVec.ofInt_natCast, BitVec.ofNat_toNat]

/-- A row without W that `exec` hands to `putS` with `f` gives `g`, the same function in the words of the statement. -/
theorem givesCmp_of_putS {mk : CmpOp → Instr} {f g : Word → Word → Word} (hl : ∀ o, lenOf (mk o) = 8)
    (he : ∀ o s, exec (mk o) s = putS (mk o) s o.d fun c => f (c.rdS o.a) (c.rdS o.b)) (hf : ∀ a b, f a b = g a b) :
    GivesCmp mk g := by
  intro o s
  rw [he, putS_eq, hl, hf]

/-- Settles O3: an exact product has the product of the extended operands as its pattern in 128 bits. -/
theorem multipliesGiveTheirProducts : Obligations.MultipliesGiveTheirProducts := by
  unfold Obligations.MultipliesGiveTheirProducts
  refine ⟨givesAlu_of_alu lenOf_mul exec_mul, ?mulh, ?mulhu, ?mulhsu, ?madd⟩
  case mulh =>
    exact givesCmp_of_putS (f := fun a b => highWord (a.toInt * b.toInt)) lenOf_mulh exec_mulh fun a b =>
      highWord_mul (ofInt_toInt_eq_signExtend a) (ofInt_toInt_eq_signExtend b)
  case mulhu =>
    exact givesCmp_of_putS (f := fun a b => highWord (a.toNat * b.toNat)) lenOf_mulhu exec_mulhu fun a b =>
      highWord_mul (ofInt_toNat_eq_setWidth a) (ofInt_toNat_eq_setWidth b)
  case mulhsu =>
    exact givesCmp_of_putS (f := fun a b => highWord (a.toInt * b.toNat)) lenOf_mulhsu exec_mulhsu fun a b =>
      highWord_mul (ofInt_toInt_eq_signExtend a) (ofInt_toNat_eq_setWidth b)
  case madd => intro o s; rw [exec_madd, execMadd, putS_eq, lenOf_madd]; rfl

/-! ## Quotients and remainders (R111) -/

theorem tmod_natAbs_lt (p : Int) {d : Int} (hd : d ≠ 0) : (p.tmod d).natAbs < d.natAbs := by
  rw [Int.natAbs_tmod]
  exact Nat.mod_lt _ (Int.natAbs_pos.mpr hd)

/-- The remainder of the division toward zero has the sign of the dividend. -/
theorem tmod_mul_dividend_nonneg (p d : Int) : 0 ≤ p.tmod d * p := by
  rcases Int.le_total 0 p with hp | hp
  · exact Int.mul_nonneg (Int.tmod_nonneg d hp) hp
  · have hr : 0 ≤ (-p).tmod d := Int.tmod_nonneg d (by omega)
    rw [Int.neg_tmod] at hr
    exact Int.mul_nonneg_of_nonpos_of_nonpos (by omega) hp

/-- A row that `exec` hands to `divide`. -/
theorem divides_of_divide {mk : AluOp → Instr} {sgn quot : Bool} (hl : ∀ o, lenOf (mk o) = 8)
    (he : ∀ o s, exec (mk o) s = divide (mk o) o sgn quot s) : Divides mk sgn quot := by
  intro o s p d
  refine ⟨fun hd => ⟨p.tdiv d, p.tmod d, (Int.tdiv_mul_add_tmod p d).symm, tmod_natAbs_lt p hd,
    tmod_mul_dividend_nonneg p d, ?result⟩, ?zero⟩
  case result =>
    have hr : p.tmod d = p - p.tdiv d * d := by rw [Int.tmod_def, Int.mul_comm]
    rw [he, divide_eq _ _ _ _ _ hd, hl, hr]
  case zero =>
    intro hd hs
    rw [he, divide_zero _ _ _ _ _ hd, raise_eq _ _ hs]; rfl

/-- Settles O4: quotient and remainder are those of the integer division toward zero, in both widths. -/
theorem divisionsGiveQuotientAndRemainder : Obligations.DivisionsGiveQuotientAndRemainder :=
  ⟨divides_of_divide lenOf_div exec_div, divides_of_divide lenOf_divu exec_divu,
    divides_of_divide lenOf_rem exec_rem, divides_of_divide lenOf_remu exec_remu⟩

/-! ## Requested traps (R135) -/

/-- Settles O13: both raise their cause at once, whatever the level, as no reply is owed. -/
theorem requestedTrapsAreTaken : Obligations.RequestedTrapsAreTaken := by
  intro code s hs
  constructor
  · rw [exec_scall, execScall, raise_eq _ _ hs]; rfl
  · rw [exec_brk, execBrk, raise_eq _ _ hs]; rfl

end Sys2Proof.Machine
end

section
/-! PROOF. Encoding and decoding: every row of the opcode map reads back the fields that the encoder packs (R33 to R67). -/

namespace Sys2Proof

/-! ## The widths of the fields that the encoder makes -/

theorem rawI_fits {fn opc d a b hi : Nat} : (rawI fn opc d a b hi).fits ↔
    opc < 2 ^ 8 ∧ fn < 2 ^ 6 ∧ d < 2 ^ 6 ∧ a < 2 ^ 6 ∧ b < 2 ^ 6 ∧ hi < 2 ^ 30 := by
  simp [Raw.fits, rawI]

theorem packM_lt (m : MemArg) {sz : Nat} (u o : Bool) (h : sz < 8) : packM m sz u o < 2 ^ 30 :=
  (packM_fields m sz u o h).2.2.2.2.2.2

theorem packF_lt {c : Nat} (rm : RMode) (w : Bool) (h : c < 64) : packF c rm w < 2 ^ 30 := (packF_fields c rm w h).2.2.2

theorem packV_lt {c : Nat} (k : VCtl) (h : c < 64) : packV c k < 2 ^ 30 := (packV_fields c k h).2.2.2.2.2.2.2

theorem packVM_lt (k : VMemCtl) : packVM k < 2 ^ 30 := (packVM_fields k).2.2.2.2.2

theorem packX_lt {c e : Nat} (wt : WaitSel) (o : Bool) (h : c < 64) (h' : e < 64) : packX c e wt o < 2 ^ 30 :=
  (packX_fields c e wt o h h').2.2.2.2

theorem ScalarDst.index_lt (d : ScalarDst) : d.index < 2 ^ 6 := by
  cases d <;> simp only [ScalarDst.index] <;> omega



/-! ## The fields that single rows read back -/

theorem Raw.vctl_rawI (fn opc d a b : Nat) {c : Nat} (k : VCtl) (h : c < 64) :
    (rawI fn opc d a b (packV c k)).vctl = .ok k := (Raw.v_of fn opc d a b c k h).2

theorem Raw.rmF_rawI (fn opc d a b : Nat) (rm : RMode) (w : Bool) :
    (rawI fn opc d a b (packF 0 rm w)).rmF = .ok rm := (Raw.f_of fn opc d a b 0 rm w (by decide)).2.1

@[simp] theorem rawMem_d (opc fn d sz : Nat) (u : Bool) (m : MemArg) (o : Bool) : (rawMem opc fn d sz u m o).d = d := rfl
@[simp] theorem rawMem_a (opc fn d sz : Nat) (u : Bool) (m : MemArg) (o : Bool) : (rawMem opc fn d sz u m o).a = m.a := rfl
@[simp] theorem rawMem_b (opc fn d sz : Nat) (u : Bool) (m : MemArg) (o : Bool) : (rawMem opc fn d sz u m o).b = m.b := rfl

/-- A size code is one of the eight that SIZE can hold (R40). -/
theorem Size.code_lt_eight (z : Size) : z.code < 8 := Nat.lt_trans z.code_lt (by decide)



/-- Reading a type code in the T format (R45). -/
theorem Raw.tz_rawI (fn opc d a b lo : Nat) (z : TZ) (hi : Nat) (h : lo < 2 ^ 8) :
    (rawI fn opc d a b (lo + z.code * 2 ^ 8 + hi * 2 ^ 10)).tz = .ok z := by
  have hz := z.code_lt
  have : fieldOf (lo + z.code * 2 ^ 8 + hi * 2 ^ 10) 8 2 = z.code := by simp only [fieldOf]; omega
  simp only [Raw.tz, rawI_hi, this, tzOf_code]

theorem build_tile (op : TileOp) : buildTileOp op.raw = .ok op := by
  cases op with
  | tld o | tst o | tzero d | ttr o => simp [buildTileOp, TileOp.raw, bind, Except.bind, pure, Except.pure]
  | zzero d z =>
    have h : (rawI 4 0x40 d 0 0 (z.code * 2 ^ 8)).tz = .ok z := by simpa using Raw.tz_rawI 4 0x40 d 0 0 0 z 0 (by decide)
    simp [buildTileOp, TileOp.raw, bind, Except.bind, pure, Except.pure, -Nat.reducePow, h]
  | zst o =>
    have h : (rawI 5 0x40 o.d o.a 0 (o.tz.code * 2 ^ 8)).tz = .ok o.tz := by
      simpa using Raw.tz_rawI 5 0x40 o.d o.a 0 0 o.tz 0 (by decide)
    simp [buildTileOp, TileOp.raw, bind, Except.bind, pure, Except.pure, -Nat.reducePow, h]
  | tsacc o =>
    have h : (rawI 0 0x42 o.d o.a o.b (o.c.val + o.tz.code * 2 ^ 8)).tz = .ok o.tz := by
      simpa using Raw.tz_rawI 0 0x42 o.d o.a o.b o.c o.tz 0 (by omega)
    have hc : (rawI 0 0x42 o.d o.a o.b (o.c.val + o.tz.code * 2 ^ 8)).c = o.c.val := by
      simp only [Raw.c, rawI_hi, fieldOf]; omega
    simp [buildTileOp, TileOp.raw, bind, Except.bind, pure, Except.pure, -Nat.reducePow, h, hc]
  | tmma o =>
    have h : fieldOf (rawTProd 0x41 0 o).hi 10 1 = 0 := by
      have := o.ta.code_lt; have := o.tb.code_lt; have := o.tz.code_lt
      simp only [rawTProd, rawI_hi, fieldOf]; omega
    simp [buildTileOp, TileOp.raw, Except.map, h]
  | tmmo o =>
    have h : fieldOf (rawTProd 0x41 1 o).hi 10 1 = 1 := by
      have := o.ta.code_lt; have := o.tb.code_lt; have := o.tz.code_lt
      simp only [rawTProd, rawI_hi, fieldOf]; omega
    simp [buildTileOp, TileOp.raw, Except.map, h]
  | tepi o => exact congrArg (Except.map TileOp.tepi) (Raw.tepi_raw o)
  | tmrot o => exact congrArg (Except.map TileOp.tmrot) (Raw.tprod_raw 0x44 0 o)

/-- A row that packs one operand group reads it back. -/
theorem reads_group {α : Type} {x a : α} (f : α → Instr) (h : x = a) : (.ok (f x) : Dec Instr) = .ok (f a) := by rw [h]


/-! ## Rows with operands of their own -/

theorem build_csel (o : SelOp) : build (rawI 0x16 1 o.d o.a o.b o.c) = .ok (.csel o) := by
  have hc : (rawI 0x16 1 o.d o.a o.b o.c).c = o.c.val := by simp only [Raw.c, rawI_hi, fieldOf]; omega
  simp [build, need64, build01, hc]

theorem build_madd (o : MaddOp) : build (rawI 8 3 o.d o.a o.b (o.c.val + bit o.w * 2 ^ 6)) = .ok (.madd o) := by
  have hw := bit_lt o.w
  have h1 : fieldOf (o.c.val + bit o.w * 2 ^ 6) 0 6 = o.c.val := by simp only [fieldOf]; omega
  have h2 : fieldOf (o.c.val + bit o.w * 2 ^ 6) 6 1 = bit o.w := by simp only [fieldOf]; omega
  simp [build, need64, build03, Raw.c, Raw.wBit, -Nat.reducePow, h1, h2]

theorem build_lea (o : LeaOp) : build (rawI 0 5 o.d o.a o.b (o.sh.val + o.imm.toNat * 2 ^ 7)) = .ok (.lea o) := by
  have hi := o.imm.isLt
  have hs := o.sh.isLt
  have h1 : fieldOf (o.sh.val + o.imm.toNat * 2 ^ 7) 0 6 = o.sh.val := by simp only [fieldOf]; omega
  have h2 : fieldOf (o.sh.val + o.imm.toNat * 2 ^ 7) 7 23 = o.imm.toNat := by simp only [fieldOf]; omega
  simp [build, need64, Raw.c, -Nat.reducePow, h1, h2]

theorem build_wait (o : WaitOp) : build (rawI 0 0x54 o.ld o.st o.cp o.tl) = .ok (.wait o) := by
  have hc : (rawI 0 0x54 o.ld o.st o.cp o.tl).c = o.tl.val := by simp only [Raw.c, rawI_hi, fieldOf]; omega
  simp [build, need64, buildSync, hc]

/-! The memory rows read back their address, their size and their flags (R40). -/

theorem build_ld (o : LdOp) : build (rawMem 8 0 o.d o.size.code o.u o.m false) = .ok (.ld o) := by
  obtain ⟨h1, h2, h3, -⟩ := Raw.mem_raw 8 0 o.d o.size.code o.u o.m false o.size.code_lt_eight
  simp [build, need64, buildMem, h1, h2, h3, bind, Except.bind, pure, Except.pure]

theorem build_st (o : StOp) : build (rawMem 9 0 o.d o.size.code false o.m false) = .ok (.st o) := by
  obtain ⟨h1, h2, -, -⟩ := Raw.mem_raw 9 0 o.d o.size.code false o.m false o.size.code_lt_eight
  simp [build, need64, buildMem, h1, h2, bind, Except.bind, pure, Except.pure]

theorem build_fld (o : FMemOp) : build (rawMem 0xB 0 o.d 3 false o.m false) = .ok (.fld o) := by
  obtain ⟨h1, h2, -, -⟩ := Raw.mem_raw 0xB 0 o.d 3 false o.m false (by decide)
  simp [build, need64, buildMem, h1, h2, bind, Except.bind, pure, Except.pure]

theorem build_fst (o : FMemOp) : build (rawMem 0xB 1 o.d 3 false o.m false) = .ok (.fst o) := by
  obtain ⟨h1, h2, -, -⟩ := Raw.mem_raw 0xB 1 o.d 3 false o.m false (by decide)
  simp [build, need64, buildMem, h1, h2, bind, Except.bind, pure, Except.pure]

theorem build_rst (o : RstOp) : build (rawMem 0x51 0 o.d o.size.code false o.m o.o) = .ok (.rst o) := by
  obtain ⟨h1, h2, -, h4⟩ := Raw.mem_raw 0x51 0 o.d o.size.code false o.m o.o o.size.code_lt_eight
  simp [build, buildRemote, h1, h2, h4, bind, Except.bind, pure, Except.pure]

theorem build_rstv (o : RstvOp) : build (rawMem 0x51 1 o.d 6 false o.m o.o) = .ok (.rstv o) := by
  obtain ⟨h1, h2, -, h4⟩ := Raw.mem_raw 0x51 1 o.d 6 false o.m o.o (by decide)
  simp [build, buildRemote, h1, h2, h4, bind, Except.bind, pure, Except.pure]

theorem build_rld (o : RldOp) : build (rawMem 0x52 0 o.d o.size.code o.u o.m o.o) = .ok (.rld o) := by
  obtain ⟨h1, h2, h3, h4⟩ := Raw.mem_raw 0x52 0 o.d o.size.code o.u o.m o.o o.size.code_lt_eight
  simp [build, buildRemote, h1, h2, h3, h4, bind, Except.bind, pure, Except.pure]

theorem build_ramo (o : RamoOp) : build (rawMem 0x53 (o.kind.code + bit o.nr * 2 ^ 4) o.d o.size.code false
    ⟨o.a, o.b, false, o.off, o.wt⟩ o.o) = .ok (.ramo o) := by
  obtain ⟨h1, h2, -, h4⟩ := Raw.mem_raw 0x53 (o.kind.code + bit o.nr * 2 ^ 4) o.d o.size.code false
    ⟨o.a, o.b, false, o.off, o.wt⟩ o.o o.size.code_lt_eight
  have hk := o.kind.code_lt
  have hn := bit_lt o.nr
  have h5 : (o.kind.code + bit o.nr * 2 ^ 4) % 16 = o.kind.code := by omega
  have h6 : fieldOf (o.kind.code + bit o.nr * 2 ^ 4) 4 1 = bit o.nr := by simp only [fieldOf]; omega
  simp [build, buildRemote, -Nat.reducePow, h1, h2, h4, h5, h6, bind, Except.bind, pure, Except.pure]

/-- The rows of the V format that name one register file each (R44, R60). -/
theorem build_vlds (o : VOneOp) : build (rawI 2 0x20 o.d o.a 0 (packVM o.k)) = .ok (.vlds o) := by
  show (do return Instr.vlds ⟨← regV o.d, regS o.a, ← (rawI 2 0x20 o.d o.a 0 (packVM o.k)).vmctl⟩) = _
  rw [Raw.vm_of, regV_val, regS_val]; rfl

theorem build_vbcs (o : VFromS) : build (rawI 1 0x23 o.d o.a 0 (packV 0 o.k)) = .ok (.vbcs o) := by
  show (do return Instr.vbcs ⟨← regV o.d, regS o.a, ← (rawI 1 0x23 o.d o.a 0 (packV 0 o.k)).vctl⟩) = _
  rw [Raw.vctl_rawI (h := by decide), regV_val, regS_val]; rfl

theorem build_vbcf (o : VFromF) : build (rawI 2 0x23 o.d o.a 0 (packV 0 o.k)) = .ok (.vbcf o) := by
  show (do return Instr.vbcf ⟨← regV o.d, ← regF o.a, ← (rawI 2 0x23 o.d o.a 0 (packV 0 o.k)).vctl⟩) = _
  rw [Raw.vctl_rawI (h := by decide), regV_val, regF_val]; rfl

theorem build_vmvs (o : SFromV) :
    build (rawI 3 0x23 o.d o.a (o.e.val % 64) (packV (o.e.val / 64) o.k)) = .ok (.vmvs o) := by
  obtain ⟨hc, hk⟩ := Raw.v_of 3 0x23 o.d o.a (o.e.val % 64) (o.e.val / 64) o.k (by omega)
  let r := rawI 3 0x23 o.d o.a (o.e.val % 64) (packV (o.e.val / 64) o.k)
  show (do return Instr.vmvs ⟨regS o.d, ← regV o.a, ← codeN 128 (o.e.val % 64 + 64 * r.c), ← r.vctl⟩) = _
  rw [hc, hk, Nat.mod_add_div, regS_val, regV_val, codeN_val]; rfl

theorem build_vmvf (o : FFromV) : build (rawI 4 0x23 o.d o.a o.e (packV 0 o.k)) = .ok (.vmvf o) := by
  show (do return Instr.vmvf ⟨← regF o.d, ← regV o.a, Fin.ofNat 64 o.e, ← (rawI 4 0x23 o.d o.a o.e (packV 0 o.k)).vctl⟩) = _
  rw [Raw.vctl_rawI (h := by decide), regV_val, regF_val, ofNat_fin]; rfl

theorem build_vslide (o : VVS) : build (rawI 6 0x23 o.d o.a o.b (packV 0 o.k)) = .ok (.vslide o) := by
  show (do return Instr.vslide ⟨← regV o.d, ← regV o.a, regS o.b, ← (rawI 6 0x23 o.d o.a o.b (packV 0 o.k)).vctl⟩) = _
  rw [Raw.vctl_rawI (h := by decide), regV_val, regV_val, regS_val]; rfl

theorem build_qnot (o : QQ) : build (rawI 3 0x27 o.d o.a 0 (packV 0 o.k)) = .ok (.qnot o) := by
  show (do return Instr.qnot ⟨← regQ o.d, ← regQ o.a, ← (rawI 3 0x27 o.d o.a 0 (packV 0 o.k)).vctl⟩) = _
  rw [Raw.vctl_rawI (h := by decide), regQ_val, regQ_val]; rfl

theorem build_qset (o : QSS) : build (rawI 4 0x27 o.d o.a o.b (packV 0 o.k)) = .ok (.qset o) := by
  show (do return Instr.qset ⟨← regQ o.d, regS o.a, regS o.b, ← (rawI 4 0x27 o.d o.a o.b (packV 0 o.k)).vctl⟩) = _
  rw [Raw.vctl_rawI (h := by decide), regQ_val, regS_val, regS_val]; rfl

theorem build_qget (o : SQn) : build (rawI 5 0x27 o.d o.a o.half (packV 0 o.k)) = .ok (.qget o) := by
  show (do return Instr.qget ⟨regS o.d, ← regQ o.a, ← codeN 2 o.half, ← (rawI 5 0x27 o.d o.a o.half (packV 0 o.k)).vctl⟩) = _
  rw [Raw.vctl_rawI (h := by decide), regQ_val, regS_val, codeN_val]; rfl

theorem build_qpopc (o : SQ) : build (rawI 6 0x27 o.d o.a 0 (packV 0 o.k)) = .ok (.qpopc o) := by
  show (do return Instr.qpopc ⟨regS o.d, ← regQ o.a, ← (rawI 6 0x27 o.d o.a 0 (packV 0 o.k)).vctl⟩) = _
  rw [Raw.vctl_rawI (h := by decide), regQ_val, regS_val]; rfl

theorem build_vcvt (o : VCvt) : build (rawI o.dt.code 0x28 o.d o.a 0 (packV 0 o.k)) = .ok (.vcvt o) := by
  let r := rawI o.dt.code 0x28 o.d o.a 0 (packV 0 o.k)
  show (do
    let dt ← (etOf o.dt.code).mapError fun _ => DecodeError.function
    return Instr.vcvt ⟨dt, ← regV o.d, ← regV o.a, ← r.vctl⟩) = _
  rw [Raw.vctl_rawI (h := by decide), etOf_code, regV_val, regV_val]; rfl

theorem build_vdot (o : VDot) (h : o.d.okFor o.k.et = true) :
    build (rawI 3 0x29 o.d.index o.a o.b (packV 0 o.k)) = .ok (.vdot o) := by
  let r := rawI 3 0x29 o.d.index o.a o.b (packV 0 o.k)
  show (do
    let k ← r.vctl
    return Instr.vdot ⟨← scalarDst k.et o.d.index, ← regV o.a, ← regV o.b, k⟩) = _
  rw [Raw.vctl_rawI (h := by decide), regV_val, regV_val]
  show (do return Instr.vdot ⟨← scalarDst o.k.et o.d.index, o.a, o.b, o.k⟩) = _
  rw [scalarDst_index _ _ h]; rfl

theorem build_vsclset (o : VSclSet) : build (rawI 0 0x2A o.d o.a o.slot (packV 0 o.k)) = .ok (.vsclset o) := by
  show (do return Instr.vsclset ⟨← regV o.d, regS o.a, ← codeN 4 o.slot, ← (rawI 0 0x2A o.d o.a o.slot (packV 0 o.k)).vctl⟩) = _
  rw [Raw.vctl_rawI (h := by decide), regV_val, regS_val, codeN_val]; rfl

theorem build_vsclget (o : VSclGet) : build (rawI 1 0x2A o.d o.a o.slot (packV 0 o.k)) = .ok (.vsclget o) := by
  show (do return Instr.vsclget ⟨regS o.d, ← regV o.a, ← codeN 4 o.slot, ← (rawI 1 0x2A o.d o.a o.slot (packV 0 o.k)).vctl⟩) = _
  rw [Raw.vctl_rawI (h := by decide), regV_val, regS_val, codeN_val]; rfl

theorem build_vdrop (o : VDropOp) : build (rawI 2 0x2C o.d o.a o.b (packV o.n o.k)) = .ok (.vdrop o) := by
  obtain ⟨hc, hk⟩ := Raw.v_of 2 0x2C o.d o.a o.b o.n o.k (by omega)
  let r := rawI 2 0x2C o.d o.a o.b (packV o.n o.k)
  show (do return Instr.vdrop ⟨← regV o.d, ← regV o.a, regS o.b, ← codeN 5 r.c, ← r.vctl⟩) = _
  rw [hc, hk, regV_val, regV_val, regS_val, codeN_val]; rfl

/-! The rows of the X format read back the fields of `packX` (R46). -/

theorem build_amsgp (o : MsgPayOp) (h : o.len ≤ 4096) :
    build ⟨12, 0x50, 2, o.d, o.a, o.b, packX o.c 0 o.wt o.o, o.len + o.code.val * 2 ^ 16⟩ = .ok (.amsgp o) := by
  obtain ⟨h1, -, h3, h4, -⟩ := packX_fields o.c 0 o.wt o.o (by omega) (by decide)
  have hl : fieldOf (o.len + o.code.val * 2 ^ 16) 0 13 = o.len := by simp only [fieldOf]; omega
  have hc : fieldOf (o.len + o.code.val * 2 ^ 16) 16 4 = o.code.val := by simp only [fieldOf]; omega
  simp [build, buildRemote, Raw.c, Raw.wtX, Raw.oX, -Nat.reducePow, h1, h3, h4, hl, hc, bind, Except.bind, pure, Except.pure]

theorem build_cpwait (a : SReg) (ch : Chan) : build (rawI 0 0x61 0 a 0 (packX 0 ch .none false)) = .ok (.cpwait a ch) := by
  obtain ⟨-, h2, -⟩ := packX_fields 0 ch .none false (by decide) (by omega)
  simp [build, buildEngine, Raw.e, h2, bind, Except.bind, pure, Except.pure]

theorem build_cpfence (m : BitVec 4) : build (rawI 0 0x62 0 0 0 (packX 0 m.toNat .none false)) = .ok (.cpfence m) := by
  obtain ⟨-, h2, -⟩ := packX_fields 0 m.toNat .none false (by decide) (by omega)
  have hm : codeN 16 m.toNat = .ok m.toFin := codeN_val 16 m.toFin
  simp [build, buildEngine, Raw.e, h2, hm, bind, Except.bind, pure, Except.pure]

theorem build_cpresume (ch : Chan) : build (rawI 0 0x63 0 0 0 (packX 0 ch .none false)) = .ok (.cpresume ch) := by
  obtain ⟨-, h2, -⟩ := packX_fields 0 ch .none false (by decide) (by omega)
  simp [build, buildEngine, Raw.e, h2, bind, Except.bind, pure, Except.pure]

theorem build_wlpush (o : WlpushOp) : build (rawI 0 0x68 0 o.a o.b (packX o.c 0 o.wt false)) = .ok (.wlpush o) := by
  obtain ⟨h1, -, h3, -⟩ := packX_fields o.c 0 o.wt false (by omega) (by decide)
  simp [build, buildEngine, Raw.c, Raw.wtX, h1, h3]

theorem build_sst (o : SstOp) : build (rawI 0 0x70 o.d o.a o.b (packX 0 o.size.code o.wt false)) = .ok (.sst o) := by
  have hz := o.size.code_lt
  obtain ⟨-, h2, h3, -⟩ := packX_fields 0 o.size.code o.wt false (by decide) (by omega)
  simp [build, buildEngine, Raw.e, Raw.wtX, h2, h3, bind, Except.bind, pure, Except.pure]

theorem build_sstv (o : SstvOp) : build (rawI 1 0x70 o.d o.a o.b (packX 0 0 o.wt false)) = .ok (.sstv o) := by
  obtain ⟨-, -, h3, -⟩ := packX_fields 0 0 o.wt false (by decide) (by decide)
  simp [build, buildEngine, Raw.wtX, h3, bind, Except.bind, pure, Except.pure]

theorem build_sstl (o : SstlOp) (h : o.len ≤ 256) :
    build ⟨12, 0x70, 2, o.d, o.a, o.b, packX 0 0 o.wt false, o.len⟩ = .ok (.sstl o) := by
  obtain ⟨-, -, h3, -⟩ := packX_fields 0 0 o.wt false (by decide) (by decide)
  have hl : fieldOf o.len 0 9 = o.len := by simp only [fieldOf]; omega
  simp [build, buildEngine, Raw.wtX, h3, hl]

/-! The rows of system registers and requests (R24, R66). -/

theorem SysReg.fieldOf_number (g : SysReg) : fieldOf g.number 0 12 = g.number := by
  have := g.number_lt
  simp only [fieldOf]; omega

theorem build_mfsr (d : SReg) (g : SysReg) : build (rawMfsr d g) = .ok (.mfsr d g) := by
  simp [build, need64, buildSys, rawMfsr, g.fieldOf_number, bind, Except.bind, pure, Except.pure]

theorem build_mtsr (g : SysReg) (a : SReg) : build (rawMtsr g a) = .ok (.mtsr g a) := by
  simp [build, need64, buildSys, rawMtsr, g.fieldOf_number, bind, Except.bind, pure, Except.pure]

/-! Constants and counts that fill their field. -/

theorem build_li96 (d : SReg) (x : BitVec 62) :
    build ⟨12, 2, 0x20, d, 0, 0, x.toNat % 2 ^ 30, x.toNat / 2 ^ 30⟩ = .ok (.li96 d x) := by
  show Except.ok (Instr.li96 (regS d) (Raw.mk 12 2 0x20 d 0 0 (x.toNat % 2 ^ 30) (x.toNat / 2 ^ 30)).val62) = _
  rw [regS_val, val62_of]

theorem build_jalAbs (d : SReg) (x : BitVec 62) :
    build ⟨12, 0x12, 0, d, 0, 0, x.toNat % 2 ^ 30, x.toNat / 2 ^ 30⟩ = .ok (.jalAbs d x) := by
  show Except.ok (Instr.jalAbs (regS d) (Raw.mk 12 0x12 0 d 0 0 (x.toNat % 2 ^ 30) (x.toNat / 2 ^ 30)).val62) = _
  rw [regS_val, val62_of]

theorem build_fcvtSD (o : FNarrow) : build (rawI 0xC 0x19 o.d o.a 0 (packF 0 o.rm false)) = .ok (.fcvtSD o) := by
  show (do return Instr.fcvtSD ⟨← regF o.d, ← regF o.a, ← (rawI 0xC 0x19 o.d o.a 0 (packF 0 o.rm false)).rmF⟩) = _
  rw [Raw.rmF_rawI, regF_val, regF_val]; rfl

theorem build_scall (code : BitVec 29) : build (rawI 0 0x82 0 0 0 code.toNat) = .ok (.scall code) := by
  show (if code.toNat < 2 ^ 29 then Except.ok (Instr.scall (BitVec.ofNat 29 code.toNat)) else .error DecodeError.code) = _
  rw [if_pos code.isLt, BitVec.ofNat_toNat, BitVec.setWidth_eq]

theorem build_brk (code : BitVec 29) : build (rawI 1 0x82 0 0 0 code.toNat) = .ok (.brk code) := by
  show (if code.toNat < 2 ^ 29 then Except.ok (Instr.brk (BitVec.ofNat 29 code.toNat)) else .error DecodeError.code) = _
  rw [if_pos code.isLt, BitVec.ofNat_toNat, BitVec.setWidth_eq]

theorem build_mint (a : SReg) (k : Fin 6) : build (rawI 5 0x82 0 a 0 (0x80 + k.val)) = .ok (.mint a k) := by
  show (do return Instr.mint (regS a) (← codeN 6 (0x80 + k.val - 0x80))) = _
  rw [Nat.add_sub_cancel_left, regS_val, codeN_val]; rfl

/-- A carried word has 64 bits (R63). -/
theorem TileOp.raw_fits (op : TileOp) : op.raw.fits := by
  cases op with
  | tld o | tst o | tzero d | ttr o => simp only [TileOp.raw, rawI_fits]; omega
  | zzero d z => have := z.code_lt; simp only [TileOp.raw, rawI_fits]; omega
  | zst o => have := o.tz.code_lt; simp only [TileOp.raw, rawI_fits]; omega
  | tsacc o => have := o.tz.code_lt; simp only [TileOp.raw, rawI_fits]; omega
  | tmma o | tmmo o | tmrot o =>
    have := o.ta.code_lt; have := o.tb.code_lt; have := o.tz.code_lt
    simp only [TileOp.raw, rawTProd, rawI_fits]; omega
  | tepi o =>
    have := o.ta.code_lt; have := o.tz.code_lt; have := o.epi.code_lt; have := o.rm.code_lt; have := bit_lt o.sat
    simp only [TileOp.raw, rawI_fits]; omega

theorem TileOp.raw_len (op : TileOp) : op.raw.len = 8 := by cases op <;> rfl

theorem checkTile_raw (op : TileOp) (h : op.wf = true) : checkTile op.raw = .ok op := by
  simp [checkTile, build_tile, h, bind, Except.bind]

theorem build_tfol (ch : Chan) (op : TileOp) (h : op.wf = true) :
    build ⟨16, 0x46, 0, ch, 0, 0, 0, op.raw.toWord⟩ = .ok (.tfol ch op) := by
  show (do
    let op ← (checkTile (Raw.ofWord op.raw.toWord)).mapError fun _ => DecodeError.code
    return Instr.tfol (← codeN 4 ch) op) = _
  rw [Raw.ofWord_toWord _ op.raw_fits, checkTile_raw op h, codeN_val]; rfl
/-- The row that the fields of an instruction select reads the instruction back (R55 to R66). -/
theorem build_encodeRaw (i : Instr) (r : Raw) (hw : i.wf = true) (h : encodeRaw i = some r) : build r = .ok i := by
  cases i with
  | add o | sub o | and o | or o | xor o | andn o | orn o | shl o | shr o | sra o | rol o | ror o | min o | max o | minu o | maxu o
    | mul o | div o | divu o | rem o | remu o => cases h; exact reads_group _ (Raw.alu_raw _ _ o)
  | seq o | sne o | slt o | sltu o | sle o | sleu o | mulh o | mulhu o | mulhsu o => cases h; exact reads_group _ (Raw.cmp_raw _ _ o)
  | addi64 o | andi64 o | ori64 o | xori64 o | seqi o | slti o | sltui o => cases h; exact reads_group _ (Raw.imm30_raw _ o)
  | addi96 o | andi96 o | ori96 o | xori96 o => cases h; exact reads_group _ (Raw.imm62_raw _ o)
  | shli o | shri o | srai o | roli o => cases h; exact reads_group _ (Raw.shift_raw _ o)
  | clz o | ctz o | popc o | brev o | bswap o => cases h; exact reads_group _ (Raw.un_raw _ o)
  | beq o | bne o | blt o | bge o | bltu o | bgeu o => cases h; exact reads_group _ (Raw.br_raw _ o)
  | lamoAdd o | lamoAnd o | lamoOr o | lamoXor o | lamoMin o | lamoMax o | lamoMinu o | lamoMaxu o | lamoSwp o | lamoCas o =>
    cases h; exact congrArg (Except.map _) (Raw.lamo_raw _ o)
  | fadd o | fsub o | fmul o | fdiv o => cases h; exact congrArg (Except.map _) (Raw.f3_raw _ o)
  | fsqrt o | fround o => cases h; exact congrArg (Except.map _) (Raw.f2_raw _ _ o)
  | fmin o | fmax o | fminm o | fmaxm o | fsgnj o | fsgnjn o | fsgnjx o => cases h; exact congrArg (Except.map _) (Raw.fbit_raw _ o)
  | fma o | fms o | fnma o | fnms o => cases h; exact congrArg (Except.map _) (Raw.f4_raw _ o)
  | feq o | flt o | fle o | funord o => cases h; exact congrArg (Except.map _) (Raw.fcmp_raw _ o)
  | fcvtLD o | fcvtLuD o => cases h; exact congrArg (Except.map _) (Raw.ftoi_raw _ _ o)
  | fcvtDL o | fcvtDLu o => cases h; exact congrArg (Except.map _) (Raw.itof_raw _ _ o)
  | vmov o | vsqrt o | vabs o | vneg o | vnot o | vpopc o | vclz o | vrenorm o | vdeq o | vquant o | vexp2 o | vlog2 o | vrcp o
    | vrsqrt o | vsin o | vcos o | vtanh o | vsigm o | verf o => cases h; exact congrArg (Except.map _) (Raw.vv_raw _ _ o)
  | vsel o | vperm o | vpack o | vunpack o | vadd o | vsub o | vmul o | vmulh o | vdiv o | vmin o | vmax o | vadds o | vsubs o
    | vand o | vor o | vxor o | vshl o | vshr o | vsra o => cases h; exact congrArg (Except.map _) (Raw.vvv_raw _ _ o)
  | vfma o | vfms o | vfnma o | vclamp o => cases h; exact congrArg (Except.map _) (Raw.vvvv_raw _ _ o)
  | vshli o | vshri o | vsrai o => cases h; exact congrArg (Except.map _) (Raw.vvn_raw _ _ o)
  | vceq o | vcne o | vclt o | vcle o | vcun o => cases h; exact congrArg (Except.map _) (Raw.qvv_raw _ o)
  | qand o | qor o | qxor o => cases h; exact congrArg (Except.map _) (Raw.qqq_raw _ o)
  | vld o | vst o => cases h; exact congrArg (Except.map _) (Raw.vslot_raw _ _ o)
  | vldB o | vstB o => cases h; exact congrArg (Except.map _) (Raw.vbase_raw _ _ o)
  | vgather o | vscatter o => cases h; exact congrArg (Except.map _) (Raw.vidx_raw _ _ o)
  | vrng o | vrngu o => cases h; exact congrArg (Except.map _) (Raw.vrng_raw _ _ o)
  | vrsum o | vrmax o | vrmin o =>
    cases h
    have hd : o.d.okFor o.k.et = true := by simp only [Instr.wf, Bool.and_eq_true] at hw; exact hw.2
    exact congrArg (Except.map _) (Raw.vred_raw _ _ o hd)
  | tld o => cases h; exact congrArg (Except.map Instr.ofTile) (build_tile (.tld o))
  | tst o => cases h; exact congrArg (Except.map Instr.ofTile) (build_tile (.tst o))
  | tzero d => cases h; exact congrArg (Except.map Instr.ofTile) (build_tile (.tzero d))
  | ttr o => cases h; exact congrArg (Except.map Instr.ofTile) (build_tile (.ttr o))
  | zzero d z => cases h; exact congrArg (Except.map Instr.ofTile) (build_tile (.zzero d z))
  | zst o => cases h; exact congrArg (Except.map Instr.ofTile) (build_tile (.zst o))
  | tmma o => cases h; exact congrArg (Except.map Instr.ofTile) (build_tile (.tmma o))
  | tmmo o => cases h; exact congrArg (Except.map Instr.ofTile) (build_tile (.tmmo o))
  | tsacc o => cases h; exact congrArg (Except.map Instr.ofTile) (build_tile (.tsacc o))
  | tepi o => cases h; exact congrArg (Except.map Instr.ofTile) (build_tile (.tepi o))
  | tmrot o => cases h; exact congrArg (Except.map Instr.ofTile) (build_tile (.tmrot o))
  | amsg o | amsgl o => cases h; exact reads_group _ (Raw.msg_raw _ o)
  | cpush o | cpushb o => cases h; exact congrArg (Except.map _) (Raw.cpush_raw _ _ o)
  | csel o => cases h; exact build_csel o
  | madd o => cases h; exact build_madd o
  | lea o => cases h; exact build_lea o
  | wait o => cases h; exact build_wait o
  | ld o => cases h; exact build_ld o
  | st o => cases h; exact build_st o
  | fld o => cases h; exact build_fld o
  | fst o => cases h; exact build_fst o
  | rst o => cases h; exact build_rst o
  | rstv o => cases h; exact build_rstv o
  | rld o => cases h; exact build_rld o
  | ramo o => cases h; exact build_ramo o
  | vlds o => cases h; exact build_vlds o
  | vbcs o => cases h; exact build_vbcs o
  | vbcf o => cases h; exact build_vbcf o
  | vmvs o => cases h; exact build_vmvs o
  | vmvf o => cases h; exact build_vmvf o
  | vslide o => cases h; exact build_vslide o
  | qnot o => cases h; exact build_qnot o
  | qset o => cases h; exact build_qset o
  | qget o => cases h; exact build_qget o
  | qpopc o => cases h; exact build_qpopc o
  | vcvt o => cases h; exact build_vcvt o
  | vsclset o => cases h; exact build_vsclset o
  | vsclget o => cases h; exact build_vsclget o
  | vdrop o => cases h; exact build_vdrop o
  | wlpush o => cases h; exact build_wlpush o
  | sst o => cases h; exact build_sst o
  | sstv o => cases h; exact build_sstv o
  | vdot o =>
    cases h
    simp only [Instr.wf, Bool.and_eq_true] at hw
    exact build_vdot o hw.2
  | amsgp o =>
    cases h
    simp only [Instr.wf, Bool.and_eq_true, decide_eq_true_eq] at hw
    exact build_amsgp o hw.2
  | sstl o =>
    cases h
    simp only [Instr.wf, Bool.and_eq_true, decide_eq_true_eq] at hw
    exact build_sstl o hw.2
  | tfol ch op =>
    cases h
    simp only [Instr.wf, Bool.and_eq_true] at hw
    exact build_tfol ch op hw.1
  | cpwait a ch => cases h; exact build_cpwait a ch
  | cpfence k => cases h; exact build_cpfence k
  | cpresume ch => cases h; exact build_cpresume ch
  | mfsr d g => cases h; exact build_mfsr d g
  | mtsr g a => cases h; exact build_mtsr g a
  | li96 d imm => cases h; exact build_li96 d imm
  | jalAbs d imm => cases h; exact build_jalAbs d imm
  | fcvtSD o => cases h; exact build_fcvtSD o
  | scall code => cases h; exact build_scall code
  | brk code => cases h; exact build_brk code
  | mint a k => cases h; exact build_mint a k
  | li64 d imm | jal64 d imm => cases h; simp [build, need64, build02, buildCtl]
  | li128 d imm => cases h; simp [build, build02]
  | sext o | zext o | bext o | bins o => cases h; simp [build, need64, build04]
  | jalr o => cases h; simp [build, buildCtl]
  | fclass d a | fmvSF d a | fmvFS d a => cases h; simp [build, need64, build19, bind, Except.bind, pure, Except.pure]
  | vsetsh slot a | vitr d slot | vshget d slot f | vloop o =>
    cases h; simp [build, need64, buildSeq, bind, Except.bind, pure, Except.pure]
  | barGang n | barCluster n | barPackage n | barFabric n | bfree a | mbwait a =>
    cases h; simp [build, need64, buildSync, bind, Except.bind, pure, Except.pure]
  | sndseq d a | sndwait a b | gend d => cases h; simp [build, buildEngine]
  | exit a n | ptouch a => cases h; simp [build, need64, buildSys, bind, Except.bind, pure, Except.pure]
  | _ => cases h <;> rfl

/-! ## Every field holds what the encoder puts there (R34) -/

theorem rawAlu_fits {opc fn : Nat} (h : opc < 2 ^ 8) (h' : fn < 2 ^ 6) (o : AluOp) : (rawAlu opc fn o).fits := by
  have hi := bit_lt o.w
  simp only [rawAlu, rawI_fits]; omega

theorem rawCmp_fits {opc fn : Nat} (h : opc < 2 ^ 8) (h' : fn < 2 ^ 6) (o : CmpOp) : (rawCmp opc fn o).fits := by
  simp only [rawCmp, rawI_fits]; omega

theorem rawImm30_fits {fn : Nat} (h : fn < 2 ^ 6) (o : Imm30Op) : (rawImm30 fn o).fits := by
  have hi := o.imm.isLt
  simp only [rawImm30, rawI_fits]; omega

theorem rawShift_fits {fn : Nat} (h : fn < 2 ^ 6) (o : ShiftOp) : (rawShift fn o).fits := by
  simp only [rawShift, rawI_fits]; omega

theorem rawUn_fits {fn : Nat} (h : fn < 2 ^ 6) (o : UnOp) : (rawUn fn o).fits := by
  simp only [rawUn, rawI_fits]; omega

theorem rawLamo_fits {fn : Nat} (h : fn < 2 ^ 6) (o : LamoOp) : (rawLamo fn o).fits := by
  have hi := packM_lt ⟨o.a, o.b, false, o.off, o.wt⟩ false false o.size.code_lt_eight
  simp only [rawLamo, rawI_fits]; omega

theorem rawBr_fits {fn : Nat} (h : fn < 2 ^ 6) (o : BrOp) : (rawBr fn o).fits := by
  have hi := o.off.isLt
  simp only [rawBr, rawI_fits]; omega

theorem rawF3_fits {fn : Nat} (h : fn < 2 ^ 6) (o : FOp3) : (rawF3 fn o).fits := by
  have hi := packF_lt (c := 0) o.rm o.w (by omega)
  simp only [rawF3, rawI_fits]; omega

theorem rawF4_fits {fn : Nat} (h : fn < 2 ^ 6) (o : FOp4) : (rawF4 fn o).fits := by
  have hi := packF_lt (c := o.c) o.rm o.w (by omega)
  simp only [rawF4, rawI_fits]; omega

theorem rawFBit_fits {fn : Nat} (h : fn < 2 ^ 6) (o : FBit3) : (rawFBit fn o).fits := by
  simp only [rawFBit, rawI_fits]; omega

theorem rawFCmp_fits {fn : Nat} (h : fn < 2 ^ 6) (o : FCmpOp) : (rawFCmp fn o).fits := by
  simp only [rawFCmp, rawI_fits]; omega

theorem rawVV_fits {opc fn : Nat} (h : opc < 2 ^ 8) (h' : fn < 2 ^ 6) (o : VV) : (rawVV opc fn o).fits := by
  have hi := packV_lt (c := 0) o.k (by omega)
  simp only [rawVV, rawI_fits]; omega

theorem rawVVV_fits {opc fn : Nat} (h : opc < 2 ^ 8) (h' : fn < 2 ^ 6) (o : VVV) : (rawVVV opc fn o).fits := by
  have hi := packV_lt (c := 0) o.k (by omega)
  simp only [rawVVV, rawI_fits]; omega

theorem rawVVVV_fits {opc fn : Nat} (h : opc < 2 ^ 8) (h' : fn < 2 ^ 6) (o : VVVV) : (rawVVVV opc fn o).fits := by
  have hi := packV_lt (c := o.c) o.k (by omega)
  simp only [rawVVVV, rawI_fits]; omega

theorem rawVVn_fits {opc fn : Nat} (h : opc < 2 ^ 8) (h' : fn < 2 ^ 6) (o : VVn) : (rawVVn opc fn o).fits := by
  have hi := packV_lt (c := 0) o.k (by omega)
  simp only [rawVVn, rawI_fits]; omega

theorem rawQVV_fits {fn : Nat} (h : fn < 2 ^ 6) (o : QVV) : (rawQVV fn o).fits := by
  have hi := packV_lt (c := 0) o.k (by omega)
  simp only [rawQVV, rawI_fits]; omega

theorem rawQQQ_fits {fn : Nat} (h : fn < 2 ^ 6) (o : QQQ) : (rawQQQ fn o).fits := by
  have hi := packV_lt (c := 0) o.k (by omega)
  simp only [rawQQQ, rawI_fits]; omega

theorem rawMsg_fits {fn : Nat} (h : fn < 2 ^ 6) (o : MsgOp) : (rawMsg fn o).fits := by
  have hi := packX_lt (c := 0) (e := 0) o.wt o.o (by decide) (by decide)
  simp only [rawMsg, rawI_fits]; omega

theorem rawMem_fits {opc fn d sz : Nat} (h : opc < 2 ^ 8) (h' : fn < 2 ^ 6) (hd : d < 2 ^ 6) (hz : sz < 8) (u : Bool) (m : MemArg)
    (o : Bool) : (rawMem opc fn d sz u m o).fits := by
  have hi := packM_lt m u o hz
  simp only [rawMem, rawI_fits]; omega

/-- The rows of the V format that are no group of their own (R44). -/
theorem rawV_fits {opc fn d a b c : Nat} (k : VCtl) (h : opc < 2 ^ 8 ∧ fn < 2 ^ 6 ∧ d < 2 ^ 6 ∧ a < 2 ^ 6 ∧ b < 2 ^ 6) (hc : c < 64) :
    (rawI fn opc d a b (packV c k)).fits := by
  have hi := packV_lt k hc
  simp only [rawI_fits]; omega

theorem rawVM_fits {opc fn d a b : Nat} (k : VMemCtl) (h : opc < 2 ^ 8 ∧ fn < 2 ^ 6 ∧ d < 2 ^ 6 ∧ a < 2 ^ 6 ∧ b < 2 ^ 6) :
    (rawI fn opc d a b (packVM k)).fits := by
  have hi := packVM_lt k
  simp only [rawI_fits]; omega

theorem rawX_fits {opc fn d a b c e : Nat} (wt : WaitSel) (o : Bool)
    (h : opc < 2 ^ 8 ∧ fn < 2 ^ 6 ∧ d < 2 ^ 6 ∧ a < 2 ^ 6 ∧ b < 2 ^ 6) (hc : c < 64) (he : e < 64) :
    (rawI fn opc d a b (packX c e wt o)).fits := by
  have hi := packX_lt wt o hc he
  simp only [rawI_fits]; omega

theorem raw12_fits {opc fn d a b hi ext : Nat} : (Raw.mk 12 opc fn d a b hi ext).fits ↔ opc < 2 ^ 8 ∧ fn < 2 ^ 6 ∧ d < 2 ^ 6 ∧
    a < 2 ^ 6 ∧ b < 2 ^ 6 ∧ hi < 2 ^ 30 ∧ ext < 2 ^ 32 := by simp [Raw.fits]

theorem raw16_fits {opc fn d a b hi ext : Nat} : (Raw.mk 16 opc fn d a b hi ext).fits ↔ opc < 2 ^ 8 ∧ fn < 2 ^ 6 ∧ d < 2 ^ 6 ∧
    a < 2 ^ 6 ∧ b < 2 ^ 6 ∧ hi < 2 ^ 30 ∧ ext < 2 ^ 64 := by simp [Raw.fits]

/-- A row of 12 bytes whose immediate fills bits 63:34 and 95:64 (R39). -/
theorem raw62_fits {opc fn d a : Nat} (x : BitVec 62) (h : opc < 2 ^ 8 ∧ fn < 2 ^ 6 ∧ d < 2 ^ 6 ∧ a < 2 ^ 6) :
    (Raw.mk 12 opc fn d a 0 (x.toNat % 2 ^ 30) (x.toNat / 2 ^ 30)).fits := by
  have := x.isLt
  simp only [raw12_fits]; omega

theorem encodeRaw_fits (i : Instr) (r : Raw) (hw : i.wf = true) (h : encodeRaw i = some r) : r.fits := by
  cases i with
  | add o | sub o | and o | or o | xor o | andn o | orn o | shl o | shr o | sra o | rol o | ror o | min o | max o | minu o | maxu o
    | mul o | div o | divu o | rem o | remu o => cases h; exact rawAlu_fits (by decide) (by decide) o
  | seq o | sne o | slt o | sltu o | sle o | sleu o | mulh o | mulhu o | mulhsu o => cases h; exact rawCmp_fits (by decide) (by decide) o
  | addi64 o | andi64 o | ori64 o | xori64 o | seqi o | slti o | sltui o => cases h; exact rawImm30_fits (by decide) o
  | addi96 o | andi96 o | ori96 o | xori96 o => cases h; exact raw62_fits o.imm (by omega)
  | li96 d imm | jalAbs d imm => cases h; exact raw62_fits imm (by omega)
  | shli o | shri o | srai o | roli o => cases h; exact rawShift_fits (by decide) o
  | clz o | ctz o | popc o | brev o | bswap o => cases h; exact rawUn_fits (by decide) o
  | beq o | bne o | blt o | bge o | bltu o | bgeu o => cases h; exact rawBr_fits (by decide) o
  | lamoAdd o | lamoAnd o | lamoOr o | lamoXor o | lamoMin o | lamoMax o | lamoMinu o | lamoMaxu o | lamoSwp o | lamoCas o =>
    cases h; exact rawLamo_fits (by decide) o
  | fadd o | fsub o | fmul o | fdiv o => cases h; exact rawF3_fits (by decide) o
  | fmin o | fmax o | fminm o | fmaxm o | fsgnj o | fsgnjn o | fsgnjx o => cases h; exact rawFBit_fits (by decide) o
  | fma o | fms o | fnma o | fnms o => cases h; exact rawF4_fits (by decide) o
  | feq o | flt o | fle o | funord o => cases h; exact rawFCmp_fits (by decide) o
  | vmov o | vsqrt o | vabs o | vneg o | vnot o | vpopc o | vclz o | vrenorm o | vdeq o | vquant o | vexp2 o | vlog2 o | vrcp o
    | vrsqrt o | vsin o | vcos o | vtanh o | vsigm o | verf o => cases h; exact rawVV_fits (by decide) (by decide) o
  | vsel o | vperm o | vpack o | vunpack o | vadd o | vsub o | vmul o | vmulh o | vdiv o | vmin o | vmax o | vadds o | vsubs o
    | vand o | vor o | vxor o | vshl o | vshr o | vsra o => cases h; exact rawVVV_fits (by decide) (by decide) o
  | vfma o | vfms o | vfnma o | vclamp o => cases h; exact rawVVVV_fits (by decide) (by decide) o
  | vshli o | vshri o | vsrai o => cases h; exact rawVVn_fits (by decide) (by decide) o
  | vceq o | vcne o | vclt o | vcle o | vcun o => cases h; exact rawQVV_fits (by decide) o
  | qand o | qor o | qxor o => cases h; exact rawQQQ_fits (by decide) o
  | vld o | vst o | vldB o | vstB o | vgather o | vscatter o | vlds o => cases h; exact rawVM_fits o.k (by omega)
  | vrng o | vrngu o | vbcs o | vbcf o | vmvf o | vslide o | qnot o | qset o | qget o | qpopc o | vsclset o | vsclget o =>
    cases h; exact rawV_fits o.k (by omega) (by decide)
  | vmvs o => cases h; exact rawV_fits o.k (by omega) (by omega)
  | vdrop o => cases h; exact rawV_fits o.k (by omega) (by omega)
  | vcvt o => have := o.dt.code_lt; cases h; exact rawV_fits o.k (by omega) (by decide)
  | vrsum o | vrmax o | vrmin o | vdot o => have := o.d.index_lt; cases h; exact rawV_fits o.k (by omega) (by decide)
  | ld o | st o | rst o | rld o => cases h; exact rawMem_fits (by decide) (by decide) o.d.isLt o.size.code_lt_eight ..
  | fld o | fst o => cases h; exact rawMem_fits (by decide) (by decide) (by omega) (by decide) ..
  | rstv o => cases h; exact rawMem_fits (by decide) (by decide) (by omega) (by decide) ..
  | ramo o =>
    have := o.kind.code_lt; have := bit_lt o.nr
    cases h; exact rawMem_fits (by decide) (by omega) o.d.isLt o.size.code_lt_eight ..
  | amsg o | amsgl o => cases h; exact rawMsg_fits (by decide) o
  | cpush o | cpushb o => cases h; exact rawX_fits o.wt false (by omega) (by decide) (by omega)
  | cpwait a ch => cases h; exact rawX_fits .none false (by omega) (by decide) (by omega)
  | cpresume ch => cases h; exact rawX_fits .none false (by omega) (by decide) (by omega)
  | cpfence k => cases h; exact rawX_fits .none false (by omega) (by decide) (by omega)
  | wlpush o => cases h; exact rawX_fits o.wt false (by omega) (by omega) (by decide)
  | sst o => have := o.size.code_lt; cases h; exact rawX_fits o.wt false (by omega) (by decide) (by omega)
  | sstv o => cases h; exact rawX_fits o.wt false (by omega) (by decide) (by decide)
  | tld o => cases h; exact (TileOp.tld o).raw_fits
  | tst o => cases h; exact (TileOp.tst o).raw_fits
  | tzero d => cases h; exact (TileOp.tzero d).raw_fits
  | ttr o => cases h; exact (TileOp.ttr o).raw_fits
  | zzero d z => cases h; exact (TileOp.zzero d z).raw_fits
  | zst o => cases h; exact (TileOp.zst o).raw_fits
  | tmma o => cases h; exact (TileOp.tmma o).raw_fits
  | tmmo o => cases h; exact (TileOp.tmmo o).raw_fits
  | tsacc o => cases h; exact (TileOp.tsacc o).raw_fits
  | tepi o => cases h; exact (TileOp.tepi o).raw_fits
  | tmrot o => cases h; exact (TileOp.tmrot o).raw_fits
  | tfol ch op =>
    have hlt := op.raw.toWord_lt op.raw_fits
    rw [op.raw_len] at hlt
    cases h; simp only [raw16_fits]; omega
  | amsgp o =>
    have hi := packX_lt (e := 0) o.wt o.o o.c.isLt (by decide)
    simp only [Instr.wf, Bool.and_eq_true, decide_eq_true_eq] at hw
    cases h; simp only [raw12_fits]; omega
  | sstl o =>
    have hi := packX_lt (c := 0) (e := 0) o.wt false (by decide) (by decide)
    simp only [Instr.wf, Bool.and_eq_true, decide_eq_true_eq] at hw
    cases h; simp only [raw12_fits]; omega
  | sext o | zext o | bext o | bins o =>
    simp only [Instr.wf, Bool.and_eq_true, decide_eq_true_eq] at hw
    cases h; simp only [rawI_fits]; omega
  | yield n => simp only [Instr.wf, decide_eq_true_eq] at hw; cases h; simp only [rawI_fits]; omega
  | vloop o =>
    have := o.imm.isLt
    simp only [Instr.wf, Bool.and_eq_true, decide_eq_true_eq] at hw
    cases h; simp only [rawI_fits]; omega
  | li64 d imm => have := imm.isLt; cases h; simp only [rawI_fits]; omega
  | li128 d imm => have := imm.isLt; cases h; simp only [raw16_fits]; omega
  | jal64 d off => have := off.isLt; cases h; simp only [rawI_fits]; omega
  | jalr o => have := o.imm.isLt; cases h; simp only [rawI_fits]; omega
  | madd o => have := bit_lt o.w; cases h; simp only [rawI_fits]; omega
  | lea o => have := o.imm.isLt; cases h; simp only [rawI_fits]; omega
  | fsqrt o | fround o | fcvtDL o | fcvtDLu o =>
    have hi := packF_lt (c := 0) o.rm o.w (by decide)
    cases h; simp only [rawI_fits]; omega
  | fcvtLD o | fcvtLuD o | fcvtSD o =>
    have hi := packF_lt (c := 0) o.rm false (by decide)
    cases h; simp only [rawI_fits]; omega
  | mfsr d g => have := g.number_lt; cases h; simp only [rawMfsr, rawI_fits]; omega
  | mtsr g a => have := g.number_lt; cases h; simp only [rawMtsr, rawI_fits]; omega
  | scall code | brk code => have := code.isLt; cases h; simp only [rawI_fits]; omega
  | nop64 => cases h; exact rawI_fits.2 (by decide)
  | nop96 => cases h; exact raw12_fits.2 (by decide)
  | nop128 => cases h; exact raw16_fits.2 (by decide)
  | _ => cases h <;> (simp only [rawI_fits]; omega)

/-! ## The bytes that were read -/

theorem toBytesLE_ofBytesLE (bs : List Byte) : toBytesLE bs.length (ofBytesLE bs) = bs := by
  induction bs with
  | nil => rfl
  | cons b bs ih =>
    have hb := b.isLt
    have h1 : (b.toNat + 256 * ofBytesLE bs) / 256 = ofBytesLE bs := by omega
    have h2 : BitVec.ofNat 8 (b.toNat + 256 * ofBytesLE bs) = b := by
      apply BitVec.eq_of_toNat_eq; rw [BitVec.toNat_ofNat]; omega
    simp only [List.length_cons, toBytesLE, ofBytesLE, h1, h2, ih]

theorem ofBytesLE_take_mod (bs : List Byte) {n : Nat} (h : 1 ≤ n) : ofBytesLE (bs.take n) % 4 = ofBytesLE bs % 4 := by
  obtain ⟨n, rfl⟩ := Nat.exists_eq_add_of_le' h
  cases bs with
  | nil => rfl
  | cons b bs => simp only [List.take_succ_cons, ofBytesLE]; omega

/-- A word of a length that its low bits give is the word of its fields. -/
theorem Raw.toWord_ofWord {w : Nat} {n : Nat} (hn : lenBytes (w % 4) = n) (h0 : n ≠ 0) (h : w < 256 ^ n) :
    (Raw.ofWord w).len = n ∧ (Raw.ofWord w).toWord = w := by
  have hl : lenBytes (fieldOf w 0 2) = n := by simpa [fieldOf] using hn
  refine ⟨hl, ?_⟩
  simp only [Raw.ofWord, Raw.toWord, hl]
  have h4 : w % 4 < 4 := Nat.mod_lt _ (by decide)
  have hc : (w % 4 = 1 ∧ n = 8) ∨ (w % 4 = 2 ∧ n = 12) ∨ (w % 4 = 3 ∧ n = 16) := by
    generalize w % 4 = k at hn h4
    match k, h4 with
    | 0, _ => exact absurd hn.symm h0
    | 1, _ => exact .inl ⟨rfl, hn.symm⟩
    | 2, _ => exact .inr (.inl ⟨rfl, hn.symm⟩)
    | 3, _ => exact .inr (.inr ⟨rfl, hn.symm⟩)
  simp only [fieldOf]
  rcases hc with ⟨h1, rfl⟩ | ⟨h1, rfl⟩ | ⟨h1, rfl⟩ <;> omega

end Sys2Proof

namespace Sys2Proof.Machine

/-- Settles O54: the row that the fields select reads the operands back, and the fields are read back from the bytes. -/
theorem decodingUndoesEncoding : Obligations.DecodingUndoesEncoding := by
  intro i bs rest hw he
  simp only [encodeBytes, encode, Option.map_map, Option.map_eq_some_iff] at he
  obtain ⟨r, hr, rfl⟩ := he
  have hfit := encodeRaw_fits i r hw hr
  exact decode_of_raw i r rest hfit (decodeRaw_of_build i r hfit (build_encodeRaw i r hw hr) hw hr)

/-- Settles O55: the decoder's last check compares the fields with those that the instruction encodes to. -/
theorem decodedInstructionsAreWellFormed : Obligations.DecodedInstructionsAreWellFormed := by
  intro bs rest i h
  simp only [decode] at h
  split at h
  · cases h
  · next hlen =>
    simp only [Bool.or_eq_true, beq_iff_eq, decide_eq_true_eq, not_or, Nat.not_lt] at hlen
    generalize hn : lenBytes (ofBytesLE (bs.take 8) % 4) = n at h hlen
    cases hd : decodeRaw (Raw.ofWord (ofBytesLE (bs.take n))) with
    | error e => rw [hd] at h; cases h
    | ok j =>
      rw [hd] at h
      cases h
      obtain ⟨hw, he⟩ := decodeRaw_ok i _ hd
      have htake : (bs.take n).length = n := List.length_take_of_le hlen.2
      have hlt : ofBytesLE (bs.take n) < 256 ^ n := by simpa only [htake] using ofBytesLE_lt (bs.take n)
      have hmod : ofBytesLE (bs.take n) % 4 = ofBytesLE (bs.take 8) % 4 := by
        rw [ofBytesLE_take_mod _ (by omega), ofBytesLE_take_mod _ (by decide)]
      obtain ⟨h1, h2⟩ := Raw.toWord_ofWord (hmod ▸ hn) hlen.1 hlt
      refine ⟨hw, bs.take n, ?_, (List.take_append_drop n bs).symm⟩
      have hb := toBytesLE_ofBytesLE (bs.take n)
      rw [htake] at hb
      simp only [encodeBytes, encode, he, Option.map_some, h1, h2, hb]

end Sys2Proof.Machine
end

section
/-! PROOF. The comparisons and immediates of R108 and R109. -/

namespace Sys2Proof.Machine

/-- A row that `exec` hands to `compare`, with its condition in the words of the statement. -/
theorem givesCmp_of_compare {mk : CmpOp → Instr} {f : Word → Word → Bool} {g : Word → Word → Word}
    (hl : ∀ o, lenOf (mk o) = 8) (he : ∀ o s, exec (mk o) s = compare (mk o) o f s)
    (hf : ∀ a b, (if f a b then 1 else 0) = g a b) : GivesCmp mk g :=
  givesCmp_of_putS (f := fun a b => ofBool (f a b)) hl he hf

/-- A row of an immediate of 30 bits that `exec` hands to `immOp`. -/
theorem givesImm30_of_immOp {mk : Imm30Op → Instr} {f g : Word → Word → Word} (hl : ∀ o, lenOf (mk o) = 8)
    (he : ∀ o s, exec (mk o) s = immOp (mk o) o.d o.a (imm30 o.imm) f s) (hf : ∀ a b, f a b = g a b) :
    GivesImm30 mk g := by
  intro o s
  rw [he, immOp_eq, hl, hf, imm30]

/-- The same of an immediate of 62 bits. -/
theorem givesImm62_of_immOp {mk : Imm62Op → Instr} {f : Word → Word → Word} (hl : ∀ o, lenOf (mk o) = 12)
    (he : ∀ o s, exec (mk o) s = immOp (mk o) o.d o.a (imm62 o.imm) f s) : GivesImm62 mk f := by
  intro o s
  rw [he, immOp_eq, hl, imm62]

/-- A shift by an immediate that `exec` hands to `putS`; `g` is the same function of counts below 64. -/
theorem givesShift_of_putS {mk : ShiftOp → Instr} {f g : Word → Nat → Word} (hl : ∀ o, lenOf (mk o) = 8)
    (he : ∀ o s, exec (mk o) s = putS (mk o) s o.d fun c => f (c.rdS o.a) o.n.val)
    (hf : ∀ a, ∀ n < 64, f a n = g a n) : GivesShift mk g := by
  intro o s
  rw [he, putS_eq, hl, hf _ _ o.n.isLt]

/-- Settles O2: each row is its function of `compare`, `immOp` or `putS`. -/
theorem comparisonsAndImmediatesGiveTheirResults : Obligations.ComparisonsAndImmediatesGiveTheirResults := by
  unfold Obligations.ComparisonsAndImmediatesGiveTheirResults
  refine ⟨?seq, ?sne, ?slt, ?sltu, ?sle, ?sleu, ?csel, ?addi64, ?addi96, ?andi64, ?andi96, ?ori64, ?ori96, ?xori64,
    ?xori96, ?shli, ?shri, ?srai, ?roli, ?seqi, ?slti, ?sltui, ?li64, ?li96, ?li128⟩
  case seq => exact givesCmp_of_compare lenOf_seq exec_seq fun a b => by simp
  case sne => exact givesCmp_of_compare lenOf_sne exec_sne fun a b => by by_cases h : a = b <;> simp [h]
  case slt => exact givesCmp_of_compare lenOf_slt exec_slt fun a b => by simp
  case sltu => exact givesCmp_of_compare lenOf_sltu exec_sltu fun a b => by simp
  case sle => exact givesCmp_of_compare lenOf_sle exec_sle fun a b => by simp
  case sleu => exact givesCmp_of_compare lenOf_sleu exec_sleu fun a b => by simp
  case csel => intro o s; rw [exec_csel, execCsel, putS_eq, lenOf_csel]; simp
  case addi64 => exact givesImm30_of_immOp lenOf_addi64 exec_addi64 fun _ _ => rfl
  case addi96 => exact givesImm62_of_immOp lenOf_addi96 exec_addi96
  case andi64 => exact givesImm30_of_immOp lenOf_andi64 exec_andi64 fun _ _ => rfl
  case andi96 => exact givesImm62_of_immOp lenOf_andi96 exec_andi96
  case ori64 => exact givesImm30_of_immOp lenOf_ori64 exec_ori64 fun _ _ => rfl
  case ori96 => exact givesImm62_of_immOp lenOf_ori96 exec_ori96
  case xori64 => exact givesImm30_of_immOp lenOf_xori64 exec_xori64 fun _ _ => rfl
  case xori96 => exact givesImm62_of_immOp lenOf_xori96 exec_xori96
  case shli => exact givesShift_of_putS lenOf_shli exec_shli fun _ _ _ => rfl
  case shri =>
    exact givesShift_of_putS lenOf_shri exec_shri fun a n _ => by
      simpa using setWidth_shrN (Nat.le_refl 64) a n
  case srai =>
    exact givesShift_of_putS lenOf_srai exec_srai fun a n _ => by
      simpa using setWidth_sraN (by decide) (Nat.le_refl 64) a n
  case roli =>
    exact givesShift_of_putS lenOf_roli exec_roli fun a n h => by
      simpa using setWidth_rotl_eq_rotateLeft (Nat.le_refl 64) a h
  case seqi => exact givesImm30_of_immOp lenOf_seqi exec_seqi fun a b => by simp [ofBool]
  case slti => exact givesImm30_of_immOp lenOf_slti exec_slti fun a b => by simp [ofBool]
  case sltui => exact givesImm30_of_immOp lenOf_sltui exec_sltui fun a b => by simp [ofBool]
  case li64 => intro d imm s; rw [exec_li64, execLi64, putS_eq, lenOf_li64, imm30]
  case li96 => intro d imm s; rw [exec_li96, execLi96, putS_eq, lenOf_li96, imm62]
  case li128 => intro d imm s; rw [exec_li128, execLi128, putS_eq, lenOf_li128]

end Sys2Proof.Machine
end

section
/-! PROOF. The bit-field rows of R112 and `lea` of R38. -/

namespace Sys2Proof.Machine

/-! ## Counting bits -/

theorem foldl_add_eq_length_filter {α : Type} (l : List α) (f : α → Nat) (p : α → Bool)
    (h : ∀ x, f x = if p x then 1 else 0) (n : Nat) : (l.map f).foldl (· + ·) n = n + (l.filter p).length := by
  induction l generalizing n with
  | nil => rfl
  | cons x l ih => cases hp : p x <;> simp [ih, h, hp, Nat.add_assoc, Nat.add_comm 1]

theorem popBits_eq (w a : Nat) : popBits w a = ((List.range w).filter fun i => a.testBit i).length := by
  rw [popBits, foldl_add_eq_length_filter _ _ (fun i => a.testBit i) ?bit, Nat.zero_add]
  intro i
  rw [Nat.testBit_eq_decide_div_mod_eq]
  rcases Nat.mod_two_eq_zero_or_one (a / 2 ^ i) with h | h <;> simp [h]

theorem clzBits_le (w a : Nat) : clzBits w a ≤ w := by
  unfold clzBits; split <;> omega

theorem testBit_of_clzBits {w a i : Nat} (ha : a < 2 ^ w) (hi : i < w) (h : w - clzBits w a ≤ i) :
    a.testBit i = false := by
  unfold clzBits at h
  split at h
  next h0 => rw [eq_of_beq h0, Nat.zero_testBit]
  next h0 =>
    have h0 : a ≠ 0 := by simpa using h0
    have hl : a.log2 < w := (Nat.log2_lt h0).mpr ha
    exact Nat.testBit_lt_two_pow ((Nat.log2_lt h0).mp (by omega))

theorem testBit_clzBits {w a : Nat} (ha : a < 2 ^ w) (h : clzBits w a < w) : a.testBit (w - 1 - clzBits w a) = true := by
  unfold clzBits at h ⊢
  split at h
  next h0 => omega
  next h0 =>
    have h1 : a ≠ 0 := by simpa using h0
    have hl : a.log2 < w := (Nat.log2_lt h1).mpr ha
    rw [if_neg h0, show w - 1 - (w - 1 - a.log2) = a.log2 by omega]
    exact Nat.testBit_log2 h1

theorem ctzAux_le (n a : Nat) : ctzAux n a ≤ n := by
  induction n generalizing a with
  | zero => exact Nat.le_refl 0
  | succ n ih => have := ih (a / 2); unfold ctzAux; split <;> omega

theorem testBit_of_lt_ctzAux (n a i : Nat) (h : i < ctzAux n a) : a.testBit i = false := by
  induction n generalizing a i with
  | zero => exact absurd h (Nat.not_lt_zero i)
  | succ n ih =>
    unfold ctzAux at h
    split at h
    next => exact absurd h (Nat.not_lt_zero i)
    next h0 =>
      cases i with
      | zero => rw [Nat.testBit_zero]; simpa using h0
      | succ i => rw [Nat.testBit_succ]; exact ih _ _ (by omega)

theorem testBit_ctzAux (n a : Nat) (h : ctzAux n a < n) : a.testBit (ctzAux n a) = true := by
  induction n generalizing a with
  | zero => exact absurd h (Nat.not_lt_zero _)
  | succ n ih =>
    unfold ctzAux at h ⊢
    split at h
    next h0 => rw [if_pos h0, Nat.testBit_zero]; simpa using h0
    next h0 => rw [if_neg h0, Nat.add_comm, Nat.testBit_succ]; exact ih _ (by omega)

/-! ## Reversing -/

/-- The number whose bits below `n` are `p`. -/
def sumBits (n : Nat) (p : Nat → Bool) : Nat :=
  ((List.range n).map fun i => if p i then 2 ^ i else 0).foldl (· + ·) 0

theorem sumBits_succ (n : Nat) (p : Nat → Bool) : sumBits (n + 1) p = 2 ^ n * bit (p n) + sumBits n p := by
  simp only [sumBits, List.range_succ, List.map_append, List.foldl_append, List.map_cons, List.map_nil,
    List.foldl_cons, List.foldl_nil]
  cases p n <;> simp [bit, Nat.add_comm]

theorem sumBits_lt (n : Nat) (p : Nat → Bool) : sumBits n p < 2 ^ n := by
  induction n with
  | zero => simp [sumBits]
  | succ n ih => rw [sumBits_succ, Nat.pow_succ]; cases p n <;> simp [bit] <;> omega

theorem testBit_sumBits (n : Nat) (p : Nat → Bool) (i : Nat) : (sumBits n p).testBit i = (decide (i < n) && p i) := by
  induction n with
  | zero => simp [sumBits]
  | succ n ih =>
    rw [sumBits_succ, Nat.testBit_two_pow_mul_add _ (sumBits_lt n p), ih]
    rcases Nat.lt_trichotomy i n with h | rfl | h
    · simp [h, Nat.lt_succ_of_lt h]
    · cases p i <;> simp [bit]
    · have h1 : i - n = i - n - 1 + 1 := by omega
      have hb : (bit (p n)) / 2 = 0 := by cases p n <;> rfl
      rw [if_neg (by omega), h1, Nat.testBit_succ, hb, Nat.zero_testBit]
      simp [show ¬ i < n + 1 by omega]

theorem reverseBits_getLsbD (x : Word) {i : Nat} (h : i < 64) : (reverseBits x).getLsbD i = x.getLsbD (63 - i) := by
  have hs : reverseBits x = BitVec.ofNat 64 (sumBits 64 fun i => x.getLsbD (63 - i)) := rfl
  rw [hs, BitVec.getLsbD_ofNat, testBit_sumBits]
  simp [h]

/-- Byte `i` of a number of eight bytes is the one listed there. -/
theorem extractLsb'_ofBytesLE {bs : List Byte} (hb : bs.length = 8) {i : Nat} (h : i < 8) :
    (BitVec.ofNat 64 (ofBytesLE bs)).extractLsb' (8 * i) 8 = bs.getD i 0 := by
  have e := congrArg (fun l => l.getD i 0) (toBytesLE_ofBytesLE bs)
  simp only [toBytesLE_getD _ _ _ (hb ▸ h)] at e
  have hl : ofBytesLE bs % 2 ^ 64 = ofBytesLE bs := Nat.mod_eq_of_lt (by simpa [hb] using ofBytesLE_lt bs)
  rw [← e]
  apply BitVec.eq_of_toNat_eq
  rw [BitVec.extractLsb'_toNat, BitVec.toNat_ofNat, BitVec.toNat_ofNat, hl, Nat.shiftRight_eq_div_pow, Nat.pow_mul]

theorem toBytesLE_getD_eq (x : Word) {i : Nat} (h : i < 8) :
    (toBytesLE 8 x.toNat).getD i 0 = x.extractLsb' (8 * i) 8 := by
  rw [toBytesLE_getD _ _ _ h]
  apply BitVec.eq_of_toNat_eq
  rw [BitVec.extractLsb'_toNat, BitVec.toNat_ofNat, Nat.shiftRight_eq_div_pow, Nat.pow_mul]

theorem reverseBytes_extractLsb' (x : Word) {i : Nat} (h : i < 8) :
    (reverseBytes x).extractLsb' (8 * i) 8 = x.extractLsb' (8 * (7 - i)) 8 := by
  rw [reverseBytes, extractLsb'_ofBytesLE (by simp) h, ← toBytesLE_getD_eq x (by omega)]
  rw [List.getD_eq_getElem?_getD, List.getElem?_reverse (by simpa using h), toBytesLE_length,
    List.getD_eq_getElem?_getD]

/-! ## Fields -/

theorem sextN_getLsbD (x : Word) {w i : Nat} (hw : 1 ≤ w) (hw' : w ≤ 64) (hi : i < 64) :
    (sextN x w).getLsbD i = x.getLsbD (if i < w then i else w - 1) := by
  have e : sextN x w = (x.setWidth w).signExtend 64 := by
    rw [sextN, toSigned_mod_eq_toInt hw]; rfl
  rw [e, BitVec.getLsbD_signExtend, BitVec.msb_eq_getLsbD_last]
  by_cases h : i < w
  · simp [h, hi]
  · simp [h, hi, show w - 1 < w by omega]

theorem zextN_getLsbD (x : Word) {w i : Nat} (hi : i < 64) :
    (zextN x w).getLsbD i = (decide (i < w) && x.getLsbD i) := by
  rw [zextN, BitVec.getLsbD_ofNat, Nat.testBit_mod_two_pow]
  simp [hi, BitVec.getLsbD]

theorem fieldMask_getLsbD (w p : Nat) {i : Nat} (hi : i < 64) :
    (BitVec.ofNat 64 ((2 ^ w - 1) * 2 ^ p)).getLsbD i = (decide (p ≤ i) && decide (i < p + w)) := by
  rw [BitVec.getLsbD_ofNat, Nat.testBit_mul_two_pow, Nat.testBit_two_pow_sub_one]
  by_cases h : p ≤ i
  · simp [hi, h]; omega
  · simp [h]

/-- A row of one operand that `exec` hands to `unary`. -/
theorem givesUn_of_unary {mk : UnOp → Instr} {f : Word → Word} {p : Word → Word → Prop} (hl : ∀ o, lenOf (mk o) = 8)
    (he : ∀ o s, exec (mk o) s = unary (mk o) o f s) (hf : ∀ a, p a (f a)) : GivesUn mk p := by
  intro o s
  exact ⟨f (s.core.rdS o.a), hf _, by rw [he, unary_eq, hl]⟩

theorem toNat_ofNat_of_le_64 {n : Nat} (h : n ≤ 64) : (BitVec.ofNat 64 n).toNat = n := by
  rw [BitVec.toNat_ofNat, Nat.mod_eq_of_lt (by omega)]

/-- Settles O5: each row's bits are those that its function of numbers gives. -/
theorem bitFieldRowsGiveTheirBits : Obligations.BitFieldRowsGiveTheirBits := by
  unfold Obligations.BitFieldRowsGiveTheirBits
  refine ⟨?clz, ?ctz, ?popc, ?brev, ?bswap, ?sext, ?zext, ?bext, ?bins, ?lea⟩
  case clz =>
    refine givesUn_of_unary lenOf_clz exec_clz fun a => ?_
    rw [toNat_ofNat_of_le_64 (clzBits_le _ _)]
    exact ⟨clzBits_le _ _, fun i hi h => testBit_of_clzBits a.isLt hi h, fun h => testBit_clzBits a.isLt h⟩
  case ctz =>
    refine givesUn_of_unary lenOf_ctz exec_ctz fun a => ?_
    rw [toNat_ofNat_of_le_64 (ctzAux_le _ _)]
    exact ⟨ctzAux_le _ _, fun i hi => testBit_of_lt_ctzAux _ _ i hi, fun h => testBit_ctzAux _ _ h⟩
  case popc =>
    refine givesUn_of_unary lenOf_popc exec_popc fun a => ?_
    rw [popBits_eq]
    exact toNat_ofNat_of_le_64 (Nat.le_trans (List.length_filter_le _ _) (by simp))
  case brev => exact givesUn_of_unary lenOf_brev exec_brev fun a _ hi => reverseBits_getLsbD a hi
  case bswap => exact givesUn_of_unary lenOf_bswap exec_bswap fun a _ hi => reverseBytes_extractLsb' a hi
  case sext =>
    intro o s h1 h64 a
    exact ⟨_, fun i hi => sextN_getLsbD a h1 h64 hi, by rw [exec_sext, execSext, putS_eq, lenOf_sext]⟩
  case zext =>
    intro o s _ a
    exact ⟨_, fun i hi => zextN_getLsbD a hi, by rw [exec_zext, execZext, putS_eq, lenOf_zext]⟩
  case bext =>
    intro o s _ a
    refine ⟨_, fun i hi => ?_, by rw [exec_bext, execBext, putS_eq, lenOf_bext]⟩
    rw [zextN_getLsbD _ hi, BitVec.getLsbD_ushiftRight]
  case bins =>
    intro o s _ a
    refine ⟨_, fun i hi => ?_, by rw [exec_bins, execBins, putS_eq, lenOf_bins]⟩
    simp only [BitVec.getLsbD_or, BitVec.getLsbD_and, BitVec.getLsbD_not, BitVec.getLsbD_shiftLeft,
      fieldMask_getLsbD _ _ hi]
    by_cases h1 : o.pos.val ≤ i <;> by_cases h2 : i < o.pos.val + o.width <;> simp [hi, h1, h2, a]
  case lea => intro o s; rw [exec_lea, execLea, putS_eq, lenOf_lea]

end Sys2Proof.Machine
end

section
/-! PROOF. Loads, stores and atomics of the local store (R113 to R117). -/

namespace Sys2Proof.Machine

/-! ## Values -/

theorem toSigned_mod (w x : Nat) : toSigned w (x % 2 ^ w) = toSigned w x := by simp only [toSigned, Nat.mod_mod]

theorem sextN_ofNat {w : Nat} (h : w ≤ 64) (x : Nat) : sextN (BitVec.ofNat 64 x) w = BitVec.ofInt 64 (toSigned w x) := by
  rw [sextN, BitVec.toNat_ofNat, Nat.mod_mod_of_dvd _ (Nat.pow_dvd_pow 2 h), toSigned_mod]

theorem size_bits_le_64 (z : Size) : 8 * z.bytes ≤ 64 := by cases z <;> decide

theorem extend_eq (z : Size) (u : Bool) (x : Nat) :
    extend z u x = if u then BitVec.ofNat 64 x else BitVec.ofInt 64 (toSigned (8 * z.bytes) x) := by
  rw [extend, sextN_ofNat (size_bits_le_64 z)]

theorem amoResult_eq (z : Size) (m : Nat) : amoResult z.bytes m = BitVec.ofInt 64 (toSigned (8 * z.bytes) m) := by
  rw [amoResult, sextN_ofNat (size_bits_le_64 z)]

/-! ## Accesses that pass their checks -/

theorem Core.accessOk.loadTrap {c : Core} {w : WaitSel} {ea : Word} {n : Nat} (h : c.accessOk w ea n)
    (hb : c.badIn ea.toNat n = none) : c.loadTrap ea n = none := by
  obtain ⟨_, hok, hal⟩ := h
  exact (c.loadTrap_none ea n).mpr ⟨hok, hal, hb⟩

theorem Core.accessOk.storeTrap {c : Core} {w : WaitSel} {ea : Word} {n : Nat} (h : c.accessOk w ea n)
    (hb : c.mergesBad ea.toNat n = false) : c.storeTrap ea n = none := by
  obtain ⟨_, hok, hal⟩ := h
  exact (c.storeTrap_none ea n).mpr ⟨hok, hal, hb⟩

/-- Settles O6: a load that passes its checks gives its extended bytes. -/
theorem loadsGiveTheirBytes : Obligations.LoadsGiveTheirBytes := by
  constructor
  · intro o s n ea x hok hb
    rw [exec_ld, execLd, afterWait_met _ _ _ hok.1, loadWith_eq _ _ _ _ _ (hok.loadTrap hb), lenOf_ld]
    simp only [extend_eq]
    rfl
  · intro o s ea hok hb
    rw [exec_fld, execFld, afterWait_met _ _ _ hok.1, loadWith_eq _ _ _ _ _ (hok.loadTrap hb), lenOf_fld]

/-- Settles O7: a store that passes its checks writes the low bytes of its register. -/
theorem storesWriteTheirBytes : Obligations.StoresWriteTheirBytes := by
  constructor
  · intro o s n ea hok hb
    rw [exec_st, execSt, afterWait_met _ _ _ hok.1, storeWith_eq _ _ _ _ _ (hok.storeTrap hb), lenOf_st]
    rfl
  · intro o s ea hok hb
    rw [exec_fst, execFst, afterWait_met _ _ _ hok.1, storeWith_eq _ _ _ _ _ (hok.storeTrap hb), lenOf_fst]
    rfl

/-! ## Bytes written and read -/

/-- Byte `b` of a little-endian number is the one listed there. -/
theorem ofBytesLE_div_mod (bs : List Byte) (b : Nat) : ofBytesLE bs / 256 ^ b % 256 = (bs.getD b 0).toNat := by
  induction bs generalizing b with
  | nil => simp [ofBytesLE]
  | cons x bs ih =>
    have hx := x.isLt
    cases b with
    | zero => simp only [ofBytesLE, List.getD_cons_zero]; omega
    | succ b =>
      rw [List.getD_cons_succ, ← ih, Nat.pow_succ', ← Nat.div_div_eq_div_mul, ofBytesLE]
      congr 2
      omega

/-- Settles O8: the rules of the cells say which byte is read, and a store changes the fields that it writes. -/
theorem storedBytesAreReadBack : Obligations.StoredBytesAreReadBack := by
  intro c a n x b
  refine ⟨Memory.read_writeN c.ls a n x b, fun hb => ?_, rfl⟩
  rw [Memory.readN, ofBytesLE_div_mod, Memory.readBytes_getD _ _ _ _ hb]

/-! ## Atomics -/

/-- An atomic that always writes: its new word is that of `amoNew`. -/
theorem givesAmo_of_lamo {mk : LamoOp → Instr} {k : AmoKind} {new : Nat → Nat → Nat → Nat}
    (hl : ∀ o, lenOf (mk o) = 8) (he : ∀ o s, exec (mk o) s = lamo (mk o) k o s)
    (hk : ∀ n m v x, amoNew k n m v x = some (new (8 * n) m v)) : GivesAmo mk new := by
  intro o s n ea m v hok hb
  rw [he, lamo_eq _ _ _ _ hok.1 (hok.loadTrap hb), hl]
  simp only [hk, amoResult_eq]
  rfl

/-- Settles O9: each atomic is its kind of `lamo`; `cas` writes where the old word equals its operand. -/
theorem localAtomicsReadAndWrite : Obligations.LocalAtomicsReadAndWrite := by
  refine ⟨?add, ?and, ?or, ?xor, ?min, ?max, ?minu, ?maxu, ?swp, ?cas⟩
  case add => exact givesAmo_of_lamo lenOf_lamoAdd exec_lamoAdd fun _ _ _ _ => rfl
  case and => exact givesAmo_of_lamo lenOf_lamoAnd exec_lamoAnd fun _ _ _ _ => rfl
  case or => exact givesAmo_of_lamo lenOf_lamoOr exec_lamoOr fun _ _ _ _ => rfl
  case xor => exact givesAmo_of_lamo lenOf_lamoXor exec_lamoXor fun _ _ _ _ => rfl
  case min => exact givesAmo_of_lamo lenOf_lamoMin exec_lamoMin fun _ _ _ _ => rfl
  case max => exact givesAmo_of_lamo lenOf_lamoMax exec_lamoMax fun _ _ _ _ => rfl
  case minu => exact givesAmo_of_lamo lenOf_lamoMinu exec_lamoMinu fun _ _ _ _ => rfl
  case maxu => exact givesAmo_of_lamo lenOf_lamoMaxu exec_lamoMaxu fun _ _ _ _ => rfl
  case swp => exact givesAmo_of_lamo lenOf_lamoSwp exec_lamoSwp fun _ _ _ _ => rfl
  case cas =>
    intro o s n ea m hok hb
    rw [exec_lamoCas, execLamoCas, lamo_eq _ _ _ _ hok.1 (hok.loadTrap hb), lenOf_lamoCas]
    simp only [amoNew, amoResult_eq, State.retires, State.mapCore]
    by_cases h : m = (s.core.rdS o.b).toNat % 2 ^ (8 * n)
    · have h' : (m == (s.core.rdS o.b).toNat % 2 ^ (8 * n)) = true := by simpa using h
      rw [if_pos h]
      simp only [m, n, ea] at h'
      simp only [Core.eaOff, h', if_true]
      rfl
    · have h' : (m == (s.core.rdS o.b).toNat % 2 ^ (8 * n)) = false := by simpa using h
      rw [if_neg h]
      simp only [m, n, ea] at h'
      simp only [Core.eaOff, h', Bool.false_eq_true, if_false]
      rfl

/-! ## The checks and their traps -/

/-- An access that ends with the trap of its checks takes the trap that they name, in the order of R113. -/
theorem checksAccess_of_trap {i : Instr} {w : WaitSel} {ea : Word} {n bounds : Nat} {bad : Bool} {tval : Word} {s : State}
    {trap : Option Trap}
    (he : s.core.waitOk w = true → ∀ x, trap = some x → exec i s = raise x s)
    (ht : (s.core.okAccess ea.toNat n = false → trap = some ⟨bounds, ea⟩) ∧
      (s.core.okAccess ea.toNat n = true → ea.toNat % n ≠ 0 → trap = some ⟨causeMisalign, ea⟩) ∧
      (s.core.okAccess ea.toNat n = true → ea.toNat % n = 0 → bad = true → trap = some ⟨causeEccLocal, tval⟩)) :
    ChecksAccess i w ea n bounds bad tval s := by
  obtain ⟨hbounds, halign, hbad⟩ := ht
  refine ⟨fun hw ho => ⟨fun h => ?_, fun h h' => ?_⟩, fun hw ho h h' h'' => ?_⟩
  · rw [he hw _ (hbounds h), raise_eq _ _ ho]
  · rw [he hw _ (halign h h'), raise_eq _ _ ho]; rfl
  · rw [he hw _ (hbad h h' h''), raise_eq _ _ ho]; rfl

theorem checksAccess_load {i : Instr} {w : WaitSel} {ea : Word} {n : Nat} {s : State}
    (he : s.core.waitOk w = true → ∀ x, s.core.loadTrap ea n = some x → exec i s = raise x s) :
    ChecksAccess i w ea n 0x04 (s.core.badIn ea.toNat n).isSome ea s :=
  checksAccess_of_trap he (s.core.loadTrap_some ea n)

/-- The address of the granule of an address. -/
theorem granule_eq (ea : Word) : ea &&& ~~~7#64 = BitVec.ofNat 64 (ea.toNat / 8 * 8) := by
  have h7 : 7 = 2 ^ 3 - 1 := rfl
  have h8 : 8 = 2 ^ 3 := rfl
  apply BitVec.eq_of_getLsbD_eq
  intro i hi
  rw [BitVec.getLsbD_and, BitVec.getLsbD_not, BitVec.getLsbD_ofNat, BitVec.getLsbD_ofNat, h7,
    Nat.testBit_two_pow_sub_one, h8, Nat.testBit_mul_two_pow, Nat.testBit_div_two_pow]
  by_cases h : 3 ≤ i
  · simp [hi, h, Nat.not_lt.mpr h, BitVec.getLsbD, Nat.sub_add_cancel h]
  · simp [hi, h, Nat.lt_of_not_le h]

theorem checksAccess_store {i : Instr} {w : WaitSel} {ea : Word} {n : Nat} {s : State}
    (he : s.core.waitOk w = true → ∀ x, s.core.storeTrap ea n = some x → exec i s = raise x s) :
    ChecksAccess i w ea n 0x05 (s.core.mergesBad ea.toNat n) (BitVec.ofNat 64 (ea.toNat / 8 * 8)) s := by
  rw [← granule_eq]
  exact checksAccess_of_trap he (s.core.storeTrap_some ea n)

theorem lamo_trap (i : Instr) (k : AmoKind) (o : LamoOp) (s : State) (x : Trap) (hw : s.core.waitOk o.wt = true)
    (h : s.core.loadTrap (s.core.eaOff o.a o.off) o.size.bytes = some x) : lamo i k o s = raise x s := by
  simp only [lamo, afterWait_met _ _ _ hw, h]

theorem exec_lamo_of_mem {o : LamoOp} {mk : LamoOp → Instr}
    (h : mk ∈ [Instr.lamoAdd, .lamoAnd, .lamoOr, .lamoXor, .lamoMin, .lamoMax, .lamoMinu, .lamoMaxu, .lamoSwp, .lamoCas]) :
    ∃ k, ∀ s, exec (mk o) s = lamo (mk o) k o s := by
  simp only [List.mem_cons, List.not_mem_nil, or_false] at h
  rcases h with rfl | rfl | rfl | rfl | rfl | rfl | rfl | rfl | rfl | rfl
  · exact ⟨_, exec_lamoAdd o⟩
  · exact ⟨_, exec_lamoAnd o⟩
  · exact ⟨_, exec_lamoOr o⟩
  · exact ⟨_, exec_lamoXor o⟩
  · exact ⟨_, exec_lamoMin o⟩
  · exact ⟨_, exec_lamoMax o⟩
  · exact ⟨_, exec_lamoMinu o⟩
  · exact ⟨_, exec_lamoMaxu o⟩
  · exact ⟨_, exec_lamoSwp o⟩
  · exact ⟨_, exec_lamoCas o⟩

theorem Core.okAccess_iff (c : Core) (a n : Nat) : c.okAccess a n = true ↔
    a + n ≤ 0x140000 ∧ (c.status.pl = .user → c.trap.ubase.toNat ≤ a ∧ a + n ≤ c.trap.ulimit.toNat) := by
  have hl : lsSize = 0x140000 := rfl
  simp only [Core.okAccess, inStore, Core.isUser, Bool.and_eq_true, Bool.or_eq_true, Bool.not_eq_true',
    decide_eq_true_eq, hl]
  by_cases h : c.status.pl = .user <;> simp [h]

/-- Settles O10: an access that its checks refuse raises their trap, and an 8-byte store merges nothing. -/
theorem accessChecksTrapInOrder : Obligations.AccessChecksTrapInOrder := by
  refine ⟨fun s => ⟨fun o => ?ld, fun o => ⟨?fld, ?fst⟩, fun o => ?st, fun o mk hmk => ?lamo⟩, Core.okAccess_iff⟩
  case ld =>
    refine checksAccess_load fun hw x hx => ?_
    rw [exec_ld, execLd, afterWait_met _ _ _ hw, loadWith_trap _ _ _ _ _ _ hx]
  case fld =>
    refine checksAccess_load fun hw x hx => ?_
    rw [exec_fld, execFld, afterWait_met _ _ _ hw, loadWith_trap _ _ _ _ _ _ hx]
  case fst =>
    refine (checksAccess_store fun hw x hx => ?_).1
    rw [exec_fst, execFst, afterWait_met _ _ _ hw, storeWith_trap _ _ _ _ _ _ hx]
  case st =>
    refine checksAccess_store fun hw x hx => ?_
    rw [exec_st, execSt, afterWait_met _ _ _ hw, storeWith_trap _ _ _ _ _ _ hx]
  case lamo =>
    obtain ⟨k, hk⟩ := exec_lamo_of_mem (o := o) hmk
    exact checksAccess_load fun hw x hx => by rw [hk]; exact lamo_trap _ _ _ _ _ hw hx

end Sys2Proof.Machine
end

section
/-! PROOF. Branches, jumps, synchronisation, the entry of a trap and the return from one (R27, R29 to R32, R129 to R136). -/

namespace Sys2Proof.Machine

/-! ## Branches and jumps -/

theorem shiftLeft_two_eq (x : Word) : x <<< 2 = 4 * x := by
  apply BitVec.eq_of_toNat_eq
  rw [BitVec.toNat_shiftLeft, BitVec.toNat_mul, Nat.shiftLeft_eq, Nat.mul_comm]
  rfl

/-- A row that `exec` hands to `branch`, with its condition in the words of the statement. -/
theorem branches_of_branch {mk : BrOp → Instr} {f : Word → Word → Bool} {cond : Word → Word → Prop}
    (he : ∀ o s, exec (mk o) s = branch o f s) (hf : ∀ a b, f a b = true ↔ cond a b) : Branches mk cond := by
  intro o s c
  rw [he, branch_eq]
  refine ⟨fun h => ?taken, fun h => ?notTaken⟩
  case taken => rw [State.mapCore, if_pos ((hf _ _).mpr h), imm30, shiftLeft_two_eq]
  case notTaken => rw [State.mapCore, if_neg fun h' => h ((hf _ _).mp h')]

/-- Settles O11: each branch is `branch` of its condition, and each jump `jump` of its target. -/
theorem branchesAndJumpsSetThePc : Obligations.BranchesAndJumpsSetThePc := by
  refine ⟨?beq, ?bne, ?blt, ?bge, ?bltu, ?bgeu, ?jal64, ?jalAbs, ?jalr⟩
  case beq => exact branches_of_branch exec_beq fun _ _ => beq_iff_eq
  case bne => exact branches_of_branch exec_bne fun _ _ => bne_iff_ne
  case blt => exact branches_of_branch exec_blt fun _ _ => decide_eq_true_iff
  case bge => exact branches_of_branch exec_bge fun _ _ => decide_eq_true_iff
  case bltu => exact branches_of_branch exec_bltu fun _ _ => decide_eq_true_iff
  case bgeu => exact branches_of_branch exec_bgeu fun _ _ => decide_eq_true_iff
  case jal64 => intro d off s; rw [exec_jal64, execJal64, jump_eq]; simp only [imm30, shiftLeft_two_eq]; rfl
  case jalAbs => intro d imm s; rw [exec_jalAbs, execJalAbs, jump_eq]; rfl
  case jalr => intro o s; rw [exec_jalr, execJalr, jump_eq]; rfl

/-! ## `nop`, `isync` and `wfe` -/

theorem Core.isDebug_iff (c : Core) : c.isDebug = true ↔ c.status.pl = .debug := beq_iff_eq
theorem Core.isUser_iff (c : Core) : c.isUser = true ↔ c.status.pl = .user := beq_iff_eq

theorem Core.isDebug_eq_false (c : Core) : c.isDebug = false ↔ c.status.pl ≠ .debug := by
  rw [Ne, ← c.isDebug_iff, Bool.not_eq_true]
theorem Core.isUser_eq_false (c : Core) : c.isUser = false ↔ c.status.pl ≠ .user := by
  rw [Ne, ← c.isUser_iff, Bool.not_eq_true]

/-- Settles O12: `isync` and `wfe` by their conditions, and a retirement by its equation. -/
theorem nopIsyncAndWfe : Obligations.NopIsyncAndWfe := by
  refine ⟨fun s => ⟨?nop64, ?nop96, ?nop128, fun h => ?isync, fun h hl => ?latched, fun h hl => ?waits, fun h => ?debug⟩,
    fun c pc => c.retireTo_eq pc⟩
  case nop64 => rw [exec_nop64, execNop64, doneIn_eq, lenOf_nop64]
  case nop96 => rw [exec_nop96, execNop96, doneIn_eq, lenOf_nop96]
  case nop128 => rw [exec_nop128, execNop128, doneIn_eq, lenOf_nop128]
  case isync => rw [exec_isync, execIsync, h, if_neg Bool.false_ne_true, done_eq, lenOf_isync]; rfl
  case latched =>
    rw [exec_wfe, execWfe, (Core.isDebug_eq_false _).mpr h, if_neg Bool.false_ne_true, if_pos hl, done_eq, lenOf_wfe]
  case waits =>
    rw [exec_wfe, execWfe, (Core.isDebug_eq_false _).mpr h, hl, if_neg Bool.false_ne_true, if_neg Bool.false_ne_true,
      waiting_eq]
  case debug => rw [exec_wfe, execWfe, if_pos ((Core.isDebug_iff _).mpr h), doneIn_eq, lenOf_wfe]

/-! ## Traps and the return from them -/

/-- Settles O14: the entry and the debug stop are what `takeTrap` chooses by the level. -/
theorem trapEntrySavesAndRedirects : Obligations.TrapEntrySavesAndRedirects := by
  intro c cause tval epc
  exact ⟨fun h => c.takeTrap_enter _ _ h, fun h => c.takeTrap_debug _ _ h⟩

/-- What `kret` leaves before it resumes a loop. -/
def Core.returned (c : Core) : Core := c.syncFetch.restore.retireTo c.trap.epc

theorem execKret_eq (s : State) (h : s.core.status.pl = .kernel) (hb : s.core.resumeBlocked = false) :
    execKret s = .next (s.mapCore fun c => c.returned.resumeLoop) := by
  have hd : s.core.isDebug = false := (Core.isDebug_eq_false _).mpr (by simp [h])
  have hu : s.core.isUser = false := (Core.isUser_eq_false _).mpr (by simp [h])
  simp only [execKret, hd, hu, hb, Bool.false_eq_true, if_false]
  rfl

/-- A loop's record at another address is dropped. -/
theorem Core.resumeLoop_none (c : Core) (h : ∀ r, c.vec.resume = some r → c.pc ≠ r.at_) :
    c.resumeLoop = { c with vec := { c.vec with resume := none } } := by
  obtain hr | ⟨r, hr⟩ : c.vec.resume = none ∨ ∃ r, c.vec.resume = some r := by cases c.vec.resume <;> simp
  · simp only [Core.resumeLoop, hr]
    rw [← hr]
  · have hne : (c.pc == r.at_) = false := by simpa using h r hr
    simp only [Core.resumeLoop, hr, hne, Bool.false_eq_true, if_false]

/-- A record at the pc enters the rest of its loop, behind whose body the core goes on. -/
theorem Core.resumeLoop_some (c : Core) (r : ResumeRec) (hr : c.vec.resume = some r) (h : c.pc = r.at_) :
    ∃ slots, c.resumeLoop =
      { ({ c with vec := { c.vec with resume := none } }).enqueue r.entry slots with
        pc := bodyEnd r.body c.pc, instret := c.instret + 1, trans := { c.trans with i := c.trans.i + 1 } } := by
  refine ⟨(restSlots r.entry r.left).slots, ?_⟩
  have he : (c.pc == r.at_) = true := by simpa using h
  simp only [Core.resumeLoop, hr, he, if_true]
  rfl

/-- Settles O15: the returned core keeps what `kret` does not name, with or without a loop to resume. -/
theorem kretRestores : Obligations.KretRestores := by
  intro s
  refine ⟨fun h hb => ⟨s.mapCore fun c => c.returned.resumeLoop, by rw [exec_kret, execKret_eq s h hb], ?_⟩,
    fun h ho => ?user, fun h ho => ?debug⟩
  case user =>
    have hd : s.core.isDebug = false := (Core.isDebug_eq_false _).mpr (by simp [h])
    rw [exec_kret, execKret, hd, if_neg Bool.false_ne_true, if_pos ((Core.isUser_iff _).mpr h), raise_eq _ _ ho]
    rfl
  case debug =>
    rw [exec_kret, execKret, if_pos ((Core.isDebug_iff _).mpr h), raise_eq _ _ ho]
    rfl
  have hc : s.core.returned = { s.core with
      pc := s.core.trap.epc, instret := s.core.instret + 1, stepping := false, ir := none
      trans := { s.core.trans with i := s.core.trans.i + 1 }, run := s.core.returned.run
      stale := (s.core.stale.filter fun x => !x.settled).map fun x => { x with bytes := x.synced }
      status := { s.core.status with pl := if s.core.status.ppl then .kernel else .user, ie := s.core.status.pie } } := by
    rw [Core.returned, Core.retireTo_eq]; rfl
  generalize s.core.returned.run = run at hc
  simp only [State.mapCore_core]
  by_cases hr : ∃ r, s.core.vec.resume = some r ∧ s.core.trap.epc = r.at_
  · obtain ⟨r, hr, hat⟩ := hr
    obtain ⟨slots, e⟩ := s.core.returned.resumeLoop_some r (by rw [hc]; exact hr) (by rw [hc]; exact hat)
    rw [e, hc]
    refine ⟨rfl, rfl, rfl, rfl, rfl, rfl, fun hno => absurd hat (hno r hr), fun r' hr' _ => ?_⟩
    obtain rfl : r = r' := Option.some.inj (hr.symm.trans hr')
    exact ⟨rfl, by rw [BitVec.add_assoc]; rfl, rfl⟩
  · have hno : ∀ r, s.core.vec.resume = some r → s.core.trap.epc ≠ r.at_ := fun r h h' => hr ⟨r, h, h'⟩
    rw [s.core.returned.resumeLoop_none (by rw [hc]; exact hno), hc]
    exact ⟨rfl, rfl, rfl, rfl, rfl, rfl, fun _ => ⟨rfl, rfl, rfl⟩, fun r h h' => absurd h' (hno r h)⟩

end Sys2Proof.Machine
end

section
/-! PROOF. Scalar floating point (R118 to R128): the rows as they commit their results, sign injection and classes. -/

namespace Sys2Proof.Machine

/-- A row that `exec` hands to `toF` writes the result and raises its flags, or traps. -/
theorem givesF_of_toF {i : Instr} {d : FReg} {r : Core → Word × Flags} (hl : lenOf i = 8)
    (he : ∀ s, exec i s = toF i d (r s.core) s) : GivesF i d r := by
  intro s
  rw [he, toF]
  exact ⟨fun h => by rw [commitF_eq _ _ _ _ h, hl], fun h ho => commitF_trap _ _ _ _ h ho⟩

/-- The same of a row that `exec` hands to `toS`. -/
theorem givesS_of_toS {i : Instr} {d : SReg} {r : Core → Word × Flags} (hl : lenOf i = 8)
    (he : ∀ s, exec i s = toS i d (r s.core) s) : GivesS i d r := by
  intro s
  rw [he, toS]
  exact ⟨fun h => by rw [commitF_eq _ _ _ _ h, hl], fun h ho => commitF_trap _ _ _ _ h ho⟩

/-- Settles O17: the results of the rows, as the model computes them, are those of the statement. -/
theorem floatArithmeticRoundsOnce : Obligations.FloatArithmeticRoundsOnce := by
  refine ⟨fun o => ⟨?fadd, ?fsub, ?fmul, ?fdiv⟩, fun o => ⟨?fsqrt, ?fround⟩, fun o => ⟨?fma, ?fms, ?fnma, ?fnms⟩,
    fun o => ⟨?fcvtLD, ?fcvtLuD⟩, fun o => ⟨?fcvtDL, ?fcvtDLu⟩, fun o => ?fcvtSD⟩
  case fadd => exact givesF_of_toF (lenOf_fadd o) (exec_fadd o)
  case fsub => exact givesF_of_toF (lenOf_fsub o) (exec_fsub o)
  case fmul => exact givesF_of_toF (lenOf_fmul o) (exec_fmul o)
  case fdiv => exact givesF_of_toF (lenOf_fdiv o) (exec_fdiv o)
  case fsqrt => exact givesF_of_toF (lenOf_fsqrt o) (exec_fsqrt o)
  case fround => exact givesF_of_toF (lenOf_fround o) (exec_fround o)
  case fma => exact givesF_of_toF (lenOf_fma o) (exec_fma o)
  case fms => exact givesF_of_toF (lenOf_fms o) (exec_fms o)
  case fnma => exact givesF_of_toF (lenOf_fnma o) (exec_fnma o)
  case fnms => exact givesF_of_toF (lenOf_fnms o) (exec_fnms o)
  case fcvtLD => exact givesS_of_toS (lenOf_fcvtLD o) (exec_fcvtLD o)
  case fcvtLuD => exact givesS_of_toS (lenOf_fcvtLuD o) (exec_fcvtLuD o)
  case fcvtDL => exact givesF_of_toF (lenOf_fcvtDL o) (exec_fcvtDL o)
  case fcvtDLu => exact givesF_of_toF (lenOf_fcvtDLu o) (exec_fcvtDLu o)
  case fcvtSD => exact givesF_of_toF (lenOf_fcvtSD o) (exec_fcvtSD o)

/-! ## Rows without flags -/

theorem Core.orFlags_zero (c : Core) : c.orFlags 0 = c := by
  unfold Core.orFlags
  rw [show c.fp.flags ||| 0 = c.fp.flags from BitVec.or_zero]

/-- A row that raises no flag never traps. -/
theorem commitF_zero (i : Instr) (s : State) (w : Core → Core) : commitF i s 0 w = done i s w := by
  rw [commitF_eq i s 0 w BitVec.zero_and, done_eq]
  simp only [Core.orFlags_zero]

/-! ## Comparisons -/

theorem ofNat_bit (b : Bool) : BitVec.ofNat 64 (bit b) = if b then 1 else 0 := by cases b <;> rfl

theorem Core.fcmp_eq (c : Core) (o : FCmpOp) (k : CmpKind) :
    let r := fCompare k (fp64Fmt.decode (c.rdF o.a).toNat) (fp64Fmt.decode (c.rdF o.b).toNat)
    c.fcmp o k = (if r.1 then 1 else 0, r.2) := by
  simp only [Core.fcmp, ofNat_bit]

/-! ## Signs -/

/-- The bits of a datum whose sign is `b` and whose other bits are those of `x`. -/
theorem withSign_getLsbD (x : Word) (b : Bool) {i : Nat} (hi : i < 64) :
    (BitVec.ofNat 64 (x.toNat % 2 ^ 63 + bit b * 2 ^ 63)).getLsbD i = if i = 63 then b else x.getLsbD i := by
  rw [BitVec.getLsbD_ofNat, Nat.add_comm, Nat.mul_comm,
    Nat.testBit_two_pow_mul_add _ (Nat.mod_lt _ (Nat.two_pow_pos 63)), Nat.testBit_mod_two_pow]
  by_cases h : i = 63
  · subst h; cases b <;> rfl
  · have h' : i < 63 := by omega
    simp [hi, h, h', BitVec.getLsbD]

theorem signMask_getLsbD {i : Nat} (hi : i < 64) : (0x8000000000000000 : Word).getLsbD i = decide (i = 63) := by
  have h : (0x8000000000000000 : Word) = BitVec.ofNat 64 (2 ^ 63) := rfl
  rw [h, BitVec.getLsbD_ofNat, Nat.testBit_two_pow]
  simp [hi, eq_comm]

/-- A sign injection's value, from the bits of a word `y` whose bit 63 is the new sign and whose others are those of the
first operand. -/
theorem Core.fsign_eq (c : Core) (o : FBit3) (f : Bool → Bool → Bool) (y : Word)
    (h : ∀ i < 64, y.getLsbD i =
      if i = 63 then f ((c.rdF o.a).getLsbD 63) ((c.rdF o.b).getLsbD 63) else (c.rdF o.a).getLsbD i) : c.fsign o f = y :=
  BitVec.eq_of_getLsbD_eq fun i hi => by rw [h i hi]; exact withSign_getLsbD _ _ hi

/-! ## Classes -/

/-- The bit that `fclass` sets, from the fields of the datum. -/
def fclassOf (e : BitVec 11) (m : BitVec 52) (neg : Bool) : Nat :=
  if e = 2047 then (if m = 0 then (if neg then 0 else 7) else if m.getLsbD 51 = false then 8 else 9)
  else if e = 0 then (if m = 0 then (if neg then 3 else 4) else if neg then 2 else 5)
  else if neg then 1 else 6

theorem lt_two_pow_51_iff (m : BitVec 52) : m.toNat < 2 ^ 51 ↔ m.getLsbD 51 = false := by
  have h := m.isLt
  rw [BitVec.getLsbD, Nat.testBit_eq_decide_div_mod_eq, decide_eq_false_iff_not]
  omega

theorem fclassBits_eq (x : Word) :
    fclassBits x = BitVec.ofNat 64 (2 ^ fclassOf (x.extractLsb' 52 11) (x.extractLsb' 0 52) (x.getLsbD 63)) := by
  have he (k : BitVec 11) : (x.extractLsb' 52 11).toNat = k.toNat ↔ x.extractLsb' 52 11 = k :=
    ⟨fun h => BitVec.eq_of_toNat_eq h, congrArg _⟩
  have hm : (x.extractLsb' 0 52).toNat = 0 ↔ x.extractLsb' 0 52 = 0 := (eq0_iff _).symm
  have h2047 := he 2047
  have h0 := he 0
  simp only [fclassBits, fieldOf_ext, beq_iff_eq, lt_two_pow_51_iff, hm]
  rw [show BitVec.toNat (2047 : BitVec 11) = 2047 from rfl] at h2047
  rw [show BitVec.toNat (0 : BitVec 11) = 0 from rfl] at h0
  simp only [h2047, h0, fclassOf]

/-- Which fields select class `k`. -/
theorem fclassOf_eq_iff (e : BitVec 11) (m : BitVec 52) (neg : Bool) (k : Nat) : fclassOf e m neg = k ↔
    (k = 0 ∧ neg ∧ e = 2047 ∧ m = 0) ∨ (k = 1 ∧ neg ∧ e ≠ 0 ∧ e ≠ 2047) ∨ (k = 2 ∧ neg ∧ e = 0 ∧ m ≠ 0) ∨
      (k = 3 ∧ neg ∧ e = 0 ∧ m = 0) ∨ (k = 4 ∧ ¬neg ∧ e = 0 ∧ m = 0) ∨ (k = 5 ∧ ¬neg ∧ e = 0 ∧ m ≠ 0) ∨
      (k = 6 ∧ ¬neg ∧ e ≠ 0 ∧ e ≠ 2047) ∨ (k = 7 ∧ ¬neg ∧ e = 2047 ∧ m = 0) ∨
      (k = 8 ∧ e = 2047 ∧ m ≠ 0 ∧ m.getLsbD 51 = false) ∨ (k = 9 ∧ e = 2047 ∧ m.getLsbD 51 = true) := by
  have hz : m = 0 → m.getLsbD 51 = false := by rintro rfl; rfl
  have ho : e = 2047 → e ≠ 0 := by rintro rfl; decide
  unfold fclassOf
  by_cases h1 : e = 2047#11
  · by_cases h2 : m = 0#52
    · cases neg <;> simp [h1, h2, @eq_comm Nat k]
    · cases h3 : m.getLsbD 51 <;> cases neg <;> simp at h3 <;> simp [h1, h2, h3, @eq_comm Nat k]
  · by_cases h2 : e = 0#11
    · by_cases h3 : m = 0#52 <;> cases neg <;> simp [h2, h3, @eq_comm Nat k]
    · cases neg <;> simp [h1, h2, @eq_comm Nat k]

/-- Settles O18: the rows commit what the model computes, and the signs and the class are given bit by bit. -/
theorem floatSelectionsAreExact : Obligations.FloatSelectionsAreExact := by
  refine ⟨⟨fun o => ⟨?fmin, ?fmax, ?fminm, ?fmaxm, fun s => ?fsgnj, fun s => ?fsgnjn, fun s => ?fsgnjx⟩,
    fun o => ⟨?feq, ?flt, ?fle, ?funord⟩, fun d a => ⟨fun s => ?fclass, fun s => ?fmvSF⟩, fun d a s => ?fmvFS⟩, ?bits⟩
  case fmin => exact givesF_of_toF (lenOf_fmin o) (exec_fmin o)
  case fmax => exact givesF_of_toF (lenOf_fmax o) (exec_fmax o)
  case fminm => exact givesF_of_toF (lenOf_fminm o) (exec_fminm o)
  case fmaxm => exact givesF_of_toF (lenOf_fmaxm o) (exec_fmaxm o)
  case fsgnj =>
    rw [exec_fsgnj, execFsgnj, toF, commitF_zero, done_eq, lenOf_fsgnj]
    rw [Core.fsign_eq _ _ _ (s.core.rdF o.a &&& ~~~0x8000000000000000 ||| s.core.rdF o.b &&& 0x8000000000000000)]
    intro i hi
    simp only [BitVec.getLsbD_or, BitVec.getLsbD_and, BitVec.getLsbD_not, signMask_getLsbD hi]
    by_cases h : i = 63 <;> simp [h, hi]
  case fsgnjn =>
    rw [exec_fsgnjn, execFsgnjn, toF, commitF_zero, done_eq, lenOf_fsgnjn]
    rw [Core.fsign_eq _ _ _ (s.core.rdF o.a &&& ~~~0x8000000000000000 ||| ~~~(s.core.rdF o.b) &&& 0x8000000000000000)]
    intro i hi
    simp only [BitVec.getLsbD_or, BitVec.getLsbD_and, BitVec.getLsbD_not, signMask_getLsbD hi]
    by_cases h : i = 63 <;> simp [h, hi]
  case fsgnjx =>
    rw [exec_fsgnjx, execFsgnjx, toF, commitF_zero, done_eq, lenOf_fsgnjx]
    rw [Core.fsign_eq _ _ _ (s.core.rdF o.a ^^^ (s.core.rdF o.b &&& 0x8000000000000000))]
    intro i hi
    simp only [BitVec.getLsbD_xor, BitVec.getLsbD_and, signMask_getLsbD hi]
    by_cases h : i = 63 <;> simp [h, bne]
  case feq => exact givesS_of_toS (lenOf_feq o) fun s => by rw [exec_feq, execFeq, Core.fcmp_eq]
  case flt => exact givesS_of_toS (lenOf_flt o) fun s => by rw [exec_flt, execFlt, Core.fcmp_eq]
  case fle => exact givesS_of_toS (lenOf_fle o) fun s => by rw [exec_fle, execFle, Core.fcmp_eq]
  case funord => exact givesS_of_toS (lenOf_funord o) fun s => by rw [exec_funord, execFunord, Core.fcmp_eq]
  case fclass => rw [exec_fclass, execFclass, toS, commitF_zero, done_eq, lenOf_fclass]; rfl
  case fmvSF => rw [exec_fmvSF, execFmvSF, toS, commitF_zero, done_eq, lenOf_fmvSF]; rfl
  case fmvFS => rw [exec_fmvFS, execFmvFS, toF, commitF_zero, done_eq, lenOf_fmvFS]
  case bits =>
    intro x e m neg k hk
    rw [fclassBits_eq, BitVec.getLsbD_ofNat, Nat.testBit_two_pow, decide_eq_true hk, Bool.true_and]
    rw [decide_eq_decide]
    exact fclassOf_eq_iff e m neg k

end Sys2Proof.Machine
end

section
/-! PROOF. `yield`, `serve` and `hret` (R237 to R240). -/

namespace Sys2Proof.Machine

/-! ## The argument registers -/

/-- A write of an `s` register changes the register file and the marks of errors. -/
theorem Core.wrS_eq (c : Core) (r : SReg) (x : Word) :
    ∃ v bad, c.wrS r x = { c with regs := { c.regs with s := v }, badRegs := bad } := by
  unfold Core.wrS
  split
  · exact ⟨c.regs.s, c.badRegs, rfl⟩
  · exact ⟨_, _, rfl⟩

/-- The first `n` of the argument registers take their words. -/
def Core.setFirst (c : Core) (ws : List Word) (n : Nat) : Core :=
  (List.range n).foldl (fun c k => c.wrS (argReg k) (ws.getD k 0)) c

theorem Core.setFirst_succ (c : Core) (ws : List Word) (n : Nat) :
    c.setFirst ws (n + 1) = (c.setFirst ws n).wrS (argReg n) (ws.getD n 0) := by
  simp [Core.setFirst, List.range_succ]

theorem Core.setFirst_eq (c : Core) (ws : List Word) (n : Nat) :
    ∃ v bad, c.setFirst ws n = { c with regs := { c.regs with s := v }, badRegs := bad } := by
  induction n with
  | zero => exact ⟨c.regs.s, c.badRegs, rfl⟩
  | succ n ih =>
    obtain ⟨v, bad, h⟩ := ih
    obtain ⟨v', bad', h'⟩ := (c.setFirst ws n).wrS_eq (argReg n) (ws.getD n 0)
    refine ⟨v', bad', ?_⟩
    rw [Core.setFirst_succ, h', h]

theorem argReg_val {k : Nat} (h : k < 8) : (argReg k).val = 3 + k := by
  simp only [argReg, Fin.ofNat]; omega

theorem Core.rdS_setFirst (c : Core) (ws : List Word) {n : Nat} (hn : n ≤ 8) (r : SReg) :
    (c.setFirst ws n).rdS r = if 3 ≤ r.val ∧ r.val < 3 + n then ws.getD (r.val - 3) 0 else c.rdS r := by
  induction n with
  | zero => rw [if_neg (by omega)]; rfl
  | succ n ih =>
    have hv := argReg_val (k := n) (by omega)
    rw [Core.setFirst_succ, Core.rdS_wrS, ih (by omega)]
    by_cases h0 : r = 0
    · subst h0; rfl
    · by_cases h : r = argReg n
      · subst h; rw [if_neg h0, if_pos rfl, if_pos (by omega), hv]; congr 1; omega
      · have hne : r.val ≠ 3 + n := fun e => h (Fin.ext (by omega))
        rw [if_neg h0, if_neg h]
        by_cases h3 : 3 ≤ r.val ∧ r.val < 3 + n
        · rw [if_pos h3, if_pos (by omega)]
        · rw [if_neg h3, if_neg (by omega)]

theorem Core.setArgs_eq (c : Core) (ws : List Word) :
    ∃ v bad, c.setArgs ws = { c with regs := { c.regs with s := v }, badRegs := bad } := c.setFirst_eq ws 8

theorem Core.rdS_setArgs (c : Core) (ws : List Word) (r : SReg) :
    (c.setArgs ws).rdS r = if 3 ≤ r.val ∧ r.val < 11 then ws.getD (r.val - 3) 0 else c.rdS r :=
  c.rdS_setFirst ws (Nat.le_refl 8) r

theorem Core.rdS_setArgs_argReg (c : Core) (ws : List Word) (k : Fin 8) :
    (c.setArgs ws).rdS (argReg k) = ws.getD k 0 := by
  have hv := argReg_val k.isLt
  have hk := k.isLt
  rw [c.rdS_setArgs, if_pos (by omega), hv]
  congr 1
  omega

/-! ## The entry of a handler -/

theorem Core.wrS_regs (c : Core) (r : SReg) (x : Word) :
    (c.wrS r x).regs = { c.regs with s := (c.wrS r x).regs.s } := by
  obtain ⟨v, bad, e⟩ := c.wrS_eq r x
  rw [e]

theorem Core.setArgs_regs (c : Core) (ws : List Word) :
    (c.setArgs ws).regs = { c.regs with s := (c.setArgs ws).regs.s } := by
  obtain ⟨v, bad, e⟩ := c.setArgs_eq ws
  rw [e]

section
variable (c : Core) (ws : List Word)
@[simp] theorem Core.setArgs_status : (c.setArgs ws).status = c.status := by
  obtain ⟨v, bad, e⟩ := c.setArgs_eq ws; rw [e]
@[simp] theorem Core.setArgs_ls : (c.setArgs ws).ls = c.ls := by obtain ⟨v, bad, e⟩ := c.setArgs_eq ws; rw [e]
@[simp] theorem Core.setArgs_trap : (c.setArgs ws).trap = c.trap := by obtain ⟨v, bad, e⟩ := c.setArgs_eq ws; rw [e]
@[simp] theorem Core.setArgs_inbox : (c.setArgs ws).inbox = c.inbox := by obtain ⟨v, bad, e⟩ := c.setArgs_eq ws; rw [e]
@[simp] theorem Core.setArgs_instret : (c.setArgs ws).instret = c.instret := by
  obtain ⟨v, bad, e⟩ := c.setArgs_eq ws; rw [e]
@[simp] theorem Core.setArgs_wl : (c.setArgs ws).wl = c.wl := by obtain ⟨v, bad, e⟩ := c.setArgs_eq ws; rw [e]
@[simp] theorem Core.setArgs_hres : (c.setArgs ws).hres = c.hres := by obtain ⟨v, bad, e⟩ := c.setArgs_eq ws; rw [e]
end

section
variable (c : Core) (h : Word) (ws : List Word) (sender : Nat) (hres : Word)

theorem Core.enterHandler_regs : (c.enterHandler h ws sender hres).regs =
    ((c.setArgs ws).wrS 11 (BitVec.ofNat 64 sender)).regs := rfl

theorem Core.rdS_enterHandler (r : SReg) : (c.enterHandler h ws sender hres).rdS r =
    if r = 11 then BitVec.ofNat 64 sender else (c.setArgs ws).rdS r := by
  refine Eq.trans (b := ((c.setArgs ws).wrS 11 (BitVec.ofNat 64 sender)).rdS r) rfl ?_
  rw [Core.rdS_wrS]
  by_cases h0 : r = 0
  · subst h0; rfl
  · rw [if_neg h0]

@[simp] theorem Core.enterHandler_ls : (c.enterHandler h ws sender hres).ls = c.ls := by simp [Core.enterHandler]
@[simp] theorem Core.enterHandler_inbox : (c.enterHandler h ws sender hres).inbox = c.inbox := by
  simp [Core.enterHandler]
@[simp] theorem Core.enterHandler_instret : (c.enterHandler h ws sender hres).instret = c.instret := by
  simp [Core.enterHandler]

theorem argReg_ne_11 (k : Fin 8) : argReg k ≠ 11 := by
  intro e
  have hv : 11 = 3 + k.val := (congrArg Fin.val e).symm.trans (argReg_val k.isLt)
  omega

theorem Core.enterHandler_entered : (c.enterHandler h ws sender hres).Entered c h ws sender hres := by
  have hregs := c.enterHandler_regs h ws sender hres
  rw [Core.wrS_regs, Core.setArgs_regs] at hregs
  refine ⟨rfl, rfl, by simp [Core.enterHandler], rfl, fun k => ⟨?shadow, ?words⟩, ?sender, fun r hr => ?others, ?rest⟩
  case shadow => exact Vector.getElem_ofFn k.isLt
  case words => rw [c.rdS_enterHandler, if_neg (argReg_ne_11 k), c.rdS_setArgs_argReg]
  case sender => rw [c.rdS_enterHandler, if_pos rfl]
  case others =>
    have h11 : r ≠ 11 := fun e => by subst e; exact absurd hr (by decide)
    rw [c.rdS_enterHandler, if_neg h11, c.rdS_setArgs, if_neg (by omega)]
  case rest => rw [hregs]; simp [Core.enterHandler]
end

theorem Core.Entered.yleft {t c : Core} {h : Word} {ws : List Word} {sender : Nat} {hres : Word}
    (e : t.Entered c h ws sender hres) (y : Option Nat) : ({ t with yleft := y } : Core).Entered c h ws sender hres := e

/-- What an entry leaves depends on the registers, the status, memory and the trap registers before it. -/
theorem Core.Entered.of_fields {t c c' : Core} {h : Word} {ws : List Word} {sender : Nat} {hres : Word}
    (e : t.Entered c h ws sender hres) (hs : c.status = c'.status) (hr : c.regs = c'.regs) (hl : c.ls = c'.ls)
    (ht : c.trap = c'.trap) : t.Entered c' h ws sender hres := by
  unfold Core.Entered Core.rdS at e ⊢
  rw [hs, hr, hl, ht] at e
  exact e

/-! ## Dispatch -/

theorem Core.record_eq (c : Core) (typ reg : Nat) (data : Word) :
    ∃ t, c.record typ reg data = { c with trans := t } := by
  unfold Core.record
  split
  · split <;> exact ⟨_, rfl⟩
  · exact ⟨c.trans, rfl⟩

theorem Core.noteDispatch_eq (c : Core) (typ : Nat) (data : Word) :
    ∃ t, c.noteDispatch typ data = { c with trans := t } := by
  unfold Core.noteDispatch
  split
  · exact ⟨_, rfl⟩
  · exact c.record_eq typ 0 data

/-- The core as a dispatch leaves it before the handler's entry. -/
def Core.dispatching (c : Core) (m : Msg) (rest : List Msg) (retired : Bool) : Core :=
  let c := ({ c with inbox := { c.inbox with arrival := rest } } : Core).noteDispatch 1 m.digest
  if retired then { c with instret := c.instret + 1, trans := { c.trans with i := c.trans.i + 1 } } else c

theorem Core.dispatching_eq (c : Core) (m : Msg) (rest : List Msg) (retired : Bool) :
    ∃ t, c.dispatching m rest retired = { c with
      inbox := { c.inbox with arrival := rest }, instret := c.instret + (if retired then 1 else 0), trans := t } := by
  obtain ⟨t, e⟩ := ({ c with inbox := { c.inbox with arrival := rest } } : Core).noteDispatch_eq 1 m.digest
  rw [Core.dispatching, e]
  cases retired
  · exact ⟨t, by rw [if_neg Bool.false_ne_true, if_neg Bool.false_ne_true, show (0 : Word) = 0#64 from rfl, BitVec.add_zero]⟩
  · exact ⟨_, rfl⟩

theorem dispatch_eq (m : Msg) (rest : List Msg) (hres : Word) (y : Option Nat) (retired : Bool) (s : State)
    (h : s.core.handlerOk m.handler = true) : dispatch m rest hres y retired s = .next (s.mapCore fun c =>
      { (c.dispatching m rest retired).enterHandler m.handler m.args m.sender hres with yleft := y }) := by
  rw [dispatch, if_pos h]; rfl

/-- A dispatch to a good handler takes the message off the queue and enters the handler. -/
theorem dispatch_entered (m : Msg) (rest : List Msg) (hres : Word) (y : Option Nat) (retired : Bool) (s : State)
    (h : s.core.handlerOk m.handler = true) :
    ∃ t, dispatch m rest hres y retired s = .next t ∧ t.core.Entered s.core m.handler m.args m.sender hres ∧
      t.core.inbox = { s.core.inbox with arrival := rest } ∧
      t.core.instret = s.core.instret + (if retired then 1 else 0) := by
  refine ⟨_, dispatch_eq m rest hres y retired s h, ?_⟩
  obtain ⟨t, e⟩ := s.core.dispatching_eq m rest retired
  have hs : (s.core.dispatching m rest retired).status = s.core.status := by rw [e]
  have hr : (s.core.dispatching m rest retired).regs = s.core.regs := by rw [e]
  have hl : (s.core.dispatching m rest retired).ls = s.core.ls := by rw [e]
  have ht : (s.core.dispatching m rest retired).trap = s.core.trap := by rw [e]
  have hi : (s.core.dispatching m rest retired).inbox = { s.core.inbox with arrival := rest } := by rw [e]
  have hn : (s.core.dispatching m rest retired).instret = s.core.instret + (if retired then 1 else 0) := by rw [e]
  have hE := ((s.core.dispatching m rest retired).enterHandler_entered m.handler m.args m.sender hres).of_fields hs hr hl ht
  rw [← Core.enterHandler_inbox] at hi
  rw [← Core.enterHandler_instret] at hn
  rw [State.mapCore_core]
  generalize (s.core.dispatching m rest retired).enterHandler m.handler m.args m.sender hres = c at hE hi hn ⊢
  exact ⟨hE.yleft y, hi, hn⟩

theorem Core.noDispatch_eq_false {c : Core} (hd : c.status.pl ≠ .debug) (hh : c.status.hnd = false) :
    c.noDispatch = false := by
  rw [Core.noDispatch, c.isDebug_eq_false.mpr hd, hh]; rfl

theorem Core.nextMsg_eq (c : Core) (serve : Bool) (h : c.replaying = false) :
    c.nextMsg serve = match c.inbox.arrival with | m :: rest => .msg m rest | [] => .none := by
  rw [Core.nextMsg, h]; rfl

theorem yieldTo_entered (n : Nat) (m : Msg) (rest : List Msg) (s : State) (h : s.core.handlerOk m.handler = true) :
    ∃ t, yieldTo n m rest s = .next t ∧ t.core.inbox = { s.core.inbox with arrival := rest } ∧
      (if n ≠ 0 ∧ s.core.yleft.getD n ≤ 1 then
        t.core.Entered s.core m.handler m.args m.sender (s.core.pc + 8) ∧ t.core.instret = s.core.instret + 1
       else t.core.Entered s.core m.handler m.args m.sender s.core.pc ∧ t.core.instret = s.core.instret) := by
  have stay (y : Option Nat) := dispatch_entered m rest s.core.pc y false s h
  simp only [Bool.false_eq_true, if_false, BitVec.ofNat_eq_ofNat, BitVec.add_zero] at stay
  by_cases hn : n = 0
  · obtain ⟨t, e, he, hi, hr⟩ := stay none
    exact ⟨t, by simpa [yieldTo, Core.yieldBudget, hn] using e, hi, by rw [if_neg (by simp [hn])]; exact ⟨he, hr⟩⟩
  · by_cases hb : s.core.yleft.getD n ≤ 1
    · obtain ⟨t, e, he, hi, hr⟩ := dispatch_entered m rest (s.core.pc + 8) none true s h
      exact ⟨t, by simpa [yieldTo, Core.yieldBudget, hn, hb] using e, hi, by rw [if_pos ⟨hn, hb⟩]; exact ⟨he, hr⟩⟩
    · obtain ⟨t, e, he, hi, hr⟩ := stay (some (s.core.yleft.getD n - 1))
      exact ⟨t, by simpa [yieldTo, Core.yieldBudget, hn, hb] using e, hi,
        by rw [if_neg (fun x => hb x.2)]; exact ⟨he, hr⟩⟩

/-! ## The end of a handler -/

theorem State.retireTask_self (s : State) : s.retireTask s.cid =
    { s with
      core := { s.core with wl := { s.core.wl with running := none } }
      wl := { s.wl with decs := s.wl.decs ++ (s.core.wl.running.toList.map fun k =>
        ⟨clusterOf s.cid, k.prio.toNat / 2 ^ s.wl.shift.toNat, s.wl.nextSeq⟩) } } := by
  rw [State.retireTask, s.coreAt_self]
  obtain h | ⟨t, h⟩ : s.core.wl.running = none ∨ ∃ t, s.core.wl.running = some t := by
    cases s.core.wl.running <;> simp
  · simp only [h, Option.toList_none, List.map_nil, List.append_nil]
    rw [← h]
  · simp [h, State.onCore, State.setCore, State.coreAt, Worklist.drop]

/-- The core behind `hret`, with its task ended. -/
def Core.leftHandler (c : Core) : Core :=
  let c := ({ c with wl := { c.wl with running := none } } : Core).unshadow
  ({ c with status := { c.status with hnd := false } } : Core).retireTo c.hres

theorem Core.rdS_leftHandler (c : Core) (r : SReg) :
    c.leftHandler.rdS r = if 3 ≤ r.val ∧ r.val < 11 then c.shadow.toList.getD (r.val - 3) 0 else c.rdS r := by
  have h := ({ c with wl := { c.wl with running := none } } : Core).rdS_setArgs c.shadow.toList r
  rw [Core.leftHandler, Core.retireTo_eq]
  exact h

theorem Core.rdS_leftHandler_argReg (c : Core) (k : Fin 8) : c.leftHandler.rdS (argReg k) = c.shadow.get k := by
  have hv := argReg_val k.isLt
  have hk := k.isLt
  rw [c.rdS_leftHandler, if_pos (by omega), hv, Nat.add_sub_cancel_left]
  simp [Vector.get]

theorem Core.leftHandler_fields (c : Core) : c.leftHandler.pc = c.hres ∧
    c.leftHandler.status = { c.status with hnd := false } ∧ c.leftHandler.ls = c.ls ∧
    c.leftHandler.instret = c.instret + 1 ∧ c.leftHandler.wl = { c.wl with running := none } := by
  simp only [Core.leftHandler, Core.retireTo_eq, Core.unshadow, Core.setArgs_hres, Core.setArgs_status,
    Core.setArgs_ls, Core.setArgs_instret, Core.setArgs_wl, and_self]

/-- Settles O16: a dispatch is `dispatch` of the oldest message, and the argument registers come back with `hret`. -/
theorem handlersAreEnteredAndLeft : Obligations.HandlersAreEnteredAndLeft := by
  refine ⟨fun s m rest hd hh hr hq hk => ⟨?serve, fun n => ?yield⟩,
    fun s hd hh hr hq hs => ⟨fun n => ?yieldEmpty, fun ht ho => ?serveEmpty⟩, fun s hh => ?hret⟩
  case serve =>
    obtain ⟨t, e, he, hi, hn⟩ := dispatch_entered m rest s.core.pc none false s hk
    refine ⟨t, ?_, he, hi, by simpa using hn⟩
    rw [exec_serve, execServe, Core.noDispatch_eq_false hd hh, if_neg Bool.false_ne_true, Core.nextMsg_eq _ _ hr, hq]
    exact e
  case yield =>
    obtain ⟨t, e, h⟩ := yieldTo_entered n m rest s hk
    refine ⟨t, ?_, h⟩
    rw [exec_yield, execYield, Core.noDispatch_eq_false hd hh, if_neg Bool.false_ne_true, Core.nextMsg_eq _ _ hr, hq]
    exact e
  case yieldEmpty =>
    have ha : s.core.awaitsMsg = false := by rw [Core.awaitsMsg, hr]; rfl
    rw [exec_yield, execYield, Core.noDispatch_eq_false hd hh, if_neg Bool.false_ne_true, Core.nextMsg_eq _ _ hr, hq]
    simp only [ha, yieldEmpty, hs, done_eq, lenOf_yield, List.isEmpty_nil, Bool.not_true, Bool.false_eq_true, if_false]
  case serveEmpty =>
    have ha : s.core.awaitsEvent = false := by rw [Core.awaitsEvent, hr]; rfl
    have hm : s.serveMore = false := by
      cases hw : s.wlOwner s.core <;> simp [State.serveMore, hw, hs, ho]
    rw [exec_serve, execServe, Core.noDispatch_eq_false hd hh, if_neg Bool.false_ne_true, Core.nextMsg_eq _ _ hr, hq]
    simp only [ha, serveIdle, ht, hm, doneIn_eq, lenOf_serve, Bool.not_false, Bool.and_self, Bool.false_eq_true,
      if_false, if_true]
  case hret =>
    have hne : (!s.core.status.hnd) = false := by rw [hh]; rfl
    rw [exec_hret, execHret, hne, if_neg Bool.false_ne_true, s.retireTask_self]
    obtain ⟨hp, hst, hl, hi, hw⟩ := s.core.leftHandler_fields
    refine ⟨_, rfl, hp, hst, s.core.rdS_leftHandler_argReg, fun r hr => ?_, hl, hi, hw, rfl⟩
    exact (s.core.rdS_leftHandler r).trans (if_neg (by omega))

end Sys2Proof.Machine
end

section
/-! PROOF. What the scalar instructions leave unchanged. -/

namespace Sys2Proof.Machine

/-! ## The fields that a scalar instruction may change -/

/-- The fields of a core that a scalar instruction, its retirement or its trap may change. -/
structure ScalarFields where
  pc : Word
  regs : Regs
  badRegs : List RegRef
  fp : FpRegs
  ls : Memory
  stale : List OldBlock
  bad : List Nat
  run : RunState
  instret : Word
  stepping : Bool
  trans : Transcript
  status : Status
  trap : TrapRegs
  yleft : Option Nat
  entering : Bool
  ir : Option Fetching

/-- The core with other values of these fields. -/
def Core.withScalar (c : Core) (w : ScalarFields) : Core := { c with
  pc := w.pc, regs := w.regs, badRegs := w.badRegs, fp := w.fp, ls := w.ls, stale := w.stale, bad := w.bad, run := w.run
  instret := w.instret, stepping := w.stepping, trans := w.trans, status := w.status, trap := w.trap
  yleft := w.yleft, entering := w.entering, ir := w.ir }

/-- These fields of a core. -/
def Core.scalar (c : Core) : ScalarFields :=
  ⟨c.pc, c.regs, c.badRegs, c.fp, c.ls, c.stale, c.bad, c.run, c.instret, c.stepping, c.trans, c.status, c.trap, c.yleft,
    c.entering, c.ir⟩

theorem Core.withScalar_scalar (c : Core) : c.withScalar c.scalar = c := rfl

/-- Up to its end, an instruction has changed at most `s[ds]`, `f[df]`, the flags if `flags` says so, and the bytes of
`[a, a + n)`. -/
structure Core.Keeps (c u : Core) (ds : Option SReg) (df : Option FReg) (flags : Bool) (a n : Nat) : Prop where
  rdS : ∀ r, ds ≠ some r → u.rdS r = c.rdS r
  rdF : ∀ r, df ≠ some r → u.rdF r = c.rdF r
  files : u.regs.v = c.regs.v ∧ u.regs.q = c.regs.q ∧ u.regs.t = c.regs.t ∧ u.regs.z = c.regs.z
  mem : ∀ b, (b < a ∨ a + n ≤ b) → u.ls.read b = c.ls.read b
  fp : flags = false → u.fp = c.fp
  ctl : u.fp.ctl = c.fp.ctl
  status : u.status = c.status
  trap : u.trap = c.trap
  pc : u.pc = c.pc
  rest : ∃ w, u = c.withScalar w

section
variable {c u : Core} {ds : Option SReg} {df : Option FReg} {flags : Bool} {a n : Nat}

theorem Core.Keeps.refl (c : Core) (ds : Option SReg) (df : Option FReg) (flags : Bool) (a n : Nat) :
    c.Keeps c ds df flags a n :=
  ⟨fun _ _ => rfl, fun _ _ => rfl, ⟨rfl, rfl, rfl, rfl⟩, fun _ _ => rfl, fun _ => rfl, rfl, rfl, rfl, rfl,
    c.scalar, c.withScalar_scalar.symm⟩

theorem Core.Keeps.wrS {d : SReg} (k : c.Keeps u (some d) df flags a n) (x : Word) :
    c.Keeps (u.wrS d x) (some d) df flags a n := by
  refine ⟨fun r hr => ?rdS, ?rdF, ?files, ?mem, ?fp, ?ctl, ?status, ?trap, ?pc, ?rest⟩
  case rdS =>
    have hne : r ≠ d := fun e => hr (congrArg some e.symm)
    rw [Core.rdS_wrS, if_neg hne, ← k.rdS r hr]
    split
    · next h => rw [h, Core.rdS_zero]
    · rfl
  case rest =>
    obtain ⟨v, bad, e⟩ := u.wrS_eq d x
    obtain ⟨w, hw⟩ := k.rest
    exact ⟨{ w with regs := { w.regs with s := v }, badRegs := bad }, by rw [e, hw]; rfl⟩
  all_goals obtain ⟨v, bad, e⟩ := u.wrS_eq d x; rw [e]
  case rdF => exact k.rdF
  case files => exact k.files
  case mem => exact k.mem
  case fp => exact k.fp
  case ctl => exact k.ctl
  case status => exact k.status
  case trap => exact k.trap
  case pc => exact k.pc

theorem Core.Keeps.wrF {d : FReg} (k : c.Keeps u ds (some d) flags a n) (x : Word) :
    c.Keeps (u.wrF d x) ds (some d) flags a n := by
  refine ⟨k.rdS, fun r hr => ?rdF, k.files, k.mem, k.fp, k.ctl, k.status, k.trap, k.pc, ?rest⟩
  case rdF =>
    have hne : r ≠ d := fun e => hr (congrArg some e.symm)
    rw [Core.rdF_wrF, if_neg hne, k.rdF r hr]
  case rest =>
    obtain ⟨w, hw⟩ := k.rest
    exact ⟨{ w with regs := (u.wrF d x).regs, badRegs := (u.wrF d x).badRegs }, by rw [hw]; rfl⟩

theorem Core.Keeps.orFlags (k : c.Keeps u ds df true a n) (x : Flags) : c.Keeps (u.orFlags x) ds df true a n := by
  obtain ⟨w, hw⟩ := k.rest
  exact ⟨k.rdS, k.rdF, k.files, k.mem, nofun, k.ctl, k.status, k.trap, k.pc,
    { w with fp := (u.orFlags x).fp }, by rw [hw]; rfl⟩

theorem Core.Keeps.storeN (k : c.Keeps u ds df flags a n) (x : Nat) : c.Keeps (u.storeN a n x) ds df flags a n := by
  refine ⟨k.rdS, k.rdF, k.files, fun b hb => ?mem, k.fp, k.ctl, k.status, k.trap, k.pc, ?rest⟩
  case mem => rw [← k.mem b hb]; exact Memory.read_writeBytes_out _ _ _ _ (by rwa [toBytesLE_length])
  case rest =>
    obtain ⟨w, hw⟩ := k.rest
    exact ⟨{ w with ls := (u.storeN a n x).ls, stale := (u.storeN a n x).stale, bad := (u.storeN a n x).bad },
      by rw [hw]; rfl⟩

end

/-! ## The ends of an instruction -/

/-- A state that the frame of an instruction admits after `s`. -/
def State.FrameTo (s t : State) (ds : Option SReg) (df : Option FReg) (flags : Bool) (a n : Nat) : Prop :=
  let c := s.core
  let u := t.core
  (∀ r, ds ≠ some r → u.rdS r = c.rdS r) ∧ (∀ r, df ≠ some r → u.rdF r = c.rdF r) ∧
  u.regs.v = c.regs.v ∧ u.regs.q = c.regs.q ∧ u.regs.t = c.regs.t ∧ u.regs.z = c.regs.z ∧
  (∀ b, (b < a ∨ a + n ≤ b) → u.ls.read b = c.ls.read b) ∧
  (flags = false → u.fp = c.fp) ∧ u.fp.ctl = c.fp.ctl ∧
  ((u.status = c.status ∧ u.trap = c.trap) ∨
    ∃ x, u.status = (c.takeTrap x c.pc).status ∧ u.trap = (c.takeTrap x c.pc).trap) ∧
  t = { s with core := c.withScalar u.scalar }

section
variable {s : State} {u : Core} {ds : Option SReg} {df : Option FReg} {flags : Bool} {a n : Nat}

/-- What retiring, waiting and stalling leave alone. -/
theorem Core.Keeps.frameTo (k : s.core.Keeps u ds df flags a n) {u' : Core} {pc instret : Word} {stepping : Bool}
    {trans : Transcript} {ir : Option Fetching} {run : RunState}
    (h : u' = { u with pc := pc, instret := instret, stepping := stepping, trans := trans, ir := ir, run := run }) :
    s.FrameTo { s with core := u' } ds df flags a n := by
  obtain ⟨hv, hq, ht, hz⟩ := k.files
  obtain ⟨w, hw⟩ := k.rest
  rw [h]
  exact ⟨k.rdS, k.rdF, hv, hq, ht, hz, k.mem, k.fp, k.ctl, .inl ⟨k.status, k.trap⟩, by rw [hw]; rfl⟩

theorem Core.Keeps.unchanged (k : s.core.Keeps u ds df flags a n) : s.FrameTo { s with core := u } ds df flags a n :=
  k.frameTo rfl

theorem Core.Keeps.retire (k : s.core.Keeps u ds df flags a n) (pc : Word) :
    s.FrameTo { s with core := u.retireTo pc } ds df flags a n := k.frameTo (u.retireTo_eq pc)

theorem Core.Keeps.wait (k : s.core.Keeps u ds df flags a n) :
    s.FrameTo { s with core := u.waitHere } ds df flags a n := k.frameTo rfl

theorem Core.takeTrap_status (c u : Core) (x : Trap) (pc : Word) (h : u.status = c.status) :
    (u.takeTrap x pc).status = (c.takeTrap x pc).status := by
  unfold Core.takeTrap Core.isDebug
  rw [h]
  split
  · exact h
  · simp only [Core.enter, h]

theorem Core.takeTrap_trap (c u : Core) (x : Trap) (pc : Word) (h : u.status = c.status) (ht : u.trap = c.trap) :
    (u.takeTrap x pc).trap = (c.takeTrap x pc).trap := by
  unfold Core.takeTrap Core.isDebug
  rw [h]
  split
  · simp only [Core.debugStop, ht]
  · simp only [Core.enter, ht]

/-- What taking a trap leaves alone. -/
theorem Core.takeTrap_eq (u : Core) (x : Trap) (pc : Word) : ∃ pc' run yleft ir entering stepping,
    u.takeTrap x pc = { u with
      trap := (u.takeTrap x pc).trap, status := (u.takeTrap x pc).status, pc := pc', run := run, yleft := yleft, ir := ir
      entering := entering, stepping := stepping } := by
  unfold Core.takeTrap
  split
  · exact ⟨_, _, _, _, _, _, rfl⟩
  · exact ⟨_, _, _, _, _, _, rfl⟩

theorem Core.Keeps.trapTaken (k : s.core.Keeps u ds df flags a n) (x : Trap) :
    s.FrameTo { s with core := u.takeTrap x u.pc } ds df flags a n := by
  obtain ⟨hv, hq, ht, hz⟩ := k.files
  obtain ⟨w, hw⟩ := k.rest
  have hst := s.core.takeTrap_status u x u.pc k.status
  have htr := s.core.takeTrap_trap u x u.pc k.status k.trap
  obtain ⟨pc, run, yleft, ir, entering, stepping, e⟩ := u.takeTrap_eq x u.pc
  rw [hst, htr] at e
  have hp : u.pc = s.core.pc := k.pc
  rw [hp] at e ⊢
  rw [e]
  exact ⟨k.rdS, k.rdF, hv, hq, ht, hz, k.mem, k.fp, k.ctl, .inr ⟨x, rfl, rfl⟩, by rw [hw]; rfl⟩

end

/-! ## The shapes of instructions -/

section
variable {s t : State} {i : Instr}

theorem frameTo_retires {f : Core → Core} {len : Nat} {ds : Option SReg} {df : Option FReg} {flags : Bool} {a n : Nat}
    (k : s.core.Keeps (f s.core) ds df flags a n) (h : Result) (e : h = .next (s.retires len f)) (ht : h = .next t) :
    s.FrameTo t ds df flags a n := by
  obtain rfl : s.retires len f = t := Host.Outcome.next.inj (e.symm.trans ht)
  exact k.retire _

theorem frameTo_raise {x : Trap} (ds : Option SReg) (df : Option FReg) (flags : Bool) (a n : Nat)
    (h : raise x s = .next t) : s.FrameTo t ds df flags a n := by
  rcases raise_cases x s t h with rfl | rfl
  · exact (Core.Keeps.refl t.core ds df flags a n).unchanged
  · exact (Core.Keeps.refl s.core ds df flags a n).trapTaken x

theorem frameTo_putS {d : SReg} {f : Core → Word} (h : putS i s d f = .next t) :
    s.FrameTo t (some d) none false 0 0 :=
  frameTo_retires (f := fun c => c.wrS d (f s.core)) ((Core.Keeps.refl ..).wrS _) _ (putS_eq i s d f) h

theorem frameTo_divide {o : AluOp} {sgn quot : Bool} (h : divide i o sgn quot s = .next t) :
    s.FrameTo t (some o.d) none false 0 0 := by
  unfold divide at h
  dsimp only at h
  split at h
  · exact frameTo_raise _ _ _ _ _ h
  · exact frameTo_putS h

theorem frameTo_branch {o : BrOp} {f : Word → Word → Bool} (h : branch o f s = .next t) :
    s.FrameTo t none none false 0 0 := by
  rw [branch_eq] at h
  obtain rfl := Host.Outcome.next.inj h
  exact (Core.Keeps.refl ..).retire _

theorem frameTo_afterWait {w : WaitSel} {k : Result} (ds : Option SReg) (df : Option FReg) (flags : Bool) (a n : Nat)
    (hk : k = .next t → s.FrameTo t ds df flags a n) (h : afterWait w s k = .next t) : s.FrameTo t ds df flags a n := by
  unfold afterWait at h
  split at h
  · exact hk h
  · obtain rfl := Host.Outcome.next.inj h
    exact (Core.Keeps.refl ..).wait

theorem frameTo_loadWith {ea : Word} {n : Nat} {w : Nat → Core → Core} {ds : Option SReg} {df : Option FReg}
    (hw : ∀ x, s.core.Keeps (w x s.core) ds df false 0 0) (h : loadWith i ea n s w = .next t) :
    s.FrameTo t ds df false 0 0 := by
  cases hx : s.core.loadTrap ea n with
  | none => exact frameTo_retires (hw _) _ (loadWith_eq i ea n s w hx) h
  | some x => rw [loadWith_trap _ _ _ _ _ _ hx] at h; exact frameTo_raise _ _ _ _ _ h

theorem frameTo_storeWith {ea : Word} {n : Nat} {x : Word} (h : storeWith i ea n x s = .next t) :
    s.FrameTo t none none false ea.toNat n := by
  cases hx : s.core.storeTrap ea n with
  | none => exact frameTo_retires ((Core.Keeps.refl ..).storeN _) _ (storeWith_eq i ea n x s hx) h
  | some y => rw [storeWith_trap _ _ _ _ _ _ hx] at h; exact frameTo_raise _ _ _ _ _ h

theorem frameTo_lamo {k : AmoKind} {o : LamoOp} (h : lamo i k o s = .next t) :
    s.FrameTo t (some o.d) none false (s.core.rdS o.a + o.off.signExtend 64).toNat o.size.bytes := by
  cases hw : s.core.waitOk o.wt with
  | false =>
    rw [lamo, afterWait_unmet _ _ _ hw] at h
    obtain rfl := Host.Outcome.next.inj h
    exact (Core.Keeps.refl ..).wait
  | true =>
    cases hx : s.core.loadTrap (s.core.eaOff o.a o.off) o.size.bytes with
    | some y => rw [lamo_trap _ _ _ _ _ hw hx] at h; exact frameTo_raise _ _ _ _ _ h
    | none =>
      refine frameTo_retires ?_ _ (lamo_eq i k o s hw hx) h
      refine Core.Keeps.wrS ?_ _
      split
      · exact (Core.Keeps.refl ..).storeN _
      · exact Core.Keeps.refl ..

theorem frameTo_commitF {x : Flags} {w : Core → Core} {ds : Option SReg} {df : Option FReg}
    (hw : s.core.Keeps (w s.core) ds df true 0 0) (h : commitF i s x w = .next t) : s.FrameTo t ds df true 0 0 := by
  by_cases he : x &&& s.core.fpEnables = 0
  · exact frameTo_retires (hw.orFlags x) _ (commitF_eq i s x w he) h
  · cases ho : s.core.trapHeld with
    | true =>
      rw [commitF_owed _ _ _ _ he ho] at h
      obtain rfl := Host.Outcome.next.inj h
      exact (Core.Keeps.refl ..).unchanged
    | false =>
      rw [commitF_trap _ _ _ _ he ho] at h
      obtain rfl := Host.Outcome.next.inj h
      exact ((Core.Keeps.refl s.core ds df true 0 0).orFlags x).trapTaken _

theorem frameTo_toF {d : FReg} {r : Word × Flags} (h : toF i d r s = .next t) : s.FrameTo t none (some d) true 0 0 :=
  frameTo_commitF ((Core.Keeps.refl ..).wrF _) h

theorem frameTo_toS {d : SReg} {r : Word × Flags} (h : toS i d r s = .next t) : s.FrameTo t (some d) none true 0 0 :=
  frameTo_commitF ((Core.Keeps.refl ..).wrS _) h

end

/-- An instruction that `exec` hands to `f` has the frame that `f` has. -/
theorem frame_of {i : Instr} {f : State → Result} {ds : Option SReg} {df : Option FReg} {flags : Bool}
    {stores : Core → Nat × Nat} (he : ∀ s, exec i s = f s)
    (hf : ∀ s t, f s = .next t → s.FrameTo t ds df flags (stores s.core).1 (stores s.core).2) :
    Frame i ds df flags stores := fun s t h => hf s t ((he s).symm.trans h)

/-- Settles O60: the frame of each row is that of its shape. -/
theorem scalarInstructionsKeepTheRest : Obligations.ScalarInstructionsKeepTheRest := by
  refine ⟨fun o => ?alu, fun o => ?cmp, fun o => ?imm, fun o => ?un, fun o => ?br, fun o => ?ld,
    fun o => ⟨?fld, ?fst⟩, fun o => ?st, fun o => ?lamo, fun o => ?fop3, fun o => ?fop4, fun o => ?fbit, fun o => ?fcmp⟩
  case alu =>
    simp only [List.forall_mem_cons, List.not_mem_nil, false_implies, implies_true, and_true]
    exact ⟨frame_of (exec_add o) fun _ _ h => frameTo_putS h,
      frame_of (exec_sub o) fun _ _ h => frameTo_putS h,
      frame_of (exec_and o) fun _ _ h => frameTo_putS h,
      frame_of (exec_or o) fun _ _ h => frameTo_putS h,
      frame_of (exec_xor o) fun _ _ h => frameTo_putS h,
      frame_of (exec_andn o) fun _ _ h => frameTo_putS h,
      frame_of (exec_orn o) fun _ _ h => frameTo_putS h,
      frame_of (exec_shl o) fun _ _ h => frameTo_putS h,
      frame_of (exec_shr o) fun _ _ h => frameTo_putS h,
      frame_of (exec_sra o) fun _ _ h => frameTo_putS h,
      frame_of (exec_rol o) fun _ _ h => frameTo_putS h,
      frame_of (exec_ror o) fun _ _ h => frameTo_putS h,
      frame_of (exec_min o) fun _ _ h => frameTo_putS h,
      frame_of (exec_max o) fun _ _ h => frameTo_putS h,
      frame_of (exec_minu o) fun _ _ h => frameTo_putS h,
      frame_of (exec_maxu o) fun _ _ h => frameTo_putS h,
      frame_of (exec_mul o) fun _ _ h => frameTo_putS h,
      frame_of (exec_div o) fun _ _ h => frameTo_divide h,
      frame_of (exec_divu o) fun _ _ h => frameTo_divide h,
      frame_of (exec_rem o) fun _ _ h => frameTo_divide h,
      frame_of (exec_remu o) fun _ _ h => frameTo_divide h⟩
  case cmp =>
    simp only [List.forall_mem_cons, List.not_mem_nil, false_implies, implies_true, and_true]
    exact ⟨frame_of (exec_seq o) fun _ _ h => frameTo_putS h,
      frame_of (exec_sne o) fun _ _ h => frameTo_putS h,
      frame_of (exec_slt o) fun _ _ h => frameTo_putS h,
      frame_of (exec_sltu o) fun _ _ h => frameTo_putS h,
      frame_of (exec_sle o) fun _ _ h => frameTo_putS h,
      frame_of (exec_sleu o) fun _ _ h => frameTo_putS h,
      frame_of (exec_mulh o) fun _ _ h => frameTo_putS h,
      frame_of (exec_mulhu o) fun _ _ h => frameTo_putS h,
      frame_of (exec_mulhsu o) fun _ _ h => frameTo_putS h⟩
  case imm =>
    simp only [List.forall_mem_cons, List.not_mem_nil, false_implies, implies_true, and_true]
    exact ⟨frame_of (exec_addi64 o) fun _ _ h => frameTo_putS h,
      frame_of (exec_andi64 o) fun _ _ h => frameTo_putS h,
      frame_of (exec_ori64 o) fun _ _ h => frameTo_putS h,
      frame_of (exec_xori64 o) fun _ _ h => frameTo_putS h,
      frame_of (exec_seqi o) fun _ _ h => frameTo_putS h,
      frame_of (exec_slti o) fun _ _ h => frameTo_putS h,
      frame_of (exec_sltui o) fun _ _ h => frameTo_putS h⟩
  case un =>
    simp only [List.forall_mem_cons, List.not_mem_nil, false_implies, implies_true, and_true]
    exact ⟨frame_of (exec_clz o) fun _ _ h => frameTo_putS h,
      frame_of (exec_ctz o) fun _ _ h => frameTo_putS h,
      frame_of (exec_popc o) fun _ _ h => frameTo_putS h,
      frame_of (exec_brev o) fun _ _ h => frameTo_putS h,
      frame_of (exec_bswap o) fun _ _ h => frameTo_putS h⟩
  case br =>
    simp only [List.forall_mem_cons, List.not_mem_nil, false_implies, implies_true, and_true]
    exact ⟨frame_of (exec_beq o) fun _ _ h => frameTo_branch h,
      frame_of (exec_bne o) fun _ _ h => frameTo_branch h,
      frame_of (exec_blt o) fun _ _ h => frameTo_branch h,
      frame_of (exec_bge o) fun _ _ h => frameTo_branch h,
      frame_of (exec_bltu o) fun _ _ h => frameTo_branch h,
      frame_of (exec_bgeu o) fun _ _ h => frameTo_branch h⟩
  case ld =>
    exact frame_of (exec_ld o) fun _ _ h =>
      frameTo_afterWait _ _ _ _ _ (frameTo_loadWith fun _ => (Core.Keeps.refl ..).wrS _) h
  case fld =>
    exact frame_of (exec_fld o) fun _ _ h =>
      frameTo_afterWait _ _ _ _ _ (frameTo_loadWith fun _ => (Core.Keeps.refl ..).wrF _) h
  case fst => exact frame_of (exec_fst o) fun _ _ h => frameTo_afterWait _ _ _ _ _ frameTo_storeWith h
  case st => exact frame_of (exec_st o) fun _ _ h => frameTo_afterWait _ _ _ _ _ frameTo_storeWith h
  case lamo =>
    simp only [List.forall_mem_cons, List.not_mem_nil, false_implies, implies_true, and_true]
    exact ⟨frame_of (exec_lamoAdd o) fun _ _ h => frameTo_lamo h,
      frame_of (exec_lamoAnd o) fun _ _ h => frameTo_lamo h,
      frame_of (exec_lamoOr o) fun _ _ h => frameTo_lamo h,
      frame_of (exec_lamoXor o) fun _ _ h => frameTo_lamo h,
      frame_of (exec_lamoMin o) fun _ _ h => frameTo_lamo h,
      frame_of (exec_lamoMax o) fun _ _ h => frameTo_lamo h,
      frame_of (exec_lamoMinu o) fun _ _ h => frameTo_lamo h,
      frame_of (exec_lamoMaxu o) fun _ _ h => frameTo_lamo h,
      frame_of (exec_lamoSwp o) fun _ _ h => frameTo_lamo h,
      frame_of (exec_lamoCas o) fun _ _ h => frameTo_lamo h⟩
  case fop3 =>
    simp only [List.forall_mem_cons, List.not_mem_nil, false_implies, implies_true, and_true]
    exact ⟨frame_of (exec_fadd o) fun _ _ h => frameTo_toF h,
      frame_of (exec_fsub o) fun _ _ h => frameTo_toF h,
      frame_of (exec_fmul o) fun _ _ h => frameTo_toF h,
      frame_of (exec_fdiv o) fun _ _ h => frameTo_toF h⟩
  case fop4 =>
    simp only [List.forall_mem_cons, List.not_mem_nil, false_implies, implies_true, and_true]
    exact ⟨frame_of (exec_fma o) fun _ _ h => frameTo_toF h,
      frame_of (exec_fms o) fun _ _ h => frameTo_toF h,
      frame_of (exec_fnma o) fun _ _ h => frameTo_toF h,
      frame_of (exec_fnms o) fun _ _ h => frameTo_toF h⟩
  case fbit =>
    simp only [List.forall_mem_cons, List.not_mem_nil, false_implies, implies_true, and_true]
    exact ⟨frame_of (exec_fmin o) fun _ _ h => frameTo_toF h,
      frame_of (exec_fmax o) fun _ _ h => frameTo_toF h,
      frame_of (exec_fminm o) fun _ _ h => frameTo_toF h,
      frame_of (exec_fmaxm o) fun _ _ h => frameTo_toF h⟩
  case fcmp =>
    simp only [List.forall_mem_cons, List.not_mem_nil, false_implies, implies_true, and_true]
    exact ⟨frame_of (exec_feq o) fun _ _ h => frameTo_toS h,
      frame_of (exec_flt o) fun _ _ h => frameTo_toS h,
      frame_of (exec_fle o) fun _ _ h => frameTo_toS h,
      frame_of (exec_funord o) fun _ _ h => frameTo_toS h⟩

end Sys2Proof.Machine
end

section
/-! PROOF. Instructions of the vector unit at issue (R137 to R150). -/

namespace Sys2Proof.Machine

/-! ## Captured operands -/

theorem Core.capture_ins (c : Core) (i : Instr) (pc : Word) : (c.capture i pc).ins = i := by
  unfold Core.capture; split <;> rfl

theorem Core.capture_pc (c : Core) (i : Instr) (pc : Word) : (c.capture i pc).pc = pc := by
  unfold Core.capture; split <;> rfl

/-! ## Issue -/

theorem Core.seqFull_eq_false {c : Core} (h : c.vec.seq.length < 16) : c.seqFull = false :=
  decide_eq_false (Nat.not_le.mpr h)

theorem Core.seqEmpty_iff (c : Core) : c.seqEmpty = true ↔ c.vec.seq = [] := List.isEmpty_iff

/-- An instruction that passes the checks of its issue enters the sequencer, and its slot moves on. -/
theorem issueV_eq (i : Instr) (s : State) (hf : s.core.vec.seq.length < 16) (hw : s.core.waitOk (vecWait i) = true)
    (hs : slotTrap s.core.vec.slots i = none)
    (hb : s.core.boundsTrap s.core.vec.slots 0 (s.core.capture i s.core.pc) = none) :
    issueV i s = .next (s.retires (lenOf i) fun c =>
      c.enqueue (c.entryFor (c.capture i c.pc)) (advanceSlots c.vec.slots i)) := by
  rw [issueV, afterWait_met _ _ _ hw, Core.seqFull_eq_false hf, if_neg Bool.false_ne_true]
  simp only [Core.issueVec, hs, hb, Core.entryFor, Core.capture_pc]
  rfl

/-- An instruction that accesses no memory and names no slot enters once there is room. -/
theorem enters_of_issueV {i : Instr} (he : ∀ s, exec i s = issueV i s) (hl : lenOf i = 8 := by rfl)
    (hw : vecWait i = .none := by rfl) (hs : ∀ slots, slotTrap slots i = none := by intro _; rfl)
    (ha : ∀ (c : Core) slots n pc sa sb fa shape, c.accesses slots n ⟨i, pc, sa, sb, fa, shape⟩ = (false, []) := by
      intros; rfl)
    (hv : ∀ slots, advanceSlots slots i = slots := by intro _; rfl) : Enters i := by
  intro s hf
  have hb : s.core.boundsTrap s.core.vec.slots 0 (s.core.capture i s.core.pc) = none := by
    have h := ha s.core s.core.vec.slots 0 (s.core.capture i s.core.pc).pc (s.core.capture i s.core.pc).sa
      (s.core.capture i s.core.pc).sb (s.core.capture i s.core.pc).fa (s.core.capture i s.core.pc).shape
    have hi := s.core.capture_ins i s.core.pc
    rw [Core.boundsTrap]
    generalize s.core.capture i s.core.pc = op at h hi
    subst hi
    rw [h]
    rfl
  rw [he, issueV_eq i s hf (by rw [hw]; rfl) (hs _) hb, hl]
  simp only [hv]

/-- Settles O19: the rows enter by `issueV`, and the captured operands are those of their form. -/
theorem vectorRegisterInstructionsEnter : Obligations.VectorRegisterInstructionsEnter := by
  refine ⟨⟨fun o => ?vv, fun o => ?vvv, fun o => ?vvvv, fun o => ?vvn, fun o => ?qvv, fun o => ?qqq,
    fun o => enters_of_issueV (exec_qnot o), fun o => enters_of_issueV (exec_qset o),
    fun o => enters_of_issueV (exec_vcvt o), fun o => enters_of_issueV (exec_vsclset o),
    fun o => enters_of_issueV (exec_vbcs o), fun o => enters_of_issueV (exec_vbcf o),
    fun o => enters_of_issueV (exec_vslide o)⟩,
    fun c pc o g b f v q d => ⟨rfl, rfl, rfl, rfl, rfl, rfl, rfl, rfl, rfl⟩⟩
  case vv =>
    simp only [List.forall_mem_cons, List.not_mem_nil, false_implies, implies_true, and_true]
    exact ⟨enters_of_issueV (exec_vmov o), enters_of_issueV (exec_vsqrt o), enters_of_issueV (exec_vabs o),
      enters_of_issueV (exec_vneg o), enters_of_issueV (exec_vnot o), enters_of_issueV (exec_vpopc o),
      enters_of_issueV (exec_vclz o), enters_of_issueV (exec_vrenorm o), enters_of_issueV (exec_vdeq o),
      enters_of_issueV (exec_vquant o), enters_of_issueV (exec_vexp2 o), enters_of_issueV (exec_vlog2 o),
      enters_of_issueV (exec_vrcp o), enters_of_issueV (exec_vrsqrt o), enters_of_issueV (exec_vsin o),
      enters_of_issueV (exec_vcos o), enters_of_issueV (exec_vtanh o), enters_of_issueV (exec_vsigm o),
      enters_of_issueV (exec_verf o)⟩
  case vvv =>
    simp only [List.forall_mem_cons, List.not_mem_nil, false_implies, implies_true, and_true]
    exact ⟨enters_of_issueV (exec_vsel o), enters_of_issueV (exec_vperm o), enters_of_issueV (exec_vpack o),
      enters_of_issueV (exec_vunpack o), enters_of_issueV (exec_vadd o), enters_of_issueV (exec_vsub o),
      enters_of_issueV (exec_vmul o), enters_of_issueV (exec_vmulh o), enters_of_issueV (exec_vdiv o),
      enters_of_issueV (exec_vmin o), enters_of_issueV (exec_vmax o), enters_of_issueV (exec_vadds o),
      enters_of_issueV (exec_vsubs o), enters_of_issueV (exec_vand o), enters_of_issueV (exec_vor o),
      enters_of_issueV (exec_vxor o), enters_of_issueV (exec_vshl o), enters_of_issueV (exec_vshr o),
      enters_of_issueV (exec_vsra o)⟩
  case vvvv =>
    simp only [List.forall_mem_cons, List.not_mem_nil, false_implies, implies_true, and_true]
    exact ⟨enters_of_issueV (exec_vfma o), enters_of_issueV (exec_vfms o), enters_of_issueV (exec_vfnma o),
      enters_of_issueV (exec_vclamp o)⟩
  case vvn =>
    simp only [List.forall_mem_cons, List.not_mem_nil, false_implies, implies_true, and_true]
    exact ⟨enters_of_issueV (exec_vshli o), enters_of_issueV (exec_vshri o), enters_of_issueV (exec_vsrai o)⟩
  case qvv =>
    simp only [List.forall_mem_cons, List.not_mem_nil, false_implies, implies_true, and_true]
    exact ⟨enters_of_issueV (exec_vceq o), enters_of_issueV (exec_vcne o), enters_of_issueV (exec_vclt o),
      enters_of_issueV (exec_vcle o), enters_of_issueV (exec_vcun o)⟩
  case qqq =>
    simp only [List.forall_mem_cons, List.not_mem_nil, false_implies, implies_true, and_true]
    exact ⟨enters_of_issueV (exec_qand o), enters_of_issueV (exec_qor o), enters_of_issueV (exec_qxor o)⟩

/-- An instruction that `exec` hands to `issueV` enters after its checks. -/
theorem entersChecked_of_issueV {i : Instr} (he : ∀ s, exec i s = issueV i s) (hl : lenOf i = 8 := by rfl) :
    EntersChecked i false := by
  intro s hf hw _ hs hb
  rw [he, issueV_eq i s hf hw hs hb, hl]

/-- The same of one that waits for every earlier entry. -/
theorem entersChecked_of_issueIdx {i : Instr} (he : ∀ s, exec i s = issueIdx i s) (hl : lenOf i = 8 := by rfl) :
    EntersChecked i true := by
  intro s hf hw hd hs hb
  rw [he, issueIdx, if_pos (s.core.seqEmpty_iff.mpr (hd rfl)), issueV_eq i s hf hw hs hb, hl]

/-- Settles O20: the memory forms and the forms that name a slot enter by `issueV`, or by `issueIdx`. -/
theorem vectorMemoryInstructionsEnter : Obligations.VectorMemoryInstructionsEnter :=
  ⟨fun o => entersChecked_of_issueV (exec_vld o), fun o => entersChecked_of_issueV (exec_vst o),
    fun o => entersChecked_of_issueV (exec_vldB o), fun o => entersChecked_of_issueV (exec_vstB o),
    fun o => entersChecked_of_issueV (exec_vlds o), fun o => entersChecked_of_issueIdx (exec_vgather o),
    fun o => entersChecked_of_issueIdx (exec_vscatter o), fun o => entersChecked_of_issueV (exec_vrng o),
    fun o => entersChecked_of_issueV (exec_vrngu o), fun o => entersChecked_of_issueV (exec_vdrop o)⟩

end Sys2Proof.Machine
end

section
/-! PROOF. Instructions that read vectors into scalar registers, slots, loops, and the tile unit at issue (R139 to R150,
R157 to R166, R181 to R197). -/

namespace Sys2Proof.Machine

/-! ## Into scalar registers -/

theorem drained_eq {s : State} (h : s.core.vec.seq = []) (k : Result) : drained s k = k :=
  if_pos (s.core.seqEmpty_iff.mpr h)

theorem drained_stalled {s : State} (h : s.core.vec.seq ≠ []) (k : Result) : drained s k = .next s :=
  if_neg fun h' => h (s.core.seqEmpty_iff.mp h')

theorem commitScalar_eq (i : Instr) (s : State) (raised : Flags) (mask : Word) (w : Core → Core)
    (h : raised &&& s.core.fpEnables = 0) :
    commitScalar i s raised mask w = .next (s.retires (lenOf i) fun c => ((w c).orFlags raised).afterHold i) := by
  rw [commitScalar, h]; rfl

theorem reduction_eq (i : Instr) (k : VCtl) (d : ScalarDst) (r : Word × Flags) (s : State) (hq : s.core.vec.seq = [])
    (h : r.2 &&& s.core.fpEnables = 0) :
    reduction i k d r s = .next (s.retires (lenOf i) fun c => ((c.wrScalar d r.1).orFlags r.2).afterHold i) := by
  rw [reduction, drained_eq hq, commitScalar_eq _ _ _ _ _ h]

theorem extractLsb'_eq_ofNat (q : BitVec 128) (k : Nat) : q.extractLsb' k 64 = BitVec.ofNat 64 (q.toNat / 2 ^ k) := by
  apply BitVec.eq_of_toNat_eq
  rw [BitVec.extractLsb'_toNat, BitVec.toNat_ofNat, Nat.shiftRight_eq_div_pow]

theorem execVmvf_eq (o : FFromV) (s : State) (hq : s.core.vec.seq = [])
    (h : (elemToF o.k.et (s.core.elem o.a o.k.et o.e.val)).2 &&& s.core.fpEnables = 0) :
    execVmvf o s = .next (s.retires 8 fun c =>
      ((c.wrF o.d (elemToF o.k.et (s.core.elem o.a o.k.et o.e.val)).1).orFlags
        (elemToF o.k.et (s.core.elem o.a o.k.et o.e.val)).2).afterHold (.vmvf o)) := by
  rw [execVmvf, drained_eq hq]
  unfold Core.elem at h ⊢
  unfold at0
  generalize elemToF o.k.et _ = r at h ⊢
  obtain ⟨x, f⟩ := r
  dsimp only at h ⊢
  rw [commitScalar_eq _ _ _ _ _ h, lenOf_vmvf]

/-- A retirement depends on its change of the core in focus alone. -/
theorem State.retires_congr (s : State) (len : Nat) {f g : Core → Core} (h : f s.core = g s.core) :
    s.retires len f = s.retires len g := by simp only [State.retires, State.mapCore, h]

/-- Settles O23: on an empty sequencer the rows commit at once, and `vsync` looks at the SFU too. -/
theorem vectorToScalarCompletes : Obligations.VectorToScalarCompletes := by
  refine ⟨fun s hq => ⟨fun o => ?vmvs, fun o h => ?vmvf, fun o => ?qget, fun o => ?qpopc, fun o => ?vsclget,
    fun o i r hi h => ?red, fun o h => ?vdot⟩, fun s => ⟨fun hq hs => ?vsync, fun h => ?stays⟩⟩
  case vmvs =>
    rw [PutsHeld, exec_vmvs, execVmvs, drained_eq hq, done_eq, lenOf_vmvs]
    exact congrArg Host.Outcome.next (State.retires_congr s 8 rfl)
  case vmvf => rw [PutsHeld, exec_vmvf, execVmvf_eq o s hq h]
  case qget =>
    rw [PutsHeld, exec_qget, execQget, drained_eq hq, done_eq, lenOf_qget]
    exact congrArg Host.Outcome.next (State.retires_congr s 8 (by rw [extractLsb'_eq_ofNat]))
  case qpopc =>
    rw [PutsHeld, exec_qpopc, execQpopc, drained_eq hq, done_eq, lenOf_qpopc]
    exact congrArg Host.Outcome.next (State.retires_congr s 8 (by rw [popBits_eq]; rfl))
  case vsclget => rw [PutsHeld, exec_vsclget, execVsclget, drained_eq hq, done_eq, lenOf_vsclget]
  case red =>
    simp only [List.mem_cons, Prod.mk.injEq, List.not_mem_nil, or_false] at hi
    rcases hi with ⟨rfl, rfl⟩ | ⟨rfl, rfl⟩ | ⟨rfl, rfl⟩
    · rw [PutsHeld, exec_vrsum, execVrsum, reduction_eq _ _ _ _ _ hq h, lenOf_vrsum]
    · rw [PutsHeld, exec_vrmax, execVrmax, reduction_eq _ _ _ _ _ hq h, lenOf_vrmax]
    · rw [PutsHeld, exec_vrmin, execVrmin, reduction_eq _ _ _ _ _ hq h, lenOf_vrmin]
  case vdot => rw [PutsHeld, exec_vdot, execVdot, reduction_eq _ _ _ _ _ hq h, lenOf_vdot]
  case vsync =>
    have hs : s.sfuOwes s.cid = false := hs
    rw [exec_vsync, execVsync, hs, if_neg Bool.false_ne_true, drained_eq hq, doneIn_eq, lenOf_vsync]
  case stays =>
    rw [exec_vsync, execVsync]
    split
    · rw [stalled_eq]
    · next hs => exact drained_stalled (h.resolve_right fun h' => h' (eq_false_of_ne_true hs)) _

/-! ## Reads of records -/

/-- A record whose place passes its checks is read piece by piece. -/
theorem withRecord_readsOn {i : Instr} {a : Word} {s : State} {k : Nat → Result} (he : exec i s = withRecord i a s k)
    (ht : s.core.shapeTrap a = none) : ReadsOn i a.toNat 64 s := by
  intro h
  rw [he, withRecord, ht]
  exact if_neg (Nat.not_le.mpr h)

/-- With its last piece the record is read. -/
theorem withRecord_eq {i : Instr} {a : Word} {s : State} {k : Nat → Result} {bs : List Byte}
    (ht : s.core.shapeTrap a = none) (hr : s.core.hasRead a.toNat 64 bs) :
    withRecord i a s k = k (ofBytesLE bs) := by
  obtain ⟨hb, hn⟩ := hr
  rw [withRecord, ht]
  simp only [readPieces, hb, if_pos hn]

/-! ## Loops -/

theorem bodyWord_any_eq_false {body : List SeqOp} {c : Core} (h : ∀ op ∈ body, c.regsPending op.ins = false) :
    (body.any fun op => c.regsPending op.ins) = false := List.any_eq_false.mpr fun op ho => by simp [h op ho]

/-- A loop whose body and waits pass goes on behind its body. -/
theorem execVloop_eq (o : VLoopOp) (s : State) (body : List SeqOp) (after : Word) (c' : Core)
    (hn : (s.core.rdS o.a + o.imm.signExtend 64).toNat ≤ 0xFFFFFFFF) (hl : s.loopIn o = .ok (body, after))
    (hp : ∀ op ∈ body, s.core.regsPending op.ins = false) (hw : s.core.bodyWaitsOk body = true)
    (hf : (s.core.rdS o.a + o.imm.signExtend 64).toNat = 0 ∨ s.core.vec.seq.length < 16)
    (hi : s.core.issueLoop body (s.core.rdS o.a + o.imm.signExtend 64).toNat = .ok c') :
    execVloop o s =
      .next { s with core := ({ c' with vec := { c'.vec with resume := none } } : Core).retireTo after } := by
  have hfull : ((s.core.rdS o.a + o.imm.signExtend 64).toNat != 0 && s.core.seqFull) = false := by
    rcases hf with h | h
    · rw [h]; rfl
    · rw [Core.seqFull_eq_false h, Bool.and_false]
  simp only [execVloop, imm30, if_neg (Nat.not_lt.mpr hn), hl, bodyWord_any_eq_false hp, hw, hfull, hi, Bool.not_true,
    Bool.or_self, Bool.false_eq_true, if_false]

theorem Core.issueLoop_zero {c : Core} {body : List SeqOp} (h : ∃ slots, bodySlots body c.vec.slots = .ok slots) :
    c.issueLoop body 0 = .ok c := by
  obtain ⟨slots, h⟩ := h
  simp [Core.issueLoop, h]

theorem Core.issueLoop_eq {c : Core} {body : List SeqOp} {n : Nat} {slots : Vector SlotState 4} (hn : n ≠ 0)
    (h : ∃ slots, bodySlots body c.vec.slots = .ok slots) (hb : c.loopBounds body n 0 c.vec.slots = .ok slots) :
    c.issueLoop body n =
      .ok (c.enqueue ⟨c.pc, body, true, n, 0, 0, c.vec.slots, .none, none, none⟩ slots) := by
  obtain ⟨slots', h⟩ := h
  simp [Core.issueLoop, h, hn, hb]

/-- Settles O24: a record that has been read binds its slot, and a loop is one entry. -/
theorem slotsAndLoopsAreSetUp : Obligations.SlotsAndLoopsAreSetUp := by
  intro s
  refine ⟨fun slot a ha ht => ?vsetsh, fun d slot => ?vitr, fun d slot f => ?vshget,
    fun o body after hn hl hp hw hs => ⟨fun h0 => ?none, fun slots h0 hf hb => ?loop⟩⟩
  case vsetsh =>
    have he : exec (.vsetsh slot a) s = _ := exec_vsetsh slot a s
    rw [execVsetsh, if_neg (by simp [ha])] at he
    refine ⟨withRecord_readsOn he ht, fun bs r hr hsh => ?_⟩
    rw [he, withRecord_eq ht hr, hsh]
    rfl
  case vitr => rw [exec_vitr, execVitr, done_eq, lenOf_vitr]; rfl
  case vshget =>
    rw [exec_vshget, execVshget, done_eq, lenOf_vshget]
    cases h : (s.core.vec.slots.get slot).bound <;> simp only [State.puts, State.retires, State.mapCore, h] <;> rfl
  case none =>
    have hz : (s.core.rdS o.a + o.imm.signExtend 64).toNat = 0 := h0
    rw [exec_vloop, execVloop_eq o s body after s.core hn hl hp hw (.inl hz) (by rw [hz]; exact Core.issueLoop_zero hs)]
    rfl
  case loop =>
    rw [exec_vloop, execVloop_eq o s body after _ hn hl hp hw (.inr hf) (Core.issueLoop_eq h0 hs hb)]
    rfl

/-! ## The tile unit -/

theorem exec_toInstr (op : TileOp) (s : State) : exec op.toInstr s = issueT op s := by
  cases op with
  | tld o => exact exec_tld o s
  | tst o => exact exec_tst o s
  | tzero d => exact exec_tzero d s
  | ttr o => exact exec_ttr o s
  | zzero d tz => exact exec_zzero d tz s
  | zst o => exact exec_zst o s
  | tmma o => exact exec_tmma o s
  | tmmo o => exact exec_tmmo o s
  | tsacc o => exact exec_tsacc o s
  | tepi o => exact exec_tepi o s
  | tmrot o => exact exec_tmrot o s

theorem issueWith_eq (op : TileOp) (x : Nat) (s : State) (shape : Option ShapeRec)
    (h : s.core.tileCheck op x = .ok shape) :
    issueWith op x s = .next (s.retires 8 fun c =>
      { c.enqueue (c.entryFor ⟨op.toInstr, c.pc, 0, 0, 0, shape⟩) c.vec.slots with
        cnt := { c.cnt with tl := c.cnt.tl + 1 } }) := by
  simp only [issueWith, Core.issueTile, h]
  rfl

theorem issueT_eq (op : TileOp) (s : State) (hf : s.core.vec.seq.length < 16)
    (hq : readsRecord op = true → s.core.vec.seq = []) :
    issueT op s = match recordReg op with
      | some r => withRecord op.toInstr (s.core.rdS r) s fun x => issueWith op x s
      | none => issueWith op 0 s := by
  have hd : (readsRecord op && !s.core.seqEmpty) = false := by
    cases h : readsRecord op
    · rfl
    · rw [s.core.seqEmpty_iff.mpr (hq h)]; rfl
  rw [issueT, hd, if_neg Bool.false_ne_true, Core.seqFull_eq_false hf, if_neg Bool.false_ne_true] <;> rfl

/-- Settles O25: a tile instruction issues with its record as read, and `tfol` keeps its word. -/
theorem tileInstructionsEnter : Obligations.TileInstructionsEnter := by
  refine ⟨fun op => ⟨fun s bs shape hf hq hr hc => ?enters, fun s r hq hr ht => ?reads⟩, fun ch op s => ?tfol⟩
  case enters =>
    rw [exec_toInstr, issueT_eq op s hf hq]
    cases h : recordReg op with
    | none =>
      rw [h] at hr
      subst hr
      exact issueWith_eq op 0 s shape hc
    | some r =>
      rw [h] at hr
      obtain ⟨ht, hr⟩ := hr
      simp only [withRecord_eq ht hr]
      exact issueWith_eq op _ s shape hc
  case reads =>
    refine withRecord_readsOn (k := fun x => issueWith op x s) ?_ ht
    rw [exec_toInstr, issueT_eq op s (by simp [hq]) fun _ => hq, hr]
  case tfol => rw [exec_tfol, execTfol, done_eq, lenOf_tfol]; rfl

end Sys2Proof.Machine
end

section
/-! PROOF. Remote operations at their issuer: what is issued, what traps or waits, and what issuing does (R222 to R233). -/

namespace Sys2Proof.Machine

/-! ## Room in the counters -/

theorem Core.stFull_eq_false {c : Core} (h : c.cnt.st < 512) : c.stFull = false := decide_eq_false (Nat.not_le.mpr h)
theorem Core.stFull_eq_true {c : Core} (h : 512 ≤ c.cnt.st) : c.stFull = true := decide_eq_true h
theorem Core.ldFull_eq_false {c : Core} (h : c.cnt.ld < 32) : c.ldFull = false := decide_eq_false (Nat.not_le.mpr h)
theorem Core.ldFull_eq_true {c : Core} (h : 32 ≤ c.cnt.ld) : c.ldFull = true := decide_eq_true h

theorem Core.msgFull_eq_false {c : Core} (h : c.cnt.st < 512) (hm : c.openMsgs < c.inbox.spawnlim.toNat) :
    c.msgFull = false := by
  rw [Core.msgFull, Core.stFull_eq_false h, decide_eq_false (Nat.not_le.mpr hm)]; rfl

/-! ## Operations that are issued -/

theorem postStore_eq (i : Instr) (ea : Word) (n x : Nat) (o : Bool) (s : State) (h : RemoteOk ea n)
    (hs : s.core.cnt.st < 512) : postStore i ea n x o s =
      .next ((s.issue .store (targetOf ea) o ea (.write (offsetOf ea) (toBytesLE n x))).retires (lenOf i) id) := by
  simp only [postStore, remoteTrap_ok h, Core.stFull_eq_false hs, Bool.false_eq_true, if_false, remoteCid_eq,
    remoteLocal_eq, doneIn_eq]

theorem sendMsg_eq (i : Instr) (d : SReg) (o : Bool) (h : Word) (ws : List Word) (p : Option Payload) (s : State)
    (hf : s.core.msgFull = false) : sendMsg i d o h ws p s =
      .next ((s.issue .msg (s.core.rdS d).toNat o
        (remoteAddr (s.core.rdS d).toNat ((p.map fun p => p.landing.toNat % 2 ^ 21).getD 0)) (.msg h ws p)).retires
          (lenOf i) id) := by
  cases p <;> simp only [sendMsg, hf, Bool.false_eq_true, if_false, doneIn_eq, Option.map_none, Option.map_some,
    Option.getD_none, Option.getD_some]

theorem cidZeros_of {x : Word} (h : NamesCore x) : (!cidZeros x) = false := by rw [(cidZeros_iff x).mpr h]; rfl
theorem cidZeros_of_not {x : Word} (h : ¬ NamesCore x) : (!cidZeros x) = true := by
  rw [eq_false_of_ne_true fun e => h ((cidZeros_iff x).mp e)]; rfl

theorem plainMsg_eq (i : Instr) (o : MsgOp) (n : Nat) (s : State) (hw : s.core.waitOk o.wt = true)
    (hx : NamesCore (s.core.rdS o.d)) (hs : s.core.cnt.st < 512) (hm : s.core.openMsgs < s.core.inbox.spawnlim.toNat) :
    plainMsg i o n s = .next ((s.issue .msg (s.core.rdS o.d).toNat o.o (s.core.rdS o.d <<< 32)
      (.msg (s.core.rdS o.a) (s.core.rdRun o.b n) none)).retires (lenOf i) id) := by
  rw [plainMsg, afterWait_met _ _ _ hw, cidZeros_of hx, if_neg Bool.false_ne_true,
    sendMsg_eq _ _ _ _ _ _ _ (Core.msgFull_eq_false hs hm), Option.map_none, Option.getD_none, remoteAddr0]

theorem msgXformOk_of {code len : Nat} {ws : List Word} (h : code ≠ 0 → msgXformOk code len ws = true) :
    msgXformOk code len ws = true := by
  by_cases h0 : code = 0
  · subst h0; rfl
  · exact h h0

theorem payloadTrap_none {o : MsgPayOp} {c : Core} {ws : List Word} (hx : NamesCore (c.rdS o.d))
    (ha : c.okAccess (c.rdS o.c).toNat o.len = true) (hm : msgXformOk o.code.val o.len ws = true)
    (hb : c.badIn (c.rdS o.c).toNat o.len = none) : payloadTrap o c ws = none := by
  simp only [payloadTrap, cidZeros_of hx, ha, hm, hb, Bool.not_true, Bool.false_eq_true, if_false, Option.map_none]

/-- An `amsgp` that passes its checks reads its payload, piece by piece, and sends. -/
theorem execAmsgp_eq (o : MsgPayOp) (s : State) (hw : s.core.waitOk o.wt = true) (hq : s.core.vec.seq = [])
    (ht : payloadTrap o s.core (s.core.rdRun o.b 4) = none) (hf : s.core.msgFull = false) :
    execAmsgp o s = readPieces (.amsgp o) (s.core.rdS o.c).toNat o.len s fun bs =>
      sendMsg (.amsgp o) o.d o.o (s.core.rdS o.a) (s.core.rdRun o.b 4)
        (some ⟨(s.core.rdRun o.b 4).getD 3 0, bs, o.code.val⟩) s := by
  simp only [execAmsgp, afterWait_met _ _ _ hw, drained_eq hq, ht, hf, Bool.false_eq_true, if_false]

theorem readPieces_readsOn {i : Instr} {a n : Nat} {s : State} {k : List Byte → Result}
    (he : exec i s = readPieces i a n s k) : ReadsOn i a n s := by
  intro h
  rw [he, readPieces]
  exact if_neg (Nat.not_le.mpr h)

theorem readPieces_eq {i : Instr} {a n : Nat} {s : State} {k : List Byte → Result} {bs : List Byte}
    (h : s.core.hasRead a n bs) : readPieces i a n s k = k bs := by
  obtain ⟨hb, hn⟩ := h
  simp only [readPieces, hb, if_pos hn]

theorem sameCluster_ne {x : Word} {cid : Nat} (h : x.toNat / 16 = cid / 16) : (x.toNat / 16 != cid / 16) = false := by
  simp [h]

/-- Settles O26: past its checks each row issues the one operation of its operands. -/
theorem remoteOperationsAreIssued : Obligations.RemoteOperationsAreIssued := by
  refine ⟨⟨fun o s hw hr hs => ?rst, fun o s hw hr hs hq => ?rstv, fun o s hw hr hl => ?rld, fun o s hw hr hs hl => ?ramo,
    fun a k s hx hs => ?mint, fun a s hx hc hq => ?bfree⟩, fun o s hw hx hs hm => ⟨?amsg, ?amsgl⟩,
    fun o s hw hq hx ha hm hb hs ho => ?amsgp⟩
  case rst => rw [exec_rst, execRst, afterWait_met _ _ _ hw, postStore_eq _ _ _ _ _ _ hr hs, lenOf_rst]
  case rstv => rw [exec_rstv, execRstv, afterWait_met _ _ _ hw, drained_eq hq, postStore_eq _ _ _ _ _ _ hr hs, lenOf_rstv]
  case rld =>
    rw [exec_rld, execRld, afterWait_met _ _ _ hw]
    simp only [remoteTrap_ok hr, Core.ldFull_eq_false hl, Bool.false_eq_true, if_false, remoteCid_eq, remoteLocal_eq,
      doneIn_eq, lenOf_rld]
  case ramo =>
    have hr : RemoteOk (s.core.eaOff o.a o.off) o.size.bytes := hr
    have hf : (if o.nr then s.core.stFull else s.core.ldFull) = false := by
      cases hn : o.nr
      · exact Core.ldFull_eq_false (hl hn)
      · exact Core.stFull_eq_false (hs hn)
    rw [exec_ramo, execRamo, afterWait_met _ _ _ hw]
    simp only [remoteTrap_ok hr, hf, Bool.false_eq_true, if_false, remoteCid_eq, remoteLocal_eq, doneIn_eq, lenOf_ramo]
    rfl
  case mint =>
    rw [exec_mint, execMint, cidZeros_of hx, if_neg Bool.false_ne_true, Core.stFull_eq_false hs,
      if_neg Bool.false_ne_true, remoteAddr0, doneIn_eq, lenOf_mint]
  case bfree =>
    rw [exec_bfree, execBfree, cidZeros_of hx, sameCluster_ne hc, Bool.or_self, if_neg Bool.false_ne_true, drained_eq hq,
      doneIn_eq, lenOf_bfree]
  case amsg => rw [exec_amsg, execAmsg, plainMsg_eq _ _ _ _ hw hx hs hm, lenOf_amsg]; rfl
  case amsgl => rw [exec_amsgl, execAmsgl, plainMsg_eq _ _ _ _ hw hx hs hm, lenOf_amsgl]; rfl
  case amsgp =>
    have hf := Core.msgFull_eq_false hs ho
    have he : exec (.amsgp o) s = _ := (exec_amsgp o s).trans
      (execAmsgp_eq o s hw hq (payloadTrap_none hx ha (msgXformOk_of hm) hb) hf)
    refine ⟨readPieces_readsOn he, fun bs hbs => ?_⟩
    rw [he, readPieces_eq hbs, sendMsg_eq _ _ _ _ _ _ _ hf, lenOf_amsgp]
    rfl

/-! ## Checks and waits -/

theorem plainMsg_trap (i : Instr) (o : MsgOp) (n : Nat) (s : State) (hw : s.core.waitOk o.wt = true)
    (ho : s.core.trapHeld = false) (hx : ¬ NamesCore (s.core.rdS o.d)) :
    plainMsg i o n s = .next (s.traps 0x05 (s.core.rdS o.d)) := by
  rw [plainMsg, afterWait_met _ _ _ hw, if_pos (cidZeros_of_not hx), raise_eq _ _ ho]; rfl

theorem execRst_full (o : RstOp) (s : State) (hw : s.core.waitOk o.m.wt = true)
    (hr : RemoteOk (s.core.ea o.m o.size.bytes) o.size.bytes) (h : 512 ≤ s.core.cnt.st) : execRst o s = .next s.waits := by
  rw [execRst, afterWait_met _ _ _ hw, postStore, remoteTrap_ok hr]
  exact if_pos (Core.stFull_eq_true h)

theorem execRld_full (o : RldOp) (s : State) (hw : s.core.waitOk o.m.wt = true)
    (hr : RemoteOk (s.core.ea o.m o.size.bytes) o.size.bytes) (h : 32 ≤ s.core.cnt.ld) : execRld o s = .next s.waits := by
  rw [execRld, afterWait_met _ _ _ hw]
  simp only [remoteTrap_ok hr]
  exact if_pos (Core.ldFull_eq_true h)

/-- Settles O27: the checks of R222 come behind the wait field, and a full counter behind the checks. -/
theorem remoteChecksTrapOrWait : Obligations.RemoteChecksTrapOrWait := by
  intro s
  refine ⟨fun o => ⟨?rst, ?rstWaits⟩, fun o => fun hq => ?rstv, fun o => ⟨?rld, ?rldWaits⟩, fun o => ?ramo,
    fun o hw ho hx => ⟨?amsg, ?amsgl⟩, fun a k ho hx => ?mint, fun a ho hx => ?bfree⟩
  case rst => exact checksRemote_of _ _ _ _ _ _ _ (exec_rst o s)
  case rstWaits =>
    intro h
    rw [exec_rst]
    cases hw : s.core.waitOk o.m.wt with
    | false => exact afterWait_unmet _ _ _ hw
    | true =>
      obtain ⟨hr, hc⟩ := h.resolve_left (by simp [hw])
      exact execRst_full o s hw hr hc
  case rstv =>
    have he := exec_rstv o s
    rw [execRstv, drained_eq hq] at he
    exact checksRemote_of _ _ _ _ _ _ _ he
  case rld => exact checksRemote_of _ _ _ _ _ _ _ (exec_rld o s)
  case rldWaits =>
    intro h
    rw [exec_rld]
    cases hw : s.core.waitOk o.m.wt with
    | false => exact afterWait_unmet _ _ _ hw
    | true =>
      obtain ⟨hr, hc⟩ := h.resolve_left (by simp [hw])
      exact execRld_full o s hw hr hc
  case ramo => exact checksRemote_of _ _ _ _ _ _ _ (exec_ramo o s)
  case amsg => rw [exec_amsg, execAmsg, plainMsg_trap _ _ _ _ hw ho hx]
  case amsgl => rw [exec_amsgl, execAmsgl, plainMsg_trap _ _ _ _ hw ho hx]
  case mint => rw [exec_mint, execMint, if_pos (cidZeros_of_not hx), raise_eq _ _ ho]; rfl
  case bfree =>
    have h : (!cidZeros (s.core.rdS a) || (s.core.rdS a).toNat / 16 != s.cid / 16) = true := by
      by_cases hn : NamesCore (s.core.rdS a)
      · simpa [cidZeros_of hn] using fun e => hx ⟨hn, e⟩
      · rw [cidZeros_of_not hn, Bool.true_or]
    rw [exec_bfree, execBfree, if_pos h, raise_eq _ _ ho]; rfl

/-! ## Issuing -/

theorem reachOf_eq (src dst : Nat) : reachOf src dst =
    if src / 4096 = dst / 4096 then (if src / 16 % 128 = dst / 16 % 128 then .cluster else .package) else .fabric := by
  by_cases h : src / 4096 = dst / 4096 <;> by_cases h' : src / 16 % 128 = dst / 16 % 128 <;>
    simp [reachOf, pkgOf, clusterOf, h, h']

/-- What sending does to the core in focus and to the numbers of operations: nothing. -/
theorem State.onPort_core (s : State) (k : Nat) (f : Port → Port) :
    (s.onPort k f).core = s.core ∧ (s.onPort k f).tags = s.tags := by
  unfold State.onPort; split <;> exact ⟨rfl, rfl⟩

theorem State.transmit_core (s : State) (pkg : Nat) (o : Bool) (b : FlitBody) :
    ((s.transmit pkg o b).getD s).core = s.core ∧ ((s.transmit pkg o b).getD s).tags = s.tags := by
  unfold State.transmit
  cases s.portTo pkg o with
  | none => exact ⟨rfl, rfl⟩
  | some k => exact s.onPort_core k fun p => p.enqueue pkg o b

theorem State.answer_core (s : State) (r : Reply) : (s.answer r).core = s.core ∧ (s.answer r).tags = s.tags := by
  unfold State.answer
  split
  · exact ⟨rfl, rfl⟩
  · exact s.transmit_core _ _ _

theorem State.send_core (s : State) (p : Packet) : (s.send p).core = s.core ∧ (s.send p).tags = s.tags := by
  unfold State.send
  split
  · exact s.answer_core _
  · split
    · exact ⟨rfl, rfl⟩
    · unfold State.transmit
      cases s.portTo (pkgOf p.dst) p.ordered with
      | none => exact s.answer_core _
      | some k => exact s.onPort_core k fun q => q.enqueue (pkgOf p.dst) p.ordered (.packet p)

theorem State.send_here (s : State) (p : Packet) (he : s.exists_ p.dst = true) (hp : pkgOf p.dst = s.pkg) :
    s.send p = { s with net := s.net ++ [p] } := by simp [State.send, he, hp]

theorem State.send_nowhere (s : State) (p : Packet) (he : s.exists_ p.dst = false) (hp : pkgOf p.src = s.pkg) :
    s.send p = { s with back := s.back ++ [⟨p.src, p.ctx, p.tag, .nack p.nackCause⟩] } := by
  simp [State.send, he, State.nack, State.answer, Packet.answer, hp]

theorem Counters.addSt_fields (n : Counters) (r : Reach) :
    (n.addSt r).ld = n.ld ∧ (n.addSt r).stcl = n.stcl + (if r = .cluster then 1 else 0) ∧
    (n.addSt r).stpk = n.stpk + (if r = .package then 1 else 0) ∧
    (n.addSt r).stfb = n.stfb + (if r = .fabric then 1 else 0) ∧ (n.addSt r).cp = n.cp ∧ (n.addSt r).tl = n.tl := by
  cases r <;> simp [Counters.addSt]

/-- Settles O28: an operation is counted by its class and sent. -/
theorem issuingCountsAndSends : Obligations.IssuingCountsAndSends := by
  intro s kind dst ordered ea pk t p sameCluster samePackage
  have ht : t = State.send { s with
    core := s.core.issueOut ⟨s.tags, kind, .core dst, reachOf s.cid dst, s.core.pc, ea⟩, tags := s.tags + 1 } p := rfl
  obtain ⟨hcore, htags⟩ := State.send_core { s with
    core := s.core.issueOut ⟨s.tags, kind, .core dst, reachOf s.cid dst, s.core.pc, ea⟩, tags := s.tags + 1 } p
  rw [← ht] at hcore htags
  obtain ⟨hld, hcl, hpk, hfb, hcp, htl⟩ := s.core.cnt.addSt_fields (reachOf s.cid dst)
  have hr := reachOf_eq s.cid dst
  refine ⟨fun hk => ?counts, ?cp, ?tl, ?core, htags, fun he hp => ?sent, fun he => ?refused⟩
  case counts =>
    rw [hcore]
    cases hl : kind.isLoad
    · simp only [Core.issueOut, hk, hl, Bool.false_eq_true, if_false, hld, hcl, hpk, hfb]
      by_cases h : samePackage <;> by_cases h' : sameCluster <;>
        simp [hr, h, h', show _ = _ ↔ samePackage from Iff.rfl, show _ = _ ↔ sameCluster from Iff.rfl]
    · simp [Core.issueOut, hk, hl]
  case cp => rw [hcore]; simp only [Core.issueOut]; split <;> (try split) <;> simp [hcp]
  case tl => rw [hcore]; simp only [Core.issueOut]; split <;> (try split) <;> simp [htl]
  case core => rw [hcore]; rfl
  case sent =>
    have hp : pkgOf dst = s.pkg := hp.symm
    rw [ht, State.send_here _ _ he hp]
    exact ⟨rfl, rfl⟩
  case refused =>
    rw [ht, State.send_nowhere _ _ he rfl]
    exact ⟨rfl, rfl⟩

end Sys2Proof.Machine
end

section
/-! PROOF. `wait`, `fence`, `mbwait` and barriers (R226, R230, R241 to R243, R356, R383, R400). -/

namespace Sys2Proof.Machine

/-! ## Waits -/

theorem Core.waitMet_iff (c : Core) (o : WaitOp) : c.waitMet o = true ↔
    (o.ld = 63 ∨ c.cnt.ld ≤ o.ld.val) ∧ (o.st = 63 ∨ c.cnt.st ≤ o.st.val) ∧ (o.cp = 63 ∨ c.cnt.cp ≤ o.cp.val) ∧
      (o.tl = 63 ∨ c.cnt.tl ≤ o.tl.val) := by
  simp only [Core.waitMet, Bool.and_eq_true, Bool.or_eq_true, beq_iff_eq, decide_eq_true_eq, and_assoc]

theorem waitOp_covers_iff (o : WaitOp) (k : OpClass) : WaitOp_covers o k = true ↔
    (k = .ld ∧ o.ld ≠ 63) ∨ (k = .st ∧ o.st ≠ 63) ∨ (k = .cp ∧ o.cp ≠ 63) ∨ (k = .tl ∧ o.tl ≠ 63) := by
  cases k <;> simp [WaitOp_covers]

theorem Core.failureIn_congr (c : Core) {cls cls' pend pend' : OpClass → Prop} (h : ∀ k, cls k ↔ cls' k)
    (h' : ∀ k, pend k ↔ pend' k) : c.failureIn cls pend ↔ c.failureIn cls' pend' := by
  simp only [Core.failureIn, h, h']

theorem stCp_iff (k : OpClass) : stCp k = true ↔ k = .st ∨ k = .cp := by simp [stCp]

theorem State.fenceFails_iff (s : State) (sc : FenceScope) : s.fenceFails sc ↔
    s.core.failureIn (fun k => stCp k = true ∧ s.inScope sc s.core.failDest = true) (fun k => stCp k = true) :=
  s.core.failureIn_congr (fun k => by rw [stCp_iff]) fun k => (stCp_iff k).symm

/-- A `fence` of any scope reports once it is met, and waits until then. -/
theorem fence_ends {i : Instr} {sc : FenceScope} {s : State} (he : exec i s = fence i sc s) (hl : lenOf i = 8) :
    (s.fenceDone sc → Reports i s (s.fenceFails sc) (exec i s = .next (s.retires 8 id))) ∧
    (¬ s.fenceDone sc → exec i s = .next s.waits) := by
  refine ⟨fun h => ?met, fun h => ?unmet⟩
  case met =>
    have hm : (!s.fenceMet sc) = false := by rw [(s.fenceMet_iff sc).mpr h]; rfl
    rw [fence, hm, if_neg Bool.false_ne_true] at he
    exact reports_of i s _ _ _ _ _ he (s.fenceFails_iff sc) fun e => by rw [e, doneIn_eq, hl]
  case unmet =>
    have hm : (!s.fenceMet sc) = true := by
      rw [eq_false_of_ne_true fun e => h ((s.fenceMet_iff sc).mp e)]; rfl
    rw [he, fence, if_pos hm, waiting_eq]

theorem Core.mbMet_iff (c : Core) (a : SReg) :
    c.mbMet a = true ↔ (c.copy.mbox - (c.rdS a).setWidth 32).toNat < 2 ^ 31 := decide_eq_true_iff

/-! ## Scopes -/

theorem div_4096_of_div_16 {a b : Nat} (h : a / 16 = b / 16) : a / 4096 = b / 4096 := by omega

theorem clusterOf_of_div_16 {a b : Nat} (h : a / 16 = b / 16) : clusterOf a = clusterOf b := by
  simp only [clusterOf, h]

theorem State.dieOf_congr (s : State) {a b : Nat} (h : clusterOf a = clusterOf b) : s.dieOf a = s.dieOf b := by
  simp only [State.dieOf, h]

/-- Settles O29: the conditions of the waits are the model's, and the scopes are read off their cases. -/
theorem waitsAndFencesEndWhenMet : Obligations.WaitsAndFencesEndWhenMet := by
  refine ⟨fun s => ⟨fun o => ⟨fun h => ?waitMet, fun h => ?waitUnmet⟩, fun i sc hi => ?fence,
    fun a => ⟨fun h => ?mbMet, fun h => ?mbUnmet⟩⟩, fun s cid va h => ?scopes⟩
  case waitMet =>
    have hm : (!s.core.waitMet o) = false := by rw [(s.core.waitMet_iff o).mpr h]; rfl
    have he := exec_wait o s
    rw [execWait, hm, if_neg Bool.false_ne_true] at he
    refine reports_of _ s _ _ _ _ _ he (s.core.failureIn_congr (fun k => ?_) fun k => (waitOp_covers_iff o k).symm)
      fun e => by rw [e, doneIn_eq, lenOf_wait]
    rw [waitOp_covers_iff, eq_self, and_true]
  case waitUnmet =>
    have hm : (!s.core.waitMet o) = true := by
      rw [eq_false_of_ne_true fun e => h ((s.core.waitMet_iff o).mp e)]; rfl
    rw [exec_wait, execWait, if_pos hm, waiting_eq]
  case fence =>
    simp only [List.mem_cons, Prod.mk.injEq, List.not_mem_nil, or_false] at hi
    rcases hi with ⟨rfl, rfl⟩ | ⟨rfl, rfl⟩ | ⟨rfl, rfl⟩ | ⟨rfl, rfl⟩ | ⟨rfl, rfl⟩
    · exact fence_ends (exec_fenceCore s) lenOf_fenceCore
    · exact fence_ends (exec_fenceCluster s) lenOf_fenceCluster
    · exact fence_ends (exec_fenceDie s) lenOf_fenceDie
    · exact fence_ends (exec_fencePackage s) lenOf_fencePackage
    · exact fence_ends (exec_fenceFabric s) lenOf_fenceFabric
  case mbMet => rw [exec_mbwait, execMbwait, if_pos ((s.core.mbMet_iff a).mpr h), doneIn_eq, lenOf_mbwait]
  case mbUnmet =>
    rw [exec_mbwait, execMbwait, if_neg fun e => h ((s.core.mbMet_iff a).mp e), waiting_eq]
  case scopes =>
    refine ⟨rfl, rfl, rfl, fun d => by cases d <;> rfl, rfl, fun sc hsc => ?_, fun _ => rfl, fun hc => ?_, fun hd => ?_⟩
    · rcases hsc with rfl | rfl | rfl <;> exact ⟨rfl, fun _ => rfl⟩
    · have hc : cid / 16 = s.cid / 16 := by simpa [State.inScope] using hc
      simp [State.inScope, State.pkg, pkgOf, div_4096_of_div_16 hc, s.dieOf_congr (clusterOf_of_div_16 hc)]
    · exact (Bool.and_eq_true _ _ ▸ hd : _ ∧ _).1

/-! ## Arriving at a barrier -/

theorem barsOf_map_arrived (bs : List BarState) (b : BarInst) (f : BarState → BarState) (hf : ∀ x, (f x).inst = x.inst) :
    barsOf (bs.map fun x => if x.inst == b then f x else x) b = (barsOf bs b).map f := by
  induction bs with
  | nil => rfl
  | cons x bs ih =>
    unfold barsOf at ih ⊢
    cases hx : x.inst == b
    · have hne : ¬ x.inst = b := by simpa using hx
      simpa [hne] using ih
    · simp [eq_of_beq hx, hf]

/-- An arrival is noted at its instance. -/
theorem State.arrive_bars (s : State) (b : BarInst) :
    ∃ x, barsOf (s.arrive b).bars b = some x ∧ s.cid ∈ x.arrived := by
  cases h : barsOf s.bars b with
  | some x =>
    refine ⟨{ x with arrived := x.arrived ++ [s.cid] }, ?_, by simp⟩
    simp only [State.arrive, h]
    rw [barsOf_map_arrived _ _ (fun x => { x with arrived := x.arrived ++ [s.cid] }) fun _ => rfl, h]
    rfl
  | none =>
    refine ⟨⟨b, [s.cid], [], []⟩, ?_, by simp⟩
    simp only [State.arrive, h]
    unfold barsOf at h ⊢
    rw [List.find?_append, h]
    simp

/-- A `bar` from its arrival to its release. -/
theorem bar_ends {i : Instr} {sc : BarScope} {n : Nat} {s : State} (he : exec i s = bar i sc n s) (hl : lenOf i = 8) :
    let b := s.barInst sc n
    let f := s.core.barFence sc
    let arrived := s.core.bars.find? fun a => a.inst == b
    let known := sc = .gang ∨ sc = .cluster ∨ (s.barConfigOf b).isSome = true
    (∀ a, arrived = some a → a.released = true →
      exec i s = .next (s.retires 8 fun c => { c with bars := c.bars.filter fun a => a.inst != b })) ∧
    (∀ a, arrived = some a → a.released = false → exec i s = .next s.waits) ∧
    (arrived = none → ¬ known → s.core.trapHeld = false → exec i s = .next (s.traps 0x03 (BitVec.ofNat 64 n))) ∧
    (arrived = none → known → ¬ s.fenceDone f → exec i s = .next s.waits) ∧
    (arrived = none → known → s.fenceDone f → ((barsOf s.bars b).isSome = true ∨ s.barRoom b = true) →
      Reports i s (s.fenceFails f) (∃ t, exec i s = .next t ∧ t.core.run = .wait ∧
        t.core.bars = s.core.bars ++ [⟨b, false, s.core.stepping⟩] ∧ t.core.pc = s.core.pc ∧
        ∃ x, barsOf t.bars b = some x ∧ s.cid ∈ x.arrived)) := by
  intro b f arrived known
  have hk : known ↔ ((sc == .package || sc == .fabric) && (s.barConfigOf b).isNone) = false := by
    cases sc <;> simp [known, Option.isSome_iff_ne_none]
  refine ⟨fun a ha hr => ?released, fun a ha hr => ?standing, fun ha hn ho => ?unknown, fun ha hn hf => ?fencing,
    fun ha hn hf hroom => ?arrives⟩
  case released =>
    have ha : s.core.bars.find? (fun a => a.inst == s.barInst sc n) = some a := ha
    simp only [he, bar, ha, hr, if_true, done_eq, hl]
    rfl
  case standing =>
    have ha : s.core.bars.find? (fun a => a.inst == s.barInst sc n) = some a := ha
    simp only [he, bar, ha, hr, Bool.false_eq_true, if_false, waiting_eq]
  case unknown =>
    have ha : s.core.bars.find? (fun a => a.inst == s.barInst sc n) = none := ha
    have hn : ((sc == .package || sc == .fabric) && (s.barConfigOf (s.barInst sc n)).isNone) = true := by
      rw [← Bool.not_eq_false]; exact fun e => hn (hk.mpr e)
    simp only [he, bar, ha, hn, if_true, raise_eq _ _ ho]
    rfl
  case fencing =>
    have hm : s.fenceMet (s.core.barFence sc) = false := eq_false_of_ne_true fun e => hf ((s.fenceMet_iff f).mp e)
    have ha : s.core.bars.find? (fun a => a.inst == s.barInst sc n) = none := ha
    have hn : ((sc == .package || sc == .fabric) && (s.barConfigOf (s.barInst sc n)).isNone) = false := hk.mp hn
    simp only [he, bar, ha, hn, hm, Bool.not_false, Bool.false_eq_true,
      if_true, if_false, waiting_eq]
  case arrives =>
    have hm : s.fenceMet (s.core.barFence sc) = true := (s.fenceMet_iff f).mpr hf
    have hr : ((barsOf s.bars (s.barInst sc n)).isNone && !s.barRoom (s.barInst sc n)) = false := by
      rcases hroom with h | h
      · rw [Option.isNone_eq_false_iff.mpr h]; rfl
      · rw [h, Bool.not_true, Bool.and_false]
    have ha : s.core.bars.find? (fun a => a.inst == s.barInst sc n) = none := ha
    have hn : ((sc == .package || sc == .fabric) && (s.barConfigOf (s.barInst sc n)).isNone) = false := hk.mp hn
    simp only [bar, ha, hn, hm, Bool.not_true, hr, Bool.false_eq_true,
      if_false] at he
    exact reports_of i s _ _ _ _ _ he (s.fenceFails_iff f) fun e =>
      ⟨_, e.trans (waiting_eq _), rfl, rfl, rfl, s.arrive_bars b⟩

/-- Settles O30: the four scopes are one `bar`. -/
theorem barriersArriveAndRelease : Obligations.BarriersArriveAndRelease := by
  rintro s i sc n (⟨k, rfl, rfl, rfl⟩ | ⟨k, rfl, rfl, rfl⟩ | ⟨k, rfl, rfl, rfl⟩ | ⟨k, rfl, rfl, rfl⟩)
  · exact bar_ends (exec_barGang k s) (lenOf_barGang k)
  · exact bar_ends (exec_barCluster k s) (lenOf_barCluster k)
  · exact bar_ends (exec_barPackage k s) (lenOf_barPackage k)
  · exact bar_ends (exec_barFabric k s) (lenOf_barFabric k)

/-! ## Sums, releases and entries -/

theorem BarConfig.reached_of {k : BarConfig} {at_ m n : Nat} (h : (at_, m) ∈ k.counts) (h0 : 0 < m) (hm : m ≤ n) :
    k.reached at_ n = true :=
  List.any_eq_true.mpr ⟨(at_, m), h, by simp [hm, Nat.ne_of_gt h0]⟩

theorem execBarrierArrivalSum_eq (s : State) (k die n : Nat) (b : BarState) (cfg : BarConfig) (hi : s.inp = .two k die)
    (hb : s.bars[k]? = some b) (hc : s.barConfigOf b.inst = some cfg) (hp : cfg.scope = .package) (hd : die ∉ b.summed)
    (hn : (die, n) ∈ cfg.counts) (h0 : 0 < n) (hr : n ≤ (b.arrived.filter fun c => s.dieOf c == die).length) :
    execBarrierArrivalSum s = .next { s with bars := s.bars.map fun x =>
      if x.inst == b.inst then { x with summed := x.summed ++ [die] } else x } := by
  have hs : (b.summed.contains die) = false := by simpa using hd
  have hp' : (cfg.scope == .package) = true := by rw [hp]; rfl
  simp only [execBarrierArrivalSum, hi, hb, hc, hp', if_true, hs, BarConfig.reached_of hn h0 hr, Bool.not_true,
    Bool.or_self, Bool.false_eq_true, if_false, State.onBar]

/-- A core that an instance has released. -/
def Core.isReleased (c : Core) (b : BarInst) : Prop := c.latch = true ∧ ∀ a ∈ c.bars, a.inst = b → a.released = true

theorem Core.releaseBar_isReleased (c : Core) (b : BarInst) : (c.releaseBar b).isReleased b := by
  refine ⟨rfl, fun a ha hab => ?_⟩
  obtain ⟨x, _, rfl⟩ := List.mem_map.mp ha
  by_cases h : (x.inst == b) = true
  · simp only [h, if_true]
  · simp only [if_neg h] at hab
    exact absurd (beq_iff_eq.mpr hab) h

theorem State.onCore_saved (s : State) (cid : Nat) (f : Core → Core) : (s.onCore cid f).saved = s.saved := by
  unfold State.onCore State.setCore; split <;> rfl

/-- While no member is saved, a release reaches each core that it names and changes only its arrivals and its latch. -/
theorem State.releaseAll_coreAt (b : BarInst) (l : List Nat) (s : State) (hs : s.saved = []) (cid : Nat) :
    let t := l.foldl (fun s cid => s.releaseAt b cid) s
    (cid ∈ l ∨ (s.coreAt cid).isReleased b → (t.coreAt cid).isReleased b) ∧
      (t.coreAt cid).regs = (s.coreAt cid).regs ∧ (t.coreAt cid).ls = (s.coreAt cid).ls := by
  induction l generalizing s with
  | nil => exact ⟨fun h => h.resolve_left List.not_mem_nil, rfl, rfl⟩
  | cons k l ih =>
    have hk : s.releaseAt b k = s.onCore k fun c => c.releaseBar b := by simp [State.releaseAt, hs]
    have hc := s.coreAt_onCore k cid fun c => c.releaseBar b
    obtain ⟨h1, h2, h3⟩ := ih (s.releaseAt b k) (by rw [hk, State.onCore_saved, hs])
    rw [List.foldl_cons]
    rw [hk] at h1 h2 h3 ⊢
    refine ⟨fun h => h1 ?_, h2.trans ?_, h3.trans ?_⟩
    · by_cases e : cid = k
      · rw [hc, if_pos e]; exact .inr (Core.releaseBar_isReleased _ b)
      · rw [hc, if_neg e]
        exact h.imp_left fun h => (List.mem_cons.mp h).resolve_left e
    · rw [hc]; split
      · next e => rw [e]; rfl
      · rfl
    · rw [hc]; split
      · next e => rw [e]; rfl
      · rfl

theorem barsOf_filter_ne (bs : List BarState) (b : BarInst) : barsOf (bs.filter fun x => x.inst != b) b = none := by
  unfold barsOf
  rw [List.find?_eq_none]
  intro x hx
  simpa using (List.mem_filter.mp hx).2

theorem State.barComplete_of {s : State} {b : BarState} (hf : b.inst.scope ≠ .fabric)
    (hc : b.inst.scope = .cluster → ∀ j < 16, cidOf s.pkg b.inst.ident.2 j ∈ b.arrived)
    (hg : b.inst.scope = .gang → ∀ x, s.hub.binds.find? (fun x => x.clause == b.inst.ident.1) = some x →
      ∀ m ∈ x.members, m.cid ∈ b.arrived)
    (hp : b.inst.scope = .package → ∃ cfg, s.barConfigOf b.inst = some cfg ∧
      ∀ x ∈ cfg.counts, x.2 ≠ 0 → x.1 ∈ b.summed) : s.barComplete b = true := by
  unfold State.barComplete
  cases h : b.inst.scope with
  | gang =>
    dsimp only
    split
    · next x hx => exact List.all_eq_true.mpr fun m hm => by simpa using hg h x hx m hm
    · rfl
  | cluster =>
    refine List.all_eq_true.mpr fun k hk => ?_
    obtain ⟨j, hj, rfl⟩ := List.mem_map.mp hk
    simpa using hc h j (List.mem_range.mp hj)
  | package =>
    obtain ⟨cfg, hcfg, hx⟩ := hp h
    simp only [hcfg]
    refine List.all_eq_true.mpr fun x hm => ?_
    by_cases h0 : x.2 = 0
    · simp [h0]
    · simp [h0, hx x hm h0]
  | fabric => exact absurd h hf

theorem execBarrierRelease_eq (s : State) (k z : Nat) (b : BarState) (hi : s.inp = .two k z) (hb : s.bars[k]? = some b)
    (hf : b.inst.scope ≠ .fabric) (hc : s.barComplete b = true) :
    execBarrierRelease s = .next (s.releaseBar b) := by
  have hf' : (b.inst.scope == .fabric) = false := by simpa using hf
  simp only [execBarrierRelease, hi, hb, hc, Bool.not_true, hf', Bool.false_eq_true, if_false]
  rfl

/-- Settles O31: a sum is noted, a release folds over the arrived cores, and an entry replaces the one of its place. -/
theorem barriersAreSummedAndReleased : Obligations.BarriersAreSummedAndReleased := by
  refine ⟨fun s k die n b cfg hi hb hc hp hd hn h0 hr => ?sum, fun s k z b hi hb hs hf hc hg hp => ?release,
    fun s k hi hk => ?config⟩
  case sum => rw [exec_barrierArrivalSum, execBarrierArrivalSum_eq s k die n b cfg hi hb hc hp hd hn h0 hr]
  case release =>
    refine ⟨s.releaseBar b, ?_, barsOf_filter_ne _ _, fun cid hcid => ?_⟩
    · rw [exec_barrierRelease, execBarrierRelease_eq s k z b hi hb hf (State.barComplete_of hf hc hg hp)]
    · obtain ⟨hrel, hregs, hls⟩ := State.releaseAll_coreAt b.inst b.arrived s hs cid
      obtain ⟨hl, hbars⟩ := hrel (.inl hcid)
      exact ⟨hl, hbars, hregs, hls⟩
  case config =>
    have hk' : ((k.scope == .package && decide (k.n < 256)) || (k.scope == .fabric && decide (k.n < 64))) = true := by
      simpa using hk
    refine ⟨{ s with barConfigs := (s.barConfigs.filter fun x => !(x.scope == k.scope && x.n == k.n)) ++ [k] }, ?_,
      fun b hsc hn hx => ?_, fun b hb => ?_⟩
    · rw [exec_barrierEntryConfig, execBarrierEntryConfig, hi]
      exact if_pos hk'
    · have hnone : (s.barConfigs.filter fun x => !(x.scope == k.scope && x.n == k.n)).find?
          (fun x => x.scope == b.scope && x.n == b.n && x.ctx == b.ident.1) = none := by
        rw [List.find?_eq_none]
        intro x hx
        have hne := (List.mem_filter.mp hx).2
        by_cases h1 : x.scope = k.scope <;> by_cases h2 : x.n = k.n <;> simp_all
      rw [State.barConfigOf, List.find?_append, hnone]
      simp [hsc, hn, hx]
    · have hkb : (k.scope == b.scope && k.n == b.n && k.ctx == b.ident.1) = false := by
        rcases hb with h | h
        · simp [Ne.symm h]
        · simp [Ne.symm h]
      rw [State.barConfigOf, List.find?_append, List.find?_filter]
      simp only [List.find?_cons, hkb, List.find?_nil, Option.or_none]
      unfold State.barConfigOf
      congr 1
      funext x
      rcases hb with h | h <;> by_cases h1 : x.scope = b.scope <;> by_cases h2 : x.n = b.n <;>
        simp_all [Bool.beq_eq_decide_eq]

end Sys2Proof.Machine
end

section
/-! PROOF. The system registers (R24, R133, R134): what `mfsr` reads (O36), why `mtsr` does not write `GBASE` as stated in
every state (O37), and the levels and type combinations that fetch checks (O38). -/

namespace Sys2Proof.Machine

/-! ## Reads -/

theorem execMfsrFpflags_eq (d : SReg) (s : State) (h : s.inp = .reg .fpflags d) :
    exec .mfsrFpflags s = readReg (.mfsr d .fpflags) d .fpflags s := by
  rw [exec_mfsrFpflags]; simp [execMfsrFpflags, withReg, h]

/-- A statement about the pairs of a list, from the same for each entry. -/
theorem of_mem_pairs {α β : Type} {P : α → β → Prop} {l : List (α × β)} (h : ∀ p ∈ l, P p.1 p.2) {a : α} {b : β}
    (m : (a, b) ∈ l) : P a b := h (a, b) m

theorem statusWord_eq (c : Core) : c.statusWord =
    BitVec.ofNat 64 ((match c.status.pl with | .user => 0 | .kernel => 1 | .debug => 2) +
      (if c.status.ppl then 4 else 0) + (if c.status.ie then 8 else 0) + (if c.status.pie then 16 else 0) +
      (if c.status.hnd then 32 else 0) + (if c.fp.ctl.toNat / 8 = 0 then 0 else 256)) := by
  have hb : ∀ (b : Bool) (k : Nat), bit b * k = if b then k else 0 := by intro b k; cases b <;> simp [bit]
  have hp : (if c.precise then 256 else 0) = if c.fp.ctl.toNat / 8 = 0 then 0 else 256 := by
    by_cases h : c.fp.ctl.toNat / 8 = 0 <;> simp [Core.precise, h]
  simp only [Core.statusWord, hb, hp] <;> cases c.status.pl <;> rfl

/-- Settles O36: outside a transcript a read gives the register's value, and each value is the field that holds it. -/
theorem systemRegistersAreRead : Obligations.SystemRegistersAreRead := by
  unfold Obligations.SystemRegistersAreRead
  refine ⟨?_, ?_⟩
  · rintro d r i s (rfl | ⟨rfl, rfl, hi⟩) hm hq
    · exact (readReg_eq (.mfsr d r) d r s hm hq).trans rfl
    · rw [execMfsrFpflags_eq d s hi, readReg_eq _ _ _ _ hm hq]; rfl
  · intro s r x c
    refine of_mem_pairs (P := fun r x => s.readSys r = x) ?_
    simp only [List.forall_mem_cons]
    simp [State.readSys, word, State.cycle, statusWord_eq, Counters.st, c] <;> cases s.core.status.pl <;> rfl

/-! ## Writes -/

/-- A state whose `GBASE` holds 1: the model's register has all 21 bits, and nothing in the statement keeps its low six,
which read as zero in every run, at zero. -/
def oddGbase : State := State.reset.mapCore fun c => { c with sce := { c.sce with gbase := 1 } }

theorem oddGbase_refuses : oddGbase.writeSys .gbase (oddGbase.core.rdS 1) = .illegal := by
  have h : oddGbase.keepsRo .gbase (oddGbase.core.rdS 1) = false := by decide
  simp [State.writeSys, h]

theorem traps_pc (s : State) (n : Nat) (v : Word) (h : s.core.isDebug = false) :
    (s.traps n v).core.pc = s.core.trap.tvec := by
  simp [State.traps, State.mapCore, Core.takeTrap, h]

theorem retires_pc (s : State) (n : Nat) (f : Core → Core) :
    (s.retires n f).core.pc = (f s.core).pc + BitVec.ofNat 64 n := by
  simp [State.retires, State.mapCore, Core.retire, Core.retireTo_eq]

/-- Refutes O37: where `GBASE` holds 1, a write of 0, which has no low bit set, does not supply the present value of the
low field, and traps instead of writing. -/
theorem not_systemRegistersAreWritten : ¬ Obligations.SystemRegistersAreWritten := by
  unfold Obligations.SystemRegistersAreWritten
  rintro ⟨-, -, -, -, -, -, -, -, -, -, -, -, -, -, -, -, -, -, -, hgbase, -⟩
  have hwrites := hgbase 1 (.mtsr .gbase 1) oddGbase (.inl rfl) (by decide) (by simp)
  rw [exec_mtsr, execMtsr, writeReg_illegal _ _ _ _ (by simp [SysReg.writeWaits]) oddGbase_refuses, raise_eq _ _ (by decide)] at hwrites
  have hpc := congrArg (fun t : State => t.core.pc) (Host.Outcome.next.inj hwrites)
  simp only [retires_pc, traps_pc _ _ _ (show oddGbase.core.isDebug = false by decide)] at hpc
  exact absurd hpc (by decide)

/-! ## Levels and types -/

theorem decodeAt_of_decodeRaw {w : Nat} {i : Instr} (h : decodeRaw (Raw.ofWord w) = .ok i) (user : Bool) :
    decodeAt user w =
      if user && i.kernelOnly then .illegal ⟨causePriv, BitVec.ofNat 64 w⟩
      else if !i.comboOk then .illegal ⟨causeTypeCombo, BitVec.ofNat 64 w⟩
      else .instr i := by simp [decodeAt, h]

theorem decodeAt_allowed {w : Nat} {i : Instr} (h : decodeRaw (Raw.ofWord w) = .ok i) {user : Bool}
    (hu : user = false ∨ i.kernelOnly = false) :
    decodeAt user w = if !i.comboOk then .illegal ⟨causeTypeCombo, BitVec.ofNat 64 w⟩ else .instr i := by
  have : (user && i.kernelOnly) = false := by rcases hu with h | h <;> simp [h]
  simp [decodeAt_of_decodeRaw h, this]

/-- The registers that only kernel and debug level reach. -/
theorem SysReg.kernelOnly_iff (r : SysReg) : r.kernelOnly = true ↔ r ∈ [SysReg.status, .epc, .cause, .tval, .tvec,
    .kscratch, .ienable, .ipend, .ubase, .ulimit, .seqpos, .afault, .afpc, .afaddr, .gbase, .glen, .wlbound, .wlshift,
    .wlxint, .wlstall, .ibctl, .trctl] := by
  cases r <;> simp [SysReg.kernelOnly]

/-- Settles O38. -/
theorem levelsAndTypesAreChecked : Obligations.LevelsAndTypesAreChecked := by
  unfold Obligations.LevelsAndTypesAreChecked
  intro w i h
  refine ⟨fun hk => by simp [decodeAt_of_decodeRaw h, hk, causePriv], fun user hu hc => ?_, fun user hu hc => ?_, ?_, ?_, ?_⟩
  · simp [decodeAt_allowed h hu, hc, causeTypeCombo]
  · simp [decodeAt_allowed h hu, hc]
  · rintro d r rfl
    exact SysReg.kernelOnly_iff r
  · rintro r a rfl
    have hw : (Instr.mtsr r a).wf = true := (decodeRaw_ok _ _ h).1
    cases r <;> simp [Instr.kernelOnly, SysReg.kernelOnly]
    case seqpos => exact absurd hw (by simp [Instr.wf, SysReg.readOnly])
  · rintro (rfl | ⟨ch, rfl⟩ | ⟨a, rfl⟩ | ⟨a, k, rfl⟩) <;> rfl

end Sys2Proof.Machine
end

section
/-! PROOF. Statements about the whole machine: the spec's own words (O56), what a step of a running core does (O57), and
the values after reset (O59). -/

namespace Sys2Proof.Machine

/-- Settles O56: the decoder reads each of the words. -/
theorem wordsOfTheSpecDecode : Obligations.WordsOfTheSpecDecode := by
  unfold Obligations.WordsOfTheSpecDecode
  intro w i
  refine of_mem_pairs (P := fun w i => decodeTableWord 64 w = some i) ?_
  decide

/-! ## Fetching where no older version of a block is in play -/

/-- The bytes below a place are what a number of bytes is modulo its power. -/
theorem ofBytesLE_take (bs : List Byte) (n : Nat) : ofBytesLE (bs.take n) = ofBytesLE bs % 256 ^ n := by
  induction bs generalizing n with
  | nil => simp [ofBytesLE]
  | cons b bs ih =>
    cases n with
    | zero => simp [ofBytesLE, Nat.mod_one]
    | succ n =>
      have hb := b.isLt
      simp only [List.take_succ_cons, ofBytesLE, ih, Nat.pow_succ', Nat.mod_mul, Nat.add_mul_mod_self_left]
      rw [Nat.mod_eq_of_lt hb, Nat.add_mul_div_left _ _ (by decide), Nat.div_eq_of_lt hb, Nat.zero_add]

theorem fieldOf_mod (w lo n k : Nat) (h : lo + n ≤ k) : fieldOf (w % 2 ^ k) lo n = fieldOf w lo n := by
  simp only [fieldOf]
  rw [show k = lo + (k - lo) by omega, Nat.pow_add, Nat.mod_mul_right_div_self, Nat.mod_mod_of_dvd]
  exact Nat.pow_dvd_pow 2 (by omega)

/-- The fields of an instruction word lie within its length. -/
theorem Raw.ofWord_mod (w : Nat) (h : lenBytes (w % 4) ≠ 0) :
    Raw.ofWord (w % 256 ^ lenBytes (w % 4)) = Raw.ofWord w := by
  have h8 : 8 ≤ lenBytes (w % 4) := by
    have : w % 4 = 0 ∨ w % 4 = 1 ∨ w % 4 = 2 ∨ w % 4 = 3 := by omega
    rcases this with e | e | e | e <;> simp [e, lenBytes] at h ⊢
  have hp : 256 ^ lenBytes (w % 4) = 2 ^ (8 * lenBytes (w % 4)) := by rw [Nat.pow_mul]
  have hl : fieldOf w 0 2 = w % 4 := by simp [fieldOf]
  simp only [Raw.ofWord, hp]
  rw [fieldOf_mod w 0 2 _ (by omega), hl]
  simp only [fieldOf_mod w 2 8 _ (by omega : 2 + 8 ≤ 8 * lenBytes (w % 4)), fieldOf_mod w 10 6 _ (by omega : _ ≤ 8 * lenBytes (w % 4)),
    fieldOf_mod w 16 6 _ (by omega : _ ≤ 8 * lenBytes (w % 4)), fieldOf_mod w 22 6 _ (by omega : _ ≤ 8 * lenBytes (w % 4)),
    fieldOf_mod w 28 6 _ (by omega : _ ≤ 8 * lenBytes (w % 4)), fieldOf_mod w 34 30 _ (by omega : _ ≤ 8 * lenBytes (w % 4)),
    fieldOf_mod w 64 (8 * lenBytes (w % 4) - 64) _ (by omega : _ ≤ 8 * lenBytes (w % 4))]

/-- What `decode` finds in bytes, said of the word that they are. -/
theorem decodeRaw_of_decode {bs tail : List Byte} {i : Instr} (h : decode bs = .ok (i, tail)) :
    ofBytesLE bs % 4 ≠ 0 ∧ decodeRaw (Raw.ofWord (ofBytesLE bs)) = .ok i ∧ lenBytes (ofBytesLE bs % 4) = lenOf i := by
  have hf : ofBytesLE (bs.take 8) % 4 = ofBytesLE bs % 4 := ofBytesLE_take_mod bs (by decide)
  simp only [decode, hf] at h
  split at h
  · cases h
  · rename_i hz
    simp only [Bool.or_eq_true, beq_iff_eq, decide_eq_true_eq, not_or] at hz
    rw [ofBytesLE_take, Raw.ofWord_mod _ hz.1] at h
    cases hd : decodeRaw (Raw.ofWord (ofBytesLE bs)) with
    | error e => rw [hd] at h; cases h
    | ok j =>
      rw [hd] at h
      simp only [Except.map, Except.ok.injEq, Prod.mk.injEq] at h
      obtain ⟨rfl, -⟩ := h
      refine ⟨fun e => hz.1 (by rw [e]; rfl), rfl, ?_⟩
      have he := (decodeRaw_ok _ _ hd).2
      simp [lenOf, encode, he, Raw.ofWord, fieldOf]

theorem Core.fetchWord_fresh (c : Core) (choice : Nat → Nat) (pc : Nat) (h : c.stale = []) :
    c.fetchWord choice pc = c.ls.readN pc 16 := by
  simp [Core.fetchWord, Core.oldBlocks, h]

theorem Core.bodyWords_fresh (c : Core) (f g : Nat → Nat) (k pc : Nat) (h : c.stale = []) :
    c.bodyWords f k pc = c.bodyWords g k pc := by
  induction k generalizing pc with
  | zero => rfl
  | succ k ih => simp only [Core.bodyWords, c.fetchWord_fresh _ _ h, ih]

theorem State.fetching_congr {s t : State} (i : Instr) (hc : t.core = s.core) (h : s.core.stale = []) :
    t.fetching i = s.fetching i := by
  have hb := fun k pc => s.core.bodyWords_fresh t.choice s.choice k pc h
  simp only [State.fetching, hc, hb]

theorem Core.fetch_decoded (c : Core) (choice : Nat → Nat) (i : Instr) (tail : List Byte) (hs : c.stale = [])
    (ha : c.pc.toNat % 4 = 0) (hok : c.okAccess c.pc.toNat 8 = true)
    (hd : decode (c.ls.readBytes c.pc.toNat 16) = .ok (i, tail)) (hl : c.pc.toNat % 32 + lenOf i ≤ 32)
    (hk : c.status.pl = .user → i.kernelOnly = false) (hcombo : i.comboOk = true) :
    c.fetch choice = .instr i := by
  obtain ⟨hz, hraw, hlen⟩ := decodeRaw_of_decode hd
  have hu : c.isUser = false ∨ i.kernelOnly = false := by
    by_cases h : c.status.pl = .user
    · exact .inr (hk h)
    · exact .inl (c.isUser_eq_false.2 h)
  have hw : ¬ (32 < c.pc.toNat % 32 + lenBytes (ofBytesLE (c.ls.readBytes c.pc.toNat 16) % 4)) := by rw [hlen]; omega
  simp only [Core.fetch, c.fetchWord_fresh _ _ hs, Memory.readN, ha, hok, beq_iff_eq, hz, hw, decodeAt_allowed hraw hu, hcombo]
  simp

/-! ## The turn of a running core -/

theorem Core.replaying_eq_false (c : Core) (h : c.trans.mode ≠ 2) : c.replaying = false := by
  simpa [Core.replaying] using h

theorem State.syncTrans_settled (s : State) (h : (s.listed.all fun x => x.2.transSettled) = true) : s.syncTrans = s := by
  simp [State.syncTrans, h]

/-- Time passes over a state in which no hub write waits, every transcript is settled and no place of SRAM is in error. -/
theorem State.tick_quiet (s : State) (ht : (s.listed.all fun x => x.2.transSettled) = true)
    (hsram : s.host.sram.clean = true) (hw : s.gmem.writes = []) :
    s.tick = { s with
      now := s.now + Config.elapsed s.steps
      hubNow := s.hubNow + Config.elapsedHub s.steps
      wl := { s.wl with stallAcc := if s.stalling then s.wl.stallAcc + Config.elapsed s.steps else 0 } } := by
  have hf : s.flushWrites = s := by simp [State.flushWrites, hw]
  simp only [State.tick, hsram, if_true, hf, s.syncTrans_settled ht]

theorem State.take_self (s : State) (t : Turn) (hc : t.core = s.cid) (he : t.ev = none) :
    s.take t = s.move s.coreMove := by
  have hf : (if s.hasCore t.core then s.focus t.core else s) = s := by
    split
    · simp [State.focus, hc]
    · rfl
  simp only [State.take, hf, he]

theorem State.executeMove_ready (s : State) (i : Instr) (hp : s.core.pendingRegs = []) (hq : s.core.vec.seq = [])
    (hb : s.core.badRegs = []) : s.executeMove i = .instr i := by
  have h1 : s.core.interlocked i = false := by simp [Core.interlocked, Core.anyPending, Core.seqEmpty, hp, hq]
  have h2 : s.core.inError (s.readsAtIssue i) = false := by simp [Core.inError, hb]
  simp [State.executeMove, h1, h2]

/-- The transcript and the pending items leave a core at its boundary alone. -/
theorem State.boundaryMove_none (s : State) (hh : s.core.haltReq = false) (hp : s.core.preemptReq = false)
    (hi : s.core.items = []) (hm : s.core.trans.mode ≠ 2) : s.boundaryMove = none := by
  have hr := s.core.replaying_eq_false hm
  have hn : s.core.taking = none := by simp [Core.taking, Core.nextItem, hr, hi]
  simp [State.boundaryMove, hh, hp, hn, hi, Core.awaitsItem, hr]

theorem State.coreMove_fetches (s : State) (ht : s.host.tripped = false) (hrun : s.core.run = .run)
    (hd : s.core.status.pl = .debug → s.core.stepping = true) (hf : s.mustStop = false) (hm : s.core.trans.mode ≠ 2)
    (hb : s.boundaryMove = none) : s.coreMove = s.fetchMove := by
  have hr : s.core.awaitsRecord = false := by simp [Core.awaitsRecord, s.core.replaying_eq_false hm]
  have hfetch : s.core.fetches = true := by
    by_cases h : s.core.status.pl = .debug <;> simp [Core.fetches, hrun, Core.isDebug, h, hd]
  simp [State.coreMove, ht, hrun, hf, hr, hb, hfetch]

theorem Core.observe_fresh (c : Core) (h : c.stale = []) : c.observe = c := by
  obtain ⟨⟩ := c
  simp only at h
  simp [Core.observe, h]

theorem exec_rowOf (i : Instr) (s : State) (h : s.inp = (rowOf i).2) : exec (rowOf i).1 s = exec i s := by
  unfold rowOf at h ⊢
  split at h <;> simp_all [execMfsrFpflags, execMtsrFpctl, execMtsrTshp, execMtsrWlshift, execMtsrWlbound, execMtsrTrctl,
    execMtsrAfault, execMtsrSndstat, execMtsrIbctl, withReg, execMfsr, execMtsr]

/-- Settles O57: time passes, the schedule gives the turn to the core in focus, and it executes what it has fetched or
what the bytes at its `pc` decode to. -/
theorem stepRunsTheDecodedInstruction : Obligations.StepRunsTheDecodedInstruction := by
  unfold Obligations.StepRunsTheDecodedInstruction
  refine ⟨?_, exec_rowOf⟩
  intro s i tail turn turns c a hturns hturn hev htrip hrun hdebug hfault hhalt hpre hitems hmode htrans hsram hwrites
    hstale hfetched hpend hseq hbad
  have hmove : ∀ t : State, t.core = s.core → t.cid = s.cid → t.host = s.host → t.hub = s.hub →
      t.coreMove = .instr i := by
    intro t hc hcid hhost hhub
    have hb : t.boundaryMove = none := t.boundaryMove_none (hc ▸ hhalt) (hc ▸ hpre) (hc ▸ hitems) (hc ▸ hmode)
    have hat : t.coreAt s.cid = s.coreAt s.cid := by simp [State.coreAt, hcid, hc]
    have hstop : t.mustStop = false := by simpa only [State.mustStop, State.bindOf, hhub, hcid, hat] using hfault
    rw [t.coreMove_fetches (hhost ▸ htrip) (hc ▸ hrun) (hc ▸ hdebug) hstop (hc ▸ hmode) hb]
    have hready := t.executeMove_ready i (hc ▸ hpend) (hc ▸ hseq) (hc ▸ hbad)
    rcases hfetched with ⟨f, hf, rfl⟩ | ⟨hnone, halign, hok, hd, hlen, hlevel, hcombo⟩
    · have : t.core.ir = some f := hc ▸ hf
      simp only [State.fetchMove, this, hready]
    · have hir : t.core.ir = none := hc ▸ hnone
      have hfetch : t.fetched = .instr i := by
        rw [State.fetched, hc]
        exact s.core.fetch_decoded _ i tail hstale halign hok hd hlen hlevel hcombo
      simp only [State.fetchMove, hir, hfetch, hready]
  have hobs : (if observes i then s.core.observe else s.core) = s.core := by
    split
    · exact s.core.observe_fresh hstale
    · rfl
  have hentered : ∀ t : State, t.core = s.core →
      t.enteredOk i = { t with core := { s.core with entering := false, ir := some (s.core.ir.getD (s.fetching i)) } } := by
    intro t hc
    simp only [State.enteredOk, State.mapCore, hc, hobs, State.fetching_congr i hc hstale]
  rw [step, s.tick_quiet htrans hsram hwrites]
  simp only [State.nextTurn, hturns]
  generalize hT : State.counted _ = T
  have hcore : T.core = s.core := by rw [← hT]; rfl
  have hcid : T.cid = s.cid := by rw [← hT]; rfl
  rw [T.take_self turn (hturn.trans hcid.symm) hev, hmove T hcore hcid (by rw [← hT]; rfl) (by rw [← hT]; rfl), State.move,
    hentered T hcore, State.runRow, exec_rowOf _ _ rfl, ← hT]
  simp only [State.counted, hturns, List.drop_succ_cons, List.drop_zero]
  rfl

/-! ## Reset -/

theorem get_replicate {α : Type} {n : Nat} (x : α) (k : Fin n) : (Vector.replicate n x).get k = x := by
  simp [Vector.get]

/-- Settles O59: every field of the state after reset is a constant. -/
theorem resetHoldsTheValuesOfTheSpec : Obligations.ResetHoldsTheValuesOfTheSpec := by
  unfold Obligations.ResetHoldsTheValuesOfTheSpec
  refine ⟨rfl, rfl, rfl, fun a => rfl, fun r => ?_, fun r => ?_, fun r => ⟨?_, fun k => ?_⟩, fun r => ?_, fun r => ?_, fun r => ?_,
    by decide, by decide, by decide, by decide, by decide, by decide, by decide, by decide⟩
  · simp [Core.rdS, State.reset, Core.reset, Regs.reset, get_replicate]
  · exact get_replicate _ r
  · exact congrArg VecReg.bits (get_replicate VecReg.reset r)
  · rw [show State.reset.core.rdV r = VecReg.reset from get_replicate _ r]; exact get_replicate _ k
  · simp [Core.rdQ, State.reset, Core.reset, Regs.reset, get_replicate]
  · exact get_replicate _ r
  · exact get_replicate _ r

end Sys2Proof.Machine
end

section
/-! PROOF. What the shared operations of the state leave unchanged, each said once: sending changes the fabric's queues,
an operation on cores changes cores only. -/

namespace Sys2Proof.Machine

/-! ## Sending -/

theorem State.onPort_eq (s : State) (k : Nat) (f : Port → Port) : ∃ fb, s.onPort k f = { s with fabric := fb } := by
  unfold State.onPort; split <;> exact ⟨_, rfl⟩

theorem State.transmit_eq {s t : State} {pkg : Nat} {o : Bool} {b : FlitBody} (h : s.transmit pkg o b = some t) :
    ∃ fb, t = { s with fabric := fb } := by
  obtain ⟨k, -, rfl⟩ := Option.map_eq_some_iff.mp h
  exact s.onPort_eq k _

theorem State.transmitOrPark_eq (s : State) (pkg : Nat) (o : Bool) (b : FlitBody) :
    ∃ fb, s.transmitOrPark pkg o b = { s with fabric := fb } := by
  unfold State.transmitOrPark
  cases h : s.transmit pkg o b with
  | none => exact ⟨_, rfl⟩
  | some t => exact State.transmit_eq h

theorem State.sendAll_eq (s : State) (pkgs : List Nat) (b : FlitBody) :
    ∃ fb, s.sendAll pkgs b = { s with fabric := fb } := by
  induction pkgs generalizing s with
  | nil => exact ⟨_, rfl⟩
  | cons p pkgs ih =>
    obtain ⟨fb, h⟩ := s.transmitOrPark_eq p true b
    obtain ⟨fb', h'⟩ := ih { s with fabric := fb }
    exact ⟨fb', by rw [State.sendAll, List.foldl_cons, h]; exact h'⟩

/-- An answer waits here for its core, or goes to a port. -/
theorem State.answer_eq (s : State) (r : Reply) : ∃ bk fb, s.answer r = { s with back := bk, fabric := fb } := by
  unfold State.answer
  split
  · exact ⟨_, _, rfl⟩
  · cases h : s.transmit (pkgOf r.dst) false (.reply r) with
    | none => exact ⟨_, _, rfl⟩
    | some t => obtain ⟨fb, rfl⟩ := State.transmit_eq h; exact ⟨_, _, rfl⟩

theorem State.send_eq (s : State) (p : Packet) :
    ∃ nt bk fb, s.send p = { s with net := nt, back := bk, fabric := fb } := by
  unfold State.send
  split
  · obtain ⟨bk, fb, h⟩ := s.answer_eq (p.answer (.nack p.nackCause)); exact ⟨_, bk, fb, h⟩
  · split
    · exact ⟨_, _, _, rfl⟩
    · cases h : s.transmit (pkgOf p.dst) p.ordered (.packet p) with
      | none => obtain ⟨bk, fb, h⟩ := s.answer_eq (p.answer (.nack p.nackCause)); exact ⟨_, bk, fb, h⟩
      | some t => obtain ⟨fb, rfl⟩ := State.transmit_eq h; exact ⟨_, _, fb, rfl⟩

theorem State.sendSound_eq (s : State) (r : SoundReq) :
    ∃ sd fb, s.sendSound r = { s with sound := sd, fabric := fb } := by
  unfold State.sendSound
  split
  · exact ⟨_, _, rfl⟩
  · split
    next t h => obtain ⟨fb, rfl⟩ := State.transmit_eq h; exact ⟨_, _, rfl⟩
    next => exact ⟨_, _, rfl⟩

theorem State.tellSce_eq {s t : State} {slot : Nat} {a : Arrival} {n : SceNote} (h : s.tellSce slot a n = some t) :
    ∃ sc fb, t = { s with sce := sc, fabric := fb } := by
  unfold State.tellSce at h
  split at h
  · cases h
  · dsimp only at h
    split at h
    · cases h; exact ⟨_, _, rfl⟩
    · obtain ⟨fb, rfl⟩ := State.transmit_eq h; exact ⟨_, _, rfl⟩

/-! ## Changing cores -/

theorem State.onCore_self (s : State) (f : Core → Core) : s.onCore s.cid f = { s with core := f s.core } := by
  simp [State.onCore, State.setCore, State.coreAt]

/-- Changing one core changes the core in focus where it is that one, and else one of the others. -/
theorem State.onCore_eq (s : State) (cid : Nat) (f : Core → Core) :
    ∃ os, s.onCore cid f = { s with core := if cid = s.cid then f s.core else s.core, others := os } := by
  by_cases h : cid = s.cid
  · subst h; exact ⟨s.others, by rw [s.onCore_self, if_pos rfl]⟩
  · exact ⟨setCoreIn s.others cid (f (s.coreAt cid)), by simp [State.onCore, State.setCore, h]⟩

/-- Changing cores one after another keeps what each change keeps of the core in focus. -/
theorem State.onCores_eq (s : State) (cids : List Nat) (f : Core → Core) (P : Core → Prop) (h0 : P s.core)
    (hf : ∀ c, P c → P (f c)) : ∃ c os, s.onCores cids f = { s with core := c, others := os } ∧ P c := by
  induction cids generalizing s with
  | nil => exact ⟨s.core, s.others, rfl, h0⟩
  | cons cid cids ih =>
    obtain ⟨os, h⟩ := s.onCore_eq cid f
    have hP : P (if cid = s.cid then f s.core else s.core) := by
      split
      · exact hf _ h0
      · exact h0
    obtain ⟨c, os', h', hc⟩ := ih { s with core := if cid = s.cid then f s.core else s.core, others := os } hP
    exact ⟨c, os', by rw [State.onCores, List.foldl_cons, h]; exact h', hc⟩

theorem State.onOwners_eq (s : State) (f : Core → Core) (P : Core → Prop) (h0 : P s.core) (hf : ∀ c, P c → P (f c)) :
    ∃ c os sv, s.onOwners f = { s with core := c, others := os, saved := sv } ∧ P c := by
  obtain ⟨c, os, h, hc⟩ := s.onCores_eq s.ownerCores f P h0 hf
  exact ⟨c, os, _, by rw [State.onOwners, h], hc⟩

/-! ## A member leaves -/

/-- Withdrawing an arrival changes the SCE's notes and the phase of its core. -/
theorem State.withdrawAt_eq (s : State) (cid : Nat) : ∃ ph os sc fb, s.withdrawAt cid =
    { s with core := { s.core with sce := { s.core.sce with phase := ph } }, others := os, sce := sc, fabric := fb } := by
  obtain ⟨os, h⟩ := s.onCore_eq cid fun c => { c with sce := { c.sce with phase := .none } }
  have hs : ∃ ph, s.onCore cid (fun c => { c with sce := { c.sce with phase := .none } }) =
      { s with core := { s.core with sce := { s.core.sce with phase := ph } }, others := os } := by
    rw [h]
    by_cases hc : cid = s.cid
    · exact ⟨.none, by rw [if_pos hc]⟩
    · exact ⟨s.core.sce.phase, by rw [if_neg hc]⟩
  obtain ⟨ph, hs⟩ := hs
  unfold State.withdrawAt
  simp only [hs]
  split
  · split
    · exact ⟨ph, os, _, _, rfl⟩
    · cases ht : State.tellSce _ _ _ _ with
      | none => exact ⟨ph, os, _, _, rfl⟩
      | some t => obtain ⟨sc, fb, rfl⟩ := State.tellSce_eq ht; exact ⟨ph, os, _, _, rfl⟩
  · exact ⟨s.core.sce.phase, s.others, s.sce, s.fabric, rfl⟩

/-- Retiring a task changes what runs on its core, and the worklist. -/
theorem State.retireTask_eq (s : State) (cid : Nat) : ∃ r os w, s.retireTask cid =
    { s with core := { s.core with wl := { s.core.wl with running := r } }, others := os, wl := w } := by
  unfold State.retireTask
  split
  · exact ⟨s.core.wl.running, s.others, s.wl, rfl⟩
  · obtain ⟨os, h⟩ := s.onCore_eq cid fun c => { c with wl := { c.wl with running := none } }
    simp only [h]
    by_cases hc : cid = s.cid
    · simp only [if_pos hc]; exact ⟨none, os, _, rfl⟩
    · simp only [if_neg hc]; exact ⟨s.core.wl.running, os, _, rfl⟩

/-- Freeing a barrier's entry changes what cores remember of it. -/
theorem State.dropBar_eq (s : State) (b : BarState) : ∃ bs os br sv, s.dropBar b =
    { s with core := { s.core with bars := bs }, others := os, bars := br, saved := sv } := by
  obtain ⟨c, os, h, bs, rfl⟩ := s.onCores_eq b.arrived (fun c => { c with bars := c.bars.filter fun a => a.inst != b.inst })
    (fun c => ∃ bs, c = { s.core with bars := bs }) ⟨s.core.bars, rfl⟩ (by rintro _ ⟨bs, rfl⟩; exact ⟨_, rfl⟩)
  rw [State.onCores] at h
  exact ⟨bs, os, _, _, by rw [State.dropBar, h]⟩

theorem State.endClauseBars_eq (s : State) (clause : Nat) : ∃ bs os br sv, s.endClauseBars clause =
    { s with core := { s.core with bars := bs }, others := os, bars := br, saved := sv } := by
  unfold State.endClauseBars
  generalize s.bars.filter _ = l
  induction l generalizing s with
  | nil => exact ⟨s.core.bars, s.others, s.bars, s.saved, rfl⟩
  | cons b l ih =>
    obtain ⟨bs, os, br, sv, h⟩ := s.dropBar_eq b
    rw [List.foldl_cons, h]
    exact ih _

end Sys2Proof.Machine
end

section
/-! PROOF. The instructions of the worklist and of Sound groups (R260, R268, R277, R287, R294), and why `gend` does not
arrive as stated in every state (R368). -/

namespace Sys2Proof.Machine

/-! ## The worklist -/

theorem State.wlOwner_iff (s : State) (c : Core) :
    s.wlOwner c = true ↔ s.wl.enabled = true ∧ c.ids.ctx.toNat = s.wl.owner := by simp [State.wlOwner]

theorem State.wlOwner_eq_false {s : State} {c : Core} (h : ¬ (s.wl.enabled = true ∧ c.ids.ctx.toNat = s.wl.owner)) :
    s.wlOwner c = false := eq_false_of_ne_true fun e => h ((s.wlOwner_iff c).mp e)

theorem Worklist.slice_setSlice (w : Worklist) {k : Nat} (x : WlSlice) (h : k < 96) : (w.setSlice k x).slice k = x := by
  simp [Worklist.setSlice, h, Worklist.slice]

/-- A slice with room takes the task at its end. -/
theorem Worklist.place_room (w : Worklist) (k : Nat) (t : Task) (h : (w.slice k).tasks.length < 512) :
    w.place k t = some (w.setSlice k { w.slice k with tasks := (w.slice k).tasks ++ [t] }) := if_pos h

theorem Worklist.setSlice_eq (w : Worklist) (k : Nat) (x : WlSlice) : ∃ sl, w.setSlice k x = { w with slices := sl } := by
  unfold Worklist.setSlice; split <;> exact ⟨_, rfl⟩

/-- Nothing is written while no task is newly in the spill area. -/
theorem State.setWl_of_spill (s : State) (w : Worklist) (h : w.spill = s.wl.spill) : s.setWl w = { s with wl := w } := by
  have hn : (w.spill.filter fun t => !(s.wl.spill.any fun u => u.seq == t.seq)) = [] := by
    rw [List.filter_eq_nil_iff, h]
    intro t ht
    simp only [Bool.not_eq_true', Bool.not_eq_false, List.any_eq_true, beq_iff_eq]
    exact ⟨t, ht, rfl⟩
  simp only [State.setWl, hn, List.foldl_nil]

/-- Arming an epoch changes the latches `TERM` and the worklist's waves, and sends word of it. -/
theorem State.arm_eq (s : State) : ∃ b os sv w fb, s.arm =
    { s with core := { s.core with wl := { s.core.wl with term := b } }, others := os, saved := sv, wl := w, fabric := fb } ∧
    w.armed = true ∧ w.slices = s.wl.slices ∧ w.incs = s.wl.incs ∧ w.nextSeq = s.wl.nextSeq ∧ w.spill = s.wl.spill := by
  unfold State.arm
  split
  next h => exact ⟨s.core.wl.term, s.others, s.saved, s.wl, s.fabric, rfl, h, rfl, rfl, rfl, rfl⟩
  next =>
    obtain ⟨c, os, sv, h, b, rfl⟩ := s.onOwners_eq (fun c => { c with wl := { c.wl with term := false } })
      (fun c => ∃ b, c = { s.core with wl := { s.core.wl with term := b } }) ⟨s.core.wl.term, rfl⟩
      (by rintro _ ⟨b, rfl⟩; exact ⟨false, rfl⟩)
    obtain ⟨fb, hs⟩ := State.sendAll_eq s.armHere s.peers (.wlArm s.wl.epoch)
    rw [hs, State.armHere, h]
    exact ⟨b, os, sv, _, fb, rfl, rfl, rfl, rfl, rfl, rfl⟩

theorem CoreWl.inverted_inv (w : CoreWl) : w.inverted.inv.toNat = min 0xFFFF (w.inv.toNat + 1) := by
  have hlt := w.inv.isLt
  unfold CoreWl.inverted
  split
  next h => simp [eq_of_beq h]
  next h =>
    have hne : w.inv.toNat ≠ 0xFFFF := fun e => h (beq_iff_eq.mpr (BitVec.eq_of_toNat_eq e))
    have : (w.inv + 1).toNat = w.inv.toNat + 1 := by
      rw [BitVec.toNat_add]; exact Nat.mod_eq_of_lt (by have : (1 : BitVec 16).toNat = 1 := rfl; omega)
    simp only [this]
    omega

/-- The task that a `wlpush` adds: its priority, and whether its bucket lies below the floor that the slice has seen. -/
def pushPrio (o : WlpushOp) (s : State) : BitVec 32 := (s.core.rdS o.c).setWidth 32
def pushBucket (o : WlpushOp) (s : State) : Nat := (pushPrio o s).toNat / 2 ^ s.wl.shift.toNat
def pushInv (o : WlpushOp) (s : State) : Bool :=
  match s.wl.seen (clusterOf s.cid) with
  | some f => decide (pushBucket o s < f)
  | none => false
def pushTask (o : WlpushOp) (s : State) : Task :=
  ⟨s.core.rdS o.a, s.core.rdRun o.b 4, pushPrio o s, s.cid, pushInv o s, s.wl.nextSeq, true, 0⟩

theorem execWlpush_room (o : WlpushOp) (s : State) (hw : s.core.waitOk o.wt = true) (ho : s.wlOwner s.core = true)
    (hl : (s.wl.slice (clusterOf s.cid)).tasks.length < 512) :
    exec (.wlpush o) s =
      let k := clusterOf s.cid
      let w := s.wl.setSlice k { s.wl.slice k with tasks := (s.wl.slice k).tasks ++ [pushTask o s] }
      .next ((s.setWl { w with nextSeq := w.nextSeq + 1, incs := w.incs ++ [⟨k, s.wl.nextSeq, pushBucket o s⟩] }).arm.retires 8
        fun c => if pushInv o s then { c with wl := c.wl.inverted } else c) := by
  rw [exec_wlpush, execWlpush, afterWait_met _ _ _ hw]
  simp only [ho, Bool.not_true, Bool.false_eq_true, if_false]
  change (match s.wl.place (clusterOf s.cid) (pushTask o s) with
    | none => _
    | some w => _) = _
  rw [s.wl.place_room _ _ hl]
  rfl

/-- What the pushing core becomes as it retires. -/
theorem Core.pushed_fields (c : Core) (inv : Bool) :
    let d := (if inv then { c with wl := c.wl.inverted } else c).retire 8
    d.pc = c.pc + 8 ∧ d.instret = c.instret + 1 ∧
      d.wl.inv.toNat = (if inv then min 0xFFFF (c.wl.inv.toNat + 1) else c.wl.inv.toNat) ∧ d.regs = c.regs ∧ d.ls = c.ls := by
  cases inv <;> simp [Core.retire, CoreWl.inverted_inv]

/-- Settles O33: past its checks `wlpush` finds room, appends its task and arms the epoch; `wlwait` looks at `TERM`. -/
theorem worklistInstructionsComplete : Obligations.WorklistInstructionsComplete := by
  intro s owner
  have hown : owner → s.wlOwner s.core = true := (s.wlOwner_iff s.core).mpr
  have hnot : ¬ owner → s.wlOwner s.core = false := State.wlOwner_eq_false
  refine ⟨fun o => ⟨fun hw ho ht => ?_, fun hw ho hk hl => ?_⟩, fun ho ht => ?_, fun ho hh ht => ?_, fun ho hh ht hd => ?_⟩
  · rw [exec_wlpush, execWlpush, afterWait_met _ _ _ hw, hnot ho, raise_eq _ _ ht]; rfl
  · have hw : s.core.waitOk o.wt = true := hw
    rw [execWlpush_room o s hw (hown ho) hl]
    refine ⟨_, rfl, ?_⟩
    dsimp only
    rw [State.setWl_of_spill _ _ (by simp only [Worklist.setSlice]; split <;> rfl)]
    generalize hW : ({ (s.wl.setSlice _ _) with nextSeq := _, incs := _ } : Worklist) = W
    have hW' : (W.slice (clusterOf s.cid)).tasks = (s.wl.slice (clusterOf s.cid)).tasks ++ [pushTask o s] ∧
        W.incs = s.wl.incs ++ [⟨clusterOf s.cid, s.wl.nextSeq, pushBucket o s⟩] ∧ W.nextSeq = s.wl.nextSeq + 1 ∧
        W.spill = s.wl.spill := by
      subst hW
      have hsl := s.wl.slice_setSlice { s.wl.slice (clusterOf s.cid) with
        tasks := (s.wl.slice (clusterOf s.cid)).tasks ++ [pushTask o s] } hk
      refine ⟨congrArg WlSlice.tasks hsl, ?_, ?_, ?_⟩ <;>
        (obtain ⟨sl, h⟩ := s.wl.setSlice_eq (clusterOf s.cid) { s.wl.slice (clusterOf s.cid) with
          tasks := (s.wl.slice (clusterOf s.cid)).tasks ++ [pushTask o s] }; rw [h])
    obtain ⟨htasks, hincs, hseq, hspill⟩ := hW'
    obtain ⟨b, os, sv, w, fb, harm, harmed, hsl, hi, hn, hsp⟩ := State.arm_eq { s with wl := W }
    rw [harm]
    have hslice : w.slice (clusterOf s.cid) = W.slice (clusterOf s.cid) := by simp only [Worklist.slice, hsl]
    obtain ⟨hpc, hinst, hinv, hregs, hls⟩ :=
      Core.pushed_fields { s.core with wl := { s.core.wl with term := b } } (pushInv o s)
    exact ⟨(congrArg WlSlice.tasks hslice).trans htasks, hi.trans hincs, hn.trans hseq, harmed, hsp.trans hspill, hpc, hinst,
      hinv, hregs, hls⟩
  · rw [exec_wlwait, execWlwait, hnot ho, raise_eq _ _ ht]; rfl
  · simp only [exec_wlwait, execWlwait, hown ho, hh, ht, doneIn_eq]; rfl
  · simp only [exec_wlwait, execWlwait, hown ho, hh, ht, (s.core.isDebug_eq_false).mpr hd, waiting_eq]; rfl

/-! ## Sound groups -/

/-- The handle's zero fields, as the statements write them. -/
def HandleOk (h : Word) : Prop := h.extractLsb' 24 40 = 0 ∧ h.extractLsb' 10 2 = 0

theorem handleZeros_of {h : Word} (hh : HandleOk h) : handleZeros h = true := by
  obtain ⟨h1, h2⟩ := hh
  have e1 := congrArg BitVec.toNat h1
  have e2 := congrArg BitVec.toNat h2
  rw [← fieldOf_ext] at e1 e2
  have hlt := h.isLt
  simp only [handleZeros, Bool.and_eq_true, beq_iff_eq]
  refine ⟨?_, e2⟩
  simp only [fieldOf] at e1
  have e1 : h.toNat / 2 ^ 24 % 2 ^ 40 = 0 := e1
  omega

theorem soundTrap_none {h o : Word} {n m : Nat} (hh : HandleOk h) (ho : o.toNat + n ≤ 0x140000) (hm : o.toNat % m = 0) :
    soundTrap h o n m = none := by
  have hl : ¬ lsSize < o.toNat + n := Nat.not_lt.mpr ho
  simp [soundTrap, handleZeros_of hh, hl, hm]

/-- A sound store past its checks goes on with its bytes, and is issued where the counter has room. -/
theorem soundStore_eq (i : Instr) (a b : SReg) (n m : Nat) (s : State) (data : (List Byte → Result) → Result)
    (hh : HandleOk (s.core.rdS a)) (ho : (s.core.rdS b).toNat + n ≤ 0x140000) (hm : (s.core.rdS b).toNat % m = 0)
    (hs : s.core.cnt.st < 512) : soundStore i a b n m s data =
      data fun bs => .next ((s.issueSound (s.core.rdS a) (s.core.rdS b) bs).retires (lenOf i) id) := by
  simp only [soundStore, soundTrap_none hh ho hm, Core.stFull_eq_false hs, Bool.false_eq_true, if_false, doneIn_eq]

theorem Core.sourceTrap_none {c : Core} {a : Word} {n : Nat} (h : c.okAccess a.toNat n = true)
    (hb : c.badIn a.toNat n = none) : c.sourceTrap a n = none := by simp [Core.sourceTrap, h, hb]

theorem Counters.st_addSt (n : Counters) (r : Reach) : (n.addSt r).st = n.st + 1 := by
  cases r <;> simp [Counters.addSt, Counters.st] <;> omega

/-- A sound store adds 1 to the count of stores and waits for its home where that is here. -/
theorem State.issueSound_fields (s : State) (h o : Word) (bs : List Byte) :
    (s.issueSound h o bs).core.cnt.st = s.core.cnt.st + 1 ∧
    (handlePkg h = s.pkg → (s.issueSound h o bs).sound.toHome =
      s.sound.toHome ++ [⟨h, o.toNat, bs, s.cid, s.core.ids.ctx.toNat, s.tags⟩]) := by
  refine ⟨?_, fun hp => ?_⟩
  · obtain ⟨sd, fb, he⟩ := State.sendSound_eq _ _
    rw [State.issueSound, he]
    simp only [Core.issueOut, OutKind.isLoad, Bool.false_eq_true, if_false]
    exact s.core.cnt.st_addSt _
  · simp only [State.issueSound, State.sendSound]
    exact congrArg (fun t : State => t.sound.toHome) (if_pos (beq_iff_eq.mpr hp))

/-- Outside a transcript a read gives the live value. -/
theorem Core.transcribe_off (c : Core) (num : Nat) (early : Word → Bool) (live : Word) (h : c.trans.mode = 0) :
    c.transcribe num early live = .value live c := by
  simp [Core.transcribe, Core.replaying, Core.record, Core.recording, h]

/-- Settles O34. -/
theorem soundInstructionsComplete : Obligations.SoundInstructionsComplete := by
  intro s
  refine ⟨fun o hw hr => ?_, fun o hw hq hr => ?_, fun o hw hq hr ha hb => ?_, fun h o bs => ?_, fun d a m hm ht => ?_,
    fun d a hm ht => ?_, fun a b m hm => ?_⟩
  · obtain ⟨hh, ho, hm, hs⟩ := hr
    rw [exec_sst, execSst, afterWait_met _ _ _ hw, soundStore_eq _ _ _ _ _ _ _ hh ho hm hs, lenOf_sst]
  · obtain ⟨hh, ho, hm, hs⟩ := hr
    rw [exec_sstv, execSstv, afterWait_met _ _ _ hw, drained_eq hq, soundStore_eq _ _ _ _ _ _ _ hh ho hm hs, lenOf_sstv]
  · obtain ⟨hh, ho, hm, hs⟩ := hr
    have he : exec (.sstl o) s = readPieces (.sstl o) (s.core.rdS o.d).toNat o.len s fun bs =>
        .next ((s.issueSound (s.core.rdS o.a) (s.core.rdS o.b) bs).retires 12 id) := by
      rw [exec_sstl, execSstl, afterWait_met _ _ _ hw, drained_eq hq, soundStore_eq _ _ _ _ _ _ _ hh ho hm hs,
        Core.sourceTrap_none ha hb, lenOf_sstl]
    exact ⟨readPieces_readsOn he, fun bs hbs => he.trans (readPieces_eq hbs)⟩
  · obtain ⟨hcnt, hhome⟩ := s.issueSound_fields h o bs
    exact ⟨hcnt, fun hp => hhome ((fieldOf_ext h 12 12).trans hp)⟩
  · have hm : s.core.membership (s.core.rdS a) = some m := hm
    rw [exec_sndseq, execSndseq, hm]
    simp only [Core.transcribe_off _ _ _ _ ht, done_eq, lenOf_sndseq]
    rfl
  · have hm : s.core.membership (s.core.rdS a) = none := hm
    refine ⟨?_, fun b => ?_⟩
    · rw [exec_sndseq, execSndseq, hm, raise_eq _ _ ht]; rfl
    · rw [exec_sndwait, execSndwait, hm, raise_eq _ _ ht]; rfl
  · have hm : s.core.membership (s.core.rdS a) = some m := hm
    rw [exec_sndwait, execSndwait, hm]
    refine ⟨fun hle => ?_, fun hlt hd => ?_⟩
    · exact if_pos hle
    · have hd := (s.core.isDebug_eq_false).mpr hd
      simp only [Nat.not_le.mpr hlt, hd, if_false, waiting_eq, Bool.false_eq_true]

/-! ## Waiting for the core's operations, and reporting -/

theorem Core.quiet_iff (c : Core) : c.quiet = true ↔ c.still := by
  have hst : c.cnt.st = 0 ↔ c.cnt.stcl = 0 ∧ c.cnt.stpk = 0 ∧ c.cnt.stfb = 0 := by simp only [Counters.st]; omega
  simp only [Core.quiet, Core.still, Core.seqEmpty, Bool.and_eq_true, beq_iff_eq, List.isEmpty_iff, hst, and_assoc]

theorem State.quiet_iff (s : State) : s.quiet = true ↔ s.core.still ∧ s.sfuFree := by
  simp [State.quiet, Core.quiet_iff, State.sfuFree]

theorem Core.coveredAll_iff (c : Core) :
    c.covered (fun _ => true) true = true ↔ c.failureIn (fun _ => True) (fun _ => True) :=
  (c.covered_iff _ _).trans (c.failureIn_congr (fun k => by simp) fun k => by simp)

/-- Outside a replay nothing is reported where no failure is recorded. -/
theorem reportOr_none (s : State) (k : Result) (hm : s.core.trans.mode ≠ 2)
    (h : ¬ s.core.failureIn (fun _ => True) (fun _ => True)) : reportOr (s.core.covered (fun _ => true) true) s k = k := by
  have hc : s.core.covered (fun _ => true) true = false := eq_false_of_ne_true fun e => h (s.core.coveredAll_iff.mp e)
  simp [reportOr, s.core.replaying_eq_false hm, reportLive, hc]

/-! ## `gend` -/

/-- A member arrives at its home's SCE in this package. -/
theorem State.tellSce_home {s : State} {slot : Nat} {p : Population} (a : Arrival) (n : SceNote)
    (hp : s.population slot = some p) (hh : p.home = s.pkg) :
    s.tellSce slot a n = some { s with sce := { s.sce with msgs := s.sce.msgs ++ [⟨p.homeSlot, a, n⟩] } } := by
  simp [State.tellSce, hp, hh]

theorem State.gendTrap_none {s : State} {p : Population} (i : Instr) (hd : s.core.status.pl ≠ .debug)
    (hh : s.core.status.hnd = false) (hm : s.core.sce.member = true)
    (hp : s.population s.core.sce.pop.toNat = some p) (hg : s.core.sce.glen.toNat = p.gl)
    (hb : s.core.sce.gbase.toNat + p.gl ≤ 0x140000) : s.gendTrap i = none := by
  have hl : ¬ lsSize < s.core.sce.gbase.toNat + s.core.sce.glen.toNat := by rw [hg]; exact Nat.not_lt.mpr hb
  simp [State.gendTrap, (s.core.isDebug_eq_false).mpr hd, hh, hm, hp, hg, hg ▸ hl]

/-- A population whose home is this package, with another slot number noted for it there: nothing in the statement ties
the two numbers together. -/
def strayPop : Population :=
  { ctx := 0, home := 0, homeSlot := 1, members := [(0, 0)], gl := 0, tournament := false, w := 1, l := 0, k := 0, e := 0
    xf := 0, pet := 0, sigma := 0, rthr := 0, popkey := 0, gen := 0, lbase := 0, lcap := 0, lcount := 0, replaced := 0
    arrivals := [], closed := none, away := [], told := [], held := false }

/-- The core in focus is a member of that population in slot 0. -/
def strayMember : State :=
  { State.reset with
    sce := { State.reset.sce with pops := [(0, strayPop)] }
    core := { Core.reset with sce := { Core.reset.sce with member := true, pop := 0 } } }

theorem strayMember_still : strayMember.core.still ∧ strayMember.sfuFree := strayMember.quiet_iff.mp (by decide)

theorem strayMember_noFailure : ¬ strayMember.core.failureIn (fun _ => True) (fun _ => True) := by
  rintro ⟨h, -⟩; exact absurd h (by decide)

theorem exec_gend_strayMember : ∃ t, exec (.gend 0) strayMember = .next t ∧
    t.sce.msgs = [⟨1, ⟨0, 0, 0⟩, .arrive⟩] := by
  have hq : strayMember.quiet = true := strayMember.quiet_iff.mpr strayMember_still
  have hp : strayMember.core.sce.phase = .none := rfl
  have ht : strayMember.gendTrap (.gend 0) = none :=
    State.gendTrap_none (p := strayPop) _ (by decide) rfl rfl rfl rfl (by decide)
  have htell := State.tellSce_home (s := strayMember) (p := strayPop) (slot := strayMember.core.sce.pop.toNat)
    ⟨strayMember.cid, strayMember.core.sce.fit, strayMember.core.sce.genno⟩ .arrive rfl rfl
  rw [exec_gend, execGend]
  simp only [hp, ht, hq, Bool.not_true, Bool.false_eq_true, if_false,
    reportOr_none _ _ (show strayMember.core.trans.mode ≠ 2 by decide) strayMember_noFailure, htell, waiting_eq]
  exact ⟨_, rfl, rfl⟩

/-- Refutes O35: the arrival goes to the slot that the population has at its home. Where the home is this package and
that number is not the core's own slot, the message is not the one that the statement gives. -/
theorem not_gendAndExitComplete : ¬ Obligations.GendAndExitComplete := by
  rintro ⟨-, hgend, -⟩
  obtain ⟨-, harrives⟩ := hgend 0 strayMember strayPop rfl (by decide) rfl rfl rfl rfl (by decide)
  have hsent := (harrives strayMember_still.1 strayMember_still.2 rfl).1 (by decide) strayMember_noFailure
  obtain ⟨t, ht, hmsgs⟩ := exec_gend_strayMember
  rw [ht] at hsent
  rw [Host.Outcome.next.inj hsent] at hmsgs
  exact absurd hmsgs (by decide)

end Sys2Proof.Machine
end

section
/-! PROOF. The network interfaces: what they do with operations that arrive (O39), and what an issuer does with the answers
(O40). -/

namespace Sys2Proof.Machine

/-! ## Pieces -/

theorem State.pieceBytes_pos (s : State) {n : Nat} (h : 0 < n) : 8 ≤ s.pieceBytes n := by
  have hp : 0 < (n + 7) / 8 := by omega
  have := Nat.mod_lt (Config.pieces s.steps) hp
  simp only [State.pieceBytes]; omega

/-- A piece is not empty, and where it is not the last it ends at a whole 8-byte granule. -/
theorem State.pieceCut_spec (s : State) (a : Nat) {n : Nat} (h : 0 < n) :
    0 < s.pieceCut a n ∧ s.pieceCut a n ≤ n ∧ (s.pieceCut a n < n → (a + s.pieceCut a n) % 8 = 0) := by
  have h8 := s.pieceBytes_pos (n := n + a % 8) (by omega)
  have hd : s.pieceBytes (n + a % 8) % 8 = 0 := by simp only [State.pieceBytes]; omega
  simp only [State.pieceCut]
  omega

/-! ## Serving an operation that has arrived -/

theorem State.arriving_of {s : State} {k : Nat} {p : Packet} (h : s.arrives k p) : s.arriving = some (k, p) := by
  obtain ⟨hi, hn, hd, hm, hv, ha⟩ := h
  simp [State.arriving, hi, hn, hd, hm, ha, hd ▸ hv]

theorem State.answer_here (s : State) (r : Reply) (h : pkgOf r.dst = s.pkg) :
    s.answer r = { s with back := s.back ++ [r] } := by simp [State.answer, h]

/-- An operation of this package is served: it leaves the network, the core changes, and its issuer is answered. -/
theorem State.serves_eq {s : State} {p : Packet} (h : pkgOf p.src = s.pkg) (k : Nat) (c : Core) (a : ReplyKind) :
    State.answer { s.takePacket k with core := c } (p.answer a) = s.serves k p c a := State.answer_here _ _ h

theorem State.nack_eq {s : State} {p : Packet} (h : pkgOf p.src = s.pkg) (k cause : Nat) :
    (s.takePacket k).nack p cause = s.serves k p s.core (.nack cause) := State.answer_here _ _ h

theorem serveArriving_refused {s : State} {k : Nat} {p : Packet} {f : Packet → Option (State → State × ReplyKind)}
    {act : State → State × ReplyKind} {cause : Nat} (ha : s.arrives k p) (hp : pkgOf p.src = s.pkg) (hf : f p = some act)
    (hr : s.refuses p = some cause) : serveArriving s f = .next (s.serves k p s.core (.nack cause)) := by
  simp only [serveArriving, State.arriving_of ha, hf, hr, State.nack_eq hp]

theorem serveArriving_served {s : State} {k : Nat} {p : Packet} {f : Packet → Option (State → State × ReplyKind)}
    {act : State → State × ReplyKind} {c : Core} {r : ReplyKind} (ha : s.arrives k p) (hp : pkgOf p.src = s.pkg)
    (hf : f p = some act) (hr : s.refuses p = none) (hact : act (s.takePacket k) = ({ s.takePacket k with core := c }, r)) :
    serveArriving s f = .next (s.serves k p c r) := by
  simp only [serveArriving, State.arriving_of ha, hf, hr, hact, State.serves_eq hp]

theorem Core.noApplying {c : Core} (h : c.applying = none) : ({ c with applying := none } : Core) = c := by
  rw [← h]

/-- A message goes to the arrival queue, or behind the spilled ones. -/
theorem Core.acceptMsg_eq (c : Core) (m : Msg) : c.acceptMsg m =
    if c.inbox.arrival.length < 64 ∧ c.inbox.spill = [] then
      { c with inbox := { c.inbox with arrival := c.inbox.arrival ++ [m] }, latch := true }
    else { c with inbox := { c.inbox with spill := c.inbox.spill ++ [m], totspill := c.inbox.totspill + 1 } } := by
  unfold Core.acceptMsg
  by_cases h1 : c.inbox.arrival.length < 64 <;> by_cases h2 : c.inbox.spill = [] <;> simp [h1, h2, Core.setLatch]

/-- Applying the last piece of a write or payload answers it, and accepts the message whose payload it was. -/
theorem State.applyPieces_last {s : State} {x : Applying} (hp : pkgOf x.src = s.pkg)
    (h : x.bytes.length ≤ s.pieceCut x.addr x.bytes.length) : s.applyPieces x =
      { s with core := (s.core.applyWrite x.addr x.bytes).applied x, back := s.back ++ [⟨x.src, x.ctx, x.tag, .ack⟩] } := by
  simp only [State.applyPieces, if_pos h, List.take_of_length_le h]
  exact State.answer_here _ _ hp

theorem State.applyPieces_part {s : State} {x : Applying} (h : s.pieceCut x.addr x.bytes.length < x.bytes.length) :
    s.applyPieces x = { s with core := { s.core.applyWrite x.addr (x.bytes.take (s.pieceCut x.addr x.bytes.length)) with
      applying := some { x with
        addr := x.addr + s.pieceCut x.addr x.bytes.length, bytes := x.bytes.drop (s.pieceCut x.addr x.bytes.length) } } } := by
  simp only [State.applyPieces, if_neg (Nat.not_le.mpr h)]
  rfl

/-! ## Refusals -/

theorem Core.inRegion_iff (c : Core) (a n : Nat) : c.inRegion a n = true ↔
    a + n ≤ 0x140000 ∧ c.trap.ubase.toNat ≤ a ∧ a + n ≤ c.trap.ulimit.toNat := by
  simp only [Core.inRegion, inStore, Bool.and_eq_true, decide_eq_true_eq, and_assoc]
  exact Iff.rfl

theorem Core.accepts_iff (c : Core) (ctx : Nat) : c.accepts ctx = true ↔ c.bound = .never ∨ c.ids.ctx.toNat = ctx := by
  simp [Core.accepts]

theorem Inbox.noRoom_iff (b : Inbox) : b.noRoom = false ↔
    (b.arrival.length < 64 ∧ b.spill = []) ∨ b.spill.length < b.spillCap := by
  simp only [Inbox.noRoom, Bool.and_eq_false_iff, Bool.or_eq_false_iff, decide_eq_false_iff_not, Nat.not_le,
    Bool.not_eq_false', List.isEmpty_iff]

theorem Core.accepts_eq_false {c : Core} {ctx : Nat} (h : ¬ (c.bound = .never ∨ c.ids.ctx.toNat = ctx)) :
    c.accepts ctx = false := eq_false_of_ne_true fun e => h ((c.accepts_iff ctx).mp e)

theorem Core.inRegion_eq_false {c : Core} {a n : Nat}
    (h : ¬ (a + n ≤ 0x140000 ∧ c.trap.ubase.toNat ≤ a ∧ a + n ≤ c.trap.ulimit.toNat)) : c.inRegion a n = false :=
  eq_false_of_ne_true fun e => h ((c.inRegion_iff a n).mp e)

theorem State.refuses_write (s : State) (p : Packet) (a : Nat) (bs : List Byte) (hk : p.kind = .write a bs) :
    s.refuses p = if !s.storeReady p.dst then some 0x19
      else if !(s.coreAt p.dst).accepts p.ctx || (!(s.coreAt p.dst).inRegion a bs.length ||
        s.windowHeld p.dst a bs.length || (s.coreAt p.dst).mergesBad a bs.length) then some 0x10 else none := by
  simp only [State.refuses, State.refusesBy, hk, Packet.nackCause]; rfl

theorem State.refuses_read (s : State) (p : Packet) (a n : Nat) (hk : p.kind = .read a n) :
    s.refuses p = if !s.storeReady p.dst then some 0x19
      else if !(s.coreAt p.dst).accepts p.ctx || (!(s.coreAt p.dst).inRegion a n ||
        ((s.coreAt p.dst).badIn a n).isSome) then some 0x11 else none := by
  simp only [State.refuses, State.refusesBy, hk, Packet.nackCause]; rfl

theorem State.refuses_msg (s : State) (p : Packet) (h : Word) (ws : List Word) (hk : p.kind = .msg h ws none) :
    s.refuses p = if !(s.coreAt p.dst).accepts p.ctx || (s.coreAt p.dst).inbox.closed || (s.coreAt p.dst).inbox.noRoom
      then some 0x12 else none := by
  simp only [State.refuses, State.refusesBy, hk, Packet.nackCause, Bool.or_false]; rfl

theorem queue_refusal_iff : ∀ accepts closed full : Bool,
    (if !accepts || closed || full then some 0x12 else (none : Option Nat)) = none ↔
      accepts = true ∧ closed = false ∧ full = false := by decide

theorem State.refuses_mint (s : State) (p : Packet) (b : Fin 6) (hk : p.kind = .mint b) :
    s.refuses p = if !(s.coreAt p.dst).accepts p.ctx then some 0x10 else none := by
  simp only [State.refuses, State.refusesBy, hk, Packet.nackCause]; rfl

/-! ## The rows -/

theorem execNiApply_arriving {s : State} {k : Nat} {p : Packet} (ha : s.arrives k p) : exec .niApply s =
    match p.kind with
    | .write a bs =>
      match s.refuses p with
      | some cause => .next ((s.takePacket k).nack p cause)
      | none => .next ((s.takePacket k).applyPieces ⟨p.src, p.ctx, p.tag, a, bs, none, none⟩)
    | .copy a bs w =>
      match s.refuses p with
      | some cause => .next ((s.takePacket k).nack p cause)
      | none => .next (s.applyCopy k p a bs w)
    | _ => .next s := by
  obtain ⟨-, -, -, -, -, hn⟩ := id ha
  simp only [exec_niApply, execNiApply, hn, State.arriving_of ha] <;> rfl

theorem execMessageAccept_arriving {s : State} {k : Nat} {p : Packet} {h : Word} {ws : List Word} {q : Option Payload}
    (ha : s.arrives k p) (hk : p.kind = .msg h ws q) : exec .messageAccept s =
    match s.refuses p with
    | some cause => .next ((s.takePacket k).nack p cause)
    | none =>
      match landingOf ws q with
      | some (a, bs) =>
        .next ((s.takePacket k).applyPieces ⟨p.src, p.ctx, p.tag, a, bs, some (p.queued h ws q), none⟩)
      | none => .next (((s.takePacket k).mapCore fun c => c.acceptMsg (p.queued h ws q)).ack p) := by
  simp only [exec_messageAccept, execMessageAccept, State.arriving_of ha, hk] <;> rfl

theorem applyMint_eq (c : Core) (b : Fin 6) (src : Nat) : c.applyMint b src = { c with
    latch := c.latch || !c.trap.ipend.getLsbD b.val
    trap := { c.trap with
      ipend := c.trap.ipend ||| BitVec.ofNat 6 (2 ^ b.val)
      meshSender := if b = 2 then BitVec.ofNat 24 src else c.trap.meshSender
      wdSrc := if b = 5 then c.trap.wdSrc ||| 4 else c.trap.wdSrc } } := by
  have hbit : ∀ x : BitVec 6, (x &&& bit6 b == 0) = !x.getLsbD b.val := by revert b; decide
  have hp : c.pend b = { c with
      latch := c.latch || !c.trap.ipend.getLsbD b.val
      trap := { c.trap with ipend := c.trap.ipend ||| BitVec.ofNat 6 (2 ^ b.val) } } := by
    simp only [Core.pend, hbit]; rfl
  by_cases h2 : b = 2
  · subst h2; simp only [Core.applyMint]; rw [hp]; rfl
  · by_cases h5 : b = 5
    · subst h5; simp only [Core.applyMint, Core.pendWatchdog]; rw [hp]; rfl
    · have h2' : b.val ≠ 2 := fun e => h2 (Fin.ext e)
      have h5' : b.val ≠ 5 := fun e => h5 (Fin.ext e)
      have : c.applyMint b src = c.pend b := by
        unfold Core.applyMint
        split
        next h => exact absurd h h2'
        next h => exact absurd h h5'
        next => rfl
      rw [this, hp, if_neg h2, if_neg h5]

theorem vget_eq_getElem {α : Type} {n : Nat} (v : Vector α n) (i : Fin n) : v.get i = v[i.val] := rfl

theorem vget_ofFn {α : Type} {n : Nat} (f : Fin n → α) (i : Fin n) : (Vector.ofFn f).get i = f i := Vector.getElem_ofFn i.isLt

theorem CopyEngine.credits_credit (e : CopyEngine) (k : Nat) (j : Fin 16) (hk : k < 16) :
    ((e.credit k).credits.get j).toNat =
      if j.val = k then min 255 ((e.credits.get j).toNat + 1) else (e.credits.get j).toNat := by
  have hlt := (e.credits.get j).isLt
  have hc : (e.credit k).credits.get j =
      if j.val = k then (if e.credits.get ⟨k, hk⟩ == 255 then 255 else e.credits.get ⟨k, hk⟩ + 1) else e.credits.get j := by
    simp only [CopyEngine.credit, dif_pos hk, vget_eq_getElem, Vector.getElem_set, eq_comm]
  rw [hc]
  split
  next h =>
    obtain rfl : j = ⟨k, hk⟩ := Fin.ext h
    split
    next h => simp [eq_of_beq h]
    next h =>
      have hne : (e.credits.get ⟨k, hk⟩).toNat ≠ 255 := fun e => h (beq_iff_eq.mpr (BitVec.eq_of_toNat_eq e))
      have h1 : (1 : BitVec 8).toNat = 1 := rfl
      rw [BitVec.toNat_add]
      omega
  next => rfl

/-- Settles O39. -/
theorem arrivingOperationsAreServed : Obligations.ArrivingOperationsAreServed := by
  refine ⟨fun s a n h => s.pieceCut_spec a h, fun s k p ha hp => ⟨fun a bs hk hr => ?write, fun a bs w hk hr => ?copy,
    fun h ws q hk hr => ?payload, fun a n hk hr => ?read, fun f a n v new ret hk hr => ?amo, fun h ws hk hr => ?msg,
    fun b hk hr => ?mint, fun hk hm => ?bfree, fun cause hr => ⟨?_, ?_, ?_, ?_, ?_⟩⟩, fun s x hx hs hp => ?rest, fun s p => ⟨?_, ?_, ?_, ?_⟩⟩
  case write =>
    refine ⟨fun h => ?_, fun h => ?_⟩
    · simp only [execNiApply_arriving ha, hk, hr]
      rw [State.applyPieces_last hp h]
      rfl
    · simp only [execNiApply_arriving ha, hk, hr]
      rw [State.applyPieces_part h]
      rfl
  case copy =>
    obtain ⟨-, -, -, -, -, hn⟩ := id ha
    refine ⟨fun h => ?_, fun h => ?_⟩
    · simp only [execNiApply_arriving ha, hk, hr, State.applyCopy]
      rw [if_pos h, List.take_of_length_le h]
      refine congrArg Host.Outcome.next ((State.answer_here _ _ hp).trans ?_)
      simp only [State.serves, ← hn]
      rfl
    · simp only [execNiApply_arriving ha, hk, hr, State.applyCopy]
      rw [if_neg (Nat.not_le.mpr h)]
      have hc : (s.core.applyWrite a (bs.take (s.pieceCut a bs.length))).applying = none := hn
      exact congrArg (fun c : Core => Host.Outcome.next
        { s with core := c, net := s.net.set k { p with kind := .copy (a + s.pieceCut a bs.length) (bs.drop (s.pieceCut a bs.length)) w } })
        (Core.noApplying hc).symm
  case payload =>
    refine ⟨fun h => ?_, fun h => ?_⟩
    · rw [execMessageAccept_arriving ha hk, hr]
      simp only [landingOf, Option.map_some]
      rw [State.applyPieces_last hp h]
      simp only [Core.applied, Core.acceptMsg_eq]
      rfl
    · rw [execMessageAccept_arriving ha hk, hr]
      simp only [landingOf, Option.map_some]
      rw [State.applyPieces_part h]
      rfl
  case read =>
    rw [exec_niRemoteRead, execNiRemoteRead]
    exact serveArriving_served ha hp (by rw [hk]) hr rfl
  case amo =>
    rw [exec_niRemoteAtomic, execNiRemoteAtomic]
    exact serveArriving_served ha hp (by rw [hk]) hr rfl
  case msg =>
    rw [execMessageAccept_arriving ha hk, hr]
    simp only [landingOf, Option.map_none, State.mapCore, Core.acceptMsg_eq]
    exact congrArg Host.Outcome.next (State.serves_eq hp k _ .ack)
  case mint =>
    rw [exec_mintApply, execMintApply]
    refine serveArriving_served ha hp (by rw [hk]) hr ?_
    simp only [State.mapCore, applyMint_eq]
    rfl
  case bfree =>
    have hk16 : coreNo p.src < 16 := Nat.mod_lt _ (by decide)
    have hm' : (s.core.copy.credit (coreNo p.src)).mcasts = [] := by
      unfold CopyEngine.credit; rw [dif_pos hk16]; exact hm
    have he : exec .bfreeCredit s = .next ((s.takePacket k).mapCore fun c =>
        { c with copy := (c.copy.credit (coreNo p.src)).released }) := by
      simp only [exec_bfreeCredit, execBfreeCredit, State.arriving_of ha, hk]
    have hr : (s.core.copy.credit (coreNo p.src)).released = s.core.copy.credit (coreNo p.src) := by
      rw [CopyEngine.released, hm']; rfl
    refine ⟨_, he, rfl, ?_, fun j => ?_⟩
    · refine (congrArg CopyEngine.mbox hr).trans ?_
      unfold CopyEngine.credit; rw [dif_pos hk16]
    · exact (congrArg (fun e : CopyEngine => (e.credits.get j).toNat) hr).trans
        (s.core.copy.credits_credit (coreNo p.src) j hk16)
  case rest =>
    have he : exec .niApply s = .next (s.applyPieces x) := by
      simp only [exec_niApply, execNiApply, hx, hs, Option.isSome_none, Bool.false_eq_true, if_false]
    refine ⟨fun h => ?_, fun h => ⟨fun hm => ?_, fun m hm => ?_⟩⟩
    · rw [he, State.applyPieces_part h]; rfl
    · rw [he, State.applyPieces_last hp h]
      simp only [Core.applied, hm]
      rfl
    · rw [he, State.applyPieces_last hp h]
      simp only [Core.applied, hm, Core.acceptMsg_eq]
      rfl
  · rintro ⟨a, bs, hk | ⟨w, hk⟩⟩ <;> simp only [execNiApply_arriving ha, hk, hr, State.nack_eq hp]
  · rintro ⟨a, n, hk⟩
    rw [exec_niRemoteRead, execNiRemoteRead]
    exact serveArriving_refused ha hp (by rw [hk]) hr
  · rintro ⟨f, a, n, v, new, ret, hk⟩
    rw [exec_niRemoteAtomic, execNiRemoteAtomic]
    exact serveArriving_refused ha hp (by rw [hk]) hr
  · rintro ⟨h, ws, q, hk⟩
    rw [execMessageAccept_arriving ha hk, hr]
    simp only [State.nack_eq hp]
  · rintro ⟨b, hk⟩
    rw [exec_mintApply, execMintApply]
    exact serveArriving_refused ha hp (by rw [hk]) hr
  · intro a bs hk
    rw [s.refuses_write p a bs hk]
    refine ⟨fun h => by simp [h], fun h hf => ?_, fun h hm hi hw hb => ?_⟩
    · rcases hf with hf | hf
      · simp [h, Core.accepts_eq_false hf]
      · simp [h, Core.inRegion_eq_false hf]
    · have hb : (s.coreAt p.dst).mergesBad a bs.length = false := by
        have hb : (s.coreAt p.dst).bad = [] := hb
        simp [Core.mergesBad, hb]
      simp [h, ((s.coreAt p.dst).accepts_iff p.ctx).mpr hm, ((s.coreAt p.dst).inRegion_iff a bs.length).mpr hi, hw, hb]
  · intro a n hk
    rw [s.refuses_read p a n hk]
    refine ⟨fun h => by simp [h], fun h hf => ?_, fun h hm hi hb => ?_⟩
    · rcases hf with hf | hf
      · simp [h, Core.accepts_eq_false hf]
      · simp [h, Core.inRegion_eq_false hf]
    · have hb : (s.coreAt p.dst).badIn a n = none := by
        have hb : (s.coreAt p.dst).bad = [] := hb
        simp [Core.badIn, hb]
      simp [h, ((s.coreAt p.dst).accepts_iff p.ctx).mpr hm, ((s.coreAt p.dst).inRegion_iff a n).mpr hi, hb]
  · intro h ws hk
    rw [s.refuses_msg p h ws hk]
    refine ⟨?_, fun hne => ?_⟩
    · rw [← Inbox.noRoom_iff, ← Core.accepts_iff]
      exact queue_refusal_iff _ _ _
    · split at hne
      next => exact if_pos ‹_›
      next => exact absurd rfl hne
  · intro b hk
    rw [s.refuses_mint p b hk]
    by_cases h : (s.coreAt p.dst).bound = .never ∨ (s.coreAt p.dst).ids.ctx.toNat = p.ctx
    · rw [if_pos h, ((s.coreAt p.dst).accepts_iff p.ctx).mpr h]; rfl
    · rw [if_neg h, Core.accepts_eq_false h]; rfl

/-! ## Answers at the issuer -/

theorem State.answering_of {s : State} {k : Nat} {r : Reply} (h : s.answers k r) : s.answering = some (k, r) := by
  obtain ⟨hi, hb, hd, hv⟩ := h
  simp [State.answering, hi, hb, hd, hd ▸ hv]

theorem execAckArrival_answering {s : State} {k : Nat} {r : Reply} {o : OutOp} (h : s.answers k r)
    (ho : s.core.findOut r.tag = some o) (hk : o.kind = .store ∨ o.kind = .msg ∨ o.kind = .mint) :
    (r.kind = .ack → exec .ackArrival s = .next (s.takes k (s.core.closeOut o.tag))) ∧
    ∀ cause, r.kind = .nack cause → exec .ackArrival s = .next (s.takes k (s.core.refusedOut o cause)) := by
  refine ⟨fun hr => ?_, fun cause hr => ?_⟩ <;> rcases hk with hk | hk | hk <;>
    simp only [exec_ackArrival, execAckArrival, State.answering_of h, hr, ho, hk, OutKind.isLoad] <;> rfl

theorem execReplyArrival_load {s : State} {k : Nat} {r : Reply} {o : OutOp} {d : SReg} {size : Size} {u : Bool}
    (h : s.answers k r) (ho : s.core.findOut r.tag = some o) (hk : o.kind = .load d size u) :
    (∀ x, r.kind = .value x → exec .replyArrival s =
      .next (s.takes k ((s.core.wrS d (extend size u x.toNat)).closeOut o.tag).observe)) ∧
    ∀ cause, r.kind = .nack cause → exec .replyArrival s =
      .next (s.takes k ((s.core.wrS d (extend size u 0)).refusedOut o cause)) := by
  refine ⟨fun x hr => ?_, fun cause hr => ?_⟩ <;>
    simp only [exec_replyArrival, execReplyArrival, State.answering_of h, hr, ho, hk, OutKind.isLoad, Core.writeReply] <;> rfl

theorem extend_zero (size : Size) (u : Bool) : extend size u 0 = 0 := by cases size <;> cases u <;> decide

theorem Core.closeOut_eq {c : Core} {tag : Nat} {o : OutOp} (h : c.findOut tag = some o) (hc : o.kind.isCopy = false) :
    c.closeOut tag = { c with
      outst := c.outst.filter fun o => o.tag != tag
      cnt := if o.kind.isLoad then { c.cnt with ld := c.cnt.ld - 1 } else c.cnt.subSt o.reach } := by
  have h : c.outst.find? (fun o => o.tag == tag) = some o := h
  simp only [Core.closeOut, h, hc, Bool.false_eq_true, if_false]

theorem Core.closeOut_frame (c : Core) (tag : Nat) : ∃ os n, c.closeOut tag = { c with outst := os, cnt := n } := by
  unfold Core.closeOut; split <;> exact ⟨_, _, rfl⟩

/-- The first failure is held with its cause, its place and its address; a replay keeps each. -/
theorem Core.refusedOut_first {c : Core} {o : OutOp} {cause : Nat} (h : c.afault.getLsbD 8 = false) (hc : cause < 256) :
    c.refusedOut o cause =
      let f := Failure.plain (if o.kind.isLoad then .ld else .st) cause o.pc o.afaddr
      { c.closeOut o.tag with
        afault := BitVec.ofNat 64 (cause + 2 ^ 8 + (if o.kind.isLoad then 0 else 2 ^ 12)), afpc := o.pc, afaddr := o.afaddr
        afFar := false
        trans := if c.trans.mode = 2 then { c.trans with fails := c.trans.fails ++ [f] } else c.trans } := by
  obtain ⟨os, n, he⟩ := c.closeOut_frame o.tag
  have hw : afaultWord (Failure.plain (if o.kind.isLoad then .ld else .st) cause o.pc o.afaddr) =
      BitVec.ofNat 64 (cause + 2 ^ 8 + (if o.kind.isLoad then 0 else 2 ^ 12)) := by
    simp only [afaultWord, Failure.plain, Nat.mod_eq_of_lt hc]
    cases o.kind.isLoad <;> simp [bit, OpClass.code]
  have hv : afValid c.afault = false := h
  simp only [Core.refusedOut, Core.recordFailure, Core.noteFailure, he, hv, Bool.false_eq_true, if_false, hw]
  by_cases hm : c.trans.mode = 2
  · rw [if_pos (beq_iff_eq.mpr hm), if_pos hm]; rfl
  · rw [if_neg (by simpa using hm), if_neg hm]; rfl

theorem Core.wrS_frame (c : Core) (d : SReg) (x : Word) :
    (c.wrS d x).afault = c.afault ∧ (c.wrS d x).trans = c.trans := by
  obtain ⟨v, bad, h⟩ := c.wrS_eq d x
  rw [h]; exact ⟨rfl, rfl⟩

/-- Settles O40. -/
theorem answersEndOperations : Obligations.AnswersEndOperations := by
  refine ⟨fun s k r o ha ho => ⟨fun hr hk => ?ack, fun cause hr hc hk hv => ?nack, fun x d size u hr hk => ?value,
    fun cause d size u hr hk hc hv => ?refused⟩, fun c => rfl, fun c tag o ho hc => ?closed, fun s m rest hs hl => ?spill,
    fun s base cap hi => ?config⟩
  case ack => exact (execAckArrival_answering ha ho hk).1 hr
  case nack =>
    have hl : o.kind.isLoad = false := by rcases hk with hk | hk | hk <;> rw [hk] <;> rfl
    rw [(execAckArrival_answering ha ho hk).2 cause hr, Core.refusedOut_first hv hc, hl]
    rfl
  case value =>
    have hx : extend size u x.toNat = if u then BitVec.ofNat 64 x.toNat
        else BitVec.ofInt 64 (toSigned (8 * size.bytes) (x.toNat % 2 ^ (8 * size.bytes))) := by
      rw [extend_eq, toSigned_mod]
    rw [(execReplyArrival_load ha ho hk).1 x hr, hx]
  case refused =>
    have hl : o.kind.isLoad = true := by rw [hk]; rfl
    obtain ⟨hf, ht⟩ := s.core.wrS_frame d 0
    rw [(execReplyArrival_load ha ho hk).2 cause hr, extend_zero, Core.refusedOut_first (by rw [hf]; exact hv) hc, hl, ht]
    rfl
  case closed =>
    rw [Core.closeOut_eq ho hc]
    refine ⟨rfl, ?_, ?_, ?_, ?_, rfl⟩ <;> cases o.kind.isLoad <;> cases o.reach <;> simp [Counters.subSt]
  case spill =>
    simp only [exec_spillMove, execSpillMove, hs, hl, if_true, State.mapCore]
    rfl
  case config =>
    rw [exec_spillQueueConfig, execSpillQueueConfig, hi]
    exact congrArg Host.Outcome.next (s.onCore_self _)

end Sys2Proof.Machine
end

section
/-! PROOF. The copy engine's steps (O41): a request begins, reads, gathers, transforms, lands, and completes. -/

namespace Sys2Proof.Machine

/-! ## The oldest request of a channel -/

/-- The oldest request of a channel in a FIFO. -/
def oldestOf (ch : Chan) : List FifoItem → Option Xfer
  | [] => none
  | .req x :: rest => if x.ch == ch then some x else oldestOf ch rest
  | .join _ :: rest => oldestOf ch rest

theorem Core.oldest_eq (c : Core) (ch : Chan) : c.oldest ch = oldestOf ch c.copy.fifo := by
  unfold Core.oldest Core.xfers
  induction c.copy.fifo with
  | nil => rfl
  | cons it l ih =>
    cases it with
    | join m => exact ih
    | req x =>
      rw [oldestOf, ← ih, List.filterMap_cons]
      by_cases h : x.ch == ch <;> simp only [h] <;> rfl

theorem oldestOf_setOldest {ch : Chan} {l : List FifoItem} {x : Xfer} (f : Xfer → Xfer) (h : oldestOf ch l = some x)
    (hf : (f x).ch = x.ch) : oldestOf ch (setOldest ch f l) = some (f x) := by
  induction l with
  | nil => cases h
  | cons it l ih =>
    cases it with
    | join m => exact ih h
    | req y =>
      by_cases hy : y.ch == ch
      · simp only [oldestOf, hy, if_true, Option.some.injEq] at h
        subst h
        simp [setOldest, hy, oldestOf, hf]
      · simp only [oldestOf, hy] at h
        simpa [setOldest, oldestOf, hy] using ih h

theorem setOldest_congr {ch : Chan} {l : List FifoItem} {x : Xfer} {f g : Xfer → Xfer} (h : oldestOf ch l = some x)
    (hfg : f x = g x) : setOldest ch f l = setOldest ch g l := by
  induction l with
  | nil => cases h
  | cons it l ih =>
    cases it with
    | join m => exact congrArg (FifoItem.join m :: ·) (ih h)
    | req y =>
      by_cases hy : y.ch == ch
      · simp only [oldestOf, hy, if_true, Option.some.injEq] at h
        subst h
        simp [setOldest, hy, hfg]
      · simp only [setOldest, hy]
        simp only [oldestOf, hy] at h
        exact congrArg (FifoItem.req y :: ·) (ih h)

theorem setOldest_setOldest {ch : Chan} {l : List FifoItem} {x : Xfer} (f g : Xfer → Xfer) (h : oldestOf ch l = some x)
    (hf : (f x).ch = x.ch) : setOldest ch g (setOldest ch f l) = setOldest ch (fun x => g (f x)) l := by
  induction l with
  | nil => cases h
  | cons it l ih =>
    cases it with
    | join m => exact congrArg (FifoItem.join m :: ·) (ih h)
    | req y =>
      by_cases hy : y.ch == ch
      · simp only [oldestOf, hy, if_true, Option.some.injEq] at h
        subst h
        simp [setOldest, hy, hf]
      · simp only [setOldest, hy]
        simp only [oldestOf, hy] at h
        simpa [setOldest, hy] using congrArg (FifoItem.req y :: ·) (ih h)

theorem Core.onXfer_congr {c : Core} {ch : Chan} {x : Xfer} {f g : Xfer → Xfer} (h : c.oldest ch = some x)
    (hfg : f x = g x) : c.onXfer ch f = c.onXfer ch g := by
  simp only [Core.onXfer, setOldest_congr ((c.oldest_eq ch).symm.trans h) hfg]

theorem Core.oldest_onXfer {c : Core} {ch : Chan} {x : Xfer} {f : Xfer → Xfer} (h : c.oldest ch = some x)
    (hf : (f x).ch = x.ch) : (c.onXfer ch f).oldest ch = some (f x) := by
  rw [Core.oldest_eq]
  exact oldestOf_setOldest f ((c.oldest_eq ch).symm.trans h) hf

theorem Core.onXfer_onXfer {c : Core} {ch : Chan} {x : Xfer} {f g : Xfer → Xfer} (h : c.oldest ch = some x)
    (hf : (f x).ch = x.ch) : (c.onXfer ch f).onXfer ch g = c.onXfer ch fun x => g (f x) := by
  simp only [Core.onXfer, setOldest_setOldest f g ((c.oldest_eq ch).symm.trans h) hf]

theorem Core.oldest_congr {c d : Core} (h : d.copy = c.copy) (ch : Chan) : d.oldest ch = c.oldest ch := by
  rw [Core.oldest_eq, Core.oldest_eq, h]

theorem Core.running_of {c : Core} {ch : Chan} {x : Xfer} (h : c.oldest ch = some x) (hp : x.phase = .active) :
    c.running ch = some x := by simp [Core.running, h, hp]

theorem withChan_of {s : State} {ch : Chan} (h : s.inp = .idx ch.val) (k : Chan → Result) : withChan s k = k ch := by
  simp [withChan, h]

/-! ## What the sizes of a piece depend on -/

/-- Only a row's address is read from the core. -/
theorem Xfer.va_of_kind {x : Xfer} (h : x.kind ≠ 3) (c d : Core) : x.va c = x.va d := by
  unfold Xfer.va
  split
  · rfl
  · contradiction
  · rfl

theorem Xfer.pieceLen_of_kind {x : Xfer} (h : x.kind ≠ 3) (c d : Core) : x.pieceLen c = x.pieceLen d := by
  simp only [Xfer.pieceLen, x.va_of_kind h c d]

theorem Xfer.stepLen_congr (x : Xfer) (c d : Core) : x.stepLen c = x.stepLen d := by
  unfold Xfer.stepLen
  by_cases h : x.kind = 3
  · simp [h]
  · simp [h, x.pieceLen_of_kind h c d]

theorem Xfer.landLen_congr (x : Xfer) (c d : Core) : x.landLen c = x.landLen d := by
  simp only [Xfer.landLen, x.stepLen_congr c d]

/-- A request that reads no global memory. -/
theorem Xfer.kind_of_not_reading {x : Xfer} (h : x.reading = false) : x.kind ≠ 3 := by
  intro e; simp [Xfer.reading, e] at h

theorem Xfer.supply_congr {x : Xfer} (h : x.kind ≠ 3) (c d : Core) : x.supply c = x.supply d := by
  simp only [Xfer.supply, x.pieceLen_of_kind h c d]

theorem Xfer.gathers_congr (x : Xfer) (c d : Core) : x.gathers c = x.gathers d := by
  unfold Xfer.gathers
  cases h : x.reading with
  | true => rfl
  | false => rw [x.supply_congr (Xfer.kind_of_not_reading h) c d]

/-! ## Reading and writing chunks -/

theorem execChunkAccess_runs {s : State} {ch : Chan} {x : Xfer} (h : s.runs ch x) : exec .chunkAccess s =
    if x.reading && x.acc == .none then
      if x.kind == 3 && x.index.isNone then .next (s.readIndex ch x)
      else .next (s.readPiece ch x (x.va s.core) false fun x _ => { x with acc := .again })
    else if x.kind == 1 && x.acc == .put then .next (s.putPiece ch x)
    else .next s := by
  obtain ⟨hi, ho, hp⟩ := h
  rw [exec_chunkAccess, execChunkAccess, withChan_of hi, Core.running_of ho hp]

/-- A second malformed read ends the request, or turns to its replica. -/
theorem execChunkRefetch_again {s : State} {ch : Chan} {x : Xfer} (h : s.runs ch x) (ha : x.acc = .again) :
    exec .chunkRefetch s = .next (s.readPiece ch x (x.va s.core) true fun y p =>
      if x.replicaVa.isNone then y.failGlobal (x.va s.core) (badReason p) else { y with acc := .replica }) := by
  obtain ⟨hi, ho, hp⟩ := h
  rw [exec_chunkRefetch, execChunkRefetch, withChan_of hi, Core.running_of ho hp]
  cases hr : x.replicaVa <;> simp only [ha, hr, Option.isNone_none, Option.isNone_some, if_true, if_false, Bool.false_eq_true]

/-- The bytes of the chunk that the current piece takes, added to what it holds. -/
def Xfer.pieceOf (x : Xfer) (c : Core) (bs : List Byte) : List Byte :=
  x.buf ++ (bs.drop (x.va c % 4096)).take (x.pieceLen c)

theorem Xfer.take_eq (x : Xfer) (c : Core) (bs : List Byte) : x.take c (x.va c) bs =
    { x with buf := x.pieceOf c bs,
             acc := if x.kind = 3 ∧ (x.pieceOf c bs).length ≠ x.pa then .none else .have_ } := by
  have hc : (x.kind != 3 || (x.pieceOf c bs).length == x.pa) = !decide (x.kind = 3 ∧ (x.pieceOf c bs).length ≠ x.pa) := by
    by_cases h : x.kind = 3 <;> by_cases h' : (x.pieceOf c bs).length = x.pa <;> simp [h, h']
  unfold Xfer.take
  change ({ x with buf := x.pieceOf c bs, acc := if (x.kind != 3 || (x.pieceOf c bs).length == x.pa) then _ else _ } : Xfer) = _
  rw [hc]
  by_cases h : x.kind = 3 ∧ (x.pieceOf c bs).length ≠ x.pa <;> simp [h]

/-- A chunk that reads well becomes the current piece, once the tokens are there. -/
theorem State.readPiece_done {s t : State} {ch : Chan} {x : Xfer} {again : Bool} {bad : Xfer → Bool → Xfer} {g g' : Gmem}
    {bs : List Byte} (ho : s.core.oldest ch = some x)
    (hr : s.gmem.readChunk x.ctx (x.va s.core) s.hitR = .done g bs)
    (hg : (if again then g.correctAt x.ctx (x.va s.core) else g) = g')
    (ht : State.charge { s with gmem := g', core := s.core.onXfer ch fun y => { y with
        buf := x.pieceOf s.core bs,
        acc := if x.kind = 3 ∧ (x.pieceOf s.core bs).length ≠ x.pa then .none else .have_ } }
      (s.portsOf s.cid x (x.va s.core)) x.ctx (s.gmem.costAt x.ctx (x.va s.core)) = some t) :
    s.readPiece ch x (x.va s.core) again bad = t := by
  have hc : s.core.onXfer ch (fun y => y.take s.core (x.va s.core) bs) = s.core.onXfer ch fun y => { y with
      buf := x.pieceOf s.core bs,
      acc := if x.kind = 3 ∧ (x.pieceOf s.core bs).length ≠ x.pa then .none else .have_ } :=
    Core.onXfer_congr ho (x.take_eq s.core bs)
  simp only [State.readPiece, hr, hg, hc, State.spend, ht, Option.getD_some]

theorem Xfer.advance_eq (x : Xfer) (n : Nat) (carry : List Byte) : x.advance n carry = { x with
    pos := x.pos + n, acc := .none, buf := x.ahead, ahead := [], landed := 0, carry := carry, index := none
    fromReplica := false
    carryFrom := if x.carry = [] ∨ carry.length ≠ x.buf.length then x.doneb else x.carryFrom
    phase := if x.total ≤ x.pos + n then .ended else x.phase } := by
  have hc : (x.carry.isEmpty || carry.length != x.buf.length) = decide (x.carry = [] ∨ carry.length ≠ x.buf.length) := by
    by_cases h : x.carry = [] <;> by_cases h' : carry.length = x.buf.length <;> simp [h, h']
  unfold Xfer.advance
  simp only [hc, decide_eq_true_eq]
  generalize (if x.carry = [] ∨ carry.length ≠ x.buf.length then x.doneb else x.carryFrom) = cf
  split
  next h =>
    have h : x.total ≤ x.pos + n := h
    rw [if_pos h]
  next h =>
    have h : ¬ x.total ≤ x.pos + n := h
    rw [if_neg h]

/-! ## Landing -/

theorem State.charge_some {s t : State} {ports : List Nat} {ctx cost : Nat} (h : s.charge ports ctx cost = some t) :
    ∃ hs, t = { s with host := hs } := by
  unfold State.charge at h
  dsimp only at h
  split at h
  · cases h; exact ⟨_, rfl⟩
  · cases h

theorem State.crossBeats_some {s t : State} {w : Bool} {n : Nat} (h : s.crossBeats w n = some t) :
    ∃ hs, t = { s with host := hs } := by
  unfold State.crossBeats at h
  split at h
  · cases h; exact ⟨_, rfl⟩
  · split at h
    · cases h; exact ⟨_, rfl⟩
    · cases h

theorem State.sendTokens_some {s t : State} {x : Xfer} {bs : List Byte} (h : s.sendTokens x bs = some t) :
    ∃ hs, t = { s with host := hs } := by
  unfold State.sendTokens at h
  split at h
  · exact State.charge_some h
  · cases h; exact ⟨_, rfl⟩

/-- One step of landing at a target that takes the bytes. -/
theorem State.landNext_lands {s : State} {ch : Chan} {x : Xfer} {cid : Nat} (hn : 0 < x.landLen s.core)
    (ht : (x.targets s.cid)[x.landed / x.landLen s.core]? = some cid) (hr : cid ∉ x.refused)
    (ha : x.own = false → (s.coreAt cid).applying = none) :
    let n := x.landLen s.core
    let off := x.landed % n
    let k := s.pieceCut (x.landFrom + off) (n - off)
    s.landRefusal x cid (x.landFrom + off) k = none → s.landNext ch x =
      ((s.land x.own cid (x.landFrom + off) ((x.buf.drop off).take k)).mapCore fun c =>
        c.onXfer ch fun y => { y with landed := y.landed + k }, x.landed + k == n * (x.targets s.cid).length) := by
  intro n off k hl
  have hz : (x.landLen s.core == 0) = false := beq_eq_false_iff_ne.mpr (by omega)
  have hap : (!x.own && (s.coreAt cid).applying.isSome) = false := by
    cases ho : x.own
    · simp [ha ho]
    · rfl
  have hc : x.refused.contains cid = false := by simpa using hr
  have hl : s.landRefusal x cid (x.landFrom + x.landed % x.landLen s.core)
      (s.pieceCut (x.landFrom + x.landed % x.landLen s.core) (x.landLen s.core - x.landed % x.landLen s.core)) = none := hl
  simp only [State.landNext, hz, Bool.false_eq_true, if_false, ht, hc, hap, hl]
  rfl

/-- Behind the last target the request goes on with its next piece. -/
theorem State.landNext_last {s : State} {ch : Chan} {x : Xfer}
    (ht : (x.targets s.cid)[x.landed / x.landLen s.core]? = none) : s.landNext ch x =
      (s.mapCore fun c => c.onXfer ch fun y => y.advance (y.stepLen c) (y.buf.drop (x.landLen s.core)), false) := by
  simp only [State.landNext, ht]
  split
  next h => split at h <;> rfl
  next h => split at h <;> cases h

theorem State.landStep_succ {s : State} {ch : Chan} {x : Xfer} (fuel : Nat) (ho : s.core.oldest ch = some x)
    (hp : x.phase = .active) (ha : x.acc = .land) : State.landStep ch (fuel + 1) s =
      if (s.landNext ch x).2 then State.landStep ch fuel (s.landNext ch x).1 else (s.landNext ch x).1 := by
  have h : (x.acc != .land) = false := by rw [ha]; rfl
  simp only [State.landStep, Core.running_of ho hp, h, Bool.false_eq_true, if_false]

theorem State.ls_mapCore {s : State} {f : Core → Core} (h : (f s.core).ls = s.core.ls) (j : Nat) :
    ((s.mapCore f).coreAt j).ls = (s.coreAt j).ls := by
  rw [show s.mapCore f = s.onCore s.cid f from (s.onCore_self f).symm, State.coreAt_onCore]
  split
  next e => rw [e, State.coreAt_self, h]
  next => rfl

theorem State.land_ls (s : State) (own : Bool) (cid a : Nat) (bs : List Byte) (j : Nat) :
    ((s.land own cid a bs).coreAt j).ls = if j = cid then (s.coreAt cid).ls.writeBytes a bs else (s.coreAt j).ls := by
  rw [State.land, State.coreAt_onCore]
  split
  · cases own <;> rfl
  · rfl

theorem State.land_frame (s : State) (own : Bool) (cid a : Nat) (bs : List Byte) :
    (s.land own cid a bs).cid = s.cid ∧ (s.land own cid a bs).core.copy = s.core.copy := by
  obtain ⟨os, h⟩ := s.onCore_eq cid fun c => if own then c.landBytes a bs else (c.landBytes a bs).setLatch
  have h : s.land own cid a bs = _ := h
  rw [h]
  refine ⟨rfl, ?_⟩
  dsimp only
  split
  · cases own <;> rfl
  · rfl

/-- A step that lands bytes: they lie at their place, and the request goes on to its next target or its next piece. -/
theorem execCopyChunk_lands {s : State} {ch : Chan} {x : Xfer} {cid : Nat} (h : s.runs ch x) (hacc : x.acc = .land)
    (hn : 0 < x.landLen s.core) (ht : (x.targets s.cid)[x.landed / x.landLen s.core]? = some cid) (hr : cid ∉ x.refused)
    (ha : x.own = false → (s.coreAt cid).applying = none) :
    let n := x.landLen s.core
    let off := x.landed % n
    let a := x.landFrom + off
    let k := s.pieceCut a (n - off)
    s.landRefusal x cid a k = none → ∃ t, exec .copyChunk s = .next t ∧
      (t.coreAt cid).ls = (s.coreAt cid).ls.writeBytes a ((x.buf.drop off).take k) ∧
      (∀ c, c ≠ cid → (t.coreAt c).ls = (s.coreAt c).ls) ∧
      t.core.oldest ch = some (if x.landed + k = n * (x.targets s.cid).length then x.advance (x.stepLen s.core) (x.buf.drop n)
        else { x with landed := x.landed + k }) := by
  intro n off a k hl
  obtain ⟨hi, ho, hp⟩ := h
  have hnext := State.landNext_lands (ch := ch) hn ht hr ha hl
  have hexec : exec .copyChunk s = .next (State.landStep ch 17 s) := by
    rw [exec_copyChunk, execCopyChunk, withChan_of hi, Core.running_of ho hp]
    simp only [hacc, beq_self_eq_true, if_true]
  obtain ⟨hcid, hcopy⟩ := s.land_frame x.own cid a ((x.buf.drop off).take k)
  generalize hs1 : (s.land x.own cid a ((x.buf.drop off).take k)).mapCore
    (fun c => c.onXfer ch fun y => { y with landed := y.landed + k }) = s1
  have hls1 : ∀ j, (s1.coreAt j).ls = if j = cid then (s.coreAt cid).ls.writeBytes a ((x.buf.drop off).take k) else (s.coreAt j).ls := by
    intro j
    rw [← hs1, State.ls_mapCore rfl, s.land_ls]
  have ho1 : s1.core.oldest ch = some { x with landed := x.landed + k } := by
    rw [← hs1]
    exact Core.oldest_onXfer (f := fun y => { y with landed := y.landed + k }) ((Core.oldest_congr hcopy ch).trans ho) rfl
  have hcid1 : s1.cid = s.cid := by rw [← hs1]; exact hcid
  rw [hexec, State.landStep_succ 16 ho hp hacc]
  have hnext : s.landNext ch x = (s1, x.landed + k == n * (x.targets s.cid).length) := by
    rw [← hs1]; exact hnext
  rw [hnext]
  by_cases hlast : x.landed + k = n * (x.targets s.cid).length
  · rw [if_pos (beq_iff_eq.mpr hlast), if_pos hlast]
    have hln : Xfer.landLen { x with landed := x.landed + k } s1.core = n := x.landLen_congr s1.core s.core
    have hnone : (Xfer.targets { x with landed := x.landed + k } s1.cid)[(x.landed + k) /
        Xfer.landLen { x with landed := x.landed + k } s1.core]? = none := by
      rw [hln, hlast, Nat.mul_div_cancel_left _ hn, hcid1]
      exact List.getElem?_eq_none (Nat.le_refl _)
    rw [State.landStep_succ 15 ho1 hp hacc, State.landNext_last hnone]
    refine ⟨_, rfl, ?_, fun c hc => ?_, ?_⟩
    · simp only [Bool.false_eq_true, if_false]
      rw [State.ls_mapCore rfl, hls1, if_pos rfl]
    · simp only [Bool.false_eq_true, if_false]
      rw [State.ls_mapCore rfl, hls1, if_neg hc]
    · simp only [Bool.false_eq_true, if_false]
      refine (Core.oldest_onXfer ho1 (by rw [Xfer.advance_eq])).trans (congrArg some ?_)
      rw [hln, Xfer.stepLen_congr _ s1.core s.core, Xfer.advance_eq, Xfer.advance_eq]
      rfl
  · rw [if_neg (by simpa using hlast), if_neg hlast]
    exact ⟨s1, rfl, by rw [hls1, if_pos rfl], fun c hc => by rw [hls1, if_neg hc], ho1⟩

/-! ## Gathering, transforming and sending -/

theorem execCopyChunk_runs {s : State} {ch : Chan} {x : Xfer} (h : s.runs ch x) (ha : x.acc ≠ .land) :
    exec .copyChunk s =
      match (if x.gathers s.core then s.gather ch x else s).core.running ch with
      | none => .next (if x.gathers s.core then s.gather ch x else s)
      | some y => .next ((if x.gathers s.core then s.gather ch x else s).movePiece ch y) := by
  obtain ⟨hi, ho, hp⟩ := h
  have hl : (x.acc == .land) = false := by simpa using ha
  rw [exec_copyChunk, execCopyChunk, withChan_of hi, Core.running_of ho hp]
  simp only [hl, Bool.false_eq_true, if_false] <;> rfl

/-- A request that has its bytes, or cannot have more, goes on to move its piece. -/
theorem execCopyChunk_moves {s : State} {ch : Chan} {x : Xfer} (h : s.runs ch x) (ha : x.acc ≠ .land)
    (hg : x.gathers s.core = false) : exec .copyChunk s = .next (s.movePiece ch x) := by
  rw [execCopyChunk_runs h ha]
  simp only [hg, Bool.false_eq_true, if_false, Core.running_of h.2.1 h.2.2]

theorem State.movePiece_none {s : State} {ch : Chan} {x : Xfer} (h : s.pieceReady x = none) : s.movePiece ch x = s := by
  unfold State.movePiece; rw [h]

theorem State.movePiece_some {s u t : State} {ch : Chan} {x : Xfer} {bs : List Byte} (h : s.pieceReady x = some bs)
    (hu : s.crossBeats true (legBeats (s.legsOf x bs)) = some u) (ht : u.sendTokens x bs = some t) :
    s.movePiece ch x = t.copyPiece ch x bs := by
  unfold State.movePiece; simp only [h, hu, ht]

theorem Xfer.acc_of_gathers {x : Xfer} {c : Core} (h : x.gathers c = true) : x.reading = false ∧ x.acc = .none := by
  simp only [Xfer.gathers, Bool.and_eq_true, Bool.not_eq_true', beq_iff_eq] at h
  exact h.1

/-- The bytes that a step gathers from the core's own store. -/
theorem execCopyChunk_gathers {s : State} {ch : Chan} {x : Xfer} (h : s.runs ch x) (hg : x.gathers s.core = true) :
    let b := (x.supply s.core).1 + x.buf.length
    let k := s.pieceCut b (min (((x.supply s.core).1 + (x.supply s.core).2 + 7) / 8 * 8) (x.src + x.len) - b)
    let y : Xfer := { x with buf := x.buf ++ s.core.ls.readBytes b k }
    let u := s.mapCore fun c => c.onXfer ch fun _ => y
    s.core.badIn b k = none → exec .copyChunk s = if y.gathers s.core then .next u else exec .copyChunk u := by
  intro b k y u hb
  obtain ⟨hread, hacc⟩ := Xfer.acc_of_gathers hg
  have hgather : s.gather ch x = u := by
    refine congrArg (fun c => { s with core := c }) (Core.onXfer_congr h.2.1 ?_)
    change (if (s.core.badIn b k).isSome then _ else _) = y
    rw [hb]
    rfl
  have hou : u.core.oldest ch = some y := Core.oldest_onXfer (f := fun _ => y) h.2.1 rfl
  have hu : u.runs ch y := ⟨h.1, hou, h.2.2⟩
  have hy : y.acc ≠ .land := by rw [show y.acc = .none from hacc]; decide
  have he : exec .copyChunk s = .next (u.movePiece ch y) := by
    rw [execCopyChunk_runs h (by rw [hacc]; decide)]
    simp only [hg, if_true, hgather, Core.running_of hou h.2.2]
  rw [he]
  by_cases hgy : y.gathers s.core = true
  · rw [if_pos hgy]
    have hready : u.pieceReady y = none := by
      have hr : y.reading = false := hread
      simp [State.pieceReady, hr, show y.gathers u.core = true from (y.gathers_congr _ _).trans hgy]
    rw [State.movePiece_none hready]
  · rw [if_neg hgy, execCopyChunk_moves hu hy ((y.gathers_congr _ _).trans (eq_false_of_ne_true hgy))]

/-- The request with the transformed bytes of its piece. -/
def Xfer.transformed (x : Xfer) (c : Core) (bs : List Byte) : Xfer :=
  { x with
    buf := x.carry ++ x.form.apply (if x.kind = 1 then x.va c else x.landing) bs
    ahead := x.buf.drop bs.length
    landed := 0 }

theorem Xfer.output_eq (x : Xfer) (c : Core) (bs : List Byte) :
    x.output bs = x.form.apply (if x.kind = 1 then x.va c else x.landing) bs := by
  unfold Xfer.output Xfer.va
  by_cases h : x.kind = 1 <;> simp [h]

/-- Where a piece goes once it is transformed: to its VA, to another package, or into the stores of its targets. -/
theorem State.copyPiece_eq (t : State) (ch : Chan) (x : Xfer) (c : Core) (bs : List Byte) : t.copyPiece ch x bs =
    let y := x.transformed c bs
    let at_ (acc : XAccess) : State := t.mapCore fun c => c.onXfer ch fun _ => { y with acc := acc }
    if x.kind == 1 then at_ .put
    else if x.kind == 2 && t.exists_ (remoteCid x.w1) && pkgOf (remoteCid x.w1) != t.pkg && y.landLen c != 0 then
      (at_ .put).sendChunk ch y (y.buf.take (y.landLen c)) (beatsOf 0 bs.length)
    else State.landStep ch 17 (at_ .land) := by
  have hl : ∀ d : Core, (x.transformed c bs).landLen d = (x.transformed c bs).landLen c := fun d => Xfer.landLen_congr _ d c
  have he : t.copyPiece ch x bs =
      let y := x.transformed c bs
      let at_ (acc : XAccess) : State := t.mapCore fun c => c.onXfer ch fun _ => { y with acc := acc }
      if x.kind == 1 then at_ .put
      else if x.kind == 2 && t.exists_ (remoteCid x.w1) && pkgOf (remoteCid x.w1) != t.pkg &&
          y.landLen (at_ .land).core != 0 then
        (at_ .put).sendChunk ch y (y.buf.take (y.landLen (at_ .put).core)) (beatsOf 0 bs.length)
      else State.landStep ch 17 (at_ .land) := by
    unfold State.copyPiece Xfer.transformed
    rw [x.output_eq c]
    rfl
  rw [he]
  simp only [hl]

theorem State.sendTokens_frame {s u t : State} {x : Xfer} {bs : List Byte} {n : Nat} (hu : s.crossBeats true n = some u)
    (ht : u.sendTokens x bs = some t) :
    t.core = s.core ∧ t.inp = s.inp ∧ t.pkg = s.pkg ∧ ∀ cid, t.exists_ cid = s.exists_ cid := by
  obtain ⟨hs, rfl⟩ := State.crossBeats_some hu
  obtain ⟨hs', rfl⟩ := State.sendTokens_some ht
  exact ⟨rfl, rfl, rfl, fun _ => rfl⟩

theorem execCopyChunk_puts {s u t : State} {ch : Chan} {x : Xfer} {bs : List Byte} (h : s.runs ch x) (ha : x.acc ≠ .land)
    (hg : x.gathers s.core = false) (hr : s.pieceReady x = some bs)
    (hu : s.crossBeats true (legBeats (s.legsOf x bs)) = some u) (ht : u.sendTokens x bs = some t) :
    let y := x.transformed s.core bs
    (x.kind = 1 → exec .copyChunk s = .next (t.mapCore fun c => c.onXfer ch fun _ => { y with acc := .put })) ∧
    (x.kind ≠ 1 → (x.kind = 2 → pkgOf (remoteCid x.w1) = s.pkg) →
      exec .copyChunk s = exec .copyChunk (t.mapCore fun c => c.onXfer ch fun _ => { y with acc := .land })) ∧
    (x.kind = 2 → s.exists_ (remoteCid x.w1) = true → pkgOf (remoteCid x.w1) ≠ s.pkg → y.landLen s.core ≠ 0 →
      exec .copyChunk s = .next ((t.mapCore fun c => c.onXfer ch fun _ => { y with acc := .put }).sendChunk ch y
        (y.buf.take (y.landLen s.core)) (beatsOf 0 bs.length))) := by
  intro y
  obtain ⟨hcore, hinp, hpkg, hex⟩ := State.sendTokens_frame hu ht
  have he := execCopyChunk_moves h ha hg
  rw [State.movePiece_some hr hu ht, State.copyPiece_eq _ ch x s.core bs] at he
  refine ⟨fun hk => ?_, fun hk hp => ?_, fun hk hexists hp hl => ?_⟩
  · simpa only [hk, beq_self_eq_true, if_true] using he
  · have hk1 : (x.kind == 1) = false := by simpa using hk
    have hout : ∀ b c : Bool, (x.kind == 2 && b && pkgOf (remoteCid x.w1) != t.pkg && c) = false := by
      intro b c
      by_cases h2 : x.kind = 2
      · simp [hp h2, hpkg]
      · simp [h2]
    have hto : t.core.oldest ch = some x := hcore ▸ h.2.1
    rw [he]
    simp only [hk1, hout, Bool.false_eq_true, if_false]
    generalize hT : (t.mapCore fun c => c.onXfer ch fun _ => { y with acc := .land }) = T
    have hTi : T.inp = .idx ch.val := by rw [← hT]; exact hinp.trans h.1
    have hTo : T.core.oldest ch = some { y with acc := .land } := by
      rw [← hT]; exact Core.oldest_onXfer (x := x) (f := fun _ => { y with acc := .land }) hto rfl
    rw [exec_copyChunk, execCopyChunk, withChan_of hTi, Core.running_of hTo h.2.2, ← hT]
    rfl
  · have hk1 : (x.kind == 1) = false := by simp [hk]
    have hgo : (x.kind == 2 && t.exists_ (remoteCid x.w1) && pkgOf (remoteCid x.w1) != t.pkg &&
        (x.transformed s.core bs).landLen s.core != 0) = true := by
      simp [hk, hex, hexists, hpkg, hp]
      exact hl
    rw [he]
    simp only [hk1, hgo, Bool.false_eq_true, if_false, if_true]
    rfl

/-- A piece for another package leaves as one operation, which waits for its answer. -/
theorem State.sendChunk_eq {t : State} {ch : Chan} {x y : Xfer} (h : t.core.oldest ch = some x) (hy : y.ch = x.ch)
    (bs : List Byte) (n : Nat) :
    let target := remoteCid y.w1
    let tval := remoteAddr target (y.landFrom % 2 ^ 21)
    (t.mapCore fun c => c.onXfer ch fun _ => { y with acc := .put }).sendChunk ch y bs n =
      ({ t with
        core := { (t.core.onXfer ch fun _ => { y with acc := .put }) with
          outst := t.core.outst ++ [⟨t.tags, .copy ch, .core target, .fabric, y.pc, tval⟩] }
        tags := t.tags + 1 } : State).send
          ⟨t.cid, target, y.ctx, t.tags, true, y.pc, tval, .copy y.landFrom bs ⟨n, y.carry.length, y.beatOut, false⟩⟩ := by
  intro target tval
  have hc : (t.core.onXfer ch fun _ => { y with acc := .put }).onXfer ch (fun z => { z with acc := .put }) =
      t.core.onXfer ch fun _ => { y with acc := .put } :=
    Core.onXfer_onXfer (f := fun _ => { y with acc := .put }) h hy
  unfold State.sendChunk
  simp only [State.mapCore, hc]
  rfl

/-! ## The injected link -/

theorem State.sendChunk_host (s : State) (ch : Chan) (x : Xfer) (bs : List Byte) (n : Nat) :
    (s.sendChunk ch x bs n).host = s.host := by
  obtain ⟨nt, bk, fb, h⟩ := State.send_eq _ _
  rw [State.sendChunk, h]
  rfl

theorem State.landLast_host (s : State) (x : Xfer) (bs : List Byte) : (s.landLast x bs).host = s.host := by
  unfold State.landLast
  generalize x.targets s.cid = l
  induction l generalizing s with
  | nil => rfl
  | cons cid l ih =>
    rw [List.foldl_cons, ih]
    split
    · rfl
    · rw [State.land, State.onCore, State.setCore]; split <;> rfl

theorem State.firePiece_inj (s : State) (ch : Chan) (x : Xfer) (bs : List Byte) :
    (s.firePiece ch x bs).host.inj = { s.host.inj with arm := false, fired := true, beats := 0 } := by
  unfold State.firePiece
  dsimp only
  split
  · rfl
  · split
    · rw [State.sendChunk_host]; rfl
    · rw [State.landLast_host]; rfl

/-! ## Completion -/

theorem filterMap_pruneJoins (before : List Chan) (l : List FifoItem) :
    (pruneJoins before l).filterMap FifoItem.xfer? = l.filterMap FifoItem.xfer? := by
  induction l generalizing before with
  | nil => rfl
  | cons it l ih =>
    cases it with
    | req x => simp [pruneJoins, ih, FifoItem.xfer?]
    | join m =>
      rw [pruneJoins]
      split <;> exact ih before

/-- Releasing multicasts changes what they hold, and the mailbox. -/
theorem CopyEngine.release_fifo (e : CopyEngine) (fuel : Nat) : (e.release fuel).fifo = e.fifo := by
  induction fuel generalizing e with
  | zero => rfl
  | succ fuel ih =>
    unfold CopyEngine.release
    split
    · split
      · exact ih _
      · rfl
    · rfl

theorem Core.completeNext_plain (c : Core) (ch : Chan) (x : Xfer) (hf : x.follow = none) :
    c.completeNext ch x = c.complete ch x := by
  have : c.followReads x = none := by simp [Core.followReads, Core.followOp, hf]
  simp only [Core.completeNext, this]

/-- Recording a failure changes the record, and what a transcript holds of it. -/
theorem Core.recordFailure_frame (c : Core) (f : Failure) : ∃ a p d fr tr,
    c.recordFailure f = { c with afault := a, afpc := p, afaddr := d, afFar := fr, trans := tr } := by
  have hn : ∃ a p d fr, c.noteFailure f = { c with afault := a, afpc := p, afaddr := d, afFar := fr } := by
    unfold Core.noteFailure
    split <;> exact ⟨_, _, _, _, rfl⟩
  obtain ⟨a, p, d, fr, h⟩ := hn
  unfold Core.recordFailure
  rw [h]
  dsimp only
  split <;> exact ⟨_, _, _, _, _, rfl⟩

/-- The first failure is held with its place and its address. -/
theorem Core.recordFailure_first {c : Core} {f : Failure} (h : c.afault.getLsbD 8 = false) :
    (c.recordFailure f).afault = afaultWord f ∧ (c.recordFailure f).afpc = f.pc ∧ (c.recordFailure f).afaddr = f.afaddr := by
  have hv : afValid c.afault = false := h
  unfold Core.recordFailure Core.noteFailure
  simp only [hv, Bool.false_eq_true, if_false]
  split <;> exact ⟨rfl, rfl, rfl⟩

theorem afaultWord_valid (f : Failure) : (afaultWord f).getLsbD 8 = true ∧
    ((afaultWord f).extractLsb' 0 8).toNat = f.cause % 256 := by
  have hm : ∃ m, f.cause % 256 + 256 + bit f.global * 2 ^ 10 + f.cls.code * 2 ^ 12 + f.reason % 16 * 2 ^ 16 +
      f.chan % 4 * 2 ^ 20 + f.doneb % 2 ^ 21 * 2 ^ 43 = f.cause % 256 + 256 * (1 + 4 * m) :=
    ⟨bit f.global + f.cls.code * 2 ^ 2 + f.reason % 16 * 2 ^ 6 + f.chan % 4 * 2 ^ 10 + f.doneb % 2 ^ 21 * 2 ^ 33, by omega⟩
  obtain ⟨m, hm⟩ := hm
  have hlt := Nat.mod_lt f.cause (by decide : 0 < 256)
  rw [afaultWord, hm]
  refine ⟨?_, ?_⟩
  · rw [BitVec.getLsbD_ofNat, Nat.testBit_eq_decide_div_mod_eq]
    simp; omega
  · simp only [BitVec.extractLsb'_toNat, BitVec.toNat_ofNat, Nat.shiftRight_zero]
    omega

/-- What completing a request without a follow-on leaves: its entry is gone, its count is down, the latch is set, and its
failure is recorded. -/
theorem Core.complete_spec (c : Core) (ch : Chan) (x : Xfer) (hf : x.follow = none) (hfol : x.fail ≠ none → x.fol = false) :
    let t := c.complete ch x
    t.cnt.cp = c.cnt.cp - 1 ∧ t.latch = true ∧
    t.copy.fifo.filterMap FifoItem.xfer? = (dropOldest ch c.copy.fifo).filterMap FifoItem.xfer? ∧
    t.regs = c.regs ∧ t.ls = c.ls ∧ (x.fail = none → t.afault = c.afault) ∧
    ∀ f, x.fail = some f → c.afault.getLsbD 8 = false → t.afpc = x.pc ∧ t.afaddr = f.afaddr ∧
      t.afault.getLsbD 8 = true ∧ (t.afault.extractLsb' 0 8).toNat = f.cause % 256 := by
  have hfifo : ∀ e : CopyEngine, ((e.noteRefused x).released).fifo = e.fifo :=
    fun e => CopyEngine.release_fifo (e.noteRefused x) _
  unfold Core.complete
  cases hx : x.fail with
  | none =>
    simp only [hf, hfifo, filterMap_pruneJoins, Core.setLatch]
    exact ⟨trivial, trivial, trivial, trivial, trivial, fun _ => trivial, fun f h => by cases h⟩
  | some f =>
    have hfol := hfol (by rw [hx]; exact Option.some_ne_none f)
    simp only [hfol, Bool.false_eq_true, if_false]
    generalize hg : (⟨.cp, f.cause, x.pc, f.afaddr, f.reason, ch.val, f.doneb, f.global, false⟩ : Failure) = g
    generalize hd : ({ Core.setLatch _ with copy := _ } : Core) = d
    have hcp : d.cnt.cp = c.cnt.cp - 1 := by rw [← hd]; rfl
    have hlatch : d.latch = true := by rw [← hd]; rfl
    have hcopy : d.copy.fifo.filterMap FifoItem.xfer? = (dropOldest ch c.copy.fifo).filterMap FifoItem.xfer? := by
      rw [← hd]; exact (congrArg _ (hfifo _)).trans (filterMap_pruneJoins [] _)
    have hregs : d.regs = c.regs ∧ d.ls = c.ls ∧ d.afault = c.afault := by rw [← hd]; exact ⟨rfl, rfl, rfl⟩
    obtain ⟨hregs, hls, haf⟩ := hregs
    obtain ⟨a, p, da, fr, tr, hrec⟩ := d.recordFailure_frame g
    refine ⟨by rw [hrec]; exact hcp, by rw [hrec]; exact hlatch, by rw [hrec]; exact hcopy, by rw [hrec]; exact hregs,
      by rw [hrec]; exact hls, fun h => (by cases h), fun f' hf' hv => ?_⟩
    obtain rfl : f = f' := Option.some.inj hf'
    obtain ⟨h1, h2, h3⟩ := Core.recordFailure_first (c := d) (f := g) (by rw [haf]; exact hv)
    obtain ⟨h4, h5⟩ := afaultWord_valid g
    rw [h1, h2, h3]
    exact ⟨by rw [← hg], by rw [← hg], h4, by rw [h5, ← hg]⟩

/-- Settles O41. -/
theorem copyStepsMoveTheirRequest : Obligations.CopyStepsMoveTheirRequest := by
  refine ⟨fun s ch hi hb => ?begins, fun s ch x hr => ⟨fun hk ha hx hb => ?index, fun w hk hx => ?va,
    fun hrd hx ha => ⟨fun r hf => ?fault, fun g bs t hd hc => ?reads⟩, fun g p t ha hrep hb hc => ?bad,
    fun g bs t ha hd hc => ?again, fun g bs t hk ha hw hinj hc => ?puts, fun hg hb => ?gathers,
    fun bs u t ha hg hp hu ht => ⟨fun hk => ?put, fun hk hq => ?land, fun hk he hq hl => ?leave⟩,
    fun bs hk hp hb => ?fires⟩, fun s ch x cid hr ha hn ht hc hap hl => ?lands,
    fun s ch x hi ho hp ha hc hf hr hfol => ?complete⟩
  case begins => rw [exec_copyBegin, execCopyBegin, withChan_of hi, if_pos hb]
  case index =>
    have hr2 : x.reading = true := by simp [Xfer.reading, hk]
    rw [execChunkAccess_runs hr]
    simp only [hr2, ha, hk, hx, beq_self_eq_true, Bool.and_self, Option.isNone_none, if_true]
    refine congrArg (fun c => Host.Outcome.next { s with core := c }) (Core.onXfer_congr hr.2.1 ?_)
    change (if (s.core.badIn (x.indexAddr x.row) 4).isSome then _ else _) = _
    have hb : s.core.badIn (x.indexAddr x.row) 4 = none := hb
    rw [hb]
    simp only [Option.isSome_none, Bool.false_eq_true, if_false, Xfer.indexWord, hx, Option.getD_none]
    rfl
  case va => simp [Xfer.va, hk, Xfer.indexWord, hx]
  case fault =>
    have hx : (x.kind == 3 && x.index.isNone) = false := by
      by_cases h : x.kind = 3
      · simp [Option.isNone_eq_false_iff.mpr (Option.isSome_iff_ne_none.mpr (hx h))]
      · simp [h]
    have hf : s.gmem.readChunk x.ctx (x.va s.core) s.hitR = .fault r := hf
    rw [execChunkAccess_runs hr]
    simp only [hrd, ha, hx, beq_self_eq_true, Bool.and_self, if_true, Bool.false_eq_true, if_false, State.readPiece, hf]
  case reads =>
    have hx : (x.kind == 3 && x.index.isNone) = false := by
      by_cases h : x.kind = 3
      · simp [Option.isNone_eq_false_iff.mpr (Option.isSome_iff_ne_none.mpr (hx h))]
      · simp [h]
    rw [execChunkAccess_runs hr]
    simp only [hrd, ha, hx, beq_self_eq_true, Bool.and_self, if_true, Bool.false_eq_true, if_false]
    rw [State.readPiece_done (again := false) (g' := g) hr.2.1 hd rfl hc]
  case bad =>
    have hb : s.gmem.readChunk x.ctx (x.va s.core) s.hitR = .bad g p := hb
    rw [execChunkRefetch_again hr ha]
    simp only [State.readPiece, hb, hrep, Option.isNone_none, if_true]
    exact congrArg Host.Outcome.next (congrArg (fun o : Option State => o.getD s) hc)
  case again =>
    rw [execChunkRefetch_again hr ha, State.readPiece_done (again := true) hr.2.1 hd rfl hc]
  case puts =>
    have hrd : x.reading = false := by simp [Xfer.reading, hk]
    have hw : s.gmem.writeChunk x.ctx (x.va s.core) x.buf s.hitR s.hitW = .done g bs := hw
    have hinj : s.injWatches (s.path s.cid x (x.va s.core)) = false := hinj
    have htotal : x.total = x.outTotal := by simp [Xfer.total, hk]
    rw [execChunkAccess_runs hr]
    simp only [hrd, ha, hk, beq_self_eq_true, Bool.and_self, Bool.false_and, if_true, Bool.false_eq_true, if_false,
      State.putPiece, State.writePiece, hw, hinj, State.crossBeats, Bool.not_false]
    have hcore : s.core.onXfer ch (fun y => y.advance y.buf.length []) = s.core.onXfer ch fun y => { y with
        pos := x.pos + x.buf.length, acc := .none, buf := x.ahead, ahead := [], landed := 0, carry := [], index := none
        fromReplica := false, carryFrom := if x.carry = [] ∨ x.buf ≠ [] then x.doneb else x.carryFrom
        phase := if x.outTotal ≤ x.pos + x.buf.length then .ended else x.phase } := by
      refine Core.onXfer_congr hr.2.1 ?_
      have hcarry : (x.carry = [] ∨ ([] : List Byte).length ≠ x.buf.length) = (x.carry = [] ∨ x.buf ≠ []) := by
        rw [List.length_nil, ne_comm, ne_eq, ne_eq, List.length_eq_zero_iff]
      simp only [Xfer.advance_eq, htotal, hcarry]
    have hfin : State.charge ((({ s with gmem := g } : State)).mapCore fun c => c.onXfer ch fun y => y.advance y.buf.length [])
        (s.portsOf s.cid x (x.va s.core)) x.ctx (g.costAt x.ctx (x.va s.core)) = some t := by
      rw [State.mapCore, hcore]; exact hc
    exact congrArg Host.Outcome.next (congrArg (fun o : Option State => o.getD s) hfin)
  case gathers => exact execCopyChunk_gathers hr hg hb
  case put => exact (execCopyChunk_puts hr ha hg hp hu ht).1 hk
  case land => exact (execCopyChunk_puts hr ha hg hp hu ht).2.1 hk hq
  case leave =>
    have hto : t.core.oldest ch = some x := (State.sendTokens_frame hu ht).1 ▸ hr.2.1
    rw [(execCopyChunk_puts hr ha hg hp hu ht).2.2 hk he hq hl]
    exact congrArg Host.Outcome.next (State.sendChunk_eq (y := x.transformed s.core bs) hto rfl _ _)
  case fires =>
    have hnone : s.crossBeats true (legBeats (s.legsOf x bs)) = none := by simp [State.crossBeats, hb]
    have hput : (x.kind == 1 && x.acc == .put) = false := by simpa using hk
    refine ⟨s.firePiece ch x bs, ?_, ?_⟩
    · rw [exec_lfinjFire, execLfinjFire, withChan_of hr.1, Core.running_of hr.2.1 hr.2.2]
      simp only [hput, hp, hnone, Bool.false_eq_true, if_false, Option.isNone_none, if_true]
    · rw [State.firePiece_inj]; exact ⟨rfl, rfl, rfl⟩
  case lands =>
    obtain ⟨t, he, hown, hothers, hold⟩ := execCopyChunk_lands hr ha hn ht hc hap hl
    have hoff := Nat.mod_lt x.landed hn
    obtain ⟨hk0, hk1, -⟩ := s.pieceCut_spec (x.landFrom + x.landed % x.landLen s.core)
      (Nat.sub_pos_of_lt hoff)
    refine ⟨hk0, by omega, t, he, hown, hothers, hold.trans (congrArg some ?_)⟩
    rw [Xfer.advance_eq]
  case complete =>
    have hwait : s.core.followWaits x = false := by simp [Core.followWaits, hf]
    have hreads : s.core.followReads x = none := by simp [Core.followReads, Core.followOp, hf]
    have he : exec .copyComplete s = .next (s.mapCore fun c => c.complete ch x) := by
      rw [exec_copyComplete, execCopyComplete, withChan_of hi, ho]
      simp [hp, ha, hc, hwait, hreads, Core.inError, s.core.completeNext_plain ch x hf, State.mapCore]
    exact ⟨_, he, s.core.complete_spec ch x hf hfol⟩

end Sys2Proof.Machine
end

section
/-! PROOF. Firmware's writes of the tables keep them legal and remove what they change (R312, R315, R318). -/

namespace Sys2Proof.Machine

/-! ## What the tables depend on -/

theorem Gmem.below_setTlb (g : Gmem) (l : List Tlb) (ctx lvl pa va : Nat) :
    ({ g with tlb := l } : Gmem).below ctx lvl pa va = g.below ctx lvl pa va := by
  induction lvl generalizing pa va with
  | zero => rfl
  | succ lvl ih => simp only [Gmem.below, ih]

theorem Gmem.mapped_setTlb (g : Gmem) (l : List Tlb) : ({ g with tlb := l } : Gmem).mapped = g.mapped := by
  simp only [Gmem.mapped, Gmem.below_setTlb]

/-- The legality of the tables does not depend on the cached translations. -/
theorem Gmem.mapOk_setTlb (g : Gmem) (l : List Tlb) : ({ g with tlb := l } : Gmem).mapOk = g.mapOk := by
  unfold Gmem.mapOk
  rw [Gmem.mapped_setTlb]
  rfl

/-! ## Shootdowns -/

theorem filter_keepsAll {α : Type} (l : List α) : (l.filter fun _ => true) = l := List.filter_eq_self.2 fun _ _ => rfl

/-- A list of shootdowns keeps the translations that none of them removes. -/
theorem Gmem.shootAll_eq (ms : List Mapping) (g : Gmem) :
    ms.foldl (fun g m => g.shoot m.ctx m.va (pageSize m.lvl)) g =
      { g with tlb := g.tlb.filter fun t => ms.all fun m =>
        !(t.ctx == m.ctx && overlap t.page (pageSize t.level) m.va (pageSize m.lvl)) } := by
  induction ms generalizing g with
  | nil => simp only [List.foldl_nil, List.all_nil, filter_keepsAll]
  | cons m ms ih =>
    rw [List.foldl_cons, ih]
    simp only [Gmem.shoot, List.filter_filter, List.all_cons, Bool.and_comm]

@[simp] theorem Gmem.setRoots_nil (g : Gmem) : g.setRoots [] = g := by
  simp [Gmem.setRoots, filter_keepsAll]

theorem Gmem.setEntries_frame (es : List (Nat × Word)) (g : Gmem) :
    (g.setEntries es).chunks = g.chunks ∧ (g.setEntries es).tlb = g.tlb := by
  unfold Gmem.setEntries
  induction es generalizing g with
  | nil => exact ⟨rfl, rfl⟩
  | cons e es ih => exact ih (g.setEntry e.1 e.2)

/-- What firmware writes is legal, and it is the tables written, without the translations of what they change. -/
theorem Gmem.firmwareSet_some (g g' : Gmem) (roots : List (Nat × Nat)) (es : List (Nat × Word))
    (h : g.firmwareSet roots es = some g') :
    g'.mapOk = true ∧ g.changed g' = g.changed ((g.setEntries es).setRoots roots) ∧
      g' = { (g.setEntries es).setRoots roots with
        tlb := ((g.setEntries es).setRoots roots).tlb.filter fun t => (g.changed g').all fun m =>
          !(t.ctx == m.ctx && overlap t.page (pageSize t.level) m.va (pageSize m.lvl)) } := by
  unfold Gmem.firmwareSet at h
  generalize (g.setEntries es).setRoots roots = w at h ⊢
  dsimp only at h
  split at h
  · next ok =>
    rw [Gmem.shootAll_eq] at h
    injection h with h
    have same : g.changed g' = g.changed w := by
      rw [← h]; simp only [Gmem.changed, Gmem.mapped_setTlb]
    refine ⟨?_, same, ?_⟩
    · rw [← h, Gmem.mapOk_setTlb]; exact ok
    · rw [same]; exact h.symm
  · cases h

/-! ## Legal tables -/

/-- Of two mappings that share a frame neither is writable. -/
theorem aliasOk_pair (ms : List Mapping) (h : aliasOk ms = true) (i j : Nat) (m n : Mapping) (hi : ms[i]? = some m)
    (hj : ms[j]? = some n) (hij : i < j) (meet : rangesMeet m.frames n.frames = true) :
    leafW m.entry = false ∧ leafW n.entry = false := by
  induction ms generalizing i j with
  | nil => simp at hi
  | cons x ms ih =>
    simp only [aliasOk, Bool.and_eq_true] at h
    obtain ⟨j, rfl⟩ : ∃ k, j = k + 1 := ⟨j - 1, by omega⟩
    cases i with
    | zero =>
      obtain rfl : x = m := by simpa using hi
      have hn := List.all_eq_true.1 h.1 n (List.mem_of_getElem? (by simpa using hj))
      simpa [meet] using hn
    | succ i => exact ih h.2 i j (by simpa using hi) (by simpa using hj) (by omega)

theorem Gmem.mapOk_parts (g : Gmem) (h : g.mapOk = true) : g.mapped.1.all g.tableOk = true ∧ aliasOk g.mapped.2 = true := by
  unfold Gmem.mapOk at h
  generalize g.mapped = p at h ⊢
  obtain ⟨ts, ms⟩ := p
  simp only [Bool.and_eq_true] at h
  obtain ⟨⟨⟨⟨⟨tables, -⟩, alias_⟩, -⟩, -⟩, -⟩ := h
  exact ⟨tables, alias_⟩

/-! ## The two rows -/

theorem execShootdown_none (s : State) (ctx va len : Nat) (es : List (Nat × Word)) (hi : s.inp = .shoot ctx va len es)
    (h : s.gmem.firmwareSet [] es = none) : exec .shootdown s = .next s := by
  rw [exec_shootdown, execShootdown, hi]
  dsimp only
  rw [h]

theorem execShootdown_some (s : State) (ctx va len : Nat) (es : List (Nat × Word)) (g : Gmem)
    (hi : s.inp = .shoot ctx va len es) (h : s.gmem.firmwareSet [] es = some g) :
    exec .shootdown s = if (s.gmem.changed g).all fun m => m.ctx == ctx && overlap m.va (pageSize m.lvl) va len then
      .next { s with gmem := g.shoot ctx va len } else .next s := by
  rw [exec_shootdown, execShootdown, hi]
  dsimp only
  rw [h]

theorem shootdown_keeps_mapOk (s t : State) (ok : s.gmem.mapOk = true) (h : exec .shootdown s = .next t) :
    t.gmem.mapOk = true := by
  rw [exec_shootdown, execShootdown] at h
  split at h
  · next ctx va len es hi =>
    split at h
    · cases h; exact ok
    · next g hg =>
      dsimp only at h
      split at h <;> cases h
      · exact (Gmem.mapOk_setTlb _ _).trans (Gmem.firmwareSet_some _ _ _ _ hg).1
      · exact ok
  · cases h; exact ok

theorem faultResolve_keeps_mapOk (s t : State) (ok : s.gmem.mapOk = true)
    (h : exec .firmwareFaultResolve s = .next t) : t.gmem.mapOk = true := by
  rw [exec_firmwareFaultResolve, execFirmwareFaultResolve] at h
  split at h
  · next roots es r hi =>
    split at h
    · cases h; exact ok
    · next g hg =>
      have legal := (Gmem.firmwareSet_some _ _ _ _ hg).1
      dsimp only at h
      split at h
      · cases h; exact legal
      · split at h
        · split at h <;> cases h
          · exact legal
          · rw [(State.onCore_eq _ _ _).choose_spec]
            exact legal
        · cases h; exact legal
  · cases h; exact ok

/-- Settles O42: what firmware writes passed `mapOk`, which does not depend on the cached translations; a list of
shootdowns filters these one after another. -/
theorem firmwareKeepsTheTables : Obligations.FirmwareKeepsTheTables := by
  unfold Obligations.FirmwareKeepsTheTables
  refine ⟨fun s ctx va len es hi => ⟨execShootdown_none s ctx va len es hi, fun g hg inside => ?_⟩, ?_, ?_⟩
  · obtain ⟨-, -, eq⟩ := Gmem.firmwareSet_some _ _ _ _ hg
    rw [Gmem.setRoots_nil] at eq
    have all_in : ((s.gmem.changed g).all fun m => m.ctx == ctx && overlap m.va (pageSize m.lvl) va len) = true := by
      refine List.all_eq_true.2 fun m hm => ?_
      simpa [overlap] using inside m hm
    rw [execShootdown_some s ctx va len es g hi hg, if_pos all_in]
    obtain ⟨chunks, tlb⟩ := Gmem.setEntries_frame es s.gmem
    generalize s.gmem.changed g = ms at eq
    refine ⟨_, rfl, ?_, ?_, fun x => ?_⟩
    · rw [eq]; rfl
    · rw [eq]; exact chunks
    · rw [eq]
      simp only [Gmem.shoot, List.mem_filter, tlb, overlap, List.all_eq_true]
      simp only [Bool.not_eq_true', Bool.and_eq_false_iff, beq_eq_false_iff_ne, decide_eq_false_iff_not, ne_eq,
        Decidable.not_and_iff_not_or_not, and_assoc]
      exact and_congr_right fun _ => and_comm
  · intro s t i hi ok h
    simp only [List.mem_cons, List.not_mem_nil, or_false] at hi
    obtain rfl | rfl := hi
    · exact shootdown_keeps_mapOk s t ok h
    · exact faultResolve_keeps_mapOk s t ok h
  · intro g ok
    obtain ⟨tables, alias_⟩ := g.mapOk_parts ok
    refine ⟨fun x hx => ?_, fun i j m n hi hj hij lo hi' => ?_⟩
    · simpa [Gmem.tableOk] using List.all_eq_true.1 tables x hx
    · exact aliasOk_pair _ alias_ i j m n hi hj hij (by simp [rangesMeet, lo, hi'])

end Sys2Proof.Machine
end

section
/-! PROOF. The end of an epoch that a push elsewhere has overtaken (R275, R277). -/

namespace Sys2Proof.Machine

theorem State.armHere_armed (s : State) : s.armHere.wl.armed = true := rfl

/-- A termination that a push elsewhere has overtaken arms the next epoch at once. -/
theorem State.terminate_ahead (s : State) (h : s.wl.ahead = true) : s.terminate.wl.armed = true := by
  obtain ⟨c, os, sv, e, -⟩ := s.onOwners_eq (fun c => ({ c with wl := { c.wl with term := true } }).pend 4)
    (fun _ => True) trivial (fun _ _ => trivial)
  rw [State.terminate, e]
  simp only [h, if_true, State.armHere_armed]

theorem execWlTermination_own (s : State) (hi : s.inp = .none) (hs : s.wl.sharing = []) :
    exec .wlTermination s = if s.wl.enabled && s.wl.armed && s.wl.quiescent then .next s.terminate else .next s := by
  rw [exec_wlTermination, execWlTermination, hi]
  simp only [hs, List.isEmpty_nil, if_true]

/-- An armed worklist of a package on its own, with the word that another package has armed the next epoch. -/
def aheadWorklist : State :=
  { State.reset with wl := { Worklist.reset with enabled := true, armed := true, ahead := true } }

theorem aheadWorklist_quiescent : aheadWorklist.wl.quiescent = true := by decide

/-- Refutes O45: a quiet worklist that no other package shares, but that holds the word of a push elsewhere for the next
epoch, is armed again by its termination. -/
theorem not_worklistStepsEndAndShareWork : ¬ Obligations.WorklistStepsEndAndShareWork := by
  rintro ⟨-, -, -, -, -, -, -, -, hterm, -⟩
  obtain ⟨t, ht, harmed, -⟩ := hterm aheadWorklist rfl rfl rfl rfl aheadWorklist_quiescent
  rw [execWlTermination_own _ rfl rfl, aheadWorklist_quiescent] at ht
  have eq : aheadWorklist.terminate = t := Host.Outcome.next.inj ht
  rw [← eq, State.terminate_ahead _ rfl] at harmed
  exact absurd harmed (by decide)

end Sys2Proof.Machine
end

section
/-! PROOF. The worklist's counts, floors and slices, and the dispatch and the moves of its tasks (R264 to R271). -/

namespace Sys2Proof.Machine

/-! ## The hub's writes -/

theorem State.flushWrites_eq (s : State) : ∃ g, s.flushWrites = { s with gmem := g } := by
  unfold State.flushWrites; split <;> exact ⟨_, rfl⟩

theorem State.pokeRecord_eq (s : State) (ctx va : Nat) (bs : List Byte) :
    ∃ g, s.pokeRecord ctx va bs = { s with gmem := g } := State.flushWrites_eq _

/-- Spilled tasks are written to global memory only. -/
theorem State.setWl_eq (s : State) (w : Worklist) : ∃ g, s.setWl w = { s with wl := w, gmem := g } := by
  have go (new : List Task) (u : State) : ∃ g, new.foldl
      (fun s t => s.pokeRecord w.owner (w.spillBase.toNat + 48 * t.slot) t.record) u = { u with gmem := g } := by
    induction new generalizing u with
    | nil => exact ⟨u.gmem, rfl⟩
    | cons t new ih =>
      obtain ⟨g, h⟩ := u.pokeRecord_eq w.owner (w.spillBase.toNat + 48 * t.slot) t.record
      obtain ⟨g', h'⟩ := ih { u with gmem := g }
      exact ⟨g', by rw [List.foldl_cons, h, h']⟩
  obtain ⟨g, h⟩ := go (w.spill.filter fun t => !(s.wl.spill.any fun u => u.seq == t.seq)) { s with wl := w }
  exact ⟨g, h⟩

/-! ## Counts -/

theorem countOf_setCount (cs : List (Nat × Nat)) (b n j : Nat) :
    countOf (setCount cs b n) j = if j = b then n else countOf cs j := by
  have hrest : (cs.filter fun x => x.1 != b).find? (fun x => x.1 == j) =
      if j = b then none else cs.find? fun x => x.1 == j := by
    induction cs with
    | nil => simp
    | cons x cs ih =>
      by_cases hx : x.1 = b
      · by_cases hj : j = b
        · simp [hx, hj]
        · simpa [hx, Ne.symm hj] using ih
      · by_cases hxj : x.1 = j
        · simp [hx, hxj, show j ≠ b from fun e => hx (hxj.trans e)]
        · simpa [hx, hxj] using ih
  unfold countOf setCount
  by_cases hn : n = 0
  · rw [if_pos (beq_iff_eq.2 hn), hrest]
    split
    · exact hn.symm
    · rfl
  · rw [if_neg (by simpa using hn), List.find?_append, hrest]
    by_cases hj : j = b
    · rw [if_pos hj, if_pos hj]
      simp [hj]
    · rw [if_neg hj, if_neg hj]
      simp [Ne.symm hj]

/-- A change of a count, with the floors that it sends and the stall count that it restarts. -/
theorem Worklist.recount_eq (w : Worklist) (now b n : Nat) : ∃ ms acc, w.recount now b n =
    { w with counts := setCount w.counts b n, floorMsgs := ms, stallAcc := acc } := by
  have hf : ∃ ms, ({ w with counts := setCount w.counts b n } : Worklist).announceFloor now w.floor =
      { w with counts := setCount w.counts b n, floorMsgs := ms } := by
    unfold Worklist.announceFloor; split <;> exact ⟨_, rfl⟩
  obtain ⟨ms, hf⟩ := hf
  unfold Worklist.recount
  simp only [hf]
  split <;> exact ⟨ms, _, rfl⟩

theorem Task.counted_pending (t : Task) (seq : Nat) (h : (t.counted seq).seq = seq) : (t.counted seq).pending = false := by
  unfold Task.counted at h ⊢
  split
  · rfl
  · next hn => rw [if_neg hn] at h; simp [h] at hn

theorem Worklist.markCounted_pending (w : Worklist) (seq : Nat) (y : Task)
    (hy : y ∈ (w.markCounted seq).slices.toList.flatMap (·.tasks) ++ (w.markCounted seq).spill) (h : y.seq = seq) :
    y.pending = false := by
  have hc : ∃ t : Task, t.counted seq = y := by
    simp only [Worklist.markCounted, Vector.toList_map, List.mem_append, List.mem_flatMap, List.mem_map] at hy
    obtain ⟨-, ⟨sl, -, rfl⟩, hy⟩ | ⟨t, -, ht⟩ := hy
    · obtain ⟨t, -, ht⟩ := List.mem_map.1 hy
      exact ⟨t, ht⟩
    · exact ⟨t, ht⟩
  obtain ⟨t, rfl⟩ := hc
  exact t.counted_pending seq h

theorem execWlCountIncrement_next (s : State) (k : Nat) (x : WlInc) (hi : s.inp = .idx k) (hx : s.wl.incs[k]? = some x) :
    ∃ t, exec .wlCountIncrement s = .next t ∧
      (∀ b, countOf t.wl.counts b = countOf s.wl.counts b + (if b = x.bucket then 1 else 0)) ∧
      t.wl.incs = s.wl.incs.eraseIdx k ∧ ⟨x.cluster, t.wl.floor, some x.seq, s.now⟩ ∈ t.wl.floorMsgs ∧
      ∀ y ∈ t.wl.slices.toList.flatMap (·.tasks) ++ t.wl.spill, y.seq = x.seq → y.pending = false := by
  rw [exec_wlCountIncrement, execWlCountIncrement, hi]
  simp only [hx]
  obtain ⟨ms, acc, e⟩ := Worklist.recount_eq { s.wl with incs := s.wl.incs.eraseIdx k } s.now x.bucket
    (countOf s.wl.counts x.bucket + 1)
  rw [e]
  generalize hw : ({ s.wl with
    incs := s.wl.incs.eraseIdx k
    counts := setCount s.wl.counts x.bucket (countOf s.wl.counts x.bucket + 1)
    floorMsgs := ms
    stallAcc := acc } : Worklist) = w
  have hcounts : w.counts = setCount s.wl.counts x.bucket (countOf s.wl.counts x.bucket + 1) := by rw [← hw]
  have hincs : w.incs = s.wl.incs.eraseIdx k := by rw [← hw]
  refine ⟨_, rfl, fun b => ?_, hincs, ?_, w.markCounted_pending x.seq⟩
  · change countOf w.counts b = _
    rw [hcounts, countOf_setCount]
    split
    · next hb => rw [hb]
    · rfl
  · exact List.mem_append_right _ (List.mem_singleton.2 rfl)

theorem execWlCountDecrement_next (s : State) (k : Nat) (d : WlDec) (hi : s.inp = .idx k) (hd : s.wl.decs[k]? = some d)
    (hafter : ∀ x ∈ s.wl.incs, x.cluster = d.cluster → d.after ≤ x.seq) :
    ∃ t, exec .wlCountDecrement s = .next t ∧ t.wl.decs = s.wl.decs.eraseIdx k ∧
      ∀ j, countOf t.wl.counts j = countOf s.wl.counts j - (if j = d.bucket then 1 else 0) := by
  have hdue : s.wl.decDue d = true := by
    refine List.all_eq_true.2 fun x hx => ?_
    simpa [Decidable.imp_iff_not_or] using hafter x hx
  rw [exec_wlCountDecrement, execWlCountDecrement, hi]
  simp only [hd, hdue, Bool.not_true, Bool.false_eq_true, if_false]
  obtain ⟨ms, acc, e⟩ := Worklist.recount_eq { s.wl with decs := s.wl.decs.eraseIdx k } s.now d.bucket
    (countOf s.wl.counts d.bucket - 1)
  rw [e]
  refine ⟨_, rfl, rfl, fun j => ?_⟩
  rw [countOf_setCount]
  split
  · next hj => rw [hj]
  · rfl

/-! ## Slices -/

theorem Worklist.slice_setSlice_ne (w : Worklist) {j k : Nat} (x : WlSlice) (h : j ≠ k) : (w.setSlice k x).slice j = w.slice j := by
  unfold Worklist.setSlice Worklist.slice
  split
  · next hk =>
    simp only [List.getD_eq_getElem?_getD, Vector.toList_set, List.getElem?_set_ne (Ne.symm h)]
  · rfl

/-- A slice that is given tasks holds them behind its own. -/
theorem Worklist.slice_give (w : Worklist) {k : Nat} (ts : List Task) (h : k < 96) :
    (w.give k ts).slice k = { w.slice k with tasks := (w.slice k).tasks ++ ts } := w.slice_setSlice _ h

theorem Worklist.give_eq (w : Worklist) (k : Nat) (ts : List Task) : ∃ sl, w.give k ts = { w with slices := sl } :=
  w.setSlice_eq _ _

theorem Worklist.slice_give_ne (w : Worklist) {j k : Nat} (ts : List Task) (h : j ≠ k) :
    (w.give k ts).slice j = w.slice j := w.slice_setSlice_ne _ h

theorem execWlFloorReceive_next (s : State) (cluster : Nat) (m : FloorMsg) (hi : s.inp = .idx cluster) (hc : cluster < 96)
    (hm : s.wl.floorMsgs.find? (fun m => m.cluster == cluster) = some m) :
    ∃ t, exec .wlFloorReceive s = .next t ∧ t.wl.slice cluster = { s.wl.slice cluster with floor := m.floor } ∧
      t.wl.floorMsgs = s.wl.floorMsgs.erase m := by
  rw [exec_wlFloorReceive, execWlFloorReceive, hi]
  simp only [hm]
  refine ⟨_, rfl, Worklist.slice_setSlice _ _ hc, ?_⟩
  obtain ⟨sl, e⟩ := Worklist.setSlice_eq { s.wl with floorMsgs := s.wl.floorMsgs.erase m } cluster
    { s.wl.slice cluster with floor := m.floor }
  exact congrArg Worklist.floorMsgs e

/-! ## Dispatch -/

/-- A task starts in its handler with its words, its priority and its bucket. -/
theorem Core.startTask_entered (c : Core) (w : Worklist) (x : Task) (hok : c.handlerOk x.handler = true)
    (hm : c.trans.mode = 0) :
    (c.startTask w x).Entered c x.handler (x.words ++ [x.prio.setWidth 64, BitVec.ofNat 64 (w.bucket x), 0, 0]) x.pcid c.pc ∧
      (c.startTask w x).wl.running = some x := by
  have hr : c.replaying = false := by simp [Core.replaying, hm]
  obtain ⟨t, e⟩ := c.noteDispatch_eq 2 x.digest
  have hs : (c.noteDispatch 2 x.digest).status = c.status := by rw [e]
  have hg : (c.noteDispatch 2 x.digest).regs = c.regs := by rw [e]
  have hl : (c.noteDispatch 2 x.digest).ls = c.ls := by rw [e]
  have ht : (c.noteDispatch 2 x.digest).trap = c.trap := by rw [e]
  have hpc : (c.noteDispatch 2 x.digest).pc = c.pc := by rw [e]
  have hok' : (c.noteDispatch 2 x.digest).handlerOk x.handler = true := by rw [e]; exact hok
  unfold Core.startTask
  simp only [hr, Bool.false_and, Bool.false_eq_true, if_false]
  clear e
  generalize c.noteDispatch 2 x.digest = d at hs hg hl ht hpc hok' ⊢
  have hE := (Core.enterHandler_entered d x.handler (w.taskArgs x) x.pcid c.pc).of_fields hs hg hl ht
  rw [if_pos hok', hpc]
  generalize d.enterHandler x.handler (w.taskArgs x) x.pcid c.pc = u at hE ⊢
  exact ⟨hE, rfl⟩

theorem execWlDispatch_next (s : State) (cluster cid : Nat) (x : Task) (hi : s.inp = .idx cluster) (hc : cluster < 96)
    (hn : s.nextServed cluster = some (cid, s.coreAt cid, x)) (hok : (s.coreAt cid).handlerOk x.handler = true)
    (hm : (s.coreAt cid).trans.mode = 0) (he : (s.coreAt cid).inError handlerReads = false) :
    ∃ t, exec .wlDispatch s = .next t ∧
      (t.coreAt cid).Entered (s.coreAt cid) x.handler
        (x.words ++ [x.prio.setWidth 64, BitVec.ofNat 64 (s.wl.bucket x), 0, 0]) x.pcid (s.coreAt cid).pc ∧
      (t.coreAt cid).wl.running = some x ∧
      (t.wl.slice cluster).tasks = (s.wl.slice cluster).tasks.filter fun y => y.seq != x.seq := by
  rw [exec_wlDispatch, execWlDispatch]
  split
  case h_2 h => exact absurd hi (h cluster)
  next cl h =>
  obtain rfl : cluster = cl := by rw [hi] at h; injection h
  simp only [hn, hok, he, Bool.not_true, Bool.false_and, Bool.and_false, Bool.false_eq_true, if_false, if_true]
  generalize hw : s.wl.setSlice cluster { s.wl.slice cluster with
    tasks := (s.wl.slice cluster).tasks.filter fun y => y.seq != x.seq } = w
  have hslice : w.slice cluster = { s.wl.slice cluster with
    tasks := (s.wl.slice cluster).tasks.filter fun y => y.seq != x.seq } := by rw [← hw, s.wl.slice_setSlice _ hc]
  have hb : w.bucket x = s.wl.bucket x := by
    obtain ⟨sl, e⟩ := s.wl.setSlice_eq cluster { s.wl.slice cluster with
      tasks := (s.wl.slice cluster).tasks.filter fun y => y.seq != x.seq }
    rw [← hw, e]; rfl
  have hs := (s.coreAt cid).startTask_entered w x hok hm
  rw [hb] at hs
  have hcore : (({ s with wl := w } : State).onCore cid fun c => c.startTask w x).coreAt cid = (s.coreAt cid).startTask w x := by
    rw [State.coreAt_onCore, if_pos rfl]; rfl
  refine ⟨_, rfl, by rw [hcore]; exact hs.1, by rw [hcore]; exact hs.2, ?_⟩
  obtain ⟨os, e⟩ := State.onCore_eq { s with wl := w } cid fun c => c.startTask w x
  rw [e]
  change (w.slice cluster).tasks = _
  rw [hslice]

/-! ## Spilling, refill and moves -/

theorem execWlSliceSpill_next (s : State) (cluster : Nat) (x : Task) (hi : s.inp = .idx cluster) (hc : cluster < 96)
    (hlen : 448 < (s.wl.slice cluster).tasks.length) (hroom : s.wl.spillRoom = true)
    (hv : s.wl.spillVictim ((s.wl.slice cluster).tasks.filter fun y =>
      (s.wl.seen cluster).isSome && !s.wl.within (s.wl.seen cluster) y) = some x) :
    ∃ t, exec .wlSliceSpill s = .next t ∧ t.wl.spill = s.wl.spill ++ [{ x with slot := s.wl.freeSlot }] ∧
      (t.wl.slice cluster).tasks = (s.wl.slice cluster).tasks.filter fun y => y.seq != x.seq := by
  have hlen' : ¬ (s.wl.slice cluster).tasks.length ≤ 448 := by omega
  rw [exec_wlSliceSpill, execWlSliceSpill, hi]
  simp only [hv, hroom, hlen', Bool.not_true, decide_false, Bool.or_false, Bool.false_eq_true, if_false]
  obtain ⟨g, e⟩ := s.setWl_eq ((s.wl.setSlice cluster { s.wl.slice cluster with
    tasks := (s.wl.slice cluster).tasks.filter fun y => y.seq != x.seq }).spillTask x)
  refine ⟨_, rfl, ?_, ?_⟩
  · rw [e]
    obtain ⟨sl, e'⟩ := s.wl.setSlice_eq cluster { s.wl.slice cluster with
      tasks := (s.wl.slice cluster).tasks.filter fun y => y.seq != x.seq }
    rw [e']; rfl
  · rw [e]
    exact congrArg WlSlice.tasks (s.wl.slice_setSlice _ hc)

/-- The slice that the rotation serves next takes a refill. -/
theorem State.nextRefill_some (s : State) (cluster : Nat) (h : s.nextRefill = some cluster) :
    cluster < 96 ∧ s.takesPart cluster = true ∧ (s.wl.slice cluster).tasks.length < 64 := by
  obtain ⟨k, -, hk⟩ := List.exists_of_findSome?_eq_some h
  simp only [Option.ite_none_right_eq_some, Option.some.injEq] at hk
  obtain ⟨hr, rfl⟩ := hk
  simp only [State.refills, Bool.and_eq_true, decide_eq_true_eq] at hr
  exact ⟨Nat.mod_lt _ (by decide), hr.1, hr.2⟩

theorem execWlRefill_next (s : State) (cluster : Nat) (hi : s.inp = .idx cluster) (hc : cluster < 96)
    (hn : s.nextRefill = some cluster) (ht : s.wl.lowest 64 (s.wl.eligible s.wl.spill) ≠ []) :
    ∃ t, exec .wlRefill s = .next t ∧
      t.wl.spill = without s.wl.spill (s.wl.lowest 64 (s.wl.eligible s.wl.spill)) ∧
      t.wl.refillTurn = (cluster + 1) % 96 ∧
      (t.wl.slice cluster).tasks = (s.wl.slice cluster).tasks ++ s.wl.lowest 64 (s.wl.eligible s.wl.spill) := by
  rw [exec_wlRefill, execWlRefill, hi]
  dsimp only
  generalize s.wl.lowest 64 (s.wl.eligible s.wl.spill) = ts at ht ⊢
  simp only [hn, List.isEmpty_eq_false_iff.2 ht, bne_self_eq_false, Bool.or_false, Bool.false_eq_true, if_false]
  generalize hw : ({ s.wl with spill := without s.wl.spill ts, refillTurn := (cluster + 1) % 96 } : Worklist) = w
  have hspill : w.spill = without s.wl.spill ts := by rw [← hw]
  have hturn : w.refillTurn = (cluster + 1) % 96 := by rw [← hw]
  have hslice : w.slice cluster = s.wl.slice cluster := by rw [← hw]; rfl
  obtain ⟨sl, e⟩ := w.give_eq cluster ts
  refine ⟨_, rfl, (congrArg Worklist.spill e).trans hspill,
    (congrArg Worklist.refillTurn e).trans hturn, ?_⟩
  exact (congrArg WlSlice.tasks (w.slice_give ts hc)).trans (by rw [hslice])

theorem Worklist.lowest_length_le (w : Worklist) (n : Nat) (ts : List Task) : (w.lowest n ts).length ≤ n := by
  induction n generalizing ts with
  | zero => exact Nat.le_refl 0
  | succ n ih =>
    unfold Worklist.lowest
    split
    · exact Nat.zero_le _
    · exact Nat.succ_le_succ (ih _)

/-- The fullest slice but one is a cluster's. -/
theorem State.fullest_lt (s : State) (but : Nat) (h : but < 96) : s.fullest but < 96 := by
  have go (l : List Nat) (hl : ∀ k ∈ l, k < 96) (b : Nat) (hb : b < 96) : l.foldl (fun b k =>
      if k != but && s.takesPart k && (b == but || (s.wl.movable b).length < (s.wl.movable k).length) then k else b) b
      < 96 := by
    induction l generalizing b with
    | nil => exact hb
    | cons k l ih =>
      rw [List.foldl_cons]
      refine ih (fun j hj => hl j (List.mem_cons_of_mem _ hj)) _ ?_
      split
      · exact hl k List.mem_cons_self
      · exact hb
  exact go _ (fun k hk => List.mem_range.1 hk) but h

theorem execWlMove_next (s : State) (cluster : Nat) (hi : s.inp = .idx cluster) (hc : cluster < 96)
    (hp : s.takesPart cluster = true) (hserve : s.servingIn cluster ≠ []) (hoffer : s.wl.offer cluster = none)
    (hspill : s.wl.offerable s.wl.spill = []) (hne : s.fullest cluster ≠ cluster)
    (hlen : (s.wl.slice cluster).tasks.length ≤ 512) :
    let k := s.fullest cluster
    let ts := s.wl.lowest (min 16 (512 - (s.wl.slice cluster).tasks.length)) (s.wl.movable k)
    ∃ t, exec .wlMove s = .next t ∧ (t.wl.slice cluster).tasks = (s.wl.slice cluster).tasks ++ ts ∧
      (t.wl.slice cluster).tasks.length ≤ 512 ∧
      (t.wl.slice k).tasks = without (s.wl.slice k).tasks ts := by
  intro k ts
  have hk : k < 96 := s.fullest_lt cluster hc
  have hts : ts.length ≤ min 16 (512 - (s.wl.slice cluster).tasks.length) := s.wl.lowest_length_le _ _
  rw [exec_wlMove, execWlMove, hi]
  simp only [hp, List.isEmpty_eq_false_iff.2 hserve, hoffer, hspill, beq_eq_false_iff_ne.2 hne, Option.isSome_none,
    List.isEmpty_nil, Bool.not_true, Bool.or_false, Bool.false_eq_true, if_false]
  have hto : (((s.wl.setSlice k { s.wl.slice k with tasks := without (s.wl.slice k).tasks ts }).give cluster ts).slice
      cluster).tasks = (s.wl.slice cluster).tasks ++ ts := by
    rw [Worklist.slice_give _ _ hc, Worklist.slice_setSlice_ne _ _ (Ne.symm hne)]
  refine ⟨_, rfl, hto, ?_, ?_⟩
  · refine Nat.le_trans (Nat.le_of_eq (congrArg List.length hto)) ?_
    rw [List.length_append]; omega
  · refine (congrArg WlSlice.tasks (Worklist.slice_give_ne _ ts hne)).trans ?_
    exact congrArg WlSlice.tasks (s.wl.slice_setSlice _ hk)

/-- Settles O44, step by step: a count is set for its bucket alone, and a slice is changed for its cluster alone. -/
theorem worklistStepsCountAndMoveTasks : Obligations.WorklistStepsCountAndMoveTasks := by
  unfold Obligations.WorklistStepsCountAndMoveTasks
  refine ⟨execWlCountIncrement_next, execWlCountDecrement_next, execWlFloorReceive_next, execWlDispatch_next,
    execWlSliceSpill_next, fun s cluster hi hn => ?_, execWlMove_next⟩
  obtain ⟨hc, hp, hlen⟩ := s.nextRefill_some cluster hn
  exact ⟨hc, hp, hlen, execWlRefill_next s cluster hi hc hn⟩

end Sys2Proof.Machine
end

section
/-! PROOF. The Sound groups: stamping, applying, answering, completing, and the group table (R284 to R291). -/

namespace Sys2Proof.Machine

/-! ## The group table -/

theorem State.group_onGroup (s : State) (gidx : Nat) (f : Group → Group) (g : Group) (h : s.group gidx = some g) :
    (s.onGroup gidx f).group gidx = some (f g) := by
  unfold State.group at h ⊢
  unfold State.onGroup
  dsimp only
  generalize s.sound.groups = l at h ⊢
  induction l with
  | nil => cases h
  | cons x l ih =>
    obtain ⟨k, y⟩ := x
    by_cases hk : k = gidx
    · simp [hk] at h ⊢; rw [h]
    · simp [hk] at h ⊢; simpa using ih (by simpa using h)

/-- The home's note of an answer changes its sums and its group. -/
theorem State.tellHome_eq (s : State) (r : SoundAns) : ∃ so fb, s.tellHome r = { s with sound := so, fabric := fb } ∧
    so.copies = s.sound.copies ∧ (handlePkg r.handle = s.pkg → so.sums = s.sound.sums.map fun x => x.answer r) := by
  unfold State.tellHome
  split
  · exact ⟨_, _, rfl, rfl, fun _ => rfl⟩
  · next h =>
    obtain ⟨fb, e⟩ := s.transmitOrPark_eq (handlePkg r.handle) true (.soundAnswer r)
    exact ⟨s.sound, fb, e, rfl, fun h' => absurd (beq_iff_eq.2 h') h⟩

/-! ## The stamp -/

theorem State.sendCopy_near (s : State) (dest : Nat) (st : Stamped) (h : pkgOf dest = s.pkg) :
    s.sendCopy dest st = { s with sound := { s.sound with copies := s.sound.copies ++ [⟨dest, st, false⟩] } } :=
  if_pos (beq_iff_eq.2 h)

/-- A change is sent without an answer from here. -/
theorem State.sendCopy_change (s : State) (dest : Nat) (st : Stamped) (h : st.change.isSome = true) :
    ∃ cs fb, s.sendCopy dest st = { s with sound := { s.sound with copies := cs }, fabric := fb } := by
  unfold State.sendCopy
  dsimp only
  split
  · exact ⟨_, s.fabric, rfl⟩
  · obtain ⟨fb, e⟩ := s.transmitOrPark_eq (pkgOf dest) true (.soundCopy ⟨dest, st, false⟩)
    exact ⟨s.sound.copies, fb, e⟩

/-- A store for members of this package becomes one copy for each. -/
theorem State.sendCopies_near (ms : List GroupMember) (st : GroupMember → Stamped) (s : State)
    (h : ∀ m ∈ ms, pkgOf m.cid = s.pkg) : ms.foldl (fun s m => s.sendCopy m.cid (st m)) s =
      { s with sound := { s.sound with copies := s.sound.copies ++ ms.map fun m => ⟨m.cid, st m, false⟩ } } := by
  induction ms generalizing s with
  | nil => simp
  | cons m ms ih =>
    rw [List.foldl_cons, s.sendCopy_near _ _ (h m List.mem_cons_self)]
    refine (ih { s with sound := { s.sound with copies := s.sound.copies ++ [⟨m.cid, st m, false⟩] } }
      fun x hx => h x (List.mem_cons_of_mem _ hx)).trans ?_
    simp

theorem State.sendChanges_eq {α : Type} (ms : List α) (dest : α → Nat) (st : α → Stamped)
    (h : ∀ m, (st m).change.isSome = true) (s : State) :
    ∃ cs fb, ms.foldl (fun s m => s.sendCopy (dest m) (st m)) s =
      { s with sound := { s.sound with copies := cs }, fabric := fb } := by
  induction ms generalizing s with
  | nil => exact ⟨s.sound.copies, s.fabric, rfl⟩
  | cons m ms ih =>
    obtain ⟨cs, fb, e⟩ := s.sendCopy_change (dest m) (st m) (h m)
    obtain ⟨cs', fb', e'⟩ := ih { s with sound := { s.sound with copies := cs }, fabric := fb }
    exact ⟨cs', fb', by rw [List.foldl_cons, e, e']⟩

theorem State.reclass_eq (s : State) (issuer ctx tag : Nat) (far : Bool) :
    ∃ c os, s.reclass issuer ctx tag far = { s with core := c, others := os } := by
  unfold State.reclass
  split
  · exact ⟨s.core, s.others, rfl⟩
  · split
    · exact ⟨s.core, s.others, rfl⟩
    · obtain ⟨os, e⟩ := s.onCore_eq issuer fun c => c.reclass tag far
      exact ⟨_, os, e⟩

theorem execSoundStamp_refused (s : State) (k : Nat) (r : SoundReq) (hi : s.inp = .idx k)
    (hr : s.sound.toHome[k]? = some r) (ho : inIssueOrder s.sound.toHome k r = true) (h : s.homeRefuses r = true) :
    ∃ t, exec .soundStamp s = .next t ∧ t.sound.toHome = s.sound.toHome.eraseIdx k ∧
      t.sound.copies = s.sound.copies ∧ t.sound.groups = s.sound.groups ∧
      t.sound.sums = s.sound.sums ++ [⟨r.handle, 0, r.issuer, r.ctx, r.tag, 0, [], 0, none, true⟩] := by
  rw [exec_soundStamp, execSoundStamp, hi]
  simp only [hr, ho, h, Bool.not_true, Bool.false_eq_true, if_false, if_true]
  exact ⟨_, rfl, rfl, rfl, rfl, rfl⟩

theorem State.stamp_near (s : State) (r : SoundReq) (gidx : Nat) (g : Group) (hg : s.group gidx = some g)
    (near : ∀ m ∈ g.members, pkgOf m.cid = s.pkg) :
    (s.stamp r gidx g).group gidx = some { g with nextSeq := g.nextSeq + 1 } ∧
      (s.stamp r gidx g).sound.copies = s.sound.copies ++ (g.members.map fun m => ⟨m.cid,
        ⟨r.handle, g.nextSeq.toNat, r.off, r.bytes, r.issuer, r.tag, g.ctx, g.born, m.idx, none⟩, false⟩) ∧
      (s.stamp r gidx g).sound.sums = s.sound.sums ++
        [⟨r.handle, g.nextSeq.toNat, r.issuer, r.ctx, r.tag, g.born, g.members.map (·.cid), 0, none, false⟩] := by
  have hg' := s.group_onGroup gidx (fun g => { g with nextSeq := g.nextSeq + 1 }) g hg
  unfold State.stamp
  dsimp only
  generalize hu : s.onGroup gidx (fun g => { g with nextSeq := g.nextSeq + 1 }) = u at hg' ⊢
  have hpkg : u.pkg = s.pkg := by rw [← hu]; rfl
  have hcopies : u.sound.copies = s.sound.copies := by rw [← hu]; rfl
  have hsums : u.sound.sums = s.sound.sums := by rw [← hu]; rfl
  rw [← hcopies, ← hsums]
  generalize hv : ({ u with sound := { u.sound with sums := u.sound.sums ++
    [⟨r.handle, g.nextSeq.toNat, r.issuer, r.ctx, r.tag, g.born, g.members.map (·.cid), 0, none, false⟩] } } : State) = v
  have hg2 : v.group gidx = some { g with nextSeq := g.nextSeq + 1 } := by rw [← hv]; exact hg'
  have hpkg2 : v.pkg = s.pkg := by rw [← hv]; exact hpkg
  have hcopies2 : v.sound.copies = u.sound.copies := by rw [← hv]
  have hsums2 : v.sound.sums = u.sound.sums ++
    [⟨r.handle, g.nextSeq.toNat, r.issuer, r.ctx, r.tag, g.born, g.members.map (·.cid), 0, none, false⟩] := by rw [← hv]
  rw [← hsums2, ← hcopies2]
  obtain ⟨c, os, e⟩ := v.reclass_eq r.issuer r.ctx r.tag (g.reachesBeyond v.pkg)
  rw [e, State.sendCopies_near _ _ _ (by rw [← hpkg2] at near; exact near)]
  exact ⟨hg2, rfl, rfl⟩

theorem execSoundStamp_next (s : State) (k : Nat) (r : SoundReq) (g : Group) (hi : s.inp = .idx k)
    (hr : s.sound.toHome[k]? = some r) (ho : inIssueOrder s.sound.toHome k r = true) (h : s.homeRefuses r = false)
    (hg : s.group (handleIdx r.handle) = some g) : exec .soundStamp s =
      .next (({ s with sound := { s.sound with toHome := s.sound.toHome.eraseIdx k } } : State).stamp r
        (handleIdx r.handle) g) := by
  rw [exec_soundStamp, execSoundStamp]
  split
  case h_2 hn => exact absurd hi (hn k)
  next j hj =>
  obtain rfl : k = j := by rw [hi] at hj; injection hj
  simp only [hr, ho, h, hg, Bool.not_true, Bool.false_eq_true, if_false]

/-! ## What a core's NI holds -/

theorem Core.heldStores_eq_zero_iff (c : Core) :
    c.heldStores = 0 ↔ (∀ m ∈ c.snd.members, m.held = []) ∧ c.snd.early = [] := by
  simp [Core.heldStores, List.sum_eq_zero_iff_forall_eq_nat]

theorem Core.membership_mem {c : Core} {h : Word} {m : Membership} (hm : c.membership h = some m) :
    m ∈ c.snd.members ∧ m.handle = h := ⟨List.mem_of_find?_eq_some hm, by simpa using List.find?_some hm⟩

theorem Core.membership_onMember (c : Core) (h : Word) (f : Membership → Membership) (hf : ∀ m, (f m).handle = m.handle)
    (m : Membership) (hm : c.membership h = some m) : (c.onMember h f).membership h = some (f m) := by
  unfold Core.membership at hm ⊢
  unfold Core.onMember
  dsimp only
  generalize c.snd.members = l at hm ⊢
  induction l with
  | nil => cases hm
  | cons x l ih =>
    by_cases hx : x.handle = h
    · obtain rfl : x = m := by simpa [hx] using hm
      simp [hx, hf]
    · have := ih (by simpa [hx] using hm)
      simpa [hx] using this

theorem State.takeUp_applying (s : State) (cid : Nat) (h : Word) (ha : (s.coreAt cid).applying.isSome = true) :
    s.takeUp cid h = s := by
  unfold State.takeUp State.takeHeld
  exact if_pos ha

theorem State.takeUp_noneHeld (s : State) (cid : Nat) (h : Word) (m : Membership)
    (hm : (s.coreAt cid).membership h = some m) (hh : m.held = []) : s.takeUp cid h = s := by
  unfold State.takeUp State.takeHeld
  simp only [hm, hh, List.find?_nil, ite_self]

/-- A core that holds no stores out of order takes none up. -/
theorem State.takeUp_none (s : State) (cid : Nat) (h : Word) (h0 : (s.coreAt cid).heldStores = 0) : s.takeUp cid h = s := by
  obtain ⟨hm, he⟩ := (s.coreAt cid).heldStores_eq_zero_iff.1 h0
  cases hmem : (s.coreAt cid).membership h with
  | some m => exact s.takeUp_noneHeld cid h m hmem (hm m (Core.membership_mem hmem).1)
  | none =>
    unfold State.takeUp State.takeHeld
    simp only [hmem, Core.earlyAdd, he, List.find?_nil, ite_self]

/-! ## Applying at a member -/

/-- `APPLIED` of a membership as a store or change numbers it. -/
def Core.appliedTo (c : Core) (st : Stamped) : Core := c.onMember st.handle fun m => { m with applied := st.seq }

theorem State.raise_eq (s : State) (cid : Nat) (st : Stamped) (ok : Bool) : ∃ so fb, s.raise_ cid st ok =
    { s.onCore cid (fun c => c.appliedTo st) with sound := so, fabric := fb } ∧ so.copies = s.sound.copies ∧
      (handlePkg st.handle = s.pkg → so.sums = s.sound.sums.map fun x => x.answer (st.answer cid ok)) := by
  obtain ⟨os, e⟩ := s.onCore_eq cid fun c => c.appliedTo st
  have hs : (s.onCore cid fun c => c.appliedTo st).sound = s.sound := by rw [e]
  have hp : (s.onCore cid fun c => c.appliedTo st).pkg = s.pkg := by rw [e]; rfl
  obtain ⟨so, fb, h, hc, ha⟩ := (s.onCore cid fun c => c.appliedTo st).tellHome_eq (st.answer cid ok)
  rw [hs] at hc ha
  rw [hp] at ha
  exact ⟨so, fb, h, hc, ha⟩

/-- A member that holds nothing of the group takes up nothing behind a store or change. -/
theorem State.raise_takeUp (s : State) (cid : Nat) (st : Stamped) (ok : Bool) (m : Membership)
    (hm : (s.coreAt cid).membership st.handle = some m) (hh : m.held = []) :
    ∃ so fb, (s.raise_ cid st ok).takeUp cid st.handle =
        { s.onCore cid (fun c => c.appliedTo st) with sound := so, fabric := fb } ∧ so.copies = s.sound.copies ∧
      (handlePkg st.handle = s.pkg → so.sums = s.sound.sums.map fun x => x.answer (st.answer cid ok)) ∧
      (State.coreAt { s.onCore cid (fun c => c.appliedTo st) with sound := so, fabric := fb } cid) =
        (s.coreAt cid).appliedTo st ∧
      ((s.coreAt cid).appliedTo st).membership st.handle = some { m with applied := st.seq } := by
  obtain ⟨so, fb, h, hc, ha⟩ := s.raise_eq cid st ok
  have hcore : State.coreAt { s.onCore cid (fun c => c.appliedTo st) with sound := so, fabric := fb } cid =
      (s.coreAt cid).appliedTo st := (s.coreAt_onCore cid cid _).trans (if_pos rfl)
  have hmem : ((s.coreAt cid).appliedTo st).membership st.handle = some { m with applied := st.seq } :=
    Core.membership_onMember _ _ _ (by simp) m hm
  refine ⟨so, fb, ?_, hc, ha, hcore, hmem⟩
  rw [h]
  exact State.takeUp_noneHeld _ _ _ { m with applied := st.seq } (by rw [hcore, hmem]) hh

/-- The next store of its group at a member is refused. -/
def State.refusesStore (s : State) (c : SoundCopy) (m : Membership) : Prop :=
  m.revoked = true ∨ (s.coreAt c.dest).accepts c.st.ctx = false ∨
    s.writeRefused c.dest (m.base + c.st.off) c.st.bytes.length = true

theorem State.storeFate_live (s : State) (c : SoundCopy) (m : Membership) (hd : s.divertsTo c.dest c.st.ctx = none) :
    (s.refusesStore c m → s.storeFate c.dest m c.st = .refused) ∧
      (¬ s.refusesStore c m → s.storeFate c.dest m c.st = .begun (m.base + c.st.off)) := by
  unfold State.storeFate State.refusesStore
  simp only [hd]
  constructor
  · intro h; rw [if_pos (by simpa [or_assoc] using h)]
  · intro h; rw [if_neg (by simpa [or_assoc] using h)]

theorem execSoundMemberApply_copy (s : State) (k : Nat) (c : SoundCopy) (m : Membership) (hi : s.inp = .idx k)
    (hc : s.sound.copies[k]? = some c) (hr : c.refused = false) (ha : (s.coreAt c.dest).applying = none)
    (h0 : c.st.seq ≠ 0) (hm : (s.coreAt c.dest).membership c.st.handle = some m) (hb : m.born = c.st.born)
    (hs : c.st.seq = m.applied + 1) (hn : c.st.change = none) : exec .soundMemberApply s =
      .next (((s.dropCopy k).takeNext c.dest m c.st).takeUp c.dest c.st.handle) := by
  have htake : s.mayTake k c = true := by simp [State.mayTake, hr, ha, h0]
  have harrive : (s.dropCopy k).arriveCopy c =
      some (((s.dropCopy k).takeNext c.dest m c.st).takeUp c.dest c.st.handle) := by
    have hm' : ((s.dropCopy k).coreAt c.dest).membership c.st.handle = some m := hm
    unfold State.arriveCopy
    simp only [hm', Stamped.isFor, hn, Option.filter_some, hb, beq_self_eq_true, if_true, Bool.false_eq_true, if_false]
    rw [if_pos (beq_iff_eq.2 hs)]
  rw [exec_soundMemberApply, execSoundMemberApply, hi]
  simp only [hc, htake, harrive, Bool.not_true, Bool.false_eq_true, if_false]

/-- A store that its member accepts becomes the one that its NI applies. -/
theorem State.takeNext_begun (s : State) (c : SoundCopy) (m : Membership) (hd : s.divertsTo c.dest c.st.ctx = none)
    (hn : c.st.change = none) (hf : ¬ s.refusesStore c m) :
    (s.takeNext c.dest m c.st).takeUp c.dest c.st.handle = s.onCore c.dest fun x => { x with
      applying := some ⟨0, c.st.ctx, 0, m.base + c.st.off, c.st.bytes, none, some c.st⟩ } := by
  have h : s.takeNext c.dest m c.st = s.onCore c.dest fun x => { x with
      applying := some ⟨0, c.st.ctx, 0, m.base + c.st.off, c.st.bytes, none, some c.st⟩ } := by
    unfold State.takeNext
    simp only [hn, (s.storeFate_live c m hd).2 hf]
  rw [h]
  exact State.takeUp_applying _ _ _ (by rw [State.coreAt_onCore, if_pos rfl]; rfl)

theorem State.takeNext_refused (s : State) (c : SoundCopy) (m : Membership) (hd : s.divertsTo c.dest c.st.ctx = none)
    (hn : c.st.change = none) (hf : s.refusesStore c m) : s.takeNext c.dest m c.st = s.raise_ c.dest c.st false := by
  unfold State.takeNext
  simp only [hn, (s.storeFate_live c m hd).1 hf]

/-! ## Applying the pieces of a store -/

theorem execSoundMemberApply_pieces (s : State) (cid n : Nat) (x : Applying) (st : Stamped) (hi : s.inp = .two cid n)
    (ha : (s.coreAt cid).applying = some x) (hs : x.sound = some st) :
    exec .soundMemberApply s = .next (s.applySound cid x st) := by
  rw [exec_soundMemberApply, execSoundMemberApply, hi]
  simp only [ha, hs]

theorem State.onCore_onCore (s : State) (cid : Nat) (f g : Core → Core) : ∃ os,
    (s.onCore cid f).onCore cid g = { s with core := if cid = s.cid then g (f s.core) else s.core, others := os } ∧
      (((s.onCore cid f).onCore cid g).coreAt cid) = g (f (s.coreAt cid)) := by
  obtain ⟨os, e⟩ := s.onCore_eq cid f
  have hcid : (s.onCore cid f).cid = s.cid := by rw [e]
  have hcore : (s.onCore cid f).core = if cid = s.cid then f s.core else s.core := by rw [e]
  obtain ⟨os', e'⟩ := (s.onCore cid f).onCore_eq cid g
  refine ⟨os', ?_, by rw [State.coreAt_onCore, if_pos rfl, State.coreAt_onCore, if_pos rfl]⟩
  rw [e', hcid, hcore, e]
  by_cases h : cid = s.cid <;> simp only [h, if_true, if_false]

/-- A piece that is not the last one. -/
theorem State.applySound_part (s : State) (cid : Nat) (x : Applying) (st : Stamped) (hx : x.bytes ≠ [])
    (hk : s.pieceCut x.addr x.bytes.length < x.bytes.length) :
    (s.applySound cid x st).coreAt cid =
      { (s.coreAt cid).applyWrite x.addr (x.bytes.take (s.pieceCut x.addr x.bytes.length)) with
        applying := some { x with
          addr := x.addr + s.pieceCut x.addr x.bytes.length
          bytes := x.bytes.drop (s.pieceCut x.addr x.bytes.length) } } := by
  unfold State.applySound
  simp only [List.isEmpty_eq_false_iff.2 hx, Bool.false_eq_true, if_false, if_neg (Nat.not_le.2 hk)]
  exact ((State.onCore_onCore s cid _ _).choose_spec).2

/-- The last piece: the store is applied and answered. -/
theorem State.applySound_last (s : State) (cid : Nat) (x : Applying) (st : Stamped) (m : Membership) (hx : x.bytes ≠ [])
    (hm : (s.coreAt cid).membership st.handle = some m) (hh : m.held = [])
    (hk : x.bytes.length ≤ s.pieceCut x.addr x.bytes.length) :
    let c := { (s.coreAt cid).applyWrite x.addr (x.bytes.take (s.pieceCut x.addr x.bytes.length)) with applying := none }
    (s.applySound cid x st).coreAt cid = c.appliedTo st ∧
      ((s.applySound cid x st).coreAt cid).membership st.handle = some { m with applied := st.seq } ∧
      (handlePkg st.handle = s.pkg → (s.applySound cid x st).sound.sums = s.sound.sums.map fun y =>
        y.answer (st.answer cid true)) := by
  intro c
  obtain ⟨os, e, hcore⟩ := s.onCore_onCore cid
    (fun c => c.applyWrite x.addr (x.bytes.take (s.pieceCut x.addr x.bytes.length))) (fun c => { c with applying := none })
  generalize hu : (s.onCore cid fun c => c.applyWrite x.addr (x.bytes.take (s.pieceCut x.addr x.bytes.length))).onCore cid
    (fun c => { c with applying := none }) = u at e hcore
  have happly : s.applySound cid x st = (u.raise_ cid st true).takeUp cid st.handle := by
    unfold State.applySound
    simp only [List.isEmpty_eq_false_iff.2 hx, Bool.false_eq_true, if_false, if_pos hk, hu]
  have hmu : (u.coreAt cid).membership st.handle = some m := by rw [hcore]; exact hm
  obtain ⟨so, fb, h, -, hsums, hc, hmem⟩ := u.raise_takeUp cid st true m hmu hh
  have hsound : u.sound = s.sound := by rw [e]
  have hpkg : u.pkg = s.pkg := by rw [e]; rfl
  rw [hsound, hpkg] at hsums
  rw [happly, h, hc]
  refine ⟨congrArg (fun c => Core.appliedTo c st) hcore, hmem, hsums⟩

/-! ## Completions -/

theorem Core.soundStatus_cnt (c : Core) (x : SoundSum) (o : OutOp) : (c.soundStatus x o).cnt = c.cnt := by
  have hfail (c : Core) (f : Failure) : (c.recordFailure f).cnt = c.cnt := by
    obtain ⟨a, p, d, fr, tr, e⟩ := c.recordFailure_frame f; rw [e]
  unfold Core.soundStatus
  dsimp only
  split
  · exact hfail _ _
  · split
    · rfl
    · split
      · split
        · exact hfail _ _
        · rfl
      · split
        · exact hfail _ _
        · rfl

theorem Core.soundStatus_clean (c : Core) (x : SoundSum) (o : OutOp) (hh : x.homeref = false) (hn : x.nackn = 0) :
    c.soundStatus x o = c := by
  unfold Core.soundStatus
  simp only [hh, hn, Bool.false_eq_true, if_false, beq_self_eq_true, if_true]

theorem Core.soundStatus_degraded (c : Core) (x : SoundSum) (o : OutOp) (hh : x.homeref = false) (hn : x.nackn ≠ 0) :
    (c.soundStatus x o).snd.deg = true := by
  have hfail (c : Core) (f : Failure) : (c.recordFailure f).snd = c.snd := by
    obtain ⟨a, p, d, fr, tr, e⟩ := c.recordFailure_frame f; rw [e]
  unfold Core.soundStatus
  simp only [hh, beq_eq_false_iff_ne.2 hn, Bool.false_eq_true, if_false]
  split
  · next h =>
    split
    · exact (congrArg CoreSound.deg (hfail _ _)).trans h
    · exact h
  · split
    · exact congrArg CoreSound.deg (hfail _ _)
    · rfl

theorem execSoundCompletion_next (s : State) (k : Nat) (x : SoundSum) (hi : s.inp = .idx k)
    (hx : s.sound.sums[k]? = some x) (hw : x.waiting = []) (hp : pkgOf x.issuer = s.pkg) : exec .soundCompletion s =
      .next (({ s with sound := { s.sound with sums := s.sound.sums.eraseIdx k } } : State).completeSound x) := by
  rw [exec_soundCompletion, execSoundCompletion]
  split
  · next j hj =>
    obtain rfl : k = j := by rw [hi] at hj; injection hj
    simp only [hx, hw, hp, List.isEmpty_nil, Bool.not_true, Bool.false_eq_true, if_false, beq_self_eq_true, if_true]
  · next hj => rw [hi] at hj; cases hj
  · next hj _ => exact absurd hi (hj k)

theorem State.completeSound_coreAt (s : State) (x : SoundSum) (o : OutOp) (ho : (s.coreAt x.issuer).findOut x.tag = some o) :
    (s.completeSound x).coreAt x.issuer = ((s.coreAt x.issuer).closeOut x.tag).soundStatus x o := by
  unfold State.completeSound
  rw [State.coreAt_onCore, if_pos rfl]
  simp only [ho]

/-! ## The combined answer -/

theorem SoundSum.answer_eq (x : SoundSum) (r : SoundAns) (hh : x.homeref = false) (h : x.handle = r.handle)
    (hb : x.born = r.born) (hs : x.seq = r.seq) : x.answer r =
      if x.waiting.contains r.cid = false then x
      else if r.ok then { x with waiting := x.waiting.erase r.cid }
      else { x with
        waiting := x.waiting.erase r.cid
        nackn := x.nackn + 1
        first := match x.first with
          | some f => if r.idx < f.1 then some (r.idx, r.cid) else some f
          | none => some (r.idx, r.cid) } := by
  unfold SoundSum.answer
  simp only [hh, h, hb, hs, bne_self_eq_false, Bool.false_or, Bool.not_eq_true']
  cases hf : x.first with
  | none => simp only [if_true]
  | some f => simp only [decide_eq_true_eq]

theorem SoundSum.answer_spec (x : SoundSum) (r : SoundAns) (hh : x.homeref = false) (h : x.handle = r.handle)
    (hb : x.born = r.born) (hs : x.seq = r.seq) :
    (r.cid ∉ x.waiting → x.answer r = x) ∧
    (r.cid ∈ x.waiting → (x.answer r).waiting = x.waiting.erase r.cid ∧
      (r.ok = true → (x.answer r).nackn = x.nackn ∧ (x.answer r).first = x.first) ∧
      (r.ok = false → (x.answer r).nackn = x.nackn + 1 ∧
        (x.answer r).first = match x.first with
          | some f => if r.idx < f.1 then some (r.idx, r.cid) else some f
          | none => some (r.idx, r.cid))) := by
  rw [x.answer_eq r hh h hb hs]
  constructor
  · intro hn; rw [if_pos (by simpa using hn)]
  · intro hm
    rw [if_neg (by simpa using hm)]
    cases r.ok
    · exact ⟨rfl, nofun, fun _ => ⟨rfl, rfl⟩⟩
    · exact ⟨rfl, fun _ => ⟨rfl, rfl⟩, nofun⟩

/-! ## Membership changes and the table -/

theorem execMembershipChange_next (s : State) (gidx : Nat) (g : Group) (x : SoundChange) (hi : s.inp = .change gidx x)
    (hg : s.group gidx = some g) (hst : g.state = .active ∨ g.state = .degraded) (hok : s.changeOk g x = true)
    (hn : g.nextSeq ≠ 0) : exec .membershipChange s = .next (s.stampChange gidx g x) := by
  have hst' : (g.state == .free || g.state == .closed || !s.changeOk g x) = false := by
    obtain h | h := hst <;> simp [h, hok]
  rw [exec_membershipChange, execMembershipChange, hi]
  simp only [hg, hst', beq_eq_false_iff_ne.2 hn, Bool.false_eq_true, if_false]

theorem State.stampChange_group (s : State) (gidx : Nat) (g : Group) (x : SoundChange) (hg : s.group gidx = some g) :
    (s.stampChange gidx g x).group gidx = some { g.change x with nextSeq := g.nextSeq + 1 } := by
  have h := s.group_onGroup gidx (fun g' => { g.change x with nextSeq := g'.nextSeq + 1 }) g hg
  have sent (sends : List (Nat × Nat)) : (sends.foldl (fun s' m => s'.sendCopy m.1
      ⟨s.handleOf gidx, g.nextSeq.toNat, 0, [], 0, 0, g.ctx, g.born, m.2, some x⟩)
      (s.onGroup gidx fun g' => { g.change x with nextSeq := g'.nextSeq + 1 })).group gidx =
        some { g.change x with nextSeq := g.nextSeq + 1 } := by
    obtain ⟨cs, fb, e⟩ := State.sendChanges_eq sends (fun m => m.1)
      (fun m => ⟨s.handleOf gidx, g.nextSeq.toNat, 0, [], 0, 0, g.ctx, g.born, m.2, some x⟩) (fun _ => rfl)
      (s.onGroup gidx fun g' => { g.change x with nextSeq := g'.nextSeq + 1 })
    rw [e]
    exact h
  exact sent _

theorem Group.change_remove (g : Group) (cid : Nat) (gone : GroupMember)
    (h : g.members.find? (fun m => m.cid == cid) = some gone) :
    (g.change (.remove cid)).members = (g.members.filter fun m => m.cid != cid).map fun m =>
      { m with idx := if gone.idx < m.idx then m.idx - 1 else m.idx } := by
  simp only [Group.change, withoutMember, h]
  refine List.map_congr_left fun m _ => ?_
  split <;> rfl

/-! ## A new group -/

/-- The word to a member that a group is created. -/
def State.created (s : State) (gidx : Nat) (g : Group) (m : GroupMember) : Stamped :=
  ⟨s.handleOf gidx, 0, 0, [], 0, 0, g.ctx, g.born, m.idx, some (.add m.cid m.idx m.base m.len m.revoked)⟩

theorem Core.addMember_held (c : Core) (st : Stamped) (base : Nat) (revoked : Bool) (h0 : c.heldStores = 0) :
    (c.addMember st base revoked).heldStores = 0 := by
  obtain ⟨hm, he⟩ := c.heldStores_eq_zero_iff.1 h0
  refine (Core.heldStores_eq_zero_iff _).2 ⟨fun m hmem => ?_, by simp [Core.addMember, he]⟩
  simp only [Core.addMember, Core.earlyFor, he, List.filter_nil, List.mem_append, List.mem_filter, List.mem_singleton] at hmem
  obtain ⟨hmem, -⟩ | rfl := hmem
  · exact hm m hmem
  · rfl

theorem Core.addMember_membership (c : Core) (st : Stamped) (base : Nat) (revoked : Bool) (he : c.snd.early = [])
    (hn : c.membership st.handle = none) : (c.addMember st base revoked).membership st.handle =
      some ⟨st.handle, base, st.ctx, st.born, revoked, st.seq, []⟩ := by
  have hf : (c.snd.members.filter fun x => x.handle != st.handle).find? (fun m => m.handle == st.handle) = none := by
    rw [List.find?_eq_none]
    intro m hm
    simpa using (List.mem_filter.1 hm).2
  simp [Core.membership, Core.addMember, Core.earlyFor, he, hf]

/-- What a core that holds nothing forgets of an earlier group: its entry. -/
def Core.forgotten (c : Core) (h : Word) (born : Nat) : Core :=
  { c with snd := { c.snd with members := c.snd.members.filter fun m => m.handle != h || decide (born < m.born) } }

theorem State.forget_none (s : State) (cid : Nat) (st : Stamped) (h0 : (s.coreAt cid).heldStores = 0) :
    s.forget cid st = s.onCore cid fun _ => (s.coreAt cid).forgotten st.handle st.born := by
  obtain ⟨hm, he⟩ := (s.coreAt cid).heldStores_eq_zero_iff.1 h0
  have hmine : ((s.coreAt cid).snd.members.filter fun m => m.handle == st.handle).flatMap (·.held) = [] :=
    List.flatMap_eq_nil_iff.2 fun m hmem => hm m (List.mem_filter.1 hmem).1
  unfold State.forget
  simp only [hmine, he, List.append_nil, List.filter_nil, List.foldl_nil]
  unfold State.onCore
  simp only [Core.forgotten, he, List.filter_nil]

theorem Core.forgotten_held (c : Core) (h : Word) (born : Nat) (h0 : c.heldStores = 0) : (c.forgotten h born).heldStores = 0 := by
  obtain ⟨hm, he⟩ := c.heldStores_eq_zero_iff.1 h0
  exact (Core.heldStores_eq_zero_iff _).2 ⟨fun m hmem => hm m (List.mem_filter.1 hmem).1, he⟩

theorem Core.forgotten_membership (c : Core) (h : Word) (born : Nat) (hn : c.membership h = none) :
    (c.forgotten h born).membership h = none :=
  List.find?_eq_none.2 fun m hm => List.find?_eq_none.1 hn m (List.mem_filter.1 hm).1

/-- A member of this package that holds nothing is told of a new group: its core alone changes. -/
theorem State.tellMember_near (s : State) (gidx : Nat) (g : Group) (m : GroupMember) (hp : pkgOf m.cid = s.pkg)
    (h0 : (s.coreAt m.cid).heldStores = 0) :
    let t := s.tellMember gidx g m (.add m.cid m.idx m.base m.len m.revoked)
    t.sound = s.sound ∧ t.cid = s.cid ∧ (∀ j, j ≠ m.cid → t.coreAt j = s.coreAt j) ∧
      ((s.coreAt m.cid).membership (s.handleOf gidx) = none → (t.coreAt m.cid).membership (s.handleOf gidx) =
        some ⟨s.handleOf gidx, m.base, g.ctx, g.born, m.revoked, 0, []⟩) := by
  intro t
  have ht : t = (s.applyAt m.cid (s.created gidx g m)).takeUp m.cid (s.handleOf gidx) := if_pos (beq_iff_eq.2 hp)
  generalize hd : (s.coreAt m.cid).forgotten (s.handleOf gidx) (g.born - 1) = d
  have hd0 : d.heldStores = 0 := by rw [← hd]; exact Core.forgotten_held _ _ _ h0
  have ha : s.applyAt m.cid (s.created gidx g m) =
      (s.onCore m.cid fun _ => d).onCore m.cid fun c => c.applyChange m.cid (s.created gidx g m)
        (.add m.cid m.idx m.base m.len m.revoked) := by
    rw [← hd]
    exact congrArg (fun u : State => u.onCore m.cid fun c => c.applyChange m.cid (s.created gidx g m)
        (.add m.cid m.idx m.base m.len m.revoked)) (s.forget_none m.cid { s.created gidx g m with born := g.born - 1 } h0)
  obtain ⟨os, e, hc⟩ := s.onCore_onCore m.cid (fun _ => d) fun c => c.applyChange m.cid (s.created gidx g m)
        (.add m.cid m.idx m.base m.len m.revoked)
  rw [← ha] at e hc
  have hheld : (d.applyChange m.cid (s.created gidx g m) (.add m.cid m.idx m.base m.len m.revoked)).heldStores = 0 := by
    unfold Core.applyChange
    dsimp only
    split
    · exact Core.addMember_held _ _ _ _ hd0
    · exact hd0
  rw [State.takeUp_none _ _ _ (by rw [hc]; exact hheld)] at ht
  rw [ht]
  refine ⟨by rw [e], by rw [e], fun j hj => ?_, fun hn => ?_⟩
  · rw [ha, State.coreAt_onCore, if_neg hj, State.coreAt_onCore, if_neg hj]
  · have hdn : d.membership (s.created gidx g m).handle = none := by
      rw [← hd]; exact Core.forgotten_membership _ _ _ hn
    rw [hc, Core.applyChange]
    simp only [hdn, Option.all_none, beq_self_eq_true, Bool.and_true, if_true]
    exact Core.addMember_membership _ _ _ _ (d.heldStores_eq_zero_iff.1 hd0).2 hdn

theorem State.tellMember_far (s : State) (gidx : Nat) (g : Group) (m : GroupMember) (hp : pkgOf m.cid ≠ s.pkg) :
    ∃ fb, s.tellMember gidx g m (.add m.cid m.idx m.base m.len m.revoked) = { s with fabric := fb } := by
  have h : s.tellMember gidx g m (.add m.cid m.idx m.base m.len m.revoked) = s.sendCopy m.cid (s.created gidx g m) :=
    if_neg (by simpa using hp)
  have h' : s.sendCopy m.cid (s.created gidx g m) =
      s.transmitOrPark (pkgOf m.cid) true (.soundCopy ⟨m.cid, s.created gidx g m, false⟩) := if_neg (by simpa using hp)
  rw [h, h']
  exact s.transmitOrPark_eq _ _ _

/-- Telling distinct members of a new group changes each one's own core, and enters it there. -/
theorem State.tellMembers_spec (gidx : Nat) (g : Group) (ms : List GroupMember) (s : State) (hd : (ms.map (·.cid)).Nodup)
    (h0 : ∀ m ∈ ms, pkgOf m.cid = s.pkg → (s.coreAt m.cid).heldStores = 0) :
    let t := ms.foldl (fun s m => s.tellMember gidx g m (.add m.cid m.idx m.base m.len m.revoked)) s
    t.sound = s.sound ∧ (∀ j, j ∉ ms.map (·.cid) → t.coreAt j = s.coreAt j) ∧
      ∀ m ∈ ms, pkgOf m.cid = s.pkg → (s.coreAt m.cid).membership (s.handleOf gidx) = none →
        (t.coreAt m.cid).membership (s.handleOf gidx) =
          some ⟨s.handleOf gidx, m.base, g.ctx, g.born, m.revoked, 0, []⟩ := by
  induction ms generalizing s with
  | nil => exact ⟨rfl, fun _ _ => rfl, nofun⟩
  | cons m ms ih =>
    rw [List.map_cons, List.nodup_cons] at hd
    obtain ⟨hnot, hd⟩ := hd
    have hstep : ∃ u : State, s.tellMember gidx g m (.add m.cid m.idx m.base m.len m.revoked) = u ∧
        u.sound = s.sound ∧ u.cid = s.cid ∧ (∀ j, j ≠ m.cid → u.coreAt j = s.coreAt j) ∧
        (pkgOf m.cid = s.pkg → (s.coreAt m.cid).membership (s.handleOf gidx) = none →
          (u.coreAt m.cid).membership (s.handleOf gidx) =
            some ⟨s.handleOf gidx, m.base, g.ctx, g.born, m.revoked, 0, []⟩) := by
      by_cases hp : pkgOf m.cid = s.pkg
      · obtain ⟨hs, hc, hj, hm⟩ := s.tellMember_near gidx g m hp (h0 m List.mem_cons_self hp)
        exact ⟨_, rfl, hs, hc, hj, fun _ => hm⟩
      · obtain ⟨fb, e⟩ := s.tellMember_far gidx g m hp
        exact ⟨_, e, rfl, rfl, fun _ _ => rfl, fun h => absurd h hp⟩
    obtain ⟨u, hu, hs, hc, hj, hm⟩ := hstep
    have hne : ∀ x ∈ ms, x.cid ≠ m.cid := fun x hx e => hnot (e ▸ List.mem_map_of_mem hx)
    have hpkg : u.pkg = s.pkg := congrArg pkgOf hc
    have hhandle : u.handleOf gidx = s.handleOf gidx := by unfold State.handleOf; rw [hpkg]
    obtain ⟨hs', hj', hm'⟩ := ih u hd fun x hx hp => by
      rw [hj _ (hne x hx)]; exact h0 x (List.mem_cons_of_mem _ hx) (hp.trans hpkg)
    rw [List.foldl_cons, hu]
    refine ⟨hs'.trans hs, fun j hjn => ?_, fun x hx hp hn => ?_⟩
    · rw [List.map_cons, List.mem_cons, not_or] at hjn
      rw [hj' j hjn.2, hj j hjn.1]
    · obtain rfl | hx := List.mem_cons.1 hx
      · rw [hj' _ hnot]; exact hm hp hn
      · rw [← hhandle]
        exact hm' x hx (hp.trans hpkg.symm) (by rw [hhandle, hj _ (hne x hx)]; exact hn)

theorem length_eraseDups_le {α : Type} [BEq α] [LawfulBEq α] (l : List α) : l.eraseDups.length ≤ l.length := by
  match l with
  | [] => simp
  | a :: l =>
    have := length_eraseDups_le (l.filter fun b => !b == a)
    have := List.length_filter_le (fun b => !b == a) l
    rw [List.eraseDups_cons, List.length_cons, List.length_cons]
    omega
termination_by l.length
decreasing_by exact Nat.lt_succ_of_le (List.length_filter_le _ _)

/-- A list that loses nothing with its duplicates has none. -/
theorem nodup_of_length_eraseDups {α : Type} [BEq α] [LawfulBEq α] (l : List α) (h : l.eraseDups.length = l.length) :
    l.Nodup := by
  induction l with
  | nil => exact List.nodup_nil
  | cons a l ih =>
    rw [List.eraseDups_cons, List.length_cons, List.length_cons] at h
    have hle := length_eraseDups_le (l.filter fun b => !b == a)
    have hf := List.length_filter_le (fun b => !b == a) l
    have hall : l.filter (fun b => !b == a) = l := List.filter_eq_self.2 (List.length_filter_eq_length_iff.1 (by omega))
    rw [hall] at h
    refine List.nodup_cons.2 ⟨fun ha => ?_, ih (by omega)⟩
    simpa using List.filter_eq_self.1 hall a ha

theorem State.groupOk_nodup {s : State} {g : Group} (h : s.groupOk g = true) : (g.members.map (·.cid)).Nodup := by
  simp only [State.groupOk, Bool.and_eq_true, beq_iff_eq] at h
  obtain ⟨⟨-, hlen⟩, -⟩ := h
  exact nodup_of_length_eraseDups _ (by rw [hlen, List.length_map])

theorem execGroupTableWrite_new (s : State) (gidx : Nat) (g : Group) (hi : s.inp = .group gidx (some g))
    (hn : s.group gidx = none) (hg : gidx < 1024) (hok : s.groupOk g = true) :
    let g' := { g with state := .active, nextSeq := 1, born := s.sound.created + 1, unclosed := [], unleft := [] }
    exec .groupTableWrite s = .next (g.members.foldl
      (fun s m => s.tellMember gidx g' m (.add m.cid m.idx m.base m.len m.revoked))
      { s with sound := { s.sound with
        groups := s.sound.groups ++ [(gidx, g')], created := s.sound.created + 1 } }) := by
  intro g'
  have hok' : (decide (1024 ≤ gidx) || !s.groupOk g) = false := by simp [hok, hg]
  rw [exec_groupTableWrite, execGroupTableWrite]
  split
  · next j x hj =>
    obtain ⟨rfl, rfl⟩ : gidx = j ∧ g = x := by rw [hi] at hj; injection hj with h h'; exact ⟨h, Option.some.inj h'⟩
    simp only [hn, hok', Bool.false_eq_true, if_false, g']
  · next hj => rw [hi] at hj; cases hj
  · next hj _ => exact absurd hi (hj _ _)

/-- Settles O46, step by step: a copy, an answer and a membership each change what is theirs. -/
theorem soundStepsReplicateAndComplete : Obligations.SoundStepsReplicateAndComplete := by
  unfold Obligations.SoundStepsReplicateAndComplete
  refine ⟨fun s k r hi hr ho => ⟨execSoundStamp_refused s k r hi hr ho, fun g h hg near => ?stamp⟩,
    fun s k c m hi hc hr ha h0 hm hb hs hn hd => ?copy, fun s cid n x st m hi ha hx hb hm => ?pieces,
    fun x r hh h hb hs => x.answer_spec r hh h hb hs, fun s k c hi hc => ?retry,
    fun s k x o hi hx hw hp ho hh => ?completion, fun s gidx g x hi hg hst hok hn => ?change, Group.change_remove,
    fun s gidx g hi hn hg hok h0 => ?table⟩
  case stamp =>
    exact ⟨_, execSoundStamp_next s k r g hi hr ho h hg, State.stamp_near _ r _ g hg near⟩
  case copy =>
    have he := execSoundMemberApply_copy s k c m hi hc hr ha h0 hm hb hs hn
    refine ⟨fun hf => ?_, fun hf hheld => ?_⟩
    · rw [he, State.takeNext_begun (s.dropCopy k) c m hd hn hf]
      obtain ⟨os, e⟩ := (s.dropCopy k).onCore_eq c.dest fun x => { x with
        applying := some ⟨0, c.st.ctx, 0, m.base + c.st.off, c.st.bytes, none, some c.st⟩ }
      exact ⟨_, rfl, by rw [e]; rfl, by rw [State.coreAt_onCore, if_pos rfl]; rfl⟩
    · rw [he, State.takeNext_refused (s.dropCopy k) c m hd hn hf]
      have hm' : ((s.dropCopy k).coreAt c.dest).membership c.st.handle = some m := hm
      have hnone : m.held = [] := (Core.heldStores_eq_zero_iff _).1 hheld |>.1 m (Core.membership_mem hm).1
      obtain ⟨so, fb, h, hcopies, hsums, hcore, hmem⟩ := (s.dropCopy k).raise_takeUp c.dest c.st false m hm' hnone
      rw [h]
      refine ⟨_, rfl, hcopies, ?_, ?_, hsums⟩
      · rw [hcore]; rfl
      · rw [hcore]; exact hmem
  case pieces =>
    have hk := s.pieceCut_spec x.addr (List.length_pos_iff.2 hb)
    refine ⟨hk.1, _, execSoundMemberApply_pieces s cid n x st hi ha hx, fun hh => ?_, fun hlt => ?_, fun heq hh => ?_⟩
    · rcases Nat.lt_or_ge (s.pieceCut x.addr x.bytes.length) x.bytes.length with hlt | hge
      · rw [s.applySound_part cid x st hb hlt]
        exact ⟨rfl, rfl⟩
      · obtain ⟨hc, -, -⟩ := s.applySound_last cid x st m hb hm hh hge
        rw [hc]
        exact ⟨rfl, rfl⟩
    · rw [s.applySound_part cid x st hb hlt]
      exact ⟨hm, rfl⟩
    · obtain ⟨hc, hmem, hsums⟩ := s.applySound_last cid x st m hb hm hh (Nat.le_of_eq heq.symm)
      exact ⟨by rw [hc]; rfl, hmem, hsums⟩
  case retry =>
    rw [exec_soundRetry, execSoundRetry]
    split
    · next j hj =>
      obtain rfl : k = j := by rw [hi] at hj; injection hj
      simp only [hc]
    · next hj => exact absurd hi (hj k)
  case completion =>
    have hcore : (({ s with sound := { s.sound with sums := s.sound.sums.eraseIdx k } } : State).completeSound x).coreAt
        x.issuer = ((s.coreAt x.issuer).closeOut x.tag).soundStatus x o := State.completeSound_coreAt _ x o ho
    refine ⟨_, execSoundCompletion_next s k x hi hx hw hp, ?_, ?_, fun h => ?_, fun h => ?_⟩
    · obtain ⟨os, e⟩ := State.onCore_eq { s with sound := { s.sound with sums := s.sound.sums.eraseIdx k } } x.issuer
        fun c => match c.findOut x.tag with
          | some o => (c.closeOut x.tag).soundStatus x o
          | none => c
      exact congrArg (fun t : State => t.sound.sums) e
    · exact (congrArg Core.cnt hcore).trans (Core.soundStatus_cnt _ _ _)
    · exact hcore.trans (Core.soundStatus_clean _ _ _ hh h)
    · exact (congrArg (fun c : Core => c.snd.deg) hcore).trans (Core.soundStatus_degraded _ _ _ hh h)
  case change =>
    exact ⟨_, execMembershipChange_next s gidx g x hi hg hst hok hn, s.stampChange_group gidx g x hg⟩
  case table =>
    refine ⟨_, execGroupTableWrite_new s gidx g hi hn hg hok, ?_⟩
    generalize hg' : ({ g with
      state := .active, nextSeq := 1, born := s.sound.created + 1, unclosed := [], unleft := [] } : Group) = g'
    have hctx : g'.ctx = g.ctx := by rw [← hg']
    have hborn : g'.born = s.sound.created + 1 := by rw [← hg']
    have hnew : (s.sound.groups ++ [(gidx, g')]).find? (fun g => g.1 == gidx) = some (gidx, g') := by
      rw [List.find?_append, Option.map_eq_none_iff.1 hn]
      simp
    generalize hu : ({ s with sound := { s.sound with
      groups := s.sound.groups ++ [(gidx, g')], created := s.sound.created + 1 } } : State) = u
    have hcoreAt (j : Nat) : u.coreAt j = s.coreAt j := by rw [← hu]; rfl
    have hpkg : u.pkg = s.pkg := by rw [← hu]; rfl
    have hhandle : u.handleOf gidx = s.handleOf gidx := by rw [← hu]; rfl
    obtain ⟨hsound, -, hmem⟩ := u.tellMembers_spec gidx g' g.members (State.groupOk_nodup hok) fun m hm hp => by
      rw [hcoreAt]; exact h0 m hm (hp.trans hpkg)
    rw [hhandle, hctx, hborn, hpkg] at hmem
    refine ⟨?_, fun m hm hp hnone => hmem m hm hp (by rw [hcoreAt]; exact hnone)⟩
    unfold State.group
    rw [hsound, ← hu, hnew]
    rfl

end Sys2Proof.Machine
end

section
/-! PROOF. The generations of a population: arrivals, close, copies and release (R365 to R374). -/

namespace Sys2Proof.Machine

/-! ## Populations -/

theorem State.population_onPop (s : State) (slot : Nat) (f : Population → Population) (p : Population)
    (h : s.population slot = some p) : (s.onPop slot f).population slot = some (f p) := by
  unfold State.population at h ⊢
  unfold State.onPop
  dsimp only
  generalize s.sce.pops = l at h ⊢
  induction l with
  | nil => cases h
  | cons x l ih =>
    obtain ⟨k, y⟩ := x
    by_cases hk : k = slot
    · simp [hk] at h ⊢; rw [h]
    · simp [hk] at h ⊢; simpa using ih (by simpa using h)

theorem State.sendSces_eq (b : Nat → FlitBody) (ks : List Nat) (s : State) :
    ∃ fb, ks.foldl (fun s k => s.sendSce k (b k)) s = { s with fabric := fb } := by
  induction ks generalizing s with
  | nil => exact ⟨s.fabric, rfl⟩
  | cons k ks ih =>
    obtain ⟨fb, e⟩ := s.transmitOrPark_eq k true (b k)
    obtain ⟨fb', e'⟩ := ih { s with fabric := fb }
    exact ⟨fb', by rw [List.foldl_cons, State.sendSce, e, e']⟩

theorem execSceArrival_arrive (s : State) (k : Nat) (m : SceMsg) (p : Population) (hi : s.inp = .idx k)
    (hm : s.sce.msgs[k]? = some m) (hp : s.population m.slot = some p) (hc : p.closed = none)
    (hh : p.has m.arr.cid = true) (hn : m.note = .arrive) :
    ∃ t, exec .sceArrival s = .next t ∧ t.sce.msgs = s.sce.msgs.eraseIdx k ∧
      t.population m.slot = some { p with arrivals := (p.arrivals.filter fun a => a.cid != m.arr.cid) ++ [m.arr] } := by
  have hkeep : s.keepsNote m = false := by simp [State.keepsNote, hp, hc]
  have hnote : p.note m = { p with arrivals := (p.arrivals.filter fun a => a.cid != m.arr.cid) ++ [m.arr] } := by
    simp [Population.note, hh, hn, hc]
  rw [exec_sceArrival, execSceArrival, hi]
  simp only [hm, hkeep, Bool.false_eq_true, if_false]
  refine ⟨_, rfl, rfl, ?_⟩
  rw [← hnote]
  exact State.population_onPop _ _ _ _ hp

/-! ## The close -/

theorem insertRank_perm (a : Arrival) (l : List Arrival) : (insertRank a l).Perm (a :: l) := by
  induction l with
  | nil => exact .refl _
  | cons b l ih =>
    unfold insertRank
    split
    · exact .refl _
    · exact (ih.cons b).trans (.swap a b l)

/-- A ranking holds each arrival once. -/
theorem ranked_perm (l : List Arrival) : (ranked l).Perm l := by
  unfold ranked
  induction l with
  | nil => exact .refl _
  | cons a l ih => exact (insertRank_perm a _).trans (ih.cons a)

theorem State.closeHere_spec (l : List Nat) (s : State) : (s.closeHere l).sce = s.sce ∧ (s.closeHere l).cid = s.cid ∧
    ∀ cid, ((s.coreAt cid).sce.phase = .closed → ((s.closeHere l).coreAt cid).sce.phase = .closed) ∧
      (cid ∈ l → pkgOf cid = s.pkg → (s.coreAt cid).sce.phase = .arrived →
        ((s.closeHere l).coreAt cid).sce.phase = .closed) := by
  induction l generalizing s with
  | nil => exact ⟨rfl, rfl, fun cid => ⟨id, nofun⟩⟩
  | cons c l ih =>
    have hstep : ∃ u : State, s.closeHere (c :: l) = u.closeHere l ∧ u.sce = s.sce ∧ u.cid = s.cid ∧
        (∀ cid, cid ≠ c → u.coreAt cid = s.coreAt cid) ∧
        ((s.coreAt c).sce.phase = .closed ∨ (pkgOf c = s.pkg ∧ (s.coreAt c).sce.phase = .arrived) →
          (u.coreAt c).sce.phase = .closed) := by
      by_cases hc : (pkgOf c == s.pkg && (s.coreAt c).sce.phase == .arrived) = true
      · obtain ⟨os, e⟩ := s.onCore_eq c fun c => { c with sce := { c.sce with phase := .closed } }
        refine ⟨_, congrArg (fun u => State.closeHere u l) (if_pos hc), by rw [e], by rw [e], fun cid h => ?_, fun _ => ?_⟩
        · rw [State.coreAt_onCore, if_neg h]
        · rw [State.coreAt_onCore, if_pos rfl]
      · refine ⟨s, congrArg (fun u => State.closeHere u l) (if_neg hc), rfl, rfl, fun _ _ => rfl, ?_⟩
        rintro (h | h)
        · exact h
        · exact absurd (by simp [h]) hc
    obtain ⟨u, hu, hs, hcid, hne, hclosed⟩ := hstep
    obtain ⟨hs', hcid', h'⟩ := ih u
    rw [hu]
    refine ⟨hs'.trans hs, hcid'.trans hcid, fun cid => ?_⟩
    have hpkg : u.pkg = s.pkg := congrArg pkgOf hcid
    by_cases hc : cid = c
    · subst hc
      exact ⟨fun h => (h' cid).1 (hclosed (.inl h)), fun _ hp ha => (h' cid).1 (hclosed (.inr ⟨hp, ha⟩))⟩
    · rw [← hne cid hc, ← hpkg]
      exact ⟨(h' cid).1, fun hm => (h' cid).2 ((List.mem_cons.1 hm).resolve_left hc)⟩

/-- The ranking of a generation that closes. -/
def Population.ranking (p : Population) : List Arrival :=
  ranked (p.members.map fun m => (p.arrivalOf m.2).getD ⟨m.2, nanFit, p.gen⟩)

theorem Population.ranking_length (p : Population) : p.ranking.length = p.members.length := by
  rw [Population.ranking, (ranked_perm _).length_eq, List.length_map]

theorem Population.ranking_mem (p : Population) (m : Nat × Nat) (hm : m ∈ p.members) : ∃ a ∈ p.ranking, a.cid = m.2 := by
  refine ⟨_, (ranked_perm _).mem_iff.2 (List.mem_map.2 ⟨m, hm, rfl⟩), ?_⟩
  cases h : p.arrivalOf m.2 with
  | none => rfl
  | some a => simpa using List.find?_some h

theorem Population.losers_length (p : Population) (r : List Arrival) : (p.losers r).length = p.l := by
  simp [Population.losers]

theorem State.closeGeneration_spec (s : State) (slot : Nat) (p : Population) (hp : s.population slot = some p) :
    (s.closeGeneration slot p).population slot = some { p with closed := some ⟨p.ranking, p.losers p.ranking, 0⟩ } ∧
      ∀ cid ∈ p.arrivals.map (·.cid), pkgOf cid = s.pkg → (s.coreAt cid).sce.phase = .arrived →
        ((s.closeGeneration slot p).coreAt cid).sce.phase = .closed := by
  have h := s.population_onPop slot (fun p' => { p' with closed := some ⟨p.ranking, p'.losers p.ranking, 0⟩ }) p hp
  have hc := State.closeHere_spec (p.arrivals.map (·.cid))
    (s.onPop slot fun p' => { p' with closed := some ⟨p.ranking, p'.losers p.ranking, 0⟩ })
  unfold State.closeGeneration
  dsimp only
  rw [show ranked _ = p.ranking from rfl]
  generalize hu : (s.onPop slot fun p' => { p' with closed := some ⟨p.ranking, p'.losers p.ranking, 0⟩ }) = u at h hc
  have hcore (cid : Nat) : u.coreAt cid = s.coreAt cid := by rw [← hu]; rfl
  have hpkg : u.pkg = s.pkg := by rw [← hu]; rfl
  obtain ⟨hsce, -, hphase⟩ := hc
  obtain ⟨fb, e⟩ := State.sendSces_eq (fun _ => .sceClose p.home p.homeSlot (p.arrivals.map (·.cid))) p.packages
    (u.closeHere (p.arrivals.map (·.cid)))
  rw [e]
  refine ⟨?_, fun cid hm hp ha => (hphase cid).2 hm (hp.trans hpkg.symm) (by rw [hcore]; exact ha)⟩
  rw [← h]
  exact congrArg (fun sc : Sce => (sc.pops.find? fun p => p.1 == slot).map (·.2)) hsce

theorem execGenerationClose_next (s : State) (slot : Nat) (p : Population) (hi : s.inp = .idx slot)
    (hp : s.population slot = some p) (hh : p.home = s.pkg) (hc : p.closed = none) (ha : p.arrivals ≠ [])
    (hall : ∀ m ∈ p.members, ∃ a ∈ p.arrivals, a.cid = m.2) :
    exec .generationClose s = .next (s.closeGeneration slot p) := by
  have hready : (p.members.all fun m => s.memberReady p m.2) = true := by
    refine List.all_eq_true.2 fun m hm => ?_
    obtain ⟨a, hmem, hcid⟩ := hall m hm
    have : (p.arrivalOf m.2).isSome = true := List.find?_isSome.2 ⟨a, hmem, by simp [hcid]⟩
    simp [State.memberReady, this]
  rw [exec_generationClose, execGenerationClose, hi]
  simp only [hp, hh, hc, hready, bne_self_eq_false, List.isEmpty_eq_false_iff.2 ha, Option.isSome_none, Bool.not_true,
    Bool.or_false, Bool.false_eq_true, if_false]

/-! ## The copies -/

theorem execSceLoserCopy_ask (s : State) (slot j : Nat) (p : Population) (k : Closed) (l : Loser)
    (hi : s.inp = .two slot j) (hp : s.population slot = some p) (hc : p.closed = some k) (hl : k.losers[j]? = some l)
    (hd : l.done = false) (ha : l.asked = false) (hh : p.home = s.pkg) (hw : pkgOf l.winner = s.pkg) :
    ∃ t, exec .sceLoserCopy s = .next t ∧ t.sce.jobs = s.sce.jobs ++ [⟨p.home, slot, p.gen, j, l, 0, false⟩] := by
  have hask : exec .sceLoserCopy s = .next (s.askCopy slot j p l) := by
    rw [exec_sceLoserCopy, execSceLoserCopy, hi]
    simp only [hp, hc, hl, hd, ha, hh, Option.bind_some, bne_self_eq_false, Bool.or_false, Bool.false_eq_true, if_false]
  refine ⟨_, hask, ?_⟩
  unfold State.askCopy
  exact congrArg (fun u : State => u.sce.jobs) (if_pos (beq_iff_eq.2 hw))

/-- The fields of word 2 of a loser's copy without a transform. -/
theorem Population.copyOf_fields (p : Population) (l : Loser) (src dst : Nat) (hx : p.xf = 0) (hg : p.gl ≤ 0x140000) :
    (p.copyOf l src dst).kind = 2 ∧ (p.copyOf l src dst).xf = 0 := by
  have hw : (p.word2 p.gl).toNat = 2 * 2 ^ 24 + p.gl := by
    simp only [Population.word2, Population.param, hx, BitVec.toNat_ofNat]
    simp; omega
  simp only [Xfer.kind, Xfer.xf, Population.copyOf, hw, fieldOf]
  omega

theorem remoteLocal_remoteAddr (cid a : Nat) (h : a < 2 ^ 21) : remoteLocal (remoteAddr cid a) = a := by
  rw [remoteLocal, remoteAddr, BitVec.toNat_ofNat, fieldOf_mod _ 0 21 64 (by decide), fieldOf, Nat.pow_zero, Nat.div_one,
    show cid * 2 ^ 32 = cid * 2 ^ 11 * 2 ^ 21 by rw [Nat.mul_assoc, ← Nat.pow_add], Nat.mul_add_mod_self_right,
    Nat.mod_eq_of_lt h]

theorem Xfer.landing_local (x : Xfer) (h : x.kind = 2) : x.landing = remoteLocal x.w1 + x.pos := by
  have hbase : x.base = remoteLocal x.w1 := if_pos (beq_iff_eq.2 h)
  have hdone : x.doneb = x.pos := if_neg (by rw [h]; decide)
  rw [Xfer.landing, hbase, hdone]

theorem Xfer.output_plain (x : Xfer) (h : x.xf = 0) (bs : List Byte) : x.output bs = bs := by
  have hf : x.form.xf = 0 := h
  unfold Xfer.output Xform.apply
  generalize x.form = f at hf
  obtain ⟨xf, pet, pa, pb⟩ := f
  obtain rfl : xf = 0 := hf
  rfl

/-- The request of a loser's copy at a position. -/
theorem Population.copyAt_fields (p : Population) (l : Loser) (dst pos : Nat) (hx : p.xf = 0) (hg : p.gl ≤ 0x140000)
    (hd : dst < 2 ^ 21) : ({ p.copyOf l 0 dst with pos := pos } : Xfer).landing = dst + pos ∧
      ∀ bs, ({ p.copyOf l 0 dst with pos := pos } : Xfer).output bs = bs := by
  obtain ⟨hk, hf⟩ := p.copyOf_fields l 0 dst hx hg
  have hw : (p.copyOf l 0 dst).w1 = remoteAddr l.cid dst := rfl
  generalize p.copyOf l 0 dst = y at hk hf hw
  unfold Xfer.kind at hk
  unfold Xfer.xf at hf
  constructor
  · rw [Xfer.landing_local _ (by unfold Xfer.kind; exact hk)]
    dsimp only
    rw [hw, remoteLocal_remoteAddr _ _ hd]
  · exact fun bs => Xfer.output_plain _ (by unfold Xfer.xf; exact hf) bs

/-- Without a transform the bytes of a copy land as they are, at their place in the loser's window. -/
theorem State.landWindow_plain (s : State) (p : Population) (l : Loser) (pos : Nat) (bs : List Byte) (hx : p.xf = 0)
    (hg : p.gl ≤ 0x140000) (hr : s.storeReady l.cid = true) : s.landWindow p l pos bs =
      some (s.land false l.cid ((s.coreAt l.cid).sce.gbase.toNat + pos) bs) := by
  obtain ⟨hland, hout⟩ := p.copyAt_fields l (s.coreAt l.cid).sce.gbase.toNat pos hx hg (s.coreAt l.cid).sce.gbase.isLt
  unfold State.landWindow
  simp only [hr, if_true, hland, hout]

theorem SceJob.same_congr {a b : SceJob} (h : b.home = a.home ∧ b.slot = a.slot ∧ b.gen = a.gen ∧ b.j = a.j) (y : SceJob) :
    y.same b = y.same a := by
  obtain ⟨h1, h2, h3, h4⟩ := h
  simp only [SceJob.same, h1, h2, h3, h4]

theorem State.endJob_spec (s : State) (x : SceJob) (failed : Option Nat) : ∃ sc fb,
    s.endJob x failed = { s with sce := sc, fabric := fb } ∧ ∀ y ∈ sc.jobs, y.same x = false := by
  have hgone : ∀ y ∈ s.sce.jobs.filter (fun y => !y.same x), y.same x = false := fun y hy => by
    simpa using (List.mem_filter.1 hy).2
  unfold State.endJob
  dsimp only
  split
  · exact ⟨_, s.fabric, rfl, hgone⟩
  · obtain ⟨fb, e⟩ := (s.onJobs fun l => l.filter fun y => !y.same x).transmitOrPark_eq x.home true (.sceDone x failed)
    exact ⟨_, fb, e, hgone⟩

/-- Progress of a copy changes the SCE only; with its last byte its job is gone. -/
theorem State.stepJob_spec (s : State) (x : SceJob) (gl n : Nat) : ∃ sc fb,
    s.stepJob x gl n = { s with sce := sc, fabric := fb } ∧ (gl ≤ x.pos + n → ∀ y ∈ sc.jobs, y.same x = false) := by
  unfold State.stepJob
  split
  · obtain ⟨sc, fb, e, h⟩ := s.endJob_spec x none
    exact ⟨sc, fb, e, fun _ => h⟩
  · next hn => exact ⟨_, s.fabric, rfl, fun h => absurd h hn⟩

/-- With no buckets set up and no injection armed, a chunk of a good source begins. -/
theorem State.beginChunk_go (s : State) (p : Population) (x : SceJob) (bs : List Byte)
    (hr : s.storeReady x.l.winner = true) (hb : (s.coreAt x.l.winner).bad = []) (hp : s.host.ports = [])
    (ha : s.host.inj.arm = false) : ∃ hs, s.beginChunk p x bs = .go { s with host := hs } ∧ hs.dies = s.host.dies := by
  have hbad : ((s.coreAt x.l.winner).badIn ((s.coreAt x.l.winner).sce.gbase.toNat + x.pos) bs.length).isSome = false := by
    simp [Core.badIn, hb]
  have hcharge : ∃ hs, s.chargeCopy p x.l bs = some { s with host := hs } ∧ hs.inj = s.host.inj ∧
      hs.dies = s.host.dies := by
    have hok : ((s.copyPorts x.l).all fun k => match s.host.ports[k]? with
      | some q => decide (bytesCost bs ≤ tokensOf q p.ctx)
      | none => true) = true := by simp [hp]
    unfold State.chargeCopy State.charge
    exact ⟨_, if_pos hok, rfl, rfl⟩
  obtain ⟨hs, hc, hinj, hdies⟩ := hcharge
  have hwatch : State.copyWatched { s with host := hs } x.l = false := by
    have ha' : hs.inj.arm = false := by rw [hinj]; exact ha
    unfold State.copyWatched
    split
    · simp [State.injWatches, ha']
    · simp only [State.injWatches, State.injWatchesPort, ha', Bool.false_and, Bool.false_or]
      cases State.portTo { s with host := hs } (pkgOf x.l.cid) true <;> rfl
  refine ⟨hs, ?_, hdies⟩
  unfold State.beginChunk
  simp only [hr, hbad, hc, hwatch, Bool.not_true, Bool.false_eq_true, if_false]
  rfl

theorem Memory.readBytes_take (m : Memory) (a n k : Nat) (h : k ≤ n) : (m.readBytes a n).take k = m.readBytes a k := by
  induction k generalizing m a n with
  | zero => rfl
  | succ k ih =>
    obtain ⟨n, rfl⟩ : ∃ j, n = j + 1 := ⟨n - 1, by omega⟩
    simp only [Memory.readBytes, List.take_succ_cons, ih _ _ _ (Nat.le_of_succ_le_succ h)]

/-- The bytes of a copy's next step. -/
def State.jobStep (s : State) (x : SceJob) (p : Population) : Nat :=
  s.pieceCut 0 (min (4096 - x.pos % 4096) (p.gl - x.pos))

/-- The next piece of a copy within the package lands, and the copy goes on behind it. -/
theorem State.runJob_here (s : State) (x : SceJob) (n : Nat) (p : Population) (hp : s.popOf x.home x.slot = some (n, p))
    (hw : x.waits = false) (hlt : x.pos < p.gl) (hg : p.gl ≤ 0x140000) (hx : p.xf = 0) (hh : pkgOf x.l.cid = s.pkg)
    (hr : s.storeReady x.l.cid = true) (hrw : s.storeReady x.l.winner = true) (hb : (s.coreAt x.l.winner).bad = [])
    (ha : (s.coreAt x.l.cid).applying = none) (hi : s.host.inj.arm = false) (hports : s.host.ports = []) :
    ∃ hs l, s.runJob x = ((({ s with host := hs } : State).land false x.l.cid
      ((s.coreAt x.l.cid).sce.gbase.toNat + x.pos) ((s.coreAt x.l.winner).ls.readBytes
        ((s.coreAt x.l.winner).sce.gbase.toNat + x.pos) (s.jobStep x p))).stepJob { x with l := l } p.gl (s.jobStep x p)) := by
  have hle := (s.pieceCut_spec 0 (show 0 < min (4096 - x.pos % 4096) (p.gl - x.pos) by omega)).2.1
  have htake := (s.coreAt x.l.winner).ls.readBytes_take ((s.coreAt x.l.winner).sce.gbase.toNat + x.pos)
    (min (4096 - x.pos % 4096) (p.gl - x.pos)) (s.jobStep x p) hle
  rw [← htake]
  generalize hbs : (s.coreAt x.l.winner).ls.readBytes ((s.coreAt x.l.winner).sce.gbase.toNat + x.pos)
    (min (4096 - x.pos % 4096) (p.gl - x.pos)) = bs
  have hmove (hs : HostSide) (hr' : State.storeReady { s with host := hs } x.l.cid = true) :=
    State.landWindow_plain { s with host := hs } p
      { x.l with gbase := (s.coreAt x.l.winner).sce.gbase } x.pos (bs.take (s.jobStep x p)) hx hg hr'
  obtain ⟨hs, hgo, hdies⟩ := s.beginChunk_go p
    { x with l := { x.l with gbase := (s.coreAt x.l.winner).sce.gbase }, waits := false } bs hrw hb hports hi
  by_cases hpos : (x.pos % 4096 != 0) = true
  · refine ⟨s.host, { x.l with gbase := (s.coreAt x.l.winner).sce.gbase }, ?_⟩
    unfold State.runJob
    simp only [hp, hw, ha, hh, chunkSize, hbs, hpos, Option.isSome_none, beq_self_eq_true, Bool.and_false, Bool.or_false,
      Bool.true_and, Bool.false_eq_true, if_false, if_true]
    change (match State.landWindow s p { x.l with gbase := (s.coreAt x.l.winner).sce.gbase } x.pos
      (bs.take (s.jobStep x p)) with | some u => _ | none => _) = _
    rw [show State.landWindow s _ _ _ _ = _ from hmove s.host hr]
    rfl
  · refine ⟨hs, { x.l with gbase := (s.coreAt x.l.winner).sce.gbase }, ?_⟩
    have hpkg : State.pkg { s with host := hs } = s.pkg := rfl
    unfold State.runJob
    simp only [hp, hw, ha, hh, chunkSize, hbs, hpos, hgo, hpkg, Option.isSome_none, beq_self_eq_true, Bool.and_false,
      Bool.or_false, Bool.false_eq_true, if_false, if_true]
    change (match State.landWindow { s with host := hs } p { x.l with gbase := (s.coreAt x.l.winner).sce.gbase } x.pos
      (bs.take (s.jobStep x p)) with | some u => _ | none => _) = _
    rw [hmove hs (by unfold State.storeReady at hr ⊢; rw [hdies]; exact hr)]
    rfl

theorem execSceLoserCopy_job (s : State) (i a b : Nat) (x : SceJob) (hi : s.inp = .three i a b)
    (hx : s.sce.jobs[i]? = some x) : exec .sceLoserCopy s = .next (s.runJob x) := by
  rw [exec_sceLoserCopy, execSceLoserCopy, hi]
  simp only [hx]

/-! ## The release -/

/-- The release at a member: the result of a `gend` that waits, with the generation that is next. -/
def Core.hasResult (c : Core) (gen : BitVec 40) (ph : GendPhase) : Prop := c.sce.phase = ph ∧ c.sce.genno = gen

theorem Core.release_pend (c : Core) (gen : BitVec 40) (ph : GendPhase) :
    ((c.release gen ph).pend 3).trap.ipend.getLsbD 3 = true ∧
      (c.sce.phase = .closed ∨ c.hasResult gen ph → ((c.release gen ph).pend 3).hasResult gen ph) := by
  constructor
  · have hbit : (bit6 3).getLsbD 3 = true := by decide
    rw [Core.pend_trap]
    dsimp only
    rw [BitVec.getLsbD_or, hbit, Bool.or_true]
  · unfold Core.release Core.hasResult
    rintro (h | ⟨h1, h2⟩)
    · rw [if_pos (beq_iff_eq.2 h)]; exact ⟨rfl, rfl⟩
    · split
      · exact ⟨rfl, rfl⟩
      · exact ⟨h1, h2⟩

theorem State.releaseMember_saved (s : State) (ctx cid : Nat) (gen : BitVec 40) (ph : GendPhase)
    (h : (s.divertsTo cid ctx).isSome = true) : ∃ f : SavedMember → SavedMember,
      s.releaseMember ctx cid gen ph = { s with saved := s.saved.map f } ∧
        ∀ m, (f m).cid = m.cid ∧ (f m).core.ids = m.core.ids := by
  refine ⟨fun m => if m.cid == cid && m.core.ids.ctx.toNat == ctx then { m with core := m.core.pend 3 } else m, if_pos h,
    fun m => ?_⟩
  dsimp only
  split <;> exact ⟨rfl, rfl⟩

theorem State.divertsTo_map (s : State) (f : SavedMember → SavedMember)
    (hf : ∀ m, (f m).cid = m.cid ∧ (f m).core.ids = m.core.ids) (cid ctx : Nat) (h : s.divertsTo cid ctx = none) :
    State.divertsTo { s with saved := s.saved.map f } cid ctx = none := by
  refine List.find?_eq_none.2 fun m hm => ?_
  obtain ⟨m', hm', rfl⟩ := List.mem_map.1 hm
  rw [(hf m').1, (hf m').2]
  exact List.find?_eq_none.1 h m' hm'

/-- The release of one member leaves the others, and every member that is not saved. -/
theorem State.releaseMember_spec (s : State) (ctx c : Nat) (gen : BitVec 40) (ph : GendPhase) :
    let t := s.releaseMember ctx c gen ph
    t.sce = s.sce ∧ t.cid = s.cid ∧ (∀ cid, s.divertsTo cid ctx = none → t.divertsTo cid ctx = none) ∧
      (∀ cid, cid ≠ c → t.coreAt cid = s.coreAt cid) ∧
      (s.divertsTo c ctx = none → t.coreAt c = ((s.coreAt c).release gen ph).pend 3) := by
  intro t
  by_cases h : (s.divertsTo c ctx).isSome = true
  · obtain ⟨f, e, hf⟩ := s.releaseMember_saved ctx c gen ph h
    have ht : t = { s with saved := s.saved.map f } := e
    rw [ht]
    exact ⟨rfl, rfl, fun cid => s.divertsTo_map f hf cid ctx, fun _ _ => rfl, fun hn => by rw [hn] at h; cases h⟩
  · have ht : t = s.onCore c fun c => (c.release gen ph).pend 3 := if_neg h
    obtain ⟨os, e⟩ := s.onCore_eq c fun c => (c.release gen ph).pend 3
    refine ⟨by rw [ht, e], by rw [ht, e], fun cid hn => by rw [ht, e]; exact hn, fun cid hc => ?_, fun _ => ?_⟩
    · rw [ht, State.coreAt_onCore, if_neg hc]
    · rw [ht, State.coreAt_onCore, if_pos rfl]

/-- What the release leaves at a core that is not saved: the mark of its interrupt, and its result where it waited. -/
theorem State.releaseHere_spec (ctx : Nat) (gen : BitVec 40) (result : Nat → GendPhase) (cids : List Nat) (s : State) :
    let t := s.releaseHere ctx gen (cids.map fun c => (c, result c))
    t.sce = s.sce ∧ ∀ cid, s.divertsTo cid ctx = none →
      ((s.coreAt cid).trap.ipend.getLsbD 3 = true ∨ (cid ∈ cids ∧ pkgOf cid = s.pkg) →
        (t.coreAt cid).trap.ipend.getLsbD 3 = true) ∧
      ((s.coreAt cid).hasResult gen (result cid) ∨
        ((s.coreAt cid).sce.phase = .closed ∧ cid ∈ cids ∧ pkgOf cid = s.pkg) →
          (t.coreAt cid).hasResult gen (result cid)) := by
  induction cids generalizing s with
  | nil =>
    refine ⟨rfl, fun cid _ => ⟨?_, ?_⟩⟩
    · rintro (h | ⟨h, -⟩)
      · exact h
      · cases h
    · rintro (h | ⟨-, h, -⟩)
      · exact h
      · cases h
  | cons c cids ih =>
    by_cases hc : (pkgOf c == s.pkg) = true
    · obtain ⟨hs, hcid, hd, hne, heq⟩ := s.releaseMember_spec ctx c gen (result c)
      have ht : s.releaseHere ctx gen ((c :: cids).map fun c => (c, result c)) =
          (s.releaseMember ctx c gen (result c)).releaseHere ctx gen (cids.map fun c => (c, result c)) :=
        congrArg (fun u => State.releaseHere u ctx gen (cids.map fun c => (c, result c))) (if_pos hc)
      generalize s.releaseMember ctx c gen (result c) = u at hs hcid hd hne heq ht
      have hpkg : u.pkg = s.pkg := congrArg pkgOf hcid
      obtain ⟨hs', h'⟩ := ih u
      rw [ht]
      refine ⟨hs'.trans hs, fun cid hn => ?_⟩
      obtain ⟨hi, hr⟩ := h' cid (hd cid hn)
      by_cases he : cid = c
      · subst he
        obtain ⟨hp3, hres⟩ := (s.coreAt cid).release_pend gen (result cid)
        rw [← heq hn] at hp3 hres
        exact ⟨fun _ => hi (.inl hp3), fun h => hr (.inl (hres (h.symm.imp And.left id)))⟩
      · rw [← hne cid he, ← hpkg]
        simp only [List.mem_cons, he, false_or]
        exact ⟨hi, hr⟩
    · have ht : s.releaseHere ctx gen ((c :: cids).map fun c => (c, result c)) =
          s.releaseHere ctx gen (cids.map fun c => (c, result c)) :=
        congrArg (fun u => State.releaseHere u ctx gen (cids.map fun c => (c, result c))) (if_neg hc)
      obtain ⟨hs', h'⟩ := ih s
      rw [ht]
      refine ⟨hs', fun cid hn => ?_⟩
      obtain ⟨hi, hr⟩ := h' cid hn
      have hmem : cid ∈ c :: cids ∧ pkgOf cid = s.pkg → cid ∈ cids ∧ pkgOf cid = s.pkg := by
        rintro ⟨hm, hp⟩
        refine ⟨(List.mem_cons.1 hm).resolve_left fun e => hc ?_, hp⟩
        rw [← e]; exact beq_iff_eq.2 hp
      exact ⟨fun h => hi (h.imp id hmem), fun h => hr (h.imp id (And.imp id hmem))⟩

theorem execGenerationRelease_next (s : State) (slot : Nat) (p : Population) (k : Closed) (hi : s.inp = .idx slot)
    (hp : s.population slot = some p) (hc : p.closed = some k) (hl : k.losers.length ≤ k.logged) :
    exec .generationRelease s = .next (s.releaseAll slot p k) := by
  rw [exec_generationRelease, execGenerationRelease, hi]
  simp only [hp, hc, if_neg (Nat.not_lt.2 hl)]

theorem State.releaseAll_spec (s : State) (slot : Nat) (p : Population) (k : Closed) (hp : s.population slot = some p) :
    (s.releaseAll slot p k).population slot = some { p with
        gen := p.gen + 1, lcount := p.lcount + BitVec.ofNat 64 k.logged, replaced := p.replaced + p.l
        arrivals := [], closed := none } ∧
      ∀ m ∈ p.members, pkgOf m.2 = s.pkg → s.divertsTo m.2 p.ctx = none →
        ((s.releaseAll slot p k).coreAt m.2).trap.ipend.getLsbD 3 = true ∧
        ((s.coreAt m.2).sce.phase = .closed → ((s.releaseAll slot p k).coreAt m.2).hasResult (p.gen + 1)
          (p.releaseOf k m.2)) := by
  have hpop := s.population_onPop slot (fun q => { q with
    gen := p.gen + 1, lcount := q.lcount + BitVec.ofNat 64 k.logged, replaced := q.replaced + q.l
    arrivals := [], closed := none }) p hp
  have hres : (p.members.map fun m => (m.2, p.releaseOf k m.2)) =
      ((p.members.map (·.2)).map fun c => (c, p.releaseOf k c)) := by rw [List.map_map]; rfl
  unfold State.releaseAll
  dsimp only
  rw [hres]
  generalize hu : (s.onPop slot fun q => { q with
    gen := p.gen + 1, lcount := q.lcount + BitVec.ofNat 64 k.logged, replaced := q.replaced + q.l
    arrivals := [], closed := none }) = u at hpop
  have hcore (cid : Nat) : u.coreAt cid = s.coreAt cid := by rw [← hu]; rfl
  have hpkg : u.pkg = s.pkg := by rw [← hu]; rfl
  have hdiv (cid ctx : Nat) : u.divertsTo cid ctx = s.divertsTo cid ctx := by rw [← hu]; rfl
  obtain ⟨hsce, h⟩ := State.releaseHere_spec p.ctx (p.gen + 1) (p.releaseOf k) (p.members.map (·.2)) u
  obtain ⟨fb, e⟩ := State.sendSces_eq (fun _ => .sceRelease p.home p.homeSlot (p.gen + 1)
    ((p.members.map (·.2)).map fun c => (c, p.releaseOf k c))) p.packages
    (u.releaseHere p.ctx (p.gen + 1) ((p.members.map (·.2)).map fun c => (c, p.releaseOf k c)))
  rw [e]
  refine ⟨?_, fun m hm hh hd => ?_⟩
  · rw [← hpop]
    exact congrArg (fun sc : Sce => (sc.pops.find? fun p => p.1 == slot).map (·.2)) hsce
  · have hmem : m.2 ∈ p.members.map (·.2) ∧ pkgOf m.2 = u.pkg := ⟨List.mem_map_of_mem hm, hh.trans hpkg.symm⟩
    obtain ⟨hi, hr⟩ := h m.2 ((hdiv _ _).trans hd)
    rw [hcore] at hr
    exact ⟨hi (.inr hmem), fun hcl => hr (.inr ⟨hcl, hmem⟩)⟩

/-! ## The descriptor -/

theorem State.onCoresBy_eq {α : Type} (g : State → α → State) (h : ∀ s a, ∃ c os, g s a = { s with core := c, others := os })
    (l : List α) (s : State) : ∃ c os, l.foldl g s = { s with core := c, others := os } := by
  induction l generalizing s with
  | nil => exact ⟨s.core, s.others, rfl⟩
  | cons a l ih =>
    obtain ⟨c, os, e⟩ := h s a
    obtain ⟨c', os', e'⟩ := ih { s with core := c, others := os }
    exact ⟨c', os', by rw [List.foldl_cons, e, e']⟩

/-- A core as a rewrite of its population leaves it. -/
def Core.entersAs (slot : Nat) (old new : Option Population) (m : Nat × Nat) (c : Core) : Core :=
  let sce := if Population.hasIn old m.2 then c.sce.stay slot m.1 else c.sce.join slot m.1 ((new.map (·.gen)).getD 0)
  { c with sce := sce }

theorem State.rejoin_eq (s : State) (slot : Nat) (old new : Option Population) :
    ∃ c os, s.rejoin slot old new = { s with core := c, others := os } := by
  unfold State.rejoin
  dsimp only
  obtain ⟨c, os, e⟩ := State.onCoresBy_eq (fun s (m : Nat × Nat) =>
    if Population.hasIn new m.2 then s else s.onCore m.2 fun c => { c with sce := c.sce.leave })
    (fun s m => by
      split
      · exact ⟨s.core, s.others, rfl⟩
      · obtain ⟨os, e⟩ := s.onCore_eq m.2 fun c => { c with sce := c.sce.leave }
        exact ⟨_, os, e⟩)
    (((old.map (·.members)).getD []).filter fun m => pkgOf m.2 == s.pkg) s
  rw [e]
  obtain ⟨c', os', e'⟩ := State.onCoresBy_eq (fun s (m : Nat × Nat) => s.onCore m.2 (Core.entersAs slot old new m))
    (fun s m => by
      obtain ⟨os, e⟩ := s.onCore_eq m.2 (Core.entersAs slot old new m)
      exact ⟨_, os, e⟩)
    (((new.map (·.members)).getD []).filter fun m => pkgOf m.2 == s.pkg) { s with core := c, others := os }
  exact ⟨c', os', e'⟩

theorem execPopulationDescriptorWrite_new (s : State) (slot : Nat) (p : Population) (hi : s.inp = .pop slot (some p))
    (hn : s.population slot = none) (hok : s.popOk slot p = true) :
    ∃ t, exec .populationDescriptorWrite s = .next t ∧ t.population slot = some { p with
      gen := 0, lcount := 0, replaced := 0, arrivals := [], closed := none, away := [], told := [], held := false } := by
  generalize hp' : ({ p with
    gen := 0, lcount := 0, replaced := 0, arrivals := [], closed := none, away := [], told := [], held := false } :
    Population) = p'
  have hexec : exec .populationDescriptorWrite s = .next (({ s with sce := { s.sce with
      pops := (s.sce.pops.filter fun x => x.1 != slot) ++ [(slot, p')] } } : State).rejoin slot none (some p')) := by
    rw [← hp', exec_populationDescriptorWrite, execPopulationDescriptorWrite]
    split
    · next j new hj =>
      obtain ⟨rfl, rfl⟩ : slot = j ∧ some p = new := by rw [hi] at hj; injection hj with h h'; exact ⟨h, h'⟩
      simp only [hn, hok, Option.all_none, Bool.not_true, Bool.false_eq_true, if_false, Option.map_none, Option.getD_none]
    · next hj => exact absurd hi (hj _ _)
  refine ⟨_, hexec, ?_⟩
  obtain ⟨c, os, e⟩ := State.rejoin_eq { s with sce := { s.sce with
    pops := (s.sce.pops.filter fun x => x.1 != slot) ++ [(slot, p')] } } slot none (some p')
  have hf : (s.sce.pops.filter fun x => x.1 != slot).find? (fun x => x.1 == slot) = none :=
    List.find?_eq_none.2 fun x hx => by simpa using (List.mem_filter.1 hx).2
  rw [e]
  unfold State.population
  dsimp only
  rw [List.find?_append, hf]
  simp

/-- Settles O47, step by step: the arrivals and the close change the descriptor and the members' phases; a piece of a copy
lands as it was read; and the release ends each wait with the member's own result. -/
theorem generationsCloseAndRelease : Obligations.GenerationsCloseAndRelease := by
  unfold Obligations.GenerationsCloseAndRelease
  refine ⟨execSceArrival_arrive, fun s slot p hi hp hh hc ha hall => ?close, execSceLoserCopy_ask,
    fun s i a b n x p hi hx hp hw hlt hg hxf hh hr hrw hb hap harm hports => ?copy,
    fun s slot p k hi hp hc hl => ?release, execPopulationDescriptorWrite_new⟩
  case close =>
    obtain ⟨hpop, hphase⟩ := s.closeGeneration_spec slot p hp
    refine ⟨_, _, execGenerationClose_next s slot p hi hp hh hc ha hall, hpop, rfl, p.losers_length _, p.ranking_length,
      p.ranking_mem, fun m hm hpk hph => hphase m.2 ?_ hpk hph⟩
    obtain ⟨a, hmem, hcid⟩ := hall m hm
    exact List.mem_map.2 ⟨a, hmem, hcid⟩
  case copy =>
    have hpos : 0 < min (4096 - x.pos % 4096) (p.gl - x.pos) := by omega
    have hk := s.pieceCut_spec 0 hpos
    obtain ⟨hs, l, e⟩ := s.runJob_here x n p hp hw hlt hg hxf hh hr hrw hb hap harm hports
    have hsteps := State.stepJob_spec (({ s with host := hs } : State).land false x.l.cid
      ((s.coreAt x.l.cid).sce.gbase.toNat + x.pos) ((s.coreAt x.l.winner).ls.readBytes
        ((s.coreAt x.l.winner).sce.gbase.toNat + x.pos) (s.jobStep x p))) { x with l := l } p.gl (s.jobStep x p)
    obtain ⟨sc, fb, hstep, hjobs⟩ := hsteps
    refine ⟨hk.1, by omega, _, execSceLoserCopy_job s i a b x hi hx, ?_, fun hend => ?_⟩
    · rw [e, hstep]
      exact (State.land_ls _ false x.l.cid _ _ x.l.cid).trans (if_pos rfl)
    · rw [e, hstep]
      exact fun y hy => (SceJob.same_congr ⟨rfl, rfl, rfl, rfl⟩ y).trans (hjobs (Nat.le_of_eq hend.symm) y hy)
  case release =>
    obtain ⟨hpop, hmembers⟩ := s.releaseAll_spec slot p k hp
    exact ⟨_, execGenerationRelease_next s slot p k hi hp hc hl, hpop, hmembers⟩

end Sys2Proof.Machine
end

section
/-! PROOF. The hub's launch queues: continuations, templates, overflow records and submissions (R206 to R215, R403). -/

namespace Sys2Proof.Machine

/-! ## A member leaves its clause -/

/-- Two cores that differ at most in what the SCE, the worklist and the barriers keep of them. -/
def Core.ServiceOnly (c d : Core) : Prop := ∃ sc wl bs, d = { c with sce := sc, wl := wl, bars := bs }

theorem Core.ServiceOnly.refl (c : Core) : c.ServiceOnly c := ⟨c.sce, c.wl, c.bars, rfl⟩

theorem Core.ServiceOnly.trans {c d e : Core} (h : c.ServiceOnly d) (h' : d.ServiceOnly e) : c.ServiceOnly e := by
  obtain ⟨a, b, x, rfl⟩ := h
  obtain ⟨a', b', x', rfl⟩ := h'
  exact ⟨a', b', x', rfl⟩

/-- Two states whose cores differ in that way, and whose hubs in their binds. -/
def State.ServiceOnly (s t : State) : Prop :=
  t.hub.entries = s.hub.entries ∧ t.hub.pending = s.hub.pending ∧ t.hub.queues = s.hub.queues ∧ t.cid = s.cid ∧
    t.now = s.now ∧ ∀ j, (s.coreAt j).ServiceOnly (t.coreAt j)

theorem State.ServiceOnly.refl (s : State) : s.ServiceOnly s := ⟨rfl, rfl, rfl, rfl, rfl, fun _ => .refl _⟩

theorem State.ServiceOnly.trans {s t u : State} (h : s.ServiceOnly t) (h' : t.ServiceOnly u) : s.ServiceOnly u := by
  obtain ⟨a, b, c, d, e, f⟩ := h
  obtain ⟨a', b', c', d', e', f'⟩ := h'
  exact ⟨a'.trans a, b'.trans b, c'.trans c, d'.trans d, e'.trans e, fun j => (f j).trans (f' j)⟩

theorem State.onCore_service (s : State) (cid : Nat) (f : Core → Core) (hf : ∀ c : Core, c.ServiceOnly (f c)) :
    s.ServiceOnly (s.onCore cid f) := by
  obtain ⟨os, e⟩ := s.onCore_eq cid f
  refine ⟨by rw [e], by rw [e], by rw [e], by rw [e], by rw [e], fun j => ?_⟩
  rw [State.coreAt_onCore]
  split
  · next h => rw [h]; exact hf _
  · exact .refl _

theorem State.withdrawAt_service (s : State) (cid : Nat) : s.ServiceOnly (s.withdrawAt cid) := by
  have h := s.onCore_service cid (fun c => { c with sce := { c.sce with phase := .none } }) fun c => ⟨_, c.wl, c.bars, rfl⟩
  unfold State.withdrawAt
  dsimp only
  generalize s.onCore cid (fun c => { c with sce := { c.sce with phase := .none } }) = u at h ⊢
  split
  · split
    · exact h
    · cases ht : u.tellSce (s.coreAt cid).sce.pop.toNat ⟨cid, 0, 0⟩ .withdraw with
      | none => exact h
      | some t => obtain ⟨sc, fb, rfl⟩ := State.tellSce_eq ht; exact h
  · exact .refl s

theorem State.retireTask_service (s : State) (cid : Nat) : s.ServiceOnly (s.retireTask cid) := by
  unfold State.retireTask
  split
  · exact .refl s
  · exact s.onCore_service cid (fun c => { c with wl := { c.wl with running := none } }) fun c => ⟨c.sce, _, c.bars, rfl⟩

theorem State.dropBar_service (s : State) (b : BarState) : s.ServiceOnly (s.dropBar b) := by
  have go (l : List Nat) (u : State) : u.ServiceOnly
      (l.foldl (fun s cid => s.onCore cid fun c => { c with bars := c.bars.filter fun a => a.inst != b.inst }) u) := by
    induction l generalizing u with
    | nil => exact .refl u
    | cons c l ih => exact (u.onCore_service c _ fun c => ⟨c.sce, c.wl, _, rfl⟩).trans (ih _)
  exact go b.arrived s

theorem State.endClauseBars_service (s : State) (clause : Nat) : s.ServiceOnly (s.endClauseBars clause) := by
  unfold State.endClauseBars
  generalize s.bars.filter _ = l
  induction l generalizing s with
  | nil => exact .refl s
  | cons b l ih => exact (s.dropBar_service b).trans (ih _)

theorem State.memberGone_service (s : State) (clause cid : Nat) : s.ServiceOnly (s.memberGone clause cid) := by
  have h (f : Hub → Hub) (he : (f s.hub).entries = s.hub.entries ∧ (f s.hub).pending = s.hub.pending ∧
      (f s.hub).queues = s.hub.queues) : s.ServiceOnly (s.onHub f) := ⟨he.1, he.2.1, he.2.2, rfl, rfl, fun _ => .refl _⟩
  unfold State.memberGone
  dsimp only
  split
  · exact (h _ ⟨rfl, rfl, rfl⟩).trans (State.endClauseBars_service _ _)
  · exact h _ ⟨rfl, rfl, rfl⟩

/-- A core in IDLE, or halted where a halt is pending. -/
def Core.idled (c : Core) (now : Nat) : Core :=
  let d := { c.toIdle with sce := { c.sce with phase := .none } }
  if d.haltReq then d.halt now else d

theorem State.leave_eq (s : State) (cid : Nat) : ∃ v : State, s.ServiceOnly v ∧
    s.leave cid = v.onCore cid fun c => c.idled v.now := by
  have h := (s.withdrawAt_service cid).trans (State.retireTask_service _ cid)
  cases hb : ((s.withdrawAt cid).retireTask cid).bindOf cid with
  | none =>
    refine ⟨_, h, ?_⟩
    unfold State.leave
    dsimp only
    rw [hb]
    rfl
  | some b =>
    refine ⟨_, h.trans (State.memberGone_service _ b.clause cid), ?_⟩
    unfold State.leave
    dsimp only
    rw [hb]
    rfl

theorem Core.idled_fields (c : Core) (now : Nat) : (c.idled now).run = c.leavesFor ∧ (c.idled now).pc = c.pc ∧
    (c.idled now).regs = c.regs ∧ (c.idled now).ls = c.ls := by
  have hreq : ({ c.toIdle with sce := { c.sce with phase := .none } } : Core).haltReq = c.haltReq := rfl
  unfold Core.idled Core.leavesFor
  dsimp only
  cases h : c.haltReq
  · rw [if_neg (by simp [Core.toIdle, h]), if_neg Bool.false_ne_true]
    exact ⟨rfl, rfl, rfl, rfl⟩
  · rw [if_pos (by simp [Core.toIdle, h]), if_pos rfl]
    exact ⟨rfl, rfl, rfl, rfl⟩

/-- A core that leaves its clause stands in IDLE, or halted where a halt is pending. -/
theorem State.leave_spec (s : State) (cid : Nat) :
    (s.leave cid).hub.entries = s.hub.entries ∧ (s.leave cid).hub.pending = s.hub.pending ∧
      (s.leave cid).hub.queues = s.hub.queues ∧
      ((s.leave cid).coreAt cid).run = (s.coreAt cid).leavesFor ∧ ((s.leave cid).coreAt cid).pc = (s.coreAt cid).pc ∧
      ((s.leave cid).coreAt cid).regs = (s.coreAt cid).regs ∧ ((s.leave cid).coreAt cid).ls = (s.coreAt cid).ls := by
  obtain ⟨v, ⟨he, hp, hq, -, -, hc⟩, e⟩ := s.leave_eq cid
  obtain ⟨sc, wl, bs, hv⟩ := hc cid
  obtain ⟨hrun, hpc, hregs, hls⟩ := (v.coreAt cid).idled_fields v.now
  obtain ⟨os, ho⟩ := v.onCore_eq cid fun c => c.idled v.now
  have hcore : (s.leave cid).coreAt cid = (v.coreAt cid).idled v.now := by rw [e, State.coreAt_onCore, if_pos rfl]
  have hhub : (s.leave cid).hub = v.hub := by rw [e, ho]
  rw [hcore, hhub, hrun, hpc, hregs, hls, hv]
  exact ⟨he, hp, hq, rfl, rfl, rfl, rfl⟩

/-- The `exit` of a core retires, and the core leaves its clause. -/
theorem State.finishExit_spec (s : State) (cid : Nat) :
    (s.finishExit cid).hub.entries = s.hub.entries ∧ (s.finishExit cid).hub.pending = s.hub.pending ∧
      ((s.finishExit cid).coreAt cid).run = (s.coreAt cid).leavesFor ∧
      ((s.finishExit cid).coreAt cid).pc = (s.coreAt cid).pc + 8 ∧
      ((s.finishExit cid).coreAt cid).regs = (s.coreAt cid).regs ∧
      ((s.finishExit cid).coreAt cid).ls = (s.coreAt cid).ls := by
  obtain ⟨he, hp, -, hrun, hpc, hregs, hls⟩ := (s.onCore cid fun c => c.retire 8).leave_spec cid
  obtain ⟨os, e⟩ := s.onCore_eq cid fun c => c.retire 8
  have hhub : (s.onCore cid fun c => c.retire 8).hub = s.hub := by rw [e]
  have hcore : (s.onCore cid fun c => c.retire 8).coreAt cid = (s.coreAt cid).retire 8 := by
    rw [State.coreAt_onCore, if_pos rfl]
  rw [hcore] at hrun hpc hregs hls
  rw [hhub] at he hp
  refine ⟨he, hp, hrun.trans ?_, hpc.trans ?_, hregs.trans ?_, hls.trans ?_⟩
  · unfold Core.leavesFor Core.retire; rw [Core.retireTo_haltReq]
  · unfold Core.retire; rw [Core.retireTo_pc]; rfl
  · unfold Core.retire; rw [Core.retireTo_regs]
  · unfold Core.retire; rw [Core.retireTo_ls]

/-! ## Continuations -/

theorem State.setPlaced_eq (s : State) (h : Hub) (ov : List (Nat × Cont)) :
    ∃ g, s.setPlaced h ov = { s with hub := h, gmem := g } := by
  have go (l : List (Nat × Cont)) (u : State) : ∃ g, l.foldl (fun s (x : Nat × Cont) =>
      s.pokeRecord ((h.queue x.2.queue).owner.getD 0) ((h.queue x.2.queue).recordVa x.1) x.2.record) u =
        { u with gmem := g } := by
    induction l generalizing u with
    | nil => exact ⟨u.gmem, rfl⟩
    | cons x l ih =>
      obtain ⟨g, e⟩ := u.pokeRecord_eq ((h.queue x.2.queue).owner.getD 0) ((h.queue x.2.queue).recordVa x.1) x.2.record
      obtain ⟨g', e'⟩ := ih { u with gmem := g }
      exact ⟨g', by rw [List.foldl_cons, e, e']⟩
  exact go ov { s with hub := h }

/-- The hub without the group that it takes or refuses. -/
def Hub.without (h : Hub) (k : Nat) : Hub := { h with groups := h.groups.eraseIdx k }

/-- The answer to an `exit` that the hub refuses. -/
def State.refuseExit (s : State) (k cid cause : Nat) (tval : Word) : State :=
  (s.onHub fun h => h.without k).onCore cid fun c => { c with hubWait := .exitRefused cause tval, run := .run }

theorem execContinuationArrival_eq (s : State) (k : Nat) (g : ExitGroup) (hi : s.inp = .idx k)
    (hg : s.hub.groups[k]? = some g) : exec .continuationArrival s =
      match s.hub.refusedContext g with
      | some i => .next (s.refuseExit k g.cid causePriv (g.addr + BitVec.ofNat 64 (32 * i)))
      | none =>
        match (s.hub.without k).placeAll g.conts with
        | .error q => .next (s.refuseExit k g.cid causeLaunchFull (BitVec.ofNat 64 q))
        | .ok (h, ov) => .next (((s.onHub fun h => h.without k).setPlaced h ov).finishExit g.cid) := by
  rw [exec_continuationArrival, execContinuationArrival]
  split
  · next j hj =>
    obtain rfl : k = j := by rw [hi] at hj; injection hj
    simp only [hg]
    rfl
  · next hj => exact absurd hi (hj k)

theorem State.refuseExit_spec (s : State) (k cid cause : Nat) (tval : Word) :
    (s.refuseExit k cid cause tval).hub = s.hub.without k ∧ ((s.refuseExit k cid cause tval).coreAt cid).run = .run ∧
      ((s.refuseExit k cid cause tval).coreAt cid).hubWait = .exitRefused cause tval := by
  unfold State.refuseExit
  rw [State.coreAt_onCore, if_pos rfl, (State.onCore_eq _ cid _).choose_spec]
  exact ⟨rfl, rfl, rfl⟩

theorem Hub.refusedContext_none (h : Hub) (g : ExitGroup) (hall : ∀ x ∈ g.conts, (h.queue x.queue).owner = some g.ctx) :
    h.refusedContext g = none := by
  rw [Hub.refusedContext, List.findIdx?_eq_none_iff]
  intro x hx
  simp [hall x hx]

/-! ## Arrivals, one at a time -/

theorem Hub.handle_pending (h : Hub) (k : Cont) : (h.handle k).pending = h.pending := by
  unfold Hub.handle; split <;> rfl

theorem Hub.settle_idle (h : Hub) (hd : h.handled ≠ none ∨ h.pending = []) : h.settle = h := by
  unfold Hub.settle
  cases hp : h.pending with
  | nil => rfl
  | cons k rest =>
    obtain hd | hd := hd
    · obtain ⟨e, he⟩ := Option.ne_none_iff_exists'.1 hd
      rw [List.length_cons, Hub.settleFrom]
      simp only [he]
    · rw [hp] at hd; cases hd

theorem Hub.settle_next (h : Hub) (k : Cont) (rest : List Cont) (hd : h.handled = none) (hp : h.pending = k :: rest) :
    h.settle = (({ h with pending := rest } : Hub).handle k).settle := by
  unfold Hub.settle
  rw [hp, List.length_cons, Hub.settleFrom, Hub.handle_pending]
  simp only [hd, hp]

theorem LaunchEntry.merge_eq (e : LaunchEntry) (k : Cont) (join : Nat) : e.merge k join = { e with
    count := e.count + 1
    lowcid := min e.lowcid k.sender
    arg0 := if k.sender < e.lowcid then k.arg0 else e.arg0
    arg1 := if k.sender < e.lowcid then k.arg1 else e.arg1
    state := if e.count + 1 = join then .joined else .open_ join } := by
  unfold LaunchEntry.merge
  simp only [beq_iff_eq]
  by_cases h : k.sender < e.lowcid
  · simp only [if_pos h, Nat.min_eq_right (Nat.le_of_lt h)]
  · simp only [if_neg h, Nat.min_eq_left (Nat.le_of_not_lt h)]

theorem Hub.onEntry_eq (h : Hub) (id : Nat) (f : LaunchEntry → LaunchEntry) :
    h.onEntry id f = { h with entries := h.entries.map fun x => if x.id = id then f x else x } := by
  unfold Hub.onEntry
  simp only [beq_iff_eq]

theorem Hub.handle_merge (h : Hub) (k : Cont) (e : LaunchEntry) (ho : h.openFor k = some e) :
    h.handle k = { h with entries := h.entries.map fun x => if x.id = e.id then { x with
        count := x.count + 1
        lowcid := min x.lowcid k.sender
        arg0 := if k.sender < x.lowcid then k.arg0 else x.arg0
        arg1 := if k.sender < x.lowcid then k.arg1 else x.arg1
        state := if x.count + 1 = x.openJoin.getD 0 then .joined else .open_ (x.openJoin.getD 0) } else x } := by
  unfold Hub.handle
  simp only [ho, Hub.onEntry_eq, LaunchEntry.merge_eq]

theorem Hub.handle_open (h : Hub) (k : Cont) (ho : h.openFor k = none) : h.handle k = h.openEntry k := by
  unfold Hub.handle
  simp only [ho]

/-! ## Templates -/

theorem Hub.readingEntry_id {h : Hub} {id : Nat} {e : LaunchEntry} (he : h.readingEntry id = some e) : e.id = id := by
  obtain ⟨-, hid⟩ := Option.filter_eq_some_iff.1 he
  exact beq_iff_eq.1 hid

/-- A template that can be read, with the tokens for it. -/
theorem execTemplateRead_done (s : State) (id : Nat) (e : LaunchEntry) (g : Gmem) (bs : List Byte) (hi : s.inp = .idx id)
    (he : s.hub.readingEntry id = some e) (hr : s.readGlobal e.ctx e.clrec.toNat 64 = .done g bs)
    (hc : (s.charge (s.readPorts e.ctx e.clrec.toNat hubDie) e.ctx (s.gmem.costAt e.ctx e.clrec.toNat)).isSome = true) :
    ∃ hs, exec .templateRead s =
      match e.state with
      | .reading => .next ({ s with host := hs, gmem := g, hub := s.hub.openWith e (fieldOf (ofBytesLE bs) 352 16) })
      | _ => .next ({ s with host := hs, gmem := g, hub := s.hub.checkRecord e (ofBytesLE bs) s.hubNow }) := by
  obtain ⟨t, ht⟩ := Option.isSome_iff_exists.1 hc
  obtain ⟨hs, rfl⟩ := State.charge_some ht
  refine ⟨hs, ?_⟩
  rw [exec_templateRead, execTemplateRead]
  split
  · next j hj =>
    obtain rfl : id = j := by rw [hi] at hj; injection hj
    rw [readTemplate]
    simp only [he, hr, ht]
    rfl
  · next hj => rw [hi] at hj; cases hj
  · next hj _ => exact absurd hi (hj id)

theorem Hub.makeReady_eq (h : Hub) (e : LaunchEntry) (r : ClauseRec) (now : Nat) : h.makeReady e r now = ({ h with
    nextId := h.nextId + 1
    entries := h.entries.map fun x => if x.id = e.id then { x with id := h.nextId, state := .ready r now } else x } :
    Hub).settle := by
  unfold Hub.makeReady
  rw [Hub.onEntry_eq]

theorem Hub.checkRecord_legal (h : Hub) (e : LaunchEntry) (x now : Nat)
    (hf : recordFault x e.host (h.queue e.queue).owner = none) :
    h.checkRecord e x now = h.makeReady e (ClauseRec.parse x) now := by
  unfold Hub.checkRecord
  rw [hf]

theorem Hub.openWith_eq (h : Hub) (e : LaunchEntry) (n : Nat) (hn : n ≠ 0) : h.openWith e n = ({ h with
    entries := h.entries.map fun x => if x.id = e.id then { x with state := if n = 1 then .joined else .open_ n } else x } :
    Hub).settle := by
  unfold Hub.openWith
  rw [if_neg (by simpa using hn), Hub.onEntry_eq]
  simp only [beq_iff_eq]

/-! ## Queues -/

theorem Hub.queue_onQueue (h : Hub) (q : Nat) (f : LaunchQueue → LaunchQueue) (hq : q < 64) :
    (h.onQueue q f).queue q = f (h.queue q) := by
  unfold Hub.onQueue Hub.queue
  rw [dif_pos hq]
  simp only [Vector.toList_set, List.getD_eq_getElem?_getD]
  rw [List.getElem?_set_self (by simpa using hq), Option.getD_some]
  congr 1
  rw [List.getElem?_eq_getElem (by simpa using hq)]
  simp [Vector.get]

theorem Hub.onQueue_eq (h : Hub) (q : Nat) (f : LaunchQueue → LaunchQueue) :
    ∃ qs, h.onQueue q f = { h with queues := qs } := by
  unfold Hub.onQueue
  split
  · exact ⟨_, rfl⟩
  · exact ⟨h.queues, rfl⟩

/-- An overflow record that is read back, of the queue and its context, arrives. -/
theorem State.serveOverflow_done (s : State) (k : Nat) (refuse : Bool) (g : Gmem) (bs : List Byte) (c : Cont)
    (hw : s.gmem.unwritten ((s.hub.queue k).owner.getD 0)
      ((s.hub.queue k).recordVa ((s.hub.queue k).ovNext - (s.hub.queue k).ovCount)) 64 = false)
    (hr : s.readGlobal ((s.hub.queue k).owner.getD 0)
      ((s.hub.queue k).recordVa ((s.hub.queue k).ovNext - (s.hub.queue k).ovCount)) 64 = .done g bs)
    (hp : Cont.parse bs = some c) (hq : c.queue = k) (hc : c.ctx = (s.hub.queue k).owner.getD 0) :
    s.serveOverflow k refuse = { s with
      gmem := g, hub := (s.hub.onQueue k fun x => { x with ovCount := x.ovCount - 1 }).arrive c } := by
  unfold State.serveOverflow
  simp only [hw, hr, hp, hq, hc, Option.filter_some, beq_self_eq_true, Bool.and_self, if_true, Bool.false_eq_true, if_false]
  rfl

theorem execOverflowDrain_region (s : State) (k : Nat) (hi : s.inp = .none) (hn : s.hub.nextSource = some k) (hk : k < 64) :
    exec .overflowDrain s =
      .next (({ s with hub := { s.hub with turn := (k + 1) % 128 } } : State).serveOverflow k false) := by
  have hserve (refuse : Bool) (h : refuse = false) : s.serveSource k refuse =
      ({ s with hub := { s.hub with turn := (k + 1) % 128 } } : State).serveOverflow k false := by
    rw [h]; exact if_pos hk
  rw [exec_overflowDrain, execOverflowDrain]
  simp only [hn]
  exact congrArg Host.Outcome.next (hserve _ (by rw [hi]))

theorem execSubmissionConsume_page (s : State) (q : Nat) (hn : s.hub.nextSource = some (64 + q)) : exec .submissionConsume s =
    .next { s with hub := ({ s.hub with turn := (64 + q + 1) % 128 } : Hub).submitNext q s.hubNow } := by
  rw [exec_submissionConsume, execSubmissionConsume]
  simp only [hn]
  rw [if_pos (Nat.le_add_right 64 q)]
  unfold State.serveSource
  rw [if_neg (by omega), Nat.add_sub_cancel_left]
  rfl

/-- A submitted record of a queue that is not frozen. -/
theorem Hub.submitNext_legal (h : Hub) (q now : Nat) (hq : q < 64) (hfr : (h.queue q).frozen = false)
    (hf : recordFault ((h.queue q).slots.toList.getD ((h.queue q).cons % 63) 0).toNat true (h.queue q).owner = none) :
    h.submitNext q now = ({ h.onQueue q fun x => { x with cons := (x.cons + 1) % 4032 } with
      nextId := h.nextId + 2
      entries := (h.entries ++ [(⟨h.nextId, (h.queue q).owner.getD 0, q, 0, 0, 1, 0, 0, 0, true, .joined⟩ :
        LaunchEntry)]).map fun x : LaunchEntry => if x.id = h.nextId then { x with
          id := h.nextId + 1
          state := .ready
            (ClauseRec.parse ((h.queue q).slots.toList.getD ((h.queue q).cons % 63) 0).toNat) now } else x } : Hub).settle := by
  have hqueue := h.queue_onQueue q (fun x => { x with cons := (x.cons + 1) % 4032 }) hq
  unfold Hub.submitNext
  simp only [hfr, Bool.false_eq_true, if_false]
  obtain ⟨qs, e⟩ := h.onQueue_eq q fun x => { x with cons := (x.cons + 1) % 4032 }
  rw [e] at hqueue ⊢
  have howner : (Hub.queue { h with queues := qs } q).owner = (h.queue q).owner := by rw [hqueue]
  rw [Hub.checkRecord_legal _ _ _ _ (howner.symm ▸ hf), Hub.makeReady_eq]

theorem execProducerIndexWrite_eq (s : State) (q prod : Nat) (hi : s.inp = .submit q prod []) (hr : s.host.ready = true)
    (hq : q < 64) : ∃ h, (h.queue q = s.hub.queue q) ∧ exec .producerIndexWrite s =
      if 4032 ≤ prod || 63 < (prod + 4032 - (s.hub.queue q).cons) % 4032 then
        .next { s with hub := h, host := { s.host with suberr := true } }
      else .next { s with hub := h.onQueue q fun x => { x with prod := prod } } := by
  refine ⟨s.hub.onQueue q fun x => x, s.hub.queue_onQueue q (fun x => x) hq, ?_⟩
  have hcons := congrArg LaunchQueue.cons (s.hub.queue_onQueue q (fun x => x) hq)
  have hready : (!s.host.ready || decide (64 ≤ q)) = false := by simp [hr, hq]
  rw [exec_producerIndexWrite, execProducerIndexWrite]
  split
  · next j p slots hj =>
    obtain ⟨rfl, rfl, rfl⟩ : q = j ∧ prod = p ∧ slots = [] := by
      rw [hi] at hj; injection hj with h1 h2 h3; exact ⟨h1, h2, h3.symm⟩
    simp only [hready, Bool.false_eq_true, if_false, List.foldl_nil, State.onHub]
    rw [← hcons]
    rfl
  · next hj => exact absurd hi (hj _ _ _)

/-- Settles O48, step by step: a group is placed whole or refused, arrivals are handled in turn, and a queue is changed
alone. -/
theorem launchQueuesServeTheirEntries : Obligations.LaunchQueuesServeTheirEntries := by
  unfold Obligations.LaunchQueuesServeTheirEntries
  refine ⟨fun s k g h hi hg hall ov hp => ?placed, fun s k i g hi hg hr => ?context, fun s k q g hi hg hr hp => ?full,
    fun h => ⟨h.settle_idle, h.settle_next⟩, fun h k => ⟨fun e n ho _ => h.handle_merge k e ho, h.handle_open k⟩,
    fun s id e g bs hi he hr hc => ?template, fun s k g bs c hi hn hk hw hr hp hq hc => ?overflow,
    fun s q hn hq hfr hf => ?submission, fun s q prod hi hr hq => ?producer, fun s q hi hq => ?thaw,
    fun s q d hi hq => ?descriptor, fun s q prio since e r hi hh hw hl => ?qwait⟩
  case placed =>
    have hp' : (s.hub.without k).placeAll g.conts = .ok (h, ov) := hp
    obtain ⟨gm, e⟩ := (s.onHub fun h => h.without k).setPlaced_eq h ov
    rw [execContinuationArrival_eq s k g hi hg, s.hub.refusedContext_none g hall]
    simp only [hp']
    refine ⟨_, rfl, ?_⟩
    rw [e]
    exact State.finishExit_spec _ g.cid
  case context =>
    rw [execContinuationArrival_eq s k g hi hg, hr]
    obtain ⟨hh, hrun, hwait⟩ := s.refuseExit_spec k g.cid causePriv (g.addr + BitVec.ofNat 64 (32 * i))
    exact ⟨_, rfl, by rw [hh]; rfl, hrun, hwait⟩
  case full =>
    have hp' : (s.hub.without k).placeAll g.conts = .error q := hp
    rw [execContinuationArrival_eq s k g hi hg, hr]
    simp only [hp']
    exact ⟨_, rfl, s.refuseExit_spec k g.cid causeLaunchFull (BitVec.ofNat 64 q)⟩
  case template =>
    have hid := Hub.readingEntry_id he
    obtain ⟨hs, hexec⟩ := execTemplateRead_done s id e g bs hi he hr hc
    refine ⟨fun hst hf => ?_, fun hst hn => ?_⟩
    · have hx : exec .templateRead s =
          .next ({ s with host := hs, gmem := g, hub := s.hub.checkRecord e (ofBytesLE bs) s.hubNow }) := by
        rw [hexec]
        split
        · next h => exact absurd h hst
        · rfl
      rw [hx, Hub.checkRecord_legal _ _ _ _ hf, Hub.makeReady_eq, hid]
      exact ⟨_, rfl, rfl, rfl⟩
    · rw [hexec, hst]
      simp only []
      rw [Hub.openWith_eq _ _ _ hn, hid]
      exact ⟨_, rfl, rfl, rfl⟩
  case overflow =>
    rw [execOverflowDrain_region s k hi hn hk]
    rw [State.serveOverflow_done { s with hub := { s.hub with turn := (k + 1) % 128 } } k false g bs c hw hr hp hq hc]
    exact ⟨_, rfl, rfl, rfl, rfl⟩
  case submission =>
    rw [execSubmissionConsume_page s q hn, Hub.submitNext_legal { s.hub with turn := (64 + q + 1) % 128 } q s.hubNow hq hfr hf]
    refine ⟨_, rfl, rfl, ?_⟩
    unfold Hub.onQueue
    simp only [dif_pos hq]
    rfl
  case producer =>
    obtain ⟨h, hqueue, hexec⟩ := execProducerIndexWrite_eq s q prod hi hr hq
    refine ⟨fun hp hle => ?_, fun hp => ?_⟩
    · rw [hexec, if_neg (by simp; omega)]
      exact ⟨_, rfl, congrArg LaunchQueue.prod (h.queue_onQueue q _ hq), rfl⟩
    · rw [hexec, if_pos (by simp [hp])]
      exact ⟨_, rfl, rfl, congrArg LaunchQueue.prod hqueue⟩
  case thaw =>
    rw [exec_queueThaw, execQueueThaw, hi]
    refine ⟨_, rfl, ?_⟩
    have hqueue := s.hub.queue_onQueue q
      (fun x => { x with frozen := false, cancelled := 0, fault := none, faultsLater := 0 }) hq
    obtain ⟨qs, e⟩ := s.hub.onQueue_eq q fun x => { x with frozen := false, cancelled := 0, fault := none, faultsLater := 0 }
    simp only [State.onHub]
    rw [hqueue]
    exact ⟨rfl, rfl, rfl, rfl, by rw [e]⟩
  case descriptor =>
    rw [exec_queueDescriptorWrite, execQueueDescriptorWrite, hi]
    refine ⟨_, rfl, ?_⟩
    simp only [State.onHub]
    rw [s.hub.queue_onQueue q _ hq]
    exact ⟨rfl, rfl, rfl, rfl, rfl, rfl, rfl, rfl⟩
  case qwait =>
    rw [exec_qwaitExpiry, execQwaitExpiry, hi]
    have hdue : ((s.hub.queue q).qwait != 0 && decide (since + (s.hub.queue q).qwait < s.hubNow)) = true := by
      simp [hw, hl]
    simp only [hh, hdue, if_true]
    refine ⟨_, rfl, rfl, ?_⟩
    simp only [State.firmwareIrq, State.onHub, Hub.headFrom, hh, Hub.onEntry]

end Sys2Proof.Machine
end

section
/-! PROOF. Binds, starts, and the bind watchdog (R204, R216 to R221, R427). -/

namespace Sys2Proof.Machine

/-! ## Binds -/

theorem Hub.headFrom_frame (h : Hub) (q prio now : Nat) :
    (h.headFrom q prio now).binds = h.binds ∧ (h.headFrom q prio now).queues = h.queues := by
  unfold Hub.headFrom
  split <;> exact ⟨rfl, rfl⟩

theorem Hub.queue_congr {h h' : Hub} (e : h.queues = h'.queues) (q : Nat) : h.queue q = h'.queue q := by
  unfold Hub.queue; rw [e]

/-- The bind of a ready entry at a place. -/
def State.bindTo (s : State) (q cluster org : Nat) (e : LaunchEntry) (r : ClauseRec) (ms : List GangMember) : Bind :=
  ⟨e, r, (s.hub.queue q).lseq, cluster, if r.kind == 7 then 0 else org, ms, false, false⟩

theorem execBindRecord_free (s : State) (q prio cluster org since : Nat) (e : LaunchEntry) (r : ClauseRec)
    (ms : List GangMember) (hi : s.inp = .bind q prio cluster org) (hq : q < 64)
    (hh : s.hub.head q prio = some (e, r, since)) (hp : placement s.pkg r cluster org = some ms)
    (hf : (s.hub.queue q).frozen = false) (hm : ∀ m ∈ ms, s.reserved m.cid = false) :
    ∃ t, exec .bindRecord s = .next t ∧ t.hub.binds = s.hub.binds ++ [s.bindTo q cluster org e r ms] ∧
      (t.hub.queue q).lseq = (s.hub.queue q).lseq + 1 := by
  have hnone : (ms.any fun m => s.reserved m.cid) = false := by
    refine List.any_eq_false.2 fun m hmem => ?_
    rw [hm m hmem]; exact Bool.false_ne_true
  rw [exec_bindRecord, execBindRecord, hi]
  simp only [hh, hp, hf, hnone, Bool.or_false, Bool.false_eq_true, if_false]
  refine ⟨_, rfl, ?_, ?_⟩
  · simp only [State.onHub]
    rw [(Hub.headFrom_frame _ q prio s.hubNow).1]
    obtain ⟨qs, eq⟩ := (s.hub.dropEntry e.id).onQueue_eq q fun x => { x with lseq := x.lseq + 1 }
    rw [eq]
    rfl
  · simp only [State.onHub]
    rw [Hub.queue_congr (Hub.headFrom_frame _ q prio s.hubNow).2]
    exact congrArg LaunchQueue.lseq ((s.hub.dropEntry e.id).queue_onQueue q _ hq)

/-! ## Loads and starts -/

theorem execClauseLoadDone_done (s t : State) (k : Nat) (b : Bind) (ms : List GangMember) (hi : s.inp = .idx k)
    (hb : s.hub.binds[k]? = some b) (hr : s.host.ready = true) (ht : s.host.tripped = false) (hs : b.started = false)
    (hm : ∀ m ∈ b.members, (s.coreAt m.cid).run = .idle) (hl : s.loadAll b false = (t, ms))
    (hd : ∀ m ∈ ms, m.load = .done) : exec .clauseLoadDone s = .next (t.startGang b) := by
  have hidle : (b.members.any fun m => (s.coreAt m.cid).run != .idle) = false := by
    refine List.any_eq_false.2 fun m hmem => ?_
    simp [hm m hmem]
  have hwait : (ms.any fun m => m.load.waits) = false := by
    refine List.any_eq_false.2 fun m hmem => ?_
    simp [hd m hmem, LoadPos.waits]
  have hfail : (ms.findSome? fun m => m.load.failure.map fun va => (m.cid, va)) = none := by
    refine List.findSome?_eq_none_iff.2 fun m hmem => ?_
    simp [hd m hmem, LoadPos.failure]
  rw [exec_clauseLoadDone, execClauseLoadDone]
  split
  · next j hj =>
    obtain rfl : k = j := by rw [hi] at hj; injection hj
    rw [loadDone]
    simp only [hb, State.operating, hr, ht, hs, hidle, hl, hwait, hfail, Bool.not_true, Bool.not_false, Bool.and_self, Bool.or_false,
      Bool.false_eq_true, if_false]
  · next hj => rw [hi] at hj; cases hj
  · next hj _ => exact absurd hi (hj k)

/-- The five registers that a start writes. -/
theorem Core.rdS_startArgs (c : Core) (b : Bind) (r : SReg) : (c.startArgs b).rdS r =
    if r = 11 then BitVec.ofNat 64 b.entry.lowcid
    else if r = 6 then BitVec.ofNat 64 b.entry.jkey
    else if r = 5 then b.entry.arg1
    else if r = 4 then b.entry.arg0
    else if r = 3 then BitVec.ofNat 64 (if b.record.args = 0 then 0 else b.record.argdst)
    else c.rdS r := by
  unfold Core.startArgs
  simp only [Core.rdS_wrS, beq_iff_eq]
  by_cases h : r = 0
  · subst h
    rw [if_pos rfl, if_neg (by decide), if_neg (by decide), if_neg (by decide), if_neg (by decide), if_neg (by decide)]
    rfl
  · simp only [if_neg h]

theorem Core.startArgs_frame (c : Core) (b : Bind) : (c.startArgs b).status = c.status ∧ (c.startArgs b).ls = c.ls ∧
    (c.startArgs b).latch = c.latch := by
  unfold Core.startArgs
  simp

/-- A register that a start writes is none of `s0` to `s2`, `s7` to `s10` and `s12` to `s63`. -/
theorem startArg_ne {r : SReg} (h : r.val < 3 ∨ 11 < r.val ∨ (6 < r.val ∧ r.val < 11)) :
    r ≠ 11 ∧ r ≠ 6 ∧ r ≠ 5 ∧ r ≠ 4 ∧ r ≠ 3 := by
  refine ⟨?_, ?_, ?_, ?_, ?_⟩ <;> (rintro rfl; revert h; decide)

theorem Core.startClause_spec (c : Core) (b : Bind) (m : GangMember) (q : LaunchQueue) (now : Nat) :
    let t := c.startClause b m q now
    t.status.hnd = false ∧ (∀ r, t.rdS r = (c.startArgs b).rdS r) ∧ t.latch = false ∧ t.ls = c.ls := by
  obtain ⟨hs, hl, hla⟩ := (c.toIdle.startClears).startArgs_frame b
  refine ⟨?_, fun r => ?_, ?_, ?_⟩
  · exact (congrArg Status.hnd hs).trans rfl
  · have h1 : (c.startClause b m q now).rdS r = ((c.toIdle.startClears).startArgs b).rdS r := rfl
    rw [h1, Core.rdS_startArgs, Core.rdS_startArgs]
    rfl
  · exact hla
  · exact hl

/-! ## The host's start -/

theorem State.startClauseBars_eq (s : State) (cid : Nat) : ∃ bs os br sv, s.startClauseBars cid =
    { s with core := { s.core with bars := bs }, others := os, bars := br, saved := sv } := by
  have go (l : List BarState) (u : State) : ∃ bs os br sv, l.foldl State.dropBar u =
      { u with core := { u.core with bars := bs }, others := os, bars := br, saved := sv } := by
    induction l generalizing u with
    | nil => exact ⟨u.core.bars, u.others, u.bars, u.saved, rfl⟩
    | cons b l ih =>
      obtain ⟨bs, os, br, sv, h⟩ := u.dropBar_eq b
      rw [List.foldl_cons, h]
      exact ih _
  exact go _ _

/-- A start where the NI is idle changes of the core what it keeps of barriers and messages. -/
theorem State.startAt_self (s : State) (ctx : Nat) (ha : s.core.applying = none) :
    ∃ bs ib, (s.startAt s.cid ctx).core = { s.core with bars := bs, inbox := ib } ∧ (s.startAt s.cid ctx).cid = s.cid := by
  obtain ⟨bs, os, br, sv, e⟩ := s.startClauseBars_eq s.cid
  have hanswers (ms : List Msg) (u : State) : ∃ bk fb, ms.foldl
      (fun s m => s.answer ⟨m.sender, m.ctx, 0, .late causeMsgReject m.pc m.afaddr⟩) u = { u with back := bk, fabric := fb } := by
    induction ms generalizing u with
    | nil => exact ⟨u.back, u.fabric, rfl⟩
    | cons m ms ih =>
      obtain ⟨bk, fb, h⟩ := u.answer_eq ⟨m.sender, m.ctx, 0, .late causeMsgReject m.pc m.afaddr⟩
      obtain ⟨bk', fb', h'⟩ := ih { u with back := bk, fabric := fb }
      exact ⟨bk', fb', by rw [List.foldl_cons, h, h']⟩
  have hrest : (s.startClauseBars s.cid).applyRest s.cid = s.startClauseBars s.cid := by
    have hn : ((s.startClauseBars s.cid).coreAt s.cid).applying = none := by
      rw [e]; exact (congrArg Core.applying (State.coreAt_self _)).trans ha
    unfold State.applyRest
    rw [hn]
  unfold State.startAt
  rw [hrest]
  have hcid : (s.startClauseBars s.cid).cid = s.cid := by rw [e]
  have hcore : (s.startClauseBars s.cid).core = { s.core with bars := bs } := by rw [e]
  generalize s.startClauseBars s.cid = u at hcid hcore
  unfold State.refuseOthers
  dsimp only
  rw [← hcid, State.onCore_self]
  obtain ⟨bk, fb, h⟩ := hanswers (((u.coreAt u.cid).inbox.arrival ++ (u.coreAt u.cid).inbox.spill).filter fun m => !(m.ctx == ctx))
    { u with core := { u.core with inbox := { u.core.inbox with
      arrival := (u.coreAt u.cid).inbox.arrival.filter fun m => m.ctx == ctx
      spill := (u.coreAt u.cid).inbox.spill.filter fun m => m.ctx == ctx } } }
  refine ⟨bs, { u.core.inbox with
      arrival := (u.coreAt u.cid).inbox.arrival.filter fun m => m.ctx == ctx
      spill := (u.coreAt u.cid).inbox.spill.filter fun m => m.ctx == ctx }, ?_, ?_⟩
  · rw [h]; dsimp only; rw [hcore]
  · rw [h]

theorem Core.wrS_congr {c c' : Core} (h : c.regs = c'.regs) (r : SReg) (x : Word) : (c.wrS r x).regs = (c'.wrS r x).regs := by
  unfold Core.wrS
  split
  · exact h
  · dsimp only; rw [h]

theorem Core.wrSs_congr (xs : List (SReg × Word)) {c c' : Core} (h : c.regs = c'.regs) :
    (xs.foldl (fun c x => c.wrS x.1 x.2) c).regs = (xs.foldl (fun c x => c.wrS x.1 x.2) c').regs := by
  induction xs generalizing c c' with
  | nil => exact h
  | cons x xs ih => exact ih (Core.wrS_congr h x.1 x.2)

theorem Core.wrSs_ls (xs : List (SReg × Word)) (c : Core) : (xs.foldl (fun c x => c.wrS x.1 x.2) c).ls = c.ls := by
  induction xs generalizing c with
  | nil => rfl
  | cons x xs ih => exact (ih _).trans (Core.wrS_ls c x.1 x.2)

/-- The scalar registers that a start record names are written in order. -/
theorem State.hostRegisters_s (xs : List (SReg × Word)) (s : State) :
    ((xs.map fun x => HaltedWrite.s x.1 x.2).foldl (fun s w => (s.hostRegister w).getD s) s).core =
      xs.foldl (fun c x => c.wrS x.1 x.2) s.core := by
  induction xs generalizing s with
  | nil => rfl
  | cons x xs ih => exact ih (s.mapCore fun c => c.wrS x.1 x.2)

theorem execHostStart_idle (s : State) (ctx : Nat) (pc : Word) (kernel : Bool) (regs : List HaltedWrite)
    (hi : s.inp = .hostStart ctx pc kernel regs) (hc : ctx < 4096) (hr : s.host.ready = true) (ht : s.host.tripped = false)
    (hrun : s.core.run = .idle) : exec .hostStart s =
      .next (((regs.foldl (fun s w => (s.hostRegister w).getD s) ((s.startAt s.cid ctx).mapCore Core.toIdle))).mapCore fun c =>
        { c with
          pc := pc
          run := .run
          status := { c.status with pl := if kernel then .kernel else .user }
          ids := { c.ids with ctx := BitVec.ofNat 12 ctx }
          bound := .host }) := by
  have hok : (decide (4096 ≤ ctx) || !s.operating || s.core.run != .idle) = false := by
    simp [State.operating, hr, ht, hrun, hc]
  rw [exec_hostStart, execHostStart]
  split
  · next c p k rs hj =>
    obtain ⟨rfl, rfl, rfl, rfl⟩ : ctx = c ∧ pc = p ∧ kernel = k ∧ regs = rs := by
      rw [hi] at hj; injection hj with h1 h2 h3 h4; exact ⟨h1, h2, h3, h4⟩
    simp only [hok, Bool.false_eq_true, if_false]
  · next hj => exact absurd hi (hj _ _ _ _)

/-! ## The bind watchdog -/

theorem Core.pendWatchdog_zero (c : Core) : c.pendWatchdog 0 = { c with
    trap := { c.trap with ipend := c.trap.ipend ||| 32, wdSrc := c.trap.wdSrc ||| 1 }
    latch := c.latch || !c.trap.ipend.getLsbD 5 } := by
  have hbit : ∀ x : BitVec 6, (x &&& bit6 5 == 0) = !x.getLsbD 5 := by decide
  unfold Core.pendWatchdog Core.pend
  dsimp only
  rw [hbit]
  rfl

theorem Hub.handle_queues (h : Hub) (k : Cont) : (h.handle k).queues = h.queues := by
  unfold Hub.handle; split <;> rfl

theorem Hub.settleFrom_queues (n : Nat) (h : Hub) : (h.settleFrom n).queues = h.queues := by
  induction n generalizing h with
  | zero => rfl
  | succ n ih =>
    unfold Hub.settleFrom
    split
    · rw [ih, Hub.handle_queues]
    · rfl

theorem Hub.settle_queue (h : Hub) (q : Nat) : h.settle.queue q = h.queue q :=
  Hub.queue_congr (h.settleFrom_queues _) q

/-- Freezing a queue that is not frozen records the fault. -/
theorem Hub.freeze_first (h : Hub) (q : Nat) (f : FaultRec) (hq : q < 64) (hf : (h.queue q).frozen = false) :
    ((h.freeze q f).queue q).frozen = true ∧ ((h.freeze q f).queue q).fault = some f := by
  unfold Hub.freeze Hub.cancel
  rw [hf, if_neg Bool.false_ne_true, Hub.settle_queue, Hub.queue_onQueue _ _ _ hq, Hub.queue_onQueue _ _ _ hq]
  exact ⟨rfl, rfl⟩

theorem State.bindOf_congr {s t : State} (cid : Nat) (hb : t.hub.binds = s.hub.binds)
    (hd : (t.coreAt cid).bound = (s.coreAt cid).bound) (hi : (t.coreAt cid).ids = (s.coreAt cid).ids) :
    t.bindOf cid = s.bindOf cid := by
  unfold State.bindOf Core.inClause
  rw [hb, hd, hi]

/-- The end of a clause in a fault of the core in focus. -/
theorem State.fatal_clause (s : State) (b : Bind) (cause : Nat) (epc tval : Word) (hb : s.bindOf s.cid = some b)
    (hq : b.entry.queue < 64) (hf : (s.hub.queue b.entry.queue).frozen = false) :
    let t := s.fatal s.cid cause epc tval
    t.core.run = s.core.leavesFor ∧ t.core.vec.seq = [] ∧ (t.hub.queue b.entry.queue).frozen = true ∧
      (t.hub.queue b.entry.queue).fault = some ⟨s.cid, cause, epc, tval, BitVec.ofNat 64 b.clause⟩ := by
  intro t
  have hflush : s.flush s.cid = { s with core := s.core.discardAll } := s.onCore_self _
  have hbind : State.bindOf { s with core := s.core.discardAll } s.cid = some b := by
    rw [← hb]
    refine State.bindOf_congr s.cid rfl ?_ ?_
    · rw [show State.coreAt { s with core := s.core.discardAll } s.cid = s.core.discardAll from State.coreAt_self _, s.coreAt_self]
      rfl
    · rw [show State.coreAt { s with core := s.core.discardAll } s.cid = s.core.discardAll from State.coreAt_self _, s.coreAt_self]
      rfl
  have ht : ∃ h : Hub, t = State.leave { s with core := s.core.discardAll, hub := h } s.cid ∧
      (h.queue b.entry.queue).frozen = true ∧
      (h.queue b.entry.queue).fault = some ⟨s.cid, cause, epc, tval, BitVec.ofNat 64 b.clause⟩ := by
    have heq : t = State.fatal s s.cid cause epc tval := rfl
    unfold State.fatal at heq
    rw [hflush] at heq
    simp only [hbind] at heq
    exact ⟨_, heq, Hub.freeze_first _ _ _ hq hf⟩
  obtain ⟨h, ht, hfrozen, hfault⟩ := ht
  generalize hu : ({ s with core := s.core.discardAll, hub := h } : State) = u at ht
  have hucid : u.cid = s.cid := by rw [← hu]
  have hucore : u.coreAt s.cid = s.core.discardAll := by rw [← hu]; exact State.coreAt_self _
  have huhub : u.hub = h := by rw [← hu]
  obtain ⟨v, ⟨-, -, hvq, hvcid, -, hc⟩, hleave⟩ := u.leave_eq s.cid
  obtain ⟨sc, wl, bs, hv⟩ := hc s.cid
  rw [hucore] at hv
  have hvself : v.cid = s.cid := hvcid.trans hucid
  have htcore : t.core = v.core.idled v.now := by
    rw [ht, hleave, ← hvself, State.onCore_self]
  have hthub : t.hub.queues = h.queues := by
    rw [ht, hleave, ← hvself, State.onCore_self, ← huhub, ← hvq]
  have hvcore : v.core = { s.core.discardAll with sce := sc, wl := wl, bars := bs } := by
    rw [← hv, ← hvself, v.coreAt_self]
  have hseq : (v.core.idled v.now).vec = v.core.vec := by
    unfold Core.idled
    dsimp only
    split <;> rfl
  rw [Hub.queue_congr hthub]
  refine ⟨?_, ?_, hfrozen, hfault⟩
  · rw [htcore, (v.core.idled_fields v.now).1, hvcore]
    rfl
  · rw [htcore, hseq, hvcore]
    rfl

/-- Settles O49, step by step: a bind takes the queue's next number, a start writes its own registers, and a fault's
record is the first of its queue. -/
theorem clausesAreBoundAndStarted : Obligations.ClausesAreBoundAndStarted := by
  unfold Obligations.ClausesAreBoundAndStarted
  refine ⟨fun s q prio cluster org since e r ms hi hq hh hp hf hm => ?bind, execClauseLoadDone_done,
    fun c b m q now => ?start, fun s ctx pc kernel regs hi hc hr ht hrun ha => ?host,
    fun s hl hw hf => ?first, fun s b hb hq hf hl hw hfired hx => ?second⟩
  case bind =>
    obtain ⟨t, ht, hb, hl⟩ := execBindRecord_free s q prio cluster org since e r ms hi hq hh hp hf hm
    exact ⟨t, _, ht, hb, rfl, rfl, rfl, rfl, hl⟩
  case start =>
    obtain ⟨hhnd, hrd, hlatch, hls⟩ := c.startClause_spec b m q now
    refine ⟨rfl, rfl, rfl, hhnd, rfl, ?_, ?_, ?_, ?_, ?_, fun r hr => ?_, rfl, rfl, rfl, rfl, rfl, rfl, rfl, rfl, rfl, rfl, rfl,
      rfl, hlatch, hls⟩
    all_goals rw [hrd, Core.rdS_startArgs]
    · rfl
    · rfl
    · rfl
    · rfl
    · rfl
    · obtain ⟨h11, h6, h5, h4, h3⟩ := startArg_ne hr
      rw [if_neg h11, if_neg h6, if_neg h5, if_neg h4, if_neg h3]
  case host =>
    refine ⟨_, execHostStart_idle s ctx pc kernel regs hi hc hr ht hrun, rfl, rfl, rfl, rfl, fun xs hxs => ?_⟩
    obtain ⟨bs, ib, hcore, -⟩ := s.startAt_self ctx ha
    have hkeep : (s.startAt s.cid ctx).core.regs = s.core.regs ∧ (s.startAt s.cid ctx).core.ls = s.core.ls := by
      rw [hcore]; exact ⟨rfl, rfl⟩
    have hregs := State.hostRegisters_s xs ((s.startAt s.cid ctx).mapCore Core.toIdle)
    subst hxs
    constructor
    · refine (congrArg Core.regs hregs).trans (Core.wrSs_congr xs ?_)
      exact hkeep.1
    · refine (congrArg Core.ls hregs).trans ((Core.wrSs_ls xs _).trans ?_)
      exact hkeep.2
  case first =>
    have hgo : (s.bindLimit == 0 || s.core.wdFired || decide (s.core.wdCount s.now < s.bindLimit)) = false := by
      simp [hl, hf, Nat.not_lt.2 hw]
    rw [exec_bindWatchdogFirst, execBindWatchdogFirst]
    simp only [hgo, Bool.false_eq_true, if_false, Core.pendWatchdog_zero]
  case second =>
    have hgo : (s.bindLimit == 0 || !s.core.wdFired || decide (s.core.wdCount s.now < 2 * s.bindLimit) ||
        s.core.hubWait == .exitSent) = false := by
      simp [hl, hfired, Nat.not_lt.2 hw, hx]
    refine ⟨_, ?_, s.fatal_clause b causeWatchdog s.core.pc 1 hb hq hf⟩
    rw [exec_bindWatchdogSecond, execBindWatchdogSecond]
    simp only [hgo, Bool.false_eq_true, if_false]

end Sys2Proof.Machine
end

section
/-! PROOF. The host's requests to a core, and pre-emption (O51). -/

namespace Sys2Proof.Machine

/-! ## The time of a waiting `tmrot` -/

/-- No core is its own neighbour. -/
theorem neighbours_ne {cid k : Nat} (hk : k ∈ neighbours cid) : k ≠ cid := by
  simp only [neighbours, atGrid, coreNo, List.mem_cons, List.not_mem_nil, or_false] at hk
  omega

/-- Settling the time at the neighbours changes other cores only. -/
theorem State.settleRots_eq (s : State) : ∃ os, s.settleRots = { s with others := os } := by
  have hfold (ks : List Nat) (u : State) (h : ∀ k ∈ ks, k ≠ u.cid) :
      ∃ os, ks.foldl (fun s k => s.onCore k (s.settleRot k)) u = { u with others := os } := by
    induction ks generalizing u with
    | nil => exact ⟨u.others, rfl⟩
    | cons k ks ih =>
      obtain ⟨os, ho⟩ := u.onCore_eq k (u.settleRot k)
      rw [if_neg (h k List.mem_cons_self)] at ho
      obtain ⟨os', ho'⟩ := ih { u with others := os } fun j hj => h j (List.mem_cons_of_mem _ hj)
      exact ⟨os', by rw [List.foldl_cons, ho, ho']⟩
  exact hfold _ s fun _ => neighbours_ne

/-- A core that does not wait in `gend` withdraws nothing. -/
theorem State.withdraw_self (s : State) (h : s.core.sce.phase ≠ .arrived) : s.withdraw = s := by
  unfold State.withdraw State.withdrawAt
  rw [s.coreAt_self]
  dsimp only
  split
  next hp => exact absurd hp h
  next => rfl

/-! ## A fault of a core that the host started -/

/-- The core with a fault in its trap registers for the host. -/
def Core.shownFault (cause : Nat) (epc tval : Word) (c : Core) : Core :=
  { c with trap := { c.trap with cause := BitVec.ofNat 64 cause, epc := epc, tval := tval } }

/-- A fault of a core without a clause is shown in its trap registers, and the core stops. -/
theorem State.fatal_host (s : State) (cause : Nat) (epc tval : Word) (hb : s.bindOf s.cid = none) :
    let t := s.fatal s.cid cause epc tval
    t.core.run = s.core.leavesFor ∧ t.core.trap.cause = BitVec.ofNat 64 cause ∧ t.core.trap.epc = epc ∧
      t.core.trap.tval = tval ∧ t.core.vec.seq = [] ∧ t.core.regs = s.core.regs ∧ t.core.ls = s.core.ls := by
  intro t
  have hflush : s.flush s.cid = { s with core := s.core.discardAll } := s.onCore_self _
  have hbind : State.bindOf { s with core := s.core.discardAll } s.cid = none := by
    rw [← hb]
    refine State.bindOf_congr s.cid rfl ?_ ?_
    · rw [show State.coreAt { s with core := s.core.discardAll } s.cid = s.core.discardAll from State.coreAt_self _, s.coreAt_self]
      rfl
    · rw [show State.coreAt { s with core := s.core.discardAll } s.cid = s.core.discardAll from State.coreAt_self _, s.coreAt_self]
      rfl
  have heq : t = State.fatal s s.cid cause epc tval := rfl
  unfold State.fatal at heq
  rw [hflush] at heq
  simp only [hbind] at heq
  generalize hw : ({ s with core := s.core.discardAll } : State) = w at heq
  have hwcid : w.cid = s.cid := by rw [← hw]
  have hwcore : w.core = s.core.discardAll := by rw [← hw]
  replace heq : t = (w.onCore s.cid (Core.shownFault cause epc tval)).leave s.cid := heq
  have hself := w.onCore_self (Core.shownFault cause epc tval)
  rw [hwcid] at hself
  generalize w.onCore s.cid (Core.shownFault cause epc tval) = u at heq hself
  have hucid : u.cid = s.cid := by rw [hself]
  have hucore : u.core = s.core.discardAll.shownFault cause epc tval := by rw [hself, hwcore]
  obtain ⟨v, ⟨-, -, -, hvcid, -, hc⟩, hleave⟩ := u.leave_eq s.cid
  obtain ⟨sc, wl, bs, hv⟩ := hc s.cid
  have hvself : v.cid = s.cid := hvcid.trans hucid
  have hvcore : v.core = { u.core with sce := sc, wl := wl, bars := bs } := by
    rw [← v.coreAt_self, hvself, hv, ← hucid, u.coreAt_self]
  have htcore : t.core = v.core.idled v.now := by rw [heq, hleave, ← hvself, State.onCore_self]
  have hrest : (v.core.idled v.now).vec = v.core.vec ∧ (v.core.idled v.now).trap = v.core.trap := by
    unfold Core.idled
    dsimp only
    split <;> exact ⟨rfl, rfl⟩
  obtain ⟨hrun, -, hregs, hls⟩ := v.core.idled_fields v.now
  rw [htcore, hrun, hregs, hls, hrest.1, hrest.2, hvcore, hucore]
  exact ⟨rfl, rfl, rfl, rfl, rfl, rfl, rfl⟩

/-! ## Requests of the host -/

/-- Halting keeps the pc, the registers, memory and the trap registers. -/
theorem State.halts (s : State) (hm : s.core.mayHalt = true) (hs : s.core.stepping = false)
    (hp : s.core.sce.phase ≠ .arrived) (hv : s.saved = []) :
    exec .hostHalt s = .next (s.mapCore fun c => c.halt s.now) := by
  have hrun : (s.core.run == .halt) = false := by
    cases hr : s.core.run <;> simp_all [Core.mayHalt]
  rw [exec_hostHalt, execHostHalt]
  simp only [hrun, hs, hv, hm, s.withdraw_self hp, List.any_nil, Bool.and_false, Bool.false_eq_true, if_false, if_true]

theorem State.savesContext (s : State) (a : Nat) (hm : s.core.maySave = true) (hf : s.sfuFree) (hb : s.core.badRegs = [])
    (hp : s.core.sce.phase ≠ .arrived) (ha : s.areaAt = some a) :
    ∃ os, exec .contextSave s = .next { s with
      others := os
      saved := s.saved ++ [⟨s.cid, s.core.snapshot s.now, [], s.core.inbox.spillCap, s.now, false, a⟩]
      core := s.core.vacated
      gmem := s.gmem.saveArea a s.steps s.core } := by
  obtain ⟨os, ho⟩ := s.settleRots_eq
  refine ⟨os, ?_⟩
  rw [exec_contextSave, execContextSave]
  simp only [hm, show s.sfuOwes s.cid = false from hf, hb, ha, s.withdraw_self hp, ho, Bool.not_true, Bool.or_self,
    List.isEmpty_nil, Bool.false_eq_true, if_false]

theorem State.savesNothing (s : State) (h : s.core.maySave = false ∨ ¬ s.sfuFree) : exec .contextSave s = .next s := by
  have hgo : (!s.core.maySave || s.sfuOwes s.cid) = true := by
    rcases h with h | h
    · rw [h]; rfl
    · rw [(Bool.not_eq_false _).mp h, Bool.or_true]
  rw [exec_contextSave, execContextSave, if_pos hgo]

/-! ## Diversion -/

/-- A write for a saved member that has room is held and acknowledged. -/
theorem State.diverts_write (s : State) (p : Packet) (m : SavedMember) (a : Nat) (bs : List Byte)
    (hk : p.kind = .write a bs) (hr : m.room = true) (hn : s.refusesBy m.core false p = none) :
    s.divert p m = (s.hold m.cid p.ctx (.pkt p)).ack p := by
  have hacked : p.ackedAtDivert = true := by rw [Packet.ackedAtDivert, hk]
  unfold State.divert
  rw [hk]
  simp only [hr, Bool.not_true, hn, hacked, Bool.false_eq_true, if_false, if_true]

/-- What is held for a member stands at the end of its queue. -/
theorem State.mem_hold {s : State} {cid ctx : Nat} {m : SavedMember} (hm : s.divertsTo cid ctx = some m) (h : Held) :
    { m with held := m.held ++ [h] } ∈ (s.hold m.cid ctx h).saved := by
  have hid := List.find?_some hm
  simp only [Bool.and_eq_true] at hid
  refine List.mem_map.2 ⟨m, List.mem_of_find?_eq_some hm, ?_⟩
  rw [if_pos (by simp [hid.2])]

theorem State.divertsArriving (s : State) (k : Nat) (p : Packet) (m : SavedMember) (a : Nat) (bs : List Byte)
    (hi : s.inp = .idx k) (hk : s.net[k]? = some p) (hd : p.dst = s.cid) (ha : mayArrive s.net k p = true)
    (hm : s.divertsTo p.dst p.ctx = some m) (hw : p.kind = .write a bs) (hr : m.room = true)
    (hn : s.refusesBy m.core false p = none) :
    exec .preemptDivert s = .next (((s.takePacket k).hold m.cid p.ctx (.pkt p)).ack p) := by
  rw [← (s.takePacket k).diverts_write p m a bs hw hr hn, exec_preemptDivert, execPreemptDivert]
  simp only [hi, hk, hm, ha, show (p.dst == s.cid) = true from beq_iff_eq.2 hd, Bool.and_self, if_true]

/-! ## Resume -/

/-- Refusing the messages of other contexts changes the core's queues, and what is answered. -/
theorem State.refuseOthers_self (s : State) (ctx : Nat) :
    ∃ ib bk fb, s.refuseOthers s.cid ctx = { s with core := { s.core with inbox := ib }, back := bk, fabric := fb } := by
  have hanswers (ms : List Msg) (u : State) : ∃ bk fb, ms.foldl
      (fun s m => s.answer ⟨m.sender, m.ctx, 0, .late causeMsgReject m.pc m.afaddr⟩) u = { u with back := bk, fabric := fb } := by
    induction ms generalizing u with
    | nil => exact ⟨u.back, u.fabric, rfl⟩
    | cons m ms ih =>
      obtain ⟨bk, fb, h⟩ := u.answer_eq ⟨m.sender, m.ctx, 0, .late causeMsgReject m.pc m.afaddr⟩
      obtain ⟨bk', fb', h'⟩ := ih { u with back := bk, fabric := fb }
      exact ⟨bk', fb', by rw [List.foldl_cons, h, h']⟩
  unfold State.refuseOthers
  dsimp only
  rw [s.onCore_self]
  obtain ⟨bk, fb, h⟩ := hanswers _ _
  rw [h]
  exact ⟨_, bk, fb, rfl⟩

theorem Regs.fromArea_s (r : Regs) (g : Gmem) (a : Nat) : (r.fromArea g a).s = r.s := by
  unfold Regs.fromArea
  dsimp only

theorem Regs.fromArea_f (r : Regs) (g : Gmem) (a : Nat) : (r.fromArea g a).f = r.f := by
  unfold Regs.fromArea
  dsimp only

theorem Regs.fromArea_v (r : Regs) (g : Gmem) (a : Nat) (k : Fin 48) :
    ((r.fromArea g a).v.get k).bits = BitVec.ofNat 512 (numAt (g.areaBytes a 352) (64 * k) 64) ∧
      ∀ i : Fin 4, ((r.fromArea g a).v.get k).scales.get i =
        BitVec.ofNat 20 (numAt (g.areaBytes a 352) (3072 + 16 * k + 4 * i) 4) := by
  unfold Regs.fromArea
  dsimp only
  rw [vget_ofFn]
  exact ⟨rfl, fun i => vget_ofFn _ i⟩

theorem Regs.fromArea_q (r : Regs) (g : Gmem) (a : Nat) (k : Fin 8) :
    (r.fromArea g a).q.get k = BitVec.ofNat 128 (numAt (g.areaBytes a 352) (3840 + 16 * k) 16) :=
  vget_ofFn _ k

theorem Regs.fromArea_t (r : Regs) (g : Gmem) (a : Nat) (k : Fin 8) : (r.fromArea g a).t.get k =
    BitVec.ofNat 65536 (ofBytesLE (g.areaBytes a (320 + 2 * k) ++ g.areaBytes a (320 + (2 * k + 1)))) := by
  have h : 320 + (2 * k.val + 1) = 321 + 2 * k.val := by omega
  rw [h]
  exact vget_ofFn _ k

/-- The four chunks of an accumulator, in order. -/
theorem Gmem.areaBytes_four (g : Gmem) (a k : Nat) : g.areaBytes a (320 + (16 + 4 * k)) ++
    g.areaBytes a (320 + (17 + 4 * k)) ++ g.areaBytes a (320 + (18 + 4 * k)) ++ g.areaBytes a (320 + (19 + 4 * k)) =
    (List.range 4).flatMap fun i => g.areaBytes a (336 + 4 * k + i) := by
  rw [show List.range 4 = [0, 1, 2, 3] from rfl, show 320 + (16 + 4 * k) = 336 + 4 * k + 0 by omega,
    show 320 + (17 + 4 * k) = 336 + 4 * k + 1 by omega, show 320 + (18 + 4 * k) = 336 + 4 * k + 2 by omega,
    show 320 + (19 + 4 * k) = 336 + 4 * k + 3 by omega]
  simp only [List.flatMap_cons, List.flatMap_nil, List.append_nil, List.append_assoc]

theorem Regs.fromArea_z (r : Regs) (g : Gmem) (a : Nat) (k : Fin 4) : (r.fromArea g a).z.get k =
    BitVec.ofNat 131072 (ofBytesLE (g.areaBytes a (320 + (16 + 4 * k)) ++ g.areaBytes a (320 + (17 + 4 * k)) ++
      g.areaBytes a (320 + (18 + 4 * k)) ++ g.areaBytes a (320 + (19 + 4 * k)))) := by
  rw [g.areaBytes_four a k]
  exact vget_ofFn _ k

theorem Core.restored_fields (live saved : Core) (now : Nat) (g : Gmem) (a : Nat) :
    let c := (live.restored saved now).fromArea g a
    c.ls = g.areaStore a ∧ c.regs = saved.regs.fromArea g a ∧ c.pc = saved.pc ∧ c.status = saved.status ∧
      c.vec = saved.vec ∧ c.copy = saved.copy ∧ c.trap = saved.trap := by
  simp only [Core.fromArea, Core.restored, and_self]

/-- A member whose area is good goes on with what the area holds, and gets its interrupt. -/
theorem State.resumeMember_good (s : State) (m : SavedMember) (hh : m.held = [])
    (hg : s.gmem.areaGood m.area = true) :
    ∃ live : Core, (s.resumeMember m).saved = s.saved.filter (fun x => x != m) ∧ (s.resumeMember m).core =
      ({ (live.restored m.core s.now).fromArea s.gmem m.area with haltReq := m.haltReq } : Core).pend 0 := by
  obtain ⟨ib, bk, fb, hr⟩ := s.refuseOthers_self m.core.ids.ctx.toNat
  generalize hu : s.refuseOthers s.cid m.core.ids.ctx.toNat = u at hr
  obtain ⟨os, ho⟩ := u.settleRots_eq
  have hgm : u.settleRots.gmem = s.gmem := by rw [ho, hr]
  have hsv : u.settleRots.saved = s.saved := by rw [ho, hr]
  have hnow : u.settleRots.now = s.now := by rw [ho, hr]
  refine ⟨u.settleRots.core, ?_, ?_⟩
  all_goals
    unfold State.resumeMember
    rw [hu]
    generalize u.settleRots = v at *
    simp only [hgm, hsv, hnow, hg, hh, if_true, Bool.not_true, Bool.false_eq_true, if_false, List.foldl_nil]
    rfl

theorem State.resumes (s : State) (k : Nat) (m : SavedMember) (hi : s.inp = .idx k) (hk : s.saved[k]? = some m)
    (hc : m.cid = s.cid) (hr : s.core.run = .idle) : exec .contextResume s = .next (s.resumeMember m) := by
  rw [exec_contextResume, execContextResume]
  simp only [hi, hk, hc, hr, bne_self_eq_false, Bool.or_self, Bool.false_eq_true, if_false]

/-- Settles O51, request by request. -/
theorem hostAndPreemptionStepsComplete : Obligations.HostAndPreemptionStepsComplete := by
  unfold Obligations.HostAndPreemptionStepsComplete
  refine ⟨fun s hm hs hp hv => ?halt, fun s hr => ?step, fun s level hr hi => ?resume, fun s hr hb => ?stop,
    fun s w hr hi => ?write, fun s hr => ?request, fun s a hm hf hb hp ha => ?save, fun s h => s.savesNothing h,
    fun s k p m a bs hi hk hd ha hm hw hr hn hpkg => ?divert, fun s k m hi hk hc hr hh hg => ?restore⟩
  case halt =>
    refine ⟨_, s.halts hm hs hp hv, rfl, rfl, rfl, ?_, rfl, rfl, rfl, rfl⟩
    simp [State.mapCore, Core.halt, Core.stopWd]
  case step =>
    rw [exec_hostStep, execHostStep, hr]
    rfl
  case resume =>
    rw [exec_hostResume, execHostResume]
    simp only [hi, hr]
    rfl
  case stop =>
    generalize hu : (s.mapCore fun c => { c with status := { c.status with pl := c.halted.level } }) = u
    have hcid : u.cid = s.cid := by rw [← hu]; rfl
    have hcore : u.core = { s.core with status := { s.core.status with pl := s.core.halted.level } } := by rw [← hu]; rfl
    have hbind : u.bindOf u.cid = none := by
      rw [← hb, ← hu]
      refine State.bindOf_congr s.cid rfl ?_ ?_ <;>
        simp [State.mapCore, State.coreAt]
    have hrun : exec .hostStop s = .next (u.fatal u.cid causeBrk s.core.pc 0xFFFFFFFFFFFFFFFC) := by
      rw [exec_hostStop, execHostStop, hr, ← hu]
      rfl
    obtain ⟨h1, h2, h3, h4, -, h6, h7⟩ := u.fatal_host causeBrk s.core.pc 0xFFFFFFFFFFFFFFFC hbind
    refine ⟨_, hrun, h1.trans ?_, h2, h3, h4, h6.trans ?_, h7.trans ?_⟩ <;> rw [hcore] <;> rfl
  case write =>
    have hgo (w' : HaltedWrite) (hw : w = w') : exec .hostHaltedWrite s = match w' with
        | .pc x => .next (s.mapCore fun c => { c with pc := x, entering := false })
        | .store a bs => if inStore a bs.length then .next (s.mapCore fun c => c.landBytes a bs) else .next s.refuseWrite
        | w => .next ((s.hostRegister w).getD s.refuseWrite) := by
      subst hw
      rw [exec_hostHaltedWrite, execHostHaltedWrite]
      simp only [hi, hr, bne_self_eq_false, Bool.false_eq_true, if_false]
      cases w <;> rfl
    refine ⟨fun x h => hgo _ h, fun r x h => hgo _ h, fun r x h => hgo _ h, fun r x h => hgo _ h, fun r x h => hgo _ h,
      fun r x h => hgo _ h, fun a bs h ha => (hgo _ h).trans (if_pos (decide_eq_true ha))⟩
  case request =>
    rw [exec_preemptRequest, execPreemptRequest, if_neg (by simpa using hr)]
  case save =>
    obtain ⟨os, e⟩ := s.savesContext a hm hf hb hp ha
    exact ⟨_, _, e, rfl, rfl, rfl, rfl, rfl, rfl, rfl, rfl, rfl, rfl, rfl, rfl, rfl, rfl, rfl⟩
  case divert =>
    refine ⟨_, s.divertsArriving k p m a bs hi hk hd ha hm hw hr hn, ?_⟩
    have hack : ((s.takePacket k).hold m.cid p.ctx (.pkt p)).ack p =
        { (s.takePacket k).hold m.cid p.ctx (.pkt p) with back := s.back ++ [⟨p.src, p.ctx, p.tag, .ack⟩] } :=
      State.answer_here _ _ hpkg
    rw [hack]
    have hmem := State.mem_hold (s := s.takePacket k) (cid := p.dst) (ctx := p.ctx) hm (.pkt p)
    exact ⟨rfl, rfl, rfl, _, hmem, rfl, rfl⟩
  case restore =>
    obtain ⟨live, hsaved, hcore⟩ := s.resumeMember_good m hh hg
    refine ⟨_, s.resumes k m hi hk hc hr, ?_, ?_⟩
    · rw [hsaved]
      simp [List.mem_filter]
    · obtain ⟨hls, hregs, hpc, hst, hvec, hcopy, htrap⟩ := Core.restored_fields live m.core s.now s.gmem m.area
      generalize (live.restored m.core s.now).fromArea s.gmem m.area = d at *
      rw [hcore, Core.pend_ls, Core.pend_regs, Core.pend_pc, Core.pend_status, Core.pend_vec, Core.pend_copy,
        Core.pend_haltReq, Core.pend_trap]
      dsimp only
      rw [hregs, htrap]
      exact ⟨hls, m.core.regs.fromArea_s s.gmem m.area, m.core.regs.fromArea_f s.gmem m.area,
        m.core.regs.fromArea_v s.gmem m.area,
        fun k => ⟨m.core.regs.fromArea_q s.gmem m.area k, m.core.regs.fromArea_t s.gmem m.area k⟩,
        m.core.regs.fromArea_z s.gmem m.area, hpc, hst, hvec, hcopy, rfl, rfl⟩

end Sys2Proof.Machine
end

section
/-! PROOF. What a core takes at a boundary, fetch faults, registers read in error, and the units that a cluster shares
(O50). -/

namespace Sys2Proof.Machine

/-! ## Items -/

/-- A core that may take an item at this boundary: its level lets it, and nothing stands before the item. -/
structure Core.Ready (c : Core) : Prop where
  level : c.status.pl = .user ∨ c.status.pl = .kernel ∧ c.status.ie = true
  running : c.run = .run ∨ c.run = .wait
  wfe : c.waitsAt .wfe = false
  halt : c.haltReq = false
  preempt : c.preemptReq = false
  hub : c.hubWait = .none
  sce : c.sce.phase = .none
  held : c.trapHeld = false
  mode : c.trans.mode = 0

/-- Such a core takes the first of its items. -/
theorem Core.Ready.taking {c : Core} (h : c.Ready) : c.taking = c.items.head? := by
  obtain ⟨hpl, hrun, -, hh, hp, hhub, hsce, hheld, hm⟩ := h
  have hb : c.blocked = false := by rw [Core.blocked, hhub, hsce]; rfl
  have hd : c.isDebug = false := c.isDebug_eq_false.2 (by rcases hpl with e | ⟨e, -⟩ <;> simp [e])
  have hat : c.atBoundary = true := by
    rw [Core.atBoundary, hd, hb]
    rcases hrun with e | e <;> rw [e] <;> rfl
  have hr : c.replaying = false := by rw [Core.replaying, hm]; rfl
  simp [Core.taking, hat, hh, hp, Core.mayEnter, hheld, Core.nextItem, hr]

theorem Core.Ready.unmasked {c : Core} (h : c.Ready) : c.unmasked = true := by
  unfold Core.unmasked
  rcases h.level with e | ⟨e, hie⟩ <;> rw [e]
  exact hie

/-- Neither recording nor replaying, and not in `wfe`, a core notes nothing of the item. -/
theorem Core.noteItem_off {c : Core} (cause : Nat) (hm : c.trans.mode = 0) (hw : c.waitsAt .wfe = false) :
    c.noteItem cause = c := by
  have hl : c.leaveWfe = c := by rw [Core.leaveWfe, hw, if_neg Bool.false_ne_true]
  have hr : c.replaying = false := by rw [Core.replaying, hm]; rfl
  have hc : c.recording = false := by rw [Core.recording, hm]; rfl
  simp [Core.noteItem, Core.nextItem, hr, hl, Core.record, hc]

theorem Core.hubWait_self (c : Core) (h : c.hubWait = .none) : { c with hubWait := .none } = c := by rw [← h]

/-- Entering an item whose clearing leaves what the core waits at and its transcript. -/
theorem State.takesItem {s : State} (h : s.core.Ready) (cause : Nat) (tval : Word) (clear : Core → Core)
    (hm : (clear s.core).trans.mode = 0) (hw : (clear s.core).waitsAt .wfe = false)
    (hh : (clear s.core).hubWait = .none) :
    takeItem cause tval clear s = .next (s.mapCore fun _ => (clear s.core).enter cause tval (clear s.core).pc) := by
  unfold takeItem
  rw [s.withdraw_self (by rw [h.sce]; exact nofun)]
  dsimp only [State.mapCore]
  rw [Core.noteItem_off cause hm hw, Core.hubWait_self]
  exact hh

/-- The first item without a `COPYPF` is the lowest enabled pending interrupt. -/
theorem Core.Ready.irq {c : Core} (h : c.Ready) (i : Fin 6) (hc : c.copyFault = none)
    (hi : (c.trap.ipend &&& c.trap.ienable).getLsbD i.val = true)
    (hj : ∀ j < i, (c.trap.ipend &&& c.trap.ienable).getLsbD j.val = false) : c.items.head? = some (.irq i) := by
  have hbit (x : BitVec 6) : ∀ j : Fin 6, (x &&& bit6 j != 0#6) = x.getLsbD j.val := by
    revert x; decide
  have hfind : (List.finRange 6).find? (fun j => (c.trap.ipend &&& c.trap.ienable) &&& bit6 j != 0#6) = some i := by
    simp only [hbit]
    generalize c.trap.ipend &&& c.trap.ienable = x at *
    refine (List.find?_eq_some_iff_getElem).2 ⟨hi, i.val, by simp, by simp, fun k hk => ?_⟩
    simp [hj ⟨k, by omega⟩ hk]
  simp [Core.items, h.unmasked, hc, List.head?_map, hfind]

theorem Core.Ready.copypf {c : Core} (h : c.Ready) {x : Chan × Nat × Nat} (hc : c.copyFault = some x) :
    c.items.head? = some .copypf := by
  simp [Core.items, h.unmasked, hc]

/-- What the core waits at does not depend on its pending interrupts. -/
theorem Core.clearPend_waitsAt (c : Core) (m : BitVec 6) (i : Instr) : (c.clearPend m).waitsAt i = c.waitsAt i := rfl

/-- The interrupt of a bit clears that bit, and the watchdog's sources with its own. -/
theorem State.takesInterrupt {s : State} (h : s.core.Ready) (i : Fin 6) (hi : s.core.items.head? = some (.irq i)) :
    exec .interruptTake s = .next (s.mapCore fun c =>
      { c.enter (0x80 + i.val) (c.irqVal i) c.pc with
        trap := { (c.enter (0x80 + i.val) (c.irqVal i) c.pc).trap with
          ipend := c.trap.ipend &&& ~~~(BitVec.ofNat 6 (2 ^ i.val))
          wdSrc := if i = 5 then 0 else c.trap.wdSrc } }) := by
  have hsrc : ∀ j : Fin 6, (bit6 j &&& bit6 5 != 0) = decide (j = 5) := by decide
  rw [exec_interruptTake, execInterruptTake, h.taking, hi]
  refine (State.takesItem h _ _ (fun c => c.clearPend (bit6 i)) h.mode ?_ h.hub).trans ?_
  · exact (s.core.clearPend_waitsAt _ _).trans h.wfe
  · simp only [State.mapCore, Core.clearPend, hsrc, decide_eq_true_eq]
    rfl

theorem Core.irqVal_eq (c : Core) : ∀ i : Fin 6, c.irqVal i =
    if i = 2 then c.trap.meshSender.setWidth 64 else if i = 5 then c.trap.wdSrc.setWidth 64 else 0
  | 0 | 1 | 2 | 3 | 4 | 5 => rfl

theorem State.takesCopypf {s : State} (h : s.core.Ready) {ch : Chan} {reason va : Nat}
    (hc : s.core.copyFault = some (ch, reason, va)) :
    exec .copypfTake s = .next (s.mapCore fun c => c.enter causeCopyPf (copyPfVal ch reason va) c.pc) := by
  rw [exec_copypfTake, execCopypfTake, h.taking, h.copypf hc, hc]
  exact State.takesItem h _ _ id h.mode h.wfe h.hub

/-! ## `tmrot` past its limit -/

theorem Core.owed_eq_false {c : Core} (h : c.pendingRegs = []) : c.owed = false := by rw [Core.owed, h]; rfl

/-- A `tmrot` of the program past its limit takes its trap. -/
theorem State.timesOut {s : State} {e : SeqEntry} {op : SeqOp} {rest : List SeqEntry} {r : RotState}
    (h : s.heads e op rest) (hr : e.rot = some r) (hm : s.core.missing ≠ 0)
    (ht : 1048576 ≤ s.rotTime s.cid s.core r) (hf : e.follow = none) (ho : s.core.pendingRegs = []) :
    exec .linktimeout s = .next { s with
      core := s.core.preciseTrap e op ⟨causeLinkTimeout, BitVec.ofNat 64 s.core.missing⟩ } := by
  obtain ⟨hseq, hop⟩ := h
  have hgo : (s.core.missing == 0 || decide (s.rotTime s.cid s.core r < linkLimit)) = false := by
    simp [hm, linkLimit, Nat.not_lt.2 ht]
  rw [exec_linktimeout, execLinktimeout]
  simp only [hseq, hop, hr, hf, Core.owed_eq_false ho, Option.isSome_none, Bool.false_eq_true, if_false]
  exact if_neg (by rw [hgo]; exact Bool.false_ne_true)

/-- Below debug level a precise trap discards the sequencer and goes to `TVEC`. -/
theorem Core.preciseTrap_entered (c : Core) (e : SeqEntry) (op : SeqOp) (t : Trap) (hd : c.status.pl ≠ .debug) :
    let d := c.preciseTrap e op t
    d.pc = c.trap.tvec ∧ d.trap.cause = BitVec.ofNat 64 t.cause ∧ d.trap.tval = t.tval ∧ d.trap.epc = op.pc ∧
      d.vec.seq = [] ∧ d.regs = c.regs ∧ d.ls = c.ls ∧ d.fp = c.fp := by
  have hdebug : c.isDebug = false := c.isDebug_eq_false.2 hd
  intro d
  have hd : d = Core.enter { c.discardAll with
      vec := { c.discardAll.vec with slots := e.slots, resume := if e.loop then e.resume op else c.vec.resume }
      trap := { c.trap with seqpos := BitVec.ofNat 32 (if e.loop then e.iter else 0) } } t.cause t.tval op.pc :=
    if_neg (fun hc => Bool.false_ne_true (hdebug.symm.trans hc))
  rw [hd]
  exact ⟨rfl, rfl, rfl, rfl, rfl, rfl, rfl, rfl⟩

/-! ## Registers in error -/

theorem State.performsError {s : State} {e : SeqEntry} {op : SeqOp} {rest : List SeqEntry} (h : s.heads e op rest)
    (hf : e.fresh = true) (ho : s.core.vec.sfuOut = []) (hp : s.core.performError op.ins = true) :
    exec .sequencerPerform s = .next (s.registerError op.pc) := by
  obtain ⟨hseq, hop⟩ := h
  rw [exec_sequencerPerform, execSequencerPerform]
  simp only [hseq, hop, hf, ho, hp, List.isEmpty_nil, Bool.and_self, if_true]

theorem State.issuesError {s : State} {i : Instr}
    (hi : (∃ f, s.core.ir = some f ∧ f.ins = i) ∨ s.core.ir = none ∧ s.fetched = .instr i)
    (hl : s.core.interlocked i = false) (he : s.core.inError (s.readsAtIssue i) = true) :
    s.move s.fetchMove = .next (s.registerError s.core.pc) := by
  have hm : s.executeMove i = .regError := by simp [State.executeMove, hl, he]
  have hf : s.fetchMove = .regError := by
    rw [← hm]
    unfold State.fetchMove
    rcases hi with ⟨f, hir, rfl⟩ | ⟨hir, hf⟩
    · rw [hir]
    · rw [hir, hf]
  rw [hf]
  rfl

/-! ## The special-function unit -/

theorem State.sfuAccepts {s : State} {r : SfuReq} (hb : s.sfuBusy (clusterOf s.cid) = false)
    (hn : nextSfu s.sfu (clusterOf s.cid) = some r) :
    exec .sfuAccept s = .next { s with
      sfu := s.sfu.map fun x => if x = r then { x with accepted := some s.now } else x } := by
  rw [exec_sfuAccept, execSfuAccept]
  simp only [hb, hn, beq_iff_eq, Bool.false_eq_true, if_false]

/-- A result that is due for the request of the oldest entry is written. -/
theorem State.sfuDelivers {s : State} {r : SfuReq} {e : SeqEntry} {op : SeqOp} {rest : List SeqEntry} {c : Core}
    (hd : s.sfu.find? (fun r => r.due s.cid s.now) = some r) (h : s.heads e op rest)
    (ho : s.core.vec.sfuOut.head? = some r.no) (hp : s.core.perform (e.ctx s.cid 0) op = .done c) :
    exec .sfuReturn s = .next { s with
      sfu := s.sfu.filter fun x => x != r
      core := { c.advance e op.ins with vec := { (c.advance e op.ins).vec with sfuOut := s.core.vec.sfuOut.tail } } } := by
  obtain ⟨hseq, hop⟩ := h
  obtain ⟨tail, hout⟩ := List.head?_eq_some_iff.1 ho
  rw [exec_sfuReturn, execSfuReturn]
  simp only [hd, hseq, hout, hop, hp, bne_self_eq_false, Bool.false_eq_true, if_false, List.tail_cons]

/-- A result whose request is not the oldest one's is dropped. -/
theorem State.sfuDrops {s : State} {r : SfuReq} (hd : s.sfu.find? (fun r => r.due s.cid s.now) = some r)
    (ho : s.core.vec.sfuOut.head? ≠ some r.no) :
    exec .sfuReturn s = .next { s with sfu := s.sfu.filter fun x => x != r } := by
  rw [exec_sfuReturn, execSfuReturn]
  simp only [hd]
  split
  next no rest e es hout hseq =>
    rw [hout, List.head?_cons, Ne, Option.some.injEq] at ho
    cases e.op? with
    | none => rfl
    | some op => exact if_pos (bne_iff_ne.2 ho)
  next => rfl

/-! ## Tiles between neighbours -/

theorem eastOf_ne (cid : Nat) : eastOf cid ≠ cid := by simp only [eastOf, atGrid, coreNo]; omega
theorem southOf_ne (cid : Nat) : southOf cid ≠ cid := by simp only [southOf, atGrid, coreNo]; omega

/-- Changing another core leaves the core in focus, which changes after it. -/
theorem State.onCore_mapCore (s : State) (n : Nat) (f g : Core → Core) (hn : n ≠ s.cid) :
    ((s.onCore n f).mapCore g).core = g s.core ∧ ((s.onCore n f).mapCore g).coreAt n = f (s.coreAt n) := by
  have hcid : (s.onCore n f).cid = s.cid := by obtain ⟨os, h⟩ := s.onCore_eq n f; rw [h]
  have hcore : (s.onCore n f).core = s.core := by
    obtain ⟨os, h⟩ := s.onCore_eq n f
    rw [h]
    exact if_neg hn
  have hat : (s.onCore n f).coreAt n = f (s.coreAt n) := by rw [State.coreAt_onCore, if_pos rfl]
  generalize s.onCore n f = u at *
  refine ⟨congrArg g hcore, ?_⟩
  rw [← hat]
  unfold State.coreAt State.mapCore
  dsimp only
  rw [if_neg (by simpa [hcid] using hn), if_neg (by simpa [hcid] using hn)]

theorem State.receivesEast {s : State} {m : TileMsg} (hi : s.inp = .idx 0) (he : s.core.tile.fromEast = none)
    (hm : (s.coreAt (eastOf s.cid)).tile.sendWest = some m)
    (hs : s.core.sameClause (s.coreAt (eastOf s.cid)) = true) :
    exec .tmrotTileReceive s = .next ((s.onCore (eastOf s.cid) fun c => { c with tile := { c.tile with sendWest := none } }).mapCore
      fun c => { c with tile := { c.tile with fromEast := some m } }) := by
  rw [exec_tmrotTileReceive, execTmrotTileReceive]
  simp only [hi, he, hm, hs, Bool.not_true, Bool.false_eq_true, if_false]

theorem State.receivesSouth {s : State} {m : TileMsg} (hi : s.inp = .idx 1) (he : s.core.tile.fromSouth = none)
    (hm : (s.coreAt (southOf s.cid)).tile.sendNorth = some m)
    (hs : s.core.sameClause (s.coreAt (southOf s.cid)) = true) :
    exec .tmrotTileReceive s = .next ((s.onCore (southOf s.cid) fun c => { c with tile := { c.tile with sendNorth := none } }).mapCore
      fun c => { c with tile := { c.tile with fromSouth := some m } }) := by
  rw [exec_tmrotTileReceive, execTmrotTileReceive]
  simp only [hi, he, hm, hs, Bool.not_true, Bool.false_eq_true, if_false]

/-- Settles O50: items by their order, faults and registers in error by their checks, and the shared units by what they
hold. -/
theorem boundariesAndSharedUnits : Obligations.BoundariesAndSharedUnits := by
  unfold Obligations.BoundariesAndSharedUnits
  intro ready on
  have hready {c : Core} (h : ready c) : c.Ready := by
    obtain ⟨hpl, hrun, hwfe, hh, hp, hhub, hsce, hheld, -, hm⟩ := h
    exact ⟨hpl, hrun, hwfe, hh, hp, hhub, hsce, hheld, hm⟩
  refine ⟨fun s i hr hc hi hj => ?irq, fun s ch reason va hr hc => State.takesCopypf (hready hr) hc, fun s => ?timer,
    fun s hr hw => ?wait, fun s x hf hh => ?illegal, fun s hf hh => ?fault,
    fun s e op rest r h hr hm ht hf ho hd => ?timeout, fun s hb => ?errors, fun s r hb hn => State.sfuAccepts hb hn,
    fun s r e op rest c hd h ho hp => ⟨_, State.sfuDelivers hd h ho hp, rfl, rfl⟩, fun s r hd ho => State.sfuDrops hd ho,
    fun s m hi he hm hs => ?east, fun s m hi he hm hs => ?south⟩
  case irq =>
    rw [State.takesInterrupt (hready hr) i ((hready hr).irq i hc hi hj)]
    simp only [Core.irqVal_eq]
  case timer =>
    have hbit : ∀ x : BitVec 6, (x &&& bit6 1 == 0) = !x.getLsbD 1 := by decide
    rw [exec_timer, execTimer]
    simp only [Core.pend, hbit]
    rfl
  case wait => rw [exec_waitConditionMet, execWaitConditionMet, hr, hw]; rfl
  case illegal =>
    rw [exec_illegalEncoding, execIllegalEncoding, hf]
    exact raise_eq x s hh
  case fault =>
    have hgo : (s.core.pc.toNat % 4 != 0 || !s.core.okAccess s.core.pc.toNat 8) = true := by
      rcases hf with h | h <;> simp [h]
    have hfetch : s.fetched = .fault ⟨causeFetch, s.core.pc⟩ := if_pos hgo
    rw [exec_fetchFault, execFetchFault, hfetch]
    exact raise_eq _ s hh
  case timeout => exact ⟨_, State.timesOut h hr hm ht hf ho, s.core.preciseTrap_entered e op _ hd⟩
  case errors =>
    intro ended
    exact ⟨fun e op rest h hf ho hp => ⟨_, State.performsError h hf ho hp, s.fatal_host _ _ _ hb⟩,
      fun i hi hl he => ⟨_, State.issuesError hi hl he, s.fatal_host _ _ _ hb⟩⟩
  case east =>
    obtain ⟨hc, ho⟩ := s.onCore_mapCore (eastOf s.cid) (fun c => { c with tile := { c.tile with sendWest := none } })
      (fun c => { c with tile := { c.tile with fromEast := some m } }) (eastOf_ne s.cid)
    exact ⟨_, State.receivesEast hi he hm hs, by rw [hc], by rw [ho]⟩
  case south =>
    obtain ⟨hc, ho⟩ := s.onCore_mapCore (southOf s.cid) (fun c => { c with tile := { c.tile with sendNorth := none } })
      (fun c => { c with tile := { c.tile with fromSouth := some m } }) (southOf_ne s.cid)
    exact ⟨_, State.receivesSouth hi he hm hs, by rw [hc], by rw [ho]⟩

end Sys2Proof.Machine
end

section
/-! PROOF. A route that is gone revokes the members of sound groups behind it (O52, R415). -/

namespace Sys2Proof.Machine

/-- An active group of this package with one member in package 1. -/
def farGroup : Group := ⟨.active, 0, 64, 1, [⟨0, 2 ^ 12, 0, 64, false⟩], 0, [], []⟩

/-- A home whose routes firmware takes away. -/
def farHome : State :=
  { State.reset with
    sound := { State.reset.sound with groups := [(0, farGroup)] }
    inp := .routes [] [] }

/-- The home revokes its member with number 1. -/
theorem farHome_revokes : ∃ t, exec .routingTableWrite farHome = .next t ∧
    (t.group 0).map (·.nextSeq) = some 2 := by
  rw [exec_routingTableWrite]
  exact ⟨_, rfl, by decide +kernel⟩

/-- Refutes O52: writing routes that no longer reach a member of an active sound group has its home stamp the member's
revocation (R415), so the routes and the ordered ports are not all that changes. -/
theorem not_fabricStepsComplete : ¬ Obligations.FabricStepsComplete := by
  rintro ⟨-, -, -, -, -, -, -, -, -, -, -, hwrite⟩
  obtain ⟨t, ht, hseq⟩ := farHome_revokes
  rw [hwrite farHome [] [] rfl rfl] at ht
  obtain rfl := Host.Outcome.next.inj ht
  exact absurd hseq (by decide +kernel)

end Sys2Proof.Machine
end

section
/-! PROOF. Mailbox commands, attestation, bring-up and power (O53). -/

namespace Sys2Proof.Machine

/-! ## Queues that a trip freezes -/

/-- From `h` to `h'` queue `q` has stayed frozen with its fault, or has been frozen by a thermal trip. -/
structure Hub.Trips (h h' : Hub) (q : Nat) : Prop where
  stays : (h.queue q).frozen = true → (h'.queue q).frozen = true ∧ (h'.queue q).fault = (h.queue q).fault
  first : (h.queue q).frozen = false → (h'.queue q).frozen = true →
    ∃ f, (h'.queue q).fault = some f ∧ f.cause = causeEccLocal ∧ f.tval = tripTval

theorem Hub.Trips.of_queues {h h' : Hub} (e : h'.queues = h.queues) (q : Nat) : h.Trips h' q := by
  have hq : h'.queue q = h.queue q := Hub.queue_congr e q
  exact ⟨fun hf => by rw [hq]; exact ⟨hf, rfl⟩, fun hf hf' => by rw [hq, hf] at hf'; cases hf'⟩

theorem Hub.Trips.trans {h h' h'' : Hub} {q : Nat} (a : h.Trips h' q) (b : h'.Trips h'' q) : h.Trips h'' q := by
  refine ⟨fun hf => ?_, fun hf hf'' => ?_⟩
  · obtain ⟨hf', he⟩ := a.stays hf
    obtain ⟨hf'', he'⟩ := b.stays hf'
    exact ⟨hf'', he'.trans he⟩
  · cases hf' : (h'.queue q).frozen with
    | false => exact b.first hf' hf''
    | true =>
      obtain ⟨f, hr, hok⟩ := a.first hf hf'
      exact ⟨f, (b.stays hf').2.trans hr, hok⟩

/-- A change of one queue leaves the others. -/
theorem Hub.queue_onQueue_of_ne (h : Hub) (q p : Nat) (f : LaunchQueue → LaunchQueue) (hp : p ≠ q ∨ 64 ≤ q) :
    (h.onQueue q f).queue p = h.queue p := by
  unfold Hub.onQueue
  split
  next hq =>
    have hne : q ≠ p := fun e => hp.elim (fun h => h e.symm) (by omega)
    unfold Hub.queue
    simp only [Vector.toList_set, List.getD_eq_getElem?_getD, List.getElem?_set_ne hne]
  next => rfl

/-- A queue that a trip's fault freezes. -/
theorem Hub.freeze_trips (h : Hub) (p q : Nat) (f : FaultRec) (hc : f.cause = causeEccLocal) (ht : f.tval = tripTval) :
    h.Trips (h.freeze p f) q := by
  by_cases hq : q ≠ p ∨ 64 ≤ p
  · have e : (h.freeze p f).queue q = h.queue q := by
      unfold Hub.freeze Hub.cancel
      split
      · exact Hub.queue_onQueue_of_ne _ _ _ _ hq
      · rw [Hub.settle_queue, Hub.queue_onQueue_of_ne _ _ _ _ hq, Hub.queue_onQueue_of_ne _ _ _ _ hq]
        rfl
    exact ⟨fun hf => by rw [e]; exact ⟨hf, rfl⟩, fun hf hf' => by rw [e, hf] at hf'; cases hf'⟩
  · obtain ⟨rfl, hlt⟩ : q = p ∧ p < 64 := by omega
    refine ⟨fun hf => ?_, fun hf _ => ?_⟩
    · unfold Hub.freeze
      rw [if_pos hf, Hub.queue_onQueue _ _ _ hlt]
      exact ⟨hf, rfl⟩
    · exact ⟨f, (h.freeze_first q f hlt hf).2, hc, ht⟩

theorem Hub.freeze_frozen (h : Hub) (q : Nat) (f : FaultRec) (hq : q < 64) : ((h.freeze q f).queue q).frozen = true := by
  cases hf : (h.queue q).frozen with
  | true =>
    unfold Hub.freeze
    rw [if_pos hf, Hub.queue_onQueue _ _ _ hq]
    exact hf
  | false => exact (h.freeze_first q f hq hf).1

/-! ## The binds of cores that a fault does not stop -/

/-- Changing and dropping entries that a search does not look for leaves what it finds. -/
theorem find?_filter_map_kept {α : Type} {l : List α} {f : α → α} {q p p' : α → Bool}
    (hp : ∀ x, p' (f x) = p x) (hq : ∀ x, p x = true → q (f x) = true) :
    ((l.map f).filter q).find? p' = (l.find? p).map f := by
  induction l with
  | nil => rfl
  | cons x l ih =>
    cases hx : p x with
    | true => rw [List.map_cons, List.filter_cons_of_pos (hq x hx), List.find?_cons_of_pos ((hp x).trans hx),
        List.find?_cons_of_pos hx, Option.map_some]
    | false =>
      rw [List.find?_cons_of_neg (by simp [hx]), ← ih, List.map_cons, List.filter_cons]
      split
      · rw [List.find?_cons_of_neg (by simp [hp, hx])]
      · rfl

/-- The queue from which a core's clause came. -/
def State.queueOf (s : State) (cid : Nat) : Option Nat := (s.bindOf cid).map (·.entry.queue)

/-- What a core's clause is found by: its binding and its clause, where it runs one. -/
def Core.SameClause (c d : Core) : Prop := d.bound = c.bound ∧ d.ids = c.ids

theorem Core.SameClause.inClause {c d : Core} (h : c.SameClause d) (clause : Nat) : d.inClause clause = c.inClause clause := by
  unfold Core.inClause
  rw [h.1, h.2]

theorem Core.ServiceOnly.sameClause {c d : Core} (h : c.ServiceOnly d) : c.SameClause d := by
  obtain ⟨sc, wl, bs, rfl⟩ := h
  exact ⟨rfl, rfl⟩

/-- A change of the binds that leaves a member where it is leaves its queue. -/
theorem State.queueOf_kept {s t : State} {f : Bind → Bind} {q : Bind → Bool} {j : Nat}
    (hb : t.hub.binds = (s.hub.binds.map f).filter q) (hc : (s.coreAt j).SameClause (t.coreAt j))
    (hf : ∀ b, (f b).started = b.started ∧ (f b).clause = b.clause ∧ (f b).has j = b.has j ∧ (f b).entry = b.entry)
    (hq : ∀ b, b.has j = true → q (f b) = true) : t.queueOf j = s.queueOf j := by
  unfold State.queueOf State.bindOf
  rw [hb, find?_filter_map_kept (p := fun b => b.started && (s.coreAt j).inClause b.clause && b.has j) ?_ ?_,
    Option.map_map]
  · refine congrArg (fun g => Option.map g _) (funext fun b => ?_)
    exact congrArg LaunchEntry.queue (hf b).2.2.2
  · intro b
    obtain ⟨h1, h2, h3, -⟩ := hf b
    rw [h1, h2, h3, hc.inClause]
  · intro b hb
    rw [Bool.and_eq_true] at hb
    exact hq b hb.2

theorem State.queueOf_congr {s t : State} {j : Nat} (hb : t.hub.binds = s.hub.binds)
    (hc : (s.coreAt j).SameClause (t.coreAt j)) : t.queueOf j = s.queueOf j :=
  State.queueOf_kept (f := id) (q := fun _ => true) (by rw [filter_keepsAll, List.map_id, hb]) hc (fun _ => ⟨rfl, rfl, rfl, rfl⟩) fun _ _ => rfl

/-- A bind of a started clause from which a core has gone. -/
def Bind.lose (clause cid : Nat) (b : Bind) : Bind :=
  if b.started && b.clause == clause then
    { b with members := b.members.map fun m => if m.cid == cid then { m with gone := true } else m }
  else b

theorem Bind.lose_of_ne {clause cid j : Nat} (hj : j ≠ cid) (b : Bind) :
    (b.lose clause cid).started = b.started ∧ (b.lose clause cid).clause = b.clause ∧
      (b.lose clause cid).has j = b.has j ∧ (b.lose clause cid).entry = b.entry := by
  have hmem : (b.members.map fun m => if m.cid == cid then { m with gone := true } else m).any
      (fun m => m.cid == j && !m.gone) = b.members.any fun m => m.cid == j && !m.gone := by
    rw [List.any_map]
    refine congrArg (b.members.any ·) (funext fun m => ?_)
    simp only [Function.comp]
    split
    next h =>
      have hne : (m.cid == j) = false := beq_eq_false_iff_ne.2 fun e => hj (e.symm.trans (beq_iff_eq.1 h))
      simp [hne]
    next => rfl
  unfold Bind.lose
  split
  · exact ⟨rfl, rfl, hmem, rfl⟩
  · exact ⟨rfl, rfl, rfl, rfl⟩

theorem State.memberGone_binds (s : State) (clause cid : Nat) : (s.memberGone clause cid).hub.binds =
    (s.hub.binds.map (Bind.lose clause cid)).filter fun b => !(b.started && b.members.all (·.gone)) := by
  unfold State.memberGone
  dsimp only
  split
  · obtain ⟨bs, os, br, sv, e⟩ := State.endClauseBars_eq (s.onHub fun h => { h with
      binds := (s.hub.binds.map (Bind.lose clause cid)).filter fun b => !(b.started && b.members.all (·.gone)) }) clause
    exact congrArg (fun u => State.hub u |>.binds) e
  · rfl

/-- A member that another core's end leaves. -/
theorem State.memberGone_queueOf (s : State) (clause : Nat) {cid j : Nat} (hj : j ≠ cid) :
    (s.memberGone clause cid).queueOf j = s.queueOf j := by
  refine State.queueOf_kept (s.memberGone_binds clause cid) ((s.memberGone_service clause cid).2.2.2.2.2 j).sameClause
    (Bind.lose_of_ne hj) fun b hb => ?_
  rw [← (Bind.lose_of_ne (clause := clause) hj b).2.2.1] at hb
  generalize b.lose clause cid = b' at hb ⊢
  obtain ⟨m, hm, hg⟩ := List.any_eq_true.1 hb
  rw [Bool.and_eq_true, Bool.not_eq_true'] at hg
  have hall : b'.members.all (·.gone) = false := List.all_eq_false.2 ⟨m, hm, by simp [hg.2]⟩
  rw [hall, Bool.and_false]
  rfl

/-! ## A core leaves, and a core's fault -/

theorem Core.idled_rest (c : Core) (now : Nat) : (c.idled now).trap = c.trap ∧ (c.idled now).haltReq = false ∧
    c.SameClause (c.idled now) := by
  have hreq : ({ c.toIdle with sce := { c.sce with phase := .none } } : Core).haltReq = c.haltReq := rfl
  unfold Core.idled
  dsimp only
  split
  · exact ⟨rfl, rfl, rfl, rfl⟩
  next h => exact ⟨rfl, by simpa using h, rfl, rfl⟩

/-- What of a core the stop of others leaves. -/
structure Core.Spared (c d : Core) : Prop where
  run : d.run = c.run
  pc : d.pc = c.pc
  halt : d.haltReq = c.haltReq
  trap : d.trap = c.trap
  clause : c.SameClause d

theorem Core.ServiceOnly.spared {c d : Core} (h : c.ServiceOnly d) : c.Spared d := by
  obtain ⟨sc, wl, bs, rfl⟩ := h
  exact ⟨rfl, rfl, rfl, rfl, rfl, rfl⟩

theorem Core.Spared.trans {c d e : Core} (h : c.Spared d) (h' : d.Spared e) : c.Spared e :=
  ⟨h'.run.trans h.run, h'.pc.trans h.pc, h'.halt.trans h.halt, h'.trap.trans h.trap,
    h'.clause.1.trans h.clause.1, h'.clause.2.trans h.clause.2⟩

/-- A core stopped for its leaving: idle, or halted where a halt was pending. -/
structure Core.Stopped (c d : Core) : Prop where
  run : d.run = c.leavesFor
  pc : d.pc = c.pc
  halt : d.haltReq = false
  trap : d.trap = c.trap
  clause : c.SameClause d

/-- A core that leaves stops, and the others go on in their clauses. -/
structure State.Leaves (s t : State) (cid : Nat) : Prop where
  queues : t.hub.queues = s.hub.queues
  spared : ∀ j, j ≠ cid → (s.coreAt j).Spared (t.coreAt j)
  stopped : (s.coreAt cid).Stopped (t.coreAt cid)
  queueOf : ∀ j, j ≠ cid → t.queueOf j = s.queueOf j
  unbound : s.queueOf cid = none → t.queueOf cid = none

theorem State.leave_leaves (s : State) (cid : Nat) : s.Leaves (s.leave cid) cid := by
  have hserve := (s.withdrawAt_service cid).trans (State.retireTask_service _ cid)
  have hbinds : ((s.withdrawAt cid).retireTask cid).hub.binds = s.hub.binds := by
    obtain ⟨ph, os, sc, fb, e⟩ := s.withdrawAt_eq cid
    obtain ⟨r, os', w, e'⟩ := (s.withdrawAt cid).retireTask_eq cid
    rw [e', e]
  generalize hu : (s.withdrawAt cid).retireTask cid = u at *
  have hq (j : Nat) : u.queueOf j = s.queueOf j := State.queueOf_congr hbinds (hserve.2.2.2.2.2 j).sameClause
  have hgo : ∃ v : State, s.ServiceOnly v ∧ (s.leave cid = v.onCore cid fun c => c.idled v.now) ∧
      (∀ j, j ≠ cid → v.queueOf j = s.queueOf j) ∧ (s.queueOf cid = none → v.queueOf cid = none) := by
    cases hb : u.bindOf cid with
    | none =>
      refine ⟨u, hserve, ?_, fun j _ => hq j, fun h => (hq cid).trans h⟩
      unfold State.leave
      dsimp only
      rw [hu, hb]
      rfl
    | some b =>
      refine ⟨u.memberGone b.clause cid, hserve.trans (u.memberGone_service _ _), ?_,
        fun j hj => (u.memberGone_queueOf _ hj).trans (hq j), fun h => ?_⟩
      · unfold State.leave
        dsimp only
        rw [hu, hb]
        rfl
      · rw [← hq, State.queueOf, hb] at h
        cases h
  obtain ⟨v, ⟨-, -, hqs, -, -, hc⟩, hleave, hne, hself⟩ := hgo
  rw [hleave]
  have hat (j : Nat) : (v.onCore cid fun c => c.idled v.now).coreAt j =
      if j = cid then (v.coreAt cid).idled v.now else v.coreAt j := State.coreAt_onCore _ _ _ _
  have hsame (j : Nat) : (v.coreAt j).SameClause ((v.onCore cid fun c => c.idled v.now).coreAt j) := by
    rw [hat]
    split
    next h => rw [h]; exact (Core.idled_rest _ _).2.2
    next => exact ⟨rfl, rfl⟩
  obtain ⟨os, ho⟩ := v.onCore_eq cid fun c => c.idled v.now
  have hhub : (v.onCore cid fun c => c.idled v.now).hub = v.hub := by rw [ho]
  have hqueue (j : Nat) : (v.onCore cid fun c => c.idled v.now).queueOf j = v.queueOf j :=
    State.queueOf_congr (by rw [hhub]) (hsame j)
  obtain ⟨hrun, hpc, -, -⟩ := (v.coreAt cid).idled_fields v.now
  obtain ⟨htrap, hhalt, hclause⟩ := (v.coreAt cid).idled_rest v.now
  have hs := (hc cid).spared
  refine ⟨by rw [hhub, hqs], fun j hj => by rw [hat, if_neg hj]; exact (hc j).spared, ?_,
    fun j hj => (hqueue j).trans (hne j hj), fun h => (hqueue cid).trans (hself h)⟩
  rw [hat, if_pos rfl]
  refine ⟨hrun.trans ?_, hpc.trans hs.pc, hhalt, htrap.trans hs.trap, hclause.1.trans hs.clause.1,
    hclause.2.trans hs.clause.2⟩
  unfold Core.leavesFor
  rw [hs.halt]

/-- A fault of a thermal trip at a core: it stops, its clause's queue is frozen or its trap registers show the fault, and
the other cores go on in their clauses. -/
structure State.Stops (s t : State) (cid : Nat) : Prop where
  trips : ∀ q, s.hub.Trips t.hub q
  spared : ∀ j, j ≠ cid → (s.coreAt j).Spared (t.coreAt j)
  run : (t.coreAt cid).run = (s.coreAt cid).leavesFor
  pc : (t.coreAt cid).pc = (s.coreAt cid).pc
  halt : (t.coreAt cid).haltReq = false
  shown : s.queueOf cid = none → (t.coreAt cid).trap.cause = 0x1A ∧ (t.coreAt cid).trap.epc = (s.coreAt cid).pc ∧
    (t.coreAt cid).trap.tval = tripTval
  queueOf : ∀ j, j ≠ cid → t.queueOf j = s.queueOf j
  unbound : s.queueOf cid = none → t.queueOf cid = none
  frozen : ∀ q, s.queueOf cid = some q → q < 64 → (t.hub.queue q).frozen = true

theorem Core.discardAll_spared (c : Core) : c.Spared c.discardAll := ⟨rfl, rfl, rfl, rfl, rfl, rfl⟩

theorem Hub.freeze_binds (h : Hub) (q : Nat) (f : FaultRec) : (h.freeze q f).binds = h.binds := by
  have hsettle (n : Nat) (h : Hub) : (h.settleFrom n).binds = h.binds := by
    induction n generalizing h with
    | zero => rfl
    | succ n ih =>
      unfold Hub.settleFrom
      split
      · rw [ih]
        unfold Hub.handle
        split <;> rfl
      · rfl
  unfold Hub.freeze Hub.cancel
  split
  · obtain ⟨qs, e⟩ := h.onQueue_eq q fun x => { x with faultsLater := x.faultsLater + 1 }
    rw [e]
  · unfold Hub.settle
    rw [hsettle]
    obtain ⟨qs, e⟩ := Hub.onQueue_eq ({ h with
      entries := h.entries.filter fun e => e.queue != q, pending := h.pending.filter fun k => k.queue != q } : Hub) q
      fun x => { x with frozen := true, fault := some f, ovCount := 0 }
    dsimp only at e ⊢
    rw [e]
    obtain ⟨qs', e'⟩ := Hub.onQueue_eq _ q fun x => { x with cancelled := x.cancelled + _ }
    rw [e']

/-- The members of a clause that has ended in a fault. -/
def Bind.fault (clause : Nat) (x : Bind) : Bind := if x.started && x.clause == clause then { x with faulted := true } else x

theorem Bind.fault_kept (clause j : Nat) (x : Bind) : (x.fault clause).started = x.started ∧
    (x.fault clause).clause = x.clause ∧ (x.fault clause).has j = x.has j ∧ (x.fault clause).entry = x.entry := by
  unfold Bind.fault
  split <;> exact ⟨rfl, rfl, rfl, rfl⟩

/-- The clause of a bind ends in a fault, and its queue is frozen. -/
def State.faultBind (s : State) (b : Bind) (f : FaultRec) : State :=
  s.onHub fun h => ({ h with binds := h.binds.map (Bind.fault b.clause) }).freeze b.entry.queue f

theorem State.faultBind_queueOf (s : State) (b : Bind) (f : FaultRec) (j : Nat) :
    (s.faultBind b f).queueOf j = s.queueOf j :=
  State.queueOf_kept (f := Bind.fault b.clause) (q := fun _ => true) (by
    rw [filter_keepsAll]; exact Hub.freeze_binds _ _ _) ⟨rfl, rfl⟩ (Bind.fault_kept b.clause j) fun _ _ => rfl

theorem State.faultBind_trips (s : State) (b : Bind) (f : FaultRec) (hc : f.cause = causeEccLocal)
    (ht : f.tval = tripTval) (q : Nat) : s.hub.Trips (s.faultBind b f).hub q :=
  (Hub.Trips.of_queues (h := s.hub) (h' := { s.hub with binds := s.hub.binds.map (Bind.fault b.clause) }) rfl q).trans
    (Hub.freeze_trips _ _ _ _ hc ht)

/-- A fault of a core is its clause's, where it runs one, and its own else. -/
theorem State.fatal_eq (s : State) (cid cause : Nat) (epc tval : Word) : s.fatal cid cause epc tval =
    match (s.flush cid).bindOf cid with
    | some b => ((s.flush cid).faultBind b ⟨cid, cause, epc, tval, BitVec.ofNat 64 b.clause⟩).leave cid
    | none => ((s.flush cid).onCore cid (Core.shownFault cause epc tval)).leave cid := by
  unfold State.fatal
  dsimp only
  cases (s.flush cid).bindOf cid <;> rfl

theorem State.faultBind_stops {u : State} {cid : Nat} {b : Bind} (hb : u.bindOf cid = some b) (f : FaultRec)
    (hc : f.cause = causeEccLocal) (ht : f.tval = tripTval) : u.Stops ((u.faultBind b f).leave cid) cid := by
  have hown : u.queueOf cid = some b.entry.queue := by rw [State.queueOf, hb]; rfl
  have hl := (u.faultBind b f).leave_leaves cid
  have htrip := u.faultBind_trips b f hc ht
  have hfrozen : b.entry.queue < 64 → ((u.faultBind b f).hub.queue b.entry.queue).frozen = true := Hub.freeze_frozen _ _ _
  have hqueue := u.faultBind_queueOf b f
  have hat (j : Nat) : (u.faultBind b f).coreAt j = u.coreAt j := rfl
  generalize u.faultBind b f = v at *
  refine ⟨fun q => (htrip q).trans (.of_queues hl.queues q), fun j hj => ?_, ?_, ?_, hl.stopped.halt, fun h => ?_,
    fun j hj => ?_, fun h => ?_, fun q h hlt => ?_⟩
  · rw [← hat]
    exact hl.spared j hj
  · rw [hl.stopped.run, hat]
  · rw [hl.stopped.pc, hat]
  · rw [hown] at h; cases h
  · rw [hl.queueOf j hj, hqueue]
  · rw [hown] at h; cases h
  · rw [hown] at h
    cases h
    rw [Hub.queue_congr hl.queues]
    exact hfrozen hlt

theorem State.shownFault_stops {u : State} {cid : Nat} (hb : u.bindOf cid = none) :
    u.Stops ((u.onCore cid (Core.shownFault causeEccLocal (u.coreAt cid).pc tripTval)).leave cid) cid := by
  have hown : u.queueOf cid = none := by rw [State.queueOf, hb]; rfl
  have hl := (u.onCore cid (Core.shownFault causeEccLocal (u.coreAt cid).pc tripTval)).leave_leaves cid
  have hat (j : Nat) : (u.onCore cid (Core.shownFault causeEccLocal (u.coreAt cid).pc tripTval)).coreAt j =
      if j = cid then (u.coreAt cid).shownFault causeEccLocal (u.coreAt cid).pc tripTval else u.coreAt j :=
    State.coreAt_onCore _ _ _ _
  have hhub : (u.onCore cid (Core.shownFault causeEccLocal (u.coreAt cid).pc tripTval)).hub = u.hub := by
    obtain ⟨os, e⟩ := u.onCore_eq cid (Core.shownFault causeEccLocal (u.coreAt cid).pc tripTval)
    rw [e]
  generalize u.onCore cid (Core.shownFault causeEccLocal (u.coreAt cid).pc tripTval) = v at *
  have hself := hat cid
  rw [if_pos rfl] at hself
  have hqueue (j : Nat) : v.queueOf j = u.queueOf j := by
    refine State.queueOf_congr (by rw [hhub]) ?_
    rw [hat]
    split
    next h => rw [h]; exact ⟨rfl, rfl⟩
    next => exact ⟨rfl, rfl⟩
  refine ⟨fun q => .of_queues (by rw [hl.queues, hhub]) q, fun j hj => ?_, ?_, ?_, hl.stopped.halt, fun _ => ?_,
    fun j hj => ?_, fun h => ?_, fun q h => ?_⟩
  · have hj' := hl.spared j hj
    rwa [hat, if_neg hj] at hj'
  · rw [hl.stopped.run, hself]; rfl
  · rw [hl.stopped.pc, hself]; rfl
  · rw [hl.stopped.trap, hself]; exact ⟨rfl, rfl, rfl⟩
  · rw [hl.queueOf j hj, hqueue]
  · exact hl.unbound (by rw [hqueue, hown])
  · rw [hown] at h; cases h

/-- A state that differs from an earlier one in what a fault discards stops as that one. -/
theorem State.Stops.of_spared {s u t : State} {cid : Nat} (h : u.Stops t cid) (hhub : u.hub = s.hub)
    (hs : ∀ j, (s.coreAt j).Spared (u.coreAt j)) : s.Stops t cid := by
  have hq (j : Nat) : u.queueOf j = s.queueOf j := State.queueOf_congr (by rw [hhub]) (hs j).clause
  refine ⟨fun q => hhub ▸ h.trips q, fun j hj => (hs j).trans (h.spared j hj), h.run.trans ?_, h.pc.trans (hs cid).pc, h.halt,
    fun hn => ?_, fun j hj => (h.queueOf j hj).trans (hq j), fun hn => h.unbound ((hq cid).trans hn),
    fun q hn => h.frozen q ((hq cid).trans hn)⟩
  · unfold Core.leavesFor
    rw [(hs cid).halt]
  · rw [← (hs cid).pc]
    exact h.shown ((hq cid).trans hn)

/-- Discarding a core's sequencer leaves the hub, and of the cores what a fault of another leaves. -/
theorem State.flush_spared (s : State) (cid : Nat) :
    (s.flush cid).hub = s.hub ∧ ∀ j, (s.coreAt j).Spared ((s.flush cid).coreAt j) := by
  constructor
  · obtain ⟨os, e⟩ := s.onCore_eq cid Core.discardAll
    rw [State.flush, e]
  · intro j
    rw [State.flush, State.coreAt_onCore]
    split
    next h => rw [h]; exact Core.discardAll_spared _
    next => exact ⟨rfl, rfl, rfl, rfl, rfl, rfl⟩

theorem State.fatal_stops (s : State) (cid : Nat) :
    s.Stops (s.fatal cid causeEccLocal (s.coreAt cid).pc tripTval) cid := by
  obtain ⟨hhub, hs⟩ := s.flush_spared cid
  rw [State.fatal_eq, ← (hs cid).pc]
  split
  next b hb => exact (State.faultBind_stops hb _ rfl rfl).of_spared hhub hs
  next hb => exact (State.shownFault_stops hb).of_spared hhub hs

/-! ## The trip -/

/-- The trip's faults of these cores, one after another. -/
def State.stopAll (s : State) (cids : List Nat) : State :=
  cids.foldl (fun s cid => s.fatal cid causeEccLocal (s.coreAt cid).pc tripTval) s

theorem State.stopAll_trips (s : State) (cids : List Nat) (q : Nat) : s.hub.Trips (s.stopAll cids).hub q := by
  induction cids generalizing s with
  | nil => exact .of_queues rfl q
  | cons c cids ih => exact ((s.fatal_stops c).trips q).trans (ih _)

/-- A core that is not named goes on. -/
theorem State.stopAll_spared (s : State) {cids : List Nat} {j : Nat} (hj : j ∉ cids) :
    (s.coreAt j).Spared ((s.stopAll cids).coreAt j) := by
  induction cids generalizing s with
  | nil => exact ⟨rfl, rfl, rfl, rfl, rfl, rfl⟩
  | cons c cids ih =>
    rw [List.mem_cons, not_or] at hj
    exact ((s.fatal_stops c).spared j hj.1).trans (ih _ hj.2)

/-- A named core stops; without a clause it shows the fault, and with one its queue is frozen. -/
theorem State.stopAll_stops (s : State) {cids : List Nat} {j : Nat} (hj : j ∈ cids) :
    (((s.stopAll cids).coreAt j).run = .idle ∨
      (s.coreAt j).haltReq = true ∧ ((s.stopAll cids).coreAt j).run = .halt) ∧
    (s.queueOf j = none → ((s.stopAll cids).coreAt j).trap.cause = 0x1A ∧
      ((s.stopAll cids).coreAt j).trap.epc = (s.coreAt j).pc ∧ ((s.stopAll cids).coreAt j).trap.tval = tripTval) ∧
    ∀ q, s.queueOf j = some q → q < 64 → ((s.stopAll cids).hub.queue q).frozen = true := by
  induction cids generalizing s with
  | nil => cases hj
  | cons c cids ih =>
    have hstop := s.fatal_stops c
    have hrun : ((s.fatal c causeEccLocal (s.coreAt c).pc tripTval).coreAt c).run = .idle ∨ (s.coreAt c).haltReq = true ∧
        ((s.fatal c causeEccLocal (s.coreAt c).pc tripTval).coreAt c).run = .halt := by
      rw [hstop.run, Core.leavesFor]
      cases (s.coreAt c).haltReq <;> simp
    have hall : s.stopAll (c :: cids) = (s.fatal c causeEccLocal (s.coreAt c).pc tripTval).stopAll cids := rfl
    rw [hall]
    generalize s.fatal c causeEccLocal (s.coreAt c).pc tripTval = u at *
    by_cases hm : j ∈ cids
    · obtain ⟨h1, h2, h3⟩ := ih u hm
      by_cases hc : j = c
      · subst hc
        refine ⟨.inl ?_, fun hn => ?_, fun q hn hlt => ((u.stopAll_trips cids q).stays (hstop.frozen q hn hlt)).1⟩
        · rw [hstop.halt] at h1
          simpa using h1
        · rw [← hstop.pc]
          exact h2 (hstop.unbound hn)
      · rw [(hstop.spared j hc).halt] at h1
        rw [hstop.queueOf j hc, (hstop.spared j hc).pc] at h2
        rw [hstop.queueOf j hc] at h3
        exact ⟨h1, h2, h3⟩
    · obtain rfl : j = c := (List.mem_cons.1 hj).resolve_right hm
      have hrest := u.stopAll_spared hm
      rw [hrest.run, hrest.trap]
      exact ⟨hrun, hstop.shown, fun q hn hlt => ((u.stopAll_trips cids q).stays (hstop.frozen q hn hlt)).1⟩

/-- The saved members' clauses that a trip ends. -/
def State.endAllSaved (s : State) (bs : List Bind) : State :=
  bs.foldl (fun s b => s.endSaved b causeEccLocal tripTval) s

theorem State.endSaved_eq (s : State) (b : Bind) : s.endSaved b causeEccLocal tripTval =
    match s.saved.find? fun m => m.core.inClause b.clause with
    | none => s
    | some m => s.faultBind b ⟨m.cid, causeEccLocal, m.core.pc, tripTval, BitVec.ofNat 64 b.clause⟩ := rfl

/-- Ending a saved member's clause changes the hub only. -/
theorem State.endSaved_keeps (s : State) (b : Bind) : (∀ q, s.hub.Trips (s.endSaved b causeEccLocal tripTval).hub q) ∧
    (s.endSaved b causeEccLocal tripTval).saved = s.saved ∧
    ∀ j, (s.endSaved b causeEccLocal tripTval).coreAt j = s.coreAt j := by
  rw [State.endSaved_eq]
  split
  · exact ⟨.of_queues rfl, rfl, fun _ => rfl⟩
  · exact ⟨s.faultBind_trips b _ rfl rfl, rfl, fun _ => rfl⟩

theorem State.endAllSaved_keeps (s : State) (bs : List Bind) : (∀ q, s.hub.Trips (s.endAllSaved bs).hub q) ∧
    ∀ j, (s.endAllSaved bs).coreAt j = s.coreAt j := by
  induction bs generalizing s with
  | nil => exact ⟨.of_queues rfl, fun _ => rfl⟩
  | cons b bs ih =>
    obtain ⟨ht, -, hc⟩ := s.endSaved_keeps b
    obtain ⟨ht', hc'⟩ := ih (s.endSaved b causeEccLocal tripTval)
    exact ⟨fun q => (ht q).trans (ht' q), fun j => (hc' j).trans (hc j)⟩

/-- A clause with a saved member ends, and its queue is frozen. -/
theorem State.endAllSaved_frozen (s : State) {bs : List Bind} {b : Bind} {m : SavedMember} (hb : b ∈ bs)
    (hm : (s.saved.find? fun m => m.core.inClause b.clause) = some m) (hq : b.entry.queue < 64) :
    ((s.endAllSaved bs).hub.queue b.entry.queue).frozen = true := by
  induction bs generalizing s with
  | nil => cases hb
  | cons b' bs ih =>
    have hall : s.endAllSaved (b' :: bs) = (s.endSaved b' causeEccLocal tripTval).endAllSaved bs := rfl
    obtain ⟨-, hsaved, -⟩ := s.endSaved_keeps b'
    by_cases hin : b ∈ bs
    · rw [hall]
      exact ih _ hin (by rw [hsaved]; exact hm)
    · obtain rfl : b = b' := (List.mem_cons.1 hb).resolve_right hin
      have hself : ((s.endSaved b causeEccLocal tripTval).hub.queue b.entry.queue).frozen = true := by
        rw [State.endSaved_eq, hm]
        exact Hub.freeze_frozen _ _ _ hq
      rw [hall]
      exact (((State.endAllSaved_keeps _ bs).1 _).stays hself).1

/-- Everything that a thermal trip ends. -/
def State.tripAll (s : State) : State :=
  (s.stopAll s.busyCores).endAllSaved ((s.stopAll s.busyCores).hub.binds.filter fun b => b.started && !b.faulted)

theorem execThermalTrip_eq (s : State) : exec .thermalTrip s =
    .next ((s.tripAll.onHost fun h => { h with tripped := true }).firmwareIrq irqThermal) := rfl

/-- What a change of the host's side with an interrupt of firmware leaves. -/
theorem State.hostIrq_keeps (s : State) (f : HostSide → HostSide) (n : Nat) :
    ((s.onHost f).firmwareIrq n).hub = s.hub ∧ ∀ j, ((s.onHost f).firmwareIrq n).coreAt j = s.coreAt j :=
  ⟨rfl, fun _ => rfl⟩

theorem State.hostIrq_tripped (s : State) (n : Nat) :
    ((s.onHost fun h => { h with tripped := true }).firmwareIrq n).host.tripped = true := rfl

/-- A trip of queues as it is claimed: frozen, with the trip's fault where it was not frozen before. -/
theorem Hub.Trips.ends {h h' : Hub} {q : Nat} (a : h.Trips h' q) (hf : (h'.queue q).frozen = true) :
    (h'.queue q).frozen = true ∧ ((h.queue q).frozen = false → ∃ f, (h'.queue q).fault = some f ∧
      f.cause = 0x1A ∧ f.tval = 0xFFFFFFFFFFFFFFFD) := ⟨hf, fun h0 => a.first h0 hf⟩

theorem State.tripAll_trips (s : State) (q : Nat) : s.hub.Trips s.tripAll.hub q :=
  (s.stopAll_trips _ q).trans ((State.endAllSaved_keeps _ _).1 q)

theorem State.tripAll_busy (s : State) {cid : Nat} (h : cid ∈ s.busyCores) :
    ((s.tripAll.coreAt cid).run = .idle ∨ (s.coreAt cid).haltReq = true ∧ (s.tripAll.coreAt cid).run = .halt) ∧
    (s.bindOf cid = none → (s.tripAll.coreAt cid).trap.cause = 0x1A ∧
      (s.tripAll.coreAt cid).trap.epc = (s.coreAt cid).pc ∧ (s.tripAll.coreAt cid).trap.tval = tripTval) ∧
    ∀ b, s.bindOf cid = some b → b.entry.queue < 64 → (s.tripAll.hub.queue b.entry.queue).frozen = true := by
  have hat : s.tripAll.coreAt cid = (s.stopAll s.busyCores).coreAt cid := (State.endAllSaved_keeps _ _).2 cid
  obtain ⟨h1, h2, h3⟩ := s.stopAll_stops h
  rw [hat]
  refine ⟨h1, fun hn => h2 (by rw [State.queueOf, hn]; rfl), fun b hb hlt => ?_⟩
  exact (((State.endAllSaved_keeps _ _).1 _).stays (h3 _ (by rw [State.queueOf, hb]; rfl) hlt)).1

theorem State.tripAll_saved (s : State) {b : Bind} {m : SavedMember} (hn : s.busyCores = []) (hb : b ∈ s.hub.binds)
    (hs : b.started = true) (hf : b.faulted = false) (hq : b.entry.queue < 64)
    (hm : (s.saved.find? fun m => m.core.inClause b.clause) = some m) :
    (s.tripAll.hub.queue b.entry.queue).frozen = true := by
  unfold State.tripAll
  rw [hn]
  exact State.endAllSaved_frozen s (List.mem_filter.2 ⟨hb, by simp [hs, hf]⟩) hm hq

/-! ## Bring-up -/

theorem HostSide.die_at (h : HostSide) (k : Fin 7) : h.dies.toList[k.val]? = some (h.dies.get k) := by
  rw [Vector.getElem?_toList]
  exact Vector.getElem?_eq_getElem k.isLt

/-- A step of a die that does not end the bring-up. -/
theorem State.bringsUp {s : State} {k : Nat} (hi : s.inp = .idx k) (hp : s.host.powered = true)
    (hr : s.host.ready = false) (hf : s.host.fail = false) : exec .bringupStepDone s =
      if (s.host.dieStep k).ready then .next (s.onHost fun h => h.dieStep k).coldStart
      else .next (s.onHost fun h => h.dieStep k) := by
  have hgo : s.host.bringing = true := by rw [HostSide.bringing, hp, hr, hf]; rfl
  rw [exec_bringupStepDone, execBringupStepDone]
  simp only [hi, hgo, Bool.not_true, Bool.false_eq_true, if_false]
  rfl

theorem State.bringsUp_fails {s : State} {k : Nat} {code : BitVec 8} (hi : s.inp = .idx k) (hp : s.host.powered = true)
    (hr : s.host.ready = false) (hf : s.host.fail = false) (hd : s.host.dieStep k = s.host.failStep code) :
    ∃ t, exec .bringupStepDone s = .next t ∧ t.host.fail = true ∧ t.host.code = code ∧ t.host.ready = false := by
  have hn : (s.host.failStep code).ready = false := hr
  refine ⟨s.onHost fun h => h.dieStep k, ?_, ?_⟩
  · rw [State.bringsUp hi hp hr hf, hd, hn, if_neg Bool.false_ne_true]
  · have he : (s.onHost fun h => h.dieStep k).host = s.host.failStep code := hd
    rw [he]
    exact ⟨rfl, rfl, hn⟩

/-- An image is unsigned where its signature does not verify, or its key is fused in no slot that stands. -/
theorem Die.unsigned {d : Die} (h : d.sigOk = false ∨ ∀ j : Fin 4, d.revoked.getLsbD j.val = false →
    d.keyHashes.get j ≠ sha256 (toBytesLE 32 d.pubKey.toNat).reverse) : d.signed = false := by
  unfold Die.signed
  generalize sha256 (toBytesLE 32 d.pubKey.toNat).reverse = x at *
  rcases h with h | h
  · rw [h, Bool.false_and]
  · rw [Bool.and_eq_false_iff]
    refine .inr (List.any_eq_false.2 fun ⟨y, j⟩ hm => ?_)
    obtain ⟨hj, hy⟩ := List.mem_zipIdx' hm
    rw [Vector.length_toList] at hj
    intro hc
    rw [Bool.and_eq_true, beq_iff_eq, Bool.not_eq_true'] at hc
    refine h ⟨j, hj⟩ hc.2 ?_
    rw [← hc.1]
    exact (hy.trans (Vector.getElem_toList _)).symm

theorem HostSide.dieStep_unsigned (h : HostSide) (k : Fin 7) (hs : h.step = 5) (hd : (h.dies.get k).signed = false) :
    h.dieStep k = h.failStep 0x51 := by
  unfold HostSide.dieStep
  rw [h.die_at k]
  simp [hs, hd]

theorem HostSide.dieStep_old (h : HostSide) (k : Fin 7) (hs : h.step = 5) (hd : (h.dies.get k).signed = true)
    (hv : (h.dies.get k).secver < (h.dies.get k).fusedMin) : h.dieStep k = h.failStep 0x52 := by
  unfold HostSide.dieStep
  rw [h.die_at k]
  simp [hs, hd, hv]

/-- The last die's last step makes the package ready. -/
theorem HostSide.dieStep_last (h : HostSide) (k : Fin 7) (hs : h.step = 6)
    (hd : ∀ j : Fin 7, j ≠ k → (h.dies.get j).stepDone = true) : (h.dieStep k).ready = true := by
  have hall : ((h.onDie k fun d => { d with stepDone := true, ready := d.ready || h.step == 4 }).dies.toList.all
      (·.stepDone)) = true := by
    unfold HostSide.onDie
    rw [dif_pos k.isLt]
    refine List.all_eq_true.2 fun d hm => ?_
    obtain ⟨j, hj, rfl⟩ := List.getElem_of_mem hm
    rw [Vector.length_toList] at hj
    rw [Vector.getElem_toList, Vector.getElem_set]
    split
    · rfl
    next hne => exact hd ⟨j, hj⟩ fun e => hne (congrArg Fin.val e).symm
  have hstep : (h.onDie k fun d => { d with stepDone := true, ready := d.ready || h.step == 4 }).step = 6 := by
    unfold HostSide.onDie
    rw [dif_pos k.isLt]
    exact hs
  unfold HostSide.dieStep
  rw [h.die_at k]
  dsimp only
  rw [if_neg (by simp [hs]), if_neg (by simp [hs]), if_pos hall]
  unfold HostSide.finishStep
  rw [hstep]
  rfl

/-! ## Commands and answers -/

theorem LinkInj.write_eq (i : LinkInj) (x : Word) : i.write x =
    ⟨x.extractLsb' 16 32, if x.getLsbD 8 then false else i.fired, x.getLsbD 8, x.getLsbD 7, x.setWidth 5, 0⟩ := by
  have hafter : BitVec.ofNat 32 (fieldOf x.toNat 16 32) = x.extractLsb' 16 32 := by
    apply BitVec.eq_of_toNat_eq
    simp [fieldOf, Nat.shiftRight_eq_div_pow]
  have hlink : BitVec.ofNat 5 x.toNat = x.setWidth 5 := rfl
  unfold LinkInj.write
  rw [hafter, hlink]

theorem State.writesInjection {s : State} {x : Word} (hi : s.inp = .inj x) : exec .lfinjWrite s =
    if !s.host.dbgen || decide (24 ≤ x.toNat % 32) then .next s.refuseWrite
    else .next (s.onHost fun h => { h with inj := h.inj.write x }) := by
  rw [exec_lfinjWrite, execLfinjWrite, hi]

theorem State.writesHubstat {s : State} {x : Word} (hi : s.inp = .inj x) : exec .hubstatWrite s =
    .next (s.onHost fun h => { h with suberr := h.suberr && !x.getLsbD 2 }) := by
  rw [exec_hubstatWrite, execHubstatWrite, hi]

theorem State.placesWindow {s : State} {off : Nat} (hi : s.inp = .idx off) : exec .bar4WindowPlace s =
    .next (s.onHost fun h => { h with bar4 := off }) := by
  rw [exec_bar4WindowPlace, execBar4WindowPlace, hi]

/-- A fused minimum only rises. -/
theorem fusedMax (m : BitVec 16) (v : Nat) :
    (if m < BitVec.ofNat 16 v then BitVec.ofNat 16 v else m).toNat = max m.toNat (v % 65536) := by
  split
  next h => rw [BitVec.lt_def, BitVec.toNat_ofNat] at h; rw [BitVec.toNat_ofNat]; omega
  next h => rw [BitVec.lt_def, BitVec.toNat_ofNat] at h; omega

theorem HostSide.onDie_self (h : HostSide) (k : Fin 7) (f : Die → Die) :
    (h.onDie k f).dies.get k = f (h.dies.get k) := by
  unfold HostSide.onDie
  rw [dif_pos k.isLt]
  exact Vector.getElem_set_self k.isLt

theorem HostSide.measurement_image (h : HostSide) (n : Nat) (d : Die) (h1 : 1 ≤ n) (h7 : n ≤ 7)
    (hd : h.dies.toList[(n + 5) % 7]? = some d) : h.measurement n = hashWords (sha256 d.image) := by
  unfold HostSide.measurement
  by_cases hn : n = 1
  · subst hn
    simp only [Nat.reduceAdd, Nat.reduceMod] at hd
    simp only [beq_self_eq_true, if_true, hd, Option.map_some, Option.getD_some]
  · have hk : (n + 5) % 7 = n - 2 := by omega
    have hgo : (decide (2 ≤ n) && decide (n ≤ 7)) = true := by simp [h7, show 2 ≤ n by omega]
    rw [hk] at hd
    simp only [beq_eq_false_iff_ne.2 hn, hgo, Bool.false_eq_true, if_false, if_true, hd, Option.map_some, Option.getD_some]

theorem State.measures {s : State} {n : Nat} (hi : s.inp = .idx n) : exec .getMeasurements s =
    .next (s.onHost fun h => { h with answer := s.host.measurement n }) := by
  have harg : s.arg = n := by rw [State.arg, hi]
  rw [exec_getMeasurements, execGetMeasurements, hi, harg]

/-- Settles O53: each command by its equation, a trip by the cores and the clauses that it ends. -/
theorem managementStepsComplete : Obligations.ManagementStepsComplete := by
  unfold Obligations.ManagementStepsComplete
  refine ⟨fun s x hi => ⟨fun hd hl => ?write, fun h => ?refuse, ?hubstat⟩, fun s => rfl, fun s => rfl,
    fun s die v hi => ?fused, fun s off hi => ?window, fun s => rfl, fun s i hm => ?attest, fun s n hi => ?measure,
    fun s p hi hok => ?power, fun s k hi hp hr hf hs => ?image, fun s k hi hp hr hf hs hd => ?ready,
    fun s hp hr hf => ?limit, fun s w hi => ?sample, fun s => ?trip⟩
  case write =>
    have hgo : (!s.host.dbgen || decide (24 ≤ x.toNat % 32)) = false := by simp [hd, hl]
    rw [State.writesInjection hi, hgo, if_neg Bool.false_ne_true]
    simp only [State.onHost, LinkInj.write_eq]
  case refuse =>
    have hgo : (!s.host.dbgen || decide (24 ≤ x.toNat % 32)) = true := by rcases h with h | h <;> simp [h]
    rw [State.writesInjection hi, if_pos hgo]
    rfl
  case hubstat => exact State.writesHubstat hi
  case fused =>
    rw [exec_fusedMinimumRaise, execFusedMinimumRaise, hi]
    refine ⟨_, rfl, ?_⟩
    simp only [State.onHost, HostSide.onDie_self, fusedMax]
  case window => exact State.placesWindow hi
  case attest =>
    simp only [List.mem_cons, List.not_mem_nil, or_false] at hm
    rcases hm with rfl | rfl | rfl | rfl | rfl <;> exact ⟨_, rfl⟩
  case measure =>
    refine ⟨_, State.measures hi, fun d h1 h7 hd => s.host.measurement_image n d h1 h7 hd, ?_, ?_, ?_⟩ <;> rintro rfl <;>
      simp only [State.onHost, HostSide.measurement]
    · rfl
    · rfl
    · cases s.host.dbgen <;> rfl
  case power =>
    have hrun : ∃ t, exec .powerUp s = .next t ∧ t.host.powered = true ∧ t.host.ready = false ∧ t.host.step = 1 ∧
        t.core = Core.reset ∧ t.others = [] ∧ t.cid = cidOf p.pkg.toNat 0 0 ∧ t.gmem.ni = p.ni ∧ t.gmem.chunks = [] ∧
        t.gmem.sliceDie = p.sliceDie ∧ t.gmem.stackDie = p.stackDie ∧ t.gmem.clusterDie = p.clusterDie ∧
        t.host.dies = Vector.ofFn fun k : Fin 7 => (s.host.dies.get k).withImage (p.dies.getD k.val Die.reset) := by
      rw [exec_powerUp, execPowerUp, hi]
      dsimp only
      rw [hok, Bool.not_true, if_neg Bool.false_ne_true]
      exact ⟨_, rfl, rfl, rfl, rfl, rfl, rfl, rfl, rfl, rfl, rfl, rfl, rfl, rfl⟩
    obtain ⟨t, ht, h1, h2, h3, h4, h5, h6, h7, h8, h9, h10, h11, h12⟩ := hrun
    refine ⟨t, ht, h1, h2, h3, h4, h5, ?_, h7, h8, h9, h10, h11, fun k => ?_⟩
    · rw [State.pkg, h6, pkgOf, cidOf]
      omega
    · rw [h12, vget_ofFn]
      exact ⟨rfl, rfl, rfl⟩
  case image =>
    intro d fails
    exact ⟨fun h => State.bringsUp_fails hi hp hr hf (s.host.dieStep_unsigned k hs (Die.unsigned h)),
      fun h hv => State.bringsUp_fails hi hp hr hf (s.host.dieStep_old k hs h hv)⟩
  case ready =>
    have hready := s.host.dieStep_last k hs hd
    exact ⟨_, (State.bringsUp hi hp hr hf).trans (if_pos hready), hready, rfl, rfl⟩
  case limit =>
    have hgo : s.host.bringing = true := by rw [HostSide.bringing, hp, hr, hf]; rfl
    rw [exec_bringupStepLimit, execBringupStepLimit, hgo]
    exact ⟨_, rfl, rfl, rfl⟩
  case sample =>
    rw [exec_powerSample, execPowerSample, hi]
    refine ⟨_, rfl, rfl, ?_⟩
    simp only [State.onHost]
    split
    · rfl
    · split <;> rfl
  case trip =>
    obtain ⟨t, ht, htrip, hhub, hat⟩ : ∃ t, exec .thermalTrip s = .next t ∧ t.host.tripped = true ∧
        t.hub = s.tripAll.hub ∧ ∀ j, t.coreAt j = s.tripAll.coreAt j :=
      ⟨_, execThermalTrip_eq s, State.hostIrq_tripped _ _, State.hostIrq_keeps _ _ _⟩
    refine ⟨t, ht, htrip, fun cid hc => ?_, fun b m hn hb hs hf hq hm => ?_⟩
    · obtain ⟨hrun, hshown, hfrozen⟩ := s.tripAll_busy hc
      rw [hat]
      refine ⟨hrun, hshown, fun b hb hq => ?_⟩
      dsimp only
      rw [hhub]
      exact (s.tripAll_trips _).ends (hfrozen b hb hq)
    · dsimp only
      rw [hhub]
      exact (s.tripAll_trips _).ends (s.tripAll_saved hn hb hs hf hq hm)

end Sys2Proof.Machine
end

section
/-! PROOF. Vector rows that give each enabled element its result (O21). -/

namespace Sys2Proof.Machine

/-! ## Integers in fields -/

theorem two_pow_pos (w : Nat) : 0 < 2 ^ w := Nat.pow_pos (by decide)

theorem ofSigned_congr {w : Nat} {x y : Int} (h : x % ((2 ^ w : Nat) : Int) = y % ((2 ^ w : Nat) : Int)) :
    ofSigned w x = ofSigned w y := by
  unfold ofSigned
  rw [h]

theorem ofSigned_natCast (w n : Nat) : ofSigned w (n : Int) = n % 2 ^ w := by
  unfold ofSigned
  rw [← Int.natCast_emod, Int.toNat_natCast]

theorem ofSigned_mod (w : Nat) (z : Int) : ofSigned w z % 2 ^ w = ofSigned w z := by
  have hpos : (0 : Int) < ((2 ^ w : Nat) : Int) := Int.natCast_pos.2 (two_pow_pos w)
  have h0 := Int.emod_nonneg z (Int.ne_of_gt hpos)
  have h1 := Int.emod_lt_of_pos z hpos
  refine Nat.mod_eq_of_lt ?_
  unfold ofSigned
  omega

/-- A field as a signed number is the field, up to a multiple of its range. -/
theorem toSigned_emod (w a : Nat) : toSigned w a % ((2 ^ w : Nat) : Int) = (a : Int) % ((2 ^ w : Nat) : Int) := by
  have hmod : ((a % 2 ^ w : Nat) : Int) % ((2 ^ w : Nat) : Int) = (a : Int) % ((2 ^ w : Nat) : Int) := by
    rw [Int.natCast_emod, Int.emod_emod]
  unfold toSigned
  dsimp only
  split
  · exact hmod
  · rw [Int.sub_emod_right, hmod]

/-- An exact integer as a row writes it: clamped into the field's range where the row saturates. -/
theorem intWrite_eq (w : Nat) (sat : Bool) (z : Int) : intWrite w sat z =
    ofSigned w (if sat then max (-2 ^ (w - 1)) (min (2 ^ (w - 1) - 1) z) else z) := by
  have hpos : (0 : Int) < 2 ^ (w - 1) := Int.pow_pos (by decide)
  unfold intWrite clampInt intMin intMax
  cases sat
  · rfl
  · refine congrArg (ofSigned w) ?_
    push_cast
    simp only [if_true]
    generalize (2 : Int) ^ (w - 1) = m at *
    split
    · omega
    · split <;> omega

theorem ofSigned_add (w a b : Nat) : ofSigned w (toSigned w a + toSigned w b) = (a + b) % 2 ^ w := by
  rw [ofSigned_congr (y := ((a + b : Nat) : Int)), ofSigned_natCast]
  rw [Int.add_emod, toSigned_emod, toSigned_emod, ← Int.add_emod, Int.natCast_add]

theorem ofSigned_mul (w a b : Nat) : ofSigned w (toSigned w a * toSigned w b) = a * b % 2 ^ w := by
  rw [ofSigned_congr (y := ((a * b : Nat) : Int)), ofSigned_natCast]
  rw [Int.mul_emod, toSigned_emod, toSigned_emod, ← Int.mul_emod, Int.natCast_mul]

theorem ofSigned_sub (w a b : Nat) (hb : b < 2 ^ w) :
    ofSigned w (toSigned w a - toSigned w b) = (a + (2 ^ w - b)) % 2 ^ w := by
  have hsum : ((a + (2 ^ w - b) : Nat) : Int) = (a : Int) - b + ((2 ^ w : Nat) : Int) := by omega
  rw [ofSigned_congr (y := ((a + (2 ^ w - b) : Nat) : Int)), ofSigned_natCast]
  rw [hsum, Int.add_emod_right, Int.sub_emod, toSigned_emod, toSigned_emod, ← Int.sub_emod]

/-! ## Results up to the field's range -/

theorem packElems_congr (w : Nat) {xs ys : List Nat} (h : xs.map (· % 2 ^ w) = ys.map (· % 2 ^ w)) :
    packElems w xs = packElems w ys := by
  induction xs generalizing ys with
  | nil => rw [List.map_nil, eq_comm, List.map_eq_nil_iff] at h; rw [h]
  | cons x xs ih =>
    cases ys with
    | nil => cases h
    | cons y ys =>
      rw [List.map_cons, List.map_cons, List.cons.injEq] at h
      rw [packElems, packElems, h.1, ih h.2]

/-- Two lists of results that agree in their fields and their flags are committed alike. -/
theorem Core.commitV_congr (c : Core) (d : VReg) (t : EType) {r r' : List (Nat × Flags)}
    (hv : r.map (fun x => x.1 % 2 ^ t.width) = r'.map fun x => x.1 % 2 ^ t.width) (hf : r.map (·.2) = r'.map (·.2)) :
    c.commitV d t r = c.commitV d t r' := by
  have h : packElems t.width (r.map (·.1)) = packElems t.width (r'.map (·.1)) :=
    packElems_congr t.width (by rw [List.map_map, List.map_map]; exact hv)
  unfold Core.commitV Core.wrElems
  rw [h, hf]

/-- Two functions that agree in fields and flags give the same results. -/
theorem Core.laneResults_congr (c : Core) (q : QReg) (d : VReg) (t : EType) (n : Nat) {f g : Nat → Nat × Flags}
    (h : ∀ j < n, (f j).1 % 2 ^ t.width = (g j).1 % 2 ^ t.width ∧ (f j).2 = (g j).2) :
    c.commitV d t (c.laneResults q d t n f) = c.commitV d t (c.laneResults q d t n g) := by
  have hlen : (c.laneResults q d t n f).length = (c.laneResults q d t n g).length := by
    rw [c.laneResults_length, c.laneResults_length]
  have hget (j : Nat) (h1 : j < (c.laneResults q d t n f).length) (h2 : j < (c.laneResults q d t n g).length) :
      (c.laneResults q d t n f)[j].1 % 2 ^ t.width = (c.laneResults q d t n g)[j].1 % 2 ^ t.width ∧
        (c.laneResults q d t n f)[j].2 = (c.laneResults q d t n g)[j].2 := by
    rw [c.laneResults_get, c.laneResults_get]
    split
    · exact ⟨rfl, rfl⟩
    · split
      · exact h j (by omega)
      · exact ⟨rfl, rfl⟩
  refine c.commitV_congr d t ?_ ?_
  · exact List.ext_getElem (by simp [hlen]) fun j h1 h2 => by
      simpa using (hget j (by simpa using h1) (by simpa using h2)).1
  · exact List.ext_getElem (by simp [hlen]) fun j h1 h2 => by
      simpa using (hget j (by simpa using h1) (by simpa using h2)).2

/-! ## What a row performs -/

/-- The sequencer performs the row as `p` says. -/
structure Runs (i : Instr) (p : Core → PerfCtx → SeqOp → PerfRes) : Prop where
  sfu : sfuOp i = none
  rot : ∀ o, i ≠ .tmrot o
  perform : ∀ (c : Core) (x : PerfCtx) (op : SeqOp), op.ins = i → c.perform x op = p c x op

/-- A vector row runs as its arm of `performVec` says. -/
theorem Runs.row {i : Instr} {p : Core → PerfCtx → SeqOp → PerfRes} (hs : sfuOp i = none) (ht : tileOf i = none)
    (hp : ∀ c x pc sa sb fa shape, Core.performVec c x ⟨i, pc, sa, sb, fa, shape⟩ = p c x ⟨i, pc, sa, sb, fa, shape⟩) :
    Runs i p := by
  refine ⟨hs, ?_, ?_⟩
  · rintro o rfl
    cases ht
  · rintro c x ⟨ins, pc, sa, sb, fa, shape⟩ rfl
    unfold Core.perform
    rw [ht]
    exact hp c x pc sa sb fa shape

theorem Runs.congr {i : Instr} {p p' : Core → PerfCtx → SeqOp → PerfRes} (h : Runs i p) (e : ∀ c x op, p c x op = p' c x op) :
    Runs i p' := ⟨h.sfu, h.rot, fun c x op hi => (h.perform c x op hi).trans (e c x op)⟩

/-- The row maps `g` over the elements that its predicate enables. -/
def MapsV (i : Instr) (k : VCtl) (d : VReg) (g : Core → PerfCtx → SeqOp → Nat → Nat × Flags) : Prop :=
  Runs i fun c x op => c.mapV k d (g c x op)

/-- Such a row gives every function that agrees with its own. -/
theorem MapsV.lanes {i : Instr} {k : VCtl} {d : VReg} {g f : Core → PerfCtx → SeqOp → Nat → Nat × Flags}
    (h : MapsV i k d g) (hf : ∀ c x op, ∀ j < k.et.count, (g c x op j).1 % 2 ^ k.et.width = (f c x op j).1 % 2 ^ k.et.width ∧
      (g c x op j).2 = (f c x op j).2) :
    LanesGive .sequencerPerform (fun s => s.core.badRegs = []) i k.q d k.et k.et.count f :=
  lanesGive_sequencer i k.q d k.et k.et.count f h.sfu h.rot (Nat.le_refl _) fun c x op hi =>
    (h.perform c x op hi).trans ((c.mapV_eq k d _).trans (c.laneResults_congr _ _ _ _ (hf c x op)))

/-- The row gives a function that is its own element by element. -/
theorem MapsV.gives {i : Instr} {k : VCtl} {d : VReg} {g f : Core → PerfCtx → SeqOp → Nat → Nat × Flags}
    (h : MapsV i k d g) (hf : ∀ c x op j, g c x op j = f c x op j) :
    LanesGive .sequencerPerform (fun s => s.core.badRegs = []) i k.q d k.et k.et.count f :=
  h.lanes fun c x op j _ => by rw [hf]; exact ⟨rfl, rfl⟩

/-- A row without flags only writes its elements. -/
theorem MapsV.performs {i : Instr} {k : VCtl} {d : VReg} {g : Core → PerfCtx → SeqOp → Nat → Nat × Flags}
    (h : MapsV i k d g) {f : Core → Nat → Nat} (hf : ∀ c x op, ∀ j < k.et.count,
      (g c x op j).1 % 2 ^ k.et.width = f c j % 2 ^ k.et.width ∧ (g c x op j).2 = 0) : Performs k d i f := by
  intro s e op rest hi hh hb
  obtain ⟨u, hu, hseq, helem, hsc, hv, hregs, hls, -⟩ :=
    (h.lanes (f := fun c _ _ j => (f c j, 0)) hf s e op rest hi hh hb).1 (by simp)
  refine ⟨u, hu, hseq, fun j hj => ?_, hsc, hv, hregs, hls⟩
  rw [helem j hj, if_neg (Nat.not_le.2 hj)]

/-- A row on bit patterns. -/
theorem MapsV.bits {i : Instr} {k : VCtl} {d : VReg} {g : Core → PerfCtx → SeqOp → Nat → Nat} {f : Core → Nat → Nat}
    (h : MapsV i k d fun c x op j => (g c x op j % 2 ^ k.et.width, 0)) (hf : ∀ c x op, ∀ j < k.et.count, g c x op j = f c j) :
    Performs k d i f :=
  h.performs fun c x op j hj => ⟨by rw [Nat.mod_mod, hf c x op j hj], rfl⟩

/-! ## The rows, each as its arm says -/

theorem runs_vadd (o : VVV) : Runs (.vadd o) fun c x _ => c.arith2 x o (· + ·) fun r a b => fAdd r.isDown a b :=
  .row rfl rfl fun _ _ _ _ _ _ _ => rfl

theorem runs_vsub (o : VVV) : Runs (.vsub o) fun c x _ => c.arith2 x o (· - ·) fun r a b => fAdd r.isDown a b.neg :=
  .row rfl rfl fun _ _ _ _ _ _ _ => rfl

theorem runs_vmul (o : VVV) : Runs (.vmul o) fun c x _ => c.arith2 x o (· * ·) fun _ a b => fMul a b :=
  .row rfl rfl fun _ _ _ _ _ _ _ => rfl

theorem runs_vmulh (o : VVV) : Runs (.vmulh o) fun c x _ => c.arith2 x o (fun a b => a * b / (2 ^ o.k.et.width : Nat)) fun _ a b => fMul a b :=
  .row rfl rfl fun _ _ _ _ _ _ _ => rfl

theorem runs_vdiv (o : VVV) : Runs (.vdiv o) fun c x _ => c.arith2 x o intDiv fun _ a b => fDiv a b :=
  .row rfl rfl fun _ _ _ _ _ _ _ => rfl

theorem runs_vadds (o : VVV) : Runs (.vadds o) fun c x _ =>
    c.arith2 x { o with k := { o.k with sat := true } } (· + ·) fun r a b => fAdd r.isDown a b :=
  .row rfl rfl fun _ _ _ _ _ _ _ => rfl

theorem runs_vsubs (o : VVV) : Runs (.vsubs o) fun c x _ =>
    c.arith2 x { o with k := { o.k with sat := true } } (· - ·) fun r a b => fAdd r.isDown a b.neg :=
  .row rfl rfl fun _ _ _ _ _ _ _ => rfl

theorem runs_vmin (o : VVV) : Runs (.vmin o) fun c _ _ => c.minMaxV o false :=
  .row rfl rfl fun _ _ _ _ _ _ _ => rfl

theorem runs_vmax (o : VVV) : Runs (.vmax o) fun c _ _ => c.minMaxV o true :=
  .row rfl rfl fun _ _ _ _ _ _ _ => rfl

theorem runs_vfma (o : VVVV) : Runs (.vfma o) fun c x _ => c.arith3 x o false false :=
  .row rfl rfl fun _ _ _ _ _ _ _ => rfl

theorem runs_vfms (o : VVVV) : Runs (.vfms o) fun c x _ => c.arith3 x o false true :=
  .row rfl rfl fun _ _ _ _ _ _ _ => rfl

theorem runs_vfnma (o : VVVV) : Runs (.vfnma o) fun c x _ => c.arith3 x o true true :=
  .row rfl rfl fun _ _ _ _ _ _ _ => rfl

theorem runs_vclamp (o : VVVV) : Runs (.vclamp o) fun c _ _ => c.clampV o :=
  .row rfl rfl fun _ _ _ _ _ _ _ => rfl

theorem runs_vabs (o : VV) : Runs (.vabs o) fun c _ _ => c.signV o false :=
  .row rfl rfl fun _ _ _ _ _ _ _ => rfl

theorem runs_vneg (o : VV) : Runs (.vneg o) fun c _ _ => c.signV o true :=
  .row rfl rfl fun _ _ _ _ _ _ _ => rfl

theorem runs_vsqrt (o : VV) : Runs (.vsqrt o) fun c x _ => c.sqrtV x o :=
  .row rfl rfl fun _ _ _ _ _ _ _ => rfl

theorem runs_vand (o : VVV) : Runs (.vand o) fun c _ _ => c.bits2 o fun _ a b => a &&& b :=
  .row rfl rfl fun _ _ _ _ _ _ _ => rfl

theorem runs_vor (o : VVV) : Runs (.vor o) fun c _ _ => c.bits2 o fun _ a b => a ||| b :=
  .row rfl rfl fun _ _ _ _ _ _ _ => rfl

theorem runs_vxor (o : VVV) : Runs (.vxor o) fun c _ _ => c.bits2 o fun _ a b => a ^^^ b :=
  .row rfl rfl fun _ _ _ _ _ _ _ => rfl

theorem runs_vshl (o : VVV) : Runs (.vshl o) fun c _ _ => c.bits2 o fun w a b => shlBits w a (b % w) :=
  .row rfl rfl fun _ _ _ _ _ _ _ => rfl

theorem runs_vshr (o : VVV) : Runs (.vshr o) fun c _ _ => c.bits2 o fun w a b => shrBits w a (b % w) :=
  .row rfl rfl fun _ _ _ _ _ _ _ => rfl

theorem runs_vsra (o : VVV) : Runs (.vsra o) fun c _ _ => c.bits2 o fun w a b => sraBits w a (b % w) :=
  .row rfl rfl fun _ _ _ _ _ _ _ => rfl

theorem runs_vnot (o : VV) : Runs (.vnot o) fun c _ _ => c.bits1 o fun w a => 2 ^ w - 1 - a :=
  .row rfl rfl fun _ _ _ _ _ _ _ => rfl

theorem runs_vpopc (o : VV) : Runs (.vpopc o) fun c _ _ => c.bits1 o popBits :=
  .row rfl rfl fun _ _ _ _ _ _ _ => rfl

theorem runs_vclz (o : VV) : Runs (.vclz o) fun c _ _ => c.bits1 o clzBits :=
  .row rfl rfl fun _ _ _ _ _ _ _ => rfl

theorem runs_vshli (o : VVn) : Runs (.vshli o) fun c _ _ => c.bitsN o shlBits :=
  .row rfl rfl fun _ _ _ _ _ _ _ => rfl

theorem runs_vshri (o : VVn) : Runs (.vshri o) fun c _ _ => c.bitsN o shrBits :=
  .row rfl rfl fun _ _ _ _ _ _ _ => rfl

theorem runs_vsrai (o : VVn) : Runs (.vsrai o) fun c _ _ => c.bitsN o sraBits :=
  .row rfl rfl fun _ _ _ _ _ _ _ => rfl

theorem runs_vcvt (o : VCvt) : Runs (.vcvt o) fun c x _ => c.cvtV x o :=
  .row rfl rfl fun _ _ _ _ _ _ _ => rfl

theorem runs_vrenorm (o : VV) : Runs (.vrenorm o) fun c _ _ => c.renormV o :=
  .row rfl rfl fun _ _ _ _ _ _ _ => rfl

theorem runs_vdeq (o : VV) : Runs (.vdeq o) fun c _ _ => c.deqV o :=
  .row rfl rfl fun _ _ _ _ _ _ _ => rfl

theorem runs_vquant (o : VV) : Runs (.vquant o) fun c x _ => c.quantV x o :=
  .row rfl rfl fun _ _ _ _ _ _ _ => rfl

theorem runs_vrng (o : VRngOp) : Runs (.vrng o) fun c x _ => c.rngV x o :=
  .row rfl rfl fun _ _ _ _ _ _ _ => rfl

theorem runs_vrngu (o : VRngOp) : Runs (.vrngu o) fun c x _ => c.rnguV x o :=
  .row rfl rfl fun _ _ _ _ _ _ _ => rfl

theorem runs_vdrop (o : VDropOp) : Runs (.vdrop o) fun c x op => c.dropV x o op.sb :=
  .row rfl rfl fun _ _ _ _ _ _ _ => rfl

theorem runs_vceq (o : QVV) : Runs (.vceq o) fun c _ _ => c.compareV o .eq :=
  .row rfl rfl fun _ _ _ _ _ _ _ => rfl

theorem runs_vcne (o : QVV) : Runs (.vcne o) fun c _ _ => c.compareV o .ne :=
  .row rfl rfl fun _ _ _ _ _ _ _ => rfl

theorem runs_vclt (o : QVV) : Runs (.vclt o) fun c _ _ => c.compareV o .lt :=
  .row rfl rfl fun _ _ _ _ _ _ _ => rfl

theorem runs_vcle (o : QVV) : Runs (.vcle o) fun c _ _ => c.compareV o .le :=
  .row rfl rfl fun _ _ _ _ _ _ _ => rfl

theorem runs_vcun (o : QVV) : Runs (.vcun o) fun c _ _ => c.compareV o .un :=
  .row rfl rfl fun _ _ _ _ _ _ _ => rfl

/-! ## Arithmetic -/

theorem Core.arith2_int (c : Core) (x : PerfCtx) (o : VVV) (fi : Int → Int → Int) (ff : Rnd → FVal → FVal → FVal × Flags)
    (h : o.k.et.isInt = true) : c.arith2 x o fi ff = c.mapV o.k o.d fun j => (intWrite o.k.et.width o.k.sat
      (fi (toSigned o.k.et.width (c.elem o.a o.k.et j)) (toSigned o.k.et.width (c.elem o.b o.k.et j))), 0) := by
  unfold Core.arith2
  simp only [h, if_true]
  rfl

theorem Core.arith2_float (c : Core) (x : PerfCtx) (o : VVV) (fi : Int → Int → Int) (ff : Rnd → FVal → FVal → FVal × Flags)
    (h : o.k.et.isInt = false) : c.arith2 x o fi ff = c.mapV o.k o.d fun j =>
      let y := ff (c.rndAt x o.k o.k.et j) (o.k.et.read (c.elem o.a o.k.et j)) (o.k.et.read (c.elem o.b o.k.et j))
      let z := o.k.et.write (c.rndAt x o.k o.k.et j) o.k.sat y.1
      (z.1, y.2 ||| z.2) := by
  unfold Core.arith2
  simp only [h, Bool.false_eq_true, if_false]
  rfl

/-- A row of two integers. -/
theorem Runs.int2 {i : Instr} {o : VVV} {fi : Int → Int → Int} {ff : Rnd → FVal → FVal → FVal × Flags} {f : Core → Nat → Nat}
    (h : Runs i fun c x _ => c.arith2 x o fi ff) (ht : o.k.et.isInt = true)
    (hf : ∀ c j, intWrite o.k.et.width o.k.sat (fi (toSigned o.k.et.width (c.elem o.a o.k.et j))
      (toSigned o.k.et.width (c.elem o.b o.k.et j))) % 2 ^ o.k.et.width = f c j % 2 ^ o.k.et.width) :
    Performs o.k o.d i f :=
  MapsV.performs (h.congr fun c x _ => c.arith2_int x o fi ff ht) fun c _ _ j _ => ⟨hf c j, rfl⟩

/-- A row of two floating-point values. -/
theorem Runs.float2 {i : Instr} {o : VVV} {fi : Int → Int → Int} {ff : Rnd → FVal → FVal → FVal × Flags}
    (h : Runs i fun c x _ => c.arith2 x o fi ff) (ht : o.k.et.isInt = false) :
    PerformsLanes i o.k o.d fun c x j =>
      let y := ff (c.rndAt x o.k o.k.et j) (o.k.et.read (c.elem o.a o.k.et j)) (o.k.et.read (c.elem o.b o.k.et j))
      let z := o.k.et.write (c.rndAt x o.k o.k.et j) o.k.sat y.1
      (z.1, y.2 ||| z.2) :=
  MapsV.gives (h.congr fun c x _ => c.arith2_float x o fi ff ht) fun _ _ _ _ => rfl

/-- A row on two bit patterns. -/
theorem Runs.bits2 {i : Instr} {o : VVV} {g : Nat → Nat → Nat → Nat} {f : Core → Nat → Nat}
    (h : Runs i fun c _ _ => c.bits2 o g) (hf : ∀ c j, g o.k.et.width (c.elem o.a o.k.et j) (c.elem o.b o.k.et j) = f c j) :
    Performs o.k o.d i f :=
  MapsV.bits h fun c _ _ j _ => hf c j

/-- A row on one bit pattern. -/
theorem Runs.bits1 {i : Instr} {o : VV} {g : Nat → Nat → Nat} {f : Core → Nat → Nat}
    (h : Runs i fun c _ _ => c.bits1 o g) (hf : ∀ c j, g o.k.et.width (c.elem o.a o.k.et j) = f c j) :
    Performs o.k o.d i f :=
  MapsV.bits h fun c _ _ j _ => hf c j

/-- A row on a bit pattern and a number of the instruction. -/
theorem Runs.bitsN {i : Instr} {o : VVn} {g : Nat → Nat → Nat → Nat} {f : Core → Nat → Nat}
    (h : Runs i fun c _ _ => c.bitsN o g) (hf : ∀ c j, g o.k.et.width (c.elem o.a o.k.et j) o.n.val = f c j) :
    Performs o.k o.d i f :=
  MapsV.bits h fun c _ _ j _ => hf c j

/-- Sums, differences and products without saturation are those of the fields. -/
theorem performs_wrapping (o : VVV) (ht : o.k.et.isInt = true) (hs : o.k.sat = false) :
    Performs o.k o.d (.vadd o) (fun c j => c.elem o.a o.k.et j + c.elem o.b o.k.et j) ∧
    Performs o.k o.d (.vsub o) (fun c j => c.elem o.a o.k.et j + (2 ^ o.k.et.width - c.elem o.b o.k.et j)) ∧
    Performs o.k o.d (.vmul o) (fun c j => c.elem o.a o.k.et j * c.elem o.b o.k.et j) := by
  have hw (z : Int) : intWrite o.k.et.width o.k.sat z % 2 ^ o.k.et.width = ofSigned o.k.et.width z := by
    rw [hs, intWrite, if_neg Bool.false_ne_true, ofSigned_mod]
  refine ⟨(runs_vadd o).int2 ht fun c j => ?_, (runs_vsub o).int2 ht fun c j => ?_, (runs_vmul o).int2 ht fun c j => ?_⟩ <;> rw [hw]
  · exact ofSigned_add _ _ _
  · exact ofSigned_sub _ _ _ (c.elem_lt _ _ _)
  · exact ofSigned_mul _ _ _

/-- The integer rows of two sources, clamped where they saturate. -/
theorem performs_integer (o : VVV) (ht : o.k.et.isInt = true) :
    let w := o.k.et.width
    let z (c : Core) (r : VReg) (j : Nat) : Int := toSigned w (c.elem r o.k.et j)
    let into (sat : Bool) (x : Int) : Nat :=
      ofSigned w (if sat then max (-2 ^ (w - 1)) (min (2 ^ (w - 1) - 1) x) else x)
    Performs o.k o.d (.vadd o) (fun c j => into o.k.sat (z c o.a j + z c o.b j)) ∧
    Performs o.k o.d (.vsub o) (fun c j => into o.k.sat (z c o.a j - z c o.b j)) ∧
    Performs o.k o.d (.vadds o) (fun c j => into true (z c o.a j + z c o.b j)) ∧
    Performs o.k o.d (.vsubs o) (fun c j => into true (z c o.a j - z c o.b j)) ∧
    Performs o.k o.d (.vmul o) (fun c j => into o.k.sat (z c o.a j * z c o.b j)) ∧
    Performs o.k o.d (.vmulh o) (fun c j => into o.k.sat (z c o.a j * z c o.b j / 2 ^ w)) ∧
    Performs o.k o.d (.vdiv o) (fun c j =>
      into o.k.sat (if z c o.b j = 0 then -1 else (z c o.a j).tdiv (z c o.b j))) ∧
    Performs o.k o.d (.vmin o) (fun c j => ofSigned w (min (z c o.a j) (z c o.b j))) ∧
    Performs o.k o.d (.vmax o) (fun c j => ofSigned w (max (z c o.a j) (z c o.b j))) ∧
    Performs o.k o.d (.vsra o) (fun c j => ofSigned w (z c o.a j / 2 ^ (c.elem o.b o.k.et j % w))) := by
  intro w z into
  have hinto (sat : Bool) (x : Int) : intWrite w sat x % 2 ^ w = into sat x % 2 ^ w := by rw [intWrite_eq]
  have hpick (isMax : Bool) {i : Instr} (h : Runs i fun c _ _ => c.minMaxV o isMax) : Performs o.k o.d i fun c j =>
      ofSigned w (if isMax then max (z c o.a j) (z c o.b j) else min (z c o.a j) (z c o.b j)) := by
    refine MapsV.performs (g := fun c _ _ j =>
      (ofSigned w (if isMax then max (z c o.a j) (z c o.b j) else min (z c o.a j) (z c o.b j)), 0))
      (h.congr fun c x _ => ?_) fun c _ _ j _ => ⟨rfl, rfl⟩
    unfold Core.minMaxV
    simp only [ht, if_true]
    rfl
  refine ⟨(runs_vadd o).int2 ht fun c j => hinto _ _, (runs_vsub o).int2 ht fun c j => hinto _ _,
    (runs_vadds o).int2 ht fun c j => hinto true _, (runs_vsubs o).int2 ht fun c j => hinto true _,
    (runs_vmul o).int2 ht fun c j => hinto _ _, (runs_vmulh o).int2 ht fun c j => ?_,
    (runs_vdiv o).int2 ht fun c j => ?_, hpick false (runs_vmin o), hpick true (runs_vmax o),
    (runs_vsra o).bits2 fun c j => ?_⟩
  · rw [← hinto]
    push_cast
    rfl
  · rw [← hinto]
    unfold intDiv
    simp only [beq_iff_eq]
    rfl
  · unfold sraBits
    push_cast
    rfl

end Sys2Proof.Machine
end

section
/-! PROOF. Vector rows, continued: moves, bits, fused and floating-point rows (O21). -/

namespace Sys2Proof.Machine

/-! ## Moves and bit rows -/

theorem runs_vperm (o : VVV) : MapsV (.vperm o) o.k o.d fun c _ _ j =>
    (c.elem o.a o.k.et (c.elem o.b o.k.et j % o.k.et.count), 0) :=
  .row rfl rfl fun _ _ _ _ _ _ _ => rfl

theorem runs_vpack (o : VVV) : MapsV (.vpack o) o.k o.d fun c _ _ j =>
    (if j % 2 == 0 then c.elem o.a o.k.et (j / 2) else c.elem o.b o.k.et (j / 2), 0) :=
  .row rfl rfl fun _ _ _ _ _ _ _ => rfl

theorem runs_vunpack (o : VVV) : MapsV (.vunpack o) o.k o.d fun c _ _ j =>
    (if j < o.k.et.count / 2 then c.elem o.a o.k.et (2 * j) else c.elem o.b o.k.et (2 * (j - o.k.et.count / 2)), 0) :=
  .row rfl rfl fun _ _ _ _ _ _ _ => rfl

theorem runs_vbcs (o : VFromS) : MapsV (.vbcs o) o.k o.d fun _ _ op _ => (op.sa.toNat % 2 ^ o.k.et.width, 0) :=
  .row rfl rfl fun _ _ _ _ _ _ _ => rfl

theorem runs_vbcf (o : VFromF) : MapsV (.vbcf o) o.k o.d fun c _ op _ =>
    o.k.et.write (c.rnd o.k.rm) false (fp64Fmt.decode op.fa.toNat) :=
  .row rfl rfl fun _ _ _ _ _ _ _ => rfl

theorem runs_vslide (o : VVS) : MapsV (.vslide o) o.k o.d fun c _ op j =>
    (((slideIdx o.k.et.count op.sb j).map (c.elem o.a o.k.et)).getD 0, 0) :=
  .row rfl rfl fun _ _ _ _ _ _ _ => rfl

theorem runs_vsel (o : VVV) : Runs (.vsel o) fun c _ _ => .done (c.wrElems o.d o.k.et ((List.range o.k.et.count).map fun j =>
    if maskBit (c.rdQ o.k.q) j then c.elem o.a o.k.et j else c.elem o.b o.k.et j)) :=
  .row rfl rfl fun _ _ _ _ _ _ _ => rfl

theorem performs_bits (o : VVV) :
    let t := o.k.et
    Performs o.k o.d (.vand o) (fun c j => c.elem o.a t j &&& c.elem o.b t j) ∧
    Performs o.k o.d (.vor o) (fun c j => c.elem o.a t j ||| c.elem o.b t j) ∧
    Performs o.k o.d (.vxor o) (fun c j => c.elem o.a t j ^^^ c.elem o.b t j) ∧
    Performs o.k o.d (.vshl o) (fun c j => c.elem o.a t j * 2 ^ (c.elem o.b t j % t.width)) ∧
    Performs o.k o.d (.vshr o) (fun c j => c.elem o.a t j / 2 ^ (c.elem o.b t j % t.width)) ∧
    Performs o.k o.d (.vperm o) (fun c j => c.elem o.a t (c.elem o.b t j % t.count)) ∧
    Performs o.k o.d (.vpack o) (fun c j => if j % 2 = 0 then c.elem o.a t (j / 2) else c.elem o.b t (j / 2)) ∧
    Performs o.k o.d (.vunpack o) (fun c j =>
      if j < t.count / 2 then c.elem o.a t (2 * j) else c.elem o.b t (2 * (j - t.count / 2))) :=
  ⟨(runs_vand o).bits2 fun _ _ => rfl, (runs_vor o).bits2 fun _ _ => rfl, (runs_vxor o).bits2 fun _ _ => rfl,
    (runs_vshl o).bits2 fun _ _ => rfl, (runs_vshr o).bits2 fun _ _ => rfl, (runs_vperm o).performs fun _ _ _ _ _ => ⟨rfl, rfl⟩,
    (runs_vpack o).performs fun _ _ _ j _ => ⟨by simp only [beq_iff_eq], rfl⟩,
    (runs_vunpack o).performs fun _ _ _ _ _ => ⟨rfl, rfl⟩⟩

theorem performs_vnot (o : VV) : Performs o.k o.d (.vnot o) (fun c j => 2 ^ o.k.et.width - 1 - c.elem o.a o.k.et j) :=
  (runs_vnot o).bits1 fun _ _ => rfl

theorem performs_shifts (o : VVn) :
    Performs o.k o.d (.vshli o) (fun c j => c.elem o.a o.k.et j * 2 ^ o.n.val) ∧
    Performs o.k o.d (.vshri o) (fun c j => c.elem o.a o.k.et j / 2 ^ o.n.val) ∧
    Performs o.k o.d (.vsrai o)
      (fun c j => ofSigned o.k.et.width (toSigned o.k.et.width (c.elem o.a o.k.et j) / 2 ^ o.n.val)) := by
  refine ⟨(runs_vshli o).bitsN fun _ _ => rfl, (runs_vshri o).bitsN fun _ _ => rfl, (runs_vsrai o).bitsN fun c j => ?_⟩
  rw [sraBits, Int.natCast_pow]
  rfl

/-! ## Fused and clamped rows -/

theorem Core.arith3_int (c : Core) (x : PerfCtx) (o : VVVV) (negP negC : Bool) (h : o.k.et.isInt = true) :
    c.arith3 x o negP negC = c.mapV o.k o.d fun j =>
      let z (r : VReg) : Int := toSigned o.k.et.width (c.elem r o.k.et j)
      (intWrite o.k.et.width o.k.sat
        ((if negP then -(z o.a * z o.b) else z o.a * z o.b) + if negC then -z o.c else z o.c), 0) := by
  unfold Core.arith3
  simp only [h, if_true]
  rfl

theorem Core.arith3_float (c : Core) (x : PerfCtx) (o : VVVV) (negP negC : Bool) (h : o.k.et.isInt = false) :
    c.arith3 x o negP negC = c.mapV o.k o.d fun j =>
      let p := fMul (o.k.et.read (c.elem o.a o.k.et j)) (o.k.et.read (c.elem o.b o.k.et j))
      let y := fAdd (c.rndAt x o.k o.k.et j).isDown (if negP then p.1.neg else p.1)
        (if negC then (o.k.et.read (c.elem o.c o.k.et j)).neg else o.k.et.read (c.elem o.c o.k.et j))
      let z := o.k.et.write (c.rndAt x o.k o.k.et j) o.k.sat y.1
      (z.1, p.2 ||| y.2 ||| z.2) := by
  unfold Core.arith3
  simp only [h, Bool.false_eq_true, if_false]
  rfl

theorem performs_fused_int (o : VVVV) (ht : o.k.et.isInt = true) :
    let w := o.k.et.width
    let z (c : Core) (r : VReg) (j : Nat) : Int := toSigned w (c.elem r o.k.et j)
    let into (x : Int) : Nat :=
      ofSigned w (if o.k.sat then max (-2 ^ (w - 1)) (min (2 ^ (w - 1) - 1) x) else x)
    Performs o.k o.d (.vfma o) (fun c j => into (z c o.a j * z c o.b j + z c o.c j)) ∧
    Performs o.k o.d (.vfms o) (fun c j => into (z c o.a j * z c o.b j - z c o.c j)) ∧
    Performs o.k o.d (.vfnma o) (fun c j => into (-(z c o.a j * z c o.b j) - z c o.c j)) ∧
    Performs o.k o.d (.vclamp o) (fun c j => ofSigned w (min (max (z c o.a j) (z c o.b j)) (z c o.c j))) := by
  intro w z into
  have hf {i : Instr} (negP negC : Bool) (h : Runs i fun c x _ => c.arith3 x o negP negC) : Performs o.k o.d i fun c j =>
      into ((if negP then -(z c o.a j * z c o.b j) else z c o.a j * z c o.b j) +
        if negC then -z c o.c j else z c o.c j) :=
    MapsV.performs (h.congr fun c x _ => c.arith3_int x o negP negC ht) fun c _ _ j _ => ⟨by dsimp only; rw [intWrite_eq], rfl⟩
  refine ⟨hf false false (runs_vfma o), hf false true (runs_vfms o), hf true true (runs_vfnma o), ?_⟩
  refine MapsV.performs (g := fun c _ _ j => (ofSigned w (min (max (z c o.a j) (z c o.b j)) (z c o.c j)), 0))
    ((runs_vclamp o).congr fun c x _ => ?_) fun c _ _ j _ => ⟨rfl, rfl⟩
  unfold Core.clampV
  simp only [ht, if_true]
  rfl

theorem performs_fused_float (o : VVVV) (ht : o.k.et.isInt = false) :
    let t := o.k.et
    let val (c : Core) (r : VReg) (j : Nat) : FVal := t.read (c.elem r t j)
    let fused (negP negC : Bool) (c : Core) (x : PerfCtx) (j : Nat) : Nat × Flags :=
      let p := fMul (val c o.a j) (val c o.b j)
      let y := fAdd (c.rndAt x o.k t j).isDown (if negP then p.1.neg else p.1)
        (if negC then (val c o.c j).neg else val c o.c j)
      let z := t.write (c.rndAt x o.k t j) o.k.sat y.1
      (z.1, p.2 ||| y.2 ||| z.2)
    PerformsLanes (.vfma o) o.k o.d (fused false false) ∧ PerformsLanes (.vfms o) o.k o.d (fused false true) ∧
    PerformsLanes (.vfnma o) o.k o.d (fused true true) ∧
    PerformsLanes (.vclamp o) o.k o.d (fun c _ j =>
      let y := fMinMax true true (val c o.a j) (val c o.b j)
      let z := fMinMax false true y.1 (val c o.c j)
      ((t.write .rne false z.1).1, y.2 ||| z.2)) := by
  intro t val fused
  have hf {i : Instr} (negP negC : Bool) (h : Runs i fun c x _ => c.arith3 x o negP negC) :
      PerformsLanes i o.k o.d (fused negP negC) :=
    MapsV.gives (h.congr fun c x _ => c.arith3_float x o negP negC ht) fun _ _ _ _ => rfl
  refine ⟨hf false false (runs_vfma o), hf false true (runs_vfms o), hf true true (runs_vfnma o), ?_⟩
  refine MapsV.gives (g := fun c _ _ j =>
      let y := fMinMax true true (val c o.a j) (val c o.b j)
      let z := fMinMax false true y.1 (val c o.c j)
      ((t.write .rne false z.1).1, y.2 ||| z.2)) ((runs_vclamp o).congr fun c x _ => ?_) fun _ _ _ _ => rfl
  unfold Core.clampV
  simp only [ht, Bool.false_eq_true, if_false]
  rfl

/-! ## Rows of one source -/

theorem Core.signV_int (c : Core) (o : VV) (neg : Bool) (h : o.k.et.isInt = true) : c.signV o neg = c.mapV o.k o.d fun j =>
    (intWrite o.k.et.width o.k.sat (if neg then -toSigned o.k.et.width (c.elem o.a o.k.et j)
      else ((toSigned o.k.et.width (c.elem o.a o.k.et j)).natAbs : Int)), 0) := by
  unfold Core.signV
  simp only [h, if_true]
  rfl

theorem Core.signV_float (c : Core) (o : VV) (neg : Bool) (h : o.k.et.isInt = false) : c.signV o neg = c.mapV o.k o.d fun j =>
    (if neg then (if c.elem o.a o.k.et j / 2 ^ (o.k.et.width - 1) % 2 == 1 then c.elem o.a o.k.et j - 2 ^ (o.k.et.width - 1)
      else c.elem o.a o.k.et j + 2 ^ (o.k.et.width - 1)) else c.elem o.a o.k.et j % 2 ^ (o.k.et.width - 1), 0) := by
  unfold Core.signV
  simp only [h, Bool.false_eq_true, if_false]
  rfl

theorem toSigned_lt {w : Nat} (hw : 0 < w) (a : Nat) : toSigned w a < ((2 ^ (w - 1) : Nat) : Int) := by
  have h2 : 2 ^ w = 2 * 2 ^ (w - 1) := by rw [← Nat.pow_succ']; congr 1; omega
  have hm := Nat.mod_lt a (two_pow_pos w)
  unfold toSigned
  dsimp only
  rw [h2] at hm ⊢
  generalize 2 ^ (w - 1) = m at *
  split <;> omega

/-- Above the least value, saturation is by the greatest alone. -/
theorem intWrite_of_ge {w : Nat} (sat : Bool) {x : Int} (h : -((2 ^ (w - 1) : Nat) : Int) ≤ x) :
    intWrite w sat x = ofSigned w (if sat then min (((2 ^ (w - 1) : Nat) : Int) - 1) x else x) := by
  rw [intWrite_eq]
  have hpos : (0 : Int) < 2 ^ (w - 1) := Int.pow_pos (by decide)
  push_cast at h ⊢
  generalize (2 : Int) ^ (w - 1) = m at *
  cases sat
  · rfl
  · rw [if_pos rfl, if_pos rfl, Int.max_eq_right (by omega)]

/-- The sign bit inverted, as an addition modulo the field. -/
theorem flipSign_eq {w y : Nat} (hw : 0 < w) (hy : y < 2 ^ w) :
    (if y / 2 ^ (w - 1) % 2 == 1 then y - 2 ^ (w - 1) else y + 2 ^ (w - 1)) % 2 ^ w = (y + 2 ^ (w - 1)) % 2 ^ w := by
  have h2 : 2 ^ w = 2 * 2 ^ (w - 1) := by rw [← Nat.pow_succ']; congr 1; omega
  rw [h2] at hy ⊢
  have hpos := two_pow_pos (w - 1)
  generalize 2 ^ (w - 1) = m at *
  split
  next h =>
    have h1 : y / m % 2 = 1 := by simpa using h
    have hm : m ≤ y := Nat.le_of_not_lt fun hc => by
      rw [Nat.div_eq_of_lt (by omega)] at h1
      cases h1
    rw [Nat.mod_eq_of_lt (by omega), Nat.mod_eq_sub_mod (by omega), Nat.mod_eq_of_lt (by omega)]
    omega
  · rfl

theorem EType.width_pos (t : EType) : 0 < t.width := by cases t <;> decide

theorem performs_signs (o : VV) :
    let t := o.k.et
    let m : Nat := 2 ^ (t.width - 1)
    Performs o.k o.d (.vpopc o) (fun c j => ((List.range t.width).filter fun b => (c.elem o.a t j).testBit b).length) ∧
    Performs o.k o.d (.vclz o) (fun c j =>
      if c.elem o.a t j = 0 then t.width else t.width - 1 - Nat.log2 (c.elem o.a t j)) ∧
    (t.isInt = true →
      let into (x : Int) : Nat := ofSigned t.width (if o.k.sat then min ((m : Int) - 1) x else x)
      Performs o.k o.d (.vabs o) (fun c j => into (toSigned t.width (c.elem o.a t j)).natAbs) ∧
      Performs o.k o.d (.vneg o) (fun c j => into (-toSigned t.width (c.elem o.a t j)))) ∧
    (t.isInt = false →
      Performs o.k o.d (.vabs o) (fun c j => c.elem o.a t j % m) ∧
      Performs o.k o.d (.vneg o) (fun c j => c.elem o.a t j + m)) := by
  intro t m
  refine ⟨(runs_vpopc o).bits1 fun c j => popBits_eq _ _, (runs_vclz o).bits1 fun c j => ?_, fun ht => ⟨?_, ?_⟩,
    fun ht => ⟨?_, ?_⟩⟩
  · unfold clzBits
    simp only [beq_iff_eq]
    rfl
  · exact MapsV.performs ((runs_vabs o).congr fun c _ _ => c.signV_int o false ht) fun c _ _ j _ =>
      ⟨congrArg (· % 2 ^ t.width) (intWrite_of_ge o.k.sat (by simp only [Bool.false_eq_true, if_false]; exact Int.le_trans (Int.neg_nonpos_of_nonneg (Int.natCast_nonneg _)) (Int.natCast_nonneg _))), rfl⟩
  · refine MapsV.performs ((runs_vneg o).congr fun c _ _ => c.signV_int o true ht) fun c _ _ j _ =>
      ⟨congrArg (· % 2 ^ t.width) (intWrite_of_ge o.k.sat ?_), rfl⟩
    exact Int.neg_le_neg (Int.le_of_lt (toSigned_lt (EType.width_pos t) (c.elem o.a t j)))
  · exact MapsV.performs ((runs_vabs o).congr fun c _ _ => c.signV_float o false ht) fun c _ _ j _ => ⟨rfl, rfl⟩
  · exact MapsV.performs ((runs_vneg o).congr fun c _ _ => c.signV_float o true ht) fun c _ _ j _ =>
      ⟨flipSign_eq (EType.width_pos t) (c.elem_lt _ _ _), rfl⟩

/-! ## Floating-point rows of two sources -/

theorem performs_float (o : VVV) (ht : o.k.et.isInt = false) :
    let t := o.k.et
    let val (c : Core) (r : VReg) (j : Nat) : FVal := t.read (c.elem r t j)
    let put (c : Core) (x : PerfCtx) (sat : Bool) (j : Nat) (y : FVal × Flags) : Nat × Flags :=
      let z := t.write (c.rndAt x o.k t j) sat y.1
      (z.1, y.2 ||| z.2)
    let down (c : Core) (x : PerfCtx) (j : Nat) : Bool := (c.rndAt x o.k t j).isDown
    let pick (isMax : Bool) (c : Core) (_ : PerfCtx) (j : Nat) : Nat × Flags :=
      let y := fMinMax isMax true (val c o.a j) (val c o.b j)
      ((t.write .rne o.k.sat y.1).1, y.2)
    PerformsLanes (.vadd o) o.k o.d (fun c x j =>
      put c x o.k.sat j (fAdd (down c x j) (val c o.a j) (val c o.b j))) ∧
    PerformsLanes (.vsub o) o.k o.d (fun c x j =>
      put c x o.k.sat j (fAdd (down c x j) (val c o.a j) (val c o.b j).neg)) ∧
    PerformsLanes (.vmul o) o.k o.d (fun c x j => put c x o.k.sat j (fMul (val c o.a j) (val c o.b j))) ∧
    PerformsLanes (.vdiv o) o.k o.d (fun c x j => put c x o.k.sat j (fDiv (val c o.a j) (val c o.b j))) ∧
    PerformsLanes (.vmin o) o.k o.d (pick false) ∧ PerformsLanes (.vmax o) o.k o.d (pick true) := by
  intro t val put down pick
  have hpick (isMax : Bool) {i : Instr} (h : Runs i fun c _ _ => c.minMaxV o isMax) :
      PerformsLanes i o.k o.d (pick isMax) := by
    refine MapsV.gives (g := fun c x _ j => pick isMax c x j) (h.congr fun c x _ => ?_) fun _ _ _ _ => rfl
    unfold Core.minMaxV
    simp only [ht, Bool.false_eq_true, if_false]
    rfl
  exact ⟨(runs_vadd o).float2 ht, (runs_vsub o).float2 ht, (runs_vmul o).float2 ht, (runs_vdiv o).float2 ht,
    hpick false (runs_vmin o), hpick true (runs_vmax o)⟩

theorem performs_vsqrt (o : VV) : PerformsLanes (.vsqrt o) o.k o.d fun c x j =>
    let y := fSqrt (o.k.et.read (c.elem o.a o.k.et j))
    let z := o.k.et.write (c.rndAt x o.k o.k.et j) o.k.sat y.1
    (z.1, y.2 ||| z.2) :=
  MapsV.gives (g := fun c x _ j =>
    let y := fSqrt (o.k.et.read (c.elem o.a o.k.et j))
    let z := o.k.et.write (c.rndAt x o.k o.k.et j) o.k.sat y.1
    (z.1, y.2 ||| z.2)) ((runs_vsqrt o).congr fun _ _ _ => rfl) fun _ _ _ _ => rfl

/-! ## The special-function unit -/

/-- A row of the SFU gives its function when the request returns. -/
theorem sfu_lanes {i : Instr} {fn : SfuFn} {o : VV} (ht : tileOf i = none)
    (hp : ∀ c x pc sa sb fa shape, Core.performVec c x ⟨i, pc, sa, sb, fa, shape⟩ = c.sfuV fn o) :
    LanesGive .sfuReturn State.sfuReturns i o.k.q o.d o.k.et o.k.et.count fun c _ _ j =>
      let f := o.k.et.fmt?.getD fp64Fmt
      let y := sfuEval fn f (f.decode (c.elem o.a o.k.et j))
      (f.encode y.1, y.2) := by
  refine lanesGive_sfu i o.k.q o.d o.k.et o.k.et.count _ (Nat.le_refl _) ?_
  rintro c x y ⟨ins, pc, sa, sb, fa, shape⟩ rfl
  have he : c.perform x ⟨ins, pc, sa, sb, fa, shape⟩ = c.sfuV fn o := by
    unfold Core.perform
    rw [ht]
    exact hp c x pc sa sb fa shape
  exact he.trans (c.mapV_eq o.k o.d _)

theorem sfu_rows (o : VV) (p : Instr × SfuFn) (h : p ∈ [(Instr.vexp2 o, SfuFn.exp2), (.vlog2 o, .log2), (.vrcp o, .rcp),
      (.vrsqrt o, .rsqrt), (.vsin o, .sin), (.vcos o, .cos), (.vtanh o, .tanh), (.vsigm o, .sigm), (.verf o, .erf)]) :
    LanesGive .sfuReturn State.sfuReturns p.1 o.k.q o.d o.k.et o.k.et.count fun c _ _ j =>
      let f := o.k.et.fmt?.getD fp64Fmt
      let y := sfuEval p.2 f (f.decode (c.elem o.a o.k.et j))
      (f.encode y.1, y.2) := by
  simp only [List.mem_cons, List.not_mem_nil, or_false] at h
  rcases h with rfl | rfl | rfl | rfl | rfl | rfl | rfl | rfl | rfl <;>
    exact sfu_lanes rfl fun _ _ _ _ _ _ _ => rfl

/-! ## Conversion, broadcasts, slides and selections -/

theorem lanes_vcvt (o : VCvt) :
    LanesGive .sequencerPerform (fun s => s.core.badRegs = []) (.vcvt o) o.k.q o.d o.dt (min o.k.et.count o.dt.count)
      fun c x _ j => convertElem o.k.et o.dt (c.rndAt x o.k o.dt j) o.k.sat (c.elem o.a o.k.et j) :=
  lanesGive_sequencer _ _ _ _ _ _ (runs_vcvt o).sfu (runs_vcvt o).rot (Nat.min_le_right _ _) fun c x op hi =>
    ((runs_vcvt o).perform c x op hi).trans rfl

/-- The index that a slide reads is its element's, moved by the word's signed value. -/
theorem slideIdx_getD (n : Nat) (s : Word) (j : Nat) (f : Nat → Nat) : ((slideIdx n s j).map f).getD 0 =
    if 0 ≤ (j : Int) + s.toInt ∧ (j : Int) + s.toInt < n then f ((j : Int) + s.toInt).toNat else 0 := by
  unfold slideIdx
  simp only [Bool.and_eq_true, decide_eq_true_eq]
  split <;> rfl

theorem lanes_moves :
    let first := LanesGive .sequencerPerform (fun s => s.core.badRegs = [])
    (∀ o : VFromS, first (.vbcs o) o.k.q o.d o.k.et o.k.et.count fun _ _ op _ => (op.sa.toNat, 0)) ∧
    (∀ o : VFromF, first (.vbcf o) o.k.q o.d o.k.et o.k.et.count fun c _ op _ =>
      o.k.et.write (c.rnd o.k.rm) false (fp64Fmt.decode op.fa.toNat)) ∧
    ∀ o : VVS, first (.vslide o) o.k.q o.d o.k.et o.k.et.count fun c _ op j =>
      (if 0 ≤ (j : Int) + op.sb.toInt ∧ (j : Int) + op.sb.toInt < o.k.et.count
        then c.elem o.a o.k.et ((j : Int) + op.sb.toInt).toNat else 0, 0) :=
  ⟨fun o => (runs_vbcs o).lanes fun _ _ _ _ _ => ⟨Nat.mod_mod _ _, rfl⟩, fun o => (runs_vbcf o).gives fun _ _ _ _ => rfl,
    fun o => (runs_vslide o).gives fun _ _ _ _ => by rw [slideIdx_getD]⟩

theorem orAll_eq_zero {fls : List Flags} (h : ∀ f ∈ fls, f = 0) : orAll fls = 0 := by
  have := (orAll_and fls (BitVec.allOnes 5)).2 fun f hf => by rw [h f hf]; rfl
  rwa [BitVec.and_allOnes] at this

/-- Elements without flags are written as they are. -/
theorem Core.commitV_noFlags (c : Core) (d : VReg) (t : EType) (r : List (Nat × Flags)) (h : ∀ x ∈ r, x.2 = 0) :
    c.commitV d t r = .done (c.wrElems d t (r.map (·.1))) := by
  have h0 : orAll (r.map (·.2)) = 0 := orAll_eq_zero fun f hf => by
    obtain ⟨x, hx, rfl⟩ := List.mem_map.1 hf
    exact h x hx
  unfold Core.commitV Core.commit
  dsimp only
  rw [h0, show (0 : Flags) &&& c.fpEnables = 0 from BitVec.zero_and, Core.orFlags_zero]
  rfl

/-- Every element is enabled by the first mask register. -/
theorem Core.laneResults_all (c : Core) (d : VReg) (t : EType) (f : Nat → Nat × Flags) :
    c.laneResults 0 d t t.count f = (List.range t.count).map f := by
  refine List.ext_getElem (by rw [c.laneResults_length, List.length_map, List.length_range]) fun j h1 h2 => ?_
  have hj : j < t.count := c.laneResults_length 0 d t t.count f ▸ h1
  have hq : (c.rdQ 0).getLsbD j = true := by
    have := EType.lanes_le t
    rw [Core.rdQ, if_pos rfl, BitVec.getLsbD_allOnes]
    exact decide_eq_true (by omega)
  rw [c.laneResults_get, if_neg (Nat.not_le.2 hj), if_pos hq, List.getElem_map, List.getElem_range]

theorem lanes_vsel (o : VVV) :
    LanesGive .sequencerPerform (fun s => s.core.badRegs = []) (.vsel o) 0 o.d o.k.et o.k.et.count fun c _ _ j =>
      (if (c.rdQ o.k.q).getLsbD j then c.elem o.a o.k.et j else c.elem o.b o.k.et j, 0) :=
  lanesGive_sequencer _ _ _ _ _ _ (runs_vsel o).sfu (runs_vsel o).rot (Nat.le_refl _) fun c x op hi => by
    rw [(runs_vsel o).perform c x op hi, c.laneResults_all, c.commitV_noFlags, List.map_map]
    · rfl
    · intro y hy
      obtain ⟨j, -, rfl⟩ := List.mem_map.1 hy
      rfl

/-! ## Random fill and dropout -/

theorem lanes_random (o : VRngOp) :
    let w := o.k.et.width
    let bits (c : Core) (x : PerfCtx) (j n : Nat) : Nat := c.draw x (rngSlot x o.n) j n (64 / n)
    PerformsLanes (.vrng o) o.k o.d (fun c x j => (if rngTail (rngSlot x o.n) j then 0 else bits c x j w, 0)) ∧
    PerformsLanes (.vrngu o) o.k o.d (fun c x j =>
      let n := if o.k.et = .fp64 then 64 else 32
      (if rngTail (rngSlot x o.n) j then 0 else (o.k.et.write .rtz false (.fin false (bits c x j n) (-(n : Int)))).1, 0)) := by
  intro w bits
  constructor
  · exact MapsV.gives (g := fun c x _ j => (if rngTail (rngSlot x o.n) j then 0 else bits c x j w, 0))
      ((runs_vrng o).congr fun _ _ _ => rfl) fun _ _ _ _ => rfl
  · refine MapsV.gives (g := fun c x _ j =>
        let n := if o.k.et = .fp64 then 64 else 32
        (if rngTail (rngSlot x o.n) j then 0 else (o.k.et.write .rtz false (.fin false (bits c x j n) (-(n : Int)))).1, 0))
      ((runs_vrngu o).congr fun c x _ => ?_) fun _ _ _ _ => rfl
    unfold Core.rnguV
    simp only [beq_iff_eq]
    rfl

theorem lanes_vdrop (o : VDropOp) :
    LanesGive .sequencerPerform (fun s => s.core.badRegs = []) (.vdrop o) o.k.q o.d o.k.et o.k.et.count fun c x op j =>
      let t := o.k.et
      let p := fp32Fmt.decode (op.sb.toNat % 2 ^ 32)
      if p.isNaN ∨ p.isZero ∨ p.sign then (0, 0)
      else if p.cmp (.fin false 1 0) ≠ .lt then (c.elem o.a t j, 0)
      else if (FVal.fin false (c.draw x (rngSlot x o.n) j 32 2) (-32)).cmp p = .lt then
        let y := fDiv (t.read (c.elem o.a t j)) p
        let z := t.write .rne false y.1
        (z.1, y.2 ||| z.2)
      else (0, 0) := by
  refine MapsV.gives (g := fun c x op j =>
      let t := o.k.et
      let p := fp32Fmt.decode (op.sb.toNat % 2 ^ 32)
      if p.isNaN ∨ p.isZero ∨ p.sign then (0, 0)
      else if p.cmp (.fin false 1 0) ≠ .lt then (c.elem o.a t j, 0)
      else if (FVal.fin false (c.draw x (rngSlot x o.n) j 32 2) (-32)).cmp p = .lt then
        let y := fDiv (t.read (c.elem o.a t j)) p
        let z := t.write .rne false y.1
        (z.1, y.2 ||| z.2)
      else (0, 0)) ((runs_vdrop o).congr fun c x op => ?_) fun _ _ _ _ => rfl
  unfold Core.dropV
  simp only [Bool.or_eq_true, or_assoc, bne_iff_ne, beq_iff_eq]
  rfl

end Sys2Proof.Machine
end

section
/-! PROOF. Vector rows with masks and block scales (O21). -/

namespace Sys2Proof.Machine

/-! ## Flags by element -/

/-- The raised sets of `n` elements, of which `on` are enabled. -/
structure FlagList (fls : List Flags) (n : Nat) (on : Nat → Bool) (g : Nat → Flags) : Prop where
  length : fls.length = n
  get : ∀ j (h : j < fls.length), fls[j] = if on j then g j else 0

section
variable {fls : List Flags} {n : Nat} {on : Nat → Bool} {g : Nat → Flags}

/-- Flags that are computed for the first `n` elements. -/
theorem FlagList.of_range (n : Nat) (on : Nat → Bool) (g : Nat → Flags) :
    FlagList ((List.range n).map fun j => if on j then g j else 0) n on g :=
  ⟨by rw [List.length_map, List.length_range], fun j h => by rw [List.getElem_map, List.getElem_range]⟩

theorem FlagList.exists_iff (h : FlagList fls n on g) (P : Flags → Prop) (h0 : ¬ P 0) :
    (∃ x ∈ fls, P x) ↔ ∃ j, (j < n ∧ on j = true) ∧ P (g j) := by
  constructor
  · rintro ⟨x, hx, hP⟩
    obtain ⟨j, hj, rfl⟩ := List.getElem_of_mem hx
    rw [h.get] at hP
    split at hP
    next hon => exact ⟨j, ⟨h.length ▸ hj, hon⟩, hP⟩
    next => exact absurd hP h0
  · rintro ⟨j, ⟨hj, hon⟩, hP⟩
    have hj' : j < fls.length := h.length.symm ▸ hj
    exact ⟨_, List.getElem_mem hj', by rw [h.get, if_pos hon]; exact hP⟩

theorem FlagList.raised (h : FlagList fls n on g) (b : Nat) :
    (orAll fls).getLsbD b = true ↔ ∃ j, (j < n ∧ on j = true) ∧ (g j).getLsbD b = true :=
  (orAll_getLsbD fls b).trans (h.exists_iff (fun x => x.getLsbD b = true) (by simp))

theorem FlagList.none_iff (h : FlagList fls n on g) (m : Flags) :
    orAll fls &&& m = 0 ↔ ∀ j, ¬ ((j < n ∧ on j = true) ∧ g j &&& m ≠ 0) := by
  rw [orAll_and, ← not_exists, ← h.exists_iff (fun x => x &&& m ≠ 0) (by simp)]
  exact ⟨fun h ⟨x, hx, hne⟩ => hne (h x hx), fun h x hx => Decidable.byContradiction fun hne => h ⟨x, hx, hne⟩⟩

theorem FlagList.some_iff (h : FlagList fls n on g) (m : Flags) :
    orAll fls &&& m ≠ 0 ↔ ∃ j, (j < n ∧ on j = true) ∧ g j &&& m ≠ 0 := by
  rw [Ne, h.none_iff, Classical.not_forall_not]

theorem FlagList.mask (h : FlagList fls n on g) (m : Flags) {b : Nat} (hb : b < 64) :
    (laneMask m fls).getLsbD b = true ↔
      ∃ j, ((j < n ∧ on j = true) ∧ g j &&& m ≠ 0) ∧ j / (if n ≤ 64 then 1 else 2) = b := by
  rw [laneMask_bit _ _ _ hb, ← h.length]
  constructor
  · rintro ⟨j, hj, hne, hd⟩
    rw [h.get] at hne
    split at hne
    next hon => exact ⟨j, ⟨⟨hj, hon⟩, hne⟩, hd⟩
    next => exact absurd (BitVec.zero_and) hne
  · rintro ⟨j, ⟨⟨hj, hon⟩, hne⟩, hd⟩
    exact ⟨j, hj, by rw [h.get, if_pos hon]; exact hne, hd⟩

end

/-! ## Committing -/

theorem Core.commit_done (c : Core) {raised : Flags} {tval : Word} {w : Core → Core} (h : raised &&& c.fpEnables = 0) :
    c.commit raised tval w = .done ((w c).orFlags raised) := by
  rw [Core.commit, h]
  rfl

theorem Core.commit_fptrap (c : Core) {raised : Flags} {tval : Word} {w : Core → Core} (h : raised &&& c.fpEnables ≠ 0) :
    c.commit raised tval w = .fptrap raised tval := by
  rw [Core.commit, if_pos (by simpa using h)]

/-- A row that commits changes the registers as `w` says and raises its flags, or traps where one of them is enabled. -/
theorem Runs.commits {i : Instr} {p : Core → PerfCtx → SeqOp → PerfRes} (h : Runs i p) {s : State} {e : SeqEntry} {op : SeqOp}
    {rest : List SeqEntry} (hi : op.ins = i) (hh : s.heads e op rest) (hb : s.core.badRegs = []) {raised : Flags} {tval : Word}
    {w : Core → Core} (hp : p s.core (s.ctxOf e) op = s.core.commit raised tval w)
    (hw : (w s.core).vec = s.core.vec ∧ (w s.core).ls = s.core.ls ∧ (w s.core).fp = s.core.fp) {R : Nat → Prop}
    (hR : ∀ b, raised.getLsbD b = true ↔ R b) :
    (raised &&& s.core.fpEnables = 0 → ∃ u, exec .sequencerPerform s = .next u ∧
      u.core.vec.seq = e.next.toList ++ rest ∧ u.core.regs = (w s.core).regs ∧ u.core.ls = s.core.ls ∧ s.core.raises u.core R) ∧
    (raised &&& s.core.fpEnables ≠ 0 → e.follow = none → s.core.owed = false → ∃ u, exec .sequencerPerform s = .next u ∧
      s.core.trapsAt u.core e op 0x08 ∧ s.core.raises u.core R ∧ u.core.trap.tval = tval) := by
  have he : exec .sequencerPerform s = _ :=
    execSequencerPerform_eq s e op rest hh hb (hi ▸ h.sfu) (SeqEntry.rotOp_none hh.2 (hi ▸ h.rot))
  rw [he, h.perform _ _ _ hi, hp]
  obtain ⟨hvec, hls, hfp⟩ := hw
  have hraise (f : FpRegs) (hf : f = { s.core.fp with flags := s.core.fp.flags ||| raised }) (u : Core) (hu : u.fp = f) :
      s.core.raises u R := by
    refine ⟨by rw [hu, hf], fun b => ?_⟩
    rw [hu, hf, BitVec.getLsbD_or, Bool.or_eq_true, hR]
  constructor
  · intro h0
    rw [s.core.commit_done h0]
    refine ⟨_, rfl, ?_, ?_, ?_, hraise _ ?_ _ (Core.advance_fp _ _ _)⟩
    · refine (Core.advance_seq _ _ _).trans (congrArg (e.next.toList ++ ·) ?_)
      change (w s.core).vec.seq.tail = rest
      rw [hvec, hh.1, List.tail_cons]
    · exact Core.advance_regs _ _ _
    · exact (Core.advance_ls _ _ _).trans hls
    · rw [Core.orFlags, hfp]
  · intro h0 hf ho
    rw [s.core.commit_fptrap h0, Core.finishPerform_fptrap _ _ _ _ _ hf ho]
    obtain ⟨h3, h4, h5⟩ := (s.core.orFlags raised).preciseTrap_trapsAt e op ⟨causeFpTrap, tval⟩
    exact ⟨_, rfl, h3, hraise _ rfl _ h5, h4⟩

/-! ## Compares -/

theorem Core.rdQ_congr {c c' : Core} (h : c.regs = c'.regs) (p : QReg) : c.rdQ p = c'.rdQ p := by
  unfold Core.rdQ
  rw [h]

theorem Core.rdV_congr {c c' : Core} (h : c.regs = c'.regs) (r : VReg) : c.rdV r = c'.rdV r := by
  unfold Core.rdV
  rw [h]

theorem Core.elem_congr {c c' : Core} {r r' : VReg} (h : (c.rdV r).bits = (c'.rdV r').bits) (t : EType) (j : Nat) :
    c.elem r t j = c'.elem r' t j := by
  unfold Core.elem VecReg.elems
  rw [h]

@[simp] theorem Core.rdQ_wrQ (c : Core) (d p : QReg) (x : BitVec 128) :
    (c.wrQ d x).rdQ p = if p ≠ 0 ∧ p = d then x else c.rdQ p := by
  unfold Core.wrQ Core.rdQ
  by_cases hp : p = 0
  · simp [hp]
  · by_cases hd : p = d
    · subst hd
      simp only [hp, if_false, ne_eq, not_false_iff, and_self, if_true]
      exact Vector.getElem_set_self p.isLt
    · by_cases h0 : d = 0
      · simp [h0, hp]
      · simp only [hp, hd, h0, if_false, and_false]
        exact Vector.getElem_set_ne d.isLt p.isLt fun x => hd (Fin.ext x.symm)

theorem Core.wrQ_keeps (c : Core) (d : QReg) (x : BitVec 128) : (c.wrQ d x).vec = c.vec ∧ (c.wrQ d x).ls = c.ls ∧
    (c.wrQ d x).fp = c.fp ∧ (c.wrQ d x).regs = { c.regs with q := (c.wrQ d x).regs.q } := by
  unfold Core.wrQ
  split <;> exact ⟨rfl, rfl, rfl, rfl⟩

theorem maskUpdate_getLsbD (old q : BitVec 128) (n : Nat) (f : Nat → Bool) {j : Nat} (hj : j < 128) :
    (maskUpdate old q n f).getLsbD j = if j < n ∧ q.getLsbD j = true then f j else old.getLsbD j := by
  have h : maskUpdate old q n f =
    BitVec.ofNat 128 (sumBits 128 fun j => if j < n && maskBit q j then f j else maskBit old j) := rfl
  rw [h, BitVec.getLsbD_ofNat, testBit_sumBits]
  simp only [hj, decide_true, Bool.true_and, Bool.and_eq_true, decide_eq_true_eq]
  rfl

/-- The result of a compare for element `j`. -/
def Core.compared (c : Core) (o : QVV) (k : CmpKind) (j : Nat) : Bool × Flags :=
  let t := o.k.et
  if t.isInt then (iCompare k (toSigned t.width (c.elem o.a t j)) (toSigned t.width (c.elem o.b t j)), 0)
  else fCompare k (t.read (c.elem o.a t j)) (t.read (c.elem o.b t j))

theorem zipIdx_map_range {α : Type} (n : Nat) (f : Nat → α) :
    ((List.range n).map f).zipIdx = (List.range n).map fun j => (f j, j) := by
  refine List.ext_getElem (by simp) fun j h1 h2 => ?_
  simp

theorem Core.compareV_eq (c : Core) (o : QVV) (k : CmpKind) : c.compareV o k =
    let fls := (List.range o.k.et.count).map fun j => if maskBit (c.rdQ o.k.q) j then (c.compared o k j).2 else 0
    c.commit (orAll fls) (laneMask c.fpEnables fls) fun c' => c'.wrQ o.d (maskUpdate (c'.rdQ o.d) (c.rdQ o.k.q) o.k.et.count
      fun j => (((List.range o.k.et.count).map (c.compared o k)).getD j (false, 0)).1) := by
  have h : ((List.range o.k.et.count).map (c.compared o k)).zipIdx.map
      (fun x => if maskBit (c.rdQ o.k.q) x.2 then x.1.2 else 0) =
        (List.range o.k.et.count).map fun j => if maskBit (c.rdQ o.k.q) j then (c.compared o k j).2 else 0 := by
    rw [zipIdx_map_range, List.map_map]
    rfl
  dsimp only
  rw [← h]
  rfl

theorem toSigned_inj {w a b : Nat} (ha : a < 2 ^ w) (hb : b < 2 ^ w) : toSigned w a = toSigned w b ↔ a = b := by
  refine ⟨fun h => ?_, fun h => by rw [h]⟩
  have hm := (toSigned_emod w a).symm.trans (h ▸ toSigned_emod w b)
  rw [← Int.natCast_emod, ← Int.natCast_emod, Nat.mod_eq_of_lt ha, Nat.mod_eq_of_lt hb] at hm
  exact Int.ofNat_inj.1 hm

/-- What a compare gives, with the equalities of integers on their fields. -/
theorem Core.compared_eq (c : Core) (o : QVV) (k : CmpKind) (j : Nat) : c.compared o k j =
    let t := o.k.et
    let a := c.elem o.a t j
    let b := c.elem o.b t j
    if t.isInt then
      (match k with
        | .eq => decide (a = b)
        | .ne => decide (a ≠ b)
        | .lt => decide (toSigned t.width a < toSigned t.width b)
        | .le => decide (toSigned t.width a ≤ toSigned t.width b)
        | .un => false, 0)
    else fCompare k (t.read a) (t.read b) := by
  have hinj := toSigned_inj (c.elem_lt o.a o.k.et j) (c.elem_lt o.b o.k.et j)
  unfold Core.compared
  dsimp only
  split
  · refine congrArg (·, 0) ?_
    cases k
    · exact Bool.eq_iff_iff.2 (by simpa [iCompare] using hinj)
    · exact Bool.eq_iff_iff.2 (by simpa [iCompare] using not_congr hinj)
    · rfl
    · rfl
    · rfl
  · rfl

theorem performsMask_of {i : Instr} {o : QVV} {k : CmpKind} (h : Runs i fun c _ _ => c.compareV o k) :
    PerformsMask i o fun c j => c.compared o k j := by
  intro s e op rest hi hh hb c on trapping raised
  have hfl := FlagList.of_range o.k.et.count (maskBit (c.rdQ o.k.q)) fun j => (c.compared o k j).2
  obtain ⟨hdone, htrap⟩ := h.commits hi hh hb (c.compareV_eq o k)
    ⟨(c.wrQ_keeps _ _).1, (c.wrQ_keeps _ _).2.1, (c.wrQ_keeps _ _).2.2.1⟩ hfl.raised
  refine ⟨fun hno => ?_, fun hex hf ho => ?_⟩
  · obtain ⟨u, hu, hseq, hregs, hls, hr⟩ := hdone ((hfl.none_iff _).2 hno)
    have hq (p : QReg) := (Core.rdQ_congr hregs p).trans (c.rdQ_wrQ o.d p _)
    refine ⟨u, hu, hseq, fun hd j hj => ?_, fun p hp => ?_, ?_, hls, hr⟩
    · rw [hq, if_pos ⟨hd, rfl⟩]
      refine (maskUpdate_getLsbD (c.rdQ o.d) (c.rdQ o.k.q) o.k.et.count _ hj).trans ?_
      refine ite_congr rfl (fun hc => ?_) fun _ => rfl
      rw [List.getD_eq_getElem?_getD, List.getElem?_map, List.getElem?_range hc.1]
      rfl
    · rw [hq, if_neg (by rintro ⟨h1, h2⟩; exact hp.elim h1 fun h => h h2)]
    · rw [hregs]
      exact (c.wrQ_keeps _ _).2.2.2
  · obtain ⟨u, hu, ht, hr, hv⟩ := htrap ((hfl.some_iff _).2 hex) hf ho
    refine ⟨u, hu, ht, hr, fun b hb => ?_⟩
    rw [hv, hfl.mask _ hb, EType.per_lane]
    rfl

theorem masks_compares (o : QVV) (p : Instr × CmpKind) (h : p ∈ [(Instr.vceq o, CmpKind.eq), (.vcne o, .ne), (.vclt o, .lt),
      (.vcle o, .le), (.vcun o, .un)]) :
    PerformsMask p.1 o fun c j =>
      let t := o.k.et
      let a := c.elem o.a t j
      let b := c.elem o.b t j
      if t.isInt then
        (match p.2 with
          | .eq => decide (a = b)
          | .ne => decide (a ≠ b)
          | .lt => decide (toSigned t.width a < toSigned t.width b)
          | .le => decide (toSigned t.width a ≤ toSigned t.width b)
          | .un => false, 0)
      else fCompare p.2 (t.read a) (t.read b) := by
  have hall : PerformsMask p.1 o fun c j => c.compared o p.2 j := by
    simp only [List.mem_cons, List.not_mem_nil, or_false] at h
    rcases h with rfl | rfl | rfl | rfl | rfl
    · exact performsMask_of (runs_vceq o)
    · exact performsMask_of (runs_vcne o)
    · exact performsMask_of (runs_vclt o)
    · exact performsMask_of (runs_vcle o)
    · exact performsMask_of (runs_vcun o)
  simpa only [Core.compared_eq] using hall

end Sys2Proof.Machine
end

section
/-! PROOF. Vector rows with block scales; they settle O21. -/

namespace Sys2Proof.Machine

/-! ## What changes vector registers alone -/

/-- Only vector registers, and the marks of registers in error, differ. -/
structure Core.ChangesV (c u : Core) : Prop where
  vec : u.vec = c.vec
  ls : u.ls = c.ls
  fp : u.fp = c.fp
  regs : u.regs = { c.regs with v := u.regs.v }

theorem Core.ChangesV.refl (c : Core) : c.ChangesV c := ⟨rfl, rfl, rfl, rfl⟩

theorem Core.ChangesV.trans {a b c : Core} (h : a.ChangesV b) (h' : b.ChangesV c) : a.ChangesV c :=
  ⟨h'.vec.trans h.vec, h'.ls.trans h.ls, h'.fp.trans h.fp, by rw [h'.regs, h.regs]⟩

theorem Core.wrV_changesV (c : Core) (d : VReg) (x : VecReg) : c.ChangesV (c.wrV d x) := ⟨rfl, rfl, rfl, rfl⟩

theorem Core.wrElems_changesV (c : Core) (d : VReg) (t : EType) (xs : List Nat) : c.ChangesV (c.wrElems d t xs) :=
  c.wrV_changesV d _

theorem Core.rdV_wrElems (c : Core) (d r : VReg) (t : EType) (xs : List Nat) : (c.wrElems d t xs).rdV r =
    if r = d then { c.rdV d with bits := BitVec.ofNat 512 (packElems t.width xs) } else c.rdV r := c.rdV_wrV d r _

/-! ## Scales into a sidecar -/

/-- Scales are written into the sidecar of `d` from slot `k` on. -/
def Core.wrScales (c : Core) (d : VReg) (scales : List (BitVec 20)) (k : Nat) : Core :=
  (scales.zipIdx k).foldl (fun c x => c.wrV d ((c.rdV d).setScale (Fin.ofNat 4 x.2) x.1)) c

theorem Core.wrScales_cons (c : Core) (d : VReg) (x : BitVec 20) (xs : List (BitVec 20)) (k : Nat) :
    c.wrScales d (x :: xs) k = (c.wrV d ((c.rdV d).setScale (Fin.ofNat 4 k) x)).wrScales d xs (k + 1) := rfl

theorem Core.wrScales_spec (d : VReg) (scales : List (BitVec 20)) (k : Nat) (c : Core) (hk : k + scales.length ≤ 4) :
    let u := c.wrScales d scales k
    c.ChangesV u ∧ (u.rdV d).bits = (c.rdV d).bits ∧ (∀ v, v ≠ d → u.rdV v = c.rdV v) ∧
      ∀ b : Fin 4, (u.rdV d).scales.get b =
        if k ≤ b.val ∧ b.val < k + scales.length then scales.getD (b.val - k) 0 else (c.rdV d).scales.get b := by
  induction scales generalizing k c with
  | nil => exact ⟨.refl c, rfl, fun _ _ => rfl, fun b => by rw [if_neg (by simp only [List.length_nil]; omega)]; rfl⟩
  | cons x xs ih =>
    rw [List.length_cons] at hk
    have hval : (Fin.ofNat 4 k).val = k := Nat.mod_eq_of_lt (by omega)
    obtain ⟨h1, h2, h3, h4⟩ := ih (k + 1) (c.wrV d ((c.rdV d).setScale (Fin.ofNat 4 k) x)) (by omega)
    have hd : (c.wrV d ((c.rdV d).setScale (Fin.ofNat 4 k) x)).rdV d = (c.rdV d).setScale (Fin.ofNat 4 k) x :=
      (c.rdV_wrV d d _).trans (if_pos rfl)
    rw [Core.wrScales_cons]
    refine ⟨(c.wrV_changesV d _).trans h1, h2.trans (by rw [hd]; rfl),
      fun v hv => (h3 v hv).trans ((c.rdV_wrV d v _).trans (if_neg hv)), fun b => (h4 b).trans ?_⟩
    rw [hd, List.length_cons]
    by_cases hb : b.val = k
    · have hbk : b = Fin.ofNat 4 k := Fin.ext (hb.trans hval.symm)
      rw [if_neg (by omega), if_pos (by omega), hb, Nat.sub_self, hbk]
      exact Vector.getElem_set_self (Fin.ofNat 4 k).isLt
    · by_cases hin : k + 1 ≤ b.val ∧ b.val < k + 1 + xs.length
      · rw [if_pos hin, if_pos (by omega), show b.val - k = b.val - (k + 1) + 1 by omega, List.getD_cons_succ]
      · rw [if_neg hin, if_neg (by omega)]
        exact Vector.getElem_set_ne (Fin.ofNat 4 k).isLt b.isLt (by rw [hval]; omega)

/-- Quantised elements with their scales leave the elements, the scales from slot 0 on, and the rest. -/
theorem Core.wrQuant_spec (c : Core) (d : VReg) (t : EType) (xs : List Nat) (scales : List (BitVec 20)) (hk : scales.length ≤ 4) :
    let u := c.wrQuant d t xs scales
    c.ChangesV u ∧ (u.rdV d).bits = ((c.wrElems d t xs).rdV d).bits ∧ (∀ v, v ≠ d → u.rdV v = c.rdV v) ∧
      ∀ b : Fin 4, (u.rdV d).scales.get b =
        if b.val < scales.length then scales.getD b.val 0 else (c.rdV d).scales.get b := by
  obtain ⟨h1, h2, h3, h4⟩ := Core.wrScales_spec d scales 0 (c.wrElems d t xs) (by omega)
  refine ⟨(c.wrElems_changesV d t xs).trans h1, h2, fun v hv => (h3 v hv).trans ((c.rdV_wrElems d v t xs).trans (if_neg hv)),
    fun b => (h4 b).trans ?_⟩
  rw [c.rdV_wrElems d d t xs, if_pos rfl]
  simp only [Nat.zero_le, true_and, Nat.zero_add, Nat.sub_zero]

/-! ## Quantising -/

/-- The scale of block `b`. -/
def quantScale (t : EType) (q : BitVec 128) (src : Nat → FVal) (keepNaN : Nat → Bool) (b : Nat) : BitVec 20 :=
  if keepNaN b then 0xFF000
  else chooseScale t (((List.range 32).filter fun n => maskBit q (32 * b + n)).map fun n => src (32 * b + n))

/-- Element `j` under the scale of its block. -/
def quantElem (t : EType) (src : Nat → FVal) (rnd : Nat → Rnd) (keepNaN : Nat → Bool) (scale : BitVec 20) (j : Nat) :
    Nat × Flags :=
  match Scale.ofBits scale with
  | .val _ _ => t.write (rnd j) true (unscale scale (src j))
  | _ => (0, if keepNaN (j / 32) = false ∧ (src j).isSNaN = true then flagNV else 0)

theorem quantise_length (t : EType) (q : BitVec 128) (src : Nat → FVal) (old : List Nat) (rnd : Nat → Rnd)
    (keepNaN : Nat → Bool) : (quantise t q src old rnd keepNaN).1.length = old.length := by
  unfold quantise
  rw [List.length_map, List.length_zipIdx]

theorem quantise_get (t : EType) (q : BitVec 128) (src : Nat → FVal) (old : List Nat) (rnd : Nat → Rnd)
    (keepNaN : Nat → Bool) (j : Nat) (hj : j < (quantise t q src old rnd keepNaN).1.length) (hold : j < old.length)
    (hb : j / 32 < t.count / 32) : (quantise t q src old rnd keepNaN).1[j] =
      if maskBit q j then quantElem t src rnd keepNaN (quantScale t q src keepNaN (j / 32)) j else (old[j], 0) := by
  have hs : ((List.range (t.count / 32)).map (quantScale t q src keepNaN)).getD (j / 32) 0 =
      quantScale t q src keepNaN (j / 32) := by
    rw [List.getD_eq_getElem?_getD, List.getElem?_map, List.getElem?_range hb]
    rfl
  have hget : (quantise t q src old rnd keepNaN).1[j] = if maskBit q j then
      (match Scale.ofBits (((List.range (t.count / 32)).map (quantScale t q src keepNaN)).getD (j / 32) 0) with
        | .val _ _ => t.write (rnd j) true (unscale (((List.range (t.count / 32)).map (quantScale t q src keepNaN)).getD (j / 32) 0) (src j))
        | _ => (0, flagIf (!keepNaN (j / 32) && (src j).isSNaN) flagNV))
      else (old[j], 0) := by
    unfold quantise
    simp only [List.getElem_map, List.getElem_zipIdx, Nat.zero_add]
    rfl
  rw [hget, hs]
  refine ite_congr rfl (fun _ => ?_) fun _ => rfl
  unfold quantElem
  cases Scale.ofBits (quantScale t q src keepNaN (j / 32)) with
  | val _ _ => rfl
  | _ =>
    cases keepNaN (j / 32) <;> cases (src j).isSNaN <;> rfl

/-- A register of whole blocks has at most four. -/
theorem EType.blocks {t : EType} (h : 32 ≤ t.count) : 32 * (t.count / 32) = t.count ∧ t.count / 32 ≤ 4 := by
  revert h
  cases t <;> decide

theorem EType.per_blocks (t : EType) :
    (if 32 * (t.count / 32) ≤ 64 then 1 else 2) = (if t.count = 128 then 2 else 1) := by cases t <;> decide

/-- Quantising the values that `val` gives. -/
def Core.quantised (c : Core) (k : VCtl) (d : VReg) (rnd : Nat → Rnd) (keepNaN : Nat → Bool) (val : Nat → FVal × Flags) :
    List (Nat × Flags) × List (BitVec 20) :=
  quantise k.et (c.rdQ k.q) (fun j => (val j).1) ((c.rdV d).elems k.et) rnd keepNaN

/-- Quantising such values and committing the elements, with the flags of the values. -/
def Core.commitQuant (c : Core) (k : VCtl) (d : VReg) (rnd : Nat → Rnd) (keepNaN : Nat → Bool) (val : Nat → FVal × Flags) : PerfRes :=
  let r := c.quantised k d rnd keepNaN val
  c.commit (orAll (r.1.zipIdx.map fun y => y.1.2 ||| if maskBit (c.rdQ k.q) y.2 then (val y.2).2 else 0))
    (predMask (c.rdQ k.q) k.et.count) fun c => c.wrQuant d k.et (r.1.map (·.1)) r.2

theorem Core.commitQuant_eq (c : Core) (k : VCtl) (d : VReg) (rnd : Nat → Rnd) (keepNaN : Nat → Bool) (val : Nat → FVal × Flags) :
    c.commitQuant k d rnd keepNaN val =
      c.commit (orAll ((c.quantised k d rnd keepNaN val).1.zipIdx.map fun y =>
          y.1.2 ||| if maskBit (c.rdQ k.q) y.2 then (val y.2).2 else 0)) (predMask (c.rdQ k.q) k.et.count)
        fun c' => c'.wrQuant d k.et ((c.quantised k d rnd keepNaN val).1.map (·.1)) (c.quantised k d rnd keepNaN val).2 := rfl

theorem Core.quantised_get (c : Core) (k : VCtl) (d : VReg) (rnd : Nat → Rnd) (keepNaN : Nat → Bool) (val : Nat → FVal × Flags)
    (h32 : 32 ≤ k.et.count) (j : Nat) (hj : j < (c.quantised k d rnd keepNaN val).1.length) :
    (c.quantised k d rnd keepNaN val).1[j] = if maskBit (c.rdQ k.q) j then
      quantElem k.et (fun j => (val j).1) rnd keepNaN
        (quantScale k.et (c.rdQ k.q) (fun j => (val j).1) keepNaN (j / 32)) j else (c.elem d k.et j, 0) := by
  have hlen : ((c.rdV d).elems k.et).length = k.et.count := by simp [VecReg.elems, unpackElems]
  have hold : j < ((c.rdV d).elems k.et).length := quantise_length _ _ _ _ _ _ ▸ hj
  have hb := (EType.blocks h32).1
  refine (quantise_get k.et _ _ _ rnd keepNaN j hj hold (by omega)).trans (ite_congr rfl (fun _ => rfl) fun _ => ?_)
  rw [Core.elem, List.getD_eq_getElem?_getD, List.getElem?_eq_getElem hold, Option.getD_some]

theorem Core.quantised_length (c : Core) (k : VCtl) (d : VReg) (rnd : Nat → Rnd) (keepNaN : Nat → Bool)
    (val : Nat → FVal × Flags) : (c.quantised k d rnd keepNaN val).1.length = k.et.count := by
  rw [Core.quantised, quantise_length]
  simp [VecReg.elems, unpackElems]

/-- The lanes of the elements that a predicate enables. -/
theorem predMask_bit (q : BitVec 128) (n b : Nat) (hb : b < 64) : (predMask q n).getLsbD b = true ↔
    ∃ j, (j < n ∧ q.getLsbD j = true) ∧ j / (if n ≤ 64 then 1 else 2) = b := by
  simp only [predMask, BitVec.getLsbD_ofNat, hb, decide_true, Bool.true_and, foldl_or_bit, Nat.zero_testBit,
    Bool.false_eq_true, false_or, List.mem_map, List.mem_range]
  constructor
  · rintro ⟨x, ⟨j, hj, rfl⟩, ht⟩
    split at ht
    next hq => exact ⟨j, ⟨hj, hq⟩, by simpa [Nat.testBit_two_pow] using ht⟩
    next => simp at ht
  · rintro ⟨j, ⟨hj, hq⟩, rfl⟩
    exact ⟨_, ⟨j, hj, rfl⟩, by rw [if_pos (by exact hq)]; simp [Nat.testBit_two_pow]⟩

/-- The flags of quantised elements, with those of their values. -/
theorem Core.quantised_flags (c : Core) (k : VCtl) (d : VReg) (rnd : Nat → Rnd) (keepNaN : Nat → Bool) (val : Nat → FVal × Flags)
    (h32 : 32 ≤ k.et.count) :
    FlagList ((c.quantised k d rnd keepNaN val).1.zipIdx.map fun y => y.1.2 ||| if maskBit (c.rdQ k.q) y.2 then (val y.2).2 else 0)
      k.et.count (maskBit (c.rdQ k.q)) fun j => (quantElem k.et (fun j => (val j).1) rnd keepNaN
        (quantScale k.et (c.rdQ k.q) (fun j => (val j).1) keepNaN (j / 32)) j).2 ||| (val j).2 := by
  refine ⟨by rw [List.length_map, List.length_zipIdx, c.quantised_length], fun j h => ?_⟩
  rw [List.getElem_map, List.getElem_zipIdx, c.quantised_get _ _ _ _ _ h32, Nat.zero_add]
  cases maskBit (c.rdQ k.q) j
  · exact BitVec.or_zero
  · rfl

theorem performsBlocks_of {i : Instr} {k : VCtl} {d : VReg} {rnd : Core → PerfCtx → Nat → Rnd} {keepNaN : Core → Nat → Bool}
    {val : Core → Nat → FVal × Flags} (h : Runs i fun c x _ => c.commitQuant k d (rnd c x) (keepNaN c) (val c)) :
    PerformsBlocks i k d rnd keepNaN val := by
  intro s e op rest hi hh hb h32 c enabled scale r on flags raised
  have hscale (b : Nat) : quantScale k.et (c.rdQ k.q) (fun j => (val c j).1) (keepNaN c) b = scale b := rfl
  have hr (j : Nat) : quantElem k.et (fun j => (val c j).1) (rnd c (s.ctxOf e)) (keepNaN c) (scale (j / 32)) j = r j := by
    cases hs : Scale.ofBits (scale (j / 32)) <;> simp only [quantElem, r, hs]
  have hfl := c.quantised_flags k d (rnd c (s.ctxOf e)) (keepNaN c) (val c) h32
  have hget := c.quantised_get k d (rnd c (s.ctxOf e)) (keepNaN c) (val c) h32
  have hlen := c.quantised_length k d (rnd c (s.ctxOf e)) (keepNaN c) (val c)
  have hsc : (c.quantised k d (rnd c (s.ctxOf e)) (keepNaN c) (val c)).2 = (List.range (k.et.count / 32)).map scale := rfl
  simp only [hscale, hr] at hfl hget
  obtain ⟨hch, hbits, hother, hscales⟩ := c.wrQuant_spec d k.et
    ((c.quantised k d (rnd c (s.ctxOf e)) (keepNaN c) (val c)).1.map (·.1))
    (c.quantised k d (rnd c (s.ctxOf e)) (keepNaN c) (val c)).2 (by simpa [hsc] using (EType.blocks h32).2)
  obtain ⟨hdone, htrap⟩ := h.commits hi hh hb (c.commitQuant_eq k d (rnd c (s.ctxOf e)) (keepNaN c) (val c)) ⟨hch.vec, hch.ls, hch.fp⟩ hfl.raised
  refine ⟨fun hno => ?_, fun ⟨j, hj, hne⟩ hf ho => ?_⟩
  · obtain ⟨u, hu, hseq, hregs, hls, hrz⟩ := hdone ((hfl.none_iff _).2 fun j hj => hj.2 (hno j hj.1))
    refine ⟨u, hu, hseq, fun j hj => ?_, fun b => ?_, fun v hv => (Core.rdV_congr hregs v).trans (hother v hv),
      by rw [hregs]; exact hch.regs, hls, hrz⟩
    · have hjl : j < (c.quantised k d (rnd c (s.ctxOf e)) (keepNaN c) (val c)).1.length := hlen.symm ▸ hj
      rw [Core.elem_congr ((congrArg VecReg.bits (Core.rdV_congr hregs d)).trans hbits),
        c.elem_wrElems d k.et _ (by rw [List.length_map, hlen]) j hj, List.getD_eq_getElem?_getD, List.getElem?_map,
        List.getElem?_eq_getElem hjl, hget]
      change (if enabled j = true then r j else (c.elem d k.et j, 0)).1 % _ = _
      split
      · rfl
      · exact Nat.mod_eq_of_lt (c.elem_lt _ _ _)
    · rw [Core.rdV_congr hregs d, hscales, hsc, List.length_map, List.length_range]
      refine ite_congr rfl (fun hb => ?_) fun _ => rfl
      rw [List.getD_eq_getElem?_getD, List.getElem?_map, List.getElem?_range hb]
      rfl
  · obtain ⟨u, hu, ht, hrz, hv⟩ := htrap ((hfl.some_iff _).2 ⟨j, hj, hne⟩) hf ho
    refine ⟨u, hu, ht, hrz, fun b hb => ?_⟩
    rw [hv, predMask_bit _ _ _ hb, EType.per_lane]

/-! ## The rows by blocks -/

/-- Values without flags of their own add none. -/
theorem zipIdx_or_zero (l : List (Nat × Flags)) (q : BitVec 128) :
    (l.zipIdx.map fun y => y.1.2 ||| if maskBit q y.2 then 0 else 0) = l.map (·.2) := by
  refine List.ext_getElem (by simp) fun j h1 h2 => ?_
  simp only [ite_self, List.getElem_map, List.getElem_zipIdx]
  exact BitVec.or_zero

theorem performsBlocks_vquant (o : VV) : PerformsBlocks (.vquant o) o.k o.d (fun c x j => c.rndAt x o.k o.k.et j)
    (fun _ _ => false) (fun c j => (EType.bf16.read (c.elem (vecAt o.a (j / 32)) .bf16 (j % 32)), 0)) := by
  refine performsBlocks_of ((runs_vquant o).congr fun c x _ => ?_)
  rw [Core.commitQuant_eq, zipIdx_or_zero]
  exact rfl

theorem performsBlocks_vrenorm (o : VV) :
    let sidecar (c : Core) (b : Nat) : Scale := Scale.ofBits ((c.rdV o.a).scales.get (Fin.ofNat 4 b))
    PerformsBlocks (.vrenorm o) o.k o.d (fun c _ _ => c.rnd o.k.rm) (fun c b => decide (sidecar c b = .nan))
      fun c j => scaled (sidecar c (j / 32)) (o.k.et.read (c.elem o.a o.k.et j)) :=
  performsBlocks_of ((runs_vrenorm o).congr fun _ _ _ => rfl)

/-! ## Dequantising into a group of registers -/

/-- Lists of BF16 elements into the registers from `d` on, the first `k` of which are left out. -/
def Core.wrGroup (c : Core) (d : VReg) (blocks : List (List (Nat × Flags))) (k : Nat) : Core :=
  (blocks.zipIdx k).foldl (fun c x => c.wrElems (vecAt d x.2) .bf16 (x.1.map (·.1))) c

theorem Core.wrGroup_cons (c : Core) (d : VReg) (x : List (Nat × Flags)) (xs : List (List (Nat × Flags))) (k : Nat) :
    c.wrGroup d (x :: xs) k = (c.wrElems (vecAt d k) .bf16 (x.map (·.1))).wrGroup d xs (k + 1) := rfl

theorem vecAt_ne (d : VReg) {a b : Nat} (ha : a < 4) (hb : b < 4) (h : a ≠ b) : vecAt d a ≠ vecAt d b := by
  intro he
  have := congrArg Fin.val he
  simp only [vecAt, Fin.ofNat] at this
  omega

theorem Core.wrGroup_spec (d : VReg) (blocks : List (List (Nat × Flags))) (k : Nat) (c : Core) (hk : k + blocks.length ≤ 4) :
    let u := c.wrGroup d blocks k
    c.ChangesV u ∧ (∀ v, (∀ b < blocks.length, v ≠ vecAt d (k + b)) → u.rdV v = c.rdV v) ∧
      ∀ b (h : b < blocks.length), u.rdV (vecAt d (k + b)) =
        { c.rdV (vecAt d (k + b)) with bits := BitVec.ofNat 512 (packElems 16 (blocks[b].map (·.1))) } := by
  induction blocks generalizing k c with
  | nil => exact ⟨.refl c, fun _ _ => rfl, fun b h => absurd h (Nat.not_lt_zero b)⟩
  | cons x xs ih =>
    rw [List.length_cons] at hk
    obtain ⟨h1, h2, h3⟩ := ih (k + 1) (c.wrElems (vecAt d k) .bf16 (x.map (·.1))) (by omega)
    rw [Core.wrGroup_cons]
    refine ⟨(c.wrElems_changesV _ _ _).trans h1, fun v hv => ?_, fun b hb => ?_⟩
    · refine (h2 v fun b hb => ?_).trans ((c.rdV_wrElems _ _ _ _).trans (if_neg ?_))
      · have := hv (b + 1) (by rw [List.length_cons]; omega)
        rwa [show k + (b + 1) = k + 1 + b by omega] at this
      · exact hv 0 (by rw [List.length_cons]; omega)
    · cases b with
      | zero =>
        refine (h2 _ fun b hb => vecAt_ne d (by omega) (by omega) (by omega)).trans ?_
        exact (c.rdV_wrElems _ _ _ _).trans (if_pos rfl)
      | succ b =>
        rw [List.length_cons] at hb
        rw [show k + (b + 1) = k + 1 + b by omega, h3 b (by omega), c.rdV_wrElems,
          if_neg (vecAt_ne d (by omega) (by omega) (by omega)), List.getElem_cons_succ]

/-- Blocks of 32 in one list. -/
theorem flatten_blocks {α : Type} (g : Nat) (h : Nat → α) :
    ((List.range g).map fun b => (List.range 32).map fun n => h (32 * b + n)).flatten = (List.range (32 * g)).map h := by
  induction g with
  | zero => rfl
  | succ g ih =>
    rw [@List.range_succ g, List.map_append, List.flatten_append, ih, Nat.mul_succ, List.range_add, List.map_append,
      List.map_map]
    simp only [List.map_cons, List.map_nil, List.flatten_cons, List.flatten_nil, List.append_nil]
    rfl

/-- Element `j` of a dequantised register: its value rounded once, and the flags of both. -/
def Core.dequantised (c : Core) (o : VV) (j : Nat) : Nat × Flags :=
  let y := scaled (Scale.ofBits ((c.rdV o.a).scales.get (Fin.ofNat 4 (j / 32)))) (o.k.et.read (c.elem o.a o.k.et j))
  let z := EType.bf16.write (c.rnd o.k.rm) false y.1
  (z.1, y.2 ||| z.2)

/-- Element `j` as `vdeq` writes it. -/
def Core.deqLane (c : Core) (o : VV) (j : Nat) : Nat × Flags :=
  if maskBit (c.rdQ o.k.q) j then c.dequantised o j else (c.elem (vecAt o.d (j / 32)) .bf16 (j % 32), 0)

/-- The blocks that `vdeq` writes. -/
def Core.deqBlocks (c : Core) (o : VV) : List (List (Nat × Flags)) :=
  (List.range (o.k.et.count / 32)).map fun b => (List.range 32).map fun n => c.deqLane o (32 * b + n)

theorem Core.deqBlocks_flags (c : Core) (o : VV) : FlagList ((c.deqBlocks o).map fun b => b.map (·.2)).flatten
    (32 * (o.k.et.count / 32)) (maskBit (c.rdQ o.k.q)) fun j => (c.dequantised o j).2 := by
  have h : ((c.deqBlocks o).map fun b => b.map (·.2)).flatten =
      (List.range (32 * (o.k.et.count / 32))).map fun j => if maskBit (c.rdQ o.k.q) j then (c.dequantised o j).2 else 0 := by
    rw [← flatten_blocks, Core.deqBlocks, List.map_map]
    refine congrArg List.flatten (List.map_congr_left fun b _ => ?_)
    rw [Function.comp, List.map_map]
    refine List.map_congr_left fun n _ => ?_
    rw [Function.comp, Core.deqLane]
    split <;> rfl
  rw [h]
  exact .of_range _ _ _

theorem Core.zipIdx_elems (c : Core) (r : VReg) (t : EType) :
    ((c.rdV r).elems t).zipIdx = (List.range t.count).map fun j => (c.elem r t j, j) := by
  rw [VecReg.elems, unpackElems, zipIdx_map_range]
  refine List.map_congr_left fun j hj => ?_
  rw [Core.elem, VecReg.elems, unpackElems, List.getD_eq_getElem?_getD, List.getElem?_map,
    List.getElem?_range (List.mem_range.1 hj)]
  rfl

theorem Core.deqV_eq (c : Core) (o : VV) : c.deqV o =
    c.commit (orAll ((c.deqBlocks o).map fun b => b.map (·.2)).flatten)
      (laneMask c.fpEnables ((c.deqBlocks o).map fun b => b.map (·.2)).flatten) fun c' => c'.wrGroup o.d (c.deqBlocks o) 0 := by
  have h : c.deqBlocks o = (List.range (o.k.et.count / 32)).map fun b =>
      ((c.rdV (vecAt o.d b)).elems .bf16).zipIdx.map fun (old, i) =>
        if maskBit (c.rdQ o.k.q) (32 * b + i) then
          let (y, f1) := scaled (Scale.ofBits ((c.rdV o.a).scales.get (Fin.ofNat 4 b)))
            (o.k.et.read (at0 ((c.rdV o.a).elems o.k.et) (32 * b + i)))
          let (z, f2) := EType.bf16.write (c.rnd o.k.rm) false y
          (z, f1 ||| f2)
        else (old, 0) := by
    refine List.map_congr_left fun b _ => ?_
    rw [Core.zipIdx_elems, List.map_map]
    refine List.map_congr_left fun n hn => ?_
    have hn : n < 32 := List.mem_range.1 hn
    have hdiv : (32 * b + n) / 32 = b := by omega
    have hmod : (32 * b + n) % 32 = n := by omega
    rw [Core.deqLane, Core.dequantised, hdiv, hmod]
    rfl
  rw [h]
  rfl

theorem performsGroup_vdeq (o : VV) : PerformsGroup (.vdeq o) o fun c j => c.dequantised o j := by
  intro s e op rest hi hh hb c count enabled on trapping raised
  have hfl := c.deqBlocks_flags o
  have hlen : (c.deqBlocks o).length = count / 32 := by rw [Core.deqBlocks, List.length_map, List.length_range]
  have hle : count / 32 ≤ 4 := by have := EType.lanes_le o.k.et; omega
  have hon (j : Nat) : j < 32 * (count / 32) ∧ maskBit (c.rdQ o.k.q) j = true ↔ on j := by
    by_cases h32 : 32 ≤ count
    · have := (EType.blocks h32).1
      exact ⟨fun h => ⟨by omega, h32, h.2⟩, fun h => ⟨by have := h.1; omega, h.2.2⟩⟩
    · exact ⟨fun h => by omega, fun h => absurd h.2.1 h32⟩
  obtain ⟨hch, hother, hin⟩ := Core.wrGroup_spec o.d (c.deqBlocks o) 0 c (by rw [hlen]; omega)
  rw [hlen] at hother
  simp only [Nat.zero_add] at hother hin
  obtain ⟨hdone, htrap⟩ := (runs_vdeq o).commits hi hh hb (c.deqV_eq o) ⟨hch.vec, hch.ls, hch.fp⟩ (R := raised) fun b =>
    (hfl.raised b).trans (exists_congr fun j => and_congr_left fun _ => hon j)
  refine ⟨fun hno => ?_, fun ⟨j, hj⟩ hf ho => ?_⟩
  · obtain ⟨u, hu, hseq, hregs, hls, hr⟩ := hdone ((hfl.none_iff _).2 fun j hj => hno j ⟨(hon j).1 hj.1, hj.2⟩)
    have hv (v : VReg) := Core.rdV_congr hregs v
    refine ⟨u, hu, hseq, fun b hb n hn => ?_, fun v => ?_, fun v hne => (hv v).trans (hother v hne), by rw [hregs]; exact hch.regs,
      hls, hr⟩
    · have hbl : b < (c.deqBlocks o).length := hlen.symm ▸ hb
      have hget : (c.deqBlocks o)[b] = (List.range 32).map fun n => c.deqLane o (32 * b + n) := by
        simp only [Core.deqBlocks, List.getElem_map, List.getElem_range]
      have hbits : (u.core.rdV (vecAt o.d b)).bits =
          ((c.wrElems (vecAt o.d b) .bf16 ((c.deqBlocks o)[b].map (·.1))).rdV (vecAt o.d b)).bits := by
        rw [hv, hin b hbl, c.rdV_wrElems, if_pos rfl]
        rfl
      rw [Core.elem_congr hbits, hget, List.map_map, c.elem_wrElems _ .bf16 _ (by rw [List.length_map, List.length_range]; rfl) n hn,
        List.getD_eq_getElem?_getD, List.getElem?_map, List.getElem?_range hn]
      change (c.deqLane o (32 * b + n)).1 % 2 ^ 16 = _
      rw [Core.deqLane, show (32 * b + n) / 32 = b by omega, show (32 * b + n) % 32 = n by omega]
      change (if enabled (32 * b + n) = true then c.dequantised o (32 * b + n) else (c.elem (vecAt o.d b) .bf16 n, 0)).1 % _ = _
      split
      · rfl
      · exact Nat.mod_eq_of_lt (c.elem_lt _ _ _)
    · rw [hv]
      by_cases hex : ∃ b < count / 32, v = vecAt o.d b
      · obtain ⟨b, hb, rfl⟩ := hex
        rw [hin b (hlen.symm ▸ hb)]
      · rw [hother v fun b hb he => hex ⟨b, hb, he⟩]
  · obtain ⟨u, hu, ht, hr, hv⟩ := htrap ((hfl.some_iff _).2 ⟨j, (hon j).2 hj.1, hj.2⟩) hf ho
    refine ⟨u, hu, ht, hr, fun b hb => ?_⟩
    rw [hv, hfl.mask _ hb, EType.per_blocks]
    exact exists_congr fun j => and_congr_left fun _ => and_congr_left fun _ => hon j

/-- Settles O21, row by row: the elementwise rows commit their lanes, compares a mask, and the rows by blocks their scales. -/
theorem vectorLanesGiveTheirResults : Obligations.VectorLanesGiveTheirResults := by
  refine ⟨performs_wrapping, performs_bits, performs_vnot, performs_shifts, performs_integer, performs_fused_int, performs_signs,
    performs_float, performs_fused_float, fun o _ => performs_vsqrt o, sfu_rows, lanes_vcvt, masks_compares, lanes_moves.1,
    lanes_moves.2.1, lanes_moves.2.2, lanes_vsel, lanes_random, lanes_vdrop, fun o => ⟨performsBlocks_vquant o,
    performsBlocks_vrenorm o, performsGroup_vdeq o⟩⟩

end Sys2Proof.Machine
end

section
/-! PROOF. Moves between registers, and vector loads and stores (O22). -/

namespace Sys2Proof.Machine

/-! ## Moves -/

/-- A row that is done at once moves what it says. -/
theorem Runs.moves {i : Instr} {f : Core → SeqOp → Core} (h : Runs i fun c _ op => .done (f c op))
    (hf : ∀ c op, (f c op).vec = c.vec ∧ (f c op).ls = c.ls) : Moves i f := by
  intro s e op rest hi hh hb
  have he : exec .sequencerPerform s = _ :=
    execSequencerPerform_eq s e op rest hh hb (hi ▸ h.sfu) (SeqEntry.rotOp_none hh.2 (hi ▸ h.rot))
  rw [he, h.perform _ _ _ hi]
  obtain ⟨hvec, hls⟩ := hf s.core op
  refine ⟨_, rfl, (Core.advance_seq _ _ _).trans ?_, Core.advance_regs _ _ _, (Core.advance_ls _ _ _).trans hls⟩
  rw [hvec, hh.1, List.tail_cons]

/-- A tile row runs as its arm of `performTile` says. -/
theorem Runs.tile {i : Instr} {o : TileOp} {p : Core → PerfCtx → SeqOp → PerfRes} (ht : tileOf i = some o)
    (hs : sfuOp i = none) (hr : ∀ o, i ≠ .tmrot o) (hp : ∀ c x op, Core.performTile c x o op.shape = p c x op) : Runs i p := by
  refine ⟨hs, hr, ?_⟩
  rintro c x op rfl
  unfold Core.perform
  rw [ht]
  exact hp c x op

theorem runs_vmov (o : VV) : Runs (.vmov o) fun c _ _ => .done (c.wrV o.d (c.rdV o.a)) :=
  .row rfl rfl fun _ _ _ _ _ _ _ => rfl

theorem runs_qand (o : QQQ) : Runs (.qand o) fun c _ _ => .done (c.wrQ o.d (c.rdQ o.a &&& c.rdQ o.b)) :=
  .row rfl rfl fun _ _ _ _ _ _ _ => rfl

theorem runs_qor (o : QQQ) : Runs (.qor o) fun c _ _ => .done (c.wrQ o.d (c.rdQ o.a ||| c.rdQ o.b)) :=
  .row rfl rfl fun _ _ _ _ _ _ _ => rfl

theorem runs_qxor (o : QQQ) : Runs (.qxor o) fun c _ _ => .done (c.wrQ o.d (c.rdQ o.a ^^^ c.rdQ o.b)) :=
  .row rfl rfl fun _ _ _ _ _ _ _ => rfl

theorem runs_qnot (o : QQ) : Runs (.qnot o) fun c _ _ => .done (c.wrQ o.d (~~~(c.rdQ o.a))) :=
  .row rfl rfl fun _ _ _ _ _ _ _ => rfl

theorem runs_qset (o : QSS) : Runs (.qset o) fun c _ op =>
    .done (c.wrQ o.d (BitVec.ofNat 128 (op.sa.toNat + op.sb.toNat * 2 ^ 64))) :=
  .row rfl rfl fun _ _ _ _ _ _ _ => rfl

theorem runs_vsclset (o : VSclSet) : Runs (.vsclset o) fun c _ op =>
    .done (c.wrV o.d ((c.rdV o.d).setScale o.slot (BitVec.ofNat 20 op.sa.toNat))) :=
  .row rfl rfl fun _ _ _ _ _ _ _ => rfl

theorem runs_zzero (d : ZReg) (tz : TZ) : Runs (.zzero d tz) fun c _ _ => .done (c.wrZ d 0) :=
  .tile rfl rfl (fun _ h => by cases h) fun _ _ _ => rfl

theorem append_eq_ofNat (a b : Word) : b ++ a = BitVec.ofNat 128 (a.toNat + b.toNat * 2 ^ 64) := by
  apply BitVec.eq_of_toNat_eq
  have ha := a.isLt
  have hb := b.isLt
  rw [BitVec.toNat_append, ← Nat.shiftLeft_add_eq_or_of_lt ha, Nat.shiftLeft_eq, BitVec.toNat_ofNat, Nat.mod_eq_of_lt (by omega),
    Nat.add_comm]

theorem moves_rows :
    (∀ o : VV, Moves (.vmov o) (fun c _ => c.wrV o.d (c.rdV o.a))) ∧
    (∀ o : QQQ, Moves (.qand o) (fun c _ => c.wrQ o.d (c.rdQ o.a &&& c.rdQ o.b)) ∧
      Moves (.qor o) (fun c _ => c.wrQ o.d (c.rdQ o.a ||| c.rdQ o.b)) ∧
      Moves (.qxor o) (fun c _ => c.wrQ o.d (c.rdQ o.a ^^^ c.rdQ o.b))) ∧
    (∀ o : QQ, Moves (.qnot o) (fun c _ => c.wrQ o.d (~~~(c.rdQ o.a)))) ∧
    (∀ o : QSS, Moves (.qset o) (fun c op => c.wrQ o.d (op.sb ++ op.sa))) ∧
    (∀ o : VSclSet, Moves (.vsclset o) (fun c op =>
      c.wrV o.d { c.rdV o.d with scales := (c.rdV o.d).scales.set o.slot (op.sa.setWidth 20) })) ∧
    ∀ d tz, Moves (.zzero d tz) (fun c _ => c.wrZ d 0) := by
  have hq (c : Core) (d : QReg) (x : BitVec 128) : (c.wrQ d x).vec = c.vec ∧ (c.wrQ d x).ls = c.ls :=
    ⟨(c.wrQ_keeps d x).1, (c.wrQ_keeps d x).2.1⟩
  refine ⟨fun o => (runs_vmov o).moves fun _ _ => ⟨rfl, rfl⟩, fun o => ⟨(runs_qand o).moves fun _ _ => hq _ _ _,
    (runs_qor o).moves fun _ _ => hq _ _ _, (runs_qxor o).moves fun _ _ => hq _ _ _⟩,
    fun o => (runs_qnot o).moves fun _ _ => hq _ _ _, fun o => Runs.moves ((runs_qset o).congr fun c _ op => ?_) fun _ _ => hq _ _ _,
    fun o => Runs.moves ((runs_vsclset o).congr fun c _ op => ?_) fun _ _ => ⟨rfl, rfl⟩,
    fun d tz => (runs_zzero d tz).moves fun _ _ => ⟨rfl, rfl⟩⟩
  · rw [append_eq_ofNat]
  · rw [VecReg.setScale]
    rfl

/-! ## Lists of accesses -/

/-- Two accesses are not scale words of one slot. -/
def MemItem.apart (x y : MemItem) : Prop :=
  ∀ b a b' a', x = .scale b a → y = .scale b' a' → Fin.ofNat 4 b ≠ Fin.ofNat 4 b'

/-- The scale word of a block is accessed once. -/
theorem memItems_apart (q : BitVec 128) (locs : List (Option ElemLoc)) (scales : List (Nat × Nat)) (hl : locs.length ≤ 128)
    (hs : scales.Pairwise fun x y => x.1 ≠ y.1) : (memItems q locs scales).Pairwise MemItem.apart := by
  have hscale (l : Option ElemLoc) (j b a : Nat) (h : MemItem.scale b a ∈
      (if j % 32 == 0 then (scales.filter fun s => s.1 == j / 32).map fun s => MemItem.scale s.1 s.2 else []) ++
        (if maskBit q j then (l.map (.elem j)).toList else [])) : j % 32 = 0 ∧ b = j / 32 := by
    rcases List.mem_append.1 h with h | h
    · split at h
      next h0 =>
        obtain ⟨x, hx, he⟩ := List.mem_map.1 h
        injection he with h1 h2
        exact ⟨by simpa using h0, by rw [← h1]; simpa using (List.mem_filter.1 hx).2⟩
      next => cases h
    · split at h
      · cases l <;> simp at h
      · cases h
  unfold memItems
  refine List.pairwise_flatMap.2 ⟨fun ⟨l, j⟩ hm => ?_, ?_⟩
  · refine List.pairwise_append.2 ⟨?_, ?_, fun x _ y hy b a b' a' _ hy' => ?_⟩
    · split
      · refine List.pairwise_map.2 ?_
        have h0 := hs.filter fun s => s.1 == j / 32
        refine List.Pairwise.imp_of_mem (fun {x y} hx hy hxy => ?_) h0
        have h1 : x.1 = j / 32 := by simpa using (List.mem_filter.1 hx).2
        have h2 : y.1 = j / 32 := by simpa using (List.mem_filter.1 hy).2
        exact absurd (h1.trans h2.symm) hxy
      · exact List.Pairwise.nil
    · split
      · cases l <;> simp
      · exact List.Pairwise.nil
    · rw [hy'] at hy
      split at hy
      · cases l <;> simp at hy
      · cases hy
  · have hidx : locs.zipIdx.Pairwise fun x y => x.2 < y.2 ∧ y.2 < 128 := by
      refine List.pairwise_iff_getElem.2 fun a b ha hb hab => ?_
      rw [List.length_zipIdx] at hb
      simp only [List.getElem_zipIdx]
      omega
    refine hidx.imp fun {x y} hxy u hu v hv b a b' a' hu' hv' hne => ?_
    obtain ⟨lx, jx⟩ := x
    obtain ⟨ly, jy⟩ := y
    obtain ⟨h1, h2⟩ := hscale lx jx b a (hu' ▸ hu)
    obtain ⟨h3, h4⟩ := hscale ly jy b' a' (hv' ▸ hv)
    obtain ⟨h5, h6⟩ := hxy
    have := congrArg Fin.val hne
    simp only [Fin.ofNat] at this
    dsimp only at h5 h6
    omega

theorem slotLocs_length (s : SlotState) : (slotLocs s).length ≤ 128 := by
  unfold slotLocs
  cases s.bound with
  | none => exact Nat.zero_le _
  | some r =>
    dsimp only
    rw [List.length_map, List.length_range]
    exact EType.lanes_le r.et

theorem scaleAddrs_pairwise (s : SlotState) : (scaleAddrs s).Pairwise fun x y => x.1 ≠ y.1 := by
  unfold scaleAddrs
  cases s.bound with
  | none => exact List.Pairwise.nil
  | some r =>
    dsimp only
    split
    · refine List.pairwise_filterMap.2 (List.nodup_range.imp fun {a b} hab x hx y hy => ?_)
      split at hx
      · split at hy
        · rw [← Option.some.inj hx, ← Option.some.inj hy]
          exact hab
        · cases hy
      · cases hx
    · exact List.Pairwise.nil

/-! ## Scale words into a sidecar -/

/-- The scale words among what was read, into the sidecar of `d`. -/
def Core.putScales (c : Core) (d : VReg) (xs : List (MemItem × Nat)) : Core :=
  xs.foldl (fun c' (i, x) =>
    match i with
    | .elem _ _ => c'
    | .scale b _ => c'.wrV d ((c'.rdV d).setScale (Fin.ofNat 4 b) (BitVec.ofNat 20 x))) c

theorem Core.putScales_spec (d : VReg) (xs : List (MemItem × Nat)) (c : Core)
    (h : xs.Pairwise fun x y => x.1.apart y.1) :
    let u := c.putScales d xs
    c.ChangesV u ∧ (u.rdV d).bits = (c.rdV d).bits ∧ (∀ v, v ≠ d → u.rdV v = c.rdV v) ∧
      (∀ (n b a x : Nat), xs[n]? = some (MemItem.scale b a, x) → (u.rdV d).scales.get (Fin.ofNat 4 b) = BitVec.ofNat 20 x) ∧
      ∀ k : Slot, (∀ b a x, (MemItem.scale b a, x) ∈ xs → Fin.ofNat 4 b ≠ k) →
        (u.rdV d).scales.get k = (c.rdV d).scales.get k := by
  induction xs generalizing c with
  | nil => exact ⟨.refl c, rfl, fun _ _ => rfl, fun n b a x hn => by simp at hn, fun _ _ => rfl⟩
  | cons y ys ih =>
    obtain ⟨hy, hys⟩ := List.pairwise_cons.1 h
    obtain ⟨i, x⟩ := y
    cases i with
    | elem j l =>
      obtain ⟨h1, h2, h3, h4, h5⟩ := ih c hys
      refine ⟨h1, h2, h3, fun n b a x hn => ?_, fun k hk => h5 k fun b a x hm => hk b a x (List.mem_cons_of_mem _ hm)⟩
      cases n with
      | zero => simp at hn
      | succ n => exact h4 n b a x (by simpa using hn)
    | scale b a =>
      obtain ⟨h1, h2, h3, h4, h5⟩ := ih (c.wrV d ((c.rdV d).setScale (Fin.ofNat 4 b) (BitVec.ofNat 20 x))) hys
      have hd : (c.wrV d ((c.rdV d).setScale (Fin.ofNat 4 b) (BitVec.ofNat 20 x))).rdV d =
        (c.rdV d).setScale (Fin.ofNat 4 b) (BitVec.ofNat 20 x) := (c.rdV_wrV d d _).trans (if_pos rfl)
      rw [hd] at h2 h5
      refine ⟨(c.wrV_changesV d _).trans h1, h2, fun v hv => (h3 v hv).trans ((c.rdV_wrV d v _).trans (if_neg hv)),
        fun n b' a' x' hn => ?_, fun k hk => ?_⟩
      · cases n with
        | zero =>
          simp only [List.getElem?_cons_zero, Option.some.injEq, Prod.mk.injEq, MemItem.scale.injEq] at hn
          obtain ⟨⟨rfl, rfl⟩, rfl⟩ := hn
          refine (h5 _ fun b' a' x' hm => (hy _ hm b a b' a' rfl rfl).symm).trans ?_
          exact Vector.getElem_set_self (Fin.ofNat 4 b).isLt
        | succ n => exact h4 n b' a' x' (by simpa using hn)
      · refine (h5 k fun b' a' x' hm => hk b' a' x' (List.mem_cons_of_mem _ hm)).trans ?_
        exact Vector.getElem_set_ne (Fin.ofNat 4 b).isLt k.isLt fun he =>
          hk b a x (List.mem_cons_self ..) (Fin.ext he)

/-! ## Loads -/

theorem Core.lanes_eq (c : Core) (q : QReg) (d : VReg) (t : EType) (f : Nat → Nat × Flags) :
    lanes (c.rdQ q) ((c.rdV d).elems t) f = c.laneResults q d t t.count f := by
  unfold lanes
  rw [Core.zipIdx_elems, Core.laneResults, Core.zipIdx_elems, List.map_map, List.map_map]
  refine List.map_congr_left fun j hj => ?_
  have hj : j < t.count := List.mem_range.1 hj
  simp only [Function.comp, Nat.not_le.2 hj, if_false]

/-- Elements written under a predicate. -/
theorem Core.elem_lanes (c : Core) (q : QReg) (d : VReg) (t : EType) (f : Nat → Nat × Flags) (j : Nat) (hj : j < t.count) :
    (c.wrElems d t ((lanes (c.rdQ q) ((c.rdV d).elems t) f).map (·.1))).elem d t j =
      if (c.rdQ q).getLsbD j then (f j).1 % 2 ^ t.width else c.elem d t j := by
  have hlen := c.laneResults_length q d t t.count f
  have hjl : j < (c.laneResults q d t t.count f).length := hlen.symm ▸ hj
  rw [c.lanes_eq, c.elem_wrElems d t _ (by rw [List.length_map, hlen]) j hj, List.getD_eq_getElem?_getD, List.getElem?_map,
    List.getElem?_eq_getElem hjl, c.laneResults_get, if_neg (Nat.not_le.2 hj)]
  change (if (c.rdQ q).getLsbD j = true then f j else (c.elem d t j, 0)).1 % _ = _
  split
  · rfl
  · exact Nat.mod_eq_of_lt (c.elem_lt _ _ _)

/-- A load may leave more than is asked. -/
theorem LoadsItems.mono {i : Instr} {need : State → SeqEntry → SeqOp → Prop} {items : Core → SeqEntry → SeqOp → List MemItem}
    {w : Nat} {after after' : Core → SeqEntry → SeqOp → List Nat → Core → Prop} (h : LoadsItems i need items w after)
    (ha : ∀ c e op vals u, after c e op vals u → after' c e op vals u) : LoadsItems i need items w after' := by
  intro s e op rest hi hh hb hn hl hc
  obtain ⟨m, h1, h2, h3, h4, h5⟩ := h s e op rest hi hh hb hn hl hc
  refine ⟨m, h1, h2, h3, fun hno => ⟨(h4 hno).1, fun hm => ?_⟩, h5⟩
  obtain ⟨u, hu, hseq, hls, hfp, hu'⟩ := (h4 hno).2 hm
  exact ⟨u, hu, hseq, hls, hfp, ha _ _ _ _ _ hu'⟩

/-- A row that loads elements and scale words. -/
theorem loadsItems_vec {i : Instr} {k : VMemCtl} {d : VReg} {locs : Core → SeqEntry → SeqOp → List (Option ElemLoc)}
    {scales : Core → SeqEntry → SeqOp → List (Nat × Nat)} (hs : sfuOp i = none) (hr : ∀ o, i ≠ .tmrot o)
    (hp : ∀ (s : State) (e : SeqEntry) (op : SeqOp), op.ins = i →
      s.core.perform (s.ctxOf e) op = s.core.loadV (s.ctxOf e) k d (locs s.core e op) (scales s.core e op))
    (hap : ∀ c e op, (memItems (c.rdQ k.q) (locs c e op) (scales c e op)).Pairwise MemItem.apart) :
    LoadsItems i (fun _ _ _ => True) (fun c e op => memItems (c.rdQ k.q) (locs c e op) (scales c e op)) k.et.width
      fun c e op vals u =>
        c.loadsLanes u k d (itemElem ((memItems (c.rdQ k.q) (locs c e op) (scales c e op)).zip vals)) ∧
        (∀ (n b a : Nat), (memItems (c.rdQ k.q) (locs c e op) (scales c e op))[n]? = some (.scale b a) →
          (u.rdV d).scales.get (Fin.ofNat 4 b) = BitVec.ofNat 20 (vals.getD n 0)) ∧
        ∀ n : Slot, (∀ b a, MemItem.scale b a ∈ memItems (c.rdQ k.q) (locs c e op) (scales c e op) → Fin.ofNat 4 b ≠ n) →
          (u.rdV d).scales.get n = (c.rdV d).scales.get n := by
  refine loadsItems_of i _ _ _ _ (fun c _ _ xs => Core.putScales (c.wrElems d k.et
    ((lanes (c.rdQ k.q) ((c.rdV d).elems k.et) fun j => (itemElem xs j, 0)).map (·.1))) d xs) hs hr
    (fun s e op hi _ => (hp s e op hi).trans rfl) fun s e op vals hi _ hlen => ?_
  have hap := hap s.core e op
  generalize memItems (s.core.rdQ k.q) (locs s.core e op) (scales s.core e op) = items at *
  have hzip : (items.zip vals).Pairwise fun x y => x.1.apart y.1 := by
    have := hap
    rw [← List.map_fst_zip (l₁ := items) (l₂ := vals) (Nat.le_of_eq hlen.symm)] at this
    exact List.pairwise_map.1 this
  obtain ⟨h1, h2, h3, h4, h5⟩ := Core.putScales_spec d (items.zip vals) (s.core.wrElems d k.et
    ((lanes (s.core.rdQ k.q) ((s.core.rdV d).elems k.et) fun j => (itemElem (items.zip vals) j, 0)).map (·.1))) hzip
  have hch := (s.core.wrElems_changesV d k.et ((lanes (s.core.rdQ k.q) ((s.core.rdV d).elems k.et)
    fun j => (itemElem (items.zip vals) j, 0)).map (·.1))).trans h1
  have hlanes := s.core.elem_lanes k.q d k.et fun j => (itemElem (items.zip vals) j, 0)
  have hsc (n : Slot) : ((s.core.wrElems d k.et ((lanes (s.core.rdQ k.q) ((s.core.rdV d).elems k.et)
      fun j => (itemElem (items.zip vals) j, 0)).map (·.1))).rdV d).scales.get n = (s.core.rdV d).scales.get n := by
    rw [s.core.rdV_wrElems, if_pos rfl]
  have hne (v : VReg) (hv : v ≠ d) : (s.core.wrElems d k.et ((lanes (s.core.rdQ k.q) ((s.core.rdV d).elems k.et)
      fun j => (itemElem (items.zip vals) j, 0)).map (·.1))).rdV v = s.core.rdV v := by
    rw [s.core.rdV_wrElems, if_neg hv]
  generalize s.core.wrElems d k.et ((lanes (s.core.rdQ k.q) ((s.core.rdV d).elems k.et)
    fun j => (itemElem (items.zip vals) j, 0)).map (·.1)) = c1 at *
  intro u
  have hadv := Core.advance_regs u e op.ins
  refine ⟨by rw [show u.vec = s.core.vec from hch.vec], hch.ls, hch.fp, ⟨fun j hj => ?_, fun v hv => ?_, ?_⟩, fun n b a hn => ?_, fun n hn => ?_⟩
  · exact (Core.elem_congr ((congrArg VecReg.bits (Core.rdV_congr hadv d)).trans h2) k.et j).trans (hlanes j hj)
  · exact (Core.rdV_congr hadv v).trans ((h3 v hv).trans (hne v hv))
  · rw [hadv]
    exact hch.regs
  · rw [Core.rdV_congr hadv]
    refine h4 n b a _ ?_
    obtain ⟨hn', hb⟩ := List.getElem?_eq_some_iff.1 hn
    rw [List.getElem?_eq_getElem (by rw [List.length_zip, hlen, Nat.min_self]; exact hn'), List.getElem_zip, hb,
      List.getD_eq_getElem?_getD, List.getElem?_eq_getElem (hlen.symm ▸ hn')]
    rfl
  · rw [Core.rdV_congr hadv]
    exact (h5 n fun b a x hm => hn b a (List.of_mem_zip hm).1).trans (hsc n)

/-! ## Stores -/

/-- A store of bytes changes no register, no flag, no entry, and no byte outside its range. -/
theorem Core.storeN_keeps (c : Core) (a n x : Nat) : (c.storeN a n x).regs = c.regs ∧ (c.storeN a n x).fp = c.fp ∧
    (c.storeN a n x).vec = c.vec ∧ ∀ b, (b < a ∨ a + n ≤ b) → (c.storeN a n x).ls.read b = c.ls.read b :=
  ⟨rfl, rfl, rfl, fun b hb => Memory.read_writeBytes_out c.ls a (toBytesLE n x) b (by rw [toBytesLE_length]; exact hb)⟩

theorem Core.writeLoc_keeps (c : Core) (l : ElemLoc) (w x : Nat) : (c.writeLoc l w x).regs = c.regs ∧
    (c.writeLoc l w x).fp = c.fp ∧ (c.writeLoc l w x).vec = c.vec ∧
    ∀ b, (b < l.addr ∨ l.addr + l.bytes ≤ b) → (c.writeLoc l w x).ls.read b = c.ls.read b :=
  c.storeN_keeps _ _ _

/-- How a vector store puts an element, or a scale word of the sidecar. -/
def Core.putVec (k : VMemCtl) (d : VReg) (c : Core) (_ : SeqOp) (c' : Core) (it : MemItem) : Core :=
  match it with
  | .elem j l => c'.writeLoc l k.et.width (c.elem d k.et j)
  | .scale b a => c'.storeN a 4 ((c.rdV d).scales.get (Fin.ofNat 4 b)).toNat

/-- A store without flags ends as its accesses do. -/
theorem storeNext_noFlags (c : Core) (r : PerfRes) : (if (0 : Flags) &&& c.fpEnables != 0 then
      .fptrap 0 ((0 : Flags).setWidth 64)
    else match r with
      | .done c => .done (c.orFlags 0)
      | r => r) = r := by
  rw [show (0 : Flags) &&& c.fpEnables = 0 from BitVec.zero_and]
  cases r with
  | done c => exact congrArg PerfRes.done c.orFlags_zero
  | _ => rfl

/-- A row that stores elements and scale words. -/
theorem storesItems_vec {i : Instr} {k : VMemCtl} {d : VReg} {locs : Core → SeqEntry → SeqOp → List (Option ElemLoc)}
    {scales : Core → SeqEntry → SeqOp → List (Nat × Nat)} (hs : sfuOp i = none) (hr : ∀ o, i ≠ .tmrot o)
    (hp : ∀ (s : State) (e : SeqEntry) (op : SeqOp), op.ins = i →
      s.core.perform (s.ctxOf e) op = s.core.storeV (s.ctxOf e) k d (locs s.core e op) (scales s.core e op)) :
    StoresItems i (fun _ _ _ => True) (fun c e op => memItems (c.rdQ k.q) (locs c e op) (scales c e op))
      (Core.putVec k d) fun _ => 0 := by
  refine storesItems_of i _ _ _ _ hs hr (fun s e op hi _ => ?_) fun c op c' it => ?_
  · rw [hp s e op hi]
    exact (storeNext_noFlags s.core _).symm
  · cases it with
    | elem j l => exact c'.writeLoc_keeps l _ _
    | scale b a => exact c'.storeN_keeps a 4 _

/-! ## The rows -/

/-- A vector row performs as its arm of `performVec` says. -/
theorem perform_row {i : Instr} (ht : tileOf i = none) (c : Core) (x : PerfCtx) {op : SeqOp} (hi : op.ins = i) :
    c.perform x op = c.performVec x op := by
  unfold Core.perform
  rw [hi, ht]

theorem perform_vld (o : VSlotOp) (c : Core) (x : PerfCtx) (op : SeqOp) (hi : op.ins = .vld o) : c.perform x op =
    c.loadV x o.k o.d (slotLocs (x.slots.get o.slot)) (scaleAddrs (x.slots.get o.slot)) := by
  rw [perform_row rfl c x hi, Core.performVec, hi]

theorem perform_vst (o : VSlotOp) (c : Core) (x : PerfCtx) (op : SeqOp) (hi : op.ins = .vst o) : c.perform x op =
    c.storeV x o.k o.d (slotLocs (x.slots.get o.slot)) (scaleAddrs (x.slots.get o.slot)) := by
  rw [perform_row rfl c x hi, Core.performVec, hi]

theorem perform_vldB (o : VBaseOp) (c : Core) (x : PerfCtx) (op : SeqOp) (hi : op.ins = .vldB o) : c.perform x op =
    c.loadV x o.k o.d (baseLocs o.k.et op.sa op.sb x.iter) [] := by
  rw [perform_row rfl c x hi, Core.performVec, hi]

theorem perform_vstB (o : VBaseOp) (c : Core) (x : PerfCtx) (op : SeqOp) (hi : op.ins = .vstB o) : c.perform x op =
    c.storeV x o.k o.d (baseLocs o.k.et op.sa op.sb x.iter) [] := by
  rw [perform_row rfl c x hi, Core.performVec, hi]

theorem perform_vgather (o : VIdxOp) (c : Core) (x : PerfCtx) (op : SeqOp) (hi : op.ins = .vgather o) : c.perform x op =
    c.loadV x o.k o.d (gatherLocs o.k.et op.sa (c.rdV o.b)) [] := by
  rw [perform_row rfl c x hi, Core.performVec, hi]

theorem perform_vscatter (o : VIdxOp) (c : Core) (x : PerfCtx) (op : SeqOp) (hi : op.ins = .vscatter o) : c.perform x op =
    c.storeV x o.k o.d (gatherLocs o.k.et op.sa (c.rdV o.b)) [] := by
  rw [perform_row rfl c x hi, Core.performVec, hi]

theorem perform_vlds (o : VOneOp) (c : Core) (x : PerfCtx) (op : SeqOp) (hi : op.ins = .vlds o) : c.perform x op =
    c.loadOne x o.k o.d op.sa := by
  rw [perform_row rfl c x hi, Core.performVec, hi]

theorem baseLocs_length (t : EType) (a b : Word) (i : Nat) : (baseLocs t a b i).length ≤ 128 := by
  rw [baseLocs, List.length_map, List.length_range]
  exact EType.lanes_le t

theorem gatherLocs_length (t : EType) (a : Word) (b : VecReg) : (gatherLocs t a b).length ≤ 128 := by
  rw [gatherLocs, List.length_map, List.length_range]
  exact EType.lanes_le t

/-- Without scale words every access is one of an element. -/
theorem memItems_noScale (q : BitVec 128) (locs : List (Option ElemLoc)) (b a : Nat) :
    MemItem.scale b a ∉ memItems q locs [] := by
  intro h
  obtain ⟨⟨l, j⟩, -, h⟩ := List.mem_flatMap.1 h
  rcases List.mem_append.1 h with h | h
  · split at h <;> simp at h
  · split at h
    · cases l <;> simp at h
    · cases h

/-- A sidecar no slot of which changes stays. -/
theorem scales_eq {x y : Vector (BitVec 20) 4} (h : ∀ n : Slot, x.get n = y.get n) : x = y :=
  Vector.ext fun n hn => h ⟨n, hn⟩

theorem loads_vld (o : VSlotOp) :
    let items (c : Core) (e : SeqEntry) (_ : SeqOp) : List MemItem :=
      memItems (c.rdQ o.k.q) (slotLocs (e.slots.get o.slot)) (scaleAddrs (e.slots.get o.slot))
    LoadsItems (.vld o) (fun _ _ _ => True) items o.k.et.width (fun c e op vals u =>
      c.loadsLanes u o.k o.d (itemElem ((items c e op).zip vals)) ∧
      (∀ n b a, (items c e op)[n]? = some (.scale b a) →
        (u.rdV o.d).scales.get (Fin.ofNat 4 b) = BitVec.ofNat 20 (vals.getD n 0)) ∧
      ∀ k : Slot, (∀ b a, MemItem.scale b a ∈ items c e op → Fin.ofNat 4 b ≠ k) →
        (u.rdV o.d).scales.get k = (c.rdV o.d).scales.get k) :=
  loadsItems_vec rfl (fun _ h => by cases h) (fun s e op hi => perform_vld o s.core _ op hi)
    fun _ _ _ => memItems_apart _ _ _ (slotLocs_length _) (scaleAddrs_pairwise _)

theorem loads_vldB (o : VBaseOp) :
    let items (c : Core) (e : SeqEntry) (op : SeqOp) : List MemItem :=
      memItems (c.rdQ o.k.q) (baseLocs o.k.et op.sa op.sb e.iter) []
    LoadsItems (.vldB o) (fun _ _ _ => True) items o.k.et.width (fun c e op vals u =>
      c.loadsLanes u o.k o.d (itemElem ((items c e op).zip vals)) ∧ (u.rdV o.d).scales = (c.rdV o.d).scales) :=
  (loadsItems_vec (locs := fun _ e op => baseLocs o.k.et op.sa op.sb e.iter) (scales := fun _ _ _ => []) rfl (fun _ h => by cases h) (fun s e op hi => perform_vldB o s.core _ op hi)
    fun _ _ _ => memItems_apart _ _ _ (baseLocs_length _ _ _ _) .nil).mono fun _ _ _ _ _ h =>
      ⟨h.1, scales_eq fun n => h.2.2 n fun _ _ hm => absurd hm (memItems_noScale _ _ _ _)⟩

theorem loads_vgather (o : VIdxOp) :
    let items (c : Core) (_ : SeqEntry) (op : SeqOp) : List MemItem :=
      memItems (c.rdQ o.k.q) (gatherLocs o.k.et op.sa (c.rdV o.b)) []
    LoadsItems (.vgather o) (fun _ _ _ => True) items o.k.et.width (fun c e op vals u =>
      c.loadsLanes u o.k o.d (itemElem ((items c e op).zip vals)) ∧ (u.rdV o.d).scales = (c.rdV o.d).scales) :=
  (loadsItems_vec (locs := fun c _ op => gatherLocs o.k.et op.sa (c.rdV o.b)) (scales := fun _ _ _ => []) rfl (fun _ h => by cases h) (fun s e op hi => perform_vgather o s.core _ op hi)
    fun _ _ _ => memItems_apart _ _ _ (gatherLocs_length _ _ _) .nil).mono fun _ _ _ _ _ h =>
      ⟨h.1, scales_eq fun n => h.2.2 n fun _ _ hm => absurd hm (memItems_noScale _ _ _ _)⟩

/-- The one access of `vlds`. -/
def Core.oneItem (c : Core) (o : VOneOp) (op : SeqOp) : List MemItem :=
  if (List.range o.k.et.count).any (maskBit (c.rdQ o.k.q)) then [.elem 0 (bcastLoc o.k.et op.sa)] else []

theorem Core.oneItem_eq (c : Core) (o : VOneOp) (op : SeqOp) : c.oneItem o op =
    if ∃ j < o.k.et.count, (c.rdQ o.k.q).getLsbD j = true then [.elem 0 ⟨op.sa.toNat, o.k.et.width / 8, 0⟩] else [] := by
  have h : (List.range o.k.et.count).any (maskBit (c.rdQ o.k.q)) = true ↔
      ∃ j < o.k.et.count, (c.rdQ o.k.q).getLsbD j = true := by
    rw [List.any_eq_true]
    exact exists_congr fun j => and_congr_left fun _ => List.mem_range
  exact ite_congr (propext h) (fun _ => rfl) fun _ => rfl

theorem loads_vlds (o : VOneOp) : LoadsItems (.vlds o) (fun _ _ _ => True)
    (fun c _ op => if ∃ j < o.k.et.count, (c.rdQ o.k.q).getLsbD j = true
      then [.elem 0 ⟨op.sa.toNat, o.k.et.width / 8, 0⟩] else [])
    o.k.et.width (fun c _ _ vals u =>
      c.loadsLanes u o.k o.d (fun _ => vals.getD 0 0) ∧ (u.rdV o.d).scales = (c.rdV o.d).scales) := by
  simp only [← Core.oneItem_eq]
  refine loadsItems_of _ _ _ _ _ (fun c _ _ xs => c.wrElems o.d o.k.et
    ((lanes (c.rdQ o.k.q) ((c.rdV o.d).elems o.k.et) fun _ => (itemElem xs 0, 0)).map (·.1))) rfl (fun _ h => by cases h)
    (fun s e op hi _ => (perform_vlds o s.core _ op hi).trans rfl) fun s e op vals hi _ hlen => ?_
  have hval : itemElem ((s.core.oneItem o op).zip vals) 0 = vals.getD 0 0 := by
    unfold Core.oneItem at hlen ⊢
    split at hlen
    next h =>
      rw [if_pos h]
      obtain ⟨v, rfl⟩ := List.length_eq_one_iff.1 hlen
      rfl
    next h =>
      rw [if_neg h, List.length_eq_zero_iff.1 hlen]
      rfl
  rw [hval]
  have hlanes := s.core.elem_lanes o.k.q o.d o.k.et fun _ => (vals.getD 0 0, 0)
  intro u
  have hadv := Core.advance_regs u e op.ins
  refine ⟨rfl, rfl, rfl, ⟨fun j hj => ?_, fun v hv => ?_, ?_⟩, ?_⟩
  · exact (Core.elem_congr (congrArg VecReg.bits (Core.rdV_congr hadv o.d)) o.k.et j).trans (hlanes j hj)
  · exact (Core.rdV_congr hadv v).trans ((s.core.rdV_wrElems _ _ _ _).trans (if_neg hv))
  · rw [hadv]
    exact (s.core.wrElems_changesV _ _ _).regs
  · rw [Core.rdV_congr hadv, s.core.rdV_wrElems, if_pos rfl]

end Sys2Proof.Machine
end

section
/-! PROOF. The tile rows, their transfers and products; they settle O22. -/

namespace Sys2Proof.Machine

/-! ## Tile and accumulator registers -/

theorem Core.rdT_wrT (c : Core) (r r' : TReg) (x : BitVec 65536) :
    (c.wrT r x).rdT r' = if r' = r then x else c.rdT r' := by
  unfold Core.rdT Core.wrT
  split
  next h => subst h; exact Vector.getElem_set_self r'.isLt
  next h => exact Vector.getElem_set_ne r.isLt r'.isLt fun x => h (Fin.ext x.symm)

theorem Core.rdZ_wrZ (c : Core) (r r' : ZReg) (x : BitVec 131072) :
    (c.wrZ r x).rdZ r' = if r' = r then x else c.rdZ r' := by
  unfold Core.rdZ Core.wrZ
  split
  next h => subst h; exact Vector.getElem_set_self r'.isLt
  next h => exact Vector.getElem_set_ne r.isLt r'.isLt fun x => h (Fin.ext x.symm)

theorem Core.rdT_congr {c c' : Core} (h : c.regs = c'.regs) (r : TReg) : c.rdT r = c'.rdT r := by
  unfold Core.rdT
  rw [h]

theorem Core.rdZ_congr {c c' : Core} (h : c.regs = c'.regs) (r : ZReg) : c.rdZ r = c'.rdZ r := by
  unfold Core.rdZ
  rw [h]

theorem unpackElems_getD (x w n j : Nat) (hj : j < n) : (unpackElems x w n).getD j 0 = elemAt x w j := by
  rw [unpackElems, List.getD_eq_getElem?_getD, List.getElem?_map, List.getElem?_range hj]
  rfl

theorem elemAt_lt (x w j : Nat) : elemAt x w j < 2 ^ w := Nat.mod_lt _ (two_pow_pos w)

/-! ## Elements of a tile -/

theorem withElems_toNat (old : BitVec 65536) (w : Nat) (xs : List Nat) (h : w * xs.length ≤ 65536) :
    (withElems old w xs).toNat = 2 ^ (w * xs.length) * (old.toNat / 2 ^ (w * xs.length)) + packElems w xs := by
  have hp := packElems_lt w xs
  have ho := old.isLt
  have h2 : (2 : Nat) ^ 65536 = 2 ^ (w * xs.length) * 2 ^ (65536 - w * xs.length) := by
    rw [← Nat.pow_add]
    congr 1
    omega
  rw [h2] at ho
  have hk : old.toNat / 2 ^ (w * xs.length) + 1 ≤ 2 ^ (65536 - w * xs.length) := Nat.div_lt_of_lt_mul ho
  have hm := Nat.mul_le_mul_left (2 ^ (w * xs.length)) hk
  rw [Nat.mul_add, Nat.mul_one] at hm
  unfold withElems
  dsimp only
  rw [BitVec.toNat_ofNat, Nat.mod_eq_of_lt, Nat.add_comm, Nat.mul_comm]
  rw [h2, Nat.mul_comm (old.toNat / _)]
  omega

theorem elemAt_withElems (old : BitVec 65536) (w : Nat) (xs : List Nat) (h : w * xs.length ≤ 65536) (p : Nat)
    (hp : p < xs.length) : elemAt (withElems old w xs).toNat w p = xs.getD p 0 % 2 ^ w := by
  rw [withElems_toNat old w xs h, ← elemAt_packElems w xs p]
  generalize packElems w xs = m
  generalize old.toNat / _ = k
  have hle : w * (p + 1) ≤ w * xs.length := Nat.mul_le_mul_left w hp
  rw [Nat.mul_succ] at hle
  have h1 : 2 ^ (w * xs.length) * k = 2 ^ (w * p) * (2 ^ w * (2 ^ (w * xs.length - w * p - w) * k)) := by
    rw [← Nat.mul_assoc, ← Nat.mul_assoc, ← Nat.pow_add, ← Nat.pow_add]
    congr 2
    omega
  unfold elemAt
  rw [h1, Nat.mul_add_div (two_pow_pos _), Nat.mul_add_mod]

theorem withElems_beyond (old : BitVec 65536) (w : Nat) (xs : List Nat) (h : w * xs.length ≤ 65536) (b : Nat)
    (hb : w * xs.length ≤ b) : (withElems old w xs).getLsbD b = old.getLsbD b := by
  unfold BitVec.getLsbD
  rw [withElems_toNat old w xs h, Nat.testBit_two_pow_mul_add _ (packElems_lt w xs), if_neg (Nat.not_lt.2 hb),
    Nat.testBit_div_two_pow]
  congr 1
  omega

theorem Core.tileElem_eq (c : Core) (t : TReg) (k : Nat) (hk : k < (c.tshape t).rows * (c.tshape t).cols) :
    c.tileElem t k = elemAt (c.rdT t).toNat (tileStore (c.tshape t).et) k :=
  unpackElems_getD _ _ _ _ hk

theorem Core.tshape_congr {c c' : Core} (h : c.tile.tshp = c'.tile.tshp) (t : TReg) : c.tshape t = c'.tshape t := by
  unfold Core.tshape
  rw [h]

/-- A row that is done at once leaves what it writes. -/
theorem Runs.performed {i : Instr} {p : Core → PerfCtx → SeqOp → PerfRes} (h : Runs i p) {s : State} {e : SeqEntry} {op : SeqOp}
    {rest : List SeqEntry} (hi : op.ins = i) (hh : s.heads e op rest) (hb : s.core.badRegs = []) {c : Core}
    (hp : p s.core (s.ctxOf e) op = .done c) (hv : c.vec = s.core.vec) :
    ∃ u, exec .sequencerPerform s = .next u ∧ u.core.vec.seq = e.next.toList ++ rest ∧ u.core.regs = c.regs ∧
      u.core.ls = c.ls ∧ u.core.fp = c.fp ∧ u.core.tile.tshp = c.tile.tshp := by
  have he : exec .sequencerPerform s = _ :=
    execSequencerPerform_eq s e op rest hh hb (hi ▸ h.sfu) (SeqEntry.rotOp_none hh.2 (hi ▸ h.rot))
  rw [he, h.perform _ _ _ hi, hp]
  refine ⟨_, rfl, (Core.advance_seq _ _ _).trans ?_, Core.advance_regs _ _ _, Core.advance_ls _ _ _, Core.advance_fp _ _ _,
    Core.advance_tshp _ _ _⟩
  rw [hv, hh.1, List.tail_cons]

/-- A row that writes the elements of its tile. -/
theorem performsTile_of {i : Instr} {d : TReg} {need : Core → Prop} {n : Core → Nat} {f : Core → Nat → Nat}
    {w : Core → Nat} {xs : Core → List Nat} (h : Runs i fun c _ _ => .done (c.wrT d (withElems (c.rdT d) (w c) (xs c))))
    (hshape : ∀ c, need c → w c = tileStore (c.tshape d).et ∧ (xs c).length = n c ∧
      n c = (c.tshape d).rows * (c.tshape d).cols)
    (hf : ∀ c, need c → ∀ k < n c, (xs c).getD k 0 % 2 ^ w c = f c k) : PerformsTile i d need n f := by
  intro s e op rest hi hh hb c hn hfit
  obtain ⟨hw, hlen, hcount⟩ := hshape c hn
  have hle : w c * (xs c).length ≤ 65536 := by
    rw [hw, hlen, hcount, Nat.mul_comm]
    exact of_decide_eq_true hfit
  obtain ⟨u, hu, hseq, hregs, hls, hfp, htshp⟩ := h.performed hi hh hb rfl rfl
  have hT (t : TReg) := (Core.rdT_congr hregs t).trans (c.rdT_wrT d t _)
  have hs : u.core.tshape d = c.tshape d := Core.tshape_congr htshp d
  refine ⟨u, hu, hseq, fun k hk => ?_, fun b hb => ?_, fun t ht => (hT t).trans (if_neg ht), by rw [hregs]; rfl, hls, hfp⟩
  · refine (Core.tileElem_eq _ d k (by rw [hs, ← hcount]; exact hk)).trans ?_
    rw [hs, hT, if_pos rfl, ← hw, elemAt_withElems _ _ _ hle k (hlen.symm ▸ hk), hf c hn k hk]
  · refine (congrArg (·.getLsbD b) ((hT d).trans (if_pos rfl))).trans (withElems_beyond _ _ _ hle b ?_)
    rw [hw, hlen, Nat.mul_comm]
    exact hb

theorem runs_tzero (d : TReg) : Runs (.tzero d) fun c _ _ => .done (c.wrT d (withElems (c.rdT d) (tileStore (c.tshape d).et)
    (List.replicate ((c.tshape d).rows * (c.tshape d).cols) 0))) :=
  .tile rfl rfl (fun _ h => by cases h) fun _ _ _ => rfl

theorem runs_ttr (o : TTr) : Runs (.ttr o) fun c _ _ => .done (c.wrT o.d (withElems (c.rdT o.d) (tileStore (c.tshape o.a).et)
    (transposed (c.tshape o.a).rows (c.tshape o.a).cols (c.tileElems o.a)))) :=
  .tile rfl rfl (fun _ h => by cases h) fun _ _ _ => rfl

theorem performs_tzero (d : TReg) :
    PerformsTile (.tzero d) d (fun _ => True) (fun c => (c.tshape d).rows * (c.tshape d).cols) fun _ _ => 0 := by
  refine performsTile_of (runs_tzero d) (fun c _ => ⟨rfl, List.length_replicate, rfl⟩) fun c _ k hk => ?_
  rw [List.getD_eq_getElem?_getD, List.getElem?_replicate, if_pos hk]
  exact Nat.zero_mod _

theorem performs_ttr (o : TTr) : PerformsTile (.ttr o) o.d
    (fun c => c.tshape o.d = ⟨(c.tshape o.a).et, (c.tshape o.a).cols, (c.tshape o.a).rows⟩)
    (fun c => (c.tshape o.a).rows * (c.tshape o.a).cols)
    fun c k => c.tileElem o.a (k % (c.tshape o.a).rows * (c.tshape o.a).cols + k / (c.tshape o.a).rows) := by
  refine performsTile_of (runs_ttr o) (fun c hn => ⟨by rw [hn], ?_, by rw [hn]; exact Nat.mul_comm _ _⟩) fun c _ k hk => ?_
  · rw [transposed, List.length_map, List.length_range]
  · rw [transposed, List.getD_eq_getElem?_getD, List.getElem?_map, List.getElem?_range hk]
    have hpos : 0 < (c.tshape o.a).rows := Nat.pos_of_mul_pos_right (Nat.lt_of_le_of_lt (Nat.zero_le k) hk)
    have hk' : k % (c.tshape o.a).rows * (c.tshape o.a).cols + k / (c.tshape o.a).rows <
        (c.tshape o.a).rows * (c.tshape o.a).cols := by
      have h1 := Nat.mod_lt k hpos
      have h2 : k / (c.tshape o.a).rows < (c.tshape o.a).cols := Nat.div_lt_of_lt_mul hk
      calc k % (c.tshape o.a).rows * (c.tshape o.a).cols + k / (c.tshape o.a).rows
          < (k % (c.tshape o.a).rows + 1) * (c.tshape o.a).cols := by rw [Nat.succ_mul]; omega
        _ ≤ _ := Nat.mul_le_mul_right _ h1
    refine Nat.mod_eq_of_lt ?_
    change c.tileElem o.a _ < _
    rw [Core.tileElem_eq _ _ _ hk']
    exact elemAt_lt _ _ _

/-! ## Elements of an accumulator -/

theorem TZ.size (tz : TZ) : tz.et.width * (64 * tz.cols) = 131072 := by cases tz <;> rfl

theorem TZ.cols_pos (tz : TZ) : 0 < tz.cols := by cases tz <;> decide

/-- The place of element `(i, j)`. -/
theorem TZ.place (tz : TZ) {i j : Nat} (hi : i < 64) (hj : j < tz.cols) :
    i * tz.cols + j < 64 * tz.cols ∧ (i * tz.cols + j) / tz.cols = i ∧ (i * tz.cols + j) % tz.cols = j := by
  refine ⟨?_, ?_, ?_⟩
  · have := Nat.mul_le_mul_right tz.cols hi
    rw [Nat.succ_mul] at this
    omega
  · rw [Nat.mul_comm, Nat.mul_add_div (TZ.cols_pos tz), Nat.div_eq_of_lt hj, Nat.add_zero]
  · rw [Nat.mul_comm, Nat.mul_add_mod, Nat.mod_eq_of_lt hj]

theorem Core.accElem_place (c : Core) (tz : TZ) (d : ZReg) (p : Nat) :
    c.accElem tz d (p / tz.cols) (p % tz.cols) = (accElems tz (c.rdZ d)).getD p 0 := by
  unfold Core.accElem
  rw [Nat.mul_comm, Nat.div_add_mod]

theorem Core.zipIdx_accElems (c : Core) (tz : TZ) (d : ZReg) : (accElems tz (c.rdZ d)).zipIdx =
    (List.range (64 * tz.cols)).map fun p => (c.accElem tz d (p / tz.cols) (p % tz.cols), p) := by
  simp only [Core.accElem_place]
  rw [accElems, unpackElems, zipIdx_map_range]
  refine List.map_congr_left fun p hp => ?_
  rw [← unpackElems, unpackElems_getD _ _ _ _ (List.mem_range.1 hp)]

theorem Core.accElem_lt (c : Core) (tz : TZ) (d : ZReg) {i j : Nat} (hi : i < 64) (hj : j < tz.cols) :
    c.accElem tz d i j < 2 ^ tz.et.width := by
  unfold Core.accElem accElems
  rw [unpackElems_getD _ _ _ _ (TZ.place tz hi hj).1]
  exact elemAt_lt _ _ _

/-- The results of all elements, those that `on` does not name as they were. -/
def Core.accResults (c : Core) (tz : TZ) (d : ZReg) (on : Nat → Nat → Bool) (f : Nat → Nat → Nat × Flags) : List (Nat × Flags) :=
  (List.range (64 * tz.cols)).map fun p =>
    if on (p / tz.cols) (p % tz.cols) then f (p / tz.cols) (p % tz.cols) else (c.accElem tz d (p / tz.cols) (p % tz.cols), 0)

/-- Such results committed. -/
def Core.commitAcc (c : Core) (tz : TZ) (d : ZReg) (on : Nat → Nat → Bool) (f : Nat → Nat → Nat × Flags) : PerfRes :=
  c.commitTile (orAll ((c.accResults tz d on f).map (·.2))) fun c' => c'.wrZ d (accPack tz ((c.accResults tz d on f).map (·.1)))

theorem Core.commitAcc_eq (c : Core) (tz : TZ) (d : ZReg) (on : Nat → Nat → Bool) (f : Nat → Nat → Nat × Flags) :
    c.commitAcc tz d on f = c.commit (orAll ((c.accResults tz d on f).map (·.2)))
      (BitVec.ofNat 64 (orAll ((c.accResults tz d on f).map (·.2))).toNat)
      fun c' => c'.wrZ d (accPack tz ((c.accResults tz d on f).map (·.1))) := rfl

theorem Core.accResults_flags (c : Core) (tz : TZ) (d : ZReg) (on : Nat → Nat → Bool) (f : Nat → Nat → Nat × Flags) :
    FlagList ((c.accResults tz d on f).map (·.2)) (64 * tz.cols) (fun p => on (p / tz.cols) (p % tz.cols))
      fun p => (f (p / tz.cols) (p % tz.cols)).2 := by
  have h : (c.accResults tz d on f).map (·.2) = (List.range (64 * tz.cols)).map fun p =>
      if on (p / tz.cols) (p % tz.cols) then (f (p / tz.cols) (p % tz.cols)).2 else 0 := by
    rw [Core.accResults, List.map_map]
    refine List.map_congr_left fun p _ => ?_
    rw [Function.comp]
    split <;> rfl
  rw [h]
  exact .of_range _ _ _

/-- An element of a packed list of results. -/
theorem elemAt_accPack (tz : TZ) (xs : List Nat) (hl : xs.length = 64 * tz.cols) (p : Nat) :
    elemAt (accPack tz xs).toNat tz.et.width p = xs.getD p 0 % 2 ^ tz.et.width := by
  have h := packElems_lt tz.et.width xs
  rw [hl, TZ.size] at h
  rw [accPack, BitVec.toNat_ofNat, Nat.mod_eq_of_lt h, elemAt_packElems]

theorem performsAcc_of {i : Instr} {d : ZReg} {tz : TZ} {on : Core → Nat → Nat → Prop} {onb : Core → Nat → Nat → Bool}
    {f : Core → Nat → Nat → Nat × Flags} (h : Runs i fun c _ _ => c.commitAcc tz d (onb c) (f c))
    (hon : ∀ c i j, onb c i j = true ↔ on c i j) : PerformsAcc i d tz on f := by
  intro s e op rest hi hh hb c at_ raised
  have hfl := c.accResults_flags tz d (onb c) (f c)
  have hlen : ((c.accResults tz d (onb c) (f c)).map (·.1)).length = 64 * tz.cols := by
    rw [List.length_map, Core.accResults, List.length_map, List.length_range]
  -- elements by place and by row and column
  have hplace (P : Flags → Prop) : (∃ p, (p < 64 * tz.cols ∧ onb c (p / tz.cols) (p % tz.cols) = true) ∧
      P (f c (p / tz.cols) (p % tz.cols)).2) ↔ ∃ i j, at_ i j ∧ P (f c i j).2 := by
    constructor
    · rintro ⟨p, ⟨hp, ho⟩, hP⟩
      exact ⟨_, _, ⟨Nat.div_lt_of_lt_mul (by rwa [Nat.mul_comm] at hp), Nat.mod_lt _ (TZ.cols_pos tz), (hon _ _ _).1 ho⟩, hP⟩
    · rintro ⟨i, j, ⟨hi, hj, ho⟩, hP⟩
      obtain ⟨h1, h2, h3⟩ := TZ.place tz hi hj
      exact ⟨_, ⟨h1, by rw [h2, h3]; exact (hon _ _ _).2 ho⟩, by rw [h2, h3]; exact hP⟩
  obtain ⟨hdone, htrap⟩ := h.commits hi hh hb (c.commitAcc_eq tz d (onb c) (f c)) ⟨rfl, rfl, rfl⟩ (R := raised) fun b =>
    (hfl.raised b).trans (hplace fun x => x.getLsbD b = true)
  have hsome := (hfl.some_iff c.fpEnables).trans (hplace fun x => x &&& c.fpEnables ≠ 0)
  refine ⟨fun hno => ?_, fun hex hf ho => ?_⟩
  · obtain ⟨u, hu, hseq, hregs, hls, hr⟩ := hdone (Classical.byContradiction fun hc => by
      obtain ⟨i, j, hat, hne⟩ := hsome.1 hc
      exact hne (hno i j hat))
    have hZ (z : ZReg) := (Core.rdZ_congr hregs z).trans (c.rdZ_wrZ d z _)
    have helem (i j : Nat) (hi : i < 64) (hj : j < tz.cols) : u.core.accElem tz d i j =
        (if onb c i j then f c i j else (c.accElem tz d i j, 0)).1 % 2 ^ tz.et.width := by
      obtain ⟨h1, h2, h3⟩ := TZ.place tz hi hj
      unfold Core.accElem accElems
      rw [hZ, if_pos rfl, unpackElems_getD _ _ _ _ h1, elemAt_accPack tz _ hlen, List.getD_eq_getElem?_getD, List.getElem?_map,
        Core.accResults, List.getElem?_map, List.getElem?_range h1]
      simp only [Option.map_some, Option.getD_some, h2, h3]
      rfl
    refine ⟨u, hu, hseq, fun i j hat => ?_, fun i j hi hj hn => ?_, fun z hz => (hZ z).trans (if_neg hz), by rw [hregs]; rfl, hls, hr⟩
    · rw [helem i j hat.1 hat.2.1, if_pos ((hon _ _ _).2 hat.2.2)]
    · rw [helem i j hi hj, if_neg fun h => hn ((hon _ _ _).1 h)]
      exact Nat.mod_eq_of_lt (c.accElem_lt tz d hi hj)
  · obtain ⟨u, hu, ht, hr, hv⟩ := htrap (hsome.2 hex) hf ho
    refine ⟨u, hu, ht, hr, fun b hb => ?_⟩
    rw [hv, BitVec.getLsbD_ofNat, decide_eq_true hb, Bool.true_and]
    exact (hfl.raised b).trans (hplace fun x => x.getLsbD b = true)

/-! ## Products and scaled sums -/

/-- An element of a product, by the operands' elements. -/
def Core.prodAt (c : Core) (o : TProd) (ow : Bool) (i j : Nat) : Nat × Flags :=
  productElem o (if ow then 0 else c.accElem o.tz o.d i j)
    (productLeaves (c.tshape o.a).cols (c.tshape o.b).cols (c.tileElems o.a) (c.tileElems o.b) i j)

theorem Core.product_eq (c : Core) (o : TProd) (ow : Bool) :
    let r := c.accResults o.tz o.d (fun i j => i < (c.tshape o.a).rows && j < (c.tshape o.b).cols) (c.prodAt o ow)
    c.product o ow = (accPack o.tz (r.map (·.1)), orAll (r.map (·.2))) := by
  intro r
  have h : (accElems o.tz (c.rdZ o.d)).zipIdx.map (fun x => if x.2 / o.tz.cols < (c.tshape o.a).rows &&
      x.2 % o.tz.cols < (c.tshape o.b).cols then productElem o (if ow then 0 else x.1) (productLeaves (c.tshape o.a).cols
        (c.tshape o.b).cols (c.tileElems o.a) (c.tileElems o.b) (x.2 / o.tz.cols) (x.2 % o.tz.cols)) else (x.1, 0)) = r := by
    rw [Core.zipIdx_accElems, List.map_map]
    rfl
  rw [← h]
  rfl

theorem foldl_add_sum {α : Type} (l : List α) (g : α → Int) (z : Int) :
    l.foldl (fun s p => s + g p) z = z + (l.map g).sum := by
  induction l generalizing z with
  | nil => simp
  | cons x xs ih => rw [List.foldl_cons, ih, List.map_cons, List.sum_cons, Int.add_assoc]

theorem Core.prodAt_eq (c : Core) (o : TProd) (ow : Bool) (i j : Nat) : c.prodAt o ow i j =
    let z := if ow then 0 else c.accElem o.tz o.d i j
    let pair (m : Nat) : Nat × Nat := (c.tileElem o.a (i * (c.tshape o.a).cols + m),
      c.tileElem o.b (m * (c.tshape o.b).cols + j))
    let pairs := (List.range (c.tshape o.a).cols).map pair
    match o.tz with
    | .int32 => (ofSigned 32 (toSigned 32 z + (pairs.map fun p => toSigned o.ta.width p.1 * toSigned o.tb.width p.2).sum), 0)
    | tz =>
      let v := treeSum (level1Of o.ta o.tb) tz.et .rne (tz.et.read z) (pairs.map fun p => (o.ta.read p.1, o.tb.read p.2))
      ((tz.et.write .rne false v.1).1, v.2) := by
  have hl : productLeaves (c.tshape o.a).cols (c.tshape o.b).cols (c.tileElems o.a) (c.tileElems o.b) i j =
    (List.range (c.tshape o.a).cols).map fun m => (c.tileElem o.a (i * (c.tshape o.a).cols + m),
      c.tileElem o.b (m * (c.tshape o.b).cols + j)) := rfl
  unfold Core.prodAt productElem
  rw [hl]
  cases htz : o.tz with
  | int32 =>
    dsimp only
    rw [foldl_add_sum]
  | fp32 => rfl
  | fp64 => rfl

theorem runs_tmma (o : TProd) : Runs (.tmma o) fun c _ _ => c.commitAcc o.tz o.d
    (fun i j => i < (c.tshape o.a).rows && j < (c.tshape o.b).cols) (c.prodAt o false) := by
  refine .tile rfl rfl (fun _ h => by cases h) fun c _ _ => ?_
  unfold Core.performTile
  dsimp only
  rw [c.product_eq o false]
  rfl

theorem runs_tmmo (o : TProd) : Runs (.tmmo o) fun c _ _ => c.commitAcc o.tz o.d
    (fun i j => i < (c.tshape o.a).rows && j < (c.tshape o.b).cols) (c.prodAt o true) := by
  refine .tile rfl rfl (fun _ h => by cases h) fun c _ _ => ?_
  unfold Core.performTile
  dsimp only
  rw [c.product_eq o true]
  rfl

theorem performs_products (o : TProd) (p : Instr × Bool) (h : p ∈ [(Instr.tmma o, false), (.tmmo o, true)]) :
    PerformsAcc p.1 o.d o.tz (fun c i j => i < (c.tshape o.a).rows ∧ j < (c.tshape o.b).cols) fun c i j =>
      let z := if p.2 then 0 else c.accElem o.tz o.d i j
      let pair (m : Nat) : Nat × Nat := (c.tileElem o.a (i * (c.tshape o.a).cols + m),
        c.tileElem o.b (m * (c.tshape o.b).cols + j))
      let pairs := (List.range (c.tshape o.a).cols).map pair
      match o.tz with
      | .int32 => (ofSigned 32 (toSigned 32 z +
          (pairs.map fun p => toSigned o.ta.width p.1 * toSigned o.tb.width p.2).sum), 0)
      | tz =>
        let v := treeSum (level1Of o.ta o.tb) tz.et .rne (tz.et.read z) (pairs.map fun p => (o.ta.read p.1, o.tb.read p.2))
        ((tz.et.write .rne false v.1).1, v.2) := by
  have hall : PerformsAcc p.1 o.d o.tz (fun c i j => i < (c.tshape o.a).rows ∧ j < (c.tshape o.b).cols)
      fun c i j => c.prodAt o p.2 i j := by
    have hon (c : Core) (i j : Nat) : (decide (i < (c.tshape o.a).rows) && decide (j < (c.tshape o.b).cols)) = true ↔
        i < (c.tshape o.a).rows ∧ j < (c.tshape o.b).cols := by
      rw [Bool.and_eq_true, decide_eq_true_eq, decide_eq_true_eq]
    simp only [List.mem_cons, List.not_mem_nil, or_false] at h
    rcases h with rfl | rfl
    · exact performsAcc_of (runs_tmma o) hon
    · exact performsAcc_of (runs_tmmo o) hon
  simpa only [Core.prodAt_eq] using hall

/-- A field of a vector register is an element. -/
theorem Core.elem_eq_elemAt (c : Core) (r : VReg) (t : EType) (j : Nat) (hj : j < t.count) :
    c.elem r t j = elemAt (c.rdV r).bits.toNat t.width j := unpackElems_getD _ _ _ _ hj

/-- A scale of a register group, as `tsacc` reads it. -/
theorem Core.groupElem_fp32 (c : Core) (r : VReg) (n : Nat) :
    c.groupElem r 32 n = c.elem (vecAt r (n / 16)) .fp32 (n % 16) :=
  (c.elem_eq_elemAt _ .fp32 _ (Nat.mod_lt n (by decide))).symm

/-- An element of a scaled sum. -/
def Core.saccAt (c : Core) (o : TSacc) (i j : Nat) : Nat × Flags :=
  let acc : EType := if o.tz = .fp64 then .fp64 else .fp32
  let scale (r : VReg) (n : Nat) : Scale := Scale.ofBits (BitVec.ofNat 20 (c.elem (vecAt r (n / 16)) .fp32 (n % 16)))
  let x := scaledTerm (scale o.b i) (scale o.c j) (o.tz.et.read (c.accElem o.tz o.a i j))
  let y := fAdd false (acc.read (c.accElem o.tz o.d i j)) x.1
  let v := acc.write .rne false y.1
  (v.1, x.2 ||| y.2 ||| v.2)

theorem Core.saccResult_eq (c : Core) (o : TSacc) :
    let r := c.accResults o.tz o.d (fun _ _ => true) (c.saccAt o)
    c.saccResult o = (accPack o.tz (r.map (·.1)), orAll (r.map (·.2))) := by
  intro r
  have h : (accElems o.tz (c.rdZ o.d)).zipIdx.map (fun y =>
      let acc : EType := if o.tz == .fp64 then .fp64 else .fp32
      let scale (r : VReg) (n : Nat) : Scale := Scale.ofBits (BitVec.ofNat 20 (c.groupElem r 32 n))
      let x := scaledTerm (scale o.b (y.2 / o.tz.cols)) (scale o.c (y.2 % o.tz.cols))
        (o.tz.et.read (at0 (accElems o.tz (c.rdZ o.a)) y.2))
      let z := fAdd false (acc.read y.1) x.1
      let v := acc.write .rne false z.1
      (v.1, x.2 ||| z.2 ||| v.2)) = r := by
    rw [Core.zipIdx_accElems, List.map_map]
    refine List.map_congr_left fun p _ => ?_
    have hp : at0 (accElems o.tz (c.rdZ o.a)) p = c.accElem o.tz o.a (p / o.tz.cols) (p % o.tz.cols) :=
      (c.accElem_place o.tz o.a p).symm
    simp only [Function.comp, if_true, beq_iff_eq, Core.groupElem_fp32, hp]
    rfl
  rw [← h]
  rfl

theorem runs_tsacc (o : TSacc) : Runs (.tsacc o) fun c _ _ => c.commitAcc o.tz o.d (fun _ _ => true) (c.saccAt o) := by
  refine .tile rfl rfl (fun _ h => by cases h) fun c _ _ => ?_
  unfold Core.performTile
  dsimp only
  rw [c.saccResult_eq o]
  rfl

theorem performs_tsacc (o : TSacc) : PerformsAcc (.tsacc o) o.d o.tz (fun _ _ _ => True) fun c i j => c.saccAt o i j :=
  performsAcc_of (runs_tsacc o) fun _ _ _ => ⟨fun _ => trivial, fun _ => rfl⟩

/-! ## Transfers -/

theorem ShapeRec.items_length (r : ShapeRec) : r.items.length = r.rows * r.cols := by
  rw [ShapeRec.items, ShapeRec.transfer, List.length_map, List.length_zipIdx, List.length_map, List.length_range]

theorem ShapeRec.mem_items {r : ShapeRec} {it : MemItem} (h : it ∈ r.items) : ∃ p l, it = .elem p l ∧ p < r.rows * r.cols := by
  obtain ⟨⟨l, p⟩, hm, rfl⟩ := List.mem_map.1 h
  refine ⟨p, l, rfl, ?_⟩
  have := (List.mem_zipIdx' hm).1
  rwa [ShapeRec.transfer, List.length_map, List.length_range] at this

/-- How a transfer puts element `p`. -/
def Core.putTile (w : Nat) (x : Core → Nat → Nat) (c : Core) (_ : SeqOp) (c' : Core) (it : MemItem) : Core :=
  match it with
  | .elem p l => c'.writeLoc l w (x c p)
  | .scale _ _ => c'

theorem Core.putTile_keeps (w : Nat) (x : Core → Nat → Nat) (c : Core) (op : SeqOp) (c' : Core) (it : MemItem) :
    (c.putTile w x op c' it).regs = c'.regs ∧ (c.putTile w x op c' it).fp = c'.fp ∧ (c.putTile w x op c' it).vec = c'.vec ∧
      ∀ a, (a < it.range.1 ∨ it.range.1 + it.range.2 ≤ a) → (c.putTile w x op c' it).ls.read a = c'.ls.read a := by
  cases it with
  | elem p l => exact c'.writeLoc_keeps l w _
  | scale b a => exact ⟨rfl, rfl, rfl, fun _ _ => rfl⟩

theorem foldl_congr_mem {α β : Type} {l : List α} {f g : β → α → β} (h : ∀ b, ∀ x ∈ l, f b x = g b x) (b : β) :
    l.foldl f b = l.foldl g b := by
  induction l generalizing b with
  | nil => rfl
  | cons x l ih =>
    rw [List.foldl_cons, List.foldl_cons, h b x List.mem_cons_self]
    exact ih (fun b y hy => h b y (List.mem_cons_of_mem x hy)) _

/-- Stores that put the listed accesses alike are alike. -/
theorem Core.storeNext_congr (c : Core) (x : PerfCtx) (items : List MemItem) {put put' : Core → MemItem → Core}
    (h : ∀ c', ∀ it ∈ items, put c' it = put' c' it) : c.storeNext x items put = c.storeNext x items put' := by
  have hf (k : Nat) : ((items.drop x.part.count).take k).foldl put c = ((items.drop x.part.count).take k).foldl put' c :=
    foldl_congr_mem (fun c' it hm => h c' it (List.mem_of_mem_drop (List.mem_of_mem_take hm))) c
  unfold Core.storeNext
  simp only [hf]

/-- A transfer puts the elements that its list holds. -/
theorem Core.storeTransfer_eq (c : Core) (x : PerfCtx) (op : SeqOp) (r : ShapeRec) (xs : List Nat) (f : Core → Nat → Nat)
    (h : ∀ p < r.rows * r.cols, xs.getD p 0 = f c p) :
    c.storeTransfer x r xs = c.storeNext x r.items (Core.putTile r.et.width f c op) := by
  refine c.storeNext_congr x r.items fun c' it hm => ?_
  obtain ⟨p, l, rfl, hp⟩ := ShapeRec.mem_items hm
  change c'.writeLoc l r.et.width (xs.getD p 0) = c'.writeLoc l r.et.width (f c p)
  rw [h p hp]

/-- A tile row performs as its arm of `performTile` says. -/
theorem perform_tile {i : Instr} {o : TileOp} (ht : tileOf i = some o) (c : Core) (x : PerfCtx) {op : SeqOp} (hi : op.ins = i) :
    c.perform x op = c.performTile x o op.shape := by
  unfold Core.perform
  rw [hi, ht]

theorem stores_tst (r : ShapeRec) (o : TMem) : StoresItems (.tst o)
    (fun s _ op => op.shape = some r ∧ s.core.tshape o.d = ⟨r.et, r.rows, r.cols⟩ ∧ (s.core.tshape o.d).fits = true)
    (fun _ _ _ => r.items) (Core.putTile r.et.width fun c p => c.tileElem o.d p) (fun _ => 0) := by
  refine storesItems_of _ _ _ _ _ rfl (fun _ h => by cases h) (fun s e op hi hn => ?_) (Core.putTile_keeps _ _)
  refine (perform_tile rfl s.core _ hi).trans ?_
  rw [hn.1]
  refine Eq.trans ?_ (storeNext_noFlags s.core _).symm
  exact s.core.storeTransfer_eq _ op r _ _ fun _ _ => rfl

/-- The elements that a record covers, in position order. -/
theorem accWindow_getD (c : Core) (tz : TZ) (d : ZReg) (r : ShapeRec) (p : Nat) (hp : p < r.rows * r.cols) :
    (accWindow tz (c.rdZ d) r).getD p 0 = c.accElem tz d (p / r.cols) (p % r.cols) := by
  unfold accWindow
  dsimp only
  rw [List.getD_eq_getElem?_getD, List.getElem?_map, List.getElem?_range hp]
  rfl

theorem stores_zst (r : ShapeRec) (o : ZSt) : StoresItems (.zst o) (fun _ _ op => op.shape = some r) (fun _ _ _ => r.items)
    (Core.putTile r.et.width fun c p => c.accElem o.tz o.d (p / r.cols) (p % r.cols)) (fun _ => 0) := by
  refine storesItems_of _ _ _ _ _ rfl (fun _ h => by cases h) (fun s e op hi hn => ?_) (Core.putTile_keeps _ _)
  refine (perform_tile rfl s.core _ hi).trans ?_
  rw [hn]
  refine Eq.trans ?_ (storeNext_noFlags s.core _).symm
  exact s.core.storeTransfer_eq _ op r _ _ fun p hp => accWindow_getD _ _ _ r p hp

/-! ## The epilogue -/

/-- The element that the epilogue writes at position `p`. -/
def Core.epiAt (c : Core) (o : TEpi) (r : ShapeRec) (p : Nat) : Nat × Flags :=
  c.epiElem o (c.accElem o.tz o.d (p / r.cols) (p % r.cols)) (p % r.cols)

/-- A bias of a register group. -/
theorem Core.groupElem_acc (c : Core) (tz : TZ) (r : VReg) (n : Nat) :
    c.groupElem r tz.et.width n = c.elem (vecAt r (n / (512 / tz.et.width))) tz.et (n % (512 / tz.et.width)) := by
  refine (c.elem_eq_elemAt _ tz.et _ ?_).symm
  cases tz <;> exact Nat.mod_lt n (by decide)

theorem addBias_eq (tz : TZ) (x b : Nat) : addBias tz x b =
    if tz = .int32 then ((x + b) % 2 ^ 32, 0)
    else
      let y := fAdd false (tz.et.read x) (tz.et.read b)
      let z := tz.et.write .rne false y.1
      (z.1, y.2 ||| z.2) := by
  cases tz <;> rfl

theorem reluBits_eq (tz : TZ) (x : Nat) : reluBits tz x =
    if (if tz = .int32 then toSigned 32 x < 0 else (tz.et.read x).isNaN = false ∧ (tz.et.read x).sign = true) then 0
    else x := by
  cases tz <;> simp [reluBits]

theorem Core.epiAt_eq (c : Core) (o : TEpi) (r : ShapeRec) (p : Nat) : c.epiAt o r p =
    let w := o.tz.et.width
    let x := c.accElem o.tz o.d (p / r.cols) (p % r.cols)
    let bias := c.elem (vecAt o.b (p % r.cols / (512 / w))) o.tz.et (p % r.cols % (512 / w))
    let biased : Nat × Flags :=
      if o.epi.hasBias then
        if o.tz = .int32 then ((x + bias) % 2 ^ 32, 0)
        else
          let y := fAdd false (o.tz.et.read x) (o.tz.et.read bias)
          let z := o.tz.et.write .rne false y.1
          (z.1, y.2 ||| z.2)
      else (x, 0)
    let negative (x : Nat) : Prop :=
      if o.tz = .int32 then toSigned 32 x < 0 else (o.tz.et.read x).isNaN = false ∧ (o.tz.et.read x).sign = true
    let y := convertElem o.tz.et o.ta (c.rnd o.rm) o.sat (if o.epi.hasRelu ∧ negative biased.1 then 0 else biased.1)
    (y.1, biased.2 ||| y.2) := by
  unfold Core.epiAt Core.epiElem
  rw [Core.groupElem_acc, addBias_eq]
  simp only [reluBits_eq]
  cases o.epi.hasRelu
  · simp only [Bool.false_eq_true, if_false, false_and]
  · simp only [if_true, true_and]

theorem perform_tepi (o : TEpi) (r : ShapeRec) (c : Core) (x : PerfCtx) (op : SeqOp) (hi : op.ins = .tepi o)
    (hn : op.shape = some r) : c.perform x op =
      let f := orAll ((List.range (r.rows * r.cols)).map fun p => (c.epiAt o r p).2)
      if f &&& c.fpEnables != 0 then .fptrap f (f.setWidth 64)
      else match c.storeNext x r.items (Core.putTile r.et.width (fun c p => (c.epiAt o r p).1) c op) with
        | .done c => .done (c.orFlags f)
        | r => r := by
  have hys : (accWindow o.tz (c.rdZ o.d) r).zipIdx.map (fun y => c.epiElem o y.1 (y.2 % r.cols)) =
      (List.range (r.rows * r.cols)).map (c.epiAt o r) := by
    unfold accWindow
    rw [zipIdx_map_range, List.map_map]
    rfl
  have hst : c.storeTransfer x r (((List.range (r.rows * r.cols)).map (c.epiAt o r)).map (·.1)) =
      c.storeNext x r.items (Core.putTile r.et.width (fun c p => (c.epiAt o r p).1) c op) :=
    c.storeTransfer_eq x op r _ _ fun p hp => by
      rw [List.getD_eq_getElem?_getD, List.getElem?_map, List.getElem?_map, List.getElem?_range hp]
      rfl
  have hf : ((List.range (r.rows * r.cols)).map (c.epiAt o r)).map (·.2) =
    (List.range (r.rows * r.cols)).map fun p => (c.epiAt o r p).2 := List.map_map ..
  refine (perform_tile rfl c x hi).trans ?_
  unfold Core.performTile
  rw [hn]
  dsimp only
  rw [← BitVec.ofNat_toNat, ← hst, ← hf, ← hys] <;> rfl

theorem stores_tepi (r : ShapeRec) (o : TEpi) : StoresItems (.tepi o) (fun _ _ op => op.shape = some r)
    (fun _ _ _ => r.items) (Core.putTile r.et.width fun c p => (c.epiAt o r p).1)
    (fun c => ((List.range (r.rows * r.cols)).map fun p => (c.epiAt o r p).2).foldl (· ||| ·) 0) :=
  storesItems_of _ _ _ _ _ rfl (fun _ h => by cases h) (fun s e op hi hn => perform_tepi o r s.core _ op hi hn)
    (Core.putTile_keeps _ _)

/-! ## The load of a tile -/

/-- The core with elements of type `t` in tile `d`. -/
def Core.loadedTile (c : Core) (d : TReg) (t : EType) (xs : List Nat) : Core :=
  c.wrT d (withElems (c.rdT d) (tileStore t) xs)

theorem perform_tld (o : TMem) (r : ShapeRec) (c : Core) (x : PerfCtx) (op : SeqOp) (hi : op.ins = .tld o)
    (hn : op.shape = some r) : c.perform x op = c.readNext x r.et.width r.items fun xs =>
      c.loadedTile o.d r.et (xs.map (·.2)) := by
  refine (perform_tile rfl c x hi).trans ?_
  unfold Core.performTile
  rw [hn]
  rfl

/-- A tile's elements, once they are written. -/
theorem Core.tile_written (c : Core) (d : TReg) (t : TileShape) (xs : List Nat) (e : SeqEntry) (i : Instr) (hs : c.tshape d = t)
    (hf : t.fits = true) (hlen : xs.length = t.rows * t.cols) {u : Core}
    (hu : u = (c.loadedTile d t.et xs).advance e i) :
    (∀ p < t.rows * t.cols, u.tileElem d p = xs.getD p 0 % 2 ^ tileStore t.et) ∧
      (∀ t, t ≠ d → u.rdT t = c.rdT t) ∧ u.regs = { c.regs with t := u.regs.t } := by
  have hle : tileStore t.et * xs.length ≤ 65536 := by
    rw [hlen, Nat.mul_comm]
    exact of_decide_eq_true hf
  have hregs : u.regs = (c.wrT d (withElems (c.rdT d) (tileStore t.et) xs)).regs := by rw [hu, Core.advance_regs]; rfl
  have htshp : u.tile.tshp = c.tile.tshp := by rw [hu, Core.advance_tshp]; rfl
  have hT (t : TReg) := (Core.rdT_congr hregs t).trans (c.rdT_wrT d t _)
  have hus : u.tshape d = t := (Core.tshape_congr htshp d).trans hs
  refine ⟨fun p hp => ?_, fun t ht => (hT t).trans (if_neg ht), by rw [hregs]; rfl⟩
  rw [Core.tileElem_eq _ _ _ (by rw [hus]; exact hp), hus, hT, if_pos rfl]
  exact elemAt_withElems _ _ _ hle p (hlen.symm ▸ hp)

theorem loads_tld (r : ShapeRec) (o : TMem) : LoadsItems (.tld o)
    (fun s _ op => op.shape = some r ∧ s.core.tshape o.d = ⟨r.et, r.rows, r.cols⟩ ∧ (s.core.tshape o.d).fits = true)
    (fun _ _ _ => r.items) r.et.width (fun c _ _ vals u =>
      (∀ p < r.rows * r.cols, u.tileElem o.d p = vals.getD p 0 % 2 ^ tileStore r.et) ∧
      (∀ t, t ≠ o.d → u.rdT t = c.rdT t) ∧ u.regs = { c.regs with t := u.regs.t }) := by
  refine loadsItems_of _ _ _ _ _ (fun c _ _ xs => c.loadedTile o.d r.et (xs.map (·.2))) rfl (fun _ h => by cases h) ?_ ?_
  · intro s e op hi hn
    exact perform_tld o r s.core _ op hi hn.1
  · intro s e op vals hi hn hlen
    dsimp only at hlen ⊢
    have hsnd : (r.items.zip vals).map (·.2) = vals := List.map_snd_zip (Nat.le_of_eq hlen)
    have h := s.core.tile_written o.d ⟨r.et, r.rows, r.cols⟩ vals e op.ins hn.2.1 (hn.2.1 ▸ hn.2.2)
      (hlen.trans r.items_length) rfl
    rw [hsnd]
    exact ⟨rfl, rfl, rfl, h⟩

/-! ## Vector stores -/

theorem stores_vst (o : VSlotOp) : StoresItems (.vst o) (fun _ _ _ => True)
    (fun c e _ => memItems (c.rdQ o.k.q) (slotLocs (e.slots.get o.slot)) (scaleAddrs (e.slots.get o.slot)))
    (Core.putVec o.k o.d) fun _ => 0 :=
  storesItems_vec (i := .vst o) (locs := fun _ e _ => slotLocs (e.slots.get o.slot))
    (scales := fun _ e _ => scaleAddrs (e.slots.get o.slot)) rfl (fun _ h => by cases h)
    fun s e op hi => perform_vst o s.core _ op hi

theorem stores_vstB (o : VBaseOp) : StoresItems (.vstB o) (fun _ _ _ => True)
    (fun c e op => memItems (c.rdQ o.k.q) (baseLocs o.k.et op.sa op.sb e.iter) []) (Core.putVec o.k o.d) fun _ => 0 :=
  storesItems_vec (i := .vstB o) (locs := fun _ e op => baseLocs o.k.et op.sa op.sb e.iter) (scales := fun _ _ _ => []) rfl
    (fun _ h => by cases h) fun s e op hi => perform_vstB o s.core _ op hi

theorem stores_vscatter (o : VIdxOp) : StoresItems (.vscatter o) (fun _ _ _ => True)
    (fun c _ op => memItems (c.rdQ o.k.q) (gatherLocs o.k.et op.sa (c.rdV o.b)) []) (Core.putVec o.k o.d) fun _ => 0 :=
  storesItems_vec (i := .vscatter o) (locs := fun c _ op => gatherLocs o.k.et op.sa (c.rdV o.b)) (scales := fun _ _ _ => []) rfl
    (fun _ h => by cases h) fun s e op hi => perform_vscatter o s.core _ op hi

/-- Settles O22, row by row: what is moved, loaded, stored, multiplied and written into tiles. -/
theorem registerMovesArePerformed : Obligations.RegisterMovesArePerformed := by
  obtain ⟨hmov, hq, hnot, hset, hscl, hz⟩ := moves_rows
  refine ⟨hmov, hq, hnot, hset, hscl, hz, fun o => ⟨loads_vld o, stores_vst o⟩, fun o => ⟨loads_vldB o, stores_vstB o⟩,
    fun o => ⟨loads_vgather o, stores_vscatter o⟩, loads_vlds, fun r => ⟨fun o => ⟨loads_tld r o, stores_tst r o⟩, stores_zst r,
    fun o => ?_⟩, performs_products, performs_tsacc, performs_tzero, performs_ttr⟩
  have h := stores_tepi r o
  simp only [Core.epiAt_eq] at h
  exact h

end Sys2Proof.Machine
end

section
/-! PROOF. The canonical form of memory: the predicate on cores and states, and what the operations of Ops.lean and
CoreOps.lean do to it (O58). -/

namespace Sys2Proof.Machine

/-! ## The predicate -/

/-- The core's local store is in canonical form. -/
def Core.Ok (c : Core) : Prop := c.ls.wf = true

/-- Every memory of the state is in canonical form. -/
def State.Ok (s : State) : Prop :=
  s.core.Ok ∧ (∀ x ∈ s.others, x.2.Ok) ∧ (∀ m ∈ s.saved, m.core.Ok) ∧ s.gmem.wf = true

/-- It ends in a next state whose memories are in canonical form. -/
def Ends (r : Result) : Prop := ∃ t, r = .next t ∧ t.Ok

/-- A change of a core keeps the canonical form. -/
abbrev KeepsOk (f : Core → Core) : Prop := ∀ c, c.Ok → (f c).Ok

theorem State.memOk_iff (s : State) : s.memOk = true ↔ s.Ok := by
  simp only [State.memOk, State.Ok, Core.Ok, Bool.and_eq_true, List.all_eq_true, and_assoc]

@[simp] theorem Core.ok_iff (c : Core) : c.Ok ↔ c.ls.wf = true := Iff.rfl

theorem ends_next {t : State} (h : t.Ok) : Ends (.next t) := ⟨t, rfl, h⟩

theorem ends_ite {p : Prop} [Decidable p] {a b : Result} (ha : Ends a) (hb : Ends b) : Ends (if p then a else b) := by
  split
  · exact ha
  · exact hb

/-! ## Cores by number -/

theorem coreIn_ok {l : List (Nat × Core)} (h : ∀ x ∈ l, x.2.Ok) (cid : Nat) : (coreIn l cid).Ok := by
  induction l with
  | nil => exact Core.wf_reset
  | cons x l ih =>
    unfold coreIn
    split
    · exact h x List.mem_cons_self
    · exact ih fun y hy => h y (List.mem_cons_of_mem x hy)

theorem setCoreIn_ok {l : List (Nat × Core)} (h : ∀ x ∈ l, x.2.Ok) (cid : Nat) {c : Core} (hc : c.Ok) :
    ∀ x ∈ setCoreIn l cid c, x.2.Ok := by
  induction l with
  | nil => simpa [setCoreIn] using hc
  | cons y l ih =>
    obtain ⟨hy, hl⟩ := List.forall_mem_cons.1 h
    unfold setCoreIn
    split
    · exact List.forall_mem_cons.2 ⟨hc, hl⟩
    · exact List.forall_mem_cons.2 ⟨hy, ih hl⟩

namespace State.Ok
variable {s : State} (h : s.Ok)
include h

theorem core : s.core.Ok := h.1
theorem gmem : s.gmem.wf = true := h.2.2.2

theorem coreAt (cid : Nat) : (s.coreAt cid).Ok := by
  unfold State.coreAt
  split
  · exact h.core
  · exact coreIn_ok h.2.1 cid

theorem setCore (cid : Nat) {c : Core} (hc : c.Ok) : (s.setCore cid c).Ok := by
  obtain ⟨h1, h2, h3⟩ := h
  unfold State.setCore
  split
  · exact ⟨hc, h2, h3⟩
  · exact ⟨h1, setCoreIn_ok h2 cid hc, h3⟩

theorem onCore (cid : Nat) {f : Core → Core} (hf : KeepsOk f) : (s.onCore cid f).Ok :=
  h.setCore cid (hf _ (h.coreAt cid))

theorem mapCore {f : Core → Core} (hf : KeepsOk f) : (s.mapCore f).Ok := ⟨hf _ h.core, h.2⟩

theorem withCore {c : Core} (hc : c.Ok) : State.Ok { s with core := c } := ⟨hc, h.2⟩

theorem withGmem {g : Gmem} (hg : g.wf = true) : State.Ok { s with gmem := g } := ⟨h.1, h.2.1, h.2.2.1, hg⟩

theorem withSaved {l : List SavedMember} (hl : ∀ m ∈ l, m.core.Ok) : State.Ok { s with saved := l } :=
  ⟨h.1, h.2.1, hl, h.gmem⟩

theorem withWl (x : Worklist) : State.Ok { s with wl := x } := h
theorem withFabric (x : Fabric) : State.Ok { s with fabric := x } := h
theorem withHub (x : Hub) : State.Ok { s with hub := x } := h
theorem withSound (x : Sound) : State.Ok { s with sound := x } := h
theorem withSce (x : Sce) : State.Ok { s with sce := x } := h
theorem withHost (x : HostSide) : State.Ok { s with host := x } := h

theorem focus (cid : Nat) : (s.focus cid).Ok := by
  unfold State.focus
  split
  · exact h
  · exact ⟨coreIn_ok h.2.1 cid, setCoreIn_ok (fun x hx => h.2.1 x (List.mem_filter.1 hx).1) s.cid h.core, h.2.2⟩

theorem foldl {α : Type} (l : List α) {f : State → α → State} (hf : ∀ s, s.Ok → ∀ x, (f s x).Ok) : (l.foldl f s).Ok := by
  induction l generalizing s with
  | nil => exact h
  | cons x l ih => exact ih (hf s h x)

theorem getD {o : Option State} (ho : ∀ t, o = some t → t.Ok) : (o.getD s).Ok := by
  cases o with
  | none => exact h
  | some t => exact ho t rfl


end State.Ok

theorem State.Ok.ite {p : Prop} [Decidable p] {s t : State} (hs : s.Ok) (ht : t.Ok) : (if p then s else t).Ok := by
  split
  · exact hs
  · exact ht

theorem Core.Ok.ite {p : Prop} [Decidable p] {c d : Core} (hc : c.Ok) (hd : d.Ok) : (if p then c else d).Ok := by
  split
  · exact hc
  · exact hd

theorem Core.Ok.foldl {α : Type} {c : Core} (h : c.Ok) (l : List α) {f : Core → α → Core}
    (hf : ∀ c, c.Ok → ∀ x, (f c x).Ok) : (l.foldl f c).Ok := by
  induction l generalizing c with
  | nil => exact h
  | cons x l ih => exact ih (hf c h x)

/-! ## Operations of one core -/

@[simp] theorem Core.debugStop_ls (c : Core) (n : Nat) (v pc : Word) : (c.debugStop n v pc).ls = c.ls := rfl
@[simp] theorem Core.takeTrap_ls (c : Core) (t : Trap) (epc : Word) : (c.takeTrap t epc).ls = c.ls := by
  unfold Core.takeTrap; split <;> rfl
@[simp] theorem Core.retire_ls (c : Core) (n : Nat) : (c.retire n).ls = c.ls := Core.retireTo_ls c _
@[simp] theorem Core.halt_ls (c : Core) (now : Nat) : (c.halt now).ls = c.ls := rfl
@[simp] theorem Core.record_ls (c : Core) (typ reg : Nat) (x : Word) : (c.record typ reg x).ls = c.ls := by
  unfold Core.record
  split
  · split <;> rfl
  · rfl
@[simp] theorem Core.wrScalar_ls (c : Core) (d : ScalarDst) (x : Word) : (c.wrScalar d x).ls = c.ls := by
  cases d with
  | s r => exact Core.wrS_ls c r x
  | f r => rfl
@[simp] theorem Core.wrElems_ls (c : Core) (r : VReg) (t : EType) (xs : List Nat) : (c.wrElems r t xs).ls = c.ls := rfl
@[simp] theorem Core.afterHold_ls (c : Core) (i : Instr) : (c.afterHold i).ls = c.ls := rfl

theorem Core.Ok.of_ls {c d : Core} (h : c.Ok) (e : d.ls = c.ls) : d.Ok := (congrArg Memory.wf e).trans h

theorem Core.Ok.writeStore {c : Core} (h : c.Ok) (own : Bool) (a : Nat) (bs : List Byte) : (c.writeStore own a bs).Ok :=
  Memory.wf_writeBytes a bs h

theorem Core.Ok.storeN {c : Core} (h : c.Ok) (a n x : Nat) : (c.storeN a n x).Ok := h.writeStore true a _

theorem Core.Ok.writeLoc {c : Core} (h : c.Ok) (l : ElemLoc) (w x : Nat) : (c.writeLoc l w x).Ok := h.storeN _ _ _

theorem Core.withNamed_ls {c d : Core} {a : Word} (h : c.withNamed a = some d) : d.ls = c.ls := by
  have fold (l : List Failure) (c : Core) : (l.foldl Core.noteFailure c).ls = c.ls := by
    induction l generalizing c with
    | nil => rfl
    | cons x l ih => exact (ih _).trans (c.noteFailure_ls x)
  unfold Core.withNamed at h
  dsimp only at h
  split at h
  · split at h <;> cases h
    · rfl
    · exact fold _ _
  · split at h <;> cases h
    rfl

/-! ## How an instruction ends -/

section
variable {s : State} (h : s.Ok) (i : Instr)
include h

theorem ends_done {f : Core → Core} (hf : KeepsOk f) : Ends (done i s f) :=
  ends_next (h.mapCore fun c hc => (hf c hc).of_ls ((f c).retire_ls _))

theorem ends_doneIn : Ends (doneIn i s) := ends_next (h.mapCore fun c hc => hc.of_ls (c.retire_ls _))

theorem ends_waiting : Ends (waiting s) := ends_next h

theorem ends_raise (t : Trap) : Ends (raise t s) :=
  ends_next (h.mapCore fun c hc => by split <;> simpa using hc)

theorem ends_raiseAt (t : Trap) (n : Option Nat) : Ends (raiseAt t n s) :=
  ends_next (h.mapCore fun c hc => by cases n <;> dsimp only <;> split <;> simpa using hc)

end

end Sys2Proof.Machine
end

section
/-! PROOF. The scalar instructions keep the canonical form of memory (O58). -/

namespace Sys2Proof.Machine

section
variable {s : State} (h : s.Ok) (i : Instr)
include h

/-! ## Scalar results -/

theorem ends_putS (d : SReg) (f : Core → Word) : Ends (putS i s d f) := ends_done h i fun c hc => by simpa using hc

theorem ends_commitF (raised : Flags) {w : Core → Core} (hw : KeepsOk w) : Ends (commitF i s raised w) := by
  unfold commitF
  split
  · split
    · exact ends_next h
    · exact ends_raise (h.mapCore (f := fun c => c.orFlags raised) fun c hc => hc) _
  · exact ends_done h i hw

theorem ends_toF (d : FReg) (r : Word × Flags) : Ends (toF i d r s) := ends_commitF h i _ fun _ hc => hc

theorem ends_toS (d : SReg) (r : Word × Flags) : Ends (toS i d r s) :=
  ends_commitF h i _ fun c hc => by simpa using hc

theorem ends_divide (o : AluOp) (sgn quot : Bool) : Ends (divide i o sgn quot s) := by
  unfold divide
  dsimp only
  split
  · exact ends_raise h _
  · exact ends_putS h i _ _

theorem ends_branch (o : BrOp) (cond : Word → Word → Bool) : Ends (branch o cond s) :=
  ends_next (h.mapCore fun c hc => by split <;> simpa using hc)

theorem ends_jump (d : SReg) (len : Nat) (f : Core → Word) : Ends (jump d len f s) :=
  ends_next (h.mapCore fun c hc => by simpa using hc)

/-! ## Local memory -/

theorem ends_afterWait (w : WaitSel) {k : Result} (hk : Ends k) : Ends (afterWait w s k) := by
  unfold afterWait
  split
  · exact hk
  · exact ends_waiting h

theorem ends_loadWith (ea : Word) (n : Nat) {w : Nat → Core → Core} (hw : ∀ x, KeepsOk (w x)) :
    Ends (loadWith i ea n s w) := by
  unfold loadWith
  split
  · exact ends_raise h _
  · exact ends_done h i fun c hc => hw _ c hc

theorem ends_storeWith (ea : Word) (n : Nat) (x : Word) : Ends (storeWith i ea n x s) := by
  unfold storeWith
  split
  · exact ends_raise h _
  · exact ends_done h i fun c hc => hc.storeN _ _ _

theorem ends_readPieces (a n : Nat) {k : List Byte → Result} (hk : ∀ bs, Ends (k bs)) : Ends (readPieces i a n s k) := by
  unfold readPieces
  dsimp only
  split
  · exact hk _
  · exact ends_next h

theorem ends_ld (o : LdOp) : Ends (execLd o s) :=
  ends_afterWait h _ (ends_loadWith h _ _ _ fun _ c hc => by simpa using hc)

theorem ends_st (o : StOp) : Ends (execSt o s) := ends_afterWait h _ (ends_storeWith h _ _ _ _)

theorem ends_fld (o : FMemOp) : Ends (execFld o s) := ends_afterWait h _ (ends_loadWith h _ _ _ fun _ _ hc => hc)

theorem ends_fst (o : FMemOp) : Ends (execFst o s) := ends_afterWait h _ (ends_storeWith h _ _ _ _)

theorem ends_lamo (k : AmoKind) (o : LamoOp) : Ends (lamo i k o s) := by
  unfold lamo
  refine ends_afterWait h _ ?_
  split
  · exact ends_raise h _
  · refine ends_done h i fun c hc => ?_
    dsimp only
    split
    · exact (hc.storeN _ _ _).of_ls (Core.wrS_ls _ _ _)
    · exact hc.of_ls (Core.wrS_ls _ _ _)

/-! ## Control -/

theorem ends_isync : Ends (execIsync s) := by
  unfold execIsync
  split
  · exact ends_next h
  · exact ends_done h _ fun _ hc => hc

theorem ends_wfe : Ends (execWfe s) := by
  unfold execWfe
  split
  · exact ends_doneIn h _
  · split
    · exact ends_done h _ fun _ hc => hc
    · exact ends_waiting h

end

@[simp] theorem Core.resumeLoop_ls (c : Core) : c.resumeLoop.ls = c.ls := by
  unfold Core.resumeLoop
  split
  · rfl
  · dsimp only
    split <;> rfl

theorem ends_kret {s : State} (h : s.Ok) : Ends (execKret s) := by
  unfold execKret
  split
  · exact ends_raise h _
  · split
    · exact ends_raise h _
    · split
      · exact ends_waiting h
      · exact ends_next (h.mapCore fun c hc => by simpa using hc)

end Sys2Proof.Machine
end

section
/-! PROOF. Sending and answering, and the issue of vector instructions, keep the canonical form of memory (O58). -/

namespace Sys2Proof.Machine

/-! ## Sending, answering, notes -/

namespace State.Ok
variable {s : State} (h : s.Ok)
include h

theorem onPort (k : Nat) (f : Port → Port) : (s.onPort k f).Ok := by
  unfold State.onPort
  split <;> exact h

theorem transmit {pkg : Nat} {o : Bool} {b : FlitBody} (t : State) (ht : s.transmit pkg o b = some t) : t.Ok := by
  unfold State.transmit at ht
  obtain ⟨k, -, rfl⟩ := Option.map_eq_some_iff.1 ht
  exact h.onPort k _

theorem transmitOrPark (pkg : Nat) (o : Bool) (b : FlitBody) : (s.transmitOrPark pkg o b).Ok :=
  State.Ok.getD (s := { s with fabric := { s.fabric with parked := s.fabric.parked ++ [(pkg, o, b)] } }) h h.transmit

theorem answer (r : Reply) : (s.answer r).Ok := by
  unfold State.answer
  split
  · exact h
  · exact h.getD h.transmit

theorem nack (p : Packet) (cause : Nat) : (s.nack p cause).Ok := h.answer _

theorem ack (p : Packet) : (s.ack p).Ok := h.answer _

theorem send (p : Packet) : (s.send p).Ok := by
  unfold State.send
  split
  · exact h.nack _ _
  · split
    · exact h
    · exact (h.nack _ _).getD h.transmit

theorem issue (kind : OutKind) (dst : Nat) (o : Bool) (a : Word) (pk : PktKind) : (s.issue kind dst o a pk).Ok :=
  State.Ok.send (s := { s with
    core := s.core.issueOut ⟨s.tags, kind, .core dst, reachOf s.cid dst, s.core.pc, a⟩
    tags := s.tags + 1 }) h _

theorem tellSce {slot : Nat} {a : Arrival} {n : SceNote} (t : State) (ht : s.tellSce slot a n = some t) : t.Ok := by
  unfold State.tellSce at ht
  split at ht
  · cases ht
  · dsimp only at ht
    split at ht
    · cases ht; exact h
    · exact h.transmit t ht

theorem withdrawAt (cid : Nat) : (s.withdrawAt cid).Ok := by
  unfold State.withdrawAt
  dsimp only
  have h' : (s.onCore cid fun c => { c with sce := { c.sce with phase := .none } }).Ok := h.onCore cid fun _ hc => hc
  split
  · split
    · exact h'
    · exact h'.getD h'.tellSce
  · exact h

theorem onCores (cids : List Nat) {f : Core → Core} (hf : KeepsOk f) : (s.onCores cids f).Ok :=
  h.foldl cids fun _ h cid => h.onCore cid hf

theorem retireTask (cid : Nat) : (s.retireTask cid).Ok := by
  unfold State.retireTask
  split
  · exact h
  · exact State.Ok.onCore h cid (f := fun c => { c with wl := { c.wl with running := none } }) fun _ hc => hc

end State.Ok

/-! ## Issue to the sequencer -/

theorem Core.issueVec_ls {c d : Core} {i : Instr} (h : c.issueVec i = .ok d) : d.ls = c.ls := by
  unfold Core.issueVec at h
  dsimp only at h
  split at h
  · cases h
  · split at h <;> cases h
    rfl

theorem Core.issueLoop_ls {c d : Core} {body : List SeqOp} {n : Nat} (h : c.issueLoop body n = .ok d) : d.ls = c.ls := by
  unfold Core.issueLoop at h
  split at h
  · cases h
  · split at h
    · cases h; rfl
    · split at h <;> cases h
      rfl

section
variable {s : State} (h : s.Ok) (i : Instr)
include h

theorem ends_stalled : Ends (stalled s) := ends_next h

theorem ends_drained {k : Result} (hk : Ends k) : Ends (drained s k) := by
  unfold drained
  split
  · exact hk
  · exact ends_stalled h

theorem ends_issueV : Ends (issueV i s) := by
  unfold issueV
  refine ends_afterWait h _ ?_
  split
  · exact ends_waiting h
  · split
    · next c hc => exact ends_next (h.withCore (by simpa [Core.issueVec_ls hc] using h.core))
    · exact ends_raiseAt h _ _

theorem ends_issueIdx : Ends (issueIdx i s) := by
  unfold issueIdx
  split
  · exact ends_issueV h i
  · exact ends_stalled h

theorem ends_commitScalar (raised : Flags) (mask : Word) {w : Core → Core} (hw : KeepsOk w) :
    Ends (commitScalar i s raised mask w) := by
  unfold commitScalar
  split
  · split
    · exact ends_next h
    · exact ends_raiseAt (h.mapCore (f := fun c => c.orFlags raised) fun c hc => hc) _ _
  · exact ends_done h i hw

theorem ends_reduction (k : VCtl) (d : ScalarDst) (r : Word × Flags) : Ends (reduction i k d r s) :=
  ends_drained h (ends_commitScalar h i _ _ fun c hc => by simpa using hc)

theorem ends_vmvs (o : SFromV) : Ends (execVmvs o s) := ends_drained h (ends_done h _ fun c hc => by simpa using hc)
theorem ends_vmvf (o : FFromV) : Ends (execVmvf o s) := ends_drained h (ends_commitScalar h _ _ _ fun _ hc => hc)
theorem ends_qget (o : SQn) : Ends (execQget o s) := ends_drained h (ends_done h _ fun c hc => by simpa using hc)
theorem ends_qpopc (o : SQ) : Ends (execQpopc o s) := ends_drained h (ends_done h _ fun c hc => by simpa using hc)
theorem ends_vsclget (o : VSclGet) : Ends (execVsclget o s) :=
  ends_drained h (ends_done h _ fun c hc => by simpa using hc)

theorem ends_vsync : Ends (execVsync s) := by
  unfold execVsync
  split
  · exact ends_stalled h
  · exact ends_drained h (ends_doneIn h _)

theorem ends_withRecord (a : Word) {k : Nat → Result} (hk : ∀ x, Ends (k x)) : Ends (withRecord i a s k) := by
  unfold withRecord
  split
  · exact ends_raise h _
  · exact ends_readPieces h i _ _ fun _ => hk _

theorem ends_vsetsh (slot : Slot) (a : SReg) : Ends (execVsetsh slot a s) := by
  unfold execVsetsh
  dsimp only
  split
  · exact ends_stalled h
  · refine ends_withRecord h _ _ fun x => ?_
    split
    · exact ends_raise h _
    · exact ends_done h _ fun _ hc => hc

theorem ends_vitr (d : SReg) (slot : Slot) : Ends (execVitr d slot s) := ends_done h _ fun c hc => by simpa using hc

theorem ends_vshget (d : SReg) (slot : Slot) (f : Fin 8) : Ends (execVshget d slot f s) :=
  ends_done h _ fun c hc => by simpa using hc

theorem ends_vloop (o : VLoopOp) : Ends (execVloop o s) := by
  unfold execVloop
  dsimp only
  split
  · exact ends_raise h _
  · split
    · exact ends_raise h _
    · split
      · exact ends_stalled h
      · split
        · exact ends_waiting h
        · split
          · exact ends_raiseAt h _ _
          · next c hc => exact ends_next (h.withCore (by simpa [Core.issueLoop_ls hc] using h.core))

theorem ends_fetchFault : Ends (execFetchFault s) := by
  unfold execFetchFault
  split
  · exact ends_raise h _
  · exact ends_next h

theorem ends_illegalEncoding : Ends (execIllegalEncoding s) := by
  unfold execIllegalEncoding
  split
  · exact ends_raise h _
  · exact ends_next h

end

end Sys2Proof.Machine
end

section
/-! PROOF. System registers and remote accesses keep the canonical form of memory (O58). -/

namespace Sys2Proof.Machine

theorem Core.writeTshp_ls {c d : Core} {t : TReg} {x : Word} (h : c.writeTshp t x = some d) : d.ls = c.ls := by
  unfold Core.writeTshp at h
  dsimp only at h
  split at h
  · cases h
  · split at h <;> cases h
    split <;> rfl

theorem State.Ok.wlStore {s : State} (h : s.Ok) {r : SysReg} {x : Word} {t : State} (ht : s.wlStore r x = .ok t) :
    t.Ok := by
  unfold State.wlStore at ht
  split at ht <;> cases ht
  exact h

theorem State.Ok.wlWrite {s : State} (h : s.Ok) {r : SysReg} {x : Word} {t : State} (ht : s.wlWrite r x = .ok t) :
    t.Ok := by
  unfold State.wlWrite at ht
  split at ht
  · cases ht
  · exact h.wlStore ht

/-- A write of a system register that is accepted keeps the canonical form. -/
theorem State.Ok.writeSys {s : State} (h : s.Ok) {r : SysReg} {x : Word} {t : State} (ht : s.writeSys r x = .ok t) :
    t.Ok := by
  unfold State.writeSys at ht
  split at ht
  · cases ht
  · cases r with
    | status | epc | cause | tval | tvec | kscratch | ienable | ipend | ubase | ulimit | fpflags | cycle | instret
    | afault | afpc | afaddr | rngkey | rngstep | fit | gbase | glen | sndstat => cases ht; exact h
    | cid | stage | clause | gangpos | gangshape | ctx | seqpos | cntld | cntst | cntcp | cnttl | stcl | stpk | stfb
    | xdone | xnext | mbox | genno | gstat | wlstat | ibcount => cases ht
    | wlbound | wlshift | wlxint | wlstall => exact h.wlWrite ht
    | fpctl | ibctl | trctl =>
      dsimp only at ht
      split at ht <;> cases ht
      exact h
    | tshp n =>
      dsimp only at ht
      split at ht
      · next c hc => cases ht; exact h.withCore (h.core.of_ls (Core.writeTshp_ls hc))
      · cases ht

/-- So does a write of a system register by the host. -/
theorem State.Ok.hostSys {s : State} (h : s.Ok) {r : SysReg} {x : Word} {t : State} (ht : s.hostSys r x = .ok t) :
    t.Ok := by
  unfold State.hostSys at ht
  split at ht
  case h_5 => exact h.writeSys ht
  all_goals exact h.wlStore ht

theorem Core.transcribe_ls {c d : Core} {num : Nat} {early : Word → Bool} {live x : Word}
    (h : c.transcribe num early live = .value x d) : d.ls = c.ls := by
  unfold Core.transcribe at h
  split at h
  · split at h
    · split at h
      · cases h; rfl
      · split at h <;> cases h
        rfl
    · cases h; rfl
  · cases h; exact c.record_ls _ _ _

@[simp] theorem Core.startCount_ls (c : Core) (r : SysReg) : (c.startCount r).ls = c.ls := by
  unfold Core.startCount
  split <;> rfl

section
variable {s : State} (h : s.Ok) (i : Instr)
include h

theorem ends_readReg (d : SReg) (r : SysReg) : Ends (readReg i d r s) := by
  unfold readReg
  split
  · exact ends_stalled h
  · dsimp only
    split
    · split
      · exact ends_waiting h
      · next x c hc =>
        exact ends_done (h.withCore (h.core.of_ls (Core.transcribe_ls hc))) i fun c hc => by simpa using hc
    · exact ends_done h i fun c hc => by simpa using hc

theorem ends_writeReg (r : SysReg) (a : SReg) : Ends (writeReg i r a s) := by
  unfold writeReg
  split
  · exact ends_stalled h
  · split
    · next t ht => exact ends_next ((h.writeSys ht).mapCore fun c hc => by simpa using hc)
    · exact ends_raise h _
    · exact ends_raise h _

theorem ends_withReg (ok : SysReg → Bool) {k : SysReg → SReg → Result} (hk : ∀ r x, Ends (k r x)) :
    Ends (withReg ok s k) := by
  unfold withReg
  split
  · split
    · exact hk _ _
    · exact ends_next h
  · exact ends_next h

/-! ## Remote accesses -/

theorem ends_postStore (ea : Word) (n x : Nat) (o : Bool) : Ends (postStore i ea n x o s) := by
  unfold postStore
  split
  · exact ends_raise h _
  · split
    · exact ends_waiting h
    · exact ends_doneIn (h.issue _ _ _ _ _) i

theorem ends_rst (o : RstOp) : Ends (execRst o s) := ends_afterWait h _ (ends_postStore h _ _ _ _ _)

theorem ends_rstv (o : RstvOp) : Ends (execRstv o s) :=
  ends_afterWait h _ (ends_drained h (ends_postStore h _ _ _ _ _))

theorem ends_rld (o : RldOp) : Ends (execRld o s) := by
  refine ends_afterWait h _ ?_
  split
  · exact ends_raise h _
  · split
    · exact ends_waiting h
    · exact ends_doneIn (h.issue _ _ _ _ _) _

theorem ends_ramo (o : RamoOp) : Ends (execRamo o s) := by
  refine ends_afterWait h _ ?_
  split
  · exact ends_raise h _
  · exact ends_ite (ends_waiting h) (ends_doneIn (h.issue _ _ _ _ _) _)

theorem ends_sendMsg (d : SReg) (o : Bool) (a : Word) (ws : List Word) (p : Option Payload) :
    Ends (sendMsg i d o a ws p s) := by
  unfold sendMsg
  split
  · exact ends_waiting h
  · exact ends_doneIn (h.issue _ _ _ _ _) i

theorem ends_plainMsg (o : MsgOp) (n : Nat) : Ends (plainMsg i o n s) := by
  refine ends_afterWait h _ ?_
  split
  · exact ends_raise h _
  · exact ends_sendMsg h i _ _ _ _ _

theorem ends_amsgp (o : MsgPayOp) : Ends (execAmsgp o s) := by
  refine ends_afterWait h _ (ends_drained h ?_)
  split
  · exact ends_raise h _
  · split
    · exact ends_waiting h
    · exact ends_readPieces h _ _ _ fun _ => ends_sendMsg h _ _ _ _ _ _

theorem ends_mint (a : SReg) (cause : Fin 6) : Ends (execMint a cause s) := by
  unfold execMint
  dsimp only
  split
  · exact ends_raise h _
  · split
    · exact ends_waiting h
    · exact ends_doneIn (h.issue _ _ _ _ _) _

theorem ends_bfree (a : SReg) : Ends (execBfree a s) := by
  unfold execBfree
  dsimp only
  split
  · exact ends_raise h _
  · exact ends_drained h (ends_doneIn (h.send _) _)

/-! ## Reports of failures -/

theorem ends_reportLive (cov : Bool) {k : Result} (hk : Ends k) : Ends (reportLive cov s k) := by
  unfold reportLive
  split
  · exact hk
  · split
    · exact ends_next h
    · exact ends_raise (h.mapCore fun c hc => by simpa using hc) _

theorem ends_reportOr (cov : Bool) {k : Result} (hk : Ends k) : Ends (reportOr cov s k) := by
  unfold reportOr
  split
  · split
    · split
      · exact ends_waiting h
      · next c hc =>
        split
        · exact ends_next h
        · exact ends_raise (h.withCore (c := c.consume) (h.core.of_ls (Core.withNamed_ls hc :))) _
    · split
      · exact ends_reportLive (s := s.diverge) h _ hk
      · exact hk
  · exact ends_reportLive h _ hk

theorem ends_wait (o : WaitOp) : Ends (execWait o s) := by
  unfold execWait
  split
  · exact ends_waiting h
  · exact ends_reportOr h _ (ends_doneIn h _)

theorem ends_fence (sc : FenceScope) : Ends (fence i sc s) := by
  unfold fence
  split
  · exact ends_waiting h
  · exact ends_reportOr h _ (ends_doneIn h i)

end

end Sys2Proof.Machine
end

section
/-! PROOF. Accesses to global memory keep its canonical form (O58). -/

namespace Sys2Proof.Machine

/-- The memory that an access leaves, where it changes any, is in canonical form. -/
def Access_.Ok : Access_ → Prop
  | .done g _ | .bad g _ => g.wf = true
  | _ => True

/-- The memory that a read of several chunks leaves is in canonical form. -/
def ReadOutcome.Ok : ReadOutcome → Prop
  | .done g _ | .fault g _ _ | .fail g _ _ => g.wf = true
  | .held => True

namespace Gmem
variable {g : Gmem} (h : g.wf = true)
include h

theorem readChunk_ok (ctx va : Nat) (hit : Bool) : (g.readChunk ctx va hit).Ok := by
  unfold Gmem.readChunk
  split
  · trivial
  · trivial
  · trivial
  · next g1 f ht =>
    have hr (z : Bool) : ((g1.count va f (vaChunk va) false z hit).repair f (vaChunk va) hit).wf = true :=
      Gmem.wf_repair _ (g1.wf_count (g.wf_translate g1 h ctx va false f ht) _ _ _ _ _ _) _ _ _
    dsimp only
    split <;> exact hr _

theorem fetchChunk_ok (ctx va : Nat) (hit : Bool) : (g.fetchChunk ctx va hit).Ok := by
  unfold Gmem.fetchChunk
  have h1 := g.readChunk_ok h ctx va hit
  split
  · next g1 p e => exact readChunk_ok (g := g1) (by rw [e] at h1; exact h1) ctx va hit
  · exact h1

theorem writeChunk_ok (ctx va : Nat) (bs : List Byte) (hit hitW : Bool) : (g.writeChunk ctx va bs hit hitW).Ok := by
  cases e : g.writeChunk ctx va bs hit hitW with
  | done g' out => exact g.wf_writeChunk g' h ctx va bs hit hitW out e
  | bad g' p =>
    unfold Gmem.writeChunk at e
    split at e
    · cases e
    · cases e
    · cases e
    · next g1 f ht =>
      have h1 := g.wf_translate g1 h ctx va true f ht
      dsimp only at e
      split at e
      · cases e
      · split at e
        · next g2 e2 => cases e; exact (congrArg (·.1.wf) e2).symm.trans (g1.wf_fetchTwice h1 va f _ hit)
        · cases e
  | fault r => trivial
  | fail r => trivial
  | held => trivial

theorem readRange_ok (ctx : Nat) (hit twice : Bool) (fuel va n : Nat) (acc : List Byte) :
    (g.readRange ctx hit twice fuel va n acc).Ok := by
  induction fuel generalizing g va n acc with
  | zero => exact h
  | succ fuel ih =>
    unfold Gmem.readRange
    split
    · exact h
    · have h1 : (if twice then g.fetchChunk ctx va hit else g.readChunk ctx va hit).Ok := by
        split
        · exact g.fetchChunk_ok h ctx va hit
        · exact g.readChunk_ok h ctx va hit
      split
      · exact h
      · exact h
      · trivial
      · next e => rw [e] at h1; exact h1
      · next e => rw [e] at h1; exact ih h1 _ _ _

theorem wf_makeWrite (w : HubWrite) (hit hitW : Bool) : (g.makeWrite w hit hitW).wf = true := by
  have h1 := g.writeChunk_ok h w.ctx w.va w.bytes hit hitW
  unfold Gmem.makeWrite
  split
  · next e => rw [e] at h1; exact h1
  · next e => rw [e] at h1; exact h1
  · exact h
  · exact h
  · exact h

theorem wf_makeWrites (hit hitW : Bool) : (g.makeWrites hit hitW).wf = true := by
  have fold (l : List HubWrite) (g : Gmem) (h : g.wf = true) :
      (l.foldl (fun g w => g.makeWrite w hit hitW) g).wf = true := by
    induction l generalizing g with
    | nil => exact h
    | cons w l ih => exact ih _ (wf_makeWrite h w hit hitW)
  exact fold g.writes { g with writes := [] } h

theorem wf_firmwareSet {roots : List (Nat × Nat)} {es : List (Nat × Word)} {g' : Gmem}
    (e : g.firmwareSet roots es = some g') : g'.wf = true := by
  have fold (l : List Mapping) (g : Gmem) (h : g.wf = true) :
      (l.foldl (fun g m => g.shoot m.ctx m.va (pageSize m.lvl)) g).wf = true := by
    induction l generalizing g with
    | nil => exact h
    | cons m l ih => exact ih _ (g.wf_shoot h _ _ _)
  unfold Gmem.firmwareSet at e
  dsimp only at e
  split at e <;> cases e
  exact fold _ _ (g.wf_setEntries h es)

end Gmem

namespace State.Ok
variable {s : State} (h : s.Ok)
include h

theorem flushWrites : s.flushWrites.Ok := by
  unfold State.flushWrites
  split
  · exact h
  · exact h.withGmem (Gmem.wf_makeWrites h.gmem _ _)

theorem pokeRecord (ctx va : Nat) (bs : List Byte) : (s.pokeRecord ctx va bs).Ok := by
  unfold State.pokeRecord
  dsimp only
  exact State.Ok.flushWrites (s := { s with gmem := { s.gmem with writes := _ } }) h

theorem readGlobal (ctx va n : Nat) : (s.readGlobal ctx va n).Ok := Gmem.readRange_ok h.gmem _ _ _ _ _ _ _

end State.Ok

end Sys2Proof.Machine
end

section
/-! PROOF. Handlers and the worklist keep the canonical form of memory (O58). -/

namespace Sys2Proof.Machine

/-! ## Dispatch of messages -/

@[simp] theorem Core.noteDispatch_ls (c : Core) (typ : Nat) (x : Word) : (c.noteDispatch typ x).ls = c.ls := by
  unfold Core.noteDispatch
  split
  · rfl
  · exact c.record_ls _ _ _

section
variable {s : State} (h : s.Ok)
include h

theorem ends_dispatch (m : Msg) (rest : List Msg) (hres : Word) (yleft : Option Nat) (retired : Bool) :
    Ends (dispatch m rest hres yleft retired s) := by
  unfold dispatch
  refine ends_ite (ends_next (h.mapCore fun c hc => ?_)) (ends_ite (ends_next h) (ends_next ?_))
  · cases retired <;> simpa using hc
  · exact (h.answer _).mapCore fun c hc => by simpa using hc

theorem ends_yieldTo (n : Nat) (m : Msg) (rest : List Msg) : Ends (yieldTo n m rest s) := by
  unfold yieldTo
  dsimp only
  split
  · exact ends_dispatch h _ _ _ _ _
  · exact ends_ite (ends_dispatch h _ _ _ _ _) (ends_dispatch h _ _ _ _ _)

theorem ends_yieldEmpty (i : Instr) : Ends (yieldEmpty i s) :=
  ends_ite (ends_stalled h) (ends_done h i fun _ hc => hc)

theorem ends_yield (n : Nat) : Ends (execYield n s) := by
  refine ends_ite (ends_raise h _) ?_
  split
  · exact ends_yieldTo h _ _ _
  · exact ends_ite (ends_waiting h) (ends_yieldEmpty h _)
  · dsimp only
    split
    · exact ends_yieldTo (s := s.diverge) h _ _ _
    · exact ends_yieldEmpty h _


theorem ends_serveIdle : Ends (serveIdle s) := by
  refine ends_ite (ends_doneIn h _) (ends_next (h.mapCore fun c hc => ?_))
  dsimp only
  split <;> exact hc

theorem ends_serve : Ends (execServe s) := by
  have hw : s.serveWait.Ok := h.mapCore fun c hc => by split <;> exact hc
  refine ends_ite (ends_raise h _) ?_
  split
  · exact ends_dispatch h _ _ _ _ _
  · exact ends_ite (ends_next hw) (ends_serveIdle h)
  · dsimp only
    split
    · exact ends_dispatch (s := s.diverge) h _ _ _ _ _
    · exact ends_serveIdle (s := s.diverge) h

theorem ends_hret : Ends (execHret s) := by
  refine ends_ite (ends_raise h _) (ends_next ((h.retireTask _).mapCore fun c hc => ?_))
  simpa [Core.unshadow] using hc

end

/-! ## The worklist's state -/

namespace State.Ok
variable {s : State} (h : s.Ok)
include h

theorem setWl (w : Worklist) : (s.setWl w).Ok :=
  State.Ok.foldl (s := { s with wl := w }) h _ fun _ h _ => h.pokeRecord _ _ _

theorem onOwners {f : Core → Core} (hf : KeepsOk f) : (s.onOwners f).Ok := by
  have h1 := h.onCores s.ownerCores hf
  refine h1.withSaved fun m hm => ?_
  obtain ⟨m0, hm0, rfl⟩ := List.mem_map.1 hm
  have h0 := h1.2.2.1 m0 hm0
  split
  · exact hf _ h0
  · exact h0

theorem sendAll (pkgs : List Nat) (b : FlitBody) : (s.sendAll pkgs b).Ok :=
  h.foldl pkgs fun _ h _ => h.transmitOrPark _ _ _

theorem armHere : s.armHere.Ok :=
  h.onOwners (f := fun c => { c with wl := { c.wl with term := false } }) fun _ hc => hc

theorem arm : s.arm.Ok := by
  unfold State.arm
  split
  · exact h
  · exact h.armHere.sendAll _ _

theorem armedElsewhere (epoch : Nat) : (s.armedElsewhere epoch).Ok := by
  unfold State.armedElsewhere
  split
  · exact State.Ok.ite h h.armHere
  · exact State.Ok.ite h h

theorem announceTo (pkgs : List Nat) (a : WlAnnounce) : (s.announceTo pkgs a).Ok :=
  h.foldl pkgs fun _ h _ => h.getD h.transmit

theorem inboxAt {k : Nat} {b : FlitBody} {t : State} (e : s.inboxAt k = some (b, t)) : t.Ok := by
  obtain ⟨x, -, hx⟩ := Option.map_eq_some_iff.1 e
  cases hx
  exact h

theorem terminate : s.terminate.Ok := by
  have h1 : (s.onOwners fun c => ({ c with wl := { c.wl with term := true } }).pend 4).Ok := h.onOwners fun _ hc => hc
  unfold State.terminate
  dsimp only
  exact State.Ok.ite (h1.withWl _).armHere h1

theorem ended (epoch : Nat) : (s.ended epoch).Ok := by
  have h1 : ({ s with wl := { s.wl with epoch := epoch } } : State).terminate.Ok := State.Ok.terminate h
  exact State.Ok.ite h1 h1.arm

theorem startWave : s.startWave.Ok := (h.withWl _).sendAll _ _

theorem answerWave : s.answerWave.Ok := by
  unfold State.answerWave
  split
  · exact h
  · exact State.Ok.ite h (State.Ok.ite h ((h.withWl _).sendAll _ _))

theorem nextWave : s.nextWave.Ok := by
  unfold State.nextWave
  exact State.Ok.ite h.startWave (State.Ok.ite (h.withWl _).startWave h)

end State.Ok

@[simp] theorem Core.startTask_ls (c : Core) (w : Worklist) (t : Task) : (c.startTask w t).ls = c.ls := by
  unfold Core.startTask
  dsimp only
  split <;> split <;> simp [Core.diverged]

/-! ## The worklist's instructions -/

section
variable {s : State} (h : s.Ok)
include h

theorem ends_wlpush (o : WlpushOp) : Ends (execWlpush o s) := by
  refine ends_afterWait h _ (ends_ite (ends_raise h _) ?_)
  dsimp only
  split
  · exact ends_raise h _
  · exact ends_done (h.setWl _).arm _ fun c hc => Core.Ok.ite hc hc

theorem ends_wlwait : Ends (execWlwait s) :=
  ends_ite (ends_raise h _) (ends_ite (ends_raise h _) (ends_ite (ends_doneIn h _)
    (ends_ite (ends_raise h _) (ends_waiting h))))

/-! ## The worklist's steps -/

theorem ends_wlCountIncrement : Ends (execWlCountIncrement s) := by
  unfold execWlCountIncrement
  split
  · split <;> exact ends_next h
  · exact ends_next h

theorem ends_wlCountDecrement : Ends (execWlCountDecrement s) := by
  unfold execWlCountDecrement
  split
  · split
    · exact ends_next h
    · exact ends_ite (ends_next h) (ends_next h)
  · exact ends_next h

theorem ends_wlFloorReceive : Ends (execWlFloorReceive s) := by
  unfold execWlFloorReceive
  split
  · split <;> exact ends_next h
  · exact ends_next h

theorem ends_wlSliceSpill : Ends (execWlSliceSpill s) := by
  unfold execWlSliceSpill
  split
  · refine ends_ite (ends_next h) ?_
    split
    · exact ends_next h
    · exact ends_next (h.setWl _)
  · exact ends_next h

theorem ends_wlRefill : Ends (execWlRefill s) := by
  unfold execWlRefill
  split
  · exact ends_ite (ends_next h) (ends_next h)
  · exact ends_next h

theorem ends_wlMove : Ends (execWlMove s) := by
  unfold execWlMove
  split
  · exact ends_ite (ends_next h) (ends_next h)
  · exact ends_next h

theorem ends_wlFloorExchange : Ends (execWlFloorExchange s) :=
  ends_ite (ends_next h) (ends_next ((h.withWl _).announceTo _ _))

theorem ends_wlAnnounceReceive : Ends (execWlAnnounceReceive s) := by
  unfold execWlAnnounceReceive
  split
  · split
    · next e => exact ends_next (h.inboxAt e :)
    · next e => exact ends_next (((h.inboxAt e).armedElsewhere _).ite h)
    · exact ends_next h
  · exact ends_next h

theorem ends_wlStealRequest : Ends (execWlStealRequest s) := by
  refine ends_ite (ends_next h) ?_
  split
  · exact ends_next h
  · split
    · exact ends_next h
    · next t e => exact ends_next (h.transmit t e :)

theorem ends_wlStealAnswer : Ends (execWlStealAnswer s) := by
  unfold execWlStealAnswer
  split
  · exact ends_next h
  · dsimp only
    split
    · exact ends_next h
    · next t e => exact ends_next (h.transmit t e :)

theorem ends_wlStealReceive : Ends (execWlStealReceive s) := by
  unfold execWlStealReceive
  split
  · exact ends_ite (ends_next h) (ends_next h)
  · exact ends_next h

theorem ends_wlFabricLeave : Ends (execWlFabricLeave s) := by
  unfold execWlFabricLeave
  split
  · exact ends_ite (ends_ite (ends_next h) (ends_next h)) (ends_ite (ends_next h) (ends_next h))
  · exact ends_next h

theorem ends_wlTermination : Ends (execWlTermination s) := by
  unfold execWlTermination
  dsimp only
  split
  · split
    · next e => exact ends_next (((h.inboxAt e).ended _).ite h)
    · exact ends_next h
  · exact ends_ite (ends_ite (ends_next h.terminate) (ends_next h))
      (ends_ite (ends_next ((h.ended _).sendAll _ _)) (ends_next h))

theorem ends_wlTerminationWave : Ends (execWlTerminationWave s) := by
  unfold execWlTerminationWave
  split
  · split
    · next e => exact ends_next (h.inboxAt e :)
    · next e => exact ends_next (State.Ok.ite (h.inboxAt e :) h)
    · exact ends_next h
  · exact ends_ite (ends_next h) (ends_ite (ends_next h.answerWave) (ends_ite (ends_next h.nextWave) (ends_next h)))

theorem ends_wlStallExpiry : Ends (execWlStallExpiry s) := by
  have h1 : (s.onOwners fun c => { c with wl := { c.wl with stall := true } }).Ok := h.onOwners fun _ hc => hc
  exact ends_ite (ends_next h)
    (ends_next (State.Ok.onCores h1 s.stallTargets (f := fun c => c.pendWatchdog 1) fun _ hc => hc :))

theorem ends_worklistEnable : Ends (execWorklistEnable s) := by
  unfold execWorklistEnable
  split
  · exact ends_ite (ends_next h) (ends_next h)
  · exact ends_next h

theorem ends_worklistEmpty : Ends (execWorklistEmpty s) := ends_next h

end

end Sys2Proof.Machine
end

section
/-! PROOF. What the sequencer performs keeps the canonical form of memory (O58). -/

namespace Sys2Proof.Machine

/-- The core that a performance leaves, where it leaves one, is in canonical form. -/
def PerfRes.Ok : PerfRes → Prop
  | .done c | .more c _ => c.Ok
  | _ => True

theorem Core.foldl_ls {α : Type} {f : Core → α → Core} (hf : ∀ c x, (f c x).ls = c.ls) (l : List α) (c : Core) :
    (l.foldl f c).ls = c.ls := by
  induction l generalizing c with
  | nil => rfl
  | cons x l ih => exact (ih _).trans (hf c x)

@[simp] theorem Core.wrQuant_ls (c : Core) (d : VReg) (t : EType) (xs : List Nat) (scales : List (BitVec 20)) :
    (c.wrQuant d t xs scales).ls = c.ls := by
  unfold Core.wrQuant
  refine Core.foldl_ls (fun c x => ?_) _ _
  rfl

namespace Core.Ok
variable {c : Core} (h : c.Ok)
include h

/-! ## Vector instructions -/

theorem commit (raised : Flags) (v : Word) {w : Core → Core} (hw : KeepsOk w) : (c.commit raised v w).Ok := by
  unfold Core.commit
  split
  · trivial
  · exact hw c h

theorem mapV (k : VCtl) (d : VReg) (f : Nat → Nat × Flags) : (c.mapV k d f).Ok := by
  unfold Core.mapV Core.commitV
  exact h.commit _ _ fun _ hc => hc

theorem compareV (o : QVV) (k : CmpKind) : (c.compareV o k).Ok := by
  unfold Core.compareV
  exact h.commit _ _ fun c hc => hc.of_ls (c.wrQ_ls _ _)

theorem cvtV (x : PerfCtx) (o : VCvt) : (c.cvtV x o).Ok := by
  unfold Core.cvtV Core.commitV
  exact h.commit _ _ fun _ hc => hc

theorem deqV (o : VV) : (c.deqV o).Ok := by
  unfold Core.deqV
  refine h.commit _ _ fun c hc => hc.of_ls (Core.foldl_ls (fun c x => ?_) _ _)
  rfl

theorem readNext (x : PerfCtx) (w : Nat) (items : List MemItem) {write : List (MemItem × Nat) → Core}
    (hw : ∀ xs, (write xs).Ok) : (c.readNext x w items write).Ok := by
  unfold Core.readNext
  dsimp only
  split
  · trivial
  · split
    · exact h
    · exact hw _

theorem storeNext (x : PerfCtx) (items : List MemItem) {put : Core → MemItem → Core}
    (hp : ∀ c, c.Ok → ∀ i, (put c i).Ok) : (c.storeNext x items put).Ok := by
  unfold Core.storeNext
  dsimp only
  split
  · trivial
  · split <;> exact h.foldl _ hp

theorem loadV (x : PerfCtx) (k : VMemCtl) (d : VReg) (locs : List (Option ElemLoc)) (scales : List (Nat × Nat)) :
    (c.loadV x k d locs scales).Ok :=
  h.readNext _ _ _ fun xs => Core.Ok.foldl (c := c.wrElems d k.et _) h xs fun c hc i => by
    obtain ⟨i, y⟩ := i
    cases i <;> exact hc

theorem loadOne (x : PerfCtx) (k : VMemCtl) (d : VReg) (a : Word) : (c.loadOne x k d a).Ok := by
  unfold Core.loadOne
  exact h.readNext _ _ _ fun _ => h

theorem storeV (x : PerfCtx) (k : VMemCtl) (d : VReg) (locs : List (Option ElemLoc)) (scales : List (Nat × Nat)) :
    (c.storeV x k d locs scales).Ok :=
  h.storeNext _ _ fun c hc i => by
    cases i with
    | elem j l => exact hc.writeLoc _ _ _
    | scale b a => exact hc.storeN _ _ _

theorem performVec (x : PerfCtx) (op : SeqOp) : (c.performVec x op).Ok := by
  obtain ⟨i, pc, sa, sb, fa, shape⟩ := op
  cases i with
  | vld o | vldB o | vgather o => exact h.loadV _ _ _ _ _
  | vst o | vstB o | vscatter o => exact h.storeV _ _ _ _ _
  | vlds o => exact h.loadOne _ _ _ _
  | vmov o | vsel o | vsclset o => exact h
  | qand o | qor o | qxor o | qnot o | qset o => exact h.of_ls (c.wrQ_ls _ _)
  | vceq o | vcne o | vclt o | vcle o | vcun o => exact h.compareV _ _
  | vbcs o | vbcf o | vslide o | vperm o | vpack o | vunpack o => exact h.mapV _ _ _
  | vadd o | vsub o | vmul o | vmulh o | vdiv o | vadds o | vsubs o | vfma o | vfms o | vfnma o => exact h.mapV _ _ _
  | vsqrt o | vmin o | vmax o | vabs o | vneg o | vclamp o => exact h.mapV _ _ _
  | vand o | vor o | vxor o | vnot o | vshl o | vshr o | vsra o | vshli o | vshri o | vsrai o | vpopc o | vclz o =>
    exact h.mapV _ _ _
  | vexp2 o | vlog2 o | vrcp o | vrsqrt o | vsin o | vcos o | vtanh o | vsigm o | verf o => exact h.mapV _ _ _
  | vrng o | vrngu o | vdrop o => exact h.mapV _ _ _
  | vcvt o => exact h.cvtV _ _
  | vrenorm o | vquant o => exact h.commit _ _ fun c hc => hc.of_ls (c.wrQuant_ls _ _ _ _)
  | vdeq o => exact h.deqV _
  | _ => exact h

/-! ## Tile instructions -/

theorem storeTransfer (x : PerfCtx) (r : ShapeRec) (xs : List Nat) : (c.storeTransfer x r xs).Ok :=
  h.storeNext _ _ fun c hc i => by
    cases i with
    | elem p l => exact hc.writeLoc _ _ _
    | scale b a => exact hc

theorem commitTile (f : Flags) {w : Core → Core} (hw : KeepsOk w) : (c.commitTile f w).Ok := h.commit _ _ hw

theorem performTile (x : PerfCtx) (op : TileOp) (shape : Option ShapeRec) : (c.performTile x op shape).Ok := by
  cases op with
  | tzero d | ttr o | zzero d tz => exact h
  | tmma o | tmrot o | tmmo o | tsacc o =>
    unfold Core.performTile
    exact h.commitTile _ fun _ hc => hc
  | tld o =>
    cases shape with
    | none => exact h
    | some r =>
      unfold Core.performTile
      exact h.readNext _ _ _ fun _ => h
  | tst o | zst o =>
    cases shape with
    | none => exact h
    | some r => exact h.storeTransfer _ _ _
  | tepi o =>
    cases shape with
    | none => exact h
    | some r =>
      unfold Core.performTile
      dsimp only
      split
      · trivial
      · generalize hr : c.storeTransfer x r _ = p
        have hp : p.Ok := hr ▸ h.storeTransfer x r _
        cases p <;> exact hp

theorem perform (x : PerfCtx) (op : SeqOp) : (c.perform x op).Ok := by
  unfold Core.perform
  split
  · exact h.performTile _ _ _
  · exact h.performVec _ _

theorem perform_done {x : PerfCtx} {op : SeqOp} {d : Core} (e : c.perform x op = .done d) : d.Ok := by
  have hp := h.perform x op
  rw [e] at hp
  exact hp

end Core.Ok

/-! ## Entries and their traps -/

@[simp] theorem Core.preciseTrap_ls (c : Core) (e : SeqEntry) (op : SeqOp) (t : Trap) :
    (c.preciseTrap e op t).ls = c.ls := Core.takeTrap_ls _ _ _

@[simp] theorem Core.deferredTrap_ls (c : Core) (e : SeqEntry) (op : SeqOp) (t : Trap) :
    (c.deferredTrap e op t).ls = c.ls := Core.takeTrap_ls _ _ _

@[simp] theorem Core.followFault_ls (c : Core) (e : SeqEntry) (t : Trap) : (c.followFault e t).ls = c.ls :=
  Core.recordFailure_ls c _

@[simp] theorem Core.replaceTile_ls (c : Core) (t : TReg) (m : Option TileMsg) : (c.replaceTile t m).ls = c.ls := by
  cases m <;> rfl

@[simp] theorem Core.endRot_ls (c : Core) (e : SeqEntry) (o : TProd) (f : Flags) : (c.endRot e o f).ls = c.ls := by
  refine (Core.advance_ls _ _ _).trans ?_
  dsimp only [Core.orFlags]
  split <;> split <;> simp

namespace Core.Ok
variable {c : Core} (h : c.Ok)
include h

theorem advance (e : SeqEntry) (i : Instr) : (c.advance e i).Ok := h.of_ls (c.advance_ls e i)

theorem finishPerform (e : SeqEntry) (op : SeqOp) {r : PerfRes} (hr : r.Ok) : (c.finishPerform e op r).Ok := by
  unfold Core.finishPerform
  cases r with
  | done d => exact Core.Ok.advance hr _ _
  | more d p => exact hr
  | fptrap f v =>
    exact Core.Ok.ite (h.of_ls (c.followFault_ls _ _)) (Core.Ok.ite h (h.of_ls (Core.preciseTrap_ls _ _ _ _)))
  | ecc g =>
    exact Core.Ok.ite (h.of_ls (c.followFault_ls _ _)) (Core.Ok.ite h (Core.Ok.ite (h.of_ls (Core.preciseTrap_ls _ _ _ _))
      (h.of_ls (Core.deferredTrap_ls _ _ _ _))))

theorem stepRot (e : SeqEntry) (op : SeqOp) (o : TProd) (now cid : Nat) : (c.stepRot e op o now cid).Ok := by
  unfold Core.stepRot
  split
  · exact Core.Ok.ite (h.of_ls (c.endRot_ls _ _ _)) h
  · split
    · exact h
    · dsimp only
      have h0 : Core.Ok { c with fp := { c.fp with flags := 0 } } := h
      split
      · next d hd => exact (h0.perform_done hd :)
      · exact h.finishPerform _ _ (h0.perform _ _)

end Core.Ok

theorem Core.issueTile_ls {c d : Core} {op : TileOp} {x : Nat} {f : Option Word} (h : c.issueTile op x f = .ok d) :
    d.ls = c.ls := by
  unfold Core.issueTile at h
  split at h <;> cases h
  rfl

/-! ## Steps of the shared units -/

section
variable {s : State} (h : s.Ok)
include h

theorem ends_sfuAccept : Ends (execSfuAccept s) := by
  refine ends_ite (ends_next h) ?_
  split <;> exact ends_next h

theorem ends_sfuReturn : Ends (execSfuReturn s) := by
  unfold execSfuReturn
  split
  · exact ends_next h
  · dsimp only
    split
    · split
      · refine ends_ite (ends_next h) (ends_ite (ends_next h) ?_)
        split
        · next hd => exact ends_next ⟨(h.core.perform_done hd).advance _ _, h.2⟩
        · exact ends_next ⟨h.core.finishPerform _ _ (h.core.perform _ _), h.2⟩
      · exact ends_next h
    · exact ends_next h

theorem ends_tmrotTileReceive : Ends (execTmrotTileReceive s) := by
  have west (n : Nat) : (s.onCore n fun c => { c with tile := { c.tile with sendWest := none } }).Ok :=
    h.onCore n fun _ hc => hc
  have north (n : Nat) : (s.onCore n fun c => { c with tile := { c.tile with sendNorth := none } }).Ok :=
    h.onCore n fun _ hc => hc
  unfold execTmrotTileReceive
  split
  · dsimp only
    split
    · exact ends_ite (ends_next h) (ends_next (west _ :))
    · exact ends_next h
  · dsimp only
    split
    · exact ends_ite (ends_next h) (ends_next (north _ :))
    · exact ends_next h
  · exact ends_next h

theorem State.Ok.settleRots : s.settleRots.Ok := by
  refine h.foldl _ fun s h k => h.onCore k fun c hc => ?_
  unfold State.settleRot
  split
  · split <;> exact hc
  · exact hc

theorem ends_linktimeout : Ends (execLinktimeout s) := by
  unfold execLinktimeout
  dsimp only
  split
  · split
    · exact ends_ite (ends_next h) (ends_ite (ends_next (h.withCore (h.core.of_ls (Core.followFault_ls _ _ _))))
        (ends_ite (ends_next h) (ends_next (h.withCore (h.core.of_ls (Core.preciseTrap_ls _ _ _ _))))))
    · exact ends_next h
  · exact ends_next h

/-! ## Issue of tile instructions -/

theorem ends_issueWith (op : TileOp) (x : Nat) : Ends (issueWith op x s) := by
  unfold issueWith
  split
  · next c hc => exact ends_next (h.withCore (by simpa [Core.issueTile_ls hc] using h.core))
  · exact ends_raiseAt h _ _

theorem ends_issueT (op : TileOp) : Ends (issueT op s) := by
  refine ends_ite (ends_stalled h) (ends_ite (ends_waiting h) ?_)
  split
  · exact ends_withRecord h _ _ fun _ => ends_issueWith h _ _
  · exact ends_issueWith h _ _

theorem ends_tfol (ch : Chan) (op : TileOp) : Ends (execTfol ch op s) := ends_done h _ fun _ hc => hc

end

end Sys2Proof.Machine
end

section
/-! PROOF. Barriers and the copy engine keep the canonical form of memory (O58). -/

namespace Sys2Proof.Machine

/-! ## Barriers -/

namespace State.Ok
variable {s : State} (h : s.Ok)
include h

theorem arrive (b : BarInst) : (s.arrive b).Ok := h

theorem unarrive (b : BarInst) : (s.unarrive b).Ok := h

theorem abortBars : s.abortBars.Ok := h.foldl _ fun _ h _ => h.unarrive _

/-- A change of some saved members that keeps their cores' form. -/
theorem onSaved {p : SavedMember → Prop} [DecidablePred p] {f : Core → Core} (hf : KeepsOk f) :
    State.Ok { s with saved := s.saved.map fun m => if p m then { m with core := f m.core } else m } := by
  refine h.withSaved fun m hm => ?_
  obtain ⟨m0, hm0, rfl⟩ := List.mem_map.1 hm
  have h0 := h.2.2.1 m0 hm0
  split
  · exact hf _ h0
  · exact h0

theorem releaseAt (b : BarInst) (cid : Nat) : (s.releaseAt b cid).Ok := by
  unfold State.releaseAt
  split
  · exact h.onSaved (f := fun c => c.releaseBar b) fun _ hc => hc
  · exact h.onCore cid fun _ hc => hc

theorem releaseBar (b : BarState) : (s.releaseBar b).Ok :=
  State.Ok.foldl h b.arrived (f := fun s cid => s.releaseAt b.inst cid) fun _ h cid => h.releaseAt b.inst cid

theorem dropBar (b : BarState) : (s.dropBar b).Ok := by
  have h1 := State.Ok.foldl h b.arrived
    (f := fun s cid => s.onCore cid fun c => { c with bars := c.bars.filter fun a => a.inst != b.inst })
    fun _ h cid => h.onCore cid fun _ hc => hc
  exact h1.onSaved (p := fun m => b.arrived.contains m.cid)
    (f := fun c => { c with bars := c.bars.filter fun a => a.inst != b.inst }) fun _ hc => hc

theorem endClauseBars (clause : Nat) : (s.endClauseBars clause).Ok := h.foldl _ fun _ h _ => h.dropBar _

theorem startClauseBars (cid : Nat) : (s.startClauseBars cid).Ok := by
  refine State.Ok.foldl (s := { s with bars := s.bars.map (BarState.restart · cid) }) ?_ _ fun _ h _ => h.dropBar _
  exact h

end State.Ok

section
variable {s : State} (h : s.Ok)
include h

theorem ends_bar (i : Instr) (sc : BarScope) (n : Nat) : Ends (bar i sc n s) := by
  unfold bar
  dsimp only
  split
  · exact ends_ite (ends_done h i fun _ hc => hc) (ends_waiting h)
  · exact ends_ite (ends_raise h _) (ends_ite (ends_waiting h)
      (ends_reportOr h _ (ends_ite (ends_waiting h) (ends_waiting (h.arrive _)))))

theorem ends_barrierArrivalSum : Ends (execBarrierArrivalSum s) := by
  unfold execBarrierArrivalSum
  split
  · split
    · exact ends_next h
    · split
      · exact ends_next h
      · refine ends_ite (ends_ite (ends_next h) (ends_next h)) (ends_ite (ends_next h) (ends_ite (ends_next h) ?_))
        split
        · next t e => exact ends_next (h.transmit t e :)
        · exact ends_next h
  · split
    · next e => exact ends_ite (ends_next (h.inboxAt e :)) (ends_next (h.inboxAt e :))
    · exact ends_next h
  · exact ends_next h

theorem ends_barrierRelease : Ends (execBarrierRelease s) := by
  unfold execBarrierRelease
  split
  · split
    · exact ends_next h
    · exact ends_ite (ends_next h) (ends_next ((h.releaseBar _).sendAll _ _))
  · split
    · next e =>
      split
      · exact ends_next ((h.inboxAt e).releaseBar _)
      · exact ends_next (h.inboxAt e)
    · exact ends_next h
  · exact ends_next h

theorem ends_barrierEntryConfig : Ends (execBarrierEntryConfig s) := by
  unfold execBarrierEntryConfig
  split
  · exact ends_ite (ends_next h) (ends_next h)
  · exact ends_next h

end

/-! ## Pieces of copy requests -/

theorem Core.Ok.landBytes {c : Core} (h : c.Ok) (a : Nat) (bs : List Byte) : (c.landBytes a bs).Ok :=
  h.writeStore false a bs

namespace State.Ok
variable {s : State} (h : s.Ok)
include h

theorem land (own : Bool) (cid a : Nat) (bs : List Byte) : (s.land own cid a bs).Ok :=
  h.onCore cid fun _ hc => Core.Ok.ite (hc.landBytes a bs) (hc.landBytes a bs)

theorem crossBeats {w : Bool} {n : Nat} {t : State} (e : s.crossBeats w n = some t) : t.Ok := by
  unfold State.crossBeats at e
  split at e
  · cases e; exact h
  · split at e <;> cases e
    exact h

theorem charge {ports : List Nat} {ctx cost : Nat} (t : State) (e : s.charge ports ctx cost = some t) : t.Ok := by
  unfold State.charge at e
  dsimp only at e
  split at e <;> cases e
  exact h

theorem spend (x : Xfer) (va cost : Nat) {next : State} (hn : next.Ok) : (s.spend x va cost next).Ok :=
  h.getD hn.charge

/-- A change of a core's copy requests. -/
theorem onXfer (ch : Chan) (f : Core → Xfer → Xfer) : (s.mapCore fun c => c.onXfer ch (f c)).Ok := h

/-- The memory after an access, with the core's requests changed. -/
theorem accessed {g : Gmem} (hg : g.wf = true) (ch : Chan) (f : Xfer → Xfer) :
    State.Ok { s with gmem := g, core := s.core.onXfer ch f } := ⟨h.1, h.2.1, h.2.2.1, hg⟩

theorem readPiece (ch : Chan) (x : Xfer) (va : Nat) (again : Bool) (bad : Xfer → Bool → Xfer) :
    (s.readPiece ch x va again bad).Ok := by
  have hr := Gmem.readChunk_ok h.gmem x.ctx va s.hitR
  unfold State.readPiece
  dsimp only
  split
  · exact h
  · exact h.onXfer _ _
  · exact h.onXfer _ _
  · next e => rw [e] at hr; exact h.spend _ _ _ (h.accessed hr _ _)
  · next g bs e =>
    rw [e] at hr
    refine h.spend _ _ _ (h.accessed ?_ _ _)
    split
    · exact g.wf_correctAt hr _ _
    · exact hr

theorem writePiece (ch : Chan) (x : Xfer) (va : Nat) (bs : List Byte) (watched : Bool) (after : Xfer → Xfer) :
    (s.writePiece ch x va bs watched after).Ok := by
  have hw := Gmem.writeChunk_ok h.gmem x.ctx va bs s.hitR s.hitW
  unfold State.writePiece
  split
  · exact h
  · exact h.onXfer _ _
  · exact h.onXfer _ _
  · next e => rw [e] at hw; exact h.spend _ _ _ (h.accessed hw _ _)
  · next e =>
    rw [e] at hw
    split
    · exact h
    · next e1 => exact h.spend _ _ _ (((h.crossBeats e1).withGmem hw).onXfer _ _)

theorem readIndex (ch : Chan) (x : Xfer) : (s.readIndex ch x).Ok := h

theorem readReplica (ch : Chan) (x : Xfer) (rva : Nat) : (s.readReplica ch x rva).Ok := by
  have hr := Gmem.readRange_ok h.gmem x.ctx s.hitR false 3 rva (x.pieceLen s.core) []
  unfold State.readReplica
  dsimp only
  split
  · exact h
  · next e => rw [e] at hr; exact h.accessed hr _ _
  · next e => rw [e] at hr; exact h.getD (h.accessed hr _ _).charge
  · next g bs e => rw [e] at hr; exact h.getD (h.accessed (g.wf_correctAt hr _ _) _ _).charge

theorem landNext (ch : Chan) (x : Xfer) : (s.landNext ch x).1.Ok := by
  unfold State.landNext
  dsimp only
  split
  · exact h.onXfer _ _
  · split
    · exact h.onXfer _ _
    · split
      · exact h
      · split
        · split <;> exact h.onXfer _ _
        · exact (h.land _ _ _ _).onXfer _ _

omit h in
theorem landStep (ch : Chan) (fuel : Nat) {s : State} (h : s.Ok) : (State.landStep ch fuel s).Ok := by
  induction fuel generalizing s with
  | zero => exact h
  | succ fuel ih =>
    unfold State.landStep
    split
    · exact h
    · exact State.Ok.ite h (State.Ok.ite (ih (h.landNext _ _)) (h.landNext _ _))

theorem sendChunk (ch : Chan) (x : Xfer) (bs : List Byte) (beats : Nat) : (s.sendChunk ch x bs beats).Ok := by
  refine State.Ok.send ?_ _
  exact h

theorem gather (ch : Chan) (x : Xfer) : (s.gather ch x).Ok := h

theorem copyPiece (ch : Chan) (x : Xfer) (bs : List Byte) : (s.copyPiece ch x bs).Ok := by
  have hx (y : Xfer) : (s.mapCore fun c => c.onXfer ch fun _ => y).Ok := h
  exact State.Ok.ite (hx _) (State.Ok.ite ((hx _).sendChunk _ _ _ _) (State.Ok.landStep _ _ (hx _)))

theorem sendTokens {x : Xfer} {bs : List Byte} {t : State} (e : s.sendTokens x bs = some t) : t.Ok := by
  unfold State.sendTokens at e
  split at e
  · exact h.charge t e
  · cases e; exact h

theorem movePiece (ch : Chan) (x : Xfer) : (s.movePiece ch x).Ok := by
  unfold State.movePiece
  split
  · split
    · exact h
    · next e1 =>
      split
      · exact h
      · next e2 => exact ((h.crossBeats e1).sendTokens e2).copyPiece _ _ _
  · exact h

theorem landLast (x : Xfer) (bs : List Byte) : (s.landLast x bs).Ok :=
  h.foldl _ fun _ h _ => State.Ok.ite h (h.land _ _ _ _)

theorem firePiece (ch : Chan) (x : Xfer) (bs : List Byte) : (s.firePiece ch x bs).Ok := by
  have hx (y : Xfer) : (s.injFired.mapCore fun c => c.onXfer ch fun _ => y).Ok := h
  exact State.Ok.ite (hx _) (State.Ok.ite ((hx _).sendChunk _ _ _ _) ((hx _).landLast _ _))

theorem landCarry (ch : Chan) (x : Xfer) : (s.landCarry ch x).Ok := by
  unfold State.landCarry
  split
  · exact h.sendChunk _ _ _ _
  · exact (h.landLast _ _).onXfer ch fun _ x => { x with carry := [] }

theorem firePut (ch : Chan) (x : Xfer) : (s.firePut ch x).Ok := by
  have hf : s.injFired.Ok := h
  refine State.Ok.onXfer (State.Ok.ite hf ?_) ch fun _ x' => x'.failGlobal _ _
  split
  · next g out e => exact hf.withGmem (Gmem.wf_writeChunk _ g hf.gmem _ _ _ _ _ out e)
  · exact hf

end State.Ok

end Sys2Proof.Machine
end

section
/-! PROOF. The instructions and the steps of the copy engine keep the canonical form of memory (O58). -/

namespace Sys2Proof.Machine

@[simp] theorem Core.accept_ls (c : Core) (x : Xfer) : (c.accept x).ls = c.ls := rfl

@[simp] theorem Core.issueFollow_ls (c : Core) (x : Xfer) (w : Word) : (c.issueFollow x w).ls = c.ls := by
  have drop (n : Nat) (v : Word) : ((c.recordFailure (Failure.plain .tl n x.pc v)).tlDown 1).ls = c.ls :=
    c.recordFailure_ls _
  unfold Core.issueFollow
  dsimp only
  split
  · split
    · exact drop _ _
    · split
      · exact drop _ _
      · split
        · next e => exact (Core.issueTile_ls e :)
        · exact drop _ _
  · exact drop _ _
  · exact drop _ _

@[simp] theorem Core.complete_ls (c : Core) (ch : Chan) (x : Xfer) : (c.complete ch x).ls = c.ls := by
  unfold Core.complete
  dsimp only
  split
  · split <;> exact Core.recordFailure_ls _ _
  · split
    · exact Core.issueFollow_ls _ _ _
    · rfl

theorem Core.ls_ite {p : Prop} [Decidable p] {c d : Core} {m : Memory} (hc : c.ls = m) (hd : d.ls = m) :
    (if p then c else d).ls = m := by
  split
  · exact hc
  · exact hd

@[simp] theorem Core.completeNext_ls (c : Core) (ch : Chan) (x : Xfer) : (c.completeNext ch x).ls = c.ls := by
  unfold Core.completeNext
  split
  · exact c.complete_ls _ _
  · exact Core.ls_ite (c.complete_ls _ _) rfl

section
variable {s : State} (h : s.Ok)
include h

/-! ## The instructions -/

theorem ends_push (i : Instr) (o : CpushOp) {full : Result} (hf : Ends full) : Ends (push i o s full) := by
  refine ends_ite (ends_raise h _) (ends_afterWait h _ ?_)
  dsimp only
  split
  · exact ends_raise h _
  · exact ends_ite hf (ends_done h i fun c hc => by simpa using hc)

theorem ends_cpush (o : CpushOp) : Ends (execCpush o s) := ends_push h _ _ (ends_waiting h)

theorem ends_cpushb (o : CpushOp) : Ends (execCpushb o s) :=
  ends_push h _ _ (ends_done h _ fun c hc => by simpa using hc)

theorem ends_cpwait (a : SReg) (ch : Chan) : Ends (execCpwait a ch s) :=
  ends_ite (ends_raise h _) (ends_ite (ends_doneIn h _) (ends_waiting h))

theorem ends_cpfence (m : BitVec 4) : Ends (execCpfence m s) := ends_done h _ fun _ hc => hc

theorem ends_mbwait (a : SReg) : Ends (execMbwait a s) := ends_ite (ends_doneIn h _) (ends_waiting h)

theorem ends_cpresume (ch : Chan) : Ends (execCpresume ch s) := by
  unfold execCpresume
  split
  · exact ends_done h _ fun _ hc => hc
  · exact ends_raise h _

theorem ends_ptouch (a : SReg) : Ends (execPtouch a s) := by
  have ask (v : Word) : Ends (.next (s.mapCore fun c => ({ c with hubWait := .touchSent v }).waitHere)) := ends_next h
  refine ends_ite (ends_raise h _) ?_
  split
  · exact ends_ite (ends_waiting h) (ask _)
  · refine ends_ite (ask _) (ends_ite (ends_done h _ fun _ hc => hc) (ends_ite (ends_next h) ?_))
    exact ends_raise (h.mapCore (f := fun c => { c with hubWait := .none }) fun _ hc => hc) _
  · exact ends_ite (ends_doneIn h _) (ask _)

theorem ends_firmwareFaultResolve : Ends (execFirmwareFaultResolve s) := by
  unfold execFirmwareFaultResolve
  split
  · split
    · exact ends_next h
    · next g e =>
      have hg := h.withGmem (Gmem.wf_firmwareSet h.gmem e)
      dsimp only
      split
      · exact ends_next hg
      · split
        · exact ends_ite (ends_next hg) (ends_next (hg.onCore _ fun c hc => Core.Ok.ite hc hc))
        · exact ends_next hg
  · exact ends_next h

/-! ## The steps -/

theorem ends_withChan {k : Chan → Result} (hk : ∀ ch, Ends (k ch)) : Ends (withChan s k) := by
  unfold withChan
  split
  · split
    · exact hk _
    · exact ends_next h
  · exact ends_next h

theorem ends_copyBegin : Ends (execCopyBegin s) :=
  ends_withChan h fun _ => ends_ite (ends_next h) (ends_next h)

theorem ends_chunkAccess : Ends (execChunkAccess s) := by
  refine ends_withChan h fun ch => ?_
  split
  · exact ends_next h
  · exact ends_ite (ends_ite (ends_next (h.readIndex _ _)) (ends_next (h.readPiece _ _ _ _ _)))
      (ends_ite (ends_next (h.writePiece _ _ _ _ _ _)) (ends_next h))

theorem ends_chunkRefetch : Ends (execChunkRefetch s) := by
  refine ends_withChan h fun ch => ?_
  split
  · exact ends_next h
  · dsimp only
    split
    · exact ends_next (h.readPiece _ _ _ _ _)
    · exact ends_next (h.readPiece _ _ _ _ _)
    · exact ends_next (h.readReplica _ _ _)
    · exact ends_next h

theorem ends_copyChunk : Ends (execCopyChunk s) := by
  refine ends_withChan h fun ch => ?_
  split
  · exact ends_next h
  · next x _ =>
    refine ends_ite (ends_next (State.Ok.landStep _ _ h)) ?_
    dsimp only
    generalize hu : (if x.gathers s.core = true then s.gather ch x else s) = u
    have hu' : u.Ok := hu ▸ State.Ok.ite (h.gather ch x) h
    split
    · exact ends_next hu'
    · exact ends_next (hu'.movePiece _ _)

theorem ends_lfinjFire : Ends (execLfinjFire s) := by
  refine ends_withChan h fun ch => ?_
  split
  · exact ends_next h
  · refine ends_ite (ends_ite (ends_next (h.firePut _ _)) (ends_next h)) ?_
    split
    · exact ends_ite (ends_next (h.firePiece _ _ _)) (ends_next h)
    · exact ends_next h

theorem ends_bfreeCredit : Ends (execBfreeCredit s) := by
  unfold execBfreeCredit
  split
  · split
    · exact ends_next h
    · exact ends_next h
  · exact ends_next h

end

end Sys2Proof.Machine
end

section
/-! PROOF. The network interfaces and the hub keep the canonical form of memory (O58). -/

namespace Sys2Proof.Machine

/-! ## The network interface -/

theorem Core.Ok.applyWrite {c : Core} (h : c.Ok) (a : Nat) (bs : List Byte) : (c.applyWrite a bs).Ok := h.landBytes a bs

@[simp] theorem Core.acceptMsg_ls (c : Core) (m : Msg) : (c.acceptMsg m).ls = c.ls := by
  unfold Core.acceptMsg
  exact Core.ls_ite rfl rfl

@[simp] theorem Core.applied_ls (c : Core) (x : Applying) : (c.applied x).ls = c.ls := by
  unfold Core.applied
  dsimp only
  split
  · exact Core.acceptMsg_ls _ _
  · rfl

@[simp] theorem Core.applyMint_ls (c : Core) (bit : Fin 6) (src : Nat) : (c.applyMint bit src).ls = c.ls := by
  unfold Core.applyMint
  split <;> rfl

theorem Core.Ok.applyAmo {c : Core} (h : c.Ok) (k : AmoKind) (a n v new : Nat) : (c.applyAmo k a n v new).1.Ok := by
  unfold Core.applyAmo
  dsimp only
  split
  · exact h.applyWrite _ _
  · exact h

@[simp] theorem Core.refusedOut_ls (c : Core) (o : OutOp) (cause : Nat) : (c.refusedOut o cause).ls = c.ls := by
  unfold Core.refusedOut
  simp

@[simp] theorem Core.copyAnswer_ls (c : Core) (o : OutOp) (ch : Chan) (cause : Option Nat) :
    (c.copyAnswer o ch cause).ls = c.ls := by
  cases cause <;> exact c.closeOut_ls _

@[simp] theorem Core.writeReply_ls (c : Core) (o : OutOp) (x : Word) : (c.writeReply o x).ls = c.ls := by
  unfold Core.writeReply
  split <;> simp

namespace State.Ok
variable {s : State} (h : s.Ok)
include h

theorem takePacket (k : Nat) : (s.takePacket k).Ok := h

theorem applyPieces (x : Applying) : (s.applyPieces x).Ok := by
  have hw (n : Nat) : (s.mapCore fun c => c.applyWrite x.addr (x.bytes.take n)).Ok := h.mapCore fun _ hc => hc.applyWrite _ _
  have hd (n : Nat) := (hw n).mapCore (f := fun c => c.applied x) fun c hc => hc.of_ls (c.applied_ls x)
  exact State.Ok.ite ((hd _).answer _) (hw _)

theorem applyRest (cid : Nat) : (s.applyRest cid).Ok := by
  unfold State.applyRest
  split
  · next x _ =>
    have hw : (s.onCore cid fun c => c.applyWrite x.addr x.bytes).Ok := h.onCore cid fun _ hc => hc.applyWrite _ _
    exact State.Ok.ite (hw.onCore cid fun _ hc => hc)
      ((hw.onCore cid (f := fun c => c.applied x) fun c hc => hc.of_ls (c.applied_ls x)).answer _)
  · exact h

theorem applyCopy (k : Nat) (p : Packet) (a : Nat) (bs : List Byte) (w : Beats) : (s.applyCopy k p a bs w).Ok := by
  have hw (n : Nat) : (s.mapCore fun c => c.applyWrite a (bs.take n)).Ok := h.mapCore fun _ hc => hc.applyWrite _ _
  exact State.Ok.ite (State.Ok.answer ((hw _).takePacket k) _) (hw _)

theorem takeAnswer (k : Nat) : (s.takeAnswer k).Ok := h

end State.Ok

section
variable {s : State} (h : s.Ok)
include h

theorem ends_serveArriving {f : Packet → Option (State → State × ReplyKind)}
    (hf : ∀ p act, f p = some act → ∀ s : State, s.Ok → (act s).1.Ok) : Ends (serveArriving s f) := by
  unfold serveArriving
  split
  · exact ends_next h
  · split
    · exact ends_next h
    · next act hact =>
      split
      · exact ends_next ((h.takePacket _).nack _ _)
      · exact ends_next ((hf _ act hact _ (h.takePacket _)).answer _)

theorem ends_niRemoteRead : Ends (execNiRemoteRead s) :=
  ends_serveArriving h fun p act hp s h => by
    cases hk : p.kind <;> simp only [hk, reduceCtorEq, Option.some.injEq] at hp
    subst hp
    exact h

theorem ends_niRemoteAtomic : Ends (execNiRemoteAtomic s) :=
  ends_serveArriving h fun p act hp s h => by
    cases hk : p.kind <;> simp only [hk, reduceCtorEq, Option.some.injEq] at hp
    subst hp
    exact h.withCore (h.core.applyAmo _ _ _ _ _)

theorem ends_mintApply : Ends (execMintApply s) :=
  ends_serveArriving h fun p act hp s h => by
    cases hk : p.kind <;> simp only [hk, reduceCtorEq, Option.some.injEq] at hp
    subst hp
    exact h.mapCore fun c hc => hc.of_ls (c.applyMint_ls _ _)

theorem ends_niApply : Ends (execNiApply s) := by
  unfold execNiApply
  split
  · exact ends_ite (ends_next h) (ends_next (h.applyPieces _))
  · split
    · exact ends_next h
    · split
      · split
        · exact ends_next ((h.takePacket _).nack _ _)
        · exact ends_next ((h.takePacket _).applyPieces _)
      · split
        · exact ends_next ((h.takePacket _).nack _ _)
        · exact ends_next (h.applyCopy _ _ _ _ _)
      · exact ends_next h

theorem ends_messageAccept : Ends (execMessageAccept s) := by
  unfold execMessageAccept
  split
  · exact ends_next h
  · split
    · split
      · exact ends_next ((h.takePacket _).nack _ _)
      · dsimp only
        split
        · exact ends_next ((h.takePacket _).applyPieces _)
        · exact ends_next (((h.takePacket _).mapCore fun c hc => hc.of_ls (c.acceptMsg_ls _)).ack _)
    · exact ends_next h

theorem ends_spillMove : Ends (execSpillMove s) := by
  unfold execSpillMove
  dsimp only
  split
  · exact ends_ite (ends_next h) (ends_next h)
  · exact ends_next h

theorem ends_spillQueueConfig : Ends (execSpillQueueConfig s) := by
  unfold execSpillQueueConfig
  split
  · exact ends_next (h.onCore _ fun _ hc => hc)
  · exact ends_next h
  · exact ends_next h

theorem ends_ackArrival : Ends (execAckArrival s) := by
  unfold execAckArrival
  split
  · exact ends_next h
  · dsimp only
    split
    · exact ends_next ((h.takeAnswer _).mapCore fun c hc => hc.of_ls (c.recordFailure_ls _))
    · exact ends_next h
    · exact ends_next h
    · exact ends_next h
    · split
      · exact ends_next ((h.takeAnswer _).mapCore fun c hc => hc.of_ls (c.copyAnswer_ls _ _ _))
      · exact ends_ite (ends_next h) (ends_next ((h.takeAnswer _).mapCore fun c hc => hc.of_ls (c.closeOut_ls _)))
    · split
      · exact ends_next ((h.takeAnswer _).mapCore fun c hc => hc.of_ls (c.copyAnswer_ls _ _ _))
      · exact ends_ite (ends_next h) (ends_next ((h.takeAnswer _).mapCore fun c hc => hc.of_ls (c.refusedOut_ls _ _)))

theorem ends_replyArrival : Ends (execReplyArrival s) := by
  unfold execReplyArrival
  split
  · exact ends_next h
  · dsimp only
    split
    · exact ends_next h
    · exact ends_ite (ends_next ((h.takeAnswer _).mapCore fun c hc => by simpa [Core.observe] using hc)) (ends_next h)
    · exact ends_ite (ends_next ((h.takeAnswer _).mapCore fun c hc => by simpa using hc)) (ends_next h)
    · exact ends_next h

end

/-! ## The hub -/

namespace State.Ok
variable {s : State} (h : s.Ok)
include h

theorem onHub (f : Hub → Hub) : (s.onHub f).Ok := h

theorem setPlaced (hub : Hub) (ov : List (Nat × Cont)) : (s.setPlaced hub ov).Ok :=
  (h.withHub hub).foldl ov fun _ h _ => h.pokeRecord _ _ _

theorem memberGone (clause cid : Nat) : (s.memberGone clause cid).Ok := by
  unfold State.memberGone
  exact State.Ok.ite (State.Ok.endClauseBars (h.onHub _) _) h

theorem leave (cid : Nat) : (s.leave cid).Ok := by
  have h1 : ((s.withdrawAt cid).retireTask cid).Ok := (h.withdrawAt cid).retireTask cid
  unfold State.leave
  refine State.Ok.onCore ?_ cid fun c hc => Core.Ok.ite hc hc
  split
  · exact h1.memberGone _ _
  · exact h1

theorem finishExit (cid : Nat) : (s.finishExit cid).Ok :=
  State.Ok.leave (h.onCore cid fun c hc => hc.of_ls (c.retire_ls 8)) cid

theorem sendGroup (v : Word) (ks : List Cont) : (s.sendGroup v ks).Ok := h

end State.Ok

section
variable {s : State} (h : s.Ok)
include h

theorem ends_readTemplate (id : Nat) (refuse : Bool) : Ends (readTemplate id refuse s) := by
  unfold readTemplate
  split
  · exact ends_next h
  · next e _ =>
    have hr := h.readGlobal e.ctx e.clrec.toNat 64
    dsimp only
    split
    · exact ends_next h
    · next eq => rw [eq] at hr; exact ends_ite (ends_next (h.withGmem hr)) (ends_next (h.withGmem hr))
    · next eq => rw [eq] at hr; exact ends_next (h.withGmem hr)
    · next eq =>
      rw [eq] at hr
      split
      · exact ends_next h
      · next t e =>
        have ht := State.Ok.withGmem (h.charge t e) hr
        split
        · exact ends_next ht
        · exact ends_next ht

theorem ends_templateRead : Ends (execTemplateRead s) := by
  unfold execTemplateRead
  split
  · exact ends_readTemplate h _ _
  · exact ends_readTemplate h _ _
  · exact ends_next h

theorem ends_readConts (i : Instr) (v : Word) (n : Nat) {k : List Cont → Result} (hk : ∀ ks, Ends (k ks)) :
    Ends (readConts i v n s k) := by
  have past : (s.mapCore fun c => { c with hubWait := .none }).Ok := h
  unfold readConts
  dsimp only
  split
  · exact ends_raise past _
  · refine ends_readPieces h i _ _ fun bs => ?_
    split
    · exact ends_raise past _
    · exact hk _

theorem ends_exitWaited (i : Instr) (v : Word) (n : Nat) : Ends (exitWaited i v n s) := by
  have hw : (s.mapCore fun c => { c with hubWait := .exitWait }).Ok := h
  have past : ((s.mapCore fun c => { c with hubWait := .exitWait }).mapCore fun c => { c with hubWait := .none }).Ok := h
  refine ends_ite (ends_waiting hw) (ends_ite ?_ (ends_reportOr past _ (ends_ite (ends_next (past.finishExit _)) ?_)))
  · exact ends_readConts hw i v n fun ks => ends_next (hw.sendGroup v ks)
  · exact ends_readConts hw i v n fun ks => ends_next (hw.sendGroup v ks)

theorem ends_exit (a : SReg) (n : Fin 5) : Ends (execExit a n s) := by
  have past : (s.mapCore fun c => { c with hubWait := .none }).Ok := h
  refine ends_ite (ends_raise h _) ?_
  split
  · exact ends_waiting h
  · exact ends_raise past _
  · exact ends_exitWaited h _ _ _
  · exact ends_ite (ends_exitWaited h _ _ _) (ends_ite (ends_stalled h) (ends_readConts h _ _ _ fun _ => ends_next h))

end

end Sys2Proof.Machine
end

section
/-! PROOF. The launch queues, the loads and the starts of clauses keep the canonical form of memory (O58). -/

namespace Sys2Proof.Machine

/-! ## The launch queues -/

section
variable {s : State} (h : s.Ok)
include h

theorem ends_continuationArrival : Ends (execContinuationArrival s) := by
  have refuse (f : Hub → Hub) (cid cause : Nat) (tval : Word) :
      Ends (.next ((s.onHub f).onCore cid fun c => { c with hubWait := .exitRefused cause tval, run := .run })) :=
    ends_next ((h.onHub f).onCore cid fun _ hc => hc)
  unfold execContinuationArrival
  split
  · split
    · exact ends_next h
    · dsimp only
      split
      · exact refuse _ _ _ _
      · split
        · exact refuse _ _ _ _
        · exact ends_next (((h.onHub _).setPlaced _ _).finishExit _)
  · exact ends_next h

theorem ends_producerIndexWrite : Ends (execProducerIndexWrite s) := by
  unfold execProducerIndexWrite
  split
  · exact ends_ite (ends_next h) (ends_ite (ends_next h) (ends_next h))
  · exact ends_next h

theorem State.Ok.serveOverflow (q : Nat) (refuse : Bool) : (s.serveOverflow q refuse).Ok := by
  have hr (ctx va : Nat) := h.readGlobal ctx va 64
  have hg {g : Gmem} (hg : g.wf = true) (f : Hub → Hub) : (({ s with gmem := g } : State).onHub f).Ok :=
    (h.withGmem hg).onHub f
  unfold State.serveOverflow
  dsimp only
  split
  · exact h
  · specialize hr ((s.hub.queue q).owner.getD 0)
      ((s.hub.queue q).recordVa ((s.hub.queue q).ovNext - (s.hub.queue q).ovCount))
    split
    · exact h
    · next e => rw [e] at hr; exact State.Ok.ite (hg hr _) (h.withGmem hr)
    · next e => rw [e] at hr; exact hg hr _
    · next e =>
      rw [e] at hr
      split
      · exact hg hr _
      · exact hg hr _

theorem State.Ok.serveSource (k : Nat) (refuse : Bool) : (s.serveSource k refuse).Ok := by
  unfold State.serveSource
  exact State.Ok.ite (State.Ok.serveOverflow (h.onHub _) _ _) h

theorem ends_overflowDrain : Ends (execOverflowDrain s) := by
  unfold execOverflowDrain
  dsimp only
  split
  · exact ends_next (h.serveSource _ _)
  · exact ends_next h

theorem ends_submissionConsume : Ends (execSubmissionConsume s) := by
  unfold execSubmissionConsume
  split
  · exact ends_ite (ends_next (h.serveSource _ _)) (ends_next h)
  · exact ends_next h

theorem ends_queueThaw : Ends (execQueueThaw s) := by
  unfold execQueueThaw
  split <;> exact ends_next h

theorem ends_queueDescriptorWrite : Ends (execQueueDescriptorWrite s) := by
  unfold execQueueDescriptorWrite
  split <;> exact ends_next h

theorem State.Ok.firmwareIrq (n : Nat) : (s.firmwareIrq n).Ok := h

theorem ends_qwaitExpiry : Ends (execQwaitExpiry s) := by
  unfold execQwaitExpiry
  split
  · dsimp only
    split
    · exact ends_ite (ends_next h) (ends_next h)
    · exact ends_next h
  · exact ends_next h

theorem ends_bindRecord : Ends (execBindRecord s) := by
  unfold execBindRecord
  split
  · dsimp only
    split
    · exact ends_next h
    · split
      · exact ends_next h
      · exact ends_ite (ends_next h) (ends_next h)
  · exact ends_next h

end

/-! ## Loads -/

@[simp] theorem Core.noteLoad_ls (c : Core) (r : ClauseRec) (pos : Nat) : (c.noteLoad r pos).ls = c.ls :=
  Core.ls_ite rfl rfl

theorem State.Ok.loadFrom (r : ClauseRec) (cid : Nat) (refuse : Bool) (fuel : Nat) {s : State} (h : s.Ok) (pos : Nat) :
    (State.loadFrom r cid refuse fuel s pos).1.Ok := by
  induction fuel generalizing s pos with
  | zero => exact h
  | succ fuel ih =>
    unfold State.loadFrom
    split
    · exact h
    · next va la n _ =>
      have hr := Gmem.fetchChunk_ok h.gmem r.ctx va s.hitR
      split
      · exact h
      · exact h
      · exact h
      · next e => rw [e] at hr; exact h.withGmem hr
      · next e =>
        rw [e] at hr
        split
        · exact h
        · next t et =>
          have ht := h.charge t et
          dsimp only
          split
          · next u eu =>
            refine ih (State.Ok.onCore ?_ cid fun c hc => hc.of_ls (c.noteLoad_ls _ _)) _
            exact ((ht.crossBeats eu).withGmem hr).land _ _ _ _
          · exact ((ht.withGmem hr).land false cid la _ :)

section
variable {s : State} (h : s.Ok)
include h

theorem State.Ok.loadMember (r : ClauseRec) (m : GangMember) (refuse : Bool) : (s.loadMember r m refuse).1.Ok := by
  have go (pos : Nat) := State.Ok.loadFrom r m.cid refuse (r.codelen / chunkSize + 4) h pos
  unfold State.loadMember
  dsimp only
  split
  · split <;> exact go _
  · exact go _
  · exact go _
  · exact h

theorem State.Ok.loadAll (b : Bind) (refuse : Bool) : (s.loadAll b refuse).1.Ok := by
  unfold State.loadAll
  exact List.foldlRecOn (motive := fun acc : State × List GangMember => acc.1.Ok) b.members _ h fun _ h m _ => h.loadMember b.record m refuse

/-! ## Starts -/

theorem State.Ok.refuseOthers (cid ctx : Nat) : (s.refuseOthers cid ctx).Ok := by
  refine State.Ok.foldl ?_ _ fun _ h _ => h.answer _
  exact h.onCore cid fun _ hc => hc

theorem State.Ok.startAt (cid ctx : Nat) : (s.startAt cid ctx).Ok :=
  ((h.startClauseBars cid).applyRest cid).refuseOthers cid ctx

omit h in
@[simp] theorem Core.startClause_ls (c : Core) (b : Bind) (m : GangMember) (q : LaunchQueue) (now : Nat) :
    (c.startClause b m q now).ls = c.ls := by
  show (c.toIdle.startClears.startArgs b).ls = c.ls
  simp only [Core.startArgs, Core.wrS_ls]
  rfl

theorem State.Ok.startMember (b : Bind) (m : GangMember) : (s.startMember b m).Ok :=
  State.Ok.onCore (h.startAt _ _) _ fun c hc => hc.of_ls (c.startClause_ls _ _ _ _)

theorem State.Ok.startGang (b : Bind) : (s.startGang b).Ok :=
  State.Ok.onHub (State.Ok.foldl h b.members (f := fun s m => s.startMember b m) fun _ h m => h.startMember b m) _

theorem State.Ok.failLoad (b : Bind) (cid va : Nat) : (s.failLoad b cid va).Ok := h

theorem ends_loadDone (k : Nat) (refuse : Bool) : Ends (loadDone k refuse s) := by
  unfold loadDone
  split
  · exact ends_next h
  · next b _ =>
    have hl := h.loadAll b refuse
    refine ends_ite (ends_next h) ?_
    generalize s.loadAll b refuse = r at hl
    obtain ⟨t, ms⟩ := r
    refine ends_ite (ends_next (State.Ok.onHub hl _)) ?_
    split
    · exact ends_next (State.Ok.failLoad hl _ _ _)
    · exact ends_next (State.Ok.startGang hl _)

theorem ends_clauseLoadDone : Ends (execClauseLoadDone s) := by
  unfold execClauseLoadDone
  split
  · exact ends_loadDone h _ _
  · exact ends_loadDone h _ _
  · exact ends_next h

theorem State.Ok.hostRegister {w : HaltedWrite} (t : State) (e : s.hostRegister w = some t) : t.Ok := by
  cases w with
  | pc | store => cases e
  | s r x => cases e; exact h.mapCore fun c hc => hc.of_ls (c.wrS_ls _ _)
  | q r x => cases e; exact h.mapCore fun c hc => hc.of_ls (c.wrQ_ls _ _)
  | f | v | scale | t | z => cases e; exact h
  | sys r x =>
    unfold State.hostRegister at e
    dsimp only at e
    split at e
    · next eq => cases e; exact h.hostSys eq
    · cases e

theorem ends_hostStart : Ends (execHostStart s) := by
  unfold execHostStart
  split
  · refine ends_ite (ends_next h) (ends_next (State.Ok.mapCore ?_ fun _ hc => hc))
    refine State.Ok.foldl ?_ _ fun _ h _ => h.getD h.hostRegister
    exact (h.startAt _ _).mapCore fun _ hc => hc
  · exact ends_next h

/-! ## Clauses that end in a fault -/

theorem State.Ok.flush (cid : Nat) : (s.flush cid).Ok := h.onCore cid fun _ hc => hc

theorem State.Ok.fatal (cid cause : Nat) (epc tval : Word) : (s.fatal cid cause epc tval).Ok := by
  have hf := h.flush cid
  unfold State.fatal
  dsimp only
  split
  · exact State.Ok.leave (hf.onHub _) cid
  · refine State.Ok.leave ?_ cid
    exact hf.onCore cid fun _ hc => hc

theorem State.Ok.registerError (pc : Word) : (s.registerError pc).Ok := h.fatal _ _ _ _

theorem State.Ok.stopMember : s.stopMember.Ok := (h.flush _).leave _

theorem ends_bindWatchdogFirst : Ends (execBindWatchdogFirst s) := ends_ite (ends_next h) (ends_next h)

theorem ends_bindWatchdogSecond : Ends (execBindWatchdogSecond s) :=
  ends_ite (ends_next h) (ends_next (h.fatal _ _ _ _))

/-! ## The ends of copy requests -/

theorem ends_copyComplete : Ends (execCopyComplete s) := by
  have bad (ch : Chan) (x : Xfer) : (s.mapCore fun c => c.completeBad ch x).Ok :=
    h.mapCore fun c hc => hc.of_ls (c.complete_ls ch _)
  refine ends_withChan h fun ch => ?_
  split
  · exact ends_ite (ends_next h) (ends_ite (ends_next (h.landCarry _ _)) (ends_ite (ends_next h)
      (ends_ite (ends_next ((bad _ _).registerError _))
        (ends_next (h.mapCore fun c hc => hc.of_ls (c.completeNext_ls _ _))))))
  · exact ends_next h

end

end Sys2Proof.Machine
end

section
/-! PROOF. Sound groups keep the canonical form of memory (O58). -/

namespace Sys2Proof.Machine

/-! ## Sound stores at the issuer -/

section
variable {s : State} (h : s.Ok)
include h

theorem State.Ok.sendSound (r : SoundReq) : (s.sendSound r).Ok := by
  unfold State.sendSound
  split
  · exact h
  · split
    · next e => exact h.transmit _ e
    · exact h

theorem State.Ok.issueSound (a o : Word) (bs : List Byte) : (s.issueSound a o bs).Ok := by
  refine State.Ok.sendSound ?_ _
  exact h

theorem ends_soundStore (i : Instr) (a b : SReg) (n m : Nat) {data : (List Byte → Result) → Result}
    (hd : ∀ k, (∀ bs, Ends (k bs)) → Ends (data k)) : Ends (soundStore i a b n m s data) := by
  unfold soundStore
  dsimp only
  split
  · exact ends_raise h _
  · exact hd _ fun bs => ends_ite (ends_waiting h) (ends_doneIn (h.issueSound _ _ _) i)

theorem ends_sst (o : SstOp) : Ends (execSst o s) :=
  ends_afterWait h _ (ends_soundStore h _ _ _ _ _ fun _ hk => hk _)

theorem ends_sstv (o : SstvOp) : Ends (execSstv o s) :=
  ends_afterWait h _ (ends_drained h (ends_soundStore h _ _ _ _ _ fun _ hk => hk _))

theorem ends_sstl (o : SstlOp) : Ends (execSstl o s) := by
  refine ends_afterWait h _ (ends_drained h (ends_soundStore h _ _ _ _ _ fun k hk => ?_))
  split
  · exact ends_raise h _
  · exact ends_readPieces h _ _ _ hk

theorem ends_sndseq (d a : SReg) : Ends (execSndseq d a s) := by
  unfold execSndseq
  dsimp only
  split
  · exact ends_raise h _
  · split
    · exact ends_waiting h
    · next e => exact ends_done (h.withCore (h.core.of_ls (Core.transcribe_ls e))) _ fun c hc => by simpa using hc

theorem ends_sndwait (a b : SReg) : Ends (execSndwait a b s) := by
  unfold execSndwait
  dsimp only
  split
  · exact ends_raise h _
  · exact ends_ite (ends_doneIn h _) (ends_ite (ends_raise h _) (ends_waiting h))

end

/-! ## Members -/

@[simp] theorem Core.applyChange_ls (c : Core) (cid : Nat) (st : Stamped) (x : SoundChange) :
    (c.applyChange cid st x).ls = c.ls := by
  cases x with
  | add | remove | revoke => exact Core.ls_ite rfl rfl
  | skip | close => rfl

@[simp] theorem Core.reclass_ls (c : Core) (tag : Nat) (far : Bool) : (c.reclass tag far).ls = c.ls := by
  unfold Core.reclass
  split <;> rfl

@[simp] theorem Core.soundStatus_ls (c : Core) (x : SoundSum) (o : OutOp) : (c.soundStatus x o).ls = c.ls := by
  unfold Core.soundStatus
  refine Core.ls_ite (Core.recordFailure_ls _ _) (Core.ls_ite rfl ?_)
  exact Core.ls_ite ((Core.recordFailure_ls _ _).trans (Core.ls_ite rfl rfl)) (Core.ls_ite rfl rfl)

namespace State.Ok
variable {s : State} (h : s.Ok)
include h

theorem homeAnswer (r : SoundAns) : (s.homeAnswer r).Ok := h

theorem tellHome (r : SoundAns) : (s.tellHome r).Ok := State.Ok.ite (h.homeAnswer r) (h.transmitOrPark _ _ _)

theorem sendCopy (dest : Nat) (st : Stamped) : (s.sendCopy dest st).Ok := by
  unfold State.sendCopy
  refine State.Ok.ite h (State.Ok.ite (h.transmitOrPark _ _ _) ?_)
  split
  · next e => exact h.transmit _ e
  · exact (h.homeAnswer _).transmitOrPark _ _ _

theorem reclass (issuer ctx tag : Nat) (far : Bool) : (s.reclass issuer ctx tag far).Ok := by
  unfold State.reclass
  split
  · exact h
  · split
    · exact h
    · exact h.onCore _ fun c hc => hc.of_ls (c.reclass_ls _ _)

theorem stamp (r : SoundReq) (gidx : Nat) (g : Group) : (s.stamp r gidx g).Ok := by
  refine State.Ok.foldl ?_ _ fun _ h _ => h.sendCopy _ _
  refine State.Ok.reclass ?_ _ _ _ _
  exact h

/-- A change of what the saved members hold. -/
theorem onHeld {f : SavedMember → SavedMember} (hf : ∀ m, (f m).core = m.core) :
    State.Ok { s with saved := s.saved.map f } := by
  refine h.withSaved fun m hm => ?_
  obtain ⟨m0, hm0, rfl⟩ := List.mem_map.1 hm
  rw [hf]
  exact h.2.2.1 m0 hm0

theorem hold (cid ctx : Nat) (x : Held) : (s.hold cid ctx x).Ok := by
  refine h.onHeld fun m => ?_
  split <;> rfl

theorem raise_ (cid : Nat) (st : Stamped) (ok : Bool) : (s.raise_ cid st ok).Ok := by
  refine State.Ok.tellHome ?_ _
  exact h.onCore cid fun _ hc => hc

theorem takeNext (cid : Nat) (m : Membership) (st : Stamped) : (s.takeNext cid m st).Ok := by
  unfold State.takeNext
  split
  · next x _ =>
    have h1 := h.onCore cid (f := fun c => (c.onMember st.handle fun m => { m with applied := st.seq }).applyChange cid st x)
      fun c hc => hc.of_ls (Core.applyChange_ls _ _ _ _)
    exact State.Ok.ite (h1.tellHome _) h1
  · split
    · exact h.raise_ _ _ _
    · exact (h.hold _ _ _).raise_ _ _ _
    · exact h.onCore cid fun _ hc => hc

theorem passed (cid : Nat) (st : Stamped) : (s.passed cid st).Ok := State.Ok.ite (h.tellHome _) h

theorem forget (cid : Nat) (st : Stamped) : (s.forget cid st).Ok := by
  refine State.Ok.foldl ?_ _ fun _ h _ => h.passed _ _
  exact h.onCore cid fun _ hc => hc

theorem applyAt (cid : Nat) (st : Stamped) : (s.applyAt cid st).Ok := by
  refine State.Ok.onCore ?_ cid fun c hc => hc.of_ls (Core.applyChange_ls c _ _ _)
  split
  · exact h.forget _ _
  · exact h

omit h in
theorem takeHeld (cid : Nat) (a : Word) (fuel : Nat) {s : State} (h : s.Ok) : (State.takeHeld cid a fuel s).Ok := by
  induction fuel generalizing s with
  | zero => exact h
  | succ fuel ih =>
    unfold State.takeHeld
    refine State.Ok.ite h ?_
    split
    · split
      · exact h
      · refine ih (State.Ok.applyAt ?_ _ _)
        exact h.onCore cid fun _ hc => hc
    · split
      · exact h
      · refine ih (State.Ok.takeNext ?_ _ _ _)
        exact h.onCore cid fun _ hc => hc

theorem takeUp (cid : Nat) (a : Word) : (s.takeUp cid a).Ok := State.Ok.takeHeld _ _ _ h

theorem applySound (cid : Nat) (x : Applying) (st : Stamped) : (s.applySound cid x st).Ok := by
  have hw (k : Nat) : State.Ok (if x.bytes.isEmpty then s else s.onCore cid fun c => c.applyWrite x.addr (x.bytes.take k)) :=
    State.Ok.ite h (h.onCore cid fun _ hc => hc.applyWrite _ _)
  refine State.Ok.ite (State.Ok.takeUp (State.Ok.raise_ ?_ _ _ _) _ _) ((hw _).onCore cid fun _ hc => hc)
  exact (hw _).onCore cid fun _ hc => hc

theorem arriveCopy {c : SoundCopy} {t : State} (e : s.arriveCopy c = some t) : t.Ok := by
  have held (b : Bool) : (s.onCore c.dest fun k => k.holdStamped c.st b).Ok :=
    h.onCore _ fun k hk => hk.of_ls (Core.ls_ite rfl rfl)
  unfold State.arriveCopy at e
  dsimp only at e
  split at e
  · split at e <;> cases e
    · exact h.forget _ _
    · exact (h.applyAt _ _).takeUp _ _
  · split at e
    · split at e
      · cases e; exact (h.takeNext _ _ _).takeUp _ _
      · split at e
        · cases e; exact h.passed _ _
        · split at e <;> cases e
          exact held _
    · split at e
      · cases e; exact h.passed _ _
      · split at e <;> cases e
        exact held _

theorem completeSound (x : SoundSum) : (s.completeSound x).Ok := by
  refine h.onCore _ fun c hc => ?_
  split
  · exact hc.of_ls ((Core.soundStatus_ls _ _ _).trans (c.closeOut_ls _))
  · exact hc

theorem stampChange (gidx : Nat) (g : Group) (x : SoundChange) : (s.stampChange gidx g x).Ok := by
  refine State.Ok.foldl ?_ _ fun _ h _ => h.sendCopy _ _
  exact h

theorem tellMember (gidx : Nat) (g : Group) (m : GroupMember) (x : SoundChange) : (s.tellMember gidx g m x).Ok := by
  unfold State.tellMember
  dsimp only
  split
  · exact State.Ok.ite ((h.applyAt _ _).takeUp _ _) (h.sendCopy _ _)
  · exact h.sendCopy _ _

theorem freeGroup (gidx : Nat) (g : Group) : (s.freeGroup gidx g).Ok := by
  refine State.Ok.foldl ?_ _ fun _ h _ => h.tellMember _ _ _ _
  exact h

end State.Ok

/-! ## The steps -/

section
variable {s : State} (h : s.Ok)
include h

theorem ends_soundStamp : Ends (execSoundStamp s) := by
  unfold execSoundStamp
  split
  · split
    · exact ends_next h
    · refine ends_ite (ends_next h) (ends_ite (ends_next h) ?_)
      split
      · exact ends_next (State.Ok.stamp (h.withSound _) _ _ _)
      · exact ends_next h
  · exact ends_next h

theorem ends_soundMemberApply : Ends (execSoundMemberApply s) := by
  unfold execSoundMemberApply
  split
  · split
    · exact ends_next h
    · refine ends_ite (ends_next h) ?_
      split
      · next e => exact ends_next (State.Ok.arriveCopy (h.withSound _ :) e)
      · exact ends_next h
  · split
    · split
      · exact ends_next (h.applySound _ _ _)
      · exact ends_next h
    · exact ends_next h
  · exact ends_next h

theorem ends_soundRetry : Ends (execSoundRetry s) := by
  unfold execSoundRetry
  split
  · split <;> exact ends_next h
  · exact ends_next h

theorem ends_soundCompletion : Ends (execSoundCompletion s) := by
  unfold execSoundCompletion
  split
  · split
    · exact ends_next h
    · have gone (x : Sound) := h.withSound x
      exact ends_ite (ends_next h) (ends_ite (ends_next ((gone _).completeSound _))
        (ends_next ((gone _).getD (gone _).transmit)))
  · split
    · next e => exact ends_next ((h.inboxAt e).completeSound _)
    · exact ends_next h
  · exact ends_next h

theorem ends_membershipChange : Ends (execMembershipChange s) := by
  unfold execMembershipChange
  split
  · split
    · exact ends_next h
    · exact ends_ite (ends_next h) (ends_ite (ends_ite (ends_next h) (ends_next h)) (ends_next (h.stampChange _ _ _)))
  · exact ends_next h

theorem ends_groupTableWrite : Ends (execGroupTableWrite s) := by
  unfold execGroupTableWrite
  split
  · split
    · exact ends_ite (ends_next h) (ends_next h)
    · refine ends_ite (ends_next h) (ends_next (State.Ok.foldl ?_ _ fun _ h _ => h.tellMember _ _ _ _))
      exact h
  · split
    · exact ends_ite (ends_next h) (ends_next (h.freeGroup _ _))
    · exact ends_next h
  · exact ends_next h

end

end Sys2Proof.Machine
end

section
/-! PROOF. The selection-and-copy engine keeps the canonical form of memory (O58). -/

namespace Sys2Proof.Machine

@[simp] theorem Core.released_ls (c : Core) (d : SReg) (result winner : Nat) (words : List Word) (elite : Bool) :
    (c.released d result winner words elite).ls = c.ls := by
  have h1 : (c.wrS d (BitVec.ofNat 64 result)).ls = c.ls := c.wrS_ls _ _
  have h2 (e : Core) (h : e.ls = c.ls) :
      (if 1 ≤ result then e.observe.wrS 3 (BitVec.ofNat 64 winner) else e).ls = c.ls :=
    Core.ls_ite ((e.observe.wrS_ls _ _).trans h) h
  refine Eq.trans (b := (if result == 2 then _ else _ : Core).ls) rfl (Core.ls_ite ?_ (h2 _ h1))
  exact (Core.foldl_ls (fun (e : Core) (x : Word × Nat) => e.wrS_ls _ x.1) _ _).trans (h2 _ h1)

@[simp] theorem Core.release_ls (c : Core) (gen : BitVec 40) (p : GendPhase) : (c.release gen p).ls = c.ls :=
  Core.ls_ite rfl rfl

namespace State.Ok
variable {s : State} (h : s.Ok)
include h

theorem onPop (slot : Nat) (f : Population → Population) : (s.onPop slot f).Ok := h
theorem onJobs (f : List SceJob → List SceJob) : (s.onJobs f).Ok := h
theorem noteArrival (m : SceMsg) : (s.noteArrival m).Ok := h
theorem logDone (slot : Nat) : (s.logDone slot).Ok := h
theorem logLost (slot : Nat) : (s.logLost slot).Ok := h
theorem injFired : s.injFired.Ok := h

theorem reportAbsence (slot : Nat) : (s.reportAbsence slot).Ok := by
  unfold State.reportAbsence
  split
  · exact h
  · split
    · exact h
    · split
      · exact h
      · next e => exact (h.tellSce _ e).onPop _ _

theorem sceInboxAt {k : Nat} {b : FlitBody} {t : State} (e : s.sceInboxAt k = some (b, t)) : t.Ok :=
  h.inboxAt (Option.filter_eq_some_iff.1 e).1

theorem closeHere (arrived : List Nat) : (s.closeHere arrived).Ok :=
  h.foldl _ fun _ h cid => State.Ok.ite (h.onCore cid fun _ hc => hc) h

theorem sendSce (pkg : Nat) (b : FlitBody) : (s.sendSce pkg b).Ok := h.transmitOrPark _ _ _

theorem closeGeneration (slot : Nat) (p : Population) : (s.closeGeneration slot p).Ok := by
  refine State.Ok.foldl (State.Ok.closeHere ?_ _) _ fun _ h _ => h.sendSce _ _
  exact h

theorem endJob (x : SceJob) (failed : Option Nat) : (s.endJob x failed).Ok := by
  unfold State.endJob
  exact State.Ok.ite h ((h.onJobs _).sendSce _ _)

theorem stepJob (x : SceJob) (gl n : Nat) : (s.stepJob x gl n).Ok := State.Ok.ite (h.endJob _ _) h

theorem landWindow {p : Population} {l : Loser} {pos : Nat} {bs : List Byte} (t : State)
    (e : s.landWindow p l pos bs = some t) : t.Ok := by
  unfold State.landWindow at e
  dsimp only at e
  split at e <;> cases e
  exact h.land _ _ _ _

theorem chargeCopy {p : Population} {l : Loser} {bs : List Byte} {t : State} (e : s.chargeCopy p l bs = some t) : t.Ok :=
  h.charge t e

/-- What a chunk that begins leaves. -/
theorem beginChunk (p : Population) (x : SceJob) (bs : List Byte) :
    ∀ t, s.beginChunk p x bs = .fail t ∨ s.beginChunk p x bs = .go t → t.Ok := by
  have poison (a n : Nat) : (s.onCore x.l.cid fun c => c.landPoison a n).Ok := h.onCore _ fun _ hc => hc
  intro t ht
  unfold State.beginChunk at ht
  dsimp only at ht
  split at ht
  · rcases ht with ht | ht <;> cases ht
    exact State.Ok.ite (poison _ _) h
  · split at ht
    · rcases ht with ht | ht <;> cases ht
      exact h
    · split at ht
      · rcases ht with ht | ht <;> cases ht
      · next e1 =>
        have h1 := h.chargeCopy e1
        split at ht
        · next e2 =>
          rcases ht with ht | ht <;> cases ht
          exact h1.crossBeats e2
        · rcases ht with ht | ht <;> cases ht
          exact State.Ok.ite (h1.injFired.getD h1.injFired.landWindow) (h1.injFired.getD h1.injFired.transmit)

theorem runJob (x : SceJob) : (s.runJob x).Ok := by
  unfold State.runJob
  split
  · exact h.endJob _ _
  · next p _ =>
    extract_lets c l y n bs here move
    have hm (t : State) (ht : t.Ok) : (move t).Ok := by
      unfold move
      dsimp only
      split
      · split
        · next e => exact (ht.landWindow _ e).stepJob _ _ _
        · exact ht.endJob _ _
      · split
        · next e =>
          have h2 := ht.transmit _ e
          exact h2
        · exact ht.endJob _ _
    refine State.Ok.ite h (State.Ok.ite (hm s h) ?_)
    have hb := h.beginChunk p y bs
    split
    · exact h
    · next e => exact (hb _ (.inl e)).endJob _ _
    · next e => exact hm _ (hb _ (.inr e))

theorem askCopy (slot j : Nat) (p : Population) (l : Loser) : (s.askCopy slot j p l).Ok := by
  unfold State.askCopy
  exact State.Ok.ite h ((h.onPop _ _).sendSce _ _)

theorem ackCopy (x : SceJob) (ok : Bool) : (s.ackCopy x ok).Ok := h.sendSce _ _

theorem landData (p : Population) (x : SceJob) (bs : List Byte) (lost : Bool) : (s.landData p x bs lost).Ok := by
  unfold State.landData
  dsimp only
  split
  · exact h.ackCopy _ _
  · next t e =>
    have ht : t.Ok := by
      split at e
      · exact h.landWindow t e
      · cases e
    exact State.Ok.ite (ht.ackCopy _ _) ht

theorem sceService {b : FlitBody} (t : State) (e : s.sceService b = some t) : t.Ok := by
  unfold State.sceService at e
  split at e
  · cases e; exact h
  · split at e
    · cases e; exact h.ackCopy _ _
    · split at e <;> cases e
      exact h.landData _ _ _ _
  · cases e
    split
    · exact h
    · split
      · exact State.Ok.ite (h.stepJob _ _ _) (h.endJob _ _)
      · exact h.endJob _ _
  · cases e; exact h
  · cases e

theorem logNext (slot : Nat) (refuse : Bool) : (s.logNext slot refuse).Ok := by
  unfold State.logNext
  split
  · exact h
  · next p _ =>
    split
    · exact h
    · next l _ =>
      have hw := Gmem.writeChunk_ok h.gmem p.ctx p.logVa (p.record slot l) s.hitR s.hitW
      dsimp only
      split
      · next e =>
        rw [e] at hw
        split
        · next e1 => exact ((h.charge _ e1).withGmem hw).logDone _
        · exact h
      · exact h
      · exact State.Ok.ite (h.logLost _) h
      · exact h.logLost _
      · next e => rw [e] at hw; exact (h.withGmem hw).logLost _

theorem releaseMember (ctx cid : Nat) (gen : BitVec 40) (p : GendPhase) : (s.releaseMember ctx cid gen p).Ok := by
  unfold State.releaseMember
  split
  · exact h.onSaved (f := fun c => c.pend 3) fun _ hc => hc
  · exact h.onCore cid fun c hc => hc.of_ls (c.release_ls _ _)

theorem releaseHere (ctx : Nat) (gen : BitVec 40) (results : List (Nat × GendPhase)) :
    (s.releaseHere ctx gen results).Ok :=
  h.foldl _ fun _ h _ => State.Ok.ite (h.releaseMember _ _ _ _) h

theorem releaseAll (slot : Nat) (p : Population) (k : Closed) : (s.releaseAll slot p k).Ok := by
  refine State.Ok.foldl (State.Ok.releaseHere ?_ _ _ _) _ fun _ h _ => h.sendSce _ _
  exact h

theorem rejoin (slot : Nat) (old new : Option Population) : (s.rejoin slot old new).Ok := by
  refine State.Ok.foldl (State.Ok.foldl h _ fun _ h _ => State.Ok.ite h ?_) _ fun _ h _ => ?_
  · exact h.onCore _ fun _ hc => hc
  · exact h.onCore _ fun _ hc => hc

end State.Ok

/-! ## The rows -/

section
variable {s : State} (h : s.Ok)
include h

theorem ends_gend (d : SReg) : Ends (execGend d s) := by
  unfold execGend
  dsimp only
  split
  · exact ends_done h _ fun c hc => hc.of_ls (c.released_ls _ _ _ _ _)
  · exact ends_waiting h
  · exact ends_waiting h
  · split
    · exact ends_raise h _
    · refine ends_ite (ends_waiting h) (ends_reportOr h _ ?_)
      split
      · next e => exact ends_waiting ((h.tellSce _ e).mapCore fun _ hc => hc)
      · exact ends_waiting h

theorem ends_sceArrival : Ends (execSceArrival s) := by
  unfold execSceArrival
  split
  · split
    · exact ends_next h
    · exact ends_ite (ends_next h) (ends_next h)
  · split
    · next e => exact ends_ite (ends_next h) (ends_next ((h.sceInboxAt e).noteArrival _))
    · exact ends_next h
  · exact ends_next (h.reportAbsence _)
  · exact ends_next h

theorem ends_generationClose : Ends (execGenerationClose s) := by
  unfold execGenerationClose
  split
  · split
    · exact ends_next h
    · exact ends_ite (ends_next h) (ends_next (h.closeGeneration _ _))
  · split
    · next e =>
      split
      · exact ends_next (((h.sceInboxAt e).onPop _ _).closeHere _)
      · exact ends_next (h.sceInboxAt e)
    · exact ends_next h
  · exact ends_next h

theorem ends_sceLoserCopy : Ends (execSceLoserCopy s) := by
  unfold execSceLoserCopy
  split
  · split
    · exact ends_next h
    · split
      · exact ends_next h
      · exact ends_ite (ends_next h) (ends_next (h.askCopy _ _ _ _))
  · exact ends_next (h.logNext _ _)
  · split
    · exact ends_next (h.runJob _)
    · exact ends_next h
  · split
    · next e => exact ends_next (h.getD (h.sceInboxAt e).sceService)
    · exact ends_next h
  · exact ends_next h

theorem ends_generationRelease : Ends (execGenerationRelease s) := by
  unfold execGenerationRelease
  split
  · split
    · exact ends_next h
    · split
      · exact ends_ite (ends_next h) (ends_next (h.releaseAll _ _ _))
      · exact ends_next h
  · split
    · next e =>
      split
      · exact ends_next (((h.sceInboxAt e).onPop _ _).releaseHere _ _ _)
      · exact ends_next (h.sceInboxAt e)
    · exact ends_next h
  · exact ends_next h

theorem ends_populationDescriptorWrite : Ends (execPopulationDescriptorWrite s) := by
  unfold execPopulationDescriptorWrite
  split
  · refine ends_ite (ends_next h) ?_
    split
    · exact ends_next ((h.withSce _).rejoin _ _ _)
    · exact ends_ite (ends_next h) (ends_next ((h.withSce _).rejoin _ _ _))
  · exact ends_next h

end

end Sys2Proof.Machine
end

section
/-! PROOF. Firmware's and the host's steps on global memory keep the canonical form of memory (O58). -/

namespace Sys2Proof.Machine

theorem Gmem.wf_foldl {α : Type} {g : Gmem} (h : g.wf = true) (l : List α) {f : Gmem → α → Gmem}
    (hf : ∀ g, g.wf = true → ∀ x, (f g x).wf = true) : (l.foldl f g).wf = true :=
  List.foldlRecOn (motive := fun g => g.wf = true) l f h fun g h x _ => hf g h x

namespace Gmem
variable {g : Gmem} (h : g.wf = true)
include h

theorem wf_ite {p : Prop} [Decidable p] {g' : Gmem} (h' : g'.wf = true) : (if p then g else g').wf = true := by
  split
  · exact h
  · exact h'

theorem wf_notEvicting (ctx page : Nat) : (g.notEvicting ctx page).wf = true := h

theorem wf_clearA (ctx va lvl pa : Nat) (e : Word) : (g.clearA ctx va lvl pa e).wf = true :=
  Gmem.wf_shoot _ (g.wf_setEntry h _ _) _ _ _

theorem wf_readStored (page f c : Nat) (hit : Bool) : (g.readStored page f c hit).wf = true :=
  Gmem.wf_repair _ (g.wf_count h _ _ _ _ _ _) _ _ _

theorem wf_evictPage (ctx page record pa : Nat) (e : Word) (hit : Bool) :
    (g.evictPage ctx page record pa e hit).wf = true := by
  unfold Gmem.evictPage
  extract_lets f g1 ks bs g2
  have h1 : g1.wf = true := wf_foldl h _ fun g hg c => wf_readStored hg page f c hit
  have h2 : g2.wf = true := Gmem.wf_writeSlots _ (Gmem.wf_shoot _ (g1.wf_setEntry h1 _ _) _ _ _) _ _
  clear_value g2 bs ks g1
  exact wf_ite (wf_notEvicting h1 ctx page) (wf_ite h1 h2)

theorem wf_writePage (page frame : Nat) (ks : List (BitVec 8 × List Byte)) (hitW : Bool) :
    (g.writePage page frame ks hitW).wf = true :=
  wf_foldl h _ fun g hg _ => Gmem.wf_setChunk _ (g.wf_count hg _ _ _ _ _ _) _ _
    (Memory.wf_writeBytes _ _ (Gmem.wf_chunk _ hg _))

theorem wf_setMd (ctx va : Nat) (md : BitVec 8) : (g.setMd ctx va md).wf = true := by
  unfold Gmem.setMd
  split
  · split
    · exact wf_ite (g.wf_setSlotByte h _ _) h
    · exact g.wf_setChunk h _ _ (g.wf_chunk h _)
  · exact h

end Gmem

section
variable {s : State} (h : s.Ok)
include h

theorem State.Ok.failPage (ctx page : Nat) : (s.failPage ctx page).Ok := by
  have h1 : (s.onCores (s.listed.map (·.1)) fun c => c.failStopped ctx page).Ok := h.onCores _ fun _ hc => hc
  unfold State.failPage
  exact State.Ok.foldl (h1.withHub _) _ fun t ht x => State.Ok.ite (ht.logLost _) ht

theorem ends_shootdown : Ends (execShootdown s) := by
  unfold execShootdown
  split
  · split
    · exact ends_next h
    · next e =>
      have hg := Gmem.wf_firmwareSet h.gmem e
      exact ends_ite (ends_next (h.withGmem (Gmem.wf_shoot _ hg _ _ _))) (ends_next h)
  · exact ends_next h

theorem ends_pageEvict : Ends (execPageEvict s) := by
  unfold execPageEvict
  split
  · dsimp only
    split
    · have hg (n : Nat) (e : Word) (pa rec page ctx : Nat) :
          (if n == 0 then s.gmem.evictPage ctx page rec pa e s.hitR else s.gmem.notEvicting ctx page).wf = true :=
        Gmem.wf_ite (Gmem.wf_evictPage h.gmem _ _ _ _ _ _) h.gmem
      exact ends_ite (ends_next h) (ends_ite (ends_next (h.withGmem (hg _ _ _ _ _ _)))
        (ends_ite (ends_next (h.withGmem (Gmem.wf_clearA h.gmem _ _ _ _ _)))
          (ends_ite (ends_next h) (ends_next (h.withGmem h.gmem)))))
    · exact ends_next h
  · exact ends_next h

theorem ends_zoneExpand : Ends (execZoneExpand s) := by
  unfold execZoneExpand
  split
  · dsimp only
    split
    · refine ends_ite (ends_next h) ?_
      split
      · exact ends_next (h.failPage _ _)
      · have hg (page frame pa : Nat) (ks : List (BitVec 8 × List Byte)) (e : Word) :
            ((s.gmem.writePage page frame ks s.hitW).setEntry pa e).wf = true :=
          Gmem.wf_setEntry _ (Gmem.wf_writePage h.gmem _ _ _ _) _ _
        exact ends_ite (ends_next h) (ends_next (h.withGmem (hg _ _ _ _ _)))
    · exact ends_next h
  · exact ends_next h

theorem ends_exportMd : Ends (execExportMd s) := by
  unfold execExportMd
  split
  · exact ends_ite (ends_next (h.withHost _)) (ends_next h)
  · exact ends_next h

theorem ends_importMd : Ends (execImportMd s) := by
  unfold execImportMd
  split
  · exact ends_next (h.withGmem (Gmem.wf_foldl h.gmem _ fun _ hg _ => Gmem.wf_setMd hg _ _ _))
  · exact ends_next h

theorem ends_tokenRefill : Ends (execTokenRefill s) := by
  unfold execTokenRefill
  split
  · split
    · exact ends_ite (ends_next h) (ends_next (h.withHost _))
    · exact ends_next h
  · exact ends_next h

theorem ends_contextShareWrite : Ends (execContextShareWrite s) := by
  unfold execContextShareWrite
  split
  · exact ends_ite (ends_next h) (ends_next (h.withHost _))
  · exact ends_next h

end

end Sys2Proof.Machine
end

section
/-! PROOF. Interrupts, the host's requests and pre-emption keep the canonical form of memory (O58). -/

namespace Sys2Proof.Machine

/-! ## One core -/

@[simp] theorem Core.leaveWfe_ls (c : Core) : c.leaveWfe.ls = c.ls :=
  Core.ls_ite (Core.retire_ls _ _) rfl

@[simp] theorem Core.noteItem_ls (c : Core) (cause : Nat) : (c.noteItem cause).ls = c.ls := by
  have off (d : Core) (b : Bool) (hd : d.ls = c.ls) : (if b then d.diverged else d).ls = c.ls := Core.ls_ite hd hd
  have h1 := off c.leaveWfe c.nextItem.2 c.leaveWfe_ls
  unfold Core.noteItem
  extract_lets b d e
  exact Core.ls_ite h1 ((Core.record_ls _ _ _ _).trans h1)

@[simp] theorem Core.takeReply_ls (c : Core) (r : Reply) : (c.takeReply r).ls = c.ls := by
  unfold Core.takeReply
  split
  · rfl
  · split <;> simp

theorem Core.Ok.landMsg {c : Core} (h : c.Ok) (p : Packet) (a : Word) (ws : List Word) (payload : Option Payload) :
    (c.landMsg p a ws payload).Ok := by
  unfold Core.landMsg
  split
  · exact (h.applyWrite _ _).of_ls (Core.acceptMsg_ls _ _)
  · exact h.of_ls (Core.acceptMsg_ls _ _)

/-! ## Save areas -/

namespace Gmem
variable {g : Gmem} (h : g.wf = true)
include h

theorem wf_withAreas (l : List Nat) : ({ g with areas := l } : Gmem).wf = true := h

theorem wf_saveArea (a n : Nat) (c : Core) : (g.saveArea a n c).wf = true := by
  unfold Gmem.saveArea
  generalize List.range areaChunks = chunks
  refine wf_withAreas (wf_foldl h chunks fun g hg j => ?_) _
  exact g.wf_setChunk hg _ _ (Chunk.wf_store _ _ (g.wf_chunk hg _))

theorem wf_areaBack (a : Nat) : (g.areaBack a).wf = true := h

end Gmem

theorem Gmem.areaStore_wf (g : Gmem) (a : Nat) : (g.areaStore a).wf = true :=
  List.foldlRecOn (motive := fun m : Memory => m.wf = true) _ _ rfl fun _ hm _ _ => Memory.wf_writeBytes _ _ hm

theorem Core.Ok.withStore {m : Memory} (h : m.wf = true) (c : Core) (r : Regs) : Core.Ok { c with ls := m, regs := r } := h

theorem Core.Ok.fromArea (c : Core) (g : Gmem) (a : Nat) : (c.fromArea g a).Ok :=
  Core.Ok.withStore (g.areaStore_wf a) c _

section
variable {s : State} (h : s.Ok)
include h

/-! ## Boundaries and the host's requests -/

theorem State.Ok.withdraw : s.withdraw.Ok := h.withdrawAt _

theorem ends_takeItem (cause : Nat) (tval : Word) {clear : Core → Core} (hc : KeepsOk clear) :
    Ends (takeItem cause tval clear s) :=
  ends_next (h.withdraw.mapCore fun c hk => (hc c hk).of_ls (Core.noteItem_ls _ _))

theorem ends_interruptTake : Ends (execInterruptTake s) := by
  unfold execInterruptTake
  split
  · exact ends_takeItem h _ _ fun _ hc => hc
  · exact ends_next h

theorem ends_copypfTake : Ends (execCopypfTake s) := by
  unfold execCopypfTake
  split
  · exact ends_takeItem h _ _ fun _ hc => hc
  · exact ends_next h

theorem ends_timer : Ends (execTimer s) := ends_next (h.mapCore fun _ hc => hc)

theorem ends_hostHalt : Ends (execHostHalt s) := by
  have ha : s.abortStep.Ok := h.abortBars.mapCore fun _ hc => hc
  have hs : State.Ok { s with saved := s.saved.map fun m => if m.cid == s.cid then { m with haltReq := true } else m } :=
    h.onHeld fun m => by split <;> rfl
  unfold execHostHalt
  exact ends_ite (ends_next h) (ends_ite (ends_next ha) (ends_ite (ends_next hs)
    (ends_ite (ends_next (h.withdraw.mapCore fun _ hc => hc)) (ends_next (h.mapCore fun _ hc => hc)))))

theorem ends_hostStep : Ends (execHostStep s) :=
  ends_ite (ends_next h) (ends_next (h.mapCore fun _ hc => hc))

theorem ends_hostResume : Ends (execHostResume s) := by
  unfold execHostResume
  split
  · exact ends_ite (ends_next h) (ends_next (h.mapCore fun _ hc => hc))
  · exact ends_next h

theorem ends_hostStop : Ends (execHostStop s) := by
  unfold execHostStop
  refine ends_ite (ends_next h) (ends_next (State.Ok.fatal ?_ _ _ _ _))
  exact h.mapCore fun _ hc => hc

theorem ends_hostHaltedWrite : Ends (execHostHaltedWrite s) := by
  have hr : s.refuseWrite.Ok := h
  unfold execHostHaltedWrite
  split
  · refine ends_ite (ends_next h) ?_
    split
    · exact ends_next (h.mapCore fun _ hc => hc)
    · exact ends_ite (ends_next (h.mapCore fun _ hc => hc.landBytes _ _)) (ends_next hr)
    · exact ends_next (hr.getD h.hostRegister)
  · exact ends_next h

/-! ## Pre-emption -/

theorem ends_preemptRequest : Ends (execPreemptRequest s) :=
  ends_ite (ends_next h) (ends_next (h.mapCore fun _ hc => hc))

theorem ends_contextSave : Ends (execContextSave s) := by
  unfold execContextSave
  refine ends_ite (ends_next h) (ends_ite (ends_next (h.registerError _)) ?_)
  split
  · exact ends_next h
  · obtain ⟨h1, h2, h3, h4⟩ := h.withdraw.settleRots
    refine ends_next ⟨h1, h2, fun m hm => ?_, Gmem.wf_saveArea h4 _ _ _⟩
    rcases List.mem_append.1 hm with hm | hm
    · exact h3 m hm
    · rw [List.mem_singleton.1 hm]
      exact h1

theorem State.Ok.divert (p : Packet) (m : SavedMember) : (s.divert p m).Ok := by
  unfold State.divert
  split
  · exact h.nack _ _
  · split
    · exact h.nack _ _
    · have hh := h.hold m.cid p.ctx (.pkt p)
      exact State.Ok.ite (h.nack _ _) (State.Ok.ite (hh.ack _) hh)

theorem State.Ok.divertReply (r : Reply) : (s.divertReply r).Ok := by
  unfold State.divertReply
  split
  · refine h.withSaved fun m hm => ?_
    obtain ⟨m0, hm0, rfl⟩ := List.mem_map.1 hm
    have h0 := h.2.2.1 m0 hm0
    split
    · exact h0.of_ls (Core.recordFailure_ls _ _)
    · exact h0
  · exact h.hold _ _ _

theorem ends_preemptDivert : Ends (execPreemptDivert s) := by
  unfold execPreemptDivert
  split
  · split
    · exact ends_next h
    · split
      · exact ends_ite (ends_next ((h.takePacket _).divert _ _)) (ends_next h)
      · exact ends_next h
  · split
    · exact ends_next h
    · exact ends_ite (ends_next ((h.takeAnswer _).divertReply _)) (ends_next h)
  · exact ends_next h

theorem State.Ok.redeliverPkt (p : Packet) : (s.redeliverPkt p).Ok := by
  unfold State.redeliverPkt
  split
  · exact h.mapCore fun _ hc => hc.applyWrite _ _
  · exact h.mapCore fun _ hc => hc.applyWrite _ _
  · exact h.answer _
  · next k a n v new returns _ =>
    have h1 := h.withCore (h.core.applyAmo k a n v new)
    exact State.Ok.ite (h1.answer _) h1
  · exact h.mapCore fun _ hc => hc.landMsg _ _ _ _
  · exact h.mapCore fun c hc => hc.of_ls (c.applyMint_ls _ _)
  · exact h.mapCore fun _ hc => hc

theorem State.Ok.redeliver (x : Held) : (s.redeliver x).Ok := by
  unfold State.redeliver
  split
  · exact h.redeliverPkt _
  · exact h.mapCore fun c hc => hc.of_ls (c.takeReply_ls _)
  · exact h.mapCore fun _ hc => hc.landBytes _ _

theorem State.Ok.withRestored {m : SavedMember} {a : Nat} {c : Core} (hc : c.Ok) :
    State.Ok { s with saved := s.saved.filter fun x => x != m, core := c, gmem := s.gmem.areaBack a } :=
  ⟨hc, h.2.1, fun x hx => h.2.2.1 x (List.mem_filter.1 hx).1, Gmem.wf_areaBack h.gmem a⟩

theorem State.Ok.resumeMember {m : SavedMember} (hm : m.core.Ok) : (s.resumeMember m).Ok := by
  have hs := (h.refuseOthers s.cid m.core.ids.ctx.toNat).settleRots
  unfold State.resumeMember
  extract_lets s1 good core s2 s3
  have hcore : core.Ok := hm
  have h2 : s2.Ok := hs.withRestored (Core.Ok.ite (Core.Ok.fromArea core s1.gmem m.area) hcore)
  have h3 : s3.Ok := h2.mapCore fun _ hc => hc
  clear_value s2 s3
  exact State.Ok.ite (h3.fatal _ _ _ _) ((h3.foldl _ fun _ h x => h.redeliver x).mapCore fun _ hc => hc)

theorem ends_contextResume : Ends (execContextResume s) := by
  unfold execContextResume
  split
  · split
    · exact ends_next h
    · next m e => exact ends_ite (ends_next h) (ends_next (h.resumeMember (h.2.2.1 m (List.mem_of_getElem? e))))
  · exact ends_next h

end

end Sys2Proof.Machine
end

section
/-! PROOF. The Limdin ports, the host's commands, bring-up and power keep the canonical form of memory (O58). -/

namespace Sys2Proof.Machine

/-! ## Bodies that arrive, fail or go on -/

namespace State.Ok
variable {s : State} (h : s.Ok)
include h

theorem stealArrive (ts : List Task) : (s.stealArrive ts).Ok := h.withWl _

theorem stealDone : s.stealDone.Ok := h.withWl _

theorem deliver (b : FlitBody) : (s.deliver b).Ok := by
  unfold State.deliver
  split
  · exact h
  · exact h
  · exact h.withSound _
  · exact h.withSound _
  · exact h.homeAnswer _
  · exact (h.stealArrive _).stealDone
  · exact h.withWl _
  · exact h
  · exact h.withFabric _

theorem loseCopy (c : SoundCopy) : (s.loseCopy c).Ok :=
  State.Ok.ite (h.transmitOrPark _ _ _) ((h.transmitOrPark _ _ _).tellHome _)

theorem lose (b : FlitBody) : (s.lose b).Ok := by
  unfold State.lose
  split
  · split
    · exact h.nack _ _
    · exact h
    · exact h.nack _ _
  · exact h.withSound _
  · exact h.loseCopy _
  · exact h.stealArrive _
  · exact State.Ok.ite (h.endJob _ _) (h.ackCopy _ _)
  · exact h

theorem pass (pkg : Nat) (b : FlitBody) : (s.pass pkg b).Ok :=
  State.Ok.ite (h.transmitOrPark _ _ _) ((h.lose b).getD h.transmit)

theorem failFlit (f : Flit) : (s.failFlit f).Ok := by
  unfold State.failFlit
  split
  · exact h.lose _
  · exact h.lose _
  · exact h.lose _
  · exact h.lose _
  · exact h.pass _ _

theorem revokeUnreached : s.revokeUnreached.Ok := by
  refine h.foldl _ fun s h x => h.foldl _ fun s h m => ?_
  dsimp only
  split
  · exact h
  · exact State.Ok.ite (h.stampChange _ _ _) h

theorem linkDown (k : Nat) : (s.linkDown k).Ok := by
  have h1 := h.onPort k fun p => { p with up := false, replay := [], queue := [], fails := 0, replayed := none }
  have h2 (l : List Flit) := h1.foldl l fun _ h f => h.failFlit f
  have h3 (l l' : List Flit) := (h2 l).foldl l' fun _ h f => h.pass f.dpkg f.body
  exact (h3 _ _).revokeUnreached.firmwareIrq _

theorem crossBody (w : Bool) (b : FlitBody) : (s.crossBody w b).1.Ok := by
  unfold State.crossBody
  dsimp only
  split
  · split
    · split
      · next e => exact h.crossBeats e
      · exact h.injFired
    · exact h
  · split
    · next e => exact h.crossBeats e
    · exact h.injFired
  · exact h

theorem arriveBody (k : Nat) (b : FlitBody) : (s.arriveBody k b).Ok := (h.crossBody _ b).deliver _

theorem forward (k pkg : Nat) (b : FlitBody) : (s.forward k pkg b).Ok := (h.crossBody _ b).pass _ _

theorem receiveFlit (k : Nat) (f : Flit) : (s.receiveFlit k f).Ok := by
  have h1 := h.onPort k fun p => p.taken f
  exact State.Ok.ite (State.Ok.ite h1 (State.Ok.ite (h1.arriveBody _ _) (h1.forward _ _ _))) (h.onPort _ _)

theorem unpark : s.unpark.Ok := State.Ok.foldl (h.withFabric _) _ fun _ h x => h.transmitOrPark x.1 x.2.1 x.2.2

end State.Ok

section
variable {s : State} (h : s.Ok)
include h

/-! ## Ports -/

theorem ends_flitReceive : Ends (execFlitReceive s) := by
  unfold execFlitReceive
  split
  · exact ends_next (h.receiveFlit _ _)
  · exact ends_next (h.onPort _ _)
  · exact ends_next (h.onPort _ _)
  · exact ends_next (h.onPort _ _)
  · exact ends_next h

theorem ends_flitReplay : Ends (execFlitReplay s) := by
  unfold execFlitReplay
  split
  · exact ends_ite (ends_next h) (ends_ite (ends_ite (ends_next (h.linkDown _)) (ends_next (h.onPort _ _)))
      (ends_next (h.onPort _ _)))
  · exact ends_next h

theorem ends_rekey : Ends (execRekey s) := by
  unfold execRekey
  split
  · exact ends_next (h.onPort _ _)
  · exact ends_next h

theorem ends_keyCounterLimit : Ends (execKeyCounterLimit s) := by
  unfold execKeyCounterLimit
  split
  · exact ends_ite (ends_next h) (ends_next ((h.onPort _ _).firmwareIrq _))
  · exact ends_next h

theorem ends_routeRemoval : Ends (execRouteRemoval s) := by
  unfold execRouteRemoval
  split
  · exact ends_ite (ends_next h) (ends_next (h.withFabric _).revokeUnreached)
  · exact ends_next h

theorem ends_routingTableWrite : Ends (execRoutingTableWrite s) := by
  unfold execRoutingTableWrite
  split
  · exact ends_next (h.withFabric _).unpark.revokeUnreached
  · exact ends_next h

theorem ends_limdinLinkTraining : Ends (execLimdinLinkTraining s) := by
  unfold execLimdinLinkTraining
  split
  · refine ends_ite (ends_next h) ?_
    split
    · exact ends_next h
    · exact ends_next (h.onPort _ _)
  · exact ends_next h

/-! ## The host's commands and attestation -/

theorem State.Ok.onHost (f : HostSide → HostSide) : (s.onHost f).Ok := h.withHost _

theorem ends_lfinjWrite : Ends (execLfinjWrite s) := by
  have hr : s.refuseWrite.Ok := h
  unfold execLfinjWrite
  split
  · exact ends_ite (ends_next hr) (ends_next (h.onHost _))
  · exact ends_next h

theorem ends_onHost (f : HostSide → HostSide) : Ends (.next (s.onHost f)) := ends_next (h.onHost f)

theorem ends_fusedMinimumRaise : Ends (execFusedMinimumRaise s) := by
  unfold execFusedMinimumRaise
  split
  · exact ends_onHost h _
  · exact ends_next h

theorem ends_bar4WindowPlace : Ends (execBar4WindowPlace s) := by
  unfold execBar4WindowPlace
  split
  · exact ends_onHost h _
  · exact ends_next h

theorem ends_hubstatWrite : Ends (execHubstatWrite s) := by
  unfold execHubstatWrite
  split
  · exact ends_onHost h _
  · exact ends_next h

theorem ends_hostMemoryAccess : Ends (execHostMemoryAccess s) := by
  unfold execHostMemoryAccess
  dsimp only
  split
  · split
    · exact ends_next (h.withHost _)
    · exact ends_next h
  · refine ends_ite (ends_next h) ?_
    split
    · exact ends_next (h.withHost _)
    · exact ends_ite (ends_next (h.withGmem (Gmem.wf_writeSlots _ h.gmem _ _))) (ends_next h)
  · exact ends_next h

theorem ends_getMeasurements : Ends (execGetMeasurements s) := by
  unfold execGetMeasurements
  dsimp only
  split <;> exact ends_onHost h _

/-! ## Bring-up and power -/

theorem State.Ok.coldStart : s.coldStart.Ok :=
  ⟨Core.wf_reset, List.forall_mem_nil _, List.forall_mem_nil _, h.gmem⟩

omit h in
/-- A package that powers up has no byte in any memory. -/
theorem State.Ok.poweredUp (cid : Nat) (ni : Nat) (near : Vector (Nat × Nat) 6) (sliceDie : Vector (Fin 6) 96)
    (stackDie : Vector (Fin 6) 12) (clusterDie : Vector (Fin 6) 96) (host : HostSide) (turns : List Turn) (steps : Nat) :
    State.Ok { State.reset with
      cid := cid
      gmem := { Gmem.reset with ni := ni, near := near, sliceDie := sliceDie, stackDie := stackDie, clusterDie := clusterDie }
      host := host, turns := turns, steps := steps } :=
  ⟨Core.wf_reset, List.forall_mem_nil _, List.forall_mem_nil _, Gmem.wf_reset⟩

theorem ends_powerUp : Ends (execPowerUp s) := by
  unfold execPowerUp
  split
  · exact ends_ite (ends_next h) (ends_next (State.Ok.poweredUp _ _ _ _ _ _ _ _ _))
  · exact ends_next h

theorem ends_bringupStepDone : Ends (execBringupStepDone s) := by
  unfold execBringupStepDone
  split
  · next k _ =>
    have h1 := h.onHost fun x => x.dieStep k
    exact ends_ite (ends_next h) (ends_ite (ends_next h1.coldStart) (ends_next h1))
  · exact ends_next h

theorem ends_bringupStepLimit : Ends (execBringupStepLimit s) := ends_ite (ends_next h) (ends_onHost h _)

theorem ends_powerSample : Ends (execPowerSample s) := by
  unfold execPowerSample
  split
  · exact ends_onHost h _
  · exact ends_next h

theorem State.Ok.endSaved (b : Bind) (cause : Nat) (tval : Word) : (s.endSaved b cause tval).Ok := by
  unfold State.endSaved
  split
  · exact h
  · exact h.onHub _

theorem ends_thermalTrip : Ends (execThermalTrip s) := by
  have h1 : (s.busyCores.foldl (fun s cid => s.fatal cid causeEccLocal (s.coreAt cid).pc tripTval) s).Ok :=
    h.foldl _ fun _ h cid => h.fatal _ _ _ _
  have h2 (l : List Bind) := h1.foldl l fun _ h b => h.endSaved b causeEccLocal tripTval
  exact ends_next (((h2 _).onHost _).firmwareIrq _)

end

end Sys2Proof.Machine
end

section
/-! PROOF. The sequencer's step, the ends of waits, and what passes with time keep the canonical form of memory
(O58). -/

namespace Sys2Proof.Machine

/-! ## Steps behind issue -/

section
variable {s : State} (h : s.Ok)
include h

theorem State.Ok.sendSfu : s.sendSfu.Ok := h

theorem ends_sequencerPerform : Ends (execSequencerPerform s) := by
  unfold execSequencerPerform
  split
  · exact ends_next h
  · split
    · exact ends_next h
    · refine ends_ite (ends_next (h.registerError _)) (ends_ite (ends_ite (ends_next h.sendSfu) (ends_next h)) ?_)
      split
      · exact ends_next (h.withCore (h.core.stepRot _ _ _ _ _))
      · exact ends_next (h.withCore (h.core.finishPerform _ _ (h.core.perform _ _)))

theorem ends_wlDispatch : Ends (execWlDispatch s) := by
  unfold execWlDispatch
  split
  · split
    · exact ends_next h
    · refine ends_ite (ends_next h) (ends_ite (ends_next (h.fatal _ _ _ _)) (ends_next (State.Ok.onCore ?_ _ ?_)))
      · exact h.withWl _
      · exact fun c hc => hc.of_ls (c.startTask_ls _ _)
  · exact ends_next h

theorem ends_waitConditionMet : Ends (execWaitConditionMet s) :=
  ends_ite (ends_next (h.mapCore fun _ hc => hc)) (ends_next h)

/-! ## Errors in SRAM -/

theorem State.Ok.withdrawEntry (r : HubRef) : (s.withdrawEntry r).Ok := by
  unfold State.withdrawEntry
  split
  · split
    · exact h.freeGroup _ _
    · exact h
  · exact (h.withSce _).rejoin _ _ _
  · exact h.onHub _
  · exact h.onHub _
  · exact h

theorem State.Ok.readSram : s.readSram.Ok := by
  unfold State.readSram
  refine State.Ok.ite h ?_
  split
  · exact ((h.withHost _).withdrawEntry _).firmwareIrq _
  · exact h.withHost _
  · exact h

/-! ## Transcript regions -/

theorem State.Ok.flushTrans (cid : Nat) : (s.flushTrans cid).Ok := by
  refine State.Ok.onCore ?_ cid fun _ hc => hc
  exact h.foldl _ fun _ h x => h.pokeRecord _ _ _

/-- The memory after the read of a record. -/
theorem State.Ok.readTrans {c : Core} {k : Nat} {g : Gmem} {r : Option TransRec} (e : s.readTrans c k = some (g, r)) :
    g.wf = true := by
  have hr := Gmem.readRange_ok h.gmem c.ids.ctx.toNat s.hitR true 3 ((c.trans.base + 16 * k) % 2 ^ 56) 16 []
  unfold State.readTrans at e
  dsimp only at e
  split at e
  · cases e
    exact h.gmem
  · split at e
    · cases e
    · split at e
      · next e1 =>
        cases e
        rw [e1] at hr
        exact hr
      · next e1 =>
        rw [e1] at hr
        split at e <;> cases e
        exact hr
      · next e1 =>
        cases e
        rw [e1] at hr
        exact hr
      · cases e

theorem State.Ok.loadTrans (cid : Nat) : (s.loadTrans cid).Ok := by
  unfold State.loadTrans
  refine State.Ok.ite h ?_
  split
  · exact h
  · next g r e =>
    exact (h.withGmem (h.readTrans e)).onCore cid fun _ hc => Core.Ok.ite hc hc

theorem State.Ok.syncTrans : s.syncTrans.Ok :=
  State.Ok.ite h (h.foldl _ fun _ h c => (h.flushTrans c.1).loadTrans c.1)

/-! ## The passing of time, and the move of a core -/

theorem State.Ok.tick : s.tick.Ok := by
  have h1 : (if s.host.sram.clean then s else s.readSram).Ok := State.Ok.ite h h.readSram
  exact h1.flushWrites.syncTrans

theorem State.Ok.counted : s.counted.Ok := h

theorem State.Ok.enteredOk (i : Instr) : (s.enteredOk i).Ok := h.mapCore fun _ hc => Core.Ok.ite hc hc

theorem State.Ok.failEntry : s.failEntry.Ok := h.fatal _ _ _ _

end

end Sys2Proof.Machine
end

section
/-! PROOF. Every instruction and every step ends in a next state whose memories are in canonical form (O58). -/

namespace Sys2Proof.Machine

theorem exec_ends {s : State} (h : s.Ok) (i : Instr) : Ends (exec i s) := by
  cases i with
  | add o => exact ends_putS h (.add o) _ _
  | sub o => exact ends_putS h (.sub o) _ _
  | and o => exact ends_putS h (.and o) _ _
  | or o => exact ends_putS h (.or o) _ _
  | xor o => exact ends_putS h (.xor o) _ _
  | andn o => exact ends_putS h (.andn o) _ _
  | orn o => exact ends_putS h (.orn o) _ _
  | shl o => exact ends_putS h (.shl o) _ _
  | shr o => exact ends_putS h (.shr o) _ _
  | sra o => exact ends_putS h (.sra o) _ _
  | rol o => exact ends_putS h (.rol o) _ _
  | ror o => exact ends_putS h (.ror o) _ _
  | min o => exact ends_putS h (.min o) _ _
  | max o => exact ends_putS h (.max o) _ _
  | minu o => exact ends_putS h (.minu o) _ _
  | maxu o => exact ends_putS h (.maxu o) _ _
  | seq o => exact ends_putS h (.seq o) _ _
  | sne o => exact ends_putS h (.sne o) _ _
  | slt o => exact ends_putS h (.slt o) _ _
  | sltu o => exact ends_putS h (.sltu o) _ _
  | sle o => exact ends_putS h (.sle o) _ _
  | sleu o => exact ends_putS h (.sleu o) _ _
  | csel o => exact ends_putS h (.csel o) _ _
  | addi64 o => exact ends_putS h (.addi64 o) _ _
  | addi96 o => exact ends_putS h (.addi96 o) _ _
  | andi64 o => exact ends_putS h (.andi64 o) _ _
  | andi96 o => exact ends_putS h (.andi96 o) _ _
  | ori64 o => exact ends_putS h (.ori64 o) _ _
  | ori96 o => exact ends_putS h (.ori96 o) _ _
  | xori64 o => exact ends_putS h (.xori64 o) _ _
  | xori96 o => exact ends_putS h (.xori96 o) _ _
  | shli o => exact ends_putS h (.shli o) _ _
  | shri o => exact ends_putS h (.shri o) _ _
  | srai o => exact ends_putS h (.srai o) _ _
  | roli o => exact ends_putS h (.roli o) _ _
  | seqi o => exact ends_putS h (.seqi o) _ _
  | slti o => exact ends_putS h (.slti o) _ _
  | sltui o => exact ends_putS h (.sltui o) _ _
  | li64 d imm => exact ends_putS h (.li64 d imm) _ _
  | li96 d imm => exact ends_putS h (.li96 d imm) _ _
  | li128 d imm => exact ends_putS h (.li128 d imm) _ _
  | mul o => exact ends_putS h (.mul o) _ _
  | mulh o => exact ends_putS h (.mulh o) _ _
  | mulhu o => exact ends_putS h (.mulhu o) _ _
  | mulhsu o => exact ends_putS h (.mulhsu o) _ _
  | madd o => exact ends_putS h (.madd o) _ _
  | div o => exact ends_divide h (.div o) _ _ _
  | divu o => exact ends_divide h (.divu o) _ _ _
  | rem o => exact ends_divide h (.rem o) _ _ _
  | remu o => exact ends_divide h (.remu o) _ _ _
  | clz o => exact ends_putS h (.clz o) _ _
  | ctz o => exact ends_putS h (.ctz o) _ _
  | popc o => exact ends_putS h (.popc o) _ _
  | brev o => exact ends_putS h (.brev o) _ _
  | bswap o => exact ends_putS h (.bswap o) _ _
  | sext o => exact ends_putS h (.sext o) _ _
  | zext o => exact ends_putS h (.zext o) _ _
  | bext o => exact ends_putS h (.bext o) _ _
  | bins o => exact ends_putS h (.bins o) _ _
  | lea o => exact ends_putS h (.lea o) _ _
  | ld o => exact ends_ld h o
  | st o => exact ends_st h o
  | lamoAdd o => exact ends_lamo h (.lamoAdd o) .add o
  | lamoAnd o => exact ends_lamo h (.lamoAnd o) .and o
  | lamoOr o => exact ends_lamo h (.lamoOr o) .or o
  | lamoXor o => exact ends_lamo h (.lamoXor o) .xor o
  | lamoMin o => exact ends_lamo h (.lamoMin o) .min o
  | lamoMax o => exact ends_lamo h (.lamoMax o) .max o
  | lamoMinu o => exact ends_lamo h (.lamoMinu o) .minu o
  | lamoMaxu o => exact ends_lamo h (.lamoMaxu o) .maxu o
  | lamoSwp o => exact ends_lamo h (.lamoSwp o) .swp o
  | lamoCas o => exact ends_lamo h (.lamoCas o) .cas o
  | fld o => exact ends_fld h o
  | fst o => exact ends_fst h o
  | beq o => exact (ends_branch h o _ : Ends (execBeq o s))
  | bne o => exact (ends_branch h o _ : Ends (execBne o s))
  | blt o => exact (ends_branch h o _ : Ends (execBlt o s))
  | bge o => exact (ends_branch h o _ : Ends (execBge o s))
  | bltu o => exact (ends_branch h o _ : Ends (execBltu o s))
  | bgeu o => exact (ends_branch h o _ : Ends (execBgeu o s))
  | jal64 _ _ => exact ends_jump h _ _ _
  | jalAbs _ _ => exact ends_jump h _ _ _
  | jalr _ => exact ends_jump h _ _ _
  | yield n => exact ends_yield h n
  | fadd o => exact ends_toF h (.fadd o) _ _
  | fsub o => exact ends_toF h (.fsub o) _ _
  | fmul o => exact ends_toF h (.fmul o) _ _
  | fdiv o => exact ends_toF h (.fdiv o) _ _
  | fsqrt o => exact ends_toF h (.fsqrt o) _ _
  | fmin o => exact ends_toF h (.fmin o) _ _
  | fmax o => exact ends_toF h (.fmax o) _ _
  | fminm o => exact ends_toF h (.fminm o) _ _
  | fmaxm o => exact ends_toF h (.fmaxm o) _ _
  | fsgnj o => exact ends_toF h (.fsgnj o) _ _
  | fsgnjn o => exact ends_toF h (.fsgnjn o) _ _
  | fsgnjx o => exact ends_toF h (.fsgnjx o) _ _
  | fma o => exact ends_toF h (.fma o) _ _
  | fms o => exact ends_toF h (.fms o) _ _
  | fnma o => exact ends_toF h (.fnma o) _ _
  | fnms o => exact ends_toF h (.fnms o) _ _
  | feq o => exact ends_toS h (.feq o) _ _
  | flt o => exact ends_toS h (.flt o) _ _
  | fle o => exact ends_toS h (.fle o) _ _
  | funord o => exact ends_toS h (.funord o) _ _
  | fclass d a => exact ends_toS h (.fclass d a) _ _
  | fcvtLD o => exact ends_toS h (.fcvtLD o) _ _
  | fcvtLuD o => exact ends_toS h (.fcvtLuD o) _ _
  | fcvtDL o => exact ends_toF h (.fcvtDL o) _ _
  | fcvtDLu o => exact ends_toF h (.fcvtDLu o) _ _
  | fcvtSD o => exact ends_toF h (.fcvtSD o) _ _
  | fmvSF d a => exact ends_toS h (.fmvSF d a) _ _
  | fmvFS d a => exact ends_toF h (.fmvFS d a) _ _
  | fround o => exact ends_toF h (.fround o) _ _
  | vld o => exact ends_issueV h (.vld o)
  | vldB o => exact ends_issueV h (.vldB o)
  | vlds o => exact ends_issueV h (.vlds o)
  | vst o => exact ends_issueV h (.vst o)
  | vstB o => exact ends_issueV h (.vstB o)
  | vgather o => exact ends_issueIdx h (.vgather o)
  | vscatter o => exact ends_issueIdx h (.vscatter o)
  | vmov o => exact ends_issueV h (.vmov o)
  | vbcs o => exact ends_issueV h (.vbcs o)
  | vbcf o => exact ends_issueV h (.vbcf o)
  | vmvs o => exact ends_vmvs h o
  | vmvf o => exact ends_vmvf h o
  | vsel o => exact ends_issueV h (.vsel o)
  | vslide o => exact ends_issueV h (.vslide o)
  | vperm o => exact ends_issueV h (.vperm o)
  | vpack o => exact ends_issueV h (.vpack o)
  | vunpack o => exact ends_issueV h (.vunpack o)
  | vadd o => exact ends_issueV h (.vadd o)
  | vsub o => exact ends_issueV h (.vsub o)
  | vmul o => exact ends_issueV h (.vmul o)
  | vmulh o => exact ends_issueV h (.vmulh o)
  | vdiv o => exact ends_issueV h (.vdiv o)
  | vsqrt o => exact ends_issueV h (.vsqrt o)
  | vmin o => exact ends_issueV h (.vmin o)
  | vmax o => exact ends_issueV h (.vmax o)
  | vabs o => exact ends_issueV h (.vabs o)
  | vneg o => exact ends_issueV h (.vneg o)
  | vfma o => exact ends_issueV h (.vfma o)
  | vfms o => exact ends_issueV h (.vfms o)
  | vfnma o => exact ends_issueV h (.vfnma o)
  | vclamp o => exact ends_issueV h (.vclamp o)
  | vadds o => exact ends_issueV h (.vadds o)
  | vsubs o => exact ends_issueV h (.vsubs o)
  | vand o => exact ends_issueV h (.vand o)
  | vor o => exact ends_issueV h (.vor o)
  | vxor o => exact ends_issueV h (.vxor o)
  | vnot o => exact ends_issueV h (.vnot o)
  | vshl o => exact ends_issueV h (.vshl o)
  | vshr o => exact ends_issueV h (.vshr o)
  | vsra o => exact ends_issueV h (.vsra o)
  | vshli o => exact ends_issueV h (.vshli o)
  | vshri o => exact ends_issueV h (.vshri o)
  | vsrai o => exact ends_issueV h (.vsrai o)
  | vpopc o => exact ends_issueV h (.vpopc o)
  | vclz o => exact ends_issueV h (.vclz o)
  | vceq o => exact ends_issueV h (.vceq o)
  | vcne o => exact ends_issueV h (.vcne o)
  | vclt o => exact ends_issueV h (.vclt o)
  | vcle o => exact ends_issueV h (.vcle o)
  | vcun o => exact ends_issueV h (.vcun o)
  | qand o => exact ends_issueV h (.qand o)
  | qor o => exact ends_issueV h (.qor o)
  | qxor o => exact ends_issueV h (.qxor o)
  | qnot o => exact ends_issueV h (.qnot o)
  | qset o => exact ends_issueV h (.qset o)
  | qget o => exact ends_qget h o
  | qpopc o => exact ends_qpopc h o
  | vcvt o => exact ends_issueV h (.vcvt o)
  | vrsum o => exact ends_reduction h (.vrsum o) _ _ _
  | vrmax o => exact ends_reduction h (.vrmax o) _ _ _
  | vrmin o => exact ends_reduction h (.vrmin o) _ _ _
  | vdot o => exact ends_reduction h (.vdot o) _ _ _
  | vsclset o => exact ends_issueV h (.vsclset o)
  | vsclget o => exact ends_vsclget h o
  | vrenorm o => exact ends_issueV h (.vrenorm o)
  | vdeq o => exact ends_issueV h (.vdeq o)
  | vquant o => exact ends_issueV h (.vquant o)
  | vexp2 o => exact ends_issueV h (.vexp2 o)
  | vlog2 o => exact ends_issueV h (.vlog2 o)
  | vrcp o => exact ends_issueV h (.vrcp o)
  | vrsqrt o => exact ends_issueV h (.vrsqrt o)
  | vsin o => exact ends_issueV h (.vsin o)
  | vcos o => exact ends_issueV h (.vcos o)
  | vtanh o => exact ends_issueV h (.vtanh o)
  | vsigm o => exact ends_issueV h (.vsigm o)
  | verf o => exact ends_issueV h (.verf o)
  | vrng o => exact ends_issueV h (.vrng o)
  | vrngu o => exact ends_issueV h (.vrngu o)
  | vdrop o => exact ends_issueV h (.vdrop o)
  | vsetsh slot a => exact ends_vsetsh h slot a
  | vloop o => exact ends_vloop h o
  | vitr d slot => exact ends_vitr h d slot
  | vshget d slot f => exact ends_vshget h d slot f
  | tld o => exact ends_issueT h (.tld o)
  | tst o => exact ends_issueT h (.tst o)
  | tzero d => exact ends_issueT h (.tzero d)
  | ttr o => exact ends_issueT h (.ttr o)
  | zzero d tz => exact ends_issueT h (.zzero d tz)
  | zst o => exact ends_issueT h (.zst o)
  | tmma o => exact ends_issueT h (.tmma o)
  | tmmo o => exact ends_issueT h (.tmmo o)
  | tsacc o => exact ends_issueT h (.tsacc o)
  | tepi o => exact ends_issueT h (.tepi o)
  | tmrot o => exact ends_issueT h (.tmrot o)
  | tfol ch op => exact ends_tfol h ch op
  | amsg o => exact ends_plainMsg h (.amsg o) _ _
  | amsgl o => exact ends_plainMsg h (.amsgl o) _ _
  | amsgp o => exact ends_amsgp h o
  | rst o => exact ends_rst h o
  | rstv o => exact ends_rstv h o
  | rld o => exact ends_rld h o
  | ramo o => exact ends_ramo h o
  | wait o => exact ends_wait h o
  | barGang n => exact ends_bar h (.barGang n) _ _
  | barCluster n => exact ends_bar h (.barCluster n) _ _
  | barPackage n => exact ends_bar h (.barPackage n) _ _
  | barFabric n => exact ends_bar h (.barFabric n) _ _
  | bfree a => exact ends_bfree h a
  | mbwait a => exact ends_mbwait h a
  | cpush o => exact ends_cpush h o
  | cpushb o => exact ends_cpushb h o
  | cpwait a ch => exact ends_cpwait h a ch
  | cpfence mask => exact ends_cpfence h mask
  | cpresume ch => exact ends_cpresume h ch
  | wlpush o => exact ends_wlpush h o
  | sst o => exact ends_sst h o
  | sstv o => exact ends_sstv h o
  | sstl o => exact ends_sstl h o
  | sndseq d a => exact ends_sndseq h d a
  | sndwait a b => exact ends_sndwait h a b
  | gend d => exact ends_gend h d
  | mfsr d r => exact ends_readReg h (.mfsr d r) _ _
  | mtsr r a => exact ends_writeReg h (.mtsr r a) _ _
  | scall _ => exact ends_raise h _
  | brk _ => exact ends_raise h _
  | exit a n => exact ends_exit h a n
  | ptouch a => exact ends_ptouch h a
  | mint a cause => exact ends_mint h a cause
  | nop64 => exact ends_doneIn h .nop64
  | nop96 => exact ends_doneIn h .nop96
  | nop128 => exact ends_doneIn h .nop128
  | isync => exact ends_isync h
  | wfe => exact ends_wfe h
  | serve => exact ends_serve h
  | hret => exact ends_hret h
  | vsync => exact ends_vsync h
  | fenceCore => exact ends_fence h .fenceCore _
  | fenceCluster => exact ends_fence h .fenceCluster _
  | fenceDie => exact ends_fence h .fenceDie _
  | fencePackage => exact ends_fence h .fencePackage _
  | fenceFabric => exact ends_fence h .fenceFabric _
  | wlwait => exact ends_wlwait h
  | kret => exact ends_kret h
  | mfsrFpflags => exact ends_withReg h _ fun r x => ends_readReg h (.mfsr x r) x r
  | mtsrFpctl => exact ends_withReg h _ fun r x => ends_writeReg h (.mtsr r x) r x
  | mtsrTshp => exact ends_withReg h _ fun r x => ends_writeReg h (.mtsr r x) r x
  | mtsrWlshift => exact ends_withReg h _ fun r x => ends_writeReg h (.mtsr r x) r x
  | mtsrWlbound => exact ends_withReg h _ fun r x => ends_writeReg h (.mtsr r x) r x
  | mtsrTrctl => exact ends_withReg h _ fun r x => ends_writeReg h (.mtsr r x) r x
  | mtsrAfault => exact ends_withReg h _ fun r x => ends_writeReg h (.mtsr r x) r x
  | mtsrSndstat => exact ends_withReg h _ fun r x => ends_writeReg h (.mtsr r x) r x
  | mtsrIbctl => exact ends_withReg h _ fun r x => ends_writeReg h (.mtsr r x) r x
  | sequencerPerform => exact ends_sequencerPerform h
  | sfuAccept => exact ends_sfuAccept h
  | sfuReturn => exact ends_sfuReturn h
  | tmrotTileReceive => exact ends_tmrotTileReceive h
  | linktimeout => exact ends_linktimeout h
  | barrierArrivalSum => exact ends_barrierArrivalSum h
  | barrierRelease => exact ends_barrierRelease h
  | niApply => exact ends_niApply h
  | niRemoteRead => exact ends_niRemoteRead h
  | niRemoteAtomic => exact ends_niRemoteAtomic h
  | messageAccept => exact ends_messageAccept h
  | spillMove => exact ends_spillMove h
  | ackArrival => exact ends_ackArrival h
  | replyArrival => exact ends_replyArrival h
  | waitConditionMet => exact ends_waitConditionMet h
  | copyBegin => exact ends_copyBegin h
  | copyChunk => exact ends_copyChunk h
  | copyComplete => exact ends_copyComplete h
  | bfreeCredit => exact ends_bfreeCredit h
  | tokenRefill => exact ends_tokenRefill h
  | chunkAccess => exact ends_chunkAccess h
  | chunkRefetch => exact ends_chunkRefetch h
  | shootdown => exact ends_shootdown h
  | pageEvict => exact ends_pageEvict h
  | zoneExpand => exact ends_zoneExpand h
  | exportMd => exact ends_exportMd h
  | importMd => exact ends_importMd h
  | hostMemoryAccess => exact ends_hostMemoryAccess h
  | wlCountIncrement => exact ends_wlCountIncrement h
  | wlCountDecrement => exact ends_wlCountDecrement h
  | wlFloorReceive => exact ends_wlFloorReceive h
  | wlDispatch => exact ends_wlDispatch h
  | wlSliceSpill => exact ends_wlSliceSpill h
  | wlRefill => exact ends_wlRefill h
  | wlMove => exact ends_wlMove h
  | wlFloorExchange => exact ends_wlFloorExchange h
  | wlAnnounceReceive => exact ends_wlAnnounceReceive h
  | wlStealRequest => exact ends_wlStealRequest h
  | wlStealAnswer => exact ends_wlStealAnswer h
  | wlStealReceive => exact ends_wlStealReceive h
  | wlTermination => exact ends_wlTermination h
  | wlTerminationWave => exact ends_wlTerminationWave h
  | wlStallExpiry => exact ends_wlStallExpiry h
  | wlFabricLeave => exact ends_wlFabricLeave h
  | worklistEnable => exact ends_worklistEnable h
  | worklistEmpty => exact ends_worklistEmpty h
  | soundStamp => exact ends_soundStamp h
  | soundMemberApply => exact ends_soundMemberApply h
  | soundRetry => exact ends_soundRetry h
  | soundCompletion => exact ends_soundCompletion h
  | membershipChange => exact ends_membershipChange h
  | groupTableWrite => exact ends_groupTableWrite h
  | sceArrival => exact ends_sceArrival h
  | generationClose => exact ends_generationClose h
  | sceLoserCopy => exact ends_sceLoserCopy h
  | generationRelease => exact ends_generationRelease h
  | populationDescriptorWrite => exact ends_populationDescriptorWrite h
  | mintApply => exact ends_mintApply h
  | interruptTake => exact ends_interruptTake h
  | copypfTake => exact ends_copypfTake h
  | timer => exact ends_timer h
  | hostHalt => exact ends_hostHalt h
  | hostStep => exact ends_hostStep h
  | hostResume => exact ends_hostResume h
  | hostStop => exact ends_hostStop h
  | hostStart => exact ends_hostStart h
  | continuationArrival => exact ends_continuationArrival h
  | templateRead => exact ends_templateRead h
  | overflowDrain => exact ends_overflowDrain h
  | producerIndexWrite => exact ends_producerIndexWrite h
  | submissionConsume => exact ends_submissionConsume h
  | bindRecord => exact ends_bindRecord h
  | clauseLoadDone => exact ends_clauseLoadDone h
  | queueThaw => exact ends_queueThaw h
  | queueDescriptorWrite => exact ends_queueDescriptorWrite h
  | qwaitExpiry => exact ends_qwaitExpiry h
  | bindWatchdogFirst => exact ends_bindWatchdogFirst h
  | bindWatchdogSecond => exact ends_bindWatchdogSecond h
  | preemptRequest => exact ends_preemptRequest h
  | contextSave => exact ends_contextSave h
  | preemptDivert => exact ends_preemptDivert h
  | contextResume => exact ends_contextResume h
  | flitReceive => exact ends_flitReceive h
  | flitReplay => exact ends_flitReplay h
  | routeRemoval => exact ends_routeRemoval h
  | rekey => exact ends_rekey h
  | keyCounterLimit => exact ends_keyCounterLimit h
  | lfinjWrite => exact ends_lfinjWrite h
  | lfinjFire => exact ends_lfinjFire h
  | dbgenSet => exact ends_onHost h _
  | dbgenClear => exact ends_onHost h _
  | fusedMinimumRaise => exact ends_fusedMinimumRaise h
  | bar4WindowPlace => exact ends_bar4WindowPlace h
  | hubstatWrite => exact ends_hubstatWrite h
  | getVersion => exact ends_onHost h _
  | getCapabilities => exact ends_onHost h _
  | negotiateAlgorithms => exact ends_onHost h _
  | getDigests => exact ends_onHost h _
  | getCertificate => exact ends_onHost h _
  | challenge => exact ends_onHost h _
  | getMeasurements => exact ends_getMeasurements h
  | powerUp => exact ends_powerUp h
  | bringupStepDone => exact ends_bringupStepDone h
  | bringupStepLimit => exact ends_bringupStepLimit h
  | powerSample => exact ends_powerSample h
  | thermalTrip => exact ends_thermalTrip h
  | illegalEncoding => exact ends_illegalEncoding h
  | fetchFault => exact ends_fetchFault h
  | hostHaltedWrite => exact ends_hostHaltedWrite h
  | firmwareFaultResolve => exact ends_firmwareFaultResolve h
  | limdinLinkTraining => exact ends_limdinLinkTraining h
  | routingTableWrite => exact ends_routingTableWrite h
  | barrierEntryConfig => exact ends_barrierEntryConfig h
  | contextShareWrite => exact ends_contextShareWrite h
  | spillQueueConfig => exact ends_spillQueueConfig h

section
variable {s : State} (h : s.Ok)
include h

theorem runRow_ends (i : Instr) (inp : Inp) : Ends (s.runRow i inp) := exec_ends (s := { s with inp := inp }) h i

theorem move_ends (m : Move) : Ends (s.move m) := by
  cases m with
  | stay => exact ends_next h
  | stop => exact ends_next h.stopMember
  | failedEntry => exact ends_next h.failEntry
  | regError => exact ends_next (h.registerError _)
  | row i inp => exact runRow_ends h i inp
  | instr i => exact runRow_ends (h.enteredOk i) _ _

theorem take_ends (t : Turn) : Ends (s.take t) := by
  have h1 : (if s.hasCore t.core then s.focus t.core else s).Ok := State.Ok.ite (h.focus _) h
  unfold State.take
  extract_lets s1
  split
  · exact ends_ite (runRow_ends h1 _ _) (move_ends h1 _)
  · exact move_ends h1 _

theorem step_ends : Ends (step s) := take_ends h.tick.counted _

end

/-- Settles O58: every row ends in a next state and keeps the canonical form, and a step is what passes with time and one
row. -/
theorem stepsKeepMemoryCanonical : Obligations.StepsKeepMemoryCanonical := by
  intro s hs
  obtain ⟨t, ht, hok⟩ := step_ends ((s.memOk_iff).1 hs)
  exact ⟨t, ht, (t.memOk_iff).2 hok⟩

end Sys2Proof.Machine
end
